-- ==== Sys2Proof/Word.lean ====
section
/-! DEFINITION. The widths of the GH3264's data, and the numberings of its parts: groups, lanes,
head indices, functions, cores. Plain abbreviations: what is done with them is in Machine/. -/

namespace Sys2Proof

/-- A device register word (R27: registers are aligned 32-bit words). -/
abbrev Word := BitVec 32

/-- A byte of buffer memory or of a host payload. -/
abbrev Byte := BitVec 8

/-- A microword of the control store (R25, R163). -/
abbrev MicroWord := BitVec 128

/-- Groups G0 to G3 (chapter 00, Conventions). -/
abbrev Grp := Fin 4

/-- Lanes LANE[0] to LANE[31]; lane n serves head Hn (R44). -/
abbrev LaneId := Fin 32

/-- Head index within a group: head H(8g+i) has index i (R4). -/
abbrev HeadIx := Fin 8

/-- NVMe functions: 0 is the PF, n is VF n (R390). -/
abbrev Fn := Fin 64

/-- Management cores: 0 control core, 1 management core (chapter 17). -/
abbrev CoreId := Fin 2

/-- Shuttle channels (R495). -/
abbrev Chan := Fin 64

/-- The group of a lane: n div 8 (R44). -/
abbrev LaneId.grp (n : LaneId) : Grp := ⟨n.val / 8, by omega⟩

/-- The head index of a lane within its group: n mod 8 (R44). -/
abbrev LaneId.ix (n : LaneId) : HeadIx := ⟨n.val % 8, by omega⟩

/-- The lane of head index i of group g: 8g + i (R44). -/
abbrev laneOf (g : Grp) (i : HeadIx) : LaneId := ⟨8 * g.val + i.val, by omega⟩

end Sys2Proof
end

