-- ==== Sys2Proof/Syntax.lean ====
section
/-! DEFINITION. The commands and events of the GH3264: one constructor of Instr for every row of
spec/opcode_table.json, with the operands that the row's rule names. Operands that come from the
analogue world, the pack, the host's memory or a timer (samples, verdicts, frames, payloads,
times) are part of the command, because nothing inside the package fixes them. -/

namespace Sys2Proof

/-- Who issues a register access (SYS_BUS_ERR_INFO.INITIATOR). -/
inductive Who where
  | control | management | bar2
  deriving DecidableEq, Repr

/-- A register access as the crossing sees it (R40, R41). -/
structure Access where
  who : Who
  addr : Nat
  write : Bool
  size : Nat
  deriving DecidableEq, Repr

/-- The first failing test's name (SYS_BUS_ERR_INFO.CAUSE). -/
inductive BusCause where
  | unmapped | size | islandOff | timeout | locked | role | range
  deriving DecidableEq, Repr

/-- What a lane's converters and loop detector give for one sector slot (R71, R80, R84, R96). -/
structure SlotIn where
  /-- raw ADC samples in two's complement, per reader, from the first preamble cell to the last pad cell, those of the
  resume fields inside the sector among them (R71, R96) -/
  samplesA : List Byte
  samplesB : List Byte
  /-- preliminary decisions of the loop detector, one for each cell of the sector, resume fields left out -/
  decs : List Bool
  deriving DecidableEq, Repr

/-- A write slot's lane, and what the lane samples meanwhile where the slot is armed with CAPTURE too (R99). -/
structure WriteIn where
  lane : LaneId
  x : SlotIn
  deriving DecidableEq, Repr

/-- What a detector and decoder pass over a sector gives (R91 to R93). -/
structure PassIn where
  /-- unsatisfied-check count after each global iteration, first first -/
  uscs : List Nat
  /-- decoded payload bytes, still scrambled (R65, R66) -/
  payload : List Byte
  /-- the decoded 128-bit internal tag (R340) -/
  tag : BitVec 128
  deriving DecidableEq, Repr

/-- The servo demodulator's record of one wedge for one head (R198). -/
structure ServoRec where
  found : Bool
  wedge : Nat
  cyl : Nat
  frac : Nat
  deriving DecidableEq, Repr

/-- One upstream actuator frame after its comma (R228): the header, type in bits 7:4 and echoed sequence in bits 3:0, VCM
current, status, back-EMF, temperature, CRC-16. -/
structure UpFrame where
  head : BitVec 8
  ivcm : BitVec 16
  status : BitVec 16
  bemf : BitVec 16
  temp : BitVec 8
  crc : BitVec 16
  deriving DecidableEq, Repr

/-- What the WLS sees at one wedge: per head index the arrival of the reference cell against its
expected cell E, in 1/256 cell, late positive, as the head delivers it before the correction by its
offset; none where the servo address mark is not found (R125, R128). -/
structure WedgeIn where
  arrivals : List (Option Int)
  /-- the spindle speed measured over the last wedge, 1/16 rpm (R137) -/
  speed : Nat
  deriving DecidableEq, Repr

/-- Immediate and sector-end write-inhibit inputs (R150), coded as WLS_ABORT_INFO0.CAUSE. -/
inductive InhCause where
  | notLock | theta | preamp | link | pwrfail | speed | mode | servo | firmware | lane
  deriving DecidableEq, Repr

/-- A media request of the scheduler (R180). -/
structure Request where
  kind : Nat
  cyl : Nat
  sect : Nat
  count : Nat
  revs : Nat
  rmask : Nat
  wmask : Nat
  cmask : Nat
  /-- expected tag mode and kind, and the metadata mark of R150 -/
  metaMark : Bool
  deriving DecidableEq, Repr

/-- What the converters and loops report at the end of a PWM period, for the next (R265, R270, R289, R295). -/
structure PwmIn where
  /-- the voltage vector that the current loops command for the next period: its components along phases
  U and V in 1/65,536 of the link voltage; the third is minus their sum (R267) -/
  vecU : Int
  vecV : Int
  /-- the six-step duty of the speed loop for the next period, in 1/65,536 (R296) -/
  duty : Nat
  /-- the two shunt codes of the period, offset included (R265, R268, R270) -/
  code1 : BitVec 14
  code2 : BitVec 14
  /-- further shunt codes taken in the period, with the gates off (R271) -/
  offCodes : List (BitVec 14)
  /-- the shunt code of the extra chopper sample at cycle 3,125 (R317) -/
  brkCode : BitVec 14
  /-- the code of the link at the period centre (R265, R620) -/
  vlink : BitVec 12
  /-- the codes of the phases U, V, W at the period centre (R265, R620) -/
  volts : BitVec 12 × BitVec 12 × BitVec 12
  /-- q-axis current measured, and asked for by the speed loop (negative brakes), mA -/
  iq : Int
  iqWant : Int
  /-- the observer's angle, in 1/65,536 of an electrical turn (R280, R298) -/
  angObs : Nat
  /-- observer residual, mA, and observer speed, 1/16 rpm (R295) -/
  resid : Nat
  obsSpeed : Nat
  deriving DecidableEq, Repr

/-- Spindle phases (R273). -/
inductive Phase where
  | u | v | w
  deriving DecidableEq, Repr

/-- A queue of a function. -/
structure QRef where
  fn : Fn
  sqid : Nat
  deriving DecidableEq, Repr

/-- What Create I/O Submission Queue binds the queue to: its completion queue and its priority class (R425). -/
structure SqUse where
  cqid : Nat
  prio : Nat
  deriving DecidableEq, Repr

/-- A host's write that clears CC.EN of a function, with what CC.AMS then stands at: weighted round robin or not (R396, R454). -/
structure CcClear where
  fn : Fn
  weighted : Bool
  deriving DecidableEq, Repr

/-- SGL descriptor types (R420). -/
inductive SglType where
  | dataBlock | segment | lastSegment | bitBucket | other
  deriving DecidableEq, Repr

/-- An SGL descriptor as HST walks it (R420, R421). -/
structure SglDesc where
  type : SglType
  addr : Nat := 0
  len : Nat
  deriving DecidableEq, Repr

/-- A command's data pointer (R419, R420). -/
inductive DataPtr where
  | prp (prp1 : Nat) (entries : List Nat)
  | sgl (descs : List SglDesc)
  deriving DecidableEq, Repr

/-- Protection-information fields of a command (R409). -/
structure PiArgs where
  pract : Bool
  chkGuard : Bool
  chkApp : Bool
  chkRef : Bool
  type : Nat
  lbat : Nat
  lbatm : Nat
  ilbrt : Nat
  /-- per LBA the guard, application tag and reference tag the host transfers -/
  fields : List (Nat × Nat × Nat)
  deriving DecidableEq, Repr

/-- The fields common to the I/O commands (R399). -/
structure IoArgs where
  cid : Nat
  fuse : Nat
  nsid : Nat
  slba : Nat
  /-- LBAs in the command, at least 1 -/
  count : Nat
  fua : Bool
  limitedRetry : Bool
  ptr : DataPtr
  pi : PiArgs
  deriving DecidableEq, Repr

/-- I/O commands as a submission entry carries them (R399). -/
inductive IoCmd where
  | flush
  | write (data : List (List Byte))
  | read
  | compare (data : List (List Byte))
  | writeZeroes
  | datasetMgmt
  | verify
  | copy (fmt : Nat) (src : List (Nat × Nat))
  | scanRead (desc : List Byte) (bufLen : Nat)
  | other (opcode : Nat)
  deriving DecidableEq, Repr

/-- A submission entry that waits in a queue for its fetch: an I/O command, or an admin opcode
whose own row gives its effect (R425). -/
structure Sqe where
  io : IoArgs
  cmd : IoCmd
  deriving DecidableEq, Repr

/-- A band-directory entry (R351). -/
structure BandEntry where
  group : Grp
  startWelt : Nat
  state : Nat
  pq : Bool
  members : Nat
  nsid : Nat
  nsIndex : Nat
  deriving DecidableEq, Repr

/-- A requested band-table change (R355): new directory entries and new map entries
(namespace, index, band or hole). -/
structure BandChange where
  dir : List (Nat × BandEntry)
  maps : List (Nat × Nat × Option Nat)
  deriving DecidableEq, Repr

/-- A zone record (R53). -/
structure Zone where
  firstCyl : Nat
  cpr : Nat
  spt : Nat
  srvCells : Nat
  srvFrac : Nat
  skewW : Nat
  pitch : Nat
  deriving DecidableEq, Repr

/-- A group as the PACK, ZONES, SERVO_PATTERN and LAYOUT sections describe it (R587). -/
structure ImgGroup where
  members : Nat
  pq : Bool
  wlGrp : Nat
  cyls : Nat
  zones : List Zone
  validSets : Nat
  /-- coefficient words: set, word within the set, value (R214) -/
  coefs : List (Nat × Nat × Word)
  spare : Nat
  reserve : Nat
  deriving DecidableEq, Repr

/-- What the sections of a last image hold whose layout the spec does not give: PACK, ZONES, SERVO_PATTERN, FLUSH and
LAYOUT (R587). -/
structure ImageContent where
  nw : Nat
  wlDev : Nat
  groups : List ImgGroup
  refFrac : Nat
  inertia : Nat
  pDrain : Nat
  flushRate : Nat
  flushSetup : Nat
  heldLimits : List Nat
  cmbGib : Nat
  deriving DecidableEq, Repr, Inhabited

/-- Key-store copy (R571). -/
structure KeyStore where
  gen : Nat
  tagOk : Bool
  /-- namespace, generation and value of its wrapped key -/
  keys : List (Nat × Nat × Nat)
  /-- role hashes written by SET_KEY: role 1 to 3, four words -/
  hashes : List (Nat × List Word)
  deriving DecidableEq, Repr

/-- The flash's size in bytes, and the bytes of the regions that only a programmer writes, from the start of each: the
last-image slots and the overlay copies (R584, R585); an empty list is an erased region. -/
structure Slots where
  size : Nat
  slot0 : List Byte
  slot1 : List Byte
  ovl0 : List Byte
  ovl1 : List Byte
  deriving DecidableEq, Repr

/-- The flash regions that the controller writes (R584). -/
structure Flash where
  patches : List (List Byte)
  store0 : Option KeyStore
  store1 : Option KeyStore
  savedSpinup : Option Bool
  fwSlot1 : List Byte
  fwSlot2 : List Byte
  deriving DecidableEq, Repr

/-- A fault report of a checker (R536, R540). -/
structure Report where
  site : Nat
  /-- 0 CE, 1 UC, 2 FA -/
  cls : Nat
  kind : Nat
  index : Nat
  addr : Nat
  detail : Nat
  deriving DecidableEq, Repr

/-- An almanac record offered by a maker (R550): type and payload bytes. -/
structure AlmRec where
  type : Nat
  payload : List Byte
  deriving DecidableEq, Repr

/-- The outcome of an HBM access's ECC check (R462). -/
inductive EccIn where
  | ok | ce | uc
  deriving DecidableEq, Repr

/-- The commands and events of the controller, one per row of the opcode table. -/
inductive Instr where
  -- registers and islands (chapter 01)
  | registerWrite (who : Who) (addr size : Nat) (v : Word)
  | crossingTimeout (who : Who) (addr : Nat) (write : Bool)
  | islandStop (who : Who) (v : Word)
  | islandStopped (i : Fin 22)
  | islandStart (who : Who) (v : Word)
  | islandRunning (i : Fin 22)
  | apertureBaseWrite (who : Who) (v : Word)
  | busErrClear (who : Who) (v : Word) (same : Option (Access × BusCause))
  | pairLoStage (who : Who) (addr : Nat) (v : Word)
  | pairHiCommit (who : Who) (addr : Nat) (v : Word)
  | snapshotRead (who : Who) (addr size : Nat)
  -- lanes (chapter 03)
  | laneSectorStart (n : LaneId) (x : SlotIn)
  | thermalAsperity (n : LaneId) (first last : Nat)
  | mainPassEnd (n : LaneId) (p : PassIn)
  | recoveryPassEnd (n : LaneId) (p : PassIn)
  | bufBudgetExpiry (n : LaneId) (cyl sect : Nat)
  | reconstructionDelivered (n : LaneId) (cyl sect : Nat)
  | peerPin (n from_ : LaneId) (cyl sect : Nat)
  | peerMemberRequest (n from_ : LaneId) (cyl sect : Nat)
  | laneDisable (who : Who) (n : LaneId) (v : Word)
  | calGo (who : Who) (n : LaneId) (v : Word)
  | calibrationEnd (g : Grp) (i : HeadIx)
  | adaptReset (who : Who) (n : LaneId) (v : Word)
  | lanePreambleWrite (who : Who) (n : LaneId) (v : Word)
  | sbufHold (who : Who) (n : LaneId) (v : Word)
  | holdPin (n : LaneId)
  | setWindowWrite (who : Who) (n : LaneId) (ofs : Nat) (v : Word)
  -- write path and clocking (chapter 04)
  | wlsWedge (g : Grp) (w : WedgeIn)
  | wlsEnable (who : Who) (g : Grp) (v : Word)
  | wlsDisable (who : Who) (g : Grp) (v : Word)
  | wlsZoneChange (g : Grp) (z : Nat)
  | wlsWriteCfgWrite (who : Who) (g : Grp) (v : Word)
  | writeSlot (w : WriteIn)
  | writeInhibit (g : Grp) (mask : Nat) (causes : List InhCause)
  | tokenRequest (g : Grp) (mask : Nat)
  | tokenGrant
  | tokenWithdraw (g : Grp)
  | paCmd (who : Who) (g : Grp) (v : Word)
  | preampFrameEnd (g : Grp) (data : BitVec 16) (parity : Bool)
  -- formatter (chapter 05)
  | csStageWrite (who : Who) (word : Nat) (part : Fin 3) (v : Word)
  | csCommitWrite (who : Who) (word : Nat) (v : Word)
  | fmtStep (g : Grp) (ecc : EccIn) (late : Bool)
  | waitEnd (g : Grp)
  | waitTimeout (g : Grp)
  | hookBudgetExpiry (g : Grp)
  | haltReq (who : Who) (g : Grp) (v : Word)
  | fmtStart (who : Who) (g : Grp) (v : Word)
  | fmtSingleStep (who : Who) (g : Grp) (v : Word)
  | fmtEnable (who : Who) (g : Grp) (v : Word)
  | fmtDisable (who : Who) (g : Grp) (v : Word)
  | requestPost (g : Grp)
  | slotDone (g : Grp)
  | reqDone (g : Grp)
  | reqFailed (g : Grp) (cause : Nat)
  | needRev (g : Grp)
  | release (g : Grp)
  | abortReport (g : Grp)
  -- servo (chapters 06, 07)
  | servoRecord (g : Grp) (i : HeadIx) (r : ServoRec)
  | servoSample (g : Grp)
  | headLost (g : Grp) (i : HeadIx)
  | onTrack (g : Grp)
  | settleSlow (g : Grp)
  | followingError (g : Grp)
  | inhibitRelease (g : Grp) (i : HeadIx)
  | coefWrite (who : Who) (g : Grp) (ofs : Nat) (v : Word)
  | positioningRequest (g : Grp) (r : Request)
  | seek (who : Who) (g : Grp) (v : Word)
  | load (who : Who) (g : Grp) (v : Word)
  | unload (who : Who) (g : Grp) (v : Word)
  | loadTimeout (g : Grp)
  | parked (g : Grp)
  | unloadTimeout (g : Grp)
  | upstreamFrame (g : Grp) (f : UpFrame)
  | upstreamTimeout (g : Grp)
  | srvEnable (who : Who) (g : Grp) (v : Word)
  | srvDisable (who : Who) (g : Grp) (v : Word)
  | retractRequest (g : Grp) (cause : Nat)
  | retractExit (g : Grp)
  | retractTimeout (g : Grp)
  | manual (who : Who) (g : Grp) (v : Word)
  | auto (who : Who) (g : Grp) (v : Word)
  | fwRetract (who : Who) (g : Grp) (v : Word)
  | icuGo (who : Who) (g : Grp) (v : Word)
  | icuStop (who : Who) (g : Grp) (v : Word)
  | icuProgramEnd (g : Grp)
  | capArm (who : Who) (g : Grp) (v : Word)
  | capAbort (who : Who) (g : Grp) (v : Word)
  | trigNow (who : Who) (g : Grp) (v : Word)
  | captureEnd (g : Grp)
  -- spindle (chapters 08, 09)
  | pwmPeriod (p : PwmIn)
  | spnStart (who : Who) (v : Word)
  | spnStop (who : Who) (v : Word)
  | spnCoast (who : Who) (v : Word)
  | keRecheck (who : Who) (v : Word)
  | spnEnable (who : Who) (v : Word)
  | spnDisable (who : Who) (v : Word)
  | spnTargetWrite (who : Who) (v : Word)
  | zeroCrossing (ph : Phase) (us : Nat)
  | coastCheckTimeout
  | revBrakeRest
  | revBrakeTimeout
  | hfiConverged
  | hfiTimeout
  | polarityTestEnd (posPeak negPeak : Nat)
  | obsHandover
  | handoverTimeout
  | keCheckEnd (crossings : List (Phase × Nat)) (volts : List (BitVec 12 × BitVec 12 × BitVec 12)) (since : Nat)
  | obsLost (mismatch : Bool)
  | obsReacq
  | zcMissed
  | zcLost
  | wedgeRegulation (time : Nat)
  | regulated (errs : List Int)
  | rateMatchWindow
  | rmtHostWrite (who : Who) (v : Word)
  | chopFault
  | ovRecover
  | powerLoss (link : Bool)
  | pfRelease
  | flushTimeLimit
  | spinDownDestaged
  | stopDone
  -- bands, groups, journal (chapters 10, 11)
  | bandTableChange (c : BandChange)
  | bandTableCommit
  | xlateGo (who : Who) (v : Word)
  | laneOffTimeout (n : LaneId)
  | cblRebuild (who : Who) (v : Word)
  | cblRetireHead (who : Who) (v : Word)
  | cblPause (who : Who) (v : Word)
  | cblResume (who : Who) (v : Word)
  | journalCommit
  | journalRecovery
  | cobblerStep (g : Grp)
  | stepEnd (g : Grp)
  -- link and functions (chapter 12)
  | perst (low : Bool)
  | linkUp (speed width : Nat)
  | linkDown
  | functionLevelReset (f : Fn)
  | submissionDoorbell (q : QRef) (entries : List Sqe)
  | commandFetch
  | fetchError (q : QRef) (cid cause object addr : Nat)
  -- queueing (chapter 13)
  | lockGrant (f : Word)
  | bufferGrant (f : Word)
  | writeDataHeld (f : Word)
  | transferDone (f : Word)
  | scheduleChoice (g : Grp)
  | positioningDeadline (g : Grp)
  | namespaceDeleteDrained (nsid : Nat)
  -- memory (chapter 14)
  | memoryRead (req addr : Nat) (e mirror : EccIn)
  | bufferWrite (req addr : Nat) (data : List Byte)
  | mergeWriteOut
  | cacheFill (line : Nat)
  | wayOff (who : Who) (v : Word)
  | wayOn (who : Who) (v : Word)
  | wayCleaned (w : Fin 16)
  | scratchCountWrite (who : Who) (v : Word)
  | cacheDisable (who : Who) (v : Word)
  | cacheEnable (who : Who) (v : Word)
  | cacheDrained
  | maintClean (who : Who) (v : Word)
  | maintInvalidate (who : Who) (v : Word)
  | maintCleanInv (who : Who) (v : Word)
  | maintDone
  | keystoneRead (k : Fin 64)
  | keystoneSweep
  | keystoneWrite (who : Who) (k : Fin 64) (v : Word)
  | scrubRead (m : Fin 8) (e mirror : EccIn) (writeBetween : Bool)
  | scrubSlow (m : Fin 8)
  -- buffer pool, shuttle, scan (chapters 15, 16)
  | bpmAlloc (port : Bool) (r n : Nat) (mirror : Bool)
  | bpmAllocGrant
  | bpmShare (port : Bool) (r b k last : Nat)
  | bpmRelease (port : Bool) (r b : Nat)
  | bpmFree (port : Bool) (r b : Nat)
  | bpmQuery (port : Bool) (r b : Nat)
  | shuStart (who : Who) (c : Chan) (v : Word)
  | shuAbort (who : Who) (c : Chan) (v : Word)
  | shuJobEnd (c : Chan) (moved : Nat) (poison : Bool)
  | shuDisable (who : Who) (v : Word)
  | scanContextGrant
  -- interrupts and vigil (chapter 17)
  | sourceAssert (s : Fin 1024)
  | ictClaim (k : CoreId)
  | ictEoi (k : CoreId) (v : Word)
  | srcCfgWrite (who : Who) (s : Fin 1024) (v : Word)
  | swiSet (who : Who) (hi : Bool) (v : Word)
  | coreSleep (k : CoreId) (v : Word)
  | vigilClock
  | vigilTimerMatch
  | vigilClockLoss
  | vigilClockRestore
  -- faults and almanac (chapter 18)
  | faultReport (r : Report)
  | fenceComplete
  | fenceCmd (who : Who) (v : Word)
  | fenceLift (who : Who) (v : Word)
  | ceWindowEnd
  | faultInject (who : Who) (v : Word)
  | almanacRecord (r : AlmRec)
  | almanacAppend
  | almErase (who : Who) (v : Word)
  | almanacCursor (who : Who) (v : Word)
  | almanacNext (who : Who) (v : Word)
  | almanacLoadDone (who : Who)
  | almanacPost (who : Who) (v : Word)
  | trcClear (who : Who) (w : Fin 8) (v : Word)
  -- security (chapter 19)
  | entropyFail
  | entropyRecovered
  -- resets, loading, modes (chapters 20, 21)
  | coldReset (programmed : Option (Slots × Flash))
  | supplyUndervoltage
  | coldResetRelease (pcOk : BitVec 64)
  | warmResetRequest (who : Who) (v : Word)
  | warmReset
  | lastLoad
  -- radial offsets in nm, and per head and calibration cylinder the arrival of wedge k in 1/256 cell, none without a mark
  | headLoadCalibration (radial : List (LaneId × Int)) (angular : List (LaneId × Nat × Option Int))
  | headLoadEnd
  | startRetry
  | spinUpTimeout
  | idleTimer
  | thermalThrottle (quarters : Int) (sensor : Fin 16)
  | throttleRelease (quarters : Int) (sensor : Fin 16)
  -- admin commands (chapters 12, 13, 20)
  | createIoSq (q : QRef) (cid qid size : Nat) (u : SqUse)
  | deleteIoSq (q : QRef) (cid qid : Nat)
  | createIoCq (q : QRef) (cid qid size vector : Nat)
  | deleteIoCq (q : QRef) (cid qid : Nat)
  | getLogPage (q : QRef) (cid lid nsid ofs len : Nat)
  | identify (q : QRef) (cid cns nsid : Nat)
  | abort (q : QRef) (cid sqid target : Nat)
  | setFeatures (q : QRef) (cid fid nsid cdw11 : Nat) (save : Bool)
  | getFeatures (q : QRef) (cid fid nsid : Nat)
  | powerManagement (q : QRef) (cid ps : Nat)
  | volatileWriteCache (q : QRef) (cid : Nat) (enable : Bool)
  | autonomousPowerStateTransition (q : QRef) (cid : Nat) (apste : Bool) (table : List (Nat × Nat))
  | spinupControl (q : QRef) (cid : Nat) (up save : Bool)
  | spindleBandLimits (q : QRef) (cid floor ceil : Nat)
  | spinDown (q : QRef) (cid : Nat)
  | spinUp (q : QRef) (cid : Nat)
  | asyncEventRequest (q : QRef) (cid : Nat)
  | namespaceCreate (q : QRef) (cid nsze ncap fmt : Nat)
  | namespaceDelete (q : QRef) (cid nsid : Nat)
  | namespaceAttachment (q : QRef) (cid nsid : Nat) (attach : Bool) (ctrls : List Fn)
  | firmwareImageDownload (q : QRef) (cid ofs : Nat) (data : List Byte)
  | firmwareCommit (q : QRef) (cid slot action : Nat)
  | deviceSelfTest (q : QRef) (cid code : Nat)
  | virtualizationManagement (q : QRef) (cid act : Nat) (cntlid : Fn) (vq : Bool) (n : Nat)
  /-- fmt: LBA format, and the protection type from bit 5 on -/
  | formatNvm (q : QRef) (cid nsid fmt ses : Nat) (extended : Bool)
  | sanitizeExitFailure (q : QRef) (cid : Nat)
  | sanitizeOverwrite (q : QRef) (cid owpass : Nat) (pattern : Word)
  | sanitizeCryptoErase (q : QRef) (cid : Nat)
  | invalidOpcode (q : QRef) (cid opcode : Nat)
  -- I/O commands (chapters 12, 13, 16)
  | flush (q : QRef) (a : IoArgs)
  | write (q : QRef) (a : IoArgs) (data : List (List Byte))
  | read (q : QRef) (a : IoArgs)
  | compare (q : QRef) (a : IoArgs) (data : List (List Byte))
  | writeZeroes (q : QRef) (a : IoArgs)
  | datasetManagement (q : QRef) (a : IoArgs)
  | verify (q : QRef) (a : IoArgs)
  | copy (q : QRef) (a : IoArgs) (fmt : Nat) (src : List (Nat × Nat))
  | scanRead (q : QRef) (a : IoArgs) (desc : List Byte) (bufLen : Nat)
  -- role protocol (chapters 12, 19)
  | challenge (q : QRef) (cid : Nat)
  | open (q : QRef) (cid : Nat) (payload : List Byte)
  | close (q : QRef) (cid : Nat)
  | sessionStatus (q : QRef) (cid : Nat)
  | securityProtocolList (q : QRef) (cid : Nat)
  | salvage (q : QRef) (cid band first count : Nat)
  | salvageStatus (q : QRef) (cid : Nat)
  | salvageData (q : QRef) (cid : Nat)
  | setKey (q : QRef) (cid role : Nat) (key : List Byte)
  | roleRetireHead (q : QRef) (cid group head : Nat)
  | countersClear (q : QRef) (cid : Nat) (mask : BitVec 256)
  | serviceEnter (q : QRef) (cid : Nat)
  | serviceLeave (q : QRef) (cid : Nat)
  | roleAlmanacErase (q : QRef) (cid : Nat)
  | keyStatus (q : QRef) (cid : Nat)
  | sessionExpiry (f : Fn)
  | nonceExpiry (f : Fn)
  | lockoutEnd
  | controllerReset (c : CcClear)
  | patrolDue
  deriving DecidableEq, Repr

end Sys2Proof
end

