-- ==== Sys2Proof/Config.lean ====
section
/-! DEFINITION. What the spec leaves open: values that an implementation or the world outside the
package fixes. Every constant is opaque: nothing can evaluate it, so a statement holds whatever it
is. Each is named in notes/assumptions/. -/

namespace Sys2Proof.Config

/-- Rounding where the spec gives a quotient and no rounding: true rounds up. -/
opaque roundUp : Int → Int → Bool

/-- The n-th free value: a value that the spec leaves open. -/
opaque freeValue : Nat → Nat

/-- The lanes' interpolator (R68): the value of a reader's corrected samples at a place between them. -/
opaque interp : List Rat → Rat → Rat

/-- The decisions of the loop detector over a sector's cells in a replay with other taps or another target than those of the
fly: the readers' samples, their taps, g_1 to g_4 (R98). -/
opaque loopDecisions : List Byte → List Byte → List Rat → List Rat → List Rat → List Bool

/-- The angle error, in 1/65,536 of an electrical turn, that a change of the q-axis current stands for, in mA along the sign of
the injection: the scale of the injection's loop (R278). -/
opaque hfiError : Int → Int

/-- The quadrature error of the 2T pattern (chapter 03, Timing recovery), at a cell of a preamble or resume field, from the
last four samples of readers A and B, newest first. -/
opaque quadError : Nat → List Rat → List Rat → Rat

/-- The parity bytes of the quasi-cyclic LDPC code of R65 over payload and tag. -/
opaque ldpcParity : List Byte → List Byte

/-- The bytes of a structure whose fields the spec names without their places (journal and region headers, flush directory and
trailer, almanac header): 0 to 4 in that order, and the fields. -/
opaque openLayout : Nat → List Nat → List Byte

/-- What the bytes of the sections of types 1, 2, 3, 5 and 6 of a last image stand for: their layout is Afundash's (R587). -/
opaque imageContent : List (List Byte) → ImageContent

/-- The boot ROM's image of the Walrix region of the control store (chapter 05). -/
opaque romWord : Nat → MicroWord

/-- Word addresses of the shipped sequences' places (R632). -/
opaque shipPc : Nat → Nat

/-- The event byte of an almanac record whose chapter gives its class and no event code, by the
record's kind (R550). -/
opaque almEvent : Nat → Nat

/-- SHA-384 of a byte string: 48 bytes. -/
opaque sha384 : List Byte → List Byte

/-- ECDSA P-384 verification: key bytes, signature, message. -/
opaque ecdsa : List Byte → List Byte → List Byte → Bool

/-- The SHA-384 hash of the maker's image key in anti-fuse OTP (R589). -/
opaque otpImageKey : List Byte

/-- The Walrix signing key of the boot ROM (R194). -/
opaque walrixKey : List Byte

/-- AES-256-GCM under the Walrix patch key: nonce, associated bytes, ciphertext, tag. -/
opaque gcmOk : List Byte → List Byte → List Byte → List Byte → Bool

/-- The plaintext that AES-256-GCM under the Walrix patch key gives: nonce, ciphertext. -/
opaque gcmPlain : List Byte → List Byte → List Byte

/-- What a recovery reads of a journal copy passes its CRC and tag checks (R370, R376): of a reading, 0 the newest checkpoint's region,
1 the other, 2 + k the k-th log sector after the checkpoint. -/
opaque readsBack : Nat → Nat → Bool

/-- The metadata key, derived from the device-unique key (R569). -/
opaque metaKey : Nat

/-- AES-XTS of one payload: key value, tweak (R570). -/
opaque xts : Nat → Nat → List Byte → List Byte

/-- Its inverse. -/
opaque unxts : Nat → Nat → List Byte → List Byte

/-- The address that the platform gives the PF's BAR4 (R391, R418). -/
opaque bar4 : Nat

/-- The guard of a payload under an LBA format (R346): 16-bit for format 1, 64-bit for format 2. -/
opaque piGuard : Nat → List Byte → Nat

/-- The digest of a zone table and welt kind (R67), over their values in order. -/
opaque formatDigest : List Nat → List Word

/-- A firmware image is an extension package with a valid signature under the Walrix signing key (R569). -/
opaque packageSigned : List Byte → Bool

/-- The patches that an extension package carries (R584). -/
opaque packagePatches : List Byte → List (List Byte)

/-- The result field of an almanac record of a role operation that failed (R568), by its completion. -/
opaque resultCode : Nat → Nat

/-- The payload of a role STATUS after its header: role, session number, life left (R415). -/
opaque statusBytes : Nat → Nat → Nat → List Byte

/-- The n-th 32-byte output of the DRBG (R562). -/
opaque drbg : Nat → List Byte

/-- The patch floor in anti-fuse OTP (R194). -/
opaque patchFloor : Nat

/-- The boot ROM's bytes (R23). -/
opaque bootRom : Nat → Byte

/-- The maximum junction temperature of the ordering code, °C (R625). -/
opaque tjMax : Nat

end Sys2Proof.Config
end

