-- ==== Sys2Proof/Machine/RegTypes.lean ====
section
/-! DEFINITION. What a register description is: block, offset, array shape, fields, access types and
reset word (R24, R27, R29, R31). The descriptions themselves stand in Machine/RegMap.lean. -/

namespace Sys2Proof.Machine

/-- Register access types (R29). -/
inductive Acc where
  | ro | rw | wo | w1c | w1s | rwl | rws
  deriving DecidableEq, Repr

/-- Register blocks (R24). -/
inductive Blk where
  | sys | lst | hst | que | bpm | shu | cch | mem | ict | vgl | flt
  | alm | sec | trc | spn | wlt | cbl | scn | srv | fmt | lane
  deriving DecidableEq, Repr

/-- A field's place and access type. -/
structure FieldDesc where
  lo : Nat
  width : Nat
  acc : Acc
  deriving DecidableEq, Repr

/-- A register, or an array of registers of one layout: its block, the offset of element 0, the
number of elements, their spacing, the defined fields and the reset word of element j (R31). Bits in
no field are reserved (R32). -/
structure Reg where
  blk : Blk
  ofs : Nat
  count : Nat := 1
  stride : Nat := 4
  fields : List FieldDesc
  rst : Nat → Nat := fun _ => 0

/-- A named field of a register. -/
structure Fld where
  reg : Reg
  lo : Nat
  width : Nat

/-- The base of instance 0 of a block (R24). -/
def Blk.base : Blk → Nat
  | .sys => 0x4000_0000 | .lst => 0x4001_0000 | .hst => 0x4002_0000 | .que => 0x4003_0000
  | .bpm => 0x4004_0000 | .shu => 0x4005_0000 | .cch => 0x4006_0000 | .mem => 0x4007_0000
  | .ict => 0x4008_0000 | .vgl => 0x4009_0000 | .flt => 0x400A_0000 | .alm => 0x400B_0000
  | .sec => 0x400C_0000 | .trc => 0x400D_0000 | .spn => 0x400E_0000 | .wlt => 0x400F_0000
  | .cbl => 0x4010_0000 | .scn => 0x4011_0000 | .srv => 0x4020_0000 | .fmt => 0x4030_0000
  | .lane => 0x4100_0000

/-- How many 64 KiB instances a block has (R24). -/
def Blk.instances : Blk → Nat
  | .srv => 4 | .fmt => 4 | .lane => 32
  | _ => 1

/-- The island that serves an instance's registers, numbered 1 to 22 (R627). -/
def Blk.island : Blk → Nat → Nat
  | .sys, _ | .lst, _ | .mem, _ | .ict, _ | .flt, _ | .alm, _ | .wlt, _ | .cbl, _ => 7
  | .vgl, _ => 8
  | .hst, _ | .que, _ => 2
  | .bpm, _ | .shu, _ => 5
  | .cch, _ => 6
  | .spn, _ => 13
  | .srv, g => 9 + g
  | .fmt, g => 14 + g
  | .lane, n => 14 + n / 8
  | .sec, _ => 18
  | .scn, _ => 19
  | .trc, _ => 20

/-- A register's identity: the address of element 0 of instance 0. -/
abbrev Reg.key (r : Reg) : Nat := r.blk.base + r.ofs

/-- The address of element j of instance i (R24). -/
def Reg.addr (r : Reg) (i j : Nat) : Nat := r.blk.base + 0x1_0000 * i + r.ofs + r.stride * j

/-- The reset values of LANE_PASS (chapter 03). -/
def lanePassReset : Nat → Nat
  | 0 => 0xD010_0000
  | 1 => 0xE010_0000
  | 2 => 0xC110_0000
  | 3 => 0x8060_4000
  | _ => 0

/-- The default ACTION of a checker site (R536); reserved sites 464 to 511 never report, 0. -/
def siteAction (s : Nat) : Nat :=
  if s < 160 then 1 else if s < 168 then 0 else if s < 200 then 1
  else if s < 320 then 0 else if s < 400 then 1 else if s < 440 then 0
  else if s < 448 then 1 else 0

/-- The reset word of FLT_SITE_CFG[s]: CE_LIM 0x10 and the default ACTION (R536). -/
def siteCfgReset (s : Nat) : Nat := 0x100 + siteAction s

/-- Every block. -/
def Blk.all : List Blk :=
  [.sys, .lst, .hst, .que, .bpm, .shu, .cch, .mem, .ict, .vgl, .flt, .alm, .sec, .trc, .spn, .wlt,
   .cbl, .scn, .srv, .fmt, .lane]

end Sys2Proof.Machine
end

