-- ==== Sys2Proof/Machine/RegMap.lean ====
section
/-! DEFINITION. The register map: every register of the register space, with its offset, its array
shape, its fields, access types and reset word, as the field tables of spec/ give them (R24, R29,
R31). A field is named REGISTER.FIELD, with the spec's own names. -/

namespace Sys2Proof.Machine

/-! ### SYS -/

/-- SYS_ID, offset 0x0000 (01_architecture). -/
def SYS_ID : Reg :=
  { blk := .sys, ofs := 0x0000, rst := fun _ => 0x32640000,
    fields := [⟨16, 16, .ro⟩, ⟨8, 8, .ro⟩] }
def SYS_ID.DEVICE : Fld := ⟨SYS_ID, 16, 16⟩
def SYS_ID.STEPPING : Fld := ⟨SYS_ID, 8, 8⟩

/-- SYS_ISLAND_EN, offset 0x0010 (01_architecture). -/
def SYS_ISLAND_EN : Reg :=
  { blk := .sys, ofs := 0x0010, rst := fun _ => 0x003200C0,
    fields := [⟨8, 14, .rw⟩, ⟨7, 1, .ro⟩, ⟨0, 7, .rw⟩] }
def SYS_ISLAND_EN.EN_HI : Fld := ⟨SYS_ISLAND_EN, 8, 14⟩
def SYS_ISLAND_EN.EN_VIGIL : Fld := ⟨SYS_ISLAND_EN, 7, 1⟩
def SYS_ISLAND_EN.EN_LO : Fld := ⟨SYS_ISLAND_EN, 0, 7⟩

/-- SYS_ISLAND_STATUS, offset 0x0014 (01_architecture). -/
def SYS_ISLAND_STATUS : Reg :=
  { blk := .sys, ofs := 0x0014, rst := fun _ => 0x003200C0,
    fields := [⟨0, 22, .ro⟩] }
def SYS_ISLAND_STATUS.RUN : Fld := ⟨SYS_ISLAND_STATUS, 0, 22⟩

/-- SYS_APERTURE_BASE, offset 0x0020 (01_architecture). -/
def SYS_APERTURE_BASE : Reg :=
  { blk := .sys, ofs := 0x0020,
    fields := [⟨0, 10, .rw⟩] }
def SYS_APERTURE_BASE.BASE : Fld := ⟨SYS_APERTURE_BASE, 0, 10⟩

/-- SYS_BUS_ERR_ADDR, offset 0x0030 (01_architecture). -/
def SYS_BUS_ERR_ADDR : Reg :=
  { blk := .sys, ofs := 0x0030,
    fields := [⟨0, 32, .ro⟩] }
def SYS_BUS_ERR_ADDR.ADDR : Fld := ⟨SYS_BUS_ERR_ADDR, 0, 32⟩

/-- SYS_BUS_ERR_INFO, offset 0x0034 (01_architecture). -/
def SYS_BUS_ERR_INFO : Reg :=
  { blk := .sys, ofs := 0x0034,
    fields := [⟨31, 1, .w1c⟩, ⟨30, 1, .ro⟩, ⟨28, 2, .ro⟩, ⟨24, 4, .ro⟩, ⟨0, 16, .ro⟩] }
def SYS_BUS_ERR_INFO.VALID : Fld := ⟨SYS_BUS_ERR_INFO, 31, 1⟩
def SYS_BUS_ERR_INFO.WRITE : Fld := ⟨SYS_BUS_ERR_INFO, 30, 1⟩
def SYS_BUS_ERR_INFO.INITIATOR : Fld := ⟨SYS_BUS_ERR_INFO, 28, 2⟩
def SYS_BUS_ERR_INFO.CAUSE : Fld := ⟨SYS_BUS_ERR_INFO, 24, 4⟩
def SYS_BUS_ERR_INFO.OVERFLOW : Fld := ⟨SYS_BUS_ERR_INFO, 0, 16⟩

/-- SYS_MODE, offset 0x0040 (20_last_image_startup_modes). -/
def SYS_MODE : Reg :=
  { blk := .sys, ofs := 0x0040, rst := fun _ => 0x000B8012,
    fields := [⟨20, 4, .ro⟩, ⟨15, 5, .ro⟩, ⟨8, 4, .ro⟩, ⟨4, 4, .ro⟩, ⟨0, 4, .ro⟩] }
def SYS_MODE.PS : Fld := ⟨SYS_MODE, 20, 4⟩
def SYS_MODE.CEIL_EFF : Fld := ⟨SYS_MODE, 15, 5⟩
def SYS_MODE.SAFE_CAUSE : Fld := ⟨SYS_MODE, 8, 4⟩
def SYS_MODE.PREV : Fld := ⟨SYS_MODE, 4, 4⟩
def SYS_MODE.MODE : Fld := ⟨SYS_MODE, 0, 4⟩

/-- SYS_RESET_CMD, offset 0x0044 (20_last_image_startup_modes). -/
def SYS_RESET_CMD : Reg :=
  { blk := .sys, ofs := 0x0044,
    fields := [⟨31, 1, .w1s⟩] }
def SYS_RESET_CMD.WARM : Fld := ⟨SYS_RESET_CMD, 31, 1⟩

/-- SYS_TEMP, offset 0x0060 (21_electrical_and_package). -/
def SYS_TEMP : Reg :=
  { blk := .sys, ofs := 0x0060, rst := fun _ => 0x00800000,
    fields := [⟨31, 1, .ro⟩, ⟨16, 8, .rws⟩, ⟨12, 4, .ro⟩, ⟨0, 12, .ro⟩] }
def SYS_TEMP.THROTTLE : Fld := ⟨SYS_TEMP, 31, 1⟩
def SYS_TEMP.MAX_SEEN : Fld := ⟨SYS_TEMP, 16, 8⟩
def SYS_TEMP.SENSOR : Fld := ⟨SYS_TEMP, 12, 4⟩
def SYS_TEMP.TJ : Fld := ⟨SYS_TEMP, 0, 12⟩

/-- SYS_INT_STATUS, offset 0x0080 (20_last_image_startup_modes). -/
def SYS_INT_STATUS : Reg :=
  { blk := .sys, ofs := 0x0080,
    fields := [⟨4, 1, .w1c⟩, ⟨3, 1, .w1c⟩, ⟨2, 1, .w1c⟩, ⟨1, 1, .w1c⟩, ⟨0, 1, .w1c⟩] }
def SYS_INT_STATUS.IMG_REJECT : Fld := ⟨SYS_INT_STATUS, 4, 1⟩
def SYS_INT_STATUS.IDLE_EXIT : Fld := ⟨SYS_INT_STATUS, 3, 1⟩
def SYS_INT_STATUS.SAFE : Fld := ⟨SYS_INT_STATUS, 2, 1⟩
def SYS_INT_STATUS.READY : Fld := ⟨SYS_INT_STATUS, 1, 1⟩
def SYS_INT_STATUS.MODE_CHANGE : Fld := ⟨SYS_INT_STATUS, 0, 1⟩

/-- SYS_INT_EN, offset 0x0084 (20_last_image_startup_modes). -/
def SYS_INT_EN : Reg :=
  { blk := .sys, ofs := 0x0084,
    fields := [⟨4, 1, .rw⟩, ⟨3, 1, .rw⟩, ⟨2, 1, .rw⟩, ⟨1, 1, .rw⟩, ⟨0, 1, .rw⟩] }
def SYS_INT_EN.IMG_REJECT : Fld := ⟨SYS_INT_EN, 4, 1⟩
def SYS_INT_EN.IDLE_EXIT : Fld := ⟨SYS_INT_EN, 3, 1⟩
def SYS_INT_EN.SAFE : Fld := ⟨SYS_INT_EN, 2, 1⟩
def SYS_INT_EN.READY : Fld := ⟨SYS_INT_EN, 1, 1⟩
def SYS_INT_EN.MODE_CHANGE : Fld := ⟨SYS_INT_EN, 0, 1⟩

/-- WTA_CFG, offset 0x0400 (04_write_path_and_clocking). -/
def WTA_CFG : Reg :=
  { blk := .sys, ofs := 0x0400, rst := fun _ => 0x00000010,
    fields := [⟨16, 5, .ro⟩, ⟨0, 5, .rwl⟩] }
def WTA_CFG.IN_USE : Fld := ⟨WTA_CFG, 16, 5⟩
def WTA_CFG.WL_DEV : Fld := ⟨WTA_CFG, 0, 5⟩

/-- RMT_CTRL, offset 0x0500 (09_rate_matching_and_power_loss). -/
def RMT_CTRL : Reg :=
  { blk := .sys, ofs := 0x0500, rst := fun _ => 0x04C01388,
    fields := [⟨31, 1, .rw⟩, ⟨24, 4, .rw⟩, ⟨16, 8, .rw⟩, ⟨0, 16, .rw⟩] }
def RMT_CTRL.EN : Fld := ⟨RMT_CTRL, 31, 1⟩
def RMT_CTRL.AVG_SHIFT : Fld := ⟨RMT_CTRL, 24, 4⟩
def RMT_CTRL.UTIL : Fld := ⟨RMT_CTRL, 16, 8⟩
def RMT_CTRL.DOWN_MS : Fld := ⟨RMT_CTRL, 0, 16⟩

/-- RMT_RATE, offset 0x0504 (09_rate_matching_and_power_loss). -/
def RMT_RATE : Reg :=
  { blk := .sys, ofs := 0x0504, rst := fun _ => 0x000007D0,
    fields := [⟨16, 16, .rwl⟩, ⟨0, 16, .rw⟩] }
def RMT_RATE.MEDIA_RATE : Fld := ⟨RMT_RATE, 16, 16⟩
def RMT_RATE.T_DRAIN_MS : Fld := ⟨RMT_RATE, 0, 16⟩

/-- RMT_HOST, offset 0x0508 (09_rate_matching_and_power_loss). -/
def RMT_HOST : Reg :=
  { blk := .sys, ofs := 0x0508, rst := fun _ => 0x00001700,
    fields := [⟨8, 5, .rw⟩, ⟨0, 5, .rw⟩] }
def RMT_HOST.CEIL : Fld := ⟨RMT_HOST, 8, 5⟩
def RMT_HOST.FLOOR : Fld := ⟨RMT_HOST, 0, 5⟩

/-- RMT_STATUS, offset 0x050C (09_rate_matching_and_power_loss). -/
def RMT_STATUS : Reg :=
  { blk := .sys, ofs := 0x050C,
    fields := [⟨27, 5, .ro⟩, ⟨22, 5, .ro⟩, ⟨0, 13, .ro⟩] }
def RMT_STATUS.B_NEED : Fld := ⟨RMT_STATUS, 27, 5⟩
def RMT_STATUS.B_TGT : Fld := ⟨RMT_STATUS, 22, 5⟩
def RMT_STATUS.HELD : Fld := ⟨RMT_STATUS, 0, 13⟩

/-- RMT_DEMAND, offset 0x0510 (09_rate_matching_and_power_loss). -/
def RMT_DEMAND : Reg :=
  { blk := .sys, ofs := 0x0510,
    fields := [⟨16, 16, .ro⟩, ⟨0, 16, .ro⟩] }
def RMT_DEMAND.DBAR : Fld := ⟨RMT_DEMAND, 16, 16⟩
def RMT_DEMAND.NEED : Fld := ⟨RMT_DEMAND, 0, 16⟩

/-- RMT_HELD_LIMIT, offset 0x0540 + 0x4 j, j < 24 (09_rate_matching_and_power_loss). -/
def RMT_HELD_LIMIT : Reg :=
  { blk := .sys, ofs := 0x0540, count := 24,
    fields := [⟨0, 13, .rwl⟩] }
def RMT_HELD_LIMIT.LIMIT : Fld := ⟨RMT_HELD_LIMIT, 0, 13⟩

/-- The registers of SYS. -/
def regsSys : List Reg :=
  [SYS_ID, SYS_ISLAND_EN, SYS_ISLAND_STATUS, SYS_APERTURE_BASE, SYS_BUS_ERR_ADDR,
   SYS_BUS_ERR_INFO, SYS_MODE, SYS_RESET_CMD, SYS_TEMP, SYS_INT_STATUS, SYS_INT_EN, WTA_CFG,
   RMT_CTRL, RMT_RATE, RMT_HOST, RMT_STATUS, RMT_DEMAND, RMT_HELD_LIMIT]

/-! ### LST -/

/-- LST_LOCK, offset 0x0000 (20_last_image_startup_modes). -/
def LST_LOCK : Reg :=
  { blk := .lst, ofs := 0x0000,
    fields := [⟨0, 1, .ro⟩] }
def LST_LOCK.LOCK : Fld := ⟨LST_LOCK, 0, 1⟩

/-- LST_STATUS, offset 0x0004 (20_last_image_startup_modes). -/
def LST_STATUS : Reg :=
  { blk := .lst, ofs := 0x0004,
    fields := [⟨2, 2, .ro⟩, ⟨1, 1, .ro⟩, ⟨0, 1, .ro⟩] }
def LST_STATUS.OVL : Fld := ⟨LST_STATUS, 2, 2⟩
def LST_STATUS.SLOT : Fld := ⟨LST_STATUS, 1, 1⟩
def LST_STATUS.LOADED : Fld := ⟨LST_STATUS, 0, 1⟩

/-- LST_IMG_SEQ, offset 0x0008 (20_last_image_startup_modes). -/
def LST_IMG_SEQ : Reg :=
  { blk := .lst, ofs := 0x0008,
    fields := [⟨0, 32, .ro⟩] }
def LST_IMG_SEQ.SEQ : Fld := ⟨LST_IMG_SEQ, 0, 32⟩

/-- LST_OVL_SEQ, offset 0x000C (20_last_image_startup_modes). -/
def LST_OVL_SEQ : Reg :=
  { blk := .lst, ofs := 0x000C,
    fields := [⟨0, 32, .ro⟩] }
def LST_OVL_SEQ.SEQ : Fld := ⟨LST_OVL_SEQ, 0, 32⟩

/-- LST_REJ_INFO, offset 0x0010 (20_last_image_startup_modes). -/
def LST_REJ_INFO : Reg :=
  { blk := .lst, ofs := 0x0010,
    fields := [⟨31, 1, .ro⟩, ⟨24, 7, .ro⟩, ⟨23, 1, .ro⟩, ⟨20, 3, .ro⟩, ⟨15, 5, .ro⟩, ⟨0, 15, .ro⟩] }
def LST_REJ_INFO.VALID : Fld := ⟨LST_REJ_INFO, 31, 1⟩
def LST_REJ_INFO.SEQ : Fld := ⟨LST_REJ_INFO, 24, 7⟩
def LST_REJ_INFO.SLOT : Fld := ⟨LST_REJ_INFO, 23, 1⟩
def LST_REJ_INFO.CHECK : Fld := ⟨LST_REJ_INFO, 20, 3⟩
def LST_REJ_INFO.SECTION : Fld := ⟨LST_REJ_INFO, 15, 5⟩
def LST_REJ_INFO.RECORD : Fld := ⟨LST_REJ_INFO, 0, 15⟩

/-- The registers of LST. -/
def regsLst : List Reg :=
  [LST_LOCK, LST_STATUS, LST_IMG_SEQ, LST_OVL_SEQ, LST_REJ_INFO]

/-! ### HST -/

/-- HST_CTRL, offset 0x0000 (12_host_attachment). -/
def HST_CTRL : Reg :=
  { blk := .hst, ofs := 0x0000,
    fields := [⟨1, 1, .ro⟩, ⟨0, 1, .rw⟩] }
def HST_CTRL.PAUSED : Fld := ⟨HST_CTRL, 1, 1⟩
def HST_CTRL.EN : Fld := ⟨HST_CTRL, 0, 1⟩

/-- HST_LINK, offset 0x0004 (12_host_attachment). -/
def HST_LINK : Reg :=
  { blk := .hst, ofs := 0x0004,
    fields := [⟨12, 1, .ro⟩, ⟨11, 1, .ro⟩, ⟨8, 3, .ro⟩, ⟨0, 5, .ro⟩] }
def HST_LINK.L1 : Fld := ⟨HST_LINK, 12, 1⟩
def HST_LINK.DL_UP : Fld := ⟨HST_LINK, 11, 1⟩
def HST_LINK.SPEED : Fld := ⟨HST_LINK, 8, 3⟩
def HST_LINK.WIDTH : Fld := ⟨HST_LINK, 0, 5⟩

/-- HST_ERR_INFO, offset 0x0040 (12_host_attachment). -/
def HST_ERR_INFO : Reg :=
  { blk := .hst, ofs := 0x0040,
    fields := [⟨31, 1, .ro⟩, ⟨24, 7, .ro⟩, ⟨20, 4, .ro⟩, ⟨18, 2, .ro⟩, ⟨10, 6, .ro⟩] }
def HST_ERR_INFO.VALID : Fld := ⟨HST_ERR_INFO, 31, 1⟩
def HST_ERR_INFO.SEQ : Fld := ⟨HST_ERR_INFO, 24, 7⟩
def HST_ERR_INFO.CAUSE : Fld := ⟨HST_ERR_INFO, 20, 4⟩
def HST_ERR_INFO.OBJECT : Fld := ⟨HST_ERR_INFO, 18, 2⟩
def HST_ERR_INFO.FUNC : Fld := ⟨HST_ERR_INFO, 10, 6⟩

/-- HST_ERR_CMD, offset 0x0044 (12_host_attachment). -/
def HST_ERR_CMD : Reg :=
  { blk := .hst, ofs := 0x0044,
    fields := [⟨16, 16, .ro⟩, ⟨0, 16, .ro⟩] }
def HST_ERR_CMD.SQID : Fld := ⟨HST_ERR_CMD, 16, 16⟩
def HST_ERR_CMD.CID : Fld := ⟨HST_ERR_CMD, 0, 16⟩

/-- HST_ERR_ADDR_LO, offset 0x0048 (12_host_attachment). -/
def HST_ERR_ADDR_LO : Reg :=
  { blk := .hst, ofs := 0x0048,
    fields := [⟨0, 32, .ro⟩] }
def HST_ERR_ADDR_LO.ADDR : Fld := ⟨HST_ERR_ADDR_LO, 0, 32⟩

/-- HST_ERR_ADDR_HI, offset 0x004C (12_host_attachment). -/
def HST_ERR_ADDR_HI : Reg :=
  { blk := .hst, ofs := 0x004C,
    fields := [⟨0, 32, .ro⟩] }
def HST_ERR_ADDR_HI.ADDR : Fld := ⟨HST_ERR_ADDR_HI, 0, 32⟩

/-- HST_INT_STATUS, offset 0x0080 (12_host_attachment). -/
def HST_INT_STATUS : Reg :=
  { blk := .hst, ofs := 0x0080,
    fields := [⟨7, 1, .w1c⟩, ⟨6, 1, .w1c⟩, ⟨5, 1, .w1c⟩, ⟨4, 1, .w1c⟩, ⟨3, 1, .w1c⟩, ⟨2, 1, .w1c⟩, ⟨1, 1, .w1c⟩, ⟨0, 1, .w1c⟩] }
def HST_INT_STATUS.PI_ERR : Fld := ⟨HST_INT_STATUS, 7, 1⟩
def HST_INT_STATUS.SESSION : Fld := ⟨HST_INT_STATUS, 6, 1⟩
def HST_INT_STATUS.CC_CHANGE : Fld := ⟨HST_INT_STATUS, 5, 1⟩
def HST_INT_STATUS.FLR : Fld := ⟨HST_INT_STATUS, 4, 1⟩
def HST_INT_STATUS.LINK_DOWN : Fld := ⟨HST_INT_STATUS, 3, 1⟩
def HST_INT_STATUS.LINK_UP : Fld := ⟨HST_INT_STATUS, 2, 1⟩
def HST_INT_STATUS.SGL_LIMIT : Fld := ⟨HST_INT_STATUS, 1, 1⟩
def HST_INT_STATUS.WALK_ERR : Fld := ⟨HST_INT_STATUS, 0, 1⟩

/-- HST_INT_EN, offset 0x0084 (12_host_attachment). -/
def HST_INT_EN : Reg :=
  { blk := .hst, ofs := 0x0084,
    fields := [⟨7, 1, .rw⟩, ⟨6, 1, .rw⟩, ⟨5, 1, .rw⟩, ⟨4, 1, .rw⟩, ⟨3, 1, .rw⟩, ⟨2, 1, .rw⟩, ⟨1, 1, .rw⟩, ⟨0, 1, .rw⟩] }
def HST_INT_EN.PI_ERR : Fld := ⟨HST_INT_EN, 7, 1⟩
def HST_INT_EN.SESSION : Fld := ⟨HST_INT_EN, 6, 1⟩
def HST_INT_EN.CC_CHANGE : Fld := ⟨HST_INT_EN, 5, 1⟩
def HST_INT_EN.FLR : Fld := ⟨HST_INT_EN, 4, 1⟩
def HST_INT_EN.LINK_DOWN : Fld := ⟨HST_INT_EN, 3, 1⟩
def HST_INT_EN.LINK_UP : Fld := ⟨HST_INT_EN, 2, 1⟩
def HST_INT_EN.SGL_LIMIT : Fld := ⟨HST_INT_EN, 1, 1⟩
def HST_INT_EN.WALK_ERR : Fld := ⟨HST_INT_EN, 0, 1⟩

/-- HST_FN_STATUS, offset 0x0100 + 0x4 j, j < 64 (12_host_attachment). -/
def HST_FN_STATUS : Reg :=
  { blk := .hst, ofs := 0x0100, count := 64,
    fields := [⟨31, 1, .ro⟩, ⟨30, 1, .ro⟩, ⟨29, 1, .ro⟩, ⟨28, 1, .ro⟩, ⟨27, 1, .ro⟩, ⟨26, 1, .ro⟩, ⟨0, 14, .ro⟩] }
def HST_FN_STATUS.PRESENT : Fld := ⟨HST_FN_STATUS, 31, 1⟩
def HST_FN_STATUS.CC_EN : Fld := ⟨HST_FN_STATUS, 30, 1⟩
def HST_FN_STATUS.RDY : Fld := ⟨HST_FN_STATUS, 29, 1⟩
def HST_FN_STATUS.CFS : Fld := ⟨HST_FN_STATUS, 28, 1⟩
def HST_FN_STATUS.FENCED : Fld := ⟨HST_FN_STATUS, 27, 1⟩
def HST_FN_STATUS.SESSION : Fld := ⟨HST_FN_STATUS, 26, 1⟩
def HST_FN_STATUS.OUTSTANDING : Fld := ⟨HST_FN_STATUS, 0, 14⟩

/-- The registers of HST. -/
def regsHst : List Reg :=
  [HST_CTRL, HST_LINK, HST_ERR_INFO, HST_ERR_CMD, HST_ERR_ADDR_LO, HST_ERR_ADDR_HI,
   HST_INT_STATUS, HST_INT_EN, HST_FN_STATUS]

/-! ### QUE -/

/-- QUE_CTRL, offset 0x0000 (13_command_queueing). -/
def QUE_CTRL : Reg :=
  { blk := .que, ofs := 0x0000,
    fields := [⟨1, 1, .rw⟩, ⟨0, 1, .rw⟩] }
def QUE_CTRL.FETCH_STOP : Fld := ⟨QUE_CTRL, 1, 1⟩
def QUE_CTRL.EN : Fld := ⟨QUE_CTRL, 0, 1⟩

/-- QUE_STATUS, offset 0x0004 (13_command_queueing). -/
def QUE_STATUS : Reg :=
  { blk := .que, ofs := 0x0004,
    fields := [⟨16, 14, .ro⟩, ⟨0, 14, .ro⟩] }
def QUE_STATUS.OUTSTANDING : Fld := ⟨QUE_STATUS, 16, 14⟩
def QUE_STATUS.LOCKS : Fld := ⟨QUE_STATUS, 0, 14⟩

/-- QUE_FETCH_NUM, offset 0x0008 (13_command_queueing). -/
def QUE_FETCH_NUM : Reg :=
  { blk := .que, ofs := 0x0008,
    fields := [⟨0, 32, .ro⟩] }
def QUE_FETCH_NUM.F : Fld := ⟨QUE_FETCH_NUM, 0, 32⟩

/-- QUE_SCHED_CFG, offset 0x0010 (13_command_queueing). -/
def QUE_SCHED_CFG : Reg :=
  { blk := .que, ofs := 0x0010, rst := fun _ => 0x01F42042,
    fields := [⟨16, 16, .rw⟩, ⟨8, 8, .rw⟩, ⟨4, 4, .rw⟩, ⟨0, 4, .rw⟩] }
def QUE_SCHED_CFG.AGE_MS : Fld := ⟨QUE_SCHED_CFG, 16, 16⟩
def QUE_SCHED_CFG.WINDOW : Fld := ⟨QUE_SCHED_CFG, 8, 8⟩
def QUE_SCHED_CFG.DEADLINE_REVS : Fld := ⟨QUE_SCHED_CFG, 4, 4⟩
def QUE_SCHED_CFG.RETRY_MAX : Fld := ⟨QUE_SCHED_CFG, 0, 4⟩

/-- QUE_DESTAGE_CFG, offset 0x0014 (13_command_queueing). -/
def QUE_DESTAGE_CFG : Reg :=
  { blk := .que, ofs := 0x0014, rst := fun _ => 0x00C04000,
    fields := [⟨16, 8, .rw⟩, ⟨8, 8, .rw⟩] }
def QUE_DESTAGE_CFG.HI : Fld := ⟨QUE_DESTAGE_CFG, 16, 8⟩
def QUE_DESTAGE_CFG.LO : Fld := ⟨QUE_DESTAGE_CFG, 8, 8⟩

/-- QUE_GRP_STATUS, offset 0x0020 + 0x4 j, j < 4 (13_command_queueing). -/
def QUE_GRP_STATUS : Reg :=
  { blk := .que, ofs := 0x0020, count := 4,
    fields := [⟨16, 16, .ro⟩, ⟨4, 6, .ro⟩, ⟨3, 1, .ro⟩, ⟨2, 1, .ro⟩] }
def QUE_GRP_STATUS.HELD : Fld := ⟨QUE_GRP_STATUS, 16, 16⟩
def QUE_GRP_STATUS.QUEUED : Fld := ⟨QUE_GRP_STATUS, 4, 6⟩
def QUE_GRP_STATUS.REREAD : Fld := ⟨QUE_GRP_STATUS, 3, 1⟩
def QUE_GRP_STATUS.STEP : Fld := ⟨QUE_GRP_STATUS, 2, 1⟩

/-- QUE_FAIL_INFO0, offset 0x0060 (13_command_queueing). -/
def QUE_FAIL_INFO0 : Reg :=
  { blk := .que, ofs := 0x0060,
    fields := [⟨31, 1, .ro⟩, ⟨24, 7, .ro⟩, ⟨16, 8, .ro⟩, ⟨12, 4, .ro⟩, ⟨10, 2, .ro⟩, ⟨4, 6, .ro⟩] }
def QUE_FAIL_INFO0.VALID : Fld := ⟨QUE_FAIL_INFO0, 31, 1⟩
def QUE_FAIL_INFO0.SEQ : Fld := ⟨QUE_FAIL_INFO0, 24, 7⟩
def QUE_FAIL_INFO0.CAUSE : Fld := ⟨QUE_FAIL_INFO0, 16, 8⟩
def QUE_FAIL_INFO0.KIND : Fld := ⟨QUE_FAIL_INFO0, 12, 4⟩
def QUE_FAIL_INFO0.GROUP : Fld := ⟨QUE_FAIL_INFO0, 10, 2⟩
def QUE_FAIL_INFO0.ATTEMPT : Fld := ⟨QUE_FAIL_INFO0, 4, 6⟩

/-- QUE_FAIL_INFO1, offset 0x0064 (13_command_queueing). -/
def QUE_FAIL_INFO1 : Reg :=
  { blk := .que, ofs := 0x0064,
    fields := [⟨20, 10, .ro⟩, ⟨0, 20, .ro⟩] }
def QUE_FAIL_INFO1.SECT : Fld := ⟨QUE_FAIL_INFO1, 20, 10⟩
def QUE_FAIL_INFO1.CYL : Fld := ⟨QUE_FAIL_INFO1, 0, 20⟩

/-- QUE_INT_STATUS, offset 0x0080 (13_command_queueing). -/
def QUE_INT_STATUS : Reg :=
  { blk := .que, ofs := 0x0080,
    fields := [⟨4, 1, .w1c⟩, ⟨3, 1, .w1c⟩, ⟨2, 1, .w1c⟩, ⟨1, 1, .w1c⟩, ⟨0, 1, .w1c⟩] }
def QUE_INT_STATUS.NS_CHANGE : Fld := ⟨QUE_INT_STATUS, 4, 1⟩
def QUE_INT_STATUS.DESTAGE_HI : Fld := ⟨QUE_INT_STATUS, 3, 1⟩
def QUE_INT_STATUS.LOCK_FULL : Fld := ⟨QUE_INT_STATUS, 2, 1⟩
def QUE_INT_STATUS.RETRY_EXHAUSTED : Fld := ⟨QUE_INT_STATUS, 1, 1⟩
def QUE_INT_STATUS.REQ_FAILED : Fld := ⟨QUE_INT_STATUS, 0, 1⟩

/-- QUE_INT_EN, offset 0x0084 (13_command_queueing). -/
def QUE_INT_EN : Reg :=
  { blk := .que, ofs := 0x0084,
    fields := [⟨4, 1, .rw⟩, ⟨3, 1, .rw⟩, ⟨2, 1, .rw⟩, ⟨1, 1, .rw⟩, ⟨0, 1, .rw⟩] }
def QUE_INT_EN.NS_CHANGE : Fld := ⟨QUE_INT_EN, 4, 1⟩
def QUE_INT_EN.DESTAGE_HI : Fld := ⟨QUE_INT_EN, 3, 1⟩
def QUE_INT_EN.LOCK_FULL : Fld := ⟨QUE_INT_EN, 2, 1⟩
def QUE_INT_EN.RETRY_EXHAUSTED : Fld := ⟨QUE_INT_EN, 1, 1⟩
def QUE_INT_EN.REQ_FAILED : Fld := ⟨QUE_INT_EN, 0, 1⟩

/-- QUE_SEEK_EST, offset 0x0100 + 0x4 j, j < 21 (13_command_queueing). -/
def QUE_SEEK_EST : Reg :=
  { blk := .que, ofs := 0x0100, count := 21,
    fields := [⟨0, 16, .rwl⟩] }
def QUE_SEEK_EST.US : Fld := ⟨QUE_SEEK_EST, 0, 16⟩

/-- The registers of QUE. -/
def regsQue : List Reg :=
  [QUE_CTRL, QUE_STATUS, QUE_FETCH_NUM, QUE_SCHED_CFG, QUE_DESTAGE_CFG, QUE_GRP_STATUS,
   QUE_FAIL_INFO0, QUE_FAIL_INFO1, QUE_INT_STATUS, QUE_INT_EN, QUE_SEEK_EST]

/-! ### BPM -/

/-- BPM_CTRL, offset 0x0000 (15_buffer_pool_and_shuttle). -/
def BPM_CTRL : Reg :=
  { blk := .bpm, ofs := 0x0000,
    fields := [⟨0, 1, .rwl⟩] }
def BPM_CTRL.EN : Fld := ⟨BPM_CTRL, 0, 1⟩

/-- BPM_POOL, offset 0x0004 (15_buffer_pool_and_shuttle). -/
def BPM_POOL : Reg :=
  { blk := .bpm, ofs := 0x0004,
    fields := [⟨0, 20, .ro⟩] }
def BPM_POOL.COUNT : Fld := ⟨BPM_POOL, 0, 20⟩

/-- BPM_FREE, offset 0x0008 (15_buffer_pool_and_shuttle). -/
def BPM_FREE : Reg :=
  { blk := .bpm, ofs := 0x0008,
    fields := [⟨0, 20, .ro⟩] }
def BPM_FREE.COUNT : Fld := ⟨BPM_FREE, 0, 20⟩

/-- BPM_LOW_WM, offset 0x000C (15_buffer_pool_and_shuttle). -/
def BPM_LOW_WM : Reg :=
  { blk := .bpm, ofs := 0x000C, rst := fun _ => 0x00004000,
    fields := [⟨0, 20, .rw⟩] }
def BPM_LOW_WM.WM : Fld := ⟨BPM_LOW_WM, 0, 20⟩

/-- BPM_CMD, offset 0x0010 (15_buffer_pool_and_shuttle). -/
def BPM_CMD : Reg :=
  { blk := .bpm, ofs := 0x0010,
    fields := [⟨31, 1, .w1s⟩, ⟨28, 3, .rw⟩, ⟨27, 1, .rw⟩, ⟨20, 7, .rw⟩, ⟨0, 20, .rw⟩] }
def BPM_CMD.GO : Fld := ⟨BPM_CMD, 31, 1⟩
def BPM_CMD.OP : Fld := ⟨BPM_CMD, 28, 3⟩
def BPM_CMD.MIRROR : Fld := ⟨BPM_CMD, 27, 1⟩
def BPM_CMD.REQ : Fld := ⟨BPM_CMD, 20, 7⟩
def BPM_CMD.BUF : Fld := ⟨BPM_CMD, 0, 20⟩

/-- BPM_ARG, offset 0x0014 (15_buffer_pool_and_shuttle). -/
def BPM_ARG : Reg :=
  { blk := .bpm, ofs := 0x0014,
    fields := [⟨8, 7, .rw⟩, ⟨0, 8, .rw⟩] }
def BPM_ARG.LAST : Fld := ⟨BPM_ARG, 8, 7⟩
def BPM_ARG.K : Fld := ⟨BPM_ARG, 0, 8⟩

/-- BPM_RESULT0, offset 0x0018 (15_buffer_pool_and_shuttle). -/
def BPM_RESULT0 : Reg :=
  { blk := .bpm, ofs := 0x0018,
    fields := [⟨31, 1, .ro⟩, ⟨24, 7, .ro⟩, ⟨20, 4, .ro⟩, ⟨0, 20, .ro⟩] }
def BPM_RESULT0.VALID : Fld := ⟨BPM_RESULT0, 31, 1⟩
def BPM_RESULT0.SEQ : Fld := ⟨BPM_RESULT0, 24, 7⟩
def BPM_RESULT0.STATUS : Fld := ⟨BPM_RESULT0, 20, 4⟩
def BPM_RESULT0.BUF : Fld := ⟨BPM_RESULT0, 0, 20⟩

/-- BPM_RESULT1, offset 0x001C (15_buffer_pool_and_shuttle). -/
def BPM_RESULT1 : Reg :=
  { blk := .bpm, ofs := 0x001C,
    fields := [⟨17, 1, .ro⟩, ⟨16, 1, .ro⟩, ⟨8, 7, .ro⟩, ⟨0, 8, .ro⟩] }
def BPM_RESULT1.ALLOCATED : Fld := ⟨BPM_RESULT1, 17, 1⟩
def BPM_RESULT1.MIRROR : Fld := ⟨BPM_RESULT1, 16, 1⟩
def BPM_RESULT1.OWNER : Fld := ⟨BPM_RESULT1, 8, 7⟩
def BPM_RESULT1.SHARES : Fld := ⟨BPM_RESULT1, 0, 8⟩

/-- BPM_ERR_INFO, offset 0x0020 (15_buffer_pool_and_shuttle). -/
def BPM_ERR_INFO : Reg :=
  { blk := .bpm, ofs := 0x0020,
    fields := [⟨31, 1, .ro⟩, ⟨27, 4, .ro⟩, ⟨20, 7, .ro⟩, ⟨0, 20, .ro⟩] }
def BPM_ERR_INFO.VALID : Fld := ⟨BPM_ERR_INFO, 31, 1⟩
def BPM_ERR_INFO.STATUS : Fld := ⟨BPM_ERR_INFO, 27, 4⟩
def BPM_ERR_INFO.REQ : Fld := ⟨BPM_ERR_INFO, 20, 7⟩
def BPM_ERR_INFO.BUF : Fld := ⟨BPM_ERR_INFO, 0, 20⟩

/-- BPM_INT_STATUS, offset 0x0080 (15_buffer_pool_and_shuttle). -/
def BPM_INT_STATUS : Reg :=
  { blk := .bpm, ofs := 0x0080,
    fields := [⟨3, 1, .w1c⟩, ⟨2, 1, .w1c⟩, ⟨1, 1, .w1c⟩, ⟨0, 1, .w1c⟩] }
def BPM_INT_STATUS.RETIRE : Fld := ⟨BPM_INT_STATUS, 3, 1⟩
def BPM_INT_STATUS.LOW : Fld := ⟨BPM_INT_STATUS, 2, 1⟩
def BPM_INT_STATUS.ERR : Fld := ⟨BPM_INT_STATUS, 1, 1⟩
def BPM_INT_STATUS.CMD_DONE : Fld := ⟨BPM_INT_STATUS, 0, 1⟩

/-- BPM_INT_EN, offset 0x0084 (15_buffer_pool_and_shuttle). -/
def BPM_INT_EN : Reg :=
  { blk := .bpm, ofs := 0x0084,
    fields := [⟨3, 1, .rw⟩, ⟨2, 1, .rw⟩, ⟨1, 1, .rw⟩, ⟨0, 1, .rw⟩] }
def BPM_INT_EN.RETIRE : Fld := ⟨BPM_INT_EN, 3, 1⟩
def BPM_INT_EN.LOW : Fld := ⟨BPM_INT_EN, 2, 1⟩
def BPM_INT_EN.ERR : Fld := ⟨BPM_INT_EN, 1, 1⟩
def BPM_INT_EN.CMD_DONE : Fld := ⟨BPM_INT_EN, 0, 1⟩

/-- BPM_QUOTA, offset 0x0400 + 0x4 j, j < 128 (15_buffer_pool_and_shuttle). -/
def BPM_QUOTA : Reg :=
  { blk := .bpm, ofs := 0x0400, count := 128, rst := fun _ => 0xFFFF0000,
    fields := [⟨16, 16, .rw⟩, ⟨0, 16, .rw⟩] }
def BPM_QUOTA.MAX : Fld := ⟨BPM_QUOTA, 16, 16⟩
def BPM_QUOTA.RESERVE : Fld := ⟨BPM_QUOTA, 0, 16⟩

/-- BPM_USE, offset 0x0800 + 0x4 j, j < 128 (15_buffer_pool_and_shuttle). -/
def BPM_USE : Reg :=
  { blk := .bpm, ofs := 0x0800, count := 128,
    fields := [⟨20, 1, .ro⟩, ⟨0, 20, .ro⟩] }
def BPM_USE.WAITING : Fld := ⟨BPM_USE, 20, 1⟩
def BPM_USE.IN_USE : Fld := ⟨BPM_USE, 0, 20⟩

/-- The registers of BPM. -/
def regsBpm : List Reg :=
  [BPM_CTRL, BPM_POOL, BPM_FREE, BPM_LOW_WM, BPM_CMD, BPM_ARG, BPM_RESULT0, BPM_RESULT1,
   BPM_ERR_INFO, BPM_INT_STATUS, BPM_INT_EN, BPM_QUOTA, BPM_USE]

/-! ### SHU -/

/-- SHU_CTRL, offset 0x0000 (15_buffer_pool_and_shuttle). -/
def SHU_CTRL : Reg :=
  { blk := .shu, ofs := 0x0000,
    fields := [⟨0, 1, .rw⟩] }
def SHU_CTRL.EN : Fld := ⟨SHU_CTRL, 0, 1⟩

/-- SHU_BUSY_LO, offset 0x0004 (15_buffer_pool_and_shuttle). -/
def SHU_BUSY_LO : Reg :=
  { blk := .shu, ofs := 0x0004,
    fields := [⟨0, 32, .ro⟩] }
def SHU_BUSY_LO.BUSY : Fld := ⟨SHU_BUSY_LO, 0, 32⟩

/-- SHU_BUSY_HI, offset 0x0008 (15_buffer_pool_and_shuttle). -/
def SHU_BUSY_HI : Reg :=
  { blk := .shu, ofs := 0x0008,
    fields := [⟨0, 32, .ro⟩] }
def SHU_BUSY_HI.BUSY : Fld := ⟨SHU_BUSY_HI, 0, 32⟩

/-- SHU_SRC_LO, offset 0x1000 + 0x40 j, j < 64 (15_buffer_pool_and_shuttle). -/
def SHU_SRC_LO : Reg :=
  { blk := .shu, ofs := 0x1000, count := 64, stride := 0x40,
    fields := [⟨0, 32, .rw⟩] }
def SHU_SRC_LO.ADDR : Fld := ⟨SHU_SRC_LO, 0, 32⟩

/-- SHU_SRC_HI, offset 0x1004 + 0x40 j, j < 64 (15_buffer_pool_and_shuttle). -/
def SHU_SRC_HI : Reg :=
  { blk := .shu, ofs := 0x1004, count := 64, stride := 0x40,
    fields := [⟨0, 8, .rw⟩] }
def SHU_SRC_HI.ADDR : Fld := ⟨SHU_SRC_HI, 0, 8⟩

/-- SHU_DST_LO, offset 0x1008 + 0x40 j, j < 64 (15_buffer_pool_and_shuttle). -/
def SHU_DST_LO : Reg :=
  { blk := .shu, ofs := 0x1008, count := 64, stride := 0x40,
    fields := [⟨0, 32, .rw⟩] }
def SHU_DST_LO.ADDR : Fld := ⟨SHU_DST_LO, 0, 32⟩

/-- SHU_DST_HI, offset 0x100C + 0x40 j, j < 64 (15_buffer_pool_and_shuttle). -/
def SHU_DST_HI : Reg :=
  { blk := .shu, ofs := 0x100C, count := 64, stride := 0x40,
    fields := [⟨0, 8, .rw⟩] }
def SHU_DST_HI.ADDR : Fld := ⟨SHU_DST_HI, 0, 8⟩

/-- SHU_COUNT, offset 0x1010 + 0x40 j, j < 64 (15_buffer_pool_and_shuttle). -/
def SHU_COUNT : Reg :=
  { blk := .shu, ofs := 0x1010, count := 64, stride := 0x40,
    fields := [⟨0, 32, .rw⟩] }
def SHU_COUNT.BYTES : Fld := ⟨SHU_COUNT, 0, 32⟩

/-- SHU_CH_CFG, offset 0x1014 + 0x40 j, j < 64 (15_buffer_pool_and_shuttle). -/
def SHU_CH_CFG : Reg :=
  { blk := .shu, ofs := 0x1014, count := 64, stride := 0x40,
    fields := [⟨31, 1, .rw⟩, ⟨27, 4, .rw⟩, ⟨16, 11, .rw⟩, ⟨15, 1, .rw⟩, ⟨8, 4, .rw⟩, ⟨3, 5, .rw⟩, ⟨0, 3, .rw⟩] }
def SHU_CH_CFG.STREAM : Fld := ⟨SHU_CH_CFG, 31, 1⟩
def SHU_CH_CFG.PORT : Fld := ⟨SHU_CH_CFG, 27, 4⟩
def SHU_CH_CFG.U : Fld := ⟨SHU_CH_CFG, 16, 11⟩
def SHU_CH_CFG.PRIO : Fld := ⟨SHU_CH_CFG, 15, 1⟩
def SHU_CH_CFG.W : Fld := ⟨SHU_CH_CFG, 8, 4⟩
def SHU_CH_CFG.WRAP : Fld := ⟨SHU_CH_CFG, 3, 5⟩
def SHU_CH_CFG.MODE : Fld := ⟨SHU_CH_CFG, 0, 3⟩

/-- SHU_SPAN, offset 0x1018 + 0x40 j, j < 64 (15_buffer_pool_and_shuttle). -/
def SHU_SPAN : Reg :=
  { blk := .shu, ofs := 0x1018, count := 64, stride := 0x40,
    fields := [⟨0, 32, .rw⟩] }
def SHU_SPAN.BYTES : Fld := ⟨SHU_SPAN, 0, 32⟩

/-- SHU_CH_CTRL, offset 0x101C + 0x40 j, j < 64 (15_buffer_pool_and_shuttle). -/
def SHU_CH_CTRL : Reg :=
  { blk := .shu, ofs := 0x101C, count := 64, stride := 0x40,
    fields := [⟨31, 1, .w1s⟩, ⟨30, 1, .w1s⟩] }
def SHU_CH_CTRL.START : Fld := ⟨SHU_CH_CTRL, 31, 1⟩
def SHU_CH_CTRL.ABORT : Fld := ⟨SHU_CH_CTRL, 30, 1⟩

/-- SHU_CH_RESULT, offset 0x1020 + 0x40 j, j < 64 (15_buffer_pool_and_shuttle). -/
def SHU_CH_RESULT : Reg :=
  { blk := .shu, ofs := 0x1020, count := 64, stride := 0x40,
    fields := [⟨31, 1, .ro⟩, ⟨24, 7, .ro⟩, ⟨20, 4, .ro⟩] }
def SHU_CH_RESULT.VALID : Fld := ⟨SHU_CH_RESULT, 31, 1⟩
def SHU_CH_RESULT.SEQ : Fld := ⟨SHU_CH_RESULT, 24, 7⟩
def SHU_CH_RESULT.STATUS : Fld := ⟨SHU_CH_RESULT, 20, 4⟩

/-- SHU_CH_DONE, offset 0x1024 + 0x40 j, j < 64 (15_buffer_pool_and_shuttle). -/
def SHU_CH_DONE : Reg :=
  { blk := .shu, ofs := 0x1024, count := 64, stride := 0x40,
    fields := [⟨0, 32, .ro⟩] }
def SHU_CH_DONE.BYTES : Fld := ⟨SHU_CH_DONE, 0, 32⟩

/-- SHU_CH_POS, offset 0x1028 + 0x40 j, j < 64 (15_buffer_pool_and_shuttle). -/
def SHU_CH_POS : Reg :=
  { blk := .shu, ofs := 0x1028, count := 64, stride := 0x40,
    fields := [⟨0, 32, .ro⟩] }
def SHU_CH_POS.BYTES : Fld := ⟨SHU_CH_POS, 0, 32⟩

/-- SHU_CH_INT, offset 0x1030 + 0x40 j, j < 64 (15_buffer_pool_and_shuttle). -/
def SHU_CH_INT : Reg :=
  { blk := .shu, ofs := 0x1030, count := 64, stride := 0x40,
    fields := [⟨17, 1, .rw⟩, ⟨16, 1, .rw⟩, ⟨1, 1, .w1c⟩, ⟨0, 1, .w1c⟩] }
def SHU_CH_INT.ERR_EN : Fld := ⟨SHU_CH_INT, 17, 1⟩
def SHU_CH_INT.DONE_EN : Fld := ⟨SHU_CH_INT, 16, 1⟩
def SHU_CH_INT.ERR : Fld := ⟨SHU_CH_INT, 1, 1⟩
def SHU_CH_INT.DONE : Fld := ⟨SHU_CH_INT, 0, 1⟩

/-- The registers of SHU. -/
def regsShu : List Reg :=
  [SHU_CTRL, SHU_BUSY_LO, SHU_BUSY_HI, SHU_SRC_LO, SHU_SRC_HI, SHU_DST_LO, SHU_DST_HI, SHU_COUNT,
   SHU_CH_CFG, SHU_SPAN, SHU_CH_CTRL, SHU_CH_RESULT, SHU_CH_DONE, SHU_CH_POS, SHU_CH_INT]

/-! ### CCH -/

/-- CCH_CTRL, offset 0x0000 (14_memory_system). -/
def CCH_CTRL : Reg :=
  { blk := .cch, ofs := 0x0000,
    fields := [⟨0, 1, .rw⟩] }
def CCH_CTRL.EN : Fld := ⟨CCH_CTRL, 0, 1⟩

/-- CCH_STATUS, offset 0x0004 (14_memory_system). -/
def CCH_STATUS : Reg :=
  { blk := .cch, ofs := 0x0004, rst := fun _ => 0x80000000,
    fields := [⟨30, 2, .ro⟩, ⟨18, 9, .ro⟩, ⟨0, 18, .ro⟩] }
def CCH_STATUS.STATE : Fld := ⟨CCH_STATUS, 30, 2⟩
def CCH_STATUS.MSHR : Fld := ⟨CCH_STATUS, 18, 9⟩
def CCH_STATUS.DIRTY : Fld := ⟨CCH_STATUS, 0, 18⟩

/-- CCH_WAY_CTRL, offset 0x0010 (14_memory_system). -/
def CCH_WAY_CTRL : Reg :=
  { blk := .cch, ofs := 0x0010,
    fields := [⟨0, 16, .rw⟩] }
def CCH_WAY_CTRL.OFF : Fld := ⟨CCH_WAY_CTRL, 0, 16⟩

/-- CCH_WAY_STATUS, offset 0x0014 (14_memory_system). -/
def CCH_WAY_STATUS : Reg :=
  { blk := .cch, ofs := 0x0014,
    fields := [⟨0, 32, .ro⟩] }
def CCH_WAY_STATUS.WAY : Fld := ⟨CCH_WAY_STATUS, 0, 32⟩

/-- CCH_SCRATCH, offset 0x0018 (14_memory_system). -/
def CCH_SCRATCH : Reg :=
  { blk := .cch, ofs := 0x0018,
    fields := [⟨0, 4, .rw⟩] }
def CCH_SCRATCH.COUNT : Fld := ⟨CCH_SCRATCH, 0, 4⟩

/-- CCH_MAINT_CMD, offset 0x0040 (14_memory_system). -/
def CCH_MAINT_CMD : Reg :=
  { blk := .cch, ofs := 0x0040, rst := fun _ => 0x00000001,
    fields := [⟨31, 1, .w1s⟩, ⟨26, 2, .rw⟩, ⟨0, 20, .rw⟩] }
def CCH_MAINT_CMD.GO : Fld := ⟨CCH_MAINT_CMD, 31, 1⟩
def CCH_MAINT_CMD.OP : Fld := ⟨CCH_MAINT_CMD, 26, 2⟩
def CCH_MAINT_CMD.COUNT : Fld := ⟨CCH_MAINT_CMD, 0, 20⟩

/-- CCH_MAINT_ADDR_LO, offset 0x0044 (14_memory_system). -/
def CCH_MAINT_ADDR_LO : Reg :=
  { blk := .cch, ofs := 0x0044,
    fields := [⟨0, 32, .rw⟩] }
def CCH_MAINT_ADDR_LO.ADDR : Fld := ⟨CCH_MAINT_ADDR_LO, 0, 32⟩

/-- CCH_MAINT_ADDR_HI, offset 0x0048 (14_memory_system). -/
def CCH_MAINT_ADDR_HI : Reg :=
  { blk := .cch, ofs := 0x0048,
    fields := [⟨0, 32, .rw⟩] }
def CCH_MAINT_ADDR_HI.ADDR : Fld := ⟨CCH_MAINT_ADDR_HI, 0, 32⟩

/-- CCH_MAINT_RESULT, offset 0x004C (14_memory_system). -/
def CCH_MAINT_RESULT : Reg :=
  { blk := .cch, ofs := 0x004C,
    fields := [⟨31, 1, .ro⟩, ⟨24, 7, .ro⟩, ⟨0, 20, .ro⟩] }
def CCH_MAINT_RESULT.VALID : Fld := ⟨CCH_MAINT_RESULT, 31, 1⟩
def CCH_MAINT_RESULT.SEQ : Fld := ⟨CCH_MAINT_RESULT, 24, 7⟩
def CCH_MAINT_RESULT.WRITTEN : Fld := ⟨CCH_MAINT_RESULT, 0, 20⟩

/-- CCH_INT_STATUS, offset 0x0080 (14_memory_system). -/
def CCH_INT_STATUS : Reg :=
  { blk := .cch, ofs := 0x0080,
    fields := [⟨3, 1, .w1c⟩, ⟨2, 1, .w1c⟩, ⟨1, 1, .w1c⟩, ⟨0, 1, .w1c⟩] }
def CCH_INT_STATUS.WAY_FENCE : Fld := ⟨CCH_INT_STATUS, 3, 1⟩
def CCH_INT_STATUS.WAY_DONE : Fld := ⟨CCH_INT_STATUS, 2, 1⟩
def CCH_INT_STATUS.MAINT_DONE : Fld := ⟨CCH_INT_STATUS, 1, 1⟩
def CCH_INT_STATUS.DRAINED : Fld := ⟨CCH_INT_STATUS, 0, 1⟩

/-- CCH_INT_EN, offset 0x0084 (14_memory_system). -/
def CCH_INT_EN : Reg :=
  { blk := .cch, ofs := 0x0084,
    fields := [⟨3, 1, .rw⟩, ⟨2, 1, .rw⟩, ⟨1, 1, .rw⟩, ⟨0, 1, .rw⟩] }
def CCH_INT_EN.WAY_FENCE : Fld := ⟨CCH_INT_EN, 3, 1⟩
def CCH_INT_EN.WAY_DONE : Fld := ⟨CCH_INT_EN, 2, 1⟩
def CCH_INT_EN.MAINT_DONE : Fld := ⟨CCH_INT_EN, 1, 1⟩
def CCH_INT_EN.DRAINED : Fld := ⟨CCH_INT_EN, 0, 1⟩

/-- CCH_REQ_ATTR, offset 0x0400 + 0x4 j, j < 128 (14_memory_system). -/
def CCH_REQ_ATTR : Reg :=
  { blk := .cch, ofs := 0x0400, count := 128, rst := fun _ => 0x00000001,
    fields := [⟨1, 1, .rw⟩, ⟨0, 1, .rw⟩] }
def CCH_REQ_ATTR.PREFETCH : Fld := ⟨CCH_REQ_ATTR, 1, 1⟩
def CCH_REQ_ATTR.ALLOC : Fld := ⟨CCH_REQ_ATTR, 0, 1⟩

/-- The registers of CCH. -/
def regsCch : List Reg :=
  [CCH_CTRL, CCH_STATUS, CCH_WAY_CTRL, CCH_WAY_STATUS, CCH_SCRATCH, CCH_MAINT_CMD,
   CCH_MAINT_ADDR_LO, CCH_MAINT_ADDR_HI, CCH_MAINT_RESULT, CCH_INT_STATUS, CCH_INT_EN,
   CCH_REQ_ATTR]

/-! ### MEM -/

/-- MEM_STATUS, offset 0x0000 (14_memory_system). -/
def MEM_STATUS : Reg :=
  { blk := .mem, ofs := 0x0000,
    fields := [⟨2, 6, .ro⟩, ⟨1, 1, .ro⟩, ⟨0, 1, .ro⟩] }
def MEM_STATUS.MERGE : Fld := ⟨MEM_STATUS, 2, 6⟩
def MEM_STATUS.STACK1_OK : Fld := ⟨MEM_STATUS, 1, 1⟩
def MEM_STATUS.STACK0_OK : Fld := ⟨MEM_STATUS, 0, 1⟩

/-- MEM_PC_FENCE, offset 0x0010 + 0x4 j, j < 2 (14_memory_system). -/
def MEM_PC_FENCE : Reg :=
  { blk := .mem, ofs := 0x0010, count := 2,
    fields := [⟨0, 32, .ro⟩] }
def MEM_PC_FENCE.FENCED : Fld := ⟨MEM_PC_FENCE, 0, 32⟩

/-- MEM_ECC_CFG, offset 0x0020 (14_memory_system). -/
def MEM_ECC_CFG : Reg :=
  { blk := .mem, ofs := 0x0020, rst := fun _ => 0x01000002,
    fields := [⟨16, 16, .rwl⟩, ⟨0, 8, .rwl⟩] }
def MEM_ECC_CFG.CE_FENCE : Fld := ⟨MEM_ECC_CFG, 16, 16⟩
def MEM_ECC_CFG.UC_FENCE : Fld := ⟨MEM_ECC_CFG, 0, 8⟩

/-- MEM_ECC_INFO0, offset 0x0030 (14_memory_system). -/
def MEM_ECC_INFO0 : Reg :=
  { blk := .mem, ofs := 0x0030,
    fields := [⟨31, 1, .ro⟩, ⟨24, 7, .ro⟩, ⟨21, 3, .ro⟩, ⟨16, 5, .ro⟩, ⟨15, 1, .ro⟩, ⟨0, 8, .ro⟩] }
def MEM_ECC_INFO0.VALID : Fld := ⟨MEM_ECC_INFO0, 31, 1⟩
def MEM_ECC_INFO0.SEQ : Fld := ⟨MEM_ECC_INFO0, 24, 7⟩
def MEM_ECC_INFO0.CLASS : Fld := ⟨MEM_ECC_INFO0, 21, 3⟩
def MEM_ECC_INFO0.PC : Fld := ⟨MEM_ECC_INFO0, 16, 5⟩
def MEM_ECC_INFO0.STACK : Fld := ⟨MEM_ECC_INFO0, 15, 1⟩
def MEM_ECC_INFO0.ADDR_HI : Fld := ⟨MEM_ECC_INFO0, 0, 8⟩

/-- MEM_ECC_INFO1, offset 0x0034 (14_memory_system). -/
def MEM_ECC_INFO1 : Reg :=
  { blk := .mem, ofs := 0x0034,
    fields := [⟨5, 27, .ro⟩] }
def MEM_ECC_INFO1.ADDR : Fld := ⟨MEM_ECC_INFO1, 5, 27⟩

/-- MEM_INT_STATUS, offset 0x0080 (14_memory_system). -/
def MEM_INT_STATUS : Reg :=
  { blk := .mem, ofs := 0x0080,
    fields := [⟨5, 8, .w1c⟩, ⟨4, 1, .w1c⟩, ⟨3, 1, .w1c⟩, ⟨2, 1, .w1c⟩, ⟨1, 1, .w1c⟩, ⟨0, 1, .w1c⟩] }
def MEM_INT_STATUS.SCRUB_SLOW : Fld := ⟨MEM_INT_STATUS, 5, 8⟩
def MEM_INT_STATUS.SCRUB_LAP : Fld := ⟨MEM_INT_STATUS, 4, 1⟩
def MEM_INT_STATUS.KS_EVENT : Fld := ⟨MEM_INT_STATUS, 3, 1⟩
def MEM_INT_STATUS.PC_FENCE : Fld := ⟨MEM_INT_STATUS, 2, 1⟩
def MEM_INT_STATUS.UC : Fld := ⟨MEM_INT_STATUS, 1, 1⟩
def MEM_INT_STATUS.CE : Fld := ⟨MEM_INT_STATUS, 0, 1⟩

/-- MEM_INT_EN, offset 0x0084 (14_memory_system). -/
def MEM_INT_EN : Reg :=
  { blk := .mem, ofs := 0x0084,
    fields := [⟨5, 8, .rw⟩, ⟨4, 1, .rw⟩, ⟨3, 1, .rw⟩, ⟨2, 1, .rw⟩, ⟨1, 1, .rw⟩, ⟨0, 1, .rw⟩] }
def MEM_INT_EN.SCRUB_SLOW : Fld := ⟨MEM_INT_EN, 5, 8⟩
def MEM_INT_EN.SCRUB_LAP : Fld := ⟨MEM_INT_EN, 4, 1⟩
def MEM_INT_EN.KS_EVENT : Fld := ⟨MEM_INT_EN, 3, 1⟩
def MEM_INT_EN.PC_FENCE : Fld := ⟨MEM_INT_EN, 2, 1⟩
def MEM_INT_EN.UC : Fld := ⟨MEM_INT_EN, 1, 1⟩
def MEM_INT_EN.CE : Fld := ⟨MEM_INT_EN, 0, 1⟩

/-- MEM_KS, offset 0x0400 + 0x4 j, j < 64 (14_memory_system). -/
def MEM_KS : Reg :=
  { blk := .mem, ofs := 0x0400, count := 64,
    fields := [⟨0, 32, .rw⟩] }
def MEM_KS.VALUE : Fld := ⟨MEM_KS, 0, 32⟩

/-- MEM_KS_FENCE_LO, offset 0x0500 (14_memory_system). -/
def MEM_KS_FENCE_LO : Reg :=
  { blk := .mem, ofs := 0x0500,
    fields := [⟨0, 32, .ro⟩] }
def MEM_KS_FENCE_LO.FENCED : Fld := ⟨MEM_KS_FENCE_LO, 0, 32⟩

/-- MEM_KS_FENCE_HI, offset 0x0504 (14_memory_system). -/
def MEM_KS_FENCE_HI : Reg :=
  { blk := .mem, ofs := 0x0504,
    fields := [⟨0, 32, .ro⟩] }
def MEM_KS_FENCE_HI.FENCED : Fld := ⟨MEM_KS_FENCE_HI, 0, 32⟩

/-- MEM_SCRUB_CFG, offset 0x0600 (14_memory_system). -/
def MEM_SCRUB_CFG : Reg :=
  { blk := .mem, ofs := 0x0600, rst := fun _ => 0x83E80018,
    fields := [⟨31, 1, .rw⟩, ⟨16, 15, .rw⟩, ⟨0, 16, .rw⟩] }
def MEM_SCRUB_CFG.EN : Fld := ⟨MEM_SCRUB_CFG, 31, 1⟩
def MEM_SCRUB_CFG.SRAM_MAX_MS : Fld := ⟨MEM_SCRUB_CFG, 16, 15⟩
def MEM_SCRUB_CFG.HBM_MAX_H : Fld := ⟨MEM_SCRUB_CFG, 0, 16⟩

/-- MEM_SCRUB_LAP, offset 0x0610 + 0x4 j, j < 8 (14_memory_system). -/
def MEM_SCRUB_LAP : Reg :=
  { blk := .mem, ofs := 0x0610, count := 8,
    fields := [⟨31, 1, .ro⟩, ⟨24, 7, .ro⟩, ⟨0, 24, .ro⟩] }
def MEM_SCRUB_LAP.SLOW : Fld := ⟨MEM_SCRUB_LAP, 31, 1⟩
def MEM_SCRUB_LAP.PROGRESS : Fld := ⟨MEM_SCRUB_LAP, 24, 7⟩
def MEM_SCRUB_LAP.LAP : Fld := ⟨MEM_SCRUB_LAP, 0, 24⟩

/-- The registers of MEM. -/
def regsMem : List Reg :=
  [MEM_STATUS, MEM_PC_FENCE, MEM_ECC_CFG, MEM_ECC_INFO0, MEM_ECC_INFO1, MEM_INT_STATUS,
   MEM_INT_EN, MEM_KS, MEM_KS_FENCE_LO, MEM_KS_FENCE_HI, MEM_SCRUB_CFG, MEM_SCRUB_LAP]

/-! ### ICT -/

/-- ICT_CTRL, offset 0x0000 (17_interrupts_and_vigil). -/
def ICT_CTRL : Reg :=
  { blk := .ict, ofs := 0x0000,
    fields := [⟨0, 1, .rw⟩] }
def ICT_CTRL.EN : Fld := ⟨ICT_CTRL, 0, 1⟩

/-- ICT_INT_STATUS, offset 0x0080 (17_interrupts_and_vigil). -/
def ICT_INT_STATUS : Reg :=
  { blk := .ict, ofs := 0x0080,
    fields := [⟨0, 1, .w1c⟩] }
def ICT_INT_STATUS.EOI_ERR : Fld := ⟨ICT_INT_STATUS, 0, 1⟩

/-- ICT_INT_EN, offset 0x0084 (17_interrupts_and_vigil). -/
def ICT_INT_EN : Reg :=
  { blk := .ict, ofs := 0x0084,
    fields := [⟨0, 1, .rw⟩] }
def ICT_INT_EN.EOI_ERR : Fld := ⟨ICT_INT_EN, 0, 1⟩

/-- ICT_CPU_CTRL, offset 0x0100 + 0x20 j, j < 2 (17_interrupts_and_vigil). -/
def ICT_CPU_CTRL : Reg :=
  { blk := .ict, ofs := 0x0100, count := 2, stride := 0x20,
    fields := [⟨8, 5, .rw⟩, ⟨0, 1, .rw⟩] }
def ICT_CPU_CTRL.PMR : Fld := ⟨ICT_CPU_CTRL, 8, 5⟩
def ICT_CPU_CTRL.EN : Fld := ⟨ICT_CPU_CTRL, 0, 1⟩

/-- ICT_CLAIM, offset 0x0104 + 0x20 j, j < 2 (17_interrupts_and_vigil). -/
def ICT_CLAIM : Reg :=
  { blk := .ict, ofs := 0x0104, count := 2, stride := 0x20,
    fields := [⟨31, 1, .ro⟩, ⟨16, 5, .ro⟩, ⟨0, 10, .ro⟩] }
def ICT_CLAIM.VALID : Fld := ⟨ICT_CLAIM, 31, 1⟩
def ICT_CLAIM.PRIO : Fld := ⟨ICT_CLAIM, 16, 5⟩
def ICT_CLAIM.SOURCE : Fld := ⟨ICT_CLAIM, 0, 10⟩

/-- ICT_EOI, offset 0x0108 + 0x20 j, j < 2 (17_interrupts_and_vigil). -/
def ICT_EOI : Reg :=
  { blk := .ict, ofs := 0x0108, count := 2, stride := 0x20,
    fields := [⟨0, 10, .wo⟩] }
def ICT_EOI.SOURCE : Fld := ⟨ICT_EOI, 0, 10⟩

/-- ICT_RUNNING, offset 0x010C + 0x20 j, j < 2 (17_interrupts_and_vigil). -/
def ICT_RUNNING : Reg :=
  { blk := .ict, ofs := 0x010C, count := 2, stride := 0x20,
    fields := [⟨21, 5, .ro⟩, ⟨16, 5, .ro⟩, ⟨0, 10, .ro⟩] }
def ICT_RUNNING.PRIO : Fld := ⟨ICT_RUNNING, 21, 5⟩
def ICT_RUNNING.DEPTH : Fld := ⟨ICT_RUNNING, 16, 5⟩
def ICT_RUNNING.TOP : Fld := ⟨ICT_RUNNING, 0, 10⟩

/-- ICT_HPP, offset 0x0110 + 0x20 j, j < 2 (17_interrupts_and_vigil). -/
def ICT_HPP : Reg :=
  { blk := .ict, ofs := 0x0110, count := 2, stride := 0x20,
    fields := [⟨31, 1, .ro⟩, ⟨16, 5, .ro⟩, ⟨0, 10, .ro⟩] }
def ICT_HPP.VALID : Fld := ⟨ICT_HPP, 31, 1⟩
def ICT_HPP.PRIO : Fld := ⟨ICT_HPP, 16, 5⟩
def ICT_HPP.SOURCE : Fld := ⟨ICT_HPP, 0, 10⟩

/-- ICT_PEND, offset 0x0400 + 0x4 j, j < 32 (17_interrupts_and_vigil). -/
def ICT_PEND : Reg :=
  { blk := .ict, ofs := 0x0400, count := 32,
    fields := [⟨0, 32, .w1c⟩] }
def ICT_PEND.SRC : Fld := ⟨ICT_PEND, 0, 32⟩

/-- ICT_ACTIVE, offset 0x0480 + 0x4 j, j < 32 (17_interrupts_and_vigil). -/
def ICT_ACTIVE : Reg :=
  { blk := .ict, ofs := 0x0480, count := 32,
    fields := [⟨0, 32, .ro⟩] }
def ICT_ACTIVE.SRC : Fld := ⟨ICT_ACTIVE, 0, 32⟩

/-- ICT_SWI_LO, offset 0x0500 (17_interrupts_and_vigil). -/
def ICT_SWI_LO : Reg :=
  { blk := .ict, ofs := 0x0500,
    fields := [⟨0, 32, .w1s⟩] }
def ICT_SWI_LO.SET : Fld := ⟨ICT_SWI_LO, 0, 32⟩

/-- ICT_SWI_HI, offset 0x0504 (17_interrupts_and_vigil). -/
def ICT_SWI_HI : Reg :=
  { blk := .ict, ofs := 0x0504,
    fields := [⟨0, 32, .w1s⟩] }
def ICT_SWI_HI.SET : Fld := ⟨ICT_SWI_HI, 0, 32⟩

/-- ICT_ERR_INFO, offset 0x0600 (17_interrupts_and_vigil). -/
def ICT_ERR_INFO : Reg :=
  { blk := .ict, ofs := 0x0600,
    fields := [⟨31, 1, .ro⟩, ⟨24, 7, .ro⟩, ⟨22, 2, .ro⟩, ⟨21, 1, .ro⟩, ⟨0, 10, .ro⟩] }
def ICT_ERR_INFO.VALID : Fld := ⟨ICT_ERR_INFO, 31, 1⟩
def ICT_ERR_INFO.SEQ : Fld := ⟨ICT_ERR_INFO, 24, 7⟩
def ICT_ERR_INFO.CAUSE : Fld := ⟨ICT_ERR_INFO, 22, 2⟩
def ICT_ERR_INFO.CORE : Fld := ⟨ICT_ERR_INFO, 21, 1⟩
def ICT_ERR_INFO.SOURCE : Fld := ⟨ICT_ERR_INFO, 0, 10⟩

/-- ICT_SRC_CFG, offset 0x1000 + 0x4 j, j < 1024 (17_interrupts_and_vigil). -/
def ICT_SRC_CFG : Reg :=
  { blk := .ict, ofs := 0x1000, count := 1024, rst := fun _ => 0x00000200,
    fields := [⟨30, 2, .ro⟩, ⟨29, 1, .ro⟩, ⟨28, 1, .ro⟩, ⟨9, 1, .rw⟩, ⟨8, 1, .rw⟩, ⟨0, 5, .rw⟩] }
def ICT_SRC_CFG.STATE : Fld := ⟨ICT_SRC_CFG, 30, 2⟩
def ICT_SRC_CFG.LINE : Fld := ⟨ICT_SRC_CFG, 29, 1⟩
def ICT_SRC_CFG.CORE : Fld := ⟨ICT_SRC_CFG, 28, 1⟩
def ICT_SRC_CFG.FALLBACK : Fld := ⟨ICT_SRC_CFG, 9, 1⟩
def ICT_SRC_CFG.TARGET : Fld := ⟨ICT_SRC_CFG, 8, 1⟩
def ICT_SRC_CFG.PRIO : Fld := ⟨ICT_SRC_CFG, 0, 5⟩

/-- The registers of ICT. -/
def regsIct : List Reg :=
  [ICT_CTRL, ICT_INT_STATUS, ICT_INT_EN, ICT_CPU_CTRL, ICT_CLAIM, ICT_EOI, ICT_RUNNING, ICT_HPP,
   ICT_PEND, ICT_ACTIVE, ICT_SWI_LO, ICT_SWI_HI, ICT_ERR_INFO, ICT_SRC_CFG]

/-! ### VGL -/

/-- VGL_CTRL, offset 0x0000 (17_interrupts_and_vigil). -/
def VGL_CTRL : Reg :=
  { blk := .vgl, ofs := 0x0000,
    fields := [⟨1, 1, .rw⟩, ⟨0, 1, .rws⟩] }
def VGL_CTRL.CMP_EN : Fld := ⟨VGL_CTRL, 1, 1⟩
def VGL_CTRL.CLK_SEL : Fld := ⟨VGL_CTRL, 0, 1⟩

/-- VGL_STATUS, offset 0x0004 (17_interrupts_and_vigil). -/
def VGL_STATUS : Reg :=
  { blk := .vgl, ofs := 0x0004,
    fields := [⟨3, 1, .ro⟩, ⟨1, 2, .ro⟩, ⟨0, 1, .ro⟩] }
def VGL_STATUS.ISL7_DOWN : Fld := ⟨VGL_STATUS, 3, 1⟩
def VGL_STATUS.ASLEEP : Fld := ⟨VGL_STATUS, 1, 2⟩
def VGL_STATUS.EXT_OK : Fld := ⟨VGL_STATUS, 0, 1⟩

/-- VGL_SLEEP, offset 0x0008 (17_interrupts_and_vigil). -/
def VGL_SLEEP : Reg :=
  { blk := .vgl, ofs := 0x0008,
    fields := [⟨0, 2, .w1s⟩] }
def VGL_SLEEP.CORE : Fld := ⟨VGL_SLEEP, 0, 2⟩

/-- VGL_TIMER, offset 0x0010 (17_interrupts_and_vigil). -/
def VGL_TIMER : Reg :=
  { blk := .vgl, ofs := 0x0010,
    fields := [⟨0, 32, .ro⟩] }
def VGL_TIMER.TICKS : Fld := ⟨VGL_TIMER, 0, 32⟩

/-- VGL_TIMER_CMP, offset 0x0014 (17_interrupts_and_vigil). -/
def VGL_TIMER_CMP : Reg :=
  { blk := .vgl, ofs := 0x0014,
    fields := [⟨0, 32, .rw⟩] }
def VGL_TIMER_CMP.TICKS : Fld := ⟨VGL_TIMER_CMP, 0, 32⟩

/-- VGL_WAKE_INFO, offset 0x0020 (17_interrupts_and_vigil). -/
def VGL_WAKE_INFO : Reg :=
  { blk := .vgl, ofs := 0x0020,
    fields := [⟨31, 1, .ro⟩, ⟨24, 7, .ro⟩, ⟨18, 6, .ro⟩, ⟨17, 1, .ro⟩, ⟨16, 1, .ro⟩, ⟨0, 10, .ro⟩] }
def VGL_WAKE_INFO.VALID : Fld := ⟨VGL_WAKE_INFO, 31, 1⟩
def VGL_WAKE_INFO.SEQ : Fld := ⟨VGL_WAKE_INFO, 24, 7⟩
def VGL_WAKE_INFO.ENTRY : Fld := ⟨VGL_WAKE_INFO, 18, 6⟩
def VGL_WAKE_INFO.DEVICE : Fld := ⟨VGL_WAKE_INFO, 17, 1⟩
def VGL_WAKE_INFO.CORE : Fld := ⟨VGL_WAKE_INFO, 16, 1⟩
def VGL_WAKE_INFO.SOURCE : Fld := ⟨VGL_WAKE_INFO, 0, 10⟩

/-- VGL_INT_STATUS, offset 0x0080 (17_interrupts_and_vigil). -/
def VGL_INT_STATUS : Reg :=
  { blk := .vgl, ofs := 0x0080,
    fields := [⟨2, 1, .w1c⟩, ⟨1, 1, .w1c⟩, ⟨0, 1, .w1c⟩] }
def VGL_INT_STATUS.ORPHAN : Fld := ⟨VGL_INT_STATUS, 2, 1⟩
def VGL_INT_STATUS.WAKE : Fld := ⟨VGL_INT_STATUS, 1, 1⟩
def VGL_INT_STATUS.TIMER : Fld := ⟨VGL_INT_STATUS, 0, 1⟩

/-- VGL_INT_EN, offset 0x0084 (17_interrupts_and_vigil). -/
def VGL_INT_EN : Reg :=
  { blk := .vgl, ofs := 0x0084,
    fields := [⟨2, 1, .rw⟩, ⟨1, 1, .rw⟩, ⟨0, 1, .rw⟩] }
def VGL_INT_EN.ORPHAN : Fld := ⟨VGL_INT_EN, 2, 1⟩
def VGL_INT_EN.WAKE : Fld := ⟨VGL_INT_EN, 1, 1⟩
def VGL_INT_EN.TIMER : Fld := ⟨VGL_INT_EN, 0, 1⟩

/-- VGL_WATCH, offset 0x0100 + 0x4 j, j < 64 (17_interrupts_and_vigil). -/
def VGL_WATCH : Reg :=
  { blk := .vgl, ofs := 0x0100, count := 64,
    fields := [⟨31, 1, .rw⟩, ⟨16, 1, .rw⟩, ⟨0, 10, .rw⟩] }
def VGL_WATCH.EN : Fld := ⟨VGL_WATCH, 31, 1⟩
def VGL_WATCH.DEVICE : Fld := ⟨VGL_WATCH, 16, 1⟩
def VGL_WATCH.SOURCE : Fld := ⟨VGL_WATCH, 0, 10⟩

/-- The registers of VGL. -/
def regsVgl : List Reg :=
  [VGL_CTRL, VGL_STATUS, VGL_SLEEP, VGL_TIMER, VGL_TIMER_CMP, VGL_WAKE_INFO, VGL_INT_STATUS,
   VGL_INT_EN, VGL_WATCH]

/-! ### FLT -/

/-- FLT_STATUS, offset 0x0004 (18_faults_and_almanac). -/
def FLT_STATUS : Reg :=
  { blk := .flt, ofs := 0x0004,
    fields := [⟨31, 1, .ro⟩, ⟨30, 1, .ro⟩, ⟨24, 6, .ro⟩] }
def FLT_STATUS.PAUSE : Fld := ⟨FLT_STATUS, 31, 1⟩
def FLT_STATUS.FA : Fld := ⟨FLT_STATUS, 30, 1⟩
def FLT_STATUS.QUEUED : Fld := ⟨FLT_STATUS, 24, 6⟩

/-- FLT_DELAYED, offset 0x0008 (18_faults_and_almanac). -/
def FLT_DELAYED : Reg :=
  { blk := .flt, ofs := 0x0008,
    fields := [⟨0, 32, .ro⟩] }
def FLT_DELAYED.COUNT : Fld := ⟨FLT_DELAYED, 0, 32⟩

/-- FLT_REC0, offset 0x0010 (18_faults_and_almanac). -/
def FLT_REC0 : Reg :=
  { blk := .flt, ofs := 0x0010,
    fields := [⟨31, 1, .ro⟩, ⟨24, 7, .ro⟩, ⟨22, 2, .ro⟩, ⟨21, 1, .ro⟩, ⟨20, 1, .ro⟩, ⟨16, 4, .ro⟩, ⟨0, 9, .ro⟩] }
def FLT_REC0.VALID : Fld := ⟨FLT_REC0, 31, 1⟩
def FLT_REC0.SEQ : Fld := ⟨FLT_REC0, 24, 7⟩
def FLT_REC0.CLASS : Fld := ⟨FLT_REC0, 22, 2⟩
def FLT_REC0.INJECTED : Fld := ⟨FLT_REC0, 21, 1⟩
def FLT_REC0.FENCED : Fld := ⟨FLT_REC0, 20, 1⟩
def FLT_REC0.KIND : Fld := ⟨FLT_REC0, 16, 4⟩
def FLT_REC0.SITE : Fld := ⟨FLT_REC0, 0, 9⟩

/-- FLT_REC1, offset 0x0014 (18_faults_and_almanac). -/
def FLT_REC1 : Reg :=
  { blk := .flt, ofs := 0x0014,
    fields := [⟨0, 32, .ro⟩] }
def FLT_REC1.ADDR_LO : Fld := ⟨FLT_REC1, 0, 32⟩

/-- FLT_REC2, offset 0x0018 (18_faults_and_almanac). -/
def FLT_REC2 : Reg :=
  { blk := .flt, ofs := 0x0018,
    fields := [⟨16, 16, .ro⟩, ⟨0, 8, .ro⟩] }
def FLT_REC2.UNIT : Fld := ⟨FLT_REC2, 16, 16⟩
def FLT_REC2.ADDR_HI : Fld := ⟨FLT_REC2, 0, 8⟩

/-- FLT_FA0, offset 0x0020 (18_faults_and_almanac). -/
def FLT_FA0 : Reg :=
  { blk := .flt, ofs := 0x0020,
    fields := [⟨31, 1, .rws⟩, ⟨24, 7, .rws⟩, ⟨22, 2, .rws⟩, ⟨21, 1, .rws⟩, ⟨20, 1, .rws⟩, ⟨16, 4, .rws⟩, ⟨0, 9, .rws⟩] }
def FLT_FA0.VALID : Fld := ⟨FLT_FA0, 31, 1⟩
def FLT_FA0.SEQ : Fld := ⟨FLT_FA0, 24, 7⟩
def FLT_FA0.CLASS : Fld := ⟨FLT_FA0, 22, 2⟩
def FLT_FA0.INJECTED : Fld := ⟨FLT_FA0, 21, 1⟩
def FLT_FA0.FENCED : Fld := ⟨FLT_FA0, 20, 1⟩
def FLT_FA0.KIND : Fld := ⟨FLT_FA0, 16, 4⟩
def FLT_FA0.SITE : Fld := ⟨FLT_FA0, 0, 9⟩

/-- FLT_FA1, offset 0x0024 (18_faults_and_almanac). -/
def FLT_FA1 : Reg :=
  { blk := .flt, ofs := 0x0024,
    fields := [⟨16, 16, .rws⟩, ⟨0, 8, .rws⟩] }
def FLT_FA1.UNIT : Fld := ⟨FLT_FA1, 16, 16⟩
def FLT_FA1.ADDR_HI : Fld := ⟨FLT_FA1, 0, 8⟩

/-- FLT_FENCE_CMD, offset 0x0040 (18_faults_and_almanac). -/
def FLT_FENCE_CMD : Reg :=
  { blk := .flt, ofs := 0x0040,
    fields := [⟨31, 1, .w1s⟩, ⟨30, 1, .rw⟩, ⟨16, 4, .rw⟩, ⟨0, 16, .rw⟩] }
def FLT_FENCE_CMD.GO : Fld := ⟨FLT_FENCE_CMD, 31, 1⟩
def FLT_FENCE_CMD.LIFT : Fld := ⟨FLT_FENCE_CMD, 30, 1⟩
def FLT_FENCE_CMD.KIND : Fld := ⟨FLT_FENCE_CMD, 16, 4⟩
def FLT_FENCE_CMD.INDEX : Fld := ⟨FLT_FENCE_CMD, 0, 16⟩

/-- FLT_FENCED_LANE, offset 0x0050 (18_faults_and_almanac). -/
def FLT_FENCED_LANE : Reg :=
  { blk := .flt, ofs := 0x0050,
    fields := [⟨0, 32, .ro⟩] }
def FLT_FENCED_LANE.LANE : Fld := ⟨FLT_FENCED_LANE, 0, 32⟩

/-- FLT_FENCED_MISC, offset 0x0054 (18_faults_and_almanac). -/
def FLT_FENCED_MISC : Reg :=
  { blk := .flt, ofs := 0x0054,
    fields := [⟨16, 16, .ro⟩, ⟨4, 2, .ro⟩, ⟨0, 4, .ro⟩] }
def FLT_FENCED_MISC.WAY : Fld := ⟨FLT_FENCED_MISC, 16, 16⟩
def FLT_FENCED_MISC.CORE : Fld := ⟨FLT_FENCED_MISC, 4, 2⟩
def FLT_FENCED_MISC.GROUP : Fld := ⟨FLT_FENCED_MISC, 0, 4⟩

/-- FLT_FENCED_SHU_LO, offset 0x0058 (18_faults_and_almanac). -/
def FLT_FENCED_SHU_LO : Reg :=
  { blk := .flt, ofs := 0x0058,
    fields := [⟨0, 32, .ro⟩] }
def FLT_FENCED_SHU_LO.CH : Fld := ⟨FLT_FENCED_SHU_LO, 0, 32⟩

/-- FLT_FENCED_SHU_HI, offset 0x005C (18_faults_and_almanac). -/
def FLT_FENCED_SHU_HI : Reg :=
  { blk := .flt, ofs := 0x005C,
    fields := [⟨0, 32, .ro⟩] }
def FLT_FENCED_SHU_HI.CH : Fld := ⟨FLT_FENCED_SHU_HI, 0, 32⟩

/-- FLT_FENCED_FN_LO, offset 0x0060 (18_faults_and_almanac). -/
def FLT_FENCED_FN_LO : Reg :=
  { blk := .flt, ofs := 0x0060,
    fields := [⟨0, 32, .ro⟩] }
def FLT_FENCED_FN_LO.FN : Fld := ⟨FLT_FENCED_FN_LO, 0, 32⟩

/-- FLT_FENCED_FN_HI, offset 0x0064 (18_faults_and_almanac). -/
def FLT_FENCED_FN_HI : Reg :=
  { blk := .flt, ofs := 0x0064,
    fields := [⟨0, 32, .ro⟩] }
def FLT_FENCED_FN_HI.FN : Fld := ⟨FLT_FENCED_FN_HI, 0, 32⟩

/-- FLT_INJ_CTRL, offset 0x0070 (18_faults_and_almanac). -/
def FLT_INJ_CTRL : Reg :=
  { blk := .flt, ofs := 0x0070, rst := fun _ => 0x10010000,
    fields := [⟨31, 1, .w1s⟩, ⟨30, 1, .rw⟩, ⟨28, 2, .rw⟩, ⟨16, 8, .rw⟩, ⟨0, 9, .rw⟩] }
def FLT_INJ_CTRL.GO : Fld := ⟨FLT_INJ_CTRL, 31, 1⟩
def FLT_INJ_CTRL.SUPPRESS : Fld := ⟨FLT_INJ_CTRL, 30, 1⟩
def FLT_INJ_CTRL.BITS : Fld := ⟨FLT_INJ_CTRL, 28, 2⟩
def FLT_INJ_CTRL.COUNT : Fld := ⟨FLT_INJ_CTRL, 16, 8⟩
def FLT_INJ_CTRL.SITE : Fld := ⟨FLT_INJ_CTRL, 0, 9⟩

/-- FLT_INJ_STATUS, offset 0x0074 (18_faults_and_almanac). -/
def FLT_INJ_STATUS : Reg :=
  { blk := .flt, ofs := 0x0074,
    fields := [⟨31, 1, .ro⟩, ⟨0, 8, .ro⟩] }
def FLT_INJ_STATUS.ACTIVE : Fld := ⟨FLT_INJ_STATUS, 31, 1⟩
def FLT_INJ_STATUS.REMAIN : Fld := ⟨FLT_INJ_STATUS, 0, 8⟩

/-- FLT_INT_STATUS, offset 0x0080 (18_faults_and_almanac). -/
def FLT_INT_STATUS : Reg :=
  { blk := .flt, ofs := 0x0080,
    fields := [⟨5, 1, .w1c⟩, ⟨4, 1, .w1c⟩, ⟨3, 1, .w1c⟩, ⟨2, 1, .w1c⟩, ⟨1, 1, .w1c⟩, ⟨0, 1, .w1c⟩] }
def FLT_INT_STATUS.INJ_DONE : Fld := ⟨FLT_INT_STATUS, 5, 1⟩
def FLT_INT_STATUS.ESCALATE : Fld := ⟨FLT_INT_STATUS, 4, 1⟩
def FLT_INT_STATUS.FENCE : Fld := ⟨FLT_INT_STATUS, 3, 1⟩
def FLT_INT_STATUS.FA : Fld := ⟨FLT_INT_STATUS, 2, 1⟩
def FLT_INT_STATUS.UC : Fld := ⟨FLT_INT_STATUS, 1, 1⟩
def FLT_INT_STATUS.CE : Fld := ⟨FLT_INT_STATUS, 0, 1⟩

/-- FLT_INT_EN, offset 0x0084 (18_faults_and_almanac). -/
def FLT_INT_EN : Reg :=
  { blk := .flt, ofs := 0x0084,
    fields := [⟨5, 1, .rw⟩, ⟨4, 1, .rw⟩, ⟨3, 1, .rw⟩, ⟨2, 1, .rw⟩, ⟨1, 1, .rw⟩, ⟨0, 1, .rw⟩] }
def FLT_INT_EN.INJ_DONE : Fld := ⟨FLT_INT_EN, 5, 1⟩
def FLT_INT_EN.ESCALATE : Fld := ⟨FLT_INT_EN, 4, 1⟩
def FLT_INT_EN.FENCE : Fld := ⟨FLT_INT_EN, 3, 1⟩
def FLT_INT_EN.FA : Fld := ⟨FLT_INT_EN, 2, 1⟩
def FLT_INT_EN.UC : Fld := ⟨FLT_INT_EN, 1, 1⟩
def FLT_INT_EN.CE : Fld := ⟨FLT_INT_EN, 0, 1⟩

/-- FLT_SITE_CFG, offset 0x1000 + 0x4 j, j < 512 (18_faults_and_almanac). -/
def FLT_SITE_CFG : Reg :=
  { blk := .flt, ofs := 0x1000, count := 512, rst := siteCfgReset,
    fields := [⟨16, 16, .ro⟩, ⟨12, 4, .ro⟩, ⟨4, 8, .rwl⟩, ⟨2, 2, .rws⟩, ⟨0, 2, .rwl⟩] }
def FLT_SITE_CFG.CE_CNT : Fld := ⟨FLT_SITE_CFG, 16, 16⟩
def FLT_SITE_CFG.UC_CNT : Fld := ⟨FLT_SITE_CFG, 12, 4⟩
def FLT_SITE_CFG.CE_LIM : Fld := ⟨FLT_SITE_CFG, 4, 8⟩
def FLT_SITE_CFG.FA_CNT : Fld := ⟨FLT_SITE_CFG, 2, 2⟩
def FLT_SITE_CFG.ACTION : Fld := ⟨FLT_SITE_CFG, 0, 2⟩

/-- The registers of FLT. -/
def regsFlt : List Reg :=
  [FLT_STATUS, FLT_DELAYED, FLT_REC0, FLT_REC1, FLT_REC2, FLT_FA0, FLT_FA1, FLT_FENCE_CMD,
   FLT_FENCED_LANE, FLT_FENCED_MISC, FLT_FENCED_SHU_LO, FLT_FENCED_SHU_HI, FLT_FENCED_FN_LO,
   FLT_FENCED_FN_HI, FLT_INJ_CTRL, FLT_INJ_STATUS, FLT_INT_STATUS, FLT_INT_EN, FLT_SITE_CFG]

/-! ### ALM -/

/-- ALM_CTRL, offset 0x0000 (18_faults_and_almanac). -/
def ALM_CTRL : Reg :=
  { blk := .alm, ofs := 0x0000, rst := fun _ => 0x00000001,
    fields := [⟨1, 1, .w1s⟩, ⟨0, 1, .rwl⟩] }
def ALM_CTRL.ERASE : Fld := ⟨ALM_CTRL, 1, 1⟩
def ALM_CTRL.EN : Fld := ⟨ALM_CTRL, 0, 1⟩

/-- ALM_STATUS, offset 0x0004 (18_faults_and_almanac). -/
def ALM_STATUS : Reg :=
  { blk := .alm, ofs := 0x0004,
    fields := [⟨31, 1, .ro⟩, ⟨30, 1, .ro⟩, ⟨29, 1, .ro⟩, ⟨28, 1, .ro⟩, ⟨0, 10, .ro⟩] }
def ALM_STATUS.FULL : Fld := ⟨ALM_STATUS, 31, 1⟩
def ALM_STATUS.RESERVE_FULL : Fld := ⟨ALM_STATUS, 30, 1⟩
def ALM_STATUS.COPY_B_OK : Fld := ⟨ALM_STATUS, 29, 1⟩
def ALM_STATUS.COPY_A_OK : Fld := ⟨ALM_STATUS, 28, 1⟩
def ALM_STATUS.STAGED : Fld := ⟨ALM_STATUS, 0, 10⟩

/-- ALM_SEQ_FIRST, offset 0x0008 (18_faults_and_almanac). -/
def ALM_SEQ_FIRST : Reg :=
  { blk := .alm, ofs := 0x0008,
    fields := [⟨0, 32, .ro⟩] }
def ALM_SEQ_FIRST.SEQ : Fld := ⟨ALM_SEQ_FIRST, 0, 32⟩

/-- ALM_SEQ_LAST, offset 0x000C (18_faults_and_almanac). -/
def ALM_SEQ_LAST : Reg :=
  { blk := .alm, ofs := 0x000C,
    fields := [⟨0, 32, .ro⟩] }
def ALM_SEQ_LAST.SEQ : Fld := ⟨ALM_SEQ_LAST, 0, 32⟩

/-- ALM_DROPPED, offset 0x0010 (18_faults_and_almanac). -/
def ALM_DROPPED : Reg :=
  { blk := .alm, ofs := 0x0010,
    fields := [⟨0, 32, .ro⟩] }
def ALM_DROPPED.COUNT : Fld := ⟨ALM_DROPPED, 0, 32⟩

/-- ALM_CURSOR, offset 0x0020 (18_faults_and_almanac). -/
def ALM_CURSOR : Reg :=
  { blk := .alm, ofs := 0x0020,
    fields := [⟨0, 32, .rw⟩] }
def ALM_CURSOR.SEQ : Fld := ⟨ALM_CURSOR, 0, 32⟩

/-- ALM_CUR_OFS, offset 0x0024 (18_faults_and_almanac). -/
def ALM_CUR_OFS : Reg :=
  { blk := .alm, ofs := 0x0024,
    fields := [⟨31, 1, .w1s⟩, ⟨0, 4, .rw⟩] }
def ALM_CUR_OFS.NEXT : Fld := ⟨ALM_CUR_OFS, 31, 1⟩
def ALM_CUR_OFS.PAGE : Fld := ⟨ALM_CUR_OFS, 0, 4⟩

/-- ALM_CUR_INFO, offset 0x0028 (18_faults_and_almanac). -/
def ALM_CUR_INFO : Reg :=
  { blk := .alm, ofs := 0x0028,
    fields := [⟨31, 1, .ro⟩, ⟨24, 7, .ro⟩, ⟨23, 1, .ro⟩, ⟨0, 12, .ro⟩] }
def ALM_CUR_INFO.VALID : Fld := ⟨ALM_CUR_INFO, 31, 1⟩
def ALM_CUR_INFO.SEQ : Fld := ⟨ALM_CUR_INFO, 24, 7⟩
def ALM_CUR_INFO.FOUND : Fld := ⟨ALM_CUR_INFO, 23, 1⟩
def ALM_CUR_INFO.PLEN : Fld := ⟨ALM_CUR_INFO, 0, 12⟩

/-- ALM_POST_CTRL, offset 0x0040 (18_faults_and_almanac). -/
def ALM_POST_CTRL : Reg :=
  { blk := .alm, ofs := 0x0040, rst := fun _ => 0x00000900,
    fields := [⟨31, 1, .w1s⟩, ⟨30, 1, .ro⟩, ⟨16, 12, .rw⟩, ⟨0, 16, .rw⟩] }
def ALM_POST_CTRL.GO : Fld := ⟨ALM_POST_CTRL, 31, 1⟩
def ALM_POST_CTRL.ERR : Fld := ⟨ALM_POST_CTRL, 30, 1⟩
def ALM_POST_CTRL.PLEN : Fld := ⟨ALM_POST_CTRL, 16, 12⟩
def ALM_POST_CTRL.TYPE : Fld := ⟨ALM_POST_CTRL, 0, 16⟩

/-- ALM_POST_ADDR_LO, offset 0x0044 (18_faults_and_almanac). -/
def ALM_POST_ADDR_LO : Reg :=
  { blk := .alm, ofs := 0x0044,
    fields := [⟨0, 32, .rw⟩] }
def ALM_POST_ADDR_LO.ADDR : Fld := ⟨ALM_POST_ADDR_LO, 0, 32⟩

/-- ALM_POST_ADDR_HI, offset 0x0048 (18_faults_and_almanac). -/
def ALM_POST_ADDR_HI : Reg :=
  { blk := .alm, ofs := 0x0048,
    fields := [⟨0, 8, .rw⟩] }
def ALM_POST_ADDR_HI.ADDR : Fld := ⟨ALM_POST_ADDR_HI, 0, 8⟩

/-- ALM_INT_STATUS, offset 0x0080 (18_faults_and_almanac). -/
def ALM_INT_STATUS : Reg :=
  { blk := .alm, ofs := 0x0080,
    fields := [⟨3, 1, .w1c⟩, ⟨2, 1, .w1c⟩, ⟨1, 1, .w1c⟩, ⟨0, 1, .w1c⟩] }
def ALM_INT_STATUS.RESERVE : Fld := ⟨ALM_INT_STATUS, 3, 1⟩
def ALM_INT_STATUS.FULL : Fld := ⟨ALM_INT_STATUS, 2, 1⟩
def ALM_INT_STATUS.DROPPED : Fld := ⟨ALM_INT_STATUS, 1, 1⟩
def ALM_INT_STATUS.POSTED : Fld := ⟨ALM_INT_STATUS, 0, 1⟩

/-- ALM_INT_EN, offset 0x0084 (18_faults_and_almanac). -/
def ALM_INT_EN : Reg :=
  { blk := .alm, ofs := 0x0084,
    fields := [⟨3, 1, .rw⟩, ⟨2, 1, .rw⟩, ⟨1, 1, .rw⟩, ⟨0, 1, .rw⟩] }
def ALM_INT_EN.RESERVE : Fld := ⟨ALM_INT_EN, 3, 1⟩
def ALM_INT_EN.FULL : Fld := ⟨ALM_INT_EN, 2, 1⟩
def ALM_INT_EN.DROPPED : Fld := ⟨ALM_INT_EN, 1, 1⟩
def ALM_INT_EN.POSTED : Fld := ⟨ALM_INT_EN, 0, 1⟩

/-- ALM_WIN, offset 0x0100 + 0x4 j, j < 64 (18_faults_and_almanac). -/
def ALM_WIN : Reg :=
  { blk := .alm, ofs := 0x0100, count := 64,
    fields := [⟨0, 32, .ro⟩] }
def ALM_WIN.DATA : Fld := ⟨ALM_WIN, 0, 32⟩

/-- The registers of ALM. -/
def regsAlm : List Reg :=
  [ALM_CTRL, ALM_STATUS, ALM_SEQ_FIRST, ALM_SEQ_LAST, ALM_DROPPED, ALM_CURSOR, ALM_CUR_OFS,
   ALM_CUR_INFO, ALM_POST_CTRL, ALM_POST_ADDR_LO, ALM_POST_ADDR_HI, ALM_INT_STATUS, ALM_INT_EN,
   ALM_WIN]

/-! ### SEC -/

/-- SEC_STATUS, offset 0x0004 (19_roles_keys_observation). -/
def SEC_STATUS : Reg :=
  { blk := .sec, ofs := 0x0004,
    fields := [⟨31, 1, .ro⟩, ⟨30, 1, .ro⟩, ⟨29, 1, .ro⟩, ⟨16, 8, .ro⟩, ⟨12, 4, .ro⟩, ⟨0, 12, .ro⟩] }
def SEC_STATUS.KEYSTORE_OK : Fld := ⟨SEC_STATUS, 31, 1⟩
def SEC_STATUS.ENTROPY_OK : Fld := ⟨SEC_STATUS, 30, 1⟩
def SEC_STATUS.LOCKOUT : Fld := ⟨SEC_STATUS, 29, 1⟩
def SEC_STATUS.LOCK_REMAIN : Fld := ⟨SEC_STATUS, 16, 8⟩
def SEC_STATUS.FAIL_COUNT : Fld := ⟨SEC_STATUS, 12, 4⟩
def SEC_STATUS.KEYS : Fld := ⟨SEC_STATUS, 0, 12⟩

/-- SEC_KS_GEN, offset 0x0008 (19_roles_keys_observation). -/
def SEC_KS_GEN : Reg :=
  { blk := .sec, ofs := 0x0008,
    fields := [⟨0, 32, .ro⟩] }
def SEC_KS_GEN.GEN : Fld := ⟨SEC_KS_GEN, 0, 32⟩

/-- SEC_INT_STATUS, offset 0x0080 (19_roles_keys_observation). -/
def SEC_INT_STATUS : Reg :=
  { blk := .sec, ofs := 0x0080,
    fields := [⟨4, 1, .w1c⟩, ⟨3, 1, .w1c⟩, ⟨2, 1, .w1c⟩, ⟨1, 1, .w1c⟩, ⟨0, 1, .w1c⟩] }
def SEC_INT_STATUS.ENTROPY_FAIL : Fld := ⟨SEC_INT_STATUS, 4, 1⟩
def SEC_INT_STATUS.KEYSTORE : Fld := ⟨SEC_INT_STATUS, 3, 1⟩
def SEC_INT_STATUS.LOCKOUT : Fld := ⟨SEC_INT_STATUS, 2, 1⟩
def SEC_INT_STATUS.OPEN_FAIL : Fld := ⟨SEC_INT_STATUS, 1, 1⟩
def SEC_INT_STATUS.SESSION : Fld := ⟨SEC_INT_STATUS, 0, 1⟩

/-- SEC_INT_EN, offset 0x0084 (19_roles_keys_observation). -/
def SEC_INT_EN : Reg :=
  { blk := .sec, ofs := 0x0084,
    fields := [⟨4, 1, .rw⟩, ⟨3, 1, .rw⟩, ⟨2, 1, .rw⟩, ⟨1, 1, .rw⟩, ⟨0, 1, .rw⟩] }
def SEC_INT_EN.ENTROPY_FAIL : Fld := ⟨SEC_INT_EN, 4, 1⟩
def SEC_INT_EN.KEYSTORE : Fld := ⟨SEC_INT_EN, 3, 1⟩
def SEC_INT_EN.LOCKOUT : Fld := ⟨SEC_INT_EN, 2, 1⟩
def SEC_INT_EN.OPEN_FAIL : Fld := ⟨SEC_INT_EN, 1, 1⟩
def SEC_INT_EN.SESSION : Fld := ⟨SEC_INT_EN, 0, 1⟩

/-- SEC_SESSION, offset 0x0100 + 0x4 j, j < 64 (19_roles_keys_observation). -/
def SEC_SESSION : Reg :=
  { blk := .sec, ofs := 0x0100, count := 64,
    fields := [⟨31, 1, .ro⟩, ⟨29, 2, .ro⟩, ⟨0, 10, .ro⟩] }
def SEC_SESSION.OPEN : Fld := ⟨SEC_SESSION, 31, 1⟩
def SEC_SESSION.ROLE : Fld := ⟨SEC_SESSION, 29, 2⟩
def SEC_SESSION.LIFE : Fld := ⟨SEC_SESSION, 0, 10⟩

/-- The registers of SEC. -/
def regsSec : List Reg :=
  [SEC_STATUS, SEC_KS_GEN, SEC_INT_STATUS, SEC_INT_EN, SEC_SESSION]

/-! ### TRC -/

/-- TRC_CTRL, offset 0x0000 (19_roles_keys_observation). -/
def TRC_CTRL : Reg :=
  { blk := .trc, ofs := 0x0000, rst := fun _ => 0x20000000,
    fields := [⟨31, 1, .rw⟩, ⟨30, 1, .rw⟩, ⟨29, 1, .rw⟩, ⟨0, 15, .rw⟩] }
def TRC_CTRL.TRACE_EN : Fld := ⟨TRC_CTRL, 31, 1⟩
def TRC_CTRL.PORT_EN : Fld := ⟨TRC_CTRL, 30, 1⟩
def TRC_CTRL.CNT_EN : Fld := ⟨TRC_CTRL, 29, 1⟩
def TRC_CTRL.RANGES : Fld := ⟨TRC_CTRL, 0, 15⟩

/-- TRC_STATUS, offset 0x0004 (19_roles_keys_observation). -/
def TRC_STATUS : Reg :=
  { blk := .trc, ofs := 0x0004,
    fields := [⟨0, 32, .ro⟩] }
def TRC_STATUS.DROPPED : Fld := ⟨TRC_STATUS, 0, 32⟩

/-- TRC_RING_BASE_LO, offset 0x0010 (19_roles_keys_observation). -/
def TRC_RING_BASE_LO : Reg :=
  { blk := .trc, ofs := 0x0010,
    fields := [⟨0, 32, .rw⟩] }
def TRC_RING_BASE_LO.ADDR : Fld := ⟨TRC_RING_BASE_LO, 0, 32⟩

/-- TRC_RING_BASE_HI, offset 0x0014 (19_roles_keys_observation). -/
def TRC_RING_BASE_HI : Reg :=
  { blk := .trc, ofs := 0x0014,
    fields := [⟨0, 8, .rw⟩] }
def TRC_RING_BASE_HI.ADDR : Fld := ⟨TRC_RING_BASE_HI, 0, 8⟩

/-- TRC_RING_SIZE, offset 0x0018 (19_roles_keys_observation). -/
def TRC_RING_SIZE : Reg :=
  { blk := .trc, ofs := 0x0018,
    fields := [⟨0, 5, .rw⟩] }
def TRC_RING_SIZE.LOG2 : Fld := ⟨TRC_RING_SIZE, 0, 5⟩

/-- TRC_RING_WPTR, offset 0x001C (19_roles_keys_observation). -/
def TRC_RING_WPTR : Reg :=
  { blk := .trc, ofs := 0x001C,
    fields := [⟨0, 32, .ro⟩] }
def TRC_RING_WPTR.OFS : Fld := ⟨TRC_RING_WPTR, 0, 32⟩

/-- TRC_CLEAR, offset 0x0040 + 0x4 j, j < 8 (19_roles_keys_observation). -/
def TRC_CLEAR : Reg :=
  { blk := .trc, ofs := 0x0040, count := 8,
    fields := [⟨0, 32, .w1s⟩] }
def TRC_CLEAR.CLR : Fld := ⟨TRC_CLEAR, 0, 32⟩

/-- TRC_CNT_SEL, offset 0x1000 + 0x4 j, j < 256 (19_roles_keys_observation). -/
def TRC_CNT_SEL : Reg :=
  { blk := .trc, ofs := 0x1000, count := 256, rst := fun _ => 0x000F07FF,
    fields := [⟨16, 4, .rw⟩, ⟨0, 11, .rw⟩] }
def TRC_CNT_SEL.GROUPS : Fld := ⟨TRC_CNT_SEL, 16, 4⟩
def TRC_CNT_SEL.CODE : Fld := ⟨TRC_CNT_SEL, 0, 11⟩

/-- TRC_CNT_LO, offset 0x2000 + 0x8 j, j < 256 (19_roles_keys_observation). -/
def TRC_CNT_LO : Reg :=
  { blk := .trc, ofs := 0x2000, count := 256, stride := 0x8,
    fields := [⟨0, 32, .ro⟩] }
def TRC_CNT_LO.CNT : Fld := ⟨TRC_CNT_LO, 0, 32⟩

/-- TRC_CNT_HI, offset 0x2004 + 0x8 j, j < 256 (19_roles_keys_observation). -/
def TRC_CNT_HI : Reg :=
  { blk := .trc, ofs := 0x2004, count := 256, stride := 0x8,
    fields := [⟨0, 32, .ro⟩] }
def TRC_CNT_HI.CNT : Fld := ⟨TRC_CNT_HI, 0, 32⟩

/-- The registers of TRC. -/
def regsTrc : List Reg :=
  [TRC_CTRL, TRC_STATUS, TRC_RING_BASE_LO, TRC_RING_BASE_HI, TRC_RING_SIZE, TRC_RING_WPTR,
   TRC_CLEAR, TRC_CNT_SEL, TRC_CNT_LO, TRC_CNT_HI]

/-! ### SPN -/

/-- SPN_CTRL, offset 0x0000 (08_spindle_drive). -/
def SPN_CTRL : Reg :=
  { blk := .spn, ofs := 0x0000,
    fields := [⟨0, 1, .rw⟩] }
def SPN_CTRL.EN : Fld := ⟨SPN_CTRL, 0, 1⟩

/-- SPN_CMD, offset 0x0004 (08_spindle_drive). -/
def SPN_CMD : Reg :=
  { blk := .spn, ofs := 0x0004,
    fields := [⟨31, 1, .w1s⟩, ⟨0, 2, .rw⟩] }
def SPN_CMD.GO : Fld := ⟨SPN_CMD, 31, 1⟩
def SPN_CMD.OP : Fld := ⟨SPN_CMD, 0, 2⟩

/-- SPN_STATUS, offset 0x0008 (08_spindle_drive). -/
def SPN_STATUS : Reg :=
  { blk := .spn, ofs := 0x0008,
    fields := [⟨28, 4, .ro⟩, ⟨26, 2, .ro⟩, ⟨24, 2, .ro⟩, ⟨23, 1, .ro⟩, ⟨22, 1, .ro⟩, ⟨21, 1, .ro⟩, ⟨20, 1, .ro⟩, ⟨19, 1, .ro⟩, ⟨0, 4, .ro⟩] }
def SPN_STATUS.STATE : Fld := ⟨SPN_STATUS, 28, 4⟩
def SPN_STATUS.SRC : Fld := ⟨SPN_STATUS, 26, 2⟩
def SPN_STATUS.WGRP : Fld := ⟨SPN_STATUS, 24, 2⟩
def SPN_STATUS.REGULATED : Fld := ⟨SPN_STATUS, 23, 1⟩
def SPN_STATUS.GLIDING : Fld := ⟨SPN_STATUS, 22, 1⟩
def SPN_STATUS.DIR : Fld := ⟨SPN_STATUS, 21, 1⟩
def SPN_STATUS.KE_OK : Fld := ⟨SPN_STATUS, 20, 1⟩
def SPN_STATUS.VOLT_LIMIT : Fld := ⟨SPN_STATUS, 19, 1⟩
def SPN_STATUS.FCAUSE : Fld := ⟨SPN_STATUS, 0, 4⟩

/-- SPN_SPEED, offset 0x000C (08_spindle_drive). -/
def SPN_SPEED : Reg :=
  { blk := .spn, ofs := 0x000C,
    fields := [⟨0, 18, .ro⟩] }
def SPN_SPEED.SPEED : Fld := ⟨SPN_SPEED, 0, 18⟩

/-- SPN_SETPOINT, offset 0x0010 (08_spindle_drive). -/
def SPN_SETPOINT : Reg :=
  { blk := .spn, ofs := 0x0010,
    fields := [⟨0, 18, .ro⟩] }
def SPN_SETPOINT.SPEED : Fld := ⟨SPN_SETPOINT, 0, 18⟩

/-- SPN_TARGET, offset 0x0014 (08_spindle_drive). -/
def SPN_TARGET : Reg :=
  { blk := .spn, ofs := 0x0014, rst := fun _ => 0x0001C200,
    fields := [⟨0, 18, .rw⟩] }
def SPN_TARGET.TARGET : Fld := ⟨SPN_TARGET, 0, 18⟩

/-- SPN_RAMP, offset 0x0018 (08_spindle_drive). -/
def SPN_RAMP : Reg :=
  { blk := .spn, ofs := 0x0018, rst := fun _ => 0x01900096,
    fields := [⟨16, 16, .rwl⟩, ⟨0, 8, .rw⟩] }
def SPN_RAMP.RUNUP_ACCEL : Fld := ⟨SPN_RAMP, 16, 16⟩
def SPN_RAMP.GLIDE_RATE : Fld := ⟨SPN_RAMP, 0, 8⟩

/-- SPN_REG_CFG, offset 0x001C (08_spindle_drive). -/
def SPN_REG_CFG : Reg :=
  { blk := .spn, ofs := 0x001C, rst := fun _ => 0x32106B40,
    fields := [⟨24, 8, .rw⟩, ⟨16, 8, .rw⟩, ⟨12, 4, .rwl⟩, ⟨8, 4, .rwl⟩, ⟨4, 4, .rwl⟩] }
def SPN_REG_CFG.REG_TOL : Fld := ⟨SPN_REG_CFG, 24, 8⟩
def SPN_REG_CFG.REG_REVS : Fld := ⟨SPN_REG_CFG, 16, 8⟩
def SPN_REG_CFG.KPH : Fld := ⟨SPN_REG_CFG, 12, 4⟩
def SPN_REG_CFG.KIH : Fld := ⟨SPN_REG_CFG, 8, 4⟩
def SPN_REG_CFG.KDH : Fld := ⟨SPN_REG_CFG, 4, 4⟩

/-- SPN_PWM_CFG, offset 0x0020 (08_spindle_drive). -/
def SPN_PWM_CFG : Reg :=
  { blk := .spn, ofs := 0x0020, rst := fun _ => 0x00A00064,
    fields := [⟨16, 9, .rwl⟩, ⟨0, 9, .rwl⟩] }
def SPN_PWM_CFG.SETTLE : Fld := ⟨SPN_PWM_CFG, 16, 9⟩
def SPN_PWM_CFG.DEAD : Fld := ⟨SPN_PWM_CFG, 0, 9⟩

/-- SPN_MODEL, offset 0x0024 (08_spindle_drive). -/
def SPN_MODEL : Reg :=
  { blk := .spn, ofs := 0x0024, rst := fun _ => 0x40000000,
    fields := [⟨28, 4, .rwl⟩, ⟨16, 12, .rwl⟩, ⟨0, 16, .rwl⟩] }
def SPN_MODEL.POLE_PAIRS : Fld := ⟨SPN_MODEL, 28, 4⟩
def SPN_MODEL.PH_IND : Fld := ⟨SPN_MODEL, 16, 12⟩
def SPN_MODEL.PH_RES : Fld := ⟨SPN_MODEL, 0, 16⟩

/-- SPN_FOC_CFG, offset 0x0028 (08_spindle_drive). -/
def SPN_FOC_CFG : Reg :=
  { blk := .spn, ofs := 0x0028, rst := fun _ => 0x1F403700,
    fields := [⟨16, 16, .rwl⟩, ⟨12, 4, .rwl⟩, ⟨8, 4, .rwl⟩] }
def SPN_FOC_CFG.I_MAX : Fld := ⟨SPN_FOC_CFG, 16, 16⟩
def SPN_FOC_CFG.KP_I : Fld := ⟨SPN_FOC_CFG, 12, 4⟩
def SPN_FOC_CFG.KI_I : Fld := ⟨SPN_FOC_CFG, 8, 4⟩

/-- SPN_KE_REF, offset 0x002C (08_spindle_drive). -/
def SPN_KE_REF : Reg :=
  { blk := .spn, ofs := 0x002C,
    fields := [⟨0, 16, .ro⟩] }
def SPN_KE_REF.KE : Fld := ⟨SPN_KE_REF, 0, 16⟩

/-- SPN_KE_MEAS, offset 0x0030 (08_spindle_drive). -/
def SPN_KE_MEAS : Reg :=
  { blk := .spn, ofs := 0x0030,
    fields := [⟨31, 1, .ro⟩, ⟨24, 7, .ro⟩, ⟨23, 1, .ro⟩, ⟨22, 1, .ro⟩, ⟨0, 16, .ro⟩] }
def SPN_KE_MEAS.VALID : Fld := ⟨SPN_KE_MEAS, 31, 1⟩
def SPN_KE_MEAS.SEQ : Fld := ⟨SPN_KE_MEAS, 24, 7⟩
def SPN_KE_MEAS.SRC : Fld := ⟨SPN_KE_MEAS, 23, 1⟩
def SPN_KE_MEAS.PASS : Fld := ⟨SPN_KE_MEAS, 22, 1⟩
def SPN_KE_MEAS.KE : Fld := ⟨SPN_KE_MEAS, 0, 16⟩

/-- SPN_COAST_CFG, offset 0x0034 (08_spindle_drive). -/
def SPN_COAST_CFG : Reg :=
  { blk := .spn, ofs := 0x0034, rst := fun _ => 0x271080C8,
    fields := [⟨16, 16, .rwl⟩, ⟨13, 3, .rwl⟩, ⟨0, 10, .rwl⟩] }
def SPN_COAST_CFG.REV_BRAKE_MAX : Fld := ⟨SPN_COAST_CFG, 16, 16⟩
def SPN_COAST_CFG.KE_WIN : Fld := ⟨SPN_COAST_CFG, 13, 3⟩
def SPN_COAST_CFG.COAST_MS : Fld := ⟨SPN_COAST_CFG, 0, 10⟩

/-- SPN_COAST_INFO, offset 0x0038 (08_spindle_drive). -/
def SPN_COAST_INFO : Reg :=
  { blk := .spn, ofs := 0x0038,
    fields := [⟨31, 1, .ro⟩, ⟨24, 7, .ro⟩, ⟨22, 2, .ro⟩, ⟨0, 18, .ro⟩] }
def SPN_COAST_INFO.VALID : Fld := ⟨SPN_COAST_INFO, 31, 1⟩
def SPN_COAST_INFO.SEQ : Fld := ⟨SPN_COAST_INFO, 24, 7⟩
def SPN_COAST_INFO.RESULT : Fld := ⟨SPN_COAST_INFO, 22, 2⟩
def SPN_COAST_INFO.SPEED : Fld := ⟨SPN_COAST_INFO, 0, 18⟩

/-- SPN_HFI_CFG, offset 0x003C (08_spindle_drive). -/
def SPN_HFI_CFG : Reg :=
  { blk := .spn, ofs := 0x003C, rst := fun _ => 0x50492800,
    fields := [⟨24, 8, .rwl⟩, ⟨20, 4, .rwl⟩, ⟨16, 4, .rwl⟩, ⟨8, 8, .rwl⟩] }
def SPN_HFI_CFG.HFI_AMP : Fld := ⟨SPN_HFI_CFG, 24, 8⟩
def SPN_HFI_CFG.HFI_KP : Fld := ⟨SPN_HFI_CFG, 20, 4⟩
def SPN_HFI_CFG.HFI_KI : Fld := ⟨SPN_HFI_CFG, 16, 4⟩
def SPN_HFI_CFG.HFI_ACQ_MS : Fld := ⟨SPN_HFI_CFG, 8, 8⟩

/-- SPN_POL_CFG, offset 0x0040 (08_spindle_drive). -/
def SPN_POL_CFG : Reg :=
  { blk := .spn, ofs := 0x0040, rst := fun _ => 0x400000C8,
    fields := [⟨24, 8, .rwl⟩, ⟨0, 12, .rwl⟩] }
def SPN_POL_CFG.POL_AMP : Fld := ⟨SPN_POL_CFG, 24, 8⟩
def SPN_POL_CFG.POL_US : Fld := ⟨SPN_POL_CFG, 0, 12⟩

/-- SPN_OBS_CFG, offset 0x0044 (08_spindle_drive). -/
def SPN_OBS_CFG : Reg :=
  { blk := .spn, ofs := 0x0044, rst := fun _ => 0x19042028,
    fields := [⟨20, 12, .rwl⟩, ⟨16, 4, .rwl⟩, ⟨8, 8, .rwl⟩, ⟨0, 8, .rwl⟩] }
def SPN_OBS_CFG.RES_THR : Fld := ⟨SPN_OBS_CFG, 20, 12⟩
def SPN_OBS_CFG.RES_CNT : Fld := ⟨SPN_OBS_CFG, 16, 4⟩
def SPN_OBS_CFG.REACQ_CNT : Fld := ⟨SPN_OBS_CFG, 8, 8⟩
def SPN_OBS_CFG.ZC_BLANK : Fld := ⟨SPN_OBS_CFG, 0, 8⟩

/-- SPN_LOSS_INFO, offset 0x0048 (08_spindle_drive). -/
def SPN_LOSS_INFO : Reg :=
  { blk := .spn, ofs := 0x0048,
    fields := [⟨31, 1, .ro⟩, ⟨24, 7, .ro⟩, ⟨23, 1, .ro⟩, ⟨22, 1, .ro⟩, ⟨21, 1, .ro⟩, ⟨20, 1, .ro⟩, ⟨0, 18, .ro⟩] }
def SPN_LOSS_INFO.VALID : Fld := ⟨SPN_LOSS_INFO, 31, 1⟩
def SPN_LOSS_INFO.SEQ : Fld := ⟨SPN_LOSS_INFO, 24, 7⟩
def SPN_LOSS_INFO.CAUSE : Fld := ⟨SPN_LOSS_INFO, 23, 1⟩
def SPN_LOSS_INFO.RETRACTED : Fld := ⟨SPN_LOSS_INFO, 22, 1⟩
def SPN_LOSS_INFO.ZC_LOST : Fld := ⟨SPN_LOSS_INFO, 21, 1⟩
def SPN_LOSS_INFO.REACQ : Fld := ⟨SPN_LOSS_INFO, 20, 1⟩
def SPN_LOSS_INFO.SPEED : Fld := ⟨SPN_LOSS_INFO, 0, 18⟩

/-- SPN_ISNS_CAL, offset 0x004C (08_spindle_drive). -/
def SPN_ISNS_CAL : Reg :=
  { blk := .spn, ofs := 0x004C,
    fields := [⟨16, 16, .rwl⟩, ⟨0, 14, .ro⟩] }
def SPN_ISNS_CAL.GAIN : Fld := ⟨SPN_ISNS_CAL, 16, 16⟩
def SPN_ISNS_CAL.OFS : Fld := ⟨SPN_ISNS_CAL, 0, 14⟩

/-- SPN_MEAS, offset 0x0050 (08_spindle_drive). -/
def SPN_MEAS : Reg :=
  { blk := .spn, ofs := 0x0050,
    fields := [⟨16, 16, .ro⟩, ⟨0, 16, .ro⟩] }
def SPN_MEAS.VLINK : Fld := ⟨SPN_MEAS, 16, 16⟩
def SPN_MEAS.IQ : Fld := ⟨SPN_MEAS, 0, 16⟩

/-- SPN_INT_STATUS, offset 0x0080 (08_spindle_drive). -/
def SPN_INT_STATUS : Reg :=
  { blk := .spn, ofs := 0x0080,
    fields := [⟨23, 1, .w1c⟩, ⟨22, 1, .w1c⟩, ⟨21, 1, .w1c⟩, ⟨20, 1, .w1c⟩, ⟨19, 1, .w1c⟩, ⟨18, 1, .w1c⟩, ⟨17, 1, .w1c⟩, ⟨16, 1, .w1c⟩, ⟨15, 1, .w1c⟩, ⟨14, 1, .w1c⟩, ⟨13, 1, .w1c⟩, ⟨12, 1, .w1c⟩, ⟨11, 1, .w1c⟩, ⟨10, 1, .w1c⟩, ⟨9, 1, .w1c⟩, ⟨8, 1, .w1c⟩, ⟨7, 1, .w1c⟩, ⟨6, 1, .w1c⟩, ⟨5, 1, .w1c⟩, ⟨4, 1, .w1c⟩, ⟨3, 1, .w1c⟩, ⟨2, 1, .w1c⟩, ⟨1, 1, .w1c⟩, ⟨0, 1, .w1c⟩] }
def SPN_INT_STATUS.LINK_UV : Fld := ⟨SPN_INT_STATUS, 23, 1⟩
def SPN_INT_STATUS.STOP_DONE : Fld := ⟨SPN_INT_STATUS, 22, 1⟩
def SPN_INT_STATUS.OV_EXT : Fld := ⟨SPN_INT_STATUS, 21, 1⟩
def SPN_INT_STATUS.OV_SHORT : Fld := ⟨SPN_INT_STATUS, 20, 1⟩
def SPN_INT_STATUS.CHOP_FAULT : Fld := ⟨SPN_INT_STATUS, 19, 1⟩
def SPN_INT_STATUS.CHOP_ON : Fld := ⟨SPN_INT_STATUS, 18, 1⟩
def SPN_INT_STATUS.REGEN : Fld := ⟨SPN_INT_STATUS, 17, 1⟩
def SPN_INT_STATUS.PF_DETECT : Fld := ⟨SPN_INT_STATUS, 16, 1⟩
def SPN_INT_STATUS.CUR_LIMIT : Fld := ⟨SPN_INT_STATUS, 15, 1⟩
def SPN_INT_STATUS.FAULT : Fld := ⟨SPN_INT_STATUS, 14, 1⟩
def SPN_INT_STATUS.CMD_ERR : Fld := ⟨SPN_INT_STATUS, 13, 1⟩
def SPN_INT_STATUS.VOLT_LIMIT : Fld := ⟨SPN_INT_STATUS, 12, 1⟩
def SPN_INT_STATUS.SRC_CHANGE : Fld := ⟨SPN_INT_STATUS, 11, 1⟩
def SPN_INT_STATUS.ZC_LOST : Fld := ⟨SPN_INT_STATUS, 10, 1⟩
def SPN_INT_STATUS.OBS_REACQ : Fld := ⟨SPN_INT_STATUS, 9, 1⟩
def SPN_INT_STATUS.OBS_LOST : Fld := ⟨SPN_INT_STATUS, 8, 1⟩
def SPN_INT_STATUS.ABNORMAL_KE : Fld := ⟨SPN_INT_STATUS, 7, 1⟩
def SPN_INT_STATUS.KE_DONE : Fld := ⟨SPN_INT_STATUS, 6, 1⟩
def SPN_INT_STATUS.CATCH : Fld := ⟨SPN_INT_STATUS, 5, 1⟩
def SPN_INT_STATUS.REVERSE : Fld := ⟨SPN_INT_STATUS, 4, 1⟩
def SPN_INT_STATUS.GLIDE_DONE : Fld := ⟨SPN_INT_STATUS, 3, 1⟩
def SPN_INT_STATUS.BAND_CHANGE : Fld := ⟨SPN_INT_STATUS, 2, 1⟩
def SPN_INT_STATUS.REG_CHANGE : Fld := ⟨SPN_INT_STATUS, 1, 1⟩
def SPN_INT_STATUS.STARTED : Fld := ⟨SPN_INT_STATUS, 0, 1⟩

/-- SPN_INT_EN, offset 0x0084 (08_spindle_drive). -/
def SPN_INT_EN : Reg :=
  { blk := .spn, ofs := 0x0084,
    fields := [⟨23, 1, .rw⟩, ⟨22, 1, .rw⟩, ⟨21, 1, .rw⟩, ⟨20, 1, .rw⟩, ⟨19, 1, .rw⟩, ⟨18, 1, .rw⟩, ⟨17, 1, .rw⟩, ⟨16, 1, .rw⟩, ⟨15, 1, .rw⟩, ⟨14, 1, .rw⟩, ⟨13, 1, .rw⟩, ⟨12, 1, .rw⟩, ⟨11, 1, .rw⟩, ⟨10, 1, .rw⟩, ⟨9, 1, .rw⟩, ⟨8, 1, .rw⟩, ⟨7, 1, .rw⟩, ⟨6, 1, .rw⟩, ⟨5, 1, .rw⟩, ⟨4, 1, .rw⟩, ⟨3, 1, .rw⟩, ⟨2, 1, .rw⟩, ⟨1, 1, .rw⟩, ⟨0, 1, .rw⟩] }
def SPN_INT_EN.LINK_UV : Fld := ⟨SPN_INT_EN, 23, 1⟩
def SPN_INT_EN.STOP_DONE : Fld := ⟨SPN_INT_EN, 22, 1⟩
def SPN_INT_EN.OV_EXT : Fld := ⟨SPN_INT_EN, 21, 1⟩
def SPN_INT_EN.OV_SHORT : Fld := ⟨SPN_INT_EN, 20, 1⟩
def SPN_INT_EN.CHOP_FAULT : Fld := ⟨SPN_INT_EN, 19, 1⟩
def SPN_INT_EN.CHOP_ON : Fld := ⟨SPN_INT_EN, 18, 1⟩
def SPN_INT_EN.REGEN : Fld := ⟨SPN_INT_EN, 17, 1⟩
def SPN_INT_EN.PF_DETECT : Fld := ⟨SPN_INT_EN, 16, 1⟩
def SPN_INT_EN.CUR_LIMIT : Fld := ⟨SPN_INT_EN, 15, 1⟩
def SPN_INT_EN.FAULT : Fld := ⟨SPN_INT_EN, 14, 1⟩
def SPN_INT_EN.CMD_ERR : Fld := ⟨SPN_INT_EN, 13, 1⟩
def SPN_INT_EN.VOLT_LIMIT : Fld := ⟨SPN_INT_EN, 12, 1⟩
def SPN_INT_EN.SRC_CHANGE : Fld := ⟨SPN_INT_EN, 11, 1⟩
def SPN_INT_EN.ZC_LOST : Fld := ⟨SPN_INT_EN, 10, 1⟩
def SPN_INT_EN.OBS_REACQ : Fld := ⟨SPN_INT_EN, 9, 1⟩
def SPN_INT_EN.OBS_LOST : Fld := ⟨SPN_INT_EN, 8, 1⟩
def SPN_INT_EN.ABNORMAL_KE : Fld := ⟨SPN_INT_EN, 7, 1⟩
def SPN_INT_EN.KE_DONE : Fld := ⟨SPN_INT_EN, 6, 1⟩
def SPN_INT_EN.CATCH : Fld := ⟨SPN_INT_EN, 5, 1⟩
def SPN_INT_EN.REVERSE : Fld := ⟨SPN_INT_EN, 4, 1⟩
def SPN_INT_EN.GLIDE_DONE : Fld := ⟨SPN_INT_EN, 3, 1⟩
def SPN_INT_EN.BAND_CHANGE : Fld := ⟨SPN_INT_EN, 2, 1⟩
def SPN_INT_EN.REG_CHANGE : Fld := ⟨SPN_INT_EN, 1, 1⟩
def SPN_INT_EN.STARTED : Fld := ⟨SPN_INT_EN, 0, 1⟩

/-- SPN_LINK_CFG, offset 0x0200 (09_rate_matching_and_power_loss). -/
def SPN_LINK_CFG : Reg :=
  { blk := .spn, ofs := 0x0200, rst := fun _ => 0x2A302BC0,
    fields := [⟨16, 16, .rwl⟩, ⟨0, 16, .rwl⟩] }
def SPN_LINK_CFG.PF_VLINK : Fld := ⟨SPN_LINK_CFG, 16, 16⟩
def SPN_LINK_CFG.REGEN_V : Fld := ⟨SPN_LINK_CFG, 0, 16⟩

/-- SPN_REGEN_CFG, offset 0x0204 (09_rate_matching_and_power_loss). -/
def SPN_REGEN_CFG : Reg :=
  { blk := .spn, ofs := 0x0204, rst := fun _ => 0x1F40590C,
    fields := [⟨16, 16, .rwl⟩, ⟨12, 4, .rwl⟩, ⟨8, 4, .rwl⟩, ⟨0, 8, .rwl⟩] }
def SPN_REGEN_CFG.IMAX_REGEN : Fld := ⟨SPN_REGEN_CFG, 16, 16⟩
def SPN_REGEN_CFG.KPV : Fld := ⟨SPN_REGEN_CFG, 12, 4⟩
def SPN_REGEN_CFG.KIV : Fld := ⟨SPN_REGEN_CFG, 8, 4⟩
def SPN_REGEN_CFG.MIN_SPEED : Fld := ⟨SPN_REGEN_CFG, 0, 8⟩

/-- SPN_CHOP_CFG, offset 0x0208 (09_rate_matching_and_power_loss). -/
def SPN_CHOP_CFG : Reg :=
  { blk := .spn, ofs := 0x0208, rst := fun _ => 0x140A1900,
    fields := [⟨24, 8, .rwl⟩, ⟨16, 8, .rwl⟩, ⟨8, 8, .rwl⟩] }
def SPN_CHOP_CFG.BRK_IMIN : Fld := ⟨SPN_CHOP_CFG, 24, 8⟩
def SPN_CHOP_CFG.BRK_DV : Fld := ⟨SPN_CHOP_CFG, 16, 8⟩
def SPN_CHOP_CFG.OV_RISE : Fld := ⟨SPN_CHOP_CFG, 8, 8⟩

/-- SPN_STOP_CFG, offset 0x020C (09_rate_matching_and_power_loss). -/
def SPN_STOP_CFG : Reg :=
  { blk := .spn, ofs := 0x020C, rst := fun _ => 0x00000190,
    fields := [⟨0, 16, .rwl⟩] }
def SPN_STOP_CFG.STOP_DECEL : Fld := ⟨SPN_STOP_CFG, 0, 16⟩

/-- SPN_STOP_STATUS, offset 0x0210 (09_rate_matching_and_power_loss). -/
def SPN_STOP_STATUS : Reg :=
  { blk := .spn, ofs := 0x0210,
    fields := [⟨28, 4, .ro⟩, ⟨27, 1, .ro⟩, ⟨26, 1, .rws⟩, ⟨0, 16, .ro⟩] }
def SPN_STOP_STATUS.PHASE : Fld := ⟨SPN_STOP_STATUS, 28, 4⟩
def SPN_STOP_STATUS.CHOP_ON : Fld := ⟨SPN_STOP_STATUS, 27, 1⟩
def SPN_STOP_STATUS.CHOP_BAD : Fld := ⟨SPN_STOP_STATUS, 26, 1⟩
def SPN_STOP_STATUS.IBRK : Fld := ⟨SPN_STOP_STATUS, 0, 16⟩

/-- SPN_PF_INFO, offset 0x0214 (09_rate_matching_and_power_loss). -/
def SPN_PF_INFO : Reg :=
  { blk := .spn, ofs := 0x0214,
    fields := [⟨31, 1, .ro⟩, ⟨24, 7, .ro⟩, ⟨23, 1, .ro⟩, ⟨22, 1, .ro⟩, ⟨0, 18, .ro⟩] }
def SPN_PF_INFO.VALID : Fld := ⟨SPN_PF_INFO, 31, 1⟩
def SPN_PF_INFO.SEQ : Fld := ⟨SPN_PF_INFO, 24, 7⟩
def SPN_PF_INFO.SRC : Fld := ⟨SPN_PF_INFO, 23, 1⟩
def SPN_PF_INFO.REGEN : Fld := ⟨SPN_PF_INFO, 22, 1⟩
def SPN_PF_INFO.SPEED : Fld := ⟨SPN_PF_INFO, 0, 18⟩

/-- SPN_OV_INFO, offset 0x0218 (09_rate_matching_and_power_loss). -/
def SPN_OV_INFO : Reg :=
  { blk := .spn, ofs := 0x0218,
    fields := [⟨31, 1, .ro⟩, ⟨24, 7, .ro⟩, ⟨22, 2, .ro⟩, ⟨20, 2, .ro⟩, ⟨0, 16, .ro⟩] }
def SPN_OV_INFO.VALID : Fld := ⟨SPN_OV_INFO, 31, 1⟩
def SPN_OV_INFO.SEQ : Fld := ⟨SPN_OV_INFO, 24, 7⟩
def SPN_OV_INFO.STAGE : Fld := ⟨SPN_OV_INFO, 22, 2⟩
def SPN_OV_INFO.WHY : Fld := ⟨SPN_OV_INFO, 20, 2⟩
def SPN_OV_INFO.VMAX : Fld := ⟨SPN_OV_INFO, 0, 16⟩

/-- The registers of SPN. -/
def regsSpn : List Reg :=
  [SPN_CTRL, SPN_CMD, SPN_STATUS, SPN_SPEED, SPN_SETPOINT, SPN_TARGET, SPN_RAMP, SPN_REG_CFG,
   SPN_PWM_CFG, SPN_MODEL, SPN_FOC_CFG, SPN_KE_REF, SPN_KE_MEAS, SPN_COAST_CFG, SPN_COAST_INFO,
   SPN_HFI_CFG, SPN_POL_CFG, SPN_OBS_CFG, SPN_LOSS_INFO, SPN_ISNS_CAL, SPN_MEAS, SPN_INT_STATUS,
   SPN_INT_EN, SPN_LINK_CFG, SPN_REGEN_CFG, SPN_CHOP_CFG, SPN_STOP_CFG, SPN_STOP_STATUS,
   SPN_PF_INFO, SPN_OV_INFO]

/-! ### WLT -/

/-- WLT_XLATE_CTRL, offset 0x0100 (10_welts_tags_and_bands). -/
def WLT_XLATE_CTRL : Reg :=
  { blk := .wlt, ofs := 0x0100,
    fields := [⟨31, 1, .w1s⟩, ⟨0, 12, .rw⟩] }
def WLT_XLATE_CTRL.GO : Fld := ⟨WLT_XLATE_CTRL, 31, 1⟩
def WLT_XLATE_CTRL.NSID : Fld := ⟨WLT_XLATE_CTRL, 0, 12⟩

/-- WLT_XLATE_LBA_LO, offset 0x0104 (10_welts_tags_and_bands). -/
def WLT_XLATE_LBA_LO : Reg :=
  { blk := .wlt, ofs := 0x0104,
    fields := [⟨0, 32, .rw⟩] }
def WLT_XLATE_LBA_LO.LBA : Fld := ⟨WLT_XLATE_LBA_LO, 0, 32⟩

/-- WLT_XLATE_LBA_HI, offset 0x0108 (10_welts_tags_and_bands). -/
def WLT_XLATE_LBA_HI : Reg :=
  { blk := .wlt, ofs := 0x0108,
    fields := [⟨0, 16, .rw⟩] }
def WLT_XLATE_LBA_HI.LBA : Fld := ⟨WLT_XLATE_LBA_HI, 0, 16⟩

/-- WLT_XLATE_RES0, offset 0x0110 (10_welts_tags_and_bands). -/
def WLT_XLATE_RES0 : Reg :=
  { blk := .wlt, ofs := 0x0110,
    fields := [⟨31, 1, .ro⟩, ⟨24, 7, .ro⟩, ⟨20, 4, .ro⟩, ⟨18, 2, .ro⟩, ⟨15, 3, .ro⟩, ⟨12, 3, .ro⟩, ⟨9, 3, .ro⟩, ⟨8, 1, .ro⟩, ⟨5, 3, .ro⟩] }
def WLT_XLATE_RES0.VALID : Fld := ⟨WLT_XLATE_RES0, 31, 1⟩
def WLT_XLATE_RES0.SEQ : Fld := ⟨WLT_XLATE_RES0, 24, 7⟩
def WLT_XLATE_RES0.STATUS : Fld := ⟨WLT_XLATE_RES0, 20, 4⟩
def WLT_XLATE_RES0.GROUP : Fld := ⟨WLT_XLATE_RES0, 18, 2⟩
def WLT_XLATE_RES0.HEAD : Fld := ⟨WLT_XLATE_RES0, 15, 3⟩
def WLT_XLATE_RES0.P_HEAD : Fld := ⟨WLT_XLATE_RES0, 12, 3⟩
def WLT_XLATE_RES0.Q_HEAD : Fld := ⟨WLT_XLATE_RES0, 9, 3⟩
def WLT_XLATE_RES0.HAS_Q : Fld := ⟨WLT_XLATE_RES0, 8, 1⟩
def WLT_XLATE_RES0.DATA_INDEX : Fld := ⟨WLT_XLATE_RES0, 5, 3⟩

/-- WLT_XLATE_RES1, offset 0x0114 (10_welts_tags_and_bands). -/
def WLT_XLATE_RES1 : Reg :=
  { blk := .wlt, ofs := 0x0114,
    fields := [⟨10, 20, .ro⟩, ⟨0, 10, .ro⟩] }
def WLT_XLATE_RES1.CYL : Fld := ⟨WLT_XLATE_RES1, 10, 20⟩
def WLT_XLATE_RES1.SECT : Fld := ⟨WLT_XLATE_RES1, 0, 10⟩

/-- WLT_XLATE_RES2, offset 0x0118 (10_welts_tags_and_bands). -/
def WLT_XLATE_RES2 : Reg :=
  { blk := .wlt, ofs := 0x0118,
    fields := [⟨0, 17, .ro⟩] }
def WLT_XLATE_RES2.BAND : Fld := ⟨WLT_XLATE_RES2, 0, 17⟩

/-- The registers of WLT. -/
def regsWlt : List Reg :=
  [WLT_XLATE_CTRL, WLT_XLATE_LBA_LO, WLT_XLATE_LBA_HI, WLT_XLATE_RES0, WLT_XLATE_RES1,
   WLT_XLATE_RES2]

/-! ### CBL -/

/-- CBL_CTRL, offset 0x0000 (11_rebuild_reshape_journal). -/
def CBL_CTRL : Reg :=
  { blk := .cbl, ofs := 0x0000, rst := fun _ => 0x00002606,
    fields := [⟨12, 4, .rw⟩, ⟨8, 4, .rw⟩, ⟨2, 1, .rw⟩, ⟨1, 1, .rwl⟩, ⟨0, 1, .rw⟩] }
def CBL_CTRL.SHARE_BG : Fld := ⟨CBL_CTRL, 12, 4⟩
def CBL_CTRL.SHARE_REB : Fld := ⟨CBL_CTRL, 8, 4⟩
def CBL_CTRL.PATROL_EN : Fld := ⟨CBL_CTRL, 2, 1⟩
def CBL_CTRL.AUTO_REBUILD : Fld := ⟨CBL_CTRL, 1, 1⟩
def CBL_CTRL.EN : Fld := ⟨CBL_CTRL, 0, 1⟩

/-- CBL_GRP, offset 0x0010 + 0x4 j, j < 4 (11_rebuild_reshape_journal). -/
def CBL_GRP : Reg :=
  { blk := .cbl, ofs := 0x0010, count := 4, rst := fun _ => 0x80000000,
    fields := [⟨29, 3, .ro⟩, ⟨28, 1, .ro⟩, ⟨24, 4, .ro⟩, ⟨16, 8, .ro⟩] }
def CBL_GRP.STATE : Fld := ⟨CBL_GRP, 29, 3⟩
def CBL_GRP.RESERVE_SHORT : Fld := ⟨CBL_GRP, 28, 1⟩
def CBL_GRP.WIDTH : Fld := ⟨CBL_GRP, 24, 4⟩
def CBL_GRP.FAILED : Fld := ⟨CBL_GRP, 16, 8⟩

/-- CBL_PROGRESS, offset 0x0020 + 0x4 j, j < 4 (11_rebuild_reshape_journal). -/
def CBL_PROGRESS : Reg :=
  { blk := .cbl, ofs := 0x0020, count := 4,
    fields := [⟨16, 16, .ro⟩, ⟨0, 16, .ro⟩] }
def CBL_PROGRESS.DONE : Fld := ⟨CBL_PROGRESS, 16, 16⟩
def CBL_PROGRESS.TOTAL : Fld := ⟨CBL_PROGRESS, 0, 16⟩

/-- CBL_CMD, offset 0x0040 (11_rebuild_reshape_journal). -/
def CBL_CMD : Reg :=
  { blk := .cbl, ofs := 0x0040,
    fields := [⟨31, 1, .w1s⟩, ⟨28, 3, .rw⟩, ⟨4, 2, .rw⟩, ⟨0, 3, .rw⟩] }
def CBL_CMD.GO : Fld := ⟨CBL_CMD, 31, 1⟩
def CBL_CMD.OP : Fld := ⟨CBL_CMD, 28, 3⟩
def CBL_CMD.GROUP : Fld := ⟨CBL_CMD, 4, 2⟩
def CBL_CMD.HEAD : Fld := ⟨CBL_CMD, 0, 3⟩

/-- CBL_RESULT, offset 0x0044 (11_rebuild_reshape_journal). -/
def CBL_RESULT : Reg :=
  { blk := .cbl, ofs := 0x0044,
    fields := [⟨31, 1, .ro⟩, ⟨24, 7, .ro⟩, ⟨21, 3, .ro⟩, ⟨19, 2, .ro⟩, ⟨16, 3, .ro⟩] }
def CBL_RESULT.VALID : Fld := ⟨CBL_RESULT, 31, 1⟩
def CBL_RESULT.SEQ : Fld := ⟨CBL_RESULT, 24, 7⟩
def CBL_RESULT.OP : Fld := ⟨CBL_RESULT, 21, 3⟩
def CBL_RESULT.GROUP : Fld := ⟨CBL_RESULT, 19, 2⟩
def CBL_RESULT.OUTCOME : Fld := ⟨CBL_RESULT, 16, 3⟩

/-- CBL_PATROL, offset 0x0050 (11_rebuild_reshape_journal). -/
def CBL_PATROL : Reg :=
  { blk := .cbl, ofs := 0x0050, rst := fun _ => 0x0000031E,
    fields := [⟨8, 8, .rw⟩, ⟨0, 8, .rw⟩] }
def CBL_PATROL.RELOC_COUNT : Fld := ⟨CBL_PATROL, 8, 8⟩
def CBL_PATROL.LAP_DAYS : Fld := ⟨CBL_PATROL, 0, 8⟩

/-- CBL_JNL, offset 0x0080 (11_rebuild_reshape_journal). -/
def CBL_JNL : Reg :=
  { blk := .cbl, ofs := 0x0080, rst := fun _ => 0x00003200,
    fields := [⟨8, 8, .rwl⟩, ⟨7, 1, .ro⟩, ⟨6, 1, .ro⟩, ⟨5, 1, .ro⟩, ⟨4, 1, .ro⟩, ⟨2, 2, .ro⟩, ⟨0, 2, .ro⟩] }
def CBL_JNL.PERIOD : Fld := ⟨CBL_JNL, 8, 8⟩
def CBL_JNL.BUILDING : Fld := ⟨CBL_JNL, 7, 1⟩
def CBL_JNL.B_IMPAIRED : Fld := ⟨CBL_JNL, 6, 1⟩
def CBL_JNL.A_IMPAIRED : Fld := ⟨CBL_JNL, 5, 1⟩
def CBL_JNL.B_VALID : Fld := ⟨CBL_JNL, 4, 1⟩
def CBL_JNL.COPY_B : Fld := ⟨CBL_JNL, 2, 2⟩
def CBL_JNL.COPY_A : Fld := ⟨CBL_JNL, 0, 2⟩

/-- CBL_EPOCH, offset 0x0084 (11_rebuild_reshape_journal). -/
def CBL_EPOCH : Reg :=
  { blk := .cbl, ofs := 0x0084,
    fields := [⟨0, 32, .ro⟩] }
def CBL_EPOCH.EPOCH : Fld := ⟨CBL_EPOCH, 0, 32⟩

/-- CBL_LBT, offset 0x0090 (11_rebuild_reshape_journal). -/
def CBL_LBT : Reg :=
  { blk := .cbl, ofs := 0x0090,
    fields := [⟨0, 18, .ro⟩] }
def CBL_LBT.ENTRIES : Fld := ⟨CBL_LBT, 0, 18⟩

/-- CBL_INT_STATUS, offset 0x00A0 (11_rebuild_reshape_journal). -/
def CBL_INT_STATUS : Reg :=
  { blk := .cbl, ofs := 0x00A0,
    fields := [⟨7, 1, .w1c⟩, ⟨6, 1, .w1c⟩, ⟨5, 1, .w1c⟩, ⟨4, 1, .w1c⟩, ⟨3, 1, .w1c⟩, ⟨2, 1, .w1c⟩, ⟨1, 1, .w1c⟩, ⟨0, 1, .w1c⟩] }
def CBL_INT_STATUS.RELOCATE : Fld := ⟨CBL_INT_STATUS, 7, 1⟩
def CBL_INT_STATUS.PATROL_LAP : Fld := ⟨CBL_INT_STATUS, 6, 1⟩
def CBL_INT_STATUS.RESYNC_DONE : Fld := ⟨CBL_INT_STATUS, 5, 1⟩
def CBL_INT_STATUS.JNL_MIRROR : Fld := ⟨CBL_INT_STATUS, 4, 1⟩
def CBL_INT_STATUS.LOST_BLOCK : Fld := ⟨CBL_INT_STATUS, 3, 1⟩
def CBL_INT_STATUS.RESERVE_SHORT : Fld := ⟨CBL_INT_STATUS, 2, 1⟩
def CBL_INT_STATUS.OP_DONE : Fld := ⟨CBL_INT_STATUS, 1, 1⟩
def CBL_INT_STATUS.STATE_CHANGE : Fld := ⟨CBL_INT_STATUS, 0, 1⟩

/-- CBL_INT_EN, offset 0x00A4 (11_rebuild_reshape_journal). -/
def CBL_INT_EN : Reg :=
  { blk := .cbl, ofs := 0x00A4,
    fields := [⟨7, 1, .rw⟩, ⟨6, 1, .rw⟩, ⟨5, 1, .rw⟩, ⟨4, 1, .rw⟩, ⟨3, 1, .rw⟩, ⟨2, 1, .rw⟩, ⟨1, 1, .rw⟩, ⟨0, 1, .rw⟩] }
def CBL_INT_EN.RELOCATE : Fld := ⟨CBL_INT_EN, 7, 1⟩
def CBL_INT_EN.PATROL_LAP : Fld := ⟨CBL_INT_EN, 6, 1⟩
def CBL_INT_EN.RESYNC_DONE : Fld := ⟨CBL_INT_EN, 5, 1⟩
def CBL_INT_EN.JNL_MIRROR : Fld := ⟨CBL_INT_EN, 4, 1⟩
def CBL_INT_EN.LOST_BLOCK : Fld := ⟨CBL_INT_EN, 3, 1⟩
def CBL_INT_EN.RESERVE_SHORT : Fld := ⟨CBL_INT_EN, 2, 1⟩
def CBL_INT_EN.OP_DONE : Fld := ⟨CBL_INT_EN, 1, 1⟩
def CBL_INT_EN.STATE_CHANGE : Fld := ⟨CBL_INT_EN, 0, 1⟩

/-- The registers of CBL. -/
def regsCbl : List Reg :=
  [CBL_CTRL, CBL_GRP, CBL_PROGRESS, CBL_CMD, CBL_RESULT, CBL_PATROL, CBL_JNL, CBL_EPOCH, CBL_LBT,
   CBL_INT_STATUS, CBL_INT_EN]

/-! ### SCN -/

/-- SCN_CTRL, offset 0x0000 (16_scan_engine). -/
def SCN_CTRL : Reg :=
  { blk := .scn, ofs := 0x0000,
    fields := [⟨0, 1, .rw⟩] }
def SCN_CTRL.EN : Fld := ⟨SCN_CTRL, 0, 1⟩

/-- SCN_STATUS, offset 0x0004 (16_scan_engine). -/
def SCN_STATUS : Reg :=
  { blk := .scn, ofs := 0x0004,
    fields := [⟨0, 7, .ro⟩] }
def SCN_STATUS.CONTEXTS : Fld := ⟨SCN_STATUS, 0, 7⟩

/-- SCN_REJ_INFO, offset 0x0010 (16_scan_engine). -/
def SCN_REJ_INFO : Reg :=
  { blk := .scn, ofs := 0x0010,
    fields := [⟨31, 1, .ro⟩, ⟨24, 7, .ro⟩, ⟨20, 4, .ro⟩, ⟨12, 6, .ro⟩, ⟨0, 12, .ro⟩] }
def SCN_REJ_INFO.VALID : Fld := ⟨SCN_REJ_INFO, 31, 1⟩
def SCN_REJ_INFO.SEQ : Fld := ⟨SCN_REJ_INFO, 24, 7⟩
def SCN_REJ_INFO.REASON : Fld := ⟨SCN_REJ_INFO, 20, 4⟩
def SCN_REJ_INFO.FUNC : Fld := ⟨SCN_REJ_INFO, 12, 6⟩
def SCN_REJ_INFO.BYTE : Fld := ⟨SCN_REJ_INFO, 0, 12⟩

/-- SCN_INT_STATUS, offset 0x0080 (16_scan_engine). -/
def SCN_INT_STATUS : Reg :=
  { blk := .scn, ofs := 0x0080,
    fields := [⟨1, 1, .w1c⟩, ⟨0, 1, .w1c⟩] }
def SCN_INT_STATUS.UNREC_STOP : Fld := ⟨SCN_INT_STATUS, 1, 1⟩
def SCN_INT_STATUS.REJECT : Fld := ⟨SCN_INT_STATUS, 0, 1⟩

/-- SCN_INT_EN, offset 0x0084 (16_scan_engine). -/
def SCN_INT_EN : Reg :=
  { blk := .scn, ofs := 0x0084,
    fields := [⟨1, 1, .rw⟩, ⟨0, 1, .rw⟩] }
def SCN_INT_EN.UNREC_STOP : Fld := ⟨SCN_INT_EN, 1, 1⟩
def SCN_INT_EN.REJECT : Fld := ⟨SCN_INT_EN, 0, 1⟩

/-- The registers of SCN. -/
def regsScn : List Reg :=
  [SCN_CTRL, SCN_STATUS, SCN_REJ_INFO, SCN_INT_STATUS, SCN_INT_EN]

/-! ### SRV -/

/-- SRV_CTRL, offset 0x0000 (06_servo_engine). -/
def SRV_CTRL : Reg :=
  { blk := .srv, ofs := 0x0000,
    fields := [⟨1, 1, .rw⟩, ⟨0, 1, .rw⟩] }
def SRV_CTRL.FW_OWN : Fld := ⟨SRV_CTRL, 1, 1⟩
def SRV_CTRL.EN : Fld := ⟨SRV_CTRL, 0, 1⟩

/-- SRV_STATUS, offset 0x0004 (06_servo_engine). -/
def SRV_STATUS : Reg :=
  { blk := .srv, ofs := 0x0004,
    fields := [⟨28, 4, .ro⟩, ⟨16, 8, .ro⟩, ⟨11, 5, .ro⟩, ⟨10, 1, .ro⟩, ⟨9, 1, .ro⟩, ⟨8, 1, .ro⟩] }
def SRV_STATUS.STATE : Fld := ⟨SRV_STATUS, 28, 4⟩
def SRV_STATUS.LOST : Fld := ⟨SRV_STATUS, 16, 8⟩
def SRV_STATUS.BAND : Fld := ⟨SRV_STATUS, 11, 5⟩
def SRV_STATUS.TIMER : Fld := ⟨SRV_STATUS, 10, 1⟩
def SRV_STATUS.BLENDING : Fld := ⟨SRV_STATUS, 9, 1⟩
def SRV_STATUS.PENDING : Fld := ⟨SRV_STATUS, 8, 1⟩

/-- SRV_DIM, offset 0x0008 (06_servo_engine). -/
def SRV_DIM : Reg :=
  { blk := .srv, ofs := 0x0008, rst := fun _ => 0x00010001,
    fields := [⟨16, 5, .rwl⟩, ⟨0, 6, .rwl⟩] }
def SRV_DIM.N_OUT : Fld := ⟨SRV_DIM, 16, 5⟩
def SRV_DIM.N_STATES : Fld := ⟨SRV_DIM, 0, 6⟩

/-- SRV_YSEL, offset 0x0010 + 0x4 j, j < 4 (06_servo_engine). -/
def SRV_YSEL : Reg :=
  { blk := .srv, ofs := 0x0010, count := 4, rst := fun _ => 0x1F1F1F1F,
    fields := [⟨24, 5, .rwl⟩, ⟨16, 5, .rwl⟩, ⟨8, 5, .rwl⟩, ⟨0, 5, .rwl⟩] }
def SRV_YSEL.SEL3 : Fld := ⟨SRV_YSEL, 24, 5⟩
def SRV_YSEL.SEL2 : Fld := ⟨SRV_YSEL, 16, 5⟩
def SRV_YSEL.SEL1 : Fld := ⟨SRV_YSEL, 8, 5⟩
def SRV_YSEL.SEL0 : Fld := ⟨SRV_YSEL, 0, 5⟩

/-- SRV_CMD, offset 0x0040 (06_servo_engine). -/
def SRV_CMD : Reg :=
  { blk := .srv, ofs := 0x0040,
    fields := [⟨31, 1, .w1s⟩, ⟨28, 2, .rw⟩, ⟨0, 20, .rw⟩] }
def SRV_CMD.GO : Fld := ⟨SRV_CMD, 31, 1⟩
def SRV_CMD.OP : Fld := ⟨SRV_CMD, 28, 2⟩
def SRV_CMD.CYL : Fld := ⟨SRV_CMD, 0, 20⟩

/-- SRV_HEAD_OFS, offset 0x0060 + 0x4 j, j < 8 (06_servo_engine). -/
def SRV_HEAD_OFS : Reg :=
  { blk := .srv, ofs := 0x0060, count := 8,
    fields := [⟨16, 16, .ro⟩, ⟨0, 16, .rw⟩] }
def SRV_HEAD_OFS.REC : Fld := ⟨SRV_HEAD_OFS, 16, 16⟩
def SRV_HEAD_OFS.OFS : Fld := ⟨SRV_HEAD_OFS, 0, 16⟩

/-- SRV_ONTRACK, offset 0x0080 (06_servo_engine). -/
def SRV_ONTRACK : Reg :=
  { blk := .srv, ofs := 0x0080, rst := fun _ => 0x080A4200,
    fields := [⟨24, 8, .rw⟩, ⟨12, 12, .rw⟩, ⟨0, 12, .rw⟩] }
def SRV_ONTRACK.ONTRACK_CNT : Fld := ⟨SRV_ONTRACK, 24, 8⟩
def SRV_ONTRACK.ONTRACK_THR : Fld := ⟨SRV_ONTRACK, 12, 12⟩
def SRV_ONTRACK.SETTLE_MAX : Fld := ⟨SRV_ONTRACK, 0, 12⟩

/-- SRV_PES_CFG, offset 0x0084 (06_servo_engine). -/
def SRV_PES_CFG : Reg :=
  { blk := .srv, ofs := 0x0084, rst := fun _ => 0xC8003004,
    fields := [⟨24, 8, .rw⟩, ⟨12, 4, .rw⟩, ⟨0, 8, .rw⟩] }
def SRV_PES_CFG.PES_WAIT : Fld := ⟨SRV_PES_CFG, 24, 8⟩
def SRV_PES_CFG.MISS_LIMIT : Fld := ⟨SRV_PES_CFG, 12, 4⟩
def SRV_PES_CFG.GRAY_WIN : Fld := ⟨SRV_PES_CFG, 0, 8⟩

/-- SRV_LOAD_CFG, offset 0x0090 (06_servo_engine). -/
def SRV_LOAD_CFG : Reg :=
  { blk := .srv, ofs := 0x0090,
    fields := [⟨16, 16, .rwl⟩, ⟨8, 8, .rwl⟩, ⟨0, 8, .rwl⟩] }
def SRV_LOAD_CFG.LOAD_VEL : Fld := ⟨SRV_LOAD_CFG, 16, 16⟩
def SRV_LOAD_CFG.KV : Fld := ⟨SRV_LOAD_CFG, 8, 8⟩
def SRV_LOAD_CFG.MIN_BAND : Fld := ⟨SRV_LOAD_CFG, 0, 8⟩

/-- SRV_UNLOAD_CFG, offset 0x0094 (06_servo_engine). -/
def SRV_UNLOAD_CFG : Reg :=
  { blk := .srv, ofs := 0x0094,
    fields := [⟨16, 16, .rwl⟩, ⟨8, 8, .rwl⟩, ⟨0, 8, .rwl⟩] }
def SRV_UNLOAD_CFG.UNLOAD_VEL : Fld := ⟨SRV_UNLOAD_CFG, 16, 16⟩
def SRV_UNLOAD_CFG.PARK_VEL : Fld := ⟨SRV_UNLOAD_CFG, 8, 8⟩
def SRV_UNLOAD_CFG.PARK_MS : Fld := ⟨SRV_UNLOAD_CFG, 0, 8⟩

/-- SRV_LOAD_TIME, offset 0x0098 (06_servo_engine). -/
def SRV_LOAD_TIME : Reg :=
  { blk := .srv, ofs := 0x0098, rst := fun _ => 0x01F401F4,
    fields := [⟨16, 16, .rwl⟩, ⟨0, 16, .rwl⟩] }
def SRV_LOAD_TIME.LOAD_TIMEOUT : Fld := ⟨SRV_LOAD_TIME, 16, 16⟩
def SRV_LOAD_TIME.UNLOAD_TIMEOUT : Fld := ⟨SRV_LOAD_TIME, 0, 16⟩

/-- SRV_INT_STATUS, offset 0x0100 (06_servo_engine). -/
def SRV_INT_STATUS : Reg :=
  { blk := .srv, ofs := 0x0100,
    fields := [⟨15, 1, .w1c⟩, ⟨14, 1, .w1c⟩, ⟨13, 1, .w1c⟩, ⟨12, 1, .w1c⟩, ⟨11, 1, .w1c⟩, ⟨10, 1, .w1c⟩, ⟨9, 1, .w1c⟩, ⟨8, 1, .w1c⟩, ⟨7, 1, .w1c⟩, ⟨6, 1, .w1c⟩, ⟨5, 1, .w1c⟩, ⟨4, 1, .w1c⟩, ⟨3, 1, .w1c⟩, ⟨2, 1, .w1c⟩, ⟨1, 1, .w1c⟩, ⟨0, 1, .w1c⟩] }
def SRV_INT_STATUS.CAPTURE : Fld := ⟨SRV_INT_STATUS, 15, 1⟩
def SRV_INT_STATUS.RETRACT : Fld := ⟨SRV_INT_STATUS, 14, 1⟩
def SRV_INT_STATUS.FOLLOW_ERR : Fld := ⟨SRV_INT_STATUS, 13, 1⟩
def SRV_INT_STATUS.CMD_ERR : Fld := ⟨SRV_INT_STATUS, 12, 1⟩
def SRV_INT_STATUS.PARKED : Fld := ⟨SRV_INT_STATUS, 11, 1⟩
def SRV_INT_STATUS.LOAD_FAIL : Fld := ⟨SRV_INT_STATUS, 10, 1⟩
def SRV_INT_STATUS.LOAD_DONE : Fld := ⟨SRV_INT_STATUS, 9, 1⟩
def SRV_INT_STATUS.AMP_FAULT : Fld := ⟨SRV_INT_STATUS, 8, 1⟩
def SRV_INT_STATUS.LINK_FAULT : Fld := ⟨SRV_INT_STATUS, 7, 1⟩
def SRV_INT_STATUS.LINK_RETRY : Fld := ⟨SRV_INT_STATUS, 6, 1⟩
def SRV_INT_STATUS.SAT : Fld := ⟨SRV_INT_STATUS, 5, 1⟩
def SRV_INT_STATUS.PES_LOST : Fld := ⟨SRV_INT_STATUS, 4, 1⟩
def SRV_INT_STATUS.BAND_INVALID : Fld := ⟨SRV_INT_STATUS, 3, 1⟩
def SRV_INT_STATUS.BAND_SWITCH : Fld := ⟨SRV_INT_STATUS, 2, 1⟩
def SRV_INT_STATUS.SETTLE_SLOW : Fld := ⟨SRV_INT_STATUS, 1, 1⟩
def SRV_INT_STATUS.ON_TRACK : Fld := ⟨SRV_INT_STATUS, 0, 1⟩

/-- SRV_INT_EN, offset 0x0104 (06_servo_engine). -/
def SRV_INT_EN : Reg :=
  { blk := .srv, ofs := 0x0104,
    fields := [⟨15, 1, .rw⟩, ⟨14, 1, .rw⟩, ⟨13, 1, .rw⟩, ⟨12, 1, .rw⟩, ⟨11, 1, .rw⟩, ⟨10, 1, .rw⟩, ⟨9, 1, .rw⟩, ⟨8, 1, .rw⟩, ⟨7, 1, .rw⟩, ⟨6, 1, .rw⟩, ⟨5, 1, .rw⟩, ⟨4, 1, .rw⟩, ⟨3, 1, .rw⟩, ⟨2, 1, .rw⟩, ⟨1, 1, .rw⟩, ⟨0, 1, .rw⟩] }
def SRV_INT_EN.CAPTURE : Fld := ⟨SRV_INT_EN, 15, 1⟩
def SRV_INT_EN.RETRACT : Fld := ⟨SRV_INT_EN, 14, 1⟩
def SRV_INT_EN.FOLLOW_ERR : Fld := ⟨SRV_INT_EN, 13, 1⟩
def SRV_INT_EN.CMD_ERR : Fld := ⟨SRV_INT_EN, 12, 1⟩
def SRV_INT_EN.PARKED : Fld := ⟨SRV_INT_EN, 11, 1⟩
def SRV_INT_EN.LOAD_FAIL : Fld := ⟨SRV_INT_EN, 10, 1⟩
def SRV_INT_EN.LOAD_DONE : Fld := ⟨SRV_INT_EN, 9, 1⟩
def SRV_INT_EN.AMP_FAULT : Fld := ⟨SRV_INT_EN, 8, 1⟩
def SRV_INT_EN.LINK_FAULT : Fld := ⟨SRV_INT_EN, 7, 1⟩
def SRV_INT_EN.LINK_RETRY : Fld := ⟨SRV_INT_EN, 6, 1⟩
def SRV_INT_EN.SAT : Fld := ⟨SRV_INT_EN, 5, 1⟩
def SRV_INT_EN.PES_LOST : Fld := ⟨SRV_INT_EN, 4, 1⟩
def SRV_INT_EN.BAND_INVALID : Fld := ⟨SRV_INT_EN, 3, 1⟩
def SRV_INT_EN.BAND_SWITCH : Fld := ⟨SRV_INT_EN, 2, 1⟩
def SRV_INT_EN.SETTLE_SLOW : Fld := ⟨SRV_INT_EN, 1, 1⟩
def SRV_INT_EN.ON_TRACK : Fld := ⟨SRV_INT_EN, 0, 1⟩

/-- SRV_BAND_SEL, offset 0x0140 (06_servo_engine). -/
def SRV_BAND_SEL : Reg :=
  { blk := .srv, ofs := 0x0140, rst := fun _ => 0x00400000,
    fields := [⟨31, 1, .rw⟩, ⟨24, 5, .rw⟩, ⟨20, 4, .rw⟩, ⟨10, 5, .ro⟩, ⟨5, 5, .ro⟩] }
def SRV_BAND_SEL.FORCE_EN : Fld := ⟨SRV_BAND_SEL, 31, 1⟩
def SRV_BAND_SEL.FORCE_BAND : Fld := ⟨SRV_BAND_SEL, 24, 5⟩
def SRV_BAND_SEL.BLEND_LEN : Fld := ⟨SRV_BAND_SEL, 20, 4⟩
def SRV_BAND_SEL.CUR : Fld := ⟨SRV_BAND_SEL, 10, 5⟩
def SRV_BAND_SEL.MEAS : Fld := ⟨SRV_BAND_SEL, 5, 5⟩

/-- SRV_BAND_VALID, offset 0x0144 (06_servo_engine). -/
def SRV_BAND_VALID : Reg :=
  { blk := .srv, ofs := 0x0144,
    fields := [⟨0, 24, .rwl⟩] }
def SRV_BAND_VALID.VALID : Fld := ⟨SRV_BAND_VALID, 0, 24⟩

/-- SRV_LINK_STATUS, offset 0x0180 (06_servo_engine). -/
def SRV_LINK_STATUS : Reg :=
  { blk := .srv, ofs := 0x0180,
    fields := [⟨31, 1, .ro⟩, ⟨16, 8, .ro⟩, ⟨8, 8, .ro⟩, ⟨0, 8, .ro⟩] }
def SRV_LINK_STATUS.FAULT : Fld := ⟨SRV_LINK_STATUS, 31, 1⟩
def SRV_LINK_STATUS.DN_ERR : Fld := ⟨SRV_LINK_STATUS, 16, 8⟩
def SRV_LINK_STATUS.UP_ERR : Fld := ⟨SRV_LINK_STATUS, 8, 8⟩
def SRV_LINK_STATUS.UP_MISS : Fld := ⟨SRV_LINK_STATUS, 0, 8⟩

/-- SRV_AMP_STATUS, offset 0x0184 (06_servo_engine). -/
def SRV_AMP_STATUS : Reg :=
  { blk := .srv, ofs := 0x0184,
    fields := [⟨16, 16, .ro⟩, ⟨8, 8, .ro⟩] }
def SRV_AMP_STATUS.STATUS : Fld := ⟨SRV_AMP_STATUS, 16, 16⟩
def SRV_AMP_STATUS.TEMP : Fld := ⟨SRV_AMP_STATUS, 8, 8⟩

/-- SRV_AMP_MEAS, offset 0x0188 (06_servo_engine). -/
def SRV_AMP_MEAS : Reg :=
  { blk := .srv, ofs := 0x0188,
    fields := [⟨16, 16, .ro⟩, ⟨0, 16, .ro⟩] }
def SRV_AMP_MEAS.IVCM : Fld := ⟨SRV_AMP_MEAS, 16, 16⟩
def SRV_AMP_MEAS.BEMF : Fld := ⟨SRV_AMP_MEAS, 0, 16⟩

/-- SRV_COEF_SEL, offset 0x01C0 (06_servo_engine). -/
def SRV_COEF_SEL : Reg :=
  { blk := .srv, ofs := 0x01C0,
    fields := [⟨0, 5, .rw⟩] }
def SRV_COEF_SEL.SET : Fld := ⟨SRV_COEF_SEL, 0, 5⟩

/-- SRV_OBS_CTRL, offset 0x01C4 (06_servo_engine). -/
def SRV_OBS_CTRL : Reg :=
  { blk := .srv, ofs := 0x01C4,
    fields := [⟨16, 16, .ro⟩, ⟨0, 1, .rw⟩] }
def SRV_OBS_CTRL.SEQ : Fld := ⟨SRV_OBS_CTRL, 16, 16⟩
def SRV_OBS_CTRL.FREEZE : Fld := ⟨SRV_OBS_CTRL, 0, 1⟩

/-- SRV_MODE_CMD, offset 0x0200 (07_servo_supervision_and_tuning). -/
def SRV_MODE_CMD : Reg :=
  { blk := .srv, ofs := 0x0200,
    fields := [⟨31, 1, .w1s⟩, ⟨28, 2, .rw⟩, ⟨0, 20, .rw⟩] }
def SRV_MODE_CMD.GO : Fld := ⟨SRV_MODE_CMD, 31, 1⟩
def SRV_MODE_CMD.OP : Fld := ⟨SRV_MODE_CMD, 28, 2⟩
def SRV_MODE_CMD.CYL : Fld := ⟨SRV_MODE_CMD, 0, 20⟩

/-- SRV_MAN_TGT, offset 0x0204 (07_servo_supervision_and_tuning). -/
def SRV_MAN_TGT : Reg :=
  { blk := .srv, ofs := 0x0204,
    fields := [⟨0, 20, .rw⟩] }
def SRV_MAN_TGT.TARGET : Fld := ⟨SRV_MAN_TGT, 0, 20⟩

/-- SRV_MAN_CFG, offset 0x0208 (07_servo_supervision_and_tuning). -/
def SRV_MAN_CFG : Reg :=
  { blk := .srv, ofs := 0x0208, rst := fun _ => 0x20000100,
    fields := [⟨16, 16, .rwl⟩, ⟨0, 16, .rwl⟩] }
def SRV_MAN_CFG.LIMIT : Fld := ⟨SRV_MAN_CFG, 16, 16⟩
def SRV_MAN_CFG.SLEW : Fld := ⟨SRV_MAN_CFG, 0, 16⟩

/-- SRV_SUP_CFG, offset 0x0210 (07_servo_supervision_and_tuning). -/
def SRV_SUP_CFG : Reg :=
  { blk := .srv, ofs := 0x0210, rst := fun _ => 0x3E8141EC,
    fields := [⟨20, 12, .rwl⟩, ⟨16, 1, .rwl⟩, ⟨12, 4, .rw⟩, ⟨0, 12, .rw⟩] }
def SRV_SUP_CFG.RET_TIMEOUT : Fld := ⟨SRV_SUP_CFG, 20, 12⟩
def SRV_SUP_CFG.FE_ACT : Fld := ⟨SRV_SUP_CFG, 16, 1⟩
def SRV_SUP_CFG.WI_REL : Fld := ⟨SRV_SUP_CFG, 12, 4⟩
def SRV_SUP_CFG.WI_THR : Fld := ⟨SRV_SUP_CFG, 0, 12⟩

/-- SRV_FE_CFG, offset 0x0214 (07_servo_supervision_and_tuning). -/
def SRV_FE_CFG : Reg :=
  { blk := .srv, ofs := 0x0214, rst := fun _ => 0x10100333,
    fields := [⟨24, 8, .rw⟩, ⟨16, 8, .rw⟩, ⟨0, 12, .rw⟩] }
def SRV_FE_CFG.FE_CNT : Fld := ⟨SRV_FE_CFG, 24, 8⟩
def SRV_FE_CFG.FE_SEEK : Fld := ⟨SRV_FE_CFG, 16, 8⟩
def SRV_FE_CFG.FE_THR : Fld := ⟨SRV_FE_CFG, 0, 12⟩

/-- SRV_SUP_STATUS, offset 0x0220 (07_servo_supervision_and_tuning). -/
def SRV_SUP_STATUS : Reg :=
  { blk := .srv, ofs := 0x0220,
    fields := [⟨9, 1, .w1c⟩, ⟨8, 1, .w1c⟩, ⟨0, 8, .ro⟩] }
def SRV_SUP_STATUS.PRESET_ERR : Fld := ⟨SRV_SUP_STATUS, 9, 1⟩
def SRV_SUP_STATUS.RET_LATCH : Fld := ⟨SRV_SUP_STATUS, 8, 1⟩
def SRV_SUP_STATUS.WI : Fld := ⟨SRV_SUP_STATUS, 0, 8⟩

/-- SRV_FE_INFO, offset 0x0230 (07_servo_supervision_and_tuning). -/
def SRV_FE_INFO : Reg :=
  { blk := .srv, ofs := 0x0230,
    fields := [⟨31, 1, .ro⟩, ⟨24, 7, .ro⟩, ⟨21, 3, .ro⟩, ⟨17, 4, .ro⟩, ⟨0, 16, .ro⟩] }
def SRV_FE_INFO.VALID : Fld := ⟨SRV_FE_INFO, 31, 1⟩
def SRV_FE_INFO.SEQ : Fld := ⟨SRV_FE_INFO, 24, 7⟩
def SRV_FE_INFO.HEAD : Fld := ⟨SRV_FE_INFO, 21, 3⟩
def SRV_FE_INFO.STATE : Fld := ⟨SRV_FE_INFO, 17, 4⟩
def SRV_FE_INFO.ERR : Fld := ⟨SRV_FE_INFO, 0, 16⟩

/-- SRV_RET_INFO, offset 0x0234 (07_servo_supervision_and_tuning). -/
def SRV_RET_INFO : Reg :=
  { blk := .srv, ofs := 0x0234,
    fields := [⟨31, 1, .ro⟩, ⟨24, 7, .ro⟩, ⟨20, 4, .ro⟩, ⟨19, 1, .ro⟩, ⟨0, 10, .ro⟩] }
def SRV_RET_INFO.VALID : Fld := ⟨SRV_RET_INFO, 31, 1⟩
def SRV_RET_INFO.SEQ : Fld := ⟨SRV_RET_INFO, 24, 7⟩
def SRV_RET_INFO.CAUSE : Fld := ⟨SRV_RET_INFO, 20, 4⟩
def SRV_RET_INFO.UNCONFIRMED : Fld := ⟨SRV_RET_INFO, 19, 1⟩
def SRV_RET_INFO.MASK : Fld := ⟨SRV_RET_INFO, 0, 10⟩

/-- SRV_ICU_CTRL, offset 0x0300 (07_servo_supervision_and_tuning). -/
def SRV_ICU_CTRL : Reg :=
  { blk := .srv, ofs := 0x0300,
    fields := [⟨31, 1, .w1s⟩, ⟨30, 1, .w1s⟩, ⟨29, 1, .ro⟩, ⟨8, 3, .rw⟩, ⟨6, 2, .rw⟩, ⟨4, 2, .rw⟩, ⟨1, 1, .rw⟩, ⟨0, 1, .rw⟩] }
def SRV_ICU_CTRL.GO : Fld := ⟨SRV_ICU_CTRL, 31, 1⟩
def SRV_ICU_CTRL.STOP : Fld := ⟨SRV_ICU_CTRL, 30, 1⟩
def SRV_ICU_CTRL.RUN : Fld := ⟨SRV_ICU_CTRL, 29, 1⟩
def SRV_ICU_CTRL.HEAD : Fld := ⟨SRV_ICU_CTRL, 8, 3⟩
def SRV_ICU_CTRL.POINT : Fld := ⟨SRV_ICU_CTRL, 6, 2⟩
def SRV_ICU_CTRL.TYPE : Fld := ⟨SRV_ICU_CTRL, 4, 2⟩
def SRV_ICU_CTRL.LOOP : Fld := ⟨SRV_ICU_CTRL, 1, 1⟩
def SRV_ICU_CTRL.SYNC : Fld := ⟨SRV_ICU_CTRL, 0, 1⟩

/-- SRV_ICU_AMP, offset 0x0304 (07_servo_supervision_and_tuning). -/
def SRV_ICU_AMP : Reg :=
  { blk := .srv, ofs := 0x0304, rst := fun _ => 0x00010000,
    fields := [⟨16, 16, .rw⟩, ⟨0, 16, .rw⟩] }
def SRV_ICU_AMP.HOLD : Fld := ⟨SRV_ICU_AMP, 16, 16⟩
def SRV_ICU_AMP.AMP : Fld := ⟨SRV_ICU_AMP, 0, 16⟩

/-- SRV_ICU_F0, offset 0x0308 (07_servo_supervision_and_tuning). -/
def SRV_ICU_F0 : Reg :=
  { blk := .srv, ofs := 0x0308,
    fields := [⟨0, 32, .rw⟩] }
def SRV_ICU_F0.F : Fld := ⟨SRV_ICU_F0, 0, 32⟩

/-- SRV_ICU_FSTEP, offset 0x030C (07_servo_supervision_and_tuning). -/
def SRV_ICU_FSTEP : Reg :=
  { blk := .srv, ofs := 0x030C,
    fields := [⟨0, 32, .rw⟩] }
def SRV_ICU_FSTEP.F : Fld := ⟨SRV_ICU_FSTEP, 0, 32⟩

/-- SRV_ICU_SWEEP, offset 0x0310 (07_servo_supervision_and_tuning). -/
def SRV_ICU_SWEEP : Reg :=
  { blk := .srv, ofs := 0x0310, rst := fun _ => 0x04000001,
    fields := [⟨16, 16, .rw⟩, ⟨0, 16, .rw⟩] }
def SRV_ICU_SWEEP.DWELL : Fld := ⟨SRV_ICU_SWEEP, 16, 16⟩
def SRV_ICU_SWEEP.COUNT : Fld := ⟨SRV_ICU_SWEEP, 0, 16⟩

/-- SRV_CAP_CTRL, offset 0x0340 (07_servo_supervision_and_tuning). -/
def SRV_CAP_CTRL : Reg :=
  { blk := .srv, ofs := 0x0340,
    fields := [⟨31, 1, .w1s⟩, ⟨30, 1, .w1s⟩, ⟨29, 1, .w1s⟩, ⟨8, 4, .rw⟩, ⟨0, 6, .rw⟩] }
def SRV_CAP_CTRL.ARM : Fld := ⟨SRV_CAP_CTRL, 31, 1⟩
def SRV_CAP_CTRL.ABORT : Fld := ⟨SRV_CAP_CTRL, 30, 1⟩
def SRV_CAP_CTRL.TRIG_NOW : Fld := ⟨SRV_CAP_CTRL, 29, 1⟩
def SRV_CAP_CTRL.TRIG : Fld := ⟨SRV_CAP_CTRL, 8, 4⟩
def SRV_CAP_CTRL.CH : Fld := ⟨SRV_CAP_CTRL, 0, 6⟩

/-- SRV_CAP_LEN, offset 0x0344 (07_servo_supervision_and_tuning). -/
def SRV_CAP_LEN : Reg :=
  { blk := .srv, ofs := 0x0344, rst := fun _ => 0x0000FFFF,
    fields := [⟨16, 16, .rw⟩, ⟨0, 16, .rw⟩] }
def SRV_CAP_LEN.PRE : Fld := ⟨SRV_CAP_LEN, 16, 16⟩
def SRV_CAP_LEN.LEN : Fld := ⟨SRV_CAP_LEN, 0, 16⟩

/-- SRV_CAP_SEL, offset 0x0348 + 0x4 j, j < 2 (07_servo_supervision_and_tuning). -/
def SRV_CAP_SEL : Reg :=
  { blk := .srv, ofs := 0x0348, count := 2, rst := fun _ => 0xFFFFFFFF,
    fields := [⟨24, 8, .rw⟩, ⟨16, 8, .rw⟩, ⟨8, 8, .rw⟩, ⟨0, 8, .rw⟩] }
def SRV_CAP_SEL.S3 : Fld := ⟨SRV_CAP_SEL, 24, 8⟩
def SRV_CAP_SEL.S2 : Fld := ⟨SRV_CAP_SEL, 16, 8⟩
def SRV_CAP_SEL.S1 : Fld := ⟨SRV_CAP_SEL, 8, 8⟩
def SRV_CAP_SEL.S0 : Fld := ⟨SRV_CAP_SEL, 0, 8⟩

/-- SRV_CAP_STATUS, offset 0x0350 (07_servo_supervision_and_tuning). -/
def SRV_CAP_STATUS : Reg :=
  { blk := .srv, ofs := 0x0350,
    fields := [⟨24, 8, .ro⟩, ⟨0, 24, .ro⟩] }
def SRV_CAP_STATUS.DROPPED : Fld := ⟨SRV_CAP_STATUS, 24, 8⟩
def SRV_CAP_STATUS.WRITTEN : Fld := ⟨SRV_CAP_STATUS, 0, 24⟩

/-- SRV_CAP_RESULT, offset 0x0354 (07_servo_supervision_and_tuning). -/
def SRV_CAP_RESULT : Reg :=
  { blk := .srv, ofs := 0x0354,
    fields := [⟨31, 1, .ro⟩, ⟨24, 7, .ro⟩, ⟨23, 1, .ro⟩, ⟨22, 1, .ro⟩, ⟨21, 1, .ro⟩, ⟨0, 16, .ro⟩] }
def SRV_CAP_RESULT.VALID : Fld := ⟨SRV_CAP_RESULT, 31, 1⟩
def SRV_CAP_RESULT.SEQ : Fld := ⟨SRV_CAP_RESULT, 24, 7⟩
def SRV_CAP_RESULT.OVERRUN : Fld := ⟨SRV_CAP_RESULT, 23, 1⟩
def SRV_CAP_RESULT.ABORTED : Fld := ⟨SRV_CAP_RESULT, 22, 1⟩
def SRV_CAP_RESULT.TRIGGERED : Fld := ⟨SRV_CAP_RESULT, 21, 1⟩
def SRV_CAP_RESULT.PRE_KEPT : Fld := ⟨SRV_CAP_RESULT, 0, 16⟩

/-- SRV_XHAT, offset 0x0400 + 0x4 j, j < 32 (06_servo_engine). -/
def SRV_XHAT : Reg :=
  { blk := .srv, ofs := 0x0400, count := 32,
    fields := [⟨0, 32, .ro⟩] }
def SRV_XHAT.X : Fld := ⟨SRV_XHAT, 0, 32⟩

/-- SRV_Y, offset 0x0480 + 0x4 j, j < 16 (06_servo_engine). -/
def SRV_Y : Reg :=
  { blk := .srv, ofs := 0x0480, count := 16,
    fields := [⟨0, 32, .ro⟩] }
def SRV_Y.Y : Fld := ⟨SRV_Y, 0, 32⟩

/-- SRV_U, offset 0x04C0 + 0x4 j, j < 9 (06_servo_engine). -/
def SRV_U : Reg :=
  { blk := .srv, ofs := 0x04C0, count := 9,
    fields := [⟨0, 32, .ro⟩] }
def SRV_U.U : Fld := ⟨SRV_U, 0, 32⟩

/-- SRV_PRESET, offset 0x0600 + 0x4 j, j < 32 (07_servo_supervision_and_tuning). -/
def SRV_PRESET : Reg :=
  { blk := .srv, ofs := 0x0600, count := 32,
    fields := [⟨30, 2, .rwl⟩, ⟨24, 4, .rwl⟩, ⟨0, 16, .rwl⟩] }
def SRV_PRESET.MODE : Fld := ⟨SRV_PRESET, 30, 2⟩
def SRV_PRESET.SRC : Fld := ⟨SRV_PRESET, 24, 4⟩
def SRV_PRESET.GAIN : Fld := ⟨SRV_PRESET, 0, 16⟩

/-- SRV_ICU_TABLE, offset 0x1000 + 0x4 j, j < 2048 (07_servo_supervision_and_tuning). -/
def SRV_ICU_TABLE : Reg :=
  { blk := .srv, ofs := 0x1000, count := 2048,
    fields := [⟨16, 16, .rw⟩, ⟨0, 16, .rw⟩] }
def SRV_ICU_TABLE.ODD : Fld := ⟨SRV_ICU_TABLE, 16, 16⟩
def SRV_ICU_TABLE.EVEN : Fld := ⟨SRV_ICU_TABLE, 0, 16⟩

/-- SRV_COEF, offset 0x4000 + 0x4 j, j < 3072 (06_servo_engine). -/
def SRV_COEF : Reg :=
  { blk := .srv, ofs := 0x4000, count := 3072,
    fields := [⟨0, 32, .rw⟩] }
def SRV_COEF.C : Fld := ⟨SRV_COEF, 0, 32⟩

/-- SRV_FOFS, offset 0x8000 + 0x4 j, j < 512 (06_servo_engine). -/
def SRV_FOFS : Reg :=
  { blk := .srv, ofs := 0x8000, count := 512,
    fields := [⟨0, 20, .rw⟩] }
def SRV_FOFS.OFS : Fld := ⟨SRV_FOFS, 0, 20⟩

/-- The registers of SRV. -/
def regsSrv : List Reg :=
  [SRV_CTRL, SRV_STATUS, SRV_DIM, SRV_YSEL, SRV_CMD, SRV_HEAD_OFS, SRV_ONTRACK, SRV_PES_CFG,
   SRV_LOAD_CFG, SRV_UNLOAD_CFG, SRV_LOAD_TIME, SRV_INT_STATUS, SRV_INT_EN, SRV_BAND_SEL,
   SRV_BAND_VALID, SRV_LINK_STATUS, SRV_AMP_STATUS, SRV_AMP_MEAS, SRV_COEF_SEL, SRV_OBS_CTRL,
   SRV_MODE_CMD, SRV_MAN_TGT, SRV_MAN_CFG, SRV_SUP_CFG, SRV_FE_CFG, SRV_SUP_STATUS, SRV_FE_INFO,
   SRV_RET_INFO, SRV_ICU_CTRL, SRV_ICU_AMP, SRV_ICU_F0, SRV_ICU_FSTEP, SRV_ICU_SWEEP,
   SRV_CAP_CTRL, SRV_CAP_LEN, SRV_CAP_SEL, SRV_CAP_STATUS, SRV_CAP_RESULT, SRV_XHAT, SRV_Y,
   SRV_U, SRV_PRESET, SRV_ICU_TABLE, SRV_COEF, SRV_FOFS]

/-! ### FMT -/

/-- FMT_CTRL, offset 0x0000 (05_formatter_microcode). -/
def FMT_CTRL : Reg :=
  { blk := .fmt, ofs := 0x0000, rst := fun _ => 0x00100000,
    fields := [⟨16, 14, .rw⟩, ⟨3, 1, .w1s⟩, ⟨2, 1, .w1s⟩, ⟨1, 1, .w1s⟩, ⟨0, 1, .rw⟩] }
def FMT_CTRL.START_ADDR : Fld := ⟨FMT_CTRL, 16, 14⟩
def FMT_CTRL.STEP : Fld := ⟨FMT_CTRL, 3, 1⟩
def FMT_CTRL.HALT_REQ : Fld := ⟨FMT_CTRL, 2, 1⟩
def FMT_CTRL.START : Fld := ⟨FMT_CTRL, 1, 1⟩
def FMT_CTRL.EN : Fld := ⟨FMT_CTRL, 0, 1⟩

/-- FMT_STATUS, offset 0x0004 (05_formatter_microcode). -/
def FMT_STATUS : Reg :=
  { blk := .fmt, ofs := 0x0004,
    fields := [⟨29, 3, .ro⟩, ⟨24, 3, .ro⟩, ⟨0, 14, .ro⟩] }
def FMT_STATUS.STATE : Fld := ⟨FMT_STATUS, 29, 3⟩
def FMT_STATUS.STACK : Fld := ⟨FMT_STATUS, 24, 3⟩
def FMT_STATUS.PC : Fld := ⟨FMT_STATUS, 0, 14⟩

/-- FMT_CFG, offset 0x0008 (05_formatter_microcode). -/
def FMT_CFG : Reg :=
  { blk := .fmt, ofs := 0x0008, rst := fun _ => 0x0C004000,
    fields := [⟨16, 16, .rw⟩, ⟨12, 4, .rw⟩, ⟨0, 1, .rw⟩] }
def FMT_CFG.WAIT_LIMIT : Fld := ⟨FMT_CFG, 16, 16⟩
def FMT_CFG.DEFER_MAX : Fld := ⟨FMT_CFG, 12, 4⟩
def FMT_CFG.SW_FLAG : Fld := ⟨FMT_CFG, 0, 1⟩

/-- FMT_LANES, offset 0x000C (05_formatter_microcode). -/
def FMT_LANES : Reg :=
  { blk := .fmt, ofs := 0x000C,
    fields := [⟨8, 8, .ro⟩, ⟨0, 8, .rwl⟩] }
def FMT_LANES.ALIVE : Fld := ⟨FMT_LANES, 8, 8⟩
def FMT_LANES.PRESENT : Fld := ⟨FMT_LANES, 0, 8⟩

/-- FMT_TRAP, offset 0x0010 (05_formatter_microcode). -/
def FMT_TRAP : Reg :=
  { blk := .fmt, ofs := 0x0010,
    fields := [⟨31, 1, .ro⟩, ⟨24, 7, .ro⟩, ⟨20, 4, .ro⟩, ⟨0, 14, .ro⟩] }
def FMT_TRAP.VALID : Fld := ⟨FMT_TRAP, 31, 1⟩
def FMT_TRAP.SEQ : Fld := ⟨FMT_TRAP, 24, 7⟩
def FMT_TRAP.CAUSE : Fld := ⟨FMT_TRAP, 20, 4⟩
def FMT_TRAP.PC : Fld := ⟨FMT_TRAP, 0, 14⟩

/-- FMT_CNT01, offset 0x0020 (05_formatter_microcode). -/
def FMT_CNT01 : Reg :=
  { blk := .fmt, ofs := 0x0020,
    fields := [⟨16, 16, .ro⟩, ⟨0, 16, .ro⟩] }
def FMT_CNT01.C1 : Fld := ⟨FMT_CNT01, 16, 16⟩
def FMT_CNT01.C0 : Fld := ⟨FMT_CNT01, 0, 16⟩

/-- FMT_CNT2, offset 0x0024 (05_formatter_microcode). -/
def FMT_CNT2 : Reg :=
  { blk := .fmt, ofs := 0x0024,
    fields := [⟨16, 10, .ro⟩, ⟨0, 16, .ro⟩] }
def FMT_CNT2.SP : Fld := ⟨FMT_CNT2, 16, 10⟩
def FMT_CNT2.C2 : Fld := ⟨FMT_CNT2, 0, 16⟩

/-- FMT_RQ0, offset 0x0040 (05_formatter_microcode). -/
def FMT_RQ0 : Reg :=
  { blk := .fmt, ofs := 0x0040,
    fields := [⟨31, 1, .ro⟩, ⟨24, 4, .ro⟩, ⟨0, 20, .ro⟩] }
def FMT_RQ0.VALID : Fld := ⟨FMT_RQ0, 31, 1⟩
def FMT_RQ0.KIND : Fld := ⟨FMT_RQ0, 24, 4⟩
def FMT_RQ0.CYL : Fld := ⟨FMT_RQ0, 0, 20⟩

/-- FMT_RQ1, offset 0x0044 (05_formatter_microcode). -/
def FMT_RQ1 : Reg :=
  { blk := .fmt, ofs := 0x0044,
    fields := [⟨22, 10, .ro⟩, ⟨12, 8, .ro⟩, ⟨0, 10, .ro⟩] }
def FMT_RQ1.COUNT : Fld := ⟨FMT_RQ1, 22, 10⟩
def FMT_RQ1.REVS : Fld := ⟨FMT_RQ1, 12, 8⟩
def FMT_RQ1.SECT : Fld := ⟨FMT_RQ1, 0, 10⟩

/-- FMT_RQ2, offset 0x0048 (05_formatter_microcode). -/
def FMT_RQ2 : Reg :=
  { blk := .fmt, ofs := 0x0048,
    fields := [⟨16, 8, .ro⟩, ⟨8, 8, .ro⟩, ⟨0, 8, .ro⟩] }
def FMT_RQ2.CMASK : Fld := ⟨FMT_RQ2, 16, 8⟩
def FMT_RQ2.WMASK : Fld := ⟨FMT_RQ2, 8, 8⟩
def FMT_RQ2.RMASK : Fld := ⟨FMT_RQ2, 0, 8⟩

/-- FMT_HOOK_CFG, offset 0x0050 (05_formatter_microcode). -/
def FMT_HOOK_CFG : Reg :=
  { blk := .fmt, ofs := 0x0050, rst := fun _ => 0x00001000,
    fields := [⟨8, 8, .rwl⟩, ⟨0, 4, .rwl⟩] }
def FMT_HOOK_CFG.BUDGET : Fld := ⟨FMT_HOOK_CFG, 8, 8⟩
def FMT_HOOK_CFG.EN : Fld := ⟨FMT_HOOK_CFG, 0, 4⟩

/-- FMT_PATTERN, offset 0x0060 (05_formatter_microcode). -/
def FMT_PATTERN : Reg :=
  { blk := .fmt, ofs := 0x0060, rst := fun _ => 0x33333333,
    fields := [⟨0, 32, .rw⟩] }
def FMT_PATTERN.PATTERN : Fld := ⟨FMT_PATTERN, 0, 32⟩

/-- FMT_INT_STATUS, offset 0x0080 (05_formatter_microcode). -/
def FMT_INT_STATUS : Reg :=
  { blk := .fmt, ofs := 0x0080,
    fields := [⟨4, 4, .w1c⟩, ⟨3, 1, .w1c⟩, ⟨2, 1, .w1c⟩, ⟨1, 1, .w1c⟩, ⟨0, 1, .w1c⟩] }
def FMT_INT_STATUS.UEVT : Fld := ⟨FMT_INT_STATUS, 4, 4⟩
def FMT_INT_STATUS.WR_FAIL : Fld := ⟨FMT_INT_STATUS, 3, 1⟩
def FMT_INT_STATUS.SLOT_MISSED : Fld := ⟨FMT_INT_STATUS, 2, 1⟩
def FMT_INT_STATUS.HALTED : Fld := ⟨FMT_INT_STATUS, 1, 1⟩
def FMT_INT_STATUS.TRAP : Fld := ⟨FMT_INT_STATUS, 0, 1⟩

/-- FMT_INT_EN, offset 0x0084 (05_formatter_microcode). -/
def FMT_INT_EN : Reg :=
  { blk := .fmt, ofs := 0x0084,
    fields := [⟨4, 4, .rw⟩, ⟨3, 1, .rw⟩, ⟨2, 1, .rw⟩, ⟨1, 1, .rw⟩, ⟨0, 1, .rw⟩] }
def FMT_INT_EN.UEVT : Fld := ⟨FMT_INT_EN, 4, 4⟩
def FMT_INT_EN.WR_FAIL : Fld := ⟨FMT_INT_EN, 3, 1⟩
def FMT_INT_EN.SLOT_MISSED : Fld := ⟨FMT_INT_EN, 2, 1⟩
def FMT_INT_EN.HALTED : Fld := ⟨FMT_INT_EN, 1, 1⟩
def FMT_INT_EN.TRAP : Fld := ⟨FMT_INT_EN, 0, 1⟩

/-- FMT_PATCH_STATUS, offset 0x00F0 (05_formatter_microcode). -/
def FMT_PATCH_STATUS : Reg :=
  { blk := .fmt, ofs := 0x00F0,
    fields := [⟨31, 1, .ro⟩, ⟨16, 8, .ro⟩, ⟨0, 16, .ro⟩] }
def FMT_PATCH_STATUS.FAILED : Fld := ⟨FMT_PATCH_STATUS, 31, 1⟩
def FMT_PATCH_STATUS.APPLIED : Fld := ⟨FMT_PATCH_STATUS, 16, 8⟩
def FMT_PATCH_STATUS.LAST_SEQ : Fld := ⟨FMT_PATCH_STATUS, 0, 16⟩

/-- WLS_CTRL, offset 0x0800 (04_write_path_and_clocking). -/
def WLS_CTRL : Reg :=
  { blk := .fmt, ofs := 0x0800, rst := fun _ => 0x400D4F32,
    fields := [⟨24, 8, .rw⟩, ⟨16, 8, .rw⟩, ⟨12, 4, .rw⟩, ⟨8, 4, .rw⟩, ⟨5, 3, .rw⟩, ⟨3, 2, .rw⟩, ⟨1, 1, .rw⟩, ⟨0, 1, .rw⟩] }
def WLS_CTRL.LOSS_THR : Fld := ⟨WLS_CTRL, 24, 8⟩
def WLS_CTRL.WR_THR : Fld := ⟨WLS_CTRL, 16, 8⟩
def WLS_CTRL.LOCK_THR : Fld := ⟨WLS_CTRL, 12, 4⟩
def WLS_CTRL.LOCK_CNT : Fld := ⟨WLS_CTRL, 8, 4⟩
def WLS_CTRL.KF : Fld := ⟨WLS_CTRL, 5, 3⟩
def WLS_CTRL.MISS_MAX : Fld := ⟨WLS_CTRL, 3, 2⟩
def WLS_CTRL.FF_EN : Fld := ⟨WLS_CTRL, 1, 1⟩
def WLS_CTRL.EN : Fld := ⟨WLS_CTRL, 0, 1⟩

/-- WLS_STATUS, offset 0x0804 (04_write_path_and_clocking). -/
def WLS_STATUS : Reg :=
  { blk := .fmt, ofs := 0x0804,
    fields := [⟨29, 3, .ro⟩, ⟨26, 3, .ro⟩, ⟨23, 3, .ro⟩, ⟨8, 8, .ro⟩, ⟨0, 8, .ro⟩] }
def WLS_STATUS.STATE : Fld := ⟨WLS_STATUS, 29, 3⟩
def WLS_STATUS.DIV : Fld := ⟨WLS_STATUS, 26, 3⟩
def WLS_STATUS.SOURCE : Fld := ⟨WLS_STATUS, 23, 3⟩
def WLS_STATUS.THETA_RMS : Fld := ⟨WLS_STATUS, 8, 8⟩
def WLS_STATUS.THETA_LAST : Fld := ⟨WLS_STATUS, 0, 8⟩

/-- WLS_RATIO_LO, offset 0x0808 (04_write_path_and_clocking). -/
def WLS_RATIO_LO : Reg :=
  { blk := .fmt, ofs := 0x0808,
    fields := [⟨0, 32, .ro⟩] }
def WLS_RATIO_LO.FRAC : Fld := ⟨WLS_RATIO_LO, 0, 32⟩

/-- WLS_RATIO_HI, offset 0x080C (04_write_path_and_clocking). -/
def WLS_RATIO_HI : Reg :=
  { blk := .fmt, ofs := 0x080C,
    fields := [⟨0, 8, .ro⟩] }
def WLS_RATIO_HI.INT : Fld := ⟨WLS_RATIO_HI, 0, 8⟩

/-- WLS_LANE_OFS, offset 0x0820 + 0x4 j, j < 8 (04_write_path_and_clocking). -/
def WLS_LANE_OFS : Reg :=
  { blk := .fmt, ofs := 0x0820, count := 8, rst := fun _ => 0x80000000,
    fields := [⟨31, 1, .rw⟩, ⟨12, 12, .rw⟩, ⟨0, 8, .rw⟩] }
def WLS_LANE_OFS.TRACK : Fld := ⟨WLS_LANE_OFS, 31, 1⟩
def WLS_LANE_OFS.CELLS : Fld := ⟨WLS_LANE_OFS, 12, 12⟩
def WLS_LANE_OFS.FINE : Fld := ⟨WLS_LANE_OFS, 0, 8⟩

/-- WLS_WRITE_CFG, offset 0x0840 (04_write_path_and_clocking). -/
def WLS_WRITE_CFG : Reg :=
  { blk := .fmt, ofs := 0x0840, rst := fun _ => 0x80642010,
    fields := [⟨28, 4, .rwl⟩, ⟨16, 12, .rwl⟩, ⟨8, 8, .rw⟩, ⟨0, 8, .rw⟩] }
def WLS_WRITE_CFG.WL_GRP : Fld := ⟨WLS_WRITE_CFG, 28, 4⟩
def WLS_WRITE_CFG.HTR_SETTLE : Fld := ⟨WLS_WRITE_CFG, 16, 12⟩
def WLS_WRITE_CFG.WG_LEAD : Fld := ⟨WLS_WRITE_CFG, 8, 8⟩
def WLS_WRITE_CFG.WG_TAIL : Fld := ⟨WLS_WRITE_CFG, 0, 8⟩

/-- WLS_INHIBIT, offset 0x0844 (04_write_path_and_clocking). -/
def WLS_INHIBIT : Reg :=
  { blk := .fmt, ofs := 0x0844,
    fields := [⟨0, 8, .rw⟩] }
def WLS_INHIBIT.FW_MASK : Fld := ⟨WLS_INHIBIT, 0, 8⟩

/-- WLS_INH_STATUS, offset 0x0848 (04_write_path_and_clocking). -/
def WLS_INH_STATUS : Reg :=
  { blk := .fmt, ofs := 0x0848,
    fields := [⟨8, 8, .ro⟩, ⟨0, 8, .ro⟩] }
def WLS_INH_STATUS.GROUP : Fld := ⟨WLS_INH_STATUS, 8, 8⟩
def WLS_INH_STATUS.HEAD : Fld := ⟨WLS_INH_STATUS, 0, 8⟩

/-- WLS_ABORT_INFO0, offset 0x0850 (04_write_path_and_clocking). -/
def WLS_ABORT_INFO0 : Reg :=
  { blk := .fmt, ofs := 0x0850,
    fields := [⟨31, 1, .ro⟩, ⟨24, 7, .ro⟩, ⟨20, 4, .ro⟩, ⟨17, 3, .ro⟩, ⟨0, 10, .ro⟩] }
def WLS_ABORT_INFO0.VALID : Fld := ⟨WLS_ABORT_INFO0, 31, 1⟩
def WLS_ABORT_INFO0.SEQ : Fld := ⟨WLS_ABORT_INFO0, 24, 7⟩
def WLS_ABORT_INFO0.CAUSE : Fld := ⟨WLS_ABORT_INFO0, 20, 4⟩
def WLS_ABORT_INFO0.HEAD : Fld := ⟨WLS_ABORT_INFO0, 17, 3⟩
def WLS_ABORT_INFO0.SECTOR : Fld := ⟨WLS_ABORT_INFO0, 0, 10⟩

/-- WLS_ABORT_INFO1, offset 0x0854 (04_write_path_and_clocking). -/
def WLS_ABORT_INFO1 : Reg :=
  { blk := .fmt, ofs := 0x0854,
    fields := [⟨0, 20, .ro⟩] }
def WLS_ABORT_INFO1.CYL : Fld := ⟨WLS_ABORT_INFO1, 0, 20⟩

/-- WLS_INT_STATUS, offset 0x0860 (04_write_path_and_clocking). -/
def WLS_INT_STATUS : Reg :=
  { blk := .fmt, ofs := 0x0860,
    fields := [⟨5, 1, .w1c⟩, ⟨4, 1, .w1c⟩, ⟨3, 1, .w1c⟩, ⟨2, 1, .w1c⟩, ⟨1, 1, .w1c⟩, ⟨0, 1, .w1c⟩] }
def WLS_INT_STATUS.WRITE_DEFERRED : Fld := ⟨WLS_INT_STATUS, 5, 1⟩
def WLS_INT_STATUS.HTR_LIMIT : Fld := ⟨WLS_INT_STATUS, 4, 1⟩
def WLS_INT_STATUS.PA_ERR : Fld := ⟨WLS_INT_STATUS, 3, 1⟩
def WLS_INT_STATUS.PREAMP_FAULT : Fld := ⟨WLS_INT_STATUS, 2, 1⟩
def WLS_INT_STATUS.WRITE_ABORT : Fld := ⟨WLS_INT_STATUS, 1, 1⟩
def WLS_INT_STATUS.LOCK_LOST : Fld := ⟨WLS_INT_STATUS, 0, 1⟩

/-- WLS_INT_EN, offset 0x0864 (04_write_path_and_clocking). -/
def WLS_INT_EN : Reg :=
  { blk := .fmt, ofs := 0x0864,
    fields := [⟨5, 1, .rw⟩, ⟨4, 1, .rw⟩, ⟨3, 1, .rw⟩, ⟨2, 1, .rw⟩, ⟨1, 1, .rw⟩, ⟨0, 1, .rw⟩] }
def WLS_INT_EN.WRITE_DEFERRED : Fld := ⟨WLS_INT_EN, 5, 1⟩
def WLS_INT_EN.HTR_LIMIT : Fld := ⟨WLS_INT_EN, 4, 1⟩
def WLS_INT_EN.PA_ERR : Fld := ⟨WLS_INT_EN, 3, 1⟩
def WLS_INT_EN.PREAMP_FAULT : Fld := ⟨WLS_INT_EN, 2, 1⟩
def WLS_INT_EN.WRITE_ABORT : Fld := ⟨WLS_INT_EN, 1, 1⟩
def WLS_INT_EN.LOCK_LOST : Fld := ⟨WLS_INT_EN, 0, 1⟩

/-- WLS_PA_CMD, offset 0x0870 (04_write_path_and_clocking). -/
def WLS_PA_CMD : Reg :=
  { blk := .fmt, ofs := 0x0870,
    fields := [⟨31, 1, .w1s⟩, ⟨30, 1, .rw⟩, ⟨16, 7, .rw⟩, ⟨0, 16, .rw⟩] }
def WLS_PA_CMD.GO : Fld := ⟨WLS_PA_CMD, 31, 1⟩
def WLS_PA_CMD.READ : Fld := ⟨WLS_PA_CMD, 30, 1⟩
def WLS_PA_CMD.ADDR : Fld := ⟨WLS_PA_CMD, 16, 7⟩
def WLS_PA_CMD.DATA : Fld := ⟨WLS_PA_CMD, 0, 16⟩

/-- WLS_PA_RESP, offset 0x0874 (04_write_path_and_clocking). -/
def WLS_PA_RESP : Reg :=
  { blk := .fmt, ofs := 0x0874,
    fields := [⟨31, 1, .ro⟩, ⟨24, 7, .ro⟩, ⟨23, 1, .ro⟩, ⟨0, 16, .ro⟩] }
def WLS_PA_RESP.VALID : Fld := ⟨WLS_PA_RESP, 31, 1⟩
def WLS_PA_RESP.SEQ : Fld := ⟨WLS_PA_RESP, 24, 7⟩
def WLS_PA_RESP.PERR : Fld := ⟨WLS_PA_RESP, 23, 1⟩
def WLS_PA_RESP.DATA : Fld := ⟨WLS_PA_RESP, 0, 16⟩

/-- WLS_HTR_CFG, offset 0x0880 + 0x4 j, j < 8 (04_write_path_and_clocking). -/
def WLS_HTR_CFG : Reg :=
  { blk := .fmt, ofs := 0x0880, count := 8,
    fields := [⟨24, 8, .rwl⟩, ⟨16, 8, .rwl⟩, ⟨8, 7, .rwl⟩] }
def WLS_HTR_CFG.IDLE : Fld := ⟨WLS_HTR_CFG, 24, 8⟩
def WLS_HTR_CFG.HTR_MAX : Fld := ⟨WLS_HTR_CFG, 16, 8⟩
def WLS_HTR_CFG.ADDR : Fld := ⟨WLS_HTR_CFG, 8, 7⟩

/-- WLS_PRECOMP, offset 0x1000 + 0x4 j, j < 512 (04_write_path_and_clocking). -/
def WLS_PRECOMP : Reg :=
  { blk := .fmt, ofs := 0x1000, count := 512,
    fields := [⟨24, 8, .rw⟩, ⟨16, 8, .rw⟩, ⟨8, 8, .rw⟩, ⟨0, 8, .rw⟩] }
def WLS_PRECOMP.L3 : Fld := ⟨WLS_PRECOMP, 24, 8⟩
def WLS_PRECOMP.L2 : Fld := ⟨WLS_PRECOMP, 16, 8⟩
def WLS_PRECOMP.L1 : Fld := ⟨WLS_PRECOMP, 8, 8⟩
def WLS_PRECOMP.L0 : Fld := ⟨WLS_PRECOMP, 0, 8⟩

/-- WLS_HEATER, offset 0x1800 + 0x4 j, j < 512 (04_write_path_and_clocking). -/
def WLS_HEATER : Reg :=
  { blk := .fmt, ofs := 0x1800, count := 512,
    fields := [⟨8, 8, .rw⟩, ⟨0, 8, .rw⟩] }
def WLS_HEATER.HTR_WR : Fld := ⟨WLS_HEATER, 8, 8⟩
def WLS_HEATER.HTR_RD : Fld := ⟨WLS_HEATER, 0, 8⟩

/-- The registers of FMT. -/
def regsFmt : List Reg :=
  [FMT_CTRL, FMT_STATUS, FMT_CFG, FMT_LANES, FMT_TRAP, FMT_CNT01, FMT_CNT2, FMT_RQ0, FMT_RQ1,
   FMT_RQ2, FMT_HOOK_CFG, FMT_PATTERN, FMT_INT_STATUS, FMT_INT_EN, FMT_PATCH_STATUS, WLS_CTRL,
   WLS_STATUS, WLS_RATIO_LO, WLS_RATIO_HI, WLS_LANE_OFS, WLS_WRITE_CFG, WLS_INHIBIT,
   WLS_INH_STATUS, WLS_ABORT_INFO0, WLS_ABORT_INFO1, WLS_INT_STATUS, WLS_INT_EN, WLS_PA_CMD,
   WLS_PA_RESP, WLS_HTR_CFG, WLS_PRECOMP, WLS_HEATER]

/-! ### LANE -/

/-- LANE_CTRL, offset 0x0000 (03_read_channel). -/
def LANE_CTRL : Reg :=
  { blk := .lane, ofs := 0x0000, rst := fun _ => 0x00400006,
    fields := [⟨16, 8, .rw⟩, ⟨9, 1, .wo⟩, ⟨8, 1, .w1s⟩, ⟨4, 2, .rw⟩, ⟨2, 1, .rw⟩, ⟨1, 1, .rw⟩, ⟨0, 1, .rw⟩] }
def LANE_CTRL.CAL_SECTORS : Fld := ⟨LANE_CTRL, 16, 8⟩
def LANE_CTRL.ADAPT_RESET : Fld := ⟨LANE_CTRL, 9, 1⟩
def LANE_CTRL.CAL_GO : Fld := ⟨LANE_CTRL, 8, 1⟩
def LANE_CTRL.MODE : Fld := ⟨LANE_CTRL, 4, 2⟩
def LANE_CTRL.RDB_EN : Fld := ⟨LANE_CTRL, 2, 1⟩
def LANE_CTRL.RDA_EN : Fld := ⟨LANE_CTRL, 1, 1⟩
def LANE_CTRL.EN : Fld := ⟨LANE_CTRL, 0, 1⟩

/-- LANE_STATUS, offset 0x0004 (03_read_channel). -/
def LANE_STATUS : Reg :=
  { blk := .lane, ofs := 0x0004,
    fields := [⟨11, 1, .ro⟩, ⟨10, 1, .ro⟩, ⟨8, 2, .ro⟩, ⟨2, 6, .ro⟩, ⟨1, 1, .ro⟩, ⟨0, 1, .ro⟩] }
def LANE_STATUS.SPEC_BUSY : Fld := ⟨LANE_STATUS, 11, 1⟩
def LANE_STATUS.REC_BUSY : Fld := ⟨LANE_STATUS, 10, 1⟩
def LANE_STATUS.PINNED : Fld := ⟨LANE_STATUS, 8, 2⟩
def LANE_STATUS.ZONE : Fld := ⟨LANE_STATUS, 2, 6⟩
def LANE_STATUS.TRACKING : Fld := ⟨LANE_STATUS, 1, 1⟩
def LANE_STATUS.RUN : Fld := ⟨LANE_STATUS, 0, 1⟩

/-- LANE_AFE_A, offset 0x0010 (03_read_channel). -/
def LANE_AFE_A : Reg :=
  { blk := .lane, ofs := 0x0010, rst := fun _ => 0x04065050,
    fields := [⟨28, 4, .rw⟩, ⟨20, 8, .rw⟩, ⟨16, 4, .rw⟩, ⟨8, 8, .rw⟩, ⟨0, 8, .rw⟩] }
def LANE_AFE_A.DELAY : Fld := ⟨LANE_AFE_A, 28, 4⟩
def LANE_AFE_A.GAIN_TGT : Fld := ⟨LANE_AFE_A, 20, 8⟩
def LANE_AFE_A.CTF_BOOST : Fld := ⟨LANE_AFE_A, 16, 4⟩
def LANE_AFE_A.CTF_FC : Fld := ⟨LANE_AFE_A, 8, 8⟩
def LANE_AFE_A.VGA_INIT : Fld := ⟨LANE_AFE_A, 0, 8⟩

/-- LANE_AFE_B, offset 0x0014 (03_read_channel). -/
def LANE_AFE_B : Reg :=
  { blk := .lane, ofs := 0x0014, rst := fun _ => 0x04065050,
    fields := [⟨28, 4, .rw⟩, ⟨20, 8, .rw⟩, ⟨16, 4, .rw⟩, ⟨8, 8, .rw⟩, ⟨0, 8, .rw⟩] }
def LANE_AFE_B.DELAY : Fld := ⟨LANE_AFE_B, 28, 4⟩
def LANE_AFE_B.GAIN_TGT : Fld := ⟨LANE_AFE_B, 20, 8⟩
def LANE_AFE_B.CTF_BOOST : Fld := ⟨LANE_AFE_B, 16, 4⟩
def LANE_AFE_B.CTF_FC : Fld := ⟨LANE_AFE_B, 8, 8⟩
def LANE_AFE_B.VGA_INIT : Fld := ⟨LANE_AFE_B, 0, 8⟩

/-- LANE_LOOP, offset 0x0020 (03_read_channel). -/
def LANE_LOOP : Reg :=
  { blk := .lane, ofs := 0x0020, rst := fun _ => 0x86848627,
    fields := [⟨28, 4, .rw⟩, ⟨24, 4, .rw⟩, ⟨20, 4, .rw⟩, ⟨16, 4, .rw⟩, ⟨12, 4, .rw⟩, ⟨8, 4, .rw⟩, ⟨5, 1, .rw⟩, ⟨4, 1, .rw⟩, ⟨3, 1, .rw⟩, ⟨2, 1, .rw⟩, ⟨1, 1, .rw⟩, ⟨0, 1, .rw⟩] }
def LANE_LOOP.MU_ASYM : Fld := ⟨LANE_LOOP, 28, 4⟩
def LANE_LOOP.MU_OFS : Fld := ⟨LANE_LOOP, 24, 4⟩
def LANE_LOOP.MU_GAIN_TRK : Fld := ⟨LANE_LOOP, 20, 4⟩
def LANE_LOOP.MU_GAIN_ACQ : Fld := ⟨LANE_LOOP, 16, 4⟩
def LANE_LOOP.MU_TGT : Fld := ⟨LANE_LOOP, 12, 4⟩
def LANE_LOOP.MU_FIR : Fld := ⟨LANE_LOOP, 8, 4⟩
def LANE_LOOP.WB_EN : Fld := ⟨LANE_LOOP, 5, 1⟩
def LANE_LOOP.TGT_EN : Fld := ⟨LANE_LOOP, 4, 1⟩
def LANE_LOOP.FIR_EN : Fld := ⟨LANE_LOOP, 3, 1⟩
def LANE_LOOP.ASYM_EN : Fld := ⟨LANE_LOOP, 2, 1⟩
def LANE_LOOP.OFS_EN : Fld := ⟨LANE_LOOP, 1, 1⟩
def LANE_LOOP.GAIN_EN : Fld := ⟨LANE_LOOP, 0, 1⟩

/-- LANE_TIMING, offset 0x0024 (03_read_channel). -/
def LANE_TIMING : Reg :=
  { blk := .lane, ofs := 0x0024, rst := fun _ => 0x0032C683,
    fields := [⟨16, 8, .rw⟩, ⟨12, 4, .rw⟩, ⟨8, 4, .rw⟩, ⟨4, 4, .rw⟩, ⟨0, 4, .rw⟩] }
def LANE_TIMING.FREQ_LIMIT : Fld := ⟨LANE_TIMING, 16, 8⟩
def LANE_TIMING.KI_TRK : Fld := ⟨LANE_TIMING, 12, 4⟩
def LANE_TIMING.KP_TRK : Fld := ⟨LANE_TIMING, 8, 4⟩
def LANE_TIMING.KI_ACQ : Fld := ⟨LANE_TIMING, 4, 4⟩
def LANE_TIMING.KP_ACQ : Fld := ⟨LANE_TIMING, 0, 4⟩

/-- LANE_PREAMBLE, offset 0x0028 (03_read_channel). -/
def LANE_PREAMBLE : Reg :=
  { blk := .lane, ofs := 0x0028, rst := fun _ => 0x30401008,
    fields := [⟨24, 8, .rw⟩, ⟨16, 8, .rw⟩, ⟨8, 8, .rw⟩, ⟨0, 8, .rw⟩] }
def LANE_PREAMBLE.RES_ACQ_LEN : Fld := ⟨LANE_PREAMBLE, 24, 8⟩
def LANE_PREAMBLE.ACQ_LEN : Fld := ⟨LANE_PREAMBLE, 16, 8⟩
def LANE_PREAMBLE.ZPS_LEN : Fld := ⟨LANE_PREAMBLE, 8, 8⟩
def LANE_PREAMBLE.ZPS_START : Fld := ⟨LANE_PREAMBLE, 0, 8⟩

/-- LANE_SYNC, offset 0x0030 (03_read_channel). -/
def LANE_SYNC : Reg :=
  { blk := .lane, ofs := 0x0030, rst := fun _ => 0x00003364,
    fields := [⟨13, 1, .rw⟩, ⟨12, 1, .rw⟩, ⟨8, 4, .rw⟩, ⟨4, 4, .rw⟩, ⟨0, 4, .rw⟩] }
def LANE_SYNC.SECOND_EN : Fld := ⟨LANE_SYNC, 13, 1⟩
def LANE_SYNC.WIDE_EN : Fld := ⟨LANE_SYNC, 12, 1⟩
def LANE_SYNC.SPEC_DIST : Fld := ⟨LANE_SYNC, 8, 4⟩
def LANE_SYNC.MAX_DIST_WIDE : Fld := ⟨LANE_SYNC, 4, 4⟩
def LANE_SYNC.MAX_DIST : Fld := ⟨LANE_SYNC, 0, 4⟩

/-- LANE_ITER, offset 0x0034 (03_read_channel). -/
def LANE_ITER : Reg :=
  { blk := .lane, ofs := 0x0034, rst := fun _ => 0x10C84048,
    fields := [⟨28, 1, .rw⟩, ⟨16, 9, .rw⟩, ⟨8, 7, .rw⟩, ⟨4, 4, .rw⟩, ⟨0, 4, .rw⟩] }
def LANE_ITER.STALL_STOP : Fld := ⟨LANE_ITER, 28, 1⟩
def LANE_ITER.SPEC_USC : Fld := ⟨LANE_ITER, 16, 9⟩
def LANE_ITER.GLOBAL_REC : Fld := ⟨LANE_ITER, 8, 7⟩
def LANE_ITER.LOCAL : Fld := ⟨LANE_ITER, 4, 4⟩
def LANE_ITER.GLOBAL_OTF : Fld := ⟨LANE_ITER, 0, 4⟩

/-- LANE_SPEC_TA, offset 0x0038 (03_read_channel). -/
def LANE_SPEC_TA : Reg :=
  { blk := .lane, ofs := 0x0038, rst := fun _ => 0x000F2028,
    fields := [⟨19, 1, .rw⟩, ⟨18, 1, .rw⟩, ⟨17, 1, .rw⟩, ⟨16, 1, .rw⟩, ⟨8, 8, .rw⟩, ⟨0, 8, .rw⟩] }
def LANE_SPEC_TA.TRIG_TA : Fld := ⟨LANE_SPEC_TA, 19, 1⟩
def LANE_SPEC_TA.TRIG_USC : Fld := ⟨LANE_SPEC_TA, 18, 1⟩
def LANE_SPEC_TA.TRIG_SYNC : Fld := ⟨LANE_SPEC_TA, 17, 1⟩
def LANE_SPEC_TA.SPEC_EN : Fld := ⟨LANE_SPEC_TA, 16, 1⟩
def LANE_SPEC_TA.TA_EXT : Fld := ⟨LANE_SPEC_TA, 8, 8⟩
def LANE_SPEC_TA.TA_THRESH : Fld := ⟨LANE_SPEC_TA, 0, 8⟩

/-- LANE_LADDER, offset 0x0040 (03_read_channel). -/
def LANE_LADDER : Reg :=
  { blk := .lane, ofs := 0x0040, rst := fun _ => 0x147B0830,
    fields := [⟨28, 1, .rw⟩, ⟨24, 4, .rw⟩, ⟨16, 8, .rw⟩, ⟨8, 5, .rw⟩, ⟨0, 6, .rw⟩] }
def LANE_LADDER.WELT_EN : Fld := ⟨LANE_LADDER, 28, 1⟩
def LANE_LADDER.HEATER_STEP : Fld := ⟨LANE_LADDER, 24, 4⟩
def LANE_LADDER.OFFTRACK_STEP : Fld := ⟨LANE_LADDER, 16, 8⟩
def LANE_LADDER.MAX_REVS : Fld := ⟨LANE_LADDER, 8, 5⟩
def LANE_LADDER.BUF_BUDGET : Fld := ⟨LANE_LADDER, 0, 6⟩

/-- LANE_REC_INFO0, offset 0x0060 (03_read_channel). -/
def LANE_REC_INFO0 : Reg :=
  { blk := .lane, ofs := 0x0060,
    fields := [⟨31, 1, .ro⟩, ⟨24, 7, .ro⟩, ⟨20, 4, .ro⟩, ⟨16, 4, .ro⟩, ⟨10, 6, .ro⟩, ⟨0, 10, .ro⟩] }
def LANE_REC_INFO0.VALID : Fld := ⟨LANE_REC_INFO0, 31, 1⟩
def LANE_REC_INFO0.SEQ : Fld := ⟨LANE_REC_INFO0, 24, 7⟩
def LANE_REC_INFO0.OUTCOME : Fld := ⟨LANE_REC_INFO0, 20, 4⟩
def LANE_REC_INFO0.STEP : Fld := ⟨LANE_REC_INFO0, 16, 4⟩
def LANE_REC_INFO0.REVS : Fld := ⟨LANE_REC_INFO0, 10, 6⟩
def LANE_REC_INFO0.SECTOR : Fld := ⟨LANE_REC_INFO0, 0, 10⟩

/-- LANE_REC_INFO1, offset 0x0064 (03_read_channel). -/
def LANE_REC_INFO1 : Reg :=
  { blk := .lane, ofs := 0x0064, rst := fun _ => 0x78000000,
    fields := [⟨31, 1, .ro⟩, ⟨27, 4, .ro⟩, ⟨20, 7, .ro⟩, ⟨0, 20, .ro⟩] }
def LANE_REC_INFO1.TAG_MISMATCH : Fld := ⟨LANE_REC_INFO1, 31, 1⟩
def LANE_REC_INFO1.PASS : Fld := ⟨LANE_REC_INFO1, 27, 4⟩
def LANE_REC_INFO1.SYNC_POS : Fld := ⟨LANE_REC_INFO1, 20, 7⟩
def LANE_REC_INFO1.CYL : Fld := ⟨LANE_REC_INFO1, 0, 20⟩

/-- LANE_REC_INFO2, offset 0x0068 (03_read_channel). -/
def LANE_REC_INFO2 : Reg :=
  { blk := .lane, ofs := 0x0068,
    fields := [⟨16, 12, .ro⟩, ⟨8, 8, .ro⟩, ⟨0, 7, .ro⟩] }
def LANE_REC_INFO2.USC_BEST : Fld := ⟨LANE_REC_INFO2, 16, 12⟩
def LANE_REC_INFO2.SPEC_LAUNCHED : Fld := ⟨LANE_REC_INFO2, 8, 8⟩
def LANE_REC_INFO2.GLOBALS : Fld := ⟨LANE_REC_INFO2, 0, 7⟩

/-- LANE_INT_STATUS, offset 0x0080 (03_read_channel). -/
def LANE_INT_STATUS : Reg :=
  { blk := .lane, ofs := 0x0080,
    fields := [⟨7, 1, .w1c⟩, ⟨6, 1, .w1c⟩, ⟨5, 1, .w1c⟩, ⟨4, 1, .w1c⟩, ⟨3, 1, .w1c⟩, ⟨2, 1, .w1c⟩, ⟨1, 1, .w1c⟩, ⟨0, 1, .w1c⟩] }
def LANE_INT_STATUS.LANE_FAULT : Fld := ⟨LANE_INT_STATUS, 7, 1⟩
def LANE_INT_STATUS.CAL_DONE : Fld := ⟨LANE_INT_STATUS, 6, 1⟩
def LANE_INT_STATUS.NOT_CAPTURED : Fld := ⟨LANE_INT_STATUS, 5, 1⟩
def LANE_INT_STATUS.ADAPT_LIMIT : Fld := ⟨LANE_INT_STATUS, 4, 1⟩
def LANE_INT_STATUS.TAG_MISMATCH : Fld := ⟨LANE_INT_STATUS, 3, 1⟩
def LANE_INT_STATUS.SYNC_MISS : Fld := ⟨LANE_INT_STATUS, 2, 1⟩
def LANE_INT_STATUS.UNRECOVERED : Fld := ⟨LANE_INT_STATUS, 1, 1⟩
def LANE_INT_STATUS.RECOVERED : Fld := ⟨LANE_INT_STATUS, 0, 1⟩

/-- LANE_INT_EN, offset 0x0084 (03_read_channel). -/
def LANE_INT_EN : Reg :=
  { blk := .lane, ofs := 0x0084,
    fields := [⟨7, 1, .rw⟩, ⟨6, 1, .rw⟩, ⟨5, 1, .rw⟩, ⟨4, 1, .rw⟩, ⟨3, 1, .rw⟩, ⟨2, 1, .rw⟩, ⟨1, 1, .rw⟩, ⟨0, 1, .rw⟩] }
def LANE_INT_EN.LANE_FAULT : Fld := ⟨LANE_INT_EN, 7, 1⟩
def LANE_INT_EN.CAL_DONE : Fld := ⟨LANE_INT_EN, 6, 1⟩
def LANE_INT_EN.NOT_CAPTURED : Fld := ⟨LANE_INT_EN, 5, 1⟩
def LANE_INT_EN.ADAPT_LIMIT : Fld := ⟨LANE_INT_EN, 4, 1⟩
def LANE_INT_EN.TAG_MISMATCH : Fld := ⟨LANE_INT_EN, 3, 1⟩
def LANE_INT_EN.SYNC_MISS : Fld := ⟨LANE_INT_EN, 2, 1⟩
def LANE_INT_EN.UNRECOVERED : Fld := ⟨LANE_INT_EN, 1, 1⟩
def LANE_INT_EN.RECOVERED : Fld := ⟨LANE_INT_EN, 0, 1⟩

/-- LANE_SBUF_SEL, offset 0x0090 (03_read_channel). -/
def LANE_SBUF_SEL : Reg :=
  { blk := .lane, ofs := 0x0090,
    fields := [⟨31, 1, .rw⟩, ⟨16, 4, .rw⟩, ⟨2, 1, .rw⟩, ⟨0, 2, .rw⟩] }
def LANE_SBUF_SEL.HOLD : Fld := ⟨LANE_SBUF_SEL, 31, 1⟩
def LANE_SBUF_SEL.PAGE : Fld := ⟨LANE_SBUF_SEL, 16, 4⟩
def LANE_SBUF_SEL.READER : Fld := ⟨LANE_SBUF_SEL, 2, 1⟩
def LANE_SBUF_SEL.SLOT : Fld := ⟨LANE_SBUF_SEL, 0, 2⟩

/-- LANE_SBUF_META, offset 0x0094 (03_read_channel). -/
def LANE_SBUF_META : Reg :=
  { blk := .lane, ofs := 0x0094,
    fields := [⟨31, 1, .ro⟩, ⟨25, 6, .ro⟩, ⟨0, 10, .ro⟩] }
def LANE_SBUF_META.VALID : Fld := ⟨LANE_SBUF_META, 31, 1⟩
def LANE_SBUF_META.RESUMES : Fld := ⟨LANE_SBUF_META, 25, 6⟩
def LANE_SBUF_META.SECTOR : Fld := ⟨LANE_SBUF_META, 0, 10⟩

/-- LANE_SBUF_SAMPLES, offset 0x0098 (03_read_channel). -/
def LANE_SBUF_SAMPLES : Reg :=
  { blk := .lane, ofs := 0x0098,
    fields := [⟨0, 16, .ro⟩] }
def LANE_SBUF_SAMPLES.SAMPLES : Fld := ⟨LANE_SBUF_SAMPLES, 0, 16⟩

/-- LANE_SET_SEL, offset 0x00F0 (03_read_channel). -/
def LANE_SET_SEL : Reg :=
  { blk := .lane, ofs := 0x00F0,
    fields := [⟨0, 7, .rw⟩] }
def LANE_SET_SEL.SET : Fld := ⟨LANE_SET_SEL, 0, 7⟩

/-- LANE_SET_FIR_A, offset 0x0100 + 0x4 j, j < 16 (03_read_channel). -/
def LANE_SET_FIR_A : Reg :=
  { blk := .lane, ofs := 0x0100, count := 16, rst := fun j => if j % 16 = 5 then 0x200 else 0,
    fields := [⟨0, 12, .rw⟩] }
def LANE_SET_FIR_A.COEF : Fld := ⟨LANE_SET_FIR_A, 0, 12⟩

/-- LANE_SET_FIR_B, offset 0x0140 + 0x4 j, j < 16 (03_read_channel). -/
def LANE_SET_FIR_B : Reg :=
  { blk := .lane, ofs := 0x0140, count := 16, rst := fun j => if j % 16 = 5 then 0x200 else 0,
    fields := [⟨0, 12, .rw⟩] }
def LANE_SET_FIR_B.COEF : Fld := ⟨LANE_SET_FIR_B, 0, 12⟩

/-- LANE_SET_TGT, offset 0x0180 + 0x4 j, j < 4 (03_read_channel). -/
def LANE_SET_TGT : Reg :=
  { blk := .lane, ofs := 0x0180, count := 4, rst := fun j => if j % 4 = 0 then 0x180 else if j % 4 = 1 then 0x080 else 0,
    fields := [⟨0, 10, .rw⟩] }
def LANE_SET_TGT.G : Fld := ⟨LANE_SET_TGT, 0, 10⟩

/-- LANE_SET_GAIN, offset 0x0190 (03_read_channel). -/
def LANE_SET_GAIN : Reg :=
  { blk := .lane, ofs := 0x0190,
    fields := [⟨31, 1, .rw⟩, ⟨8, 8, .rw⟩, ⟨0, 8, .rw⟩] }
def LANE_SET_GAIN.VALID : Fld := ⟨LANE_SET_GAIN, 31, 1⟩
def LANE_SET_GAIN.GAIN_B : Fld := ⟨LANE_SET_GAIN, 8, 8⟩
def LANE_SET_GAIN.GAIN_A : Fld := ⟨LANE_SET_GAIN, 0, 8⟩

/-- LANE_SET_OFS, offset 0x0194 (03_read_channel). -/
def LANE_SET_OFS : Reg :=
  { blk := .lane, ofs := 0x0194,
    fields := [⟨16, 10, .rw⟩, ⟨0, 10, .rw⟩] }
def LANE_SET_OFS.OFS_B : Fld := ⟨LANE_SET_OFS, 16, 10⟩
def LANE_SET_OFS.OFS_A : Fld := ⟨LANE_SET_OFS, 0, 10⟩

/-- LANE_SET_ASYM, offset 0x0198 (03_read_channel). -/
def LANE_SET_ASYM : Reg :=
  { blk := .lane, ofs := 0x0198,
    fields := [⟨8, 8, .rw⟩, ⟨0, 8, .rw⟩] }
def LANE_SET_ASYM.ASYM_B : Fld := ⟨LANE_SET_ASYM, 8, 8⟩
def LANE_SET_ASYM.ASYM_A : Fld := ⟨LANE_SET_ASYM, 0, 8⟩

/-- LANE_PASS, offset 0x0200 + 0x4 j, j < 8 (03_read_channel). -/
def LANE_PASS : Reg :=
  { blk := .lane, ofs := 0x0200, count := 8, rst := lanePassReset,
    fields := [⟨31, 1, .rw⟩, ⟨30, 1, .rw⟩, ⟨28, 2, .rw⟩, ⟨24, 3, .rw⟩, ⟨22, 2, .rw⟩, ⟨16, 6, .rw⟩, ⟨8, 8, .rw⟩] }
def LANE_PASS.VALID : Fld := ⟨LANE_PASS, 31, 1⟩
def LANE_PASS.SPEC : Fld := ⟨LANE_PASS, 30, 1⟩
def LANE_PASS.READERS : Fld := ⟨LANE_PASS, 28, 2⟩
def LANE_PASS.SET : Fld := ⟨LANE_PASS, 24, 3⟩
def LANE_PASS.TARGET : Fld := ⟨LANE_PASS, 22, 2⟩
def LANE_PASS.ITER : Fld := ⟨LANE_PASS, 16, 6⟩
def LANE_PASS.ERASE_EXT : Fld := ⟨LANE_PASS, 8, 8⟩

/-- LANE_SBUF_WIN, offset 0x1000 + 0x4 j, j < 1024 (03_read_channel). -/
def LANE_SBUF_WIN : Reg :=
  { blk := .lane, ofs := 0x1000, count := 1024,
    fields := [⟨0, 32, .ro⟩] }
def LANE_SBUF_WIN.S : Fld := ⟨LANE_SBUF_WIN, 0, 32⟩

/-- The registers of LANE. -/
def regsLane : List Reg :=
  [LANE_CTRL, LANE_STATUS, LANE_AFE_A, LANE_AFE_B, LANE_LOOP, LANE_TIMING, LANE_PREAMBLE,
   LANE_SYNC, LANE_ITER, LANE_SPEC_TA, LANE_LADDER, LANE_REC_INFO0, LANE_REC_INFO1,
   LANE_REC_INFO2, LANE_INT_STATUS, LANE_INT_EN, LANE_SBUF_SEL, LANE_SBUF_META,
   LANE_SBUF_SAMPLES, LANE_SET_SEL, LANE_SET_FIR_A, LANE_SET_FIR_B, LANE_SET_TGT, LANE_SET_GAIN,
   LANE_SET_OFS, LANE_SET_ASYM, LANE_PASS, LANE_SBUF_WIN]

/-- The registers of a block. -/
def Blk.regs : Blk → List Reg
  | .sys => regsSys
  | .lst => regsLst
  | .hst => regsHst
  | .que => regsQue
  | .bpm => regsBpm
  | .shu => regsShu
  | .cch => regsCch
  | .mem => regsMem
  | .ict => regsIct
  | .vgl => regsVgl
  | .flt => regsFlt
  | .alm => regsAlm
  | .sec => regsSec
  | .trc => regsTrc
  | .spn => regsSpn
  | .wlt => regsWlt
  | .cbl => regsCbl
  | .scn => regsScn
  | .srv => regsSrv
  | .fmt => regsFmt
  | .lane => regsLane

end Sys2Proof.Machine
end

