-- ==== Sys2Proof/Machine/State.lean ====
section
/-! DEFINITION. The state of the GH3264 as plain data: the register file, the internal state of
every block, and the queue of waiting commands. State.reset is the device as a cold reset leaves it, in ROM_BOOT.
Where a structure's docstring names no rule, its fields' docstrings do. -/

namespace Sys2Proof.Machine

/-- Why a step can stop with a fault. No meaning of this model stops: the constructor is kept for a
command whose operands name a unit that the spec does not give (raised by nothing; safe). -/
inductive Fault where
  /-- A unit number outside the device. Raised by no meaning; safe: the machine would stop. -/
  | noSuchUnit (what : String)
  deriving DecidableEq, Repr

/-- Why a command has no meaning. -/
inductive Refusal where
  /-- The command has no meaning yet; raised only by an arm of exec; safe: the machine stops. -/
  | notModelled (mnemonic : String)
  deriving DecidableEq, Repr

/-- Identity of a register element: the register's key, the block instance, the element. -/
structure RKey where
  key : Nat
  i : Nat
  j : Nat
  deriving DecidableEq, Repr

/-- The register file: the elements that differ from their reset words, in rising order of key,
instance and element. An unlisted element reads its reset word (R31). -/
abbrev RegFile := List (RKey × Word)

/-! ### Architecture (chapter 01) -/

/-- A snapshot of an initiator in a block instance: the leading register and the captured
registers with their values (R35). -/
structure Snap where
  who : Who
  blk : Blk
  inst : Nat
  lead : Nat
  vals : List (Nat × Word)
  deriving DecidableEq, Repr

/-- Register-access state of the crossings. -/
structure BusSt where
  /-- staged _LO halves: initiator, address of the _LO register, value (R34) -/
  stage : List (Who × Nat × Word) := []
  /-- live snapshots, at most one per block instance and initiator (R35) -/
  snaps : List Snap := []
  /-- what the last register read answered (MODEL: the answer a read returns to its initiator) -/
  rdata : Word := 0
  deriving DecidableEq, Repr

/-! ### Interrupts and vigil (chapter 17) -/

/-- Interrupt controller state beside ICT_SRC_CFG: the stacks, newest entry first, of sources and
priorities (R521, R527), the ACTIVE sources whose line has been seen deasserted since their
claim (R523), and the vigil's copy of the effective targets, by source, as the last arbitration left it: it is read while the
controller does not arbitrate (R532). -/
structure IctSt where
  stack : Vector (List (Nat × Nat)) 2 := Vector.replicate 2 []
  low : List Nat := []
  kept : List Nat := []
  deriving DecidableEq, Repr

/-! ### Faults and almanac (chapter 18) -/

/-- A fault record as the collector forms it (R540). -/
structure FaultRec where
  site : Nat
  /-- 0 CE, 1 UC, 2 FA -/
  cls : Nat
  kind : Nat
  index : Nat
  addr : Nat
  detail : Nat
  injected : Bool
  escalated : Bool
  deriving DecidableEq, Repr

/-- A fence waiting or running: its unit, its report (none for a commanded one) with the CE count
of the site, the initiator of a commanded one, and FLT_DELAYED at its start (R543, R544). -/
structure FenceJob where
  kind : Nat
  index : Nat
  report : Option (FaultRec × Nat)
  who : Who
  delayed0 : Nat
  deriving DecidableEq, Repr

/-- Fault collector state beside its registers. -/
structure FltSt where
  /-- CE reports per site in the current window, sites that had one; the count restarts at an escalation (R538) -/
  win : List (Nat × Nat) := []
  running : Option FenceJob := none
  /-- fences from reports that wait, oldest first (R545) -/
  queue : List FenceJob := []
  /-- fenced requesters (R494) -/
  requesters : List Nat := []
  deriving DecidableEq, Repr

/-- An accepted almanac record (R550). -/
structure AlmRecord where
  seq : Nat
  type : Nat
  /-- ms, 48 bits -/
  time : Nat
  /-- 1: from the Timestamp feature -/
  origin : Nat
  payload : List Byte
  deriving DecidableEq, Repr

/-- A media copy of the almanac (R553). -/
structure AlmCopy where
  lastSeq : Nat := 0
  seqLimit : Nat := 0
  closed : Bool := true
  recs : List AlmRecord := []
  deriving DecidableEq, Repr

/-- An initiator's almanac view (R558). -/
structure AlmView where
  /-- SEQ being loaded -/
  loading : Option Nat := none
  shown : Option AlmRecord := none
  deriving DecidableEq, Repr

/-- Almanac state beside its registers. -/
structure AlmSt where
  /-- the next SEQ to be given (R551) -/
  next : Nat := 0
  /-- accepted records not yet appended, oldest first (R552) -/
  staging : List AlmRecord := []
  /-- records of the HBM image, oldest first (R554) -/
  image : List AlmRecord := []
  /-- what the media copies hold, and what the writes of an append that run will leave there (R553, R554) -/
  copyA : AlmCopy := {}
  copyB : AlmCopy := {}
  toA : Option AlmCopy := none
  toB : Option AlmCopy := none
  /-- times of the first and last record dropped since the last DROPPED record (R552) -/
  dropFirst : Nat := 0
  dropLast : Nat := 0
  /-- drops not yet announced by a DROPPED record (R552) -/
  drops : Nat := 0
  /-- the first record after this start is POWER_LOSS: LAST_SEQ found on media (R556) -/
  powerLoss : Option Nat := none
  /-- when the oldest record in staging was accepted (R554) -/
  since : Nat := 0
  /-- views of the control core, the management core and BAR2 (R558) -/
  views : Vector AlmView 3 := Vector.replicate 3 {}
  deriving DecidableEq, Repr

/-! ### Servo (chapters 06 and 07) -/

/-- The injection generator (R255, R256). -/
structure Icu where
  /-- GO was accepted and the start waits for the next sample, or for wedge 0 -/
  armed : Bool := false
  stop : Bool := false
  /-- phase and frequency of the swept sine, 2^-32 cycle -/
  phi : Nat := 0
  freq : Nat := 0
  lfsr : Nat := 1
  /-- frequencies, bits or entries done, and samples of the present one -/
  step : Nat := 0
  held : Nat := 0
  /-- the injected value of the last sample (R257) -/
  inj : Int := 0
  deriving DecidableEq, Repr

/-- The capture unit (R258 to R260). -/
structure Cap where
  trigged : Bool := false
  trigNow : Bool := false
  /-- records still to be written after the trigger -/
  left : Nat := 0
  /-- samples since the arm -/
  sample : Nat := 0
  /-- records kept before the trigger, shown when the capture ends (R260, R261) -/
  preKept : Nat := 0
  /-- formed records not yet taken by the shuttle stream, oldest first, at most 16 (R259) -/
  fifo : List (List Word) := []
  deriving DecidableEq, Repr

/-- A servo engine's state beside its registers. Positions are in 2^-20 track. -/
structure Srv where
  /-- records of the wedge, by head index (R198) -/
  recs : List (HeadIx × ServoRec) := []
  /-- the valid measurements of the last sample, by head index (R199) -/
  seen : List (HeadIx × ServoRec) := []
  /-- the wedge number the next sample expects (R199) -/
  wedge : Nat := 0
  sampleNo : Nat := 0
  xhat : Vector Int 32 := Vector.replicate 32 0
  /-- position errors, Q8.24 -/
  y : Vector Int 8 := Vector.replicate 8 0
  /-- heads whose y_i was held in the last sample -/
  held : Nat := 0
  miss : Vector Nat 8 := Vector.replicate 8 0
  good : Vector Nat 8 := Vector.replicate 8 0
  rpos : Int := 0
  v : Int := 0
  aref : Int := 0
  target : Nat := 0
  ontrack : Nat := 0
  settle : Nat := 0
  /-- codes and applied values of the last sample (R218) -/
  vcm : Int := 0
  fine : Vector Int 8 := Vector.replicate 8 0
  applied : Vector Int 9 := Vector.replicate 9 0
  /-- heads whose fine code saturated in the last sample (R235) -/
  fineSat : Nat := 0
  /-- fine channels that the amplifier reported faulty (R231) -/
  fineFault : Nat := 0
  /-- applied manual code (R248) -/
  man : Int := 0
  /-- blend: the old set and j (R213) -/
  blend : Option (Nat × Nat) := none
  /-- following-error counters (R238) and clean samples towards the inhibit release (R237) -/
  fe : Vector Nat 8 := Vector.replicate 8 0
  clean : Vector Nat 8 := Vector.replicate 8 0
  /-- UNLOADING is in its velocity phase (R225) -/
  ramp : Bool := false
  /-- LOADING after LOAD_TIMEOUT: the unload velocity phase runs (R224) -/
  loadFailed : Bool := false
  /-- the mode sequencer has issued a LOAD, which waits for a t0 (R224, R596) -/
  loadDue : Bool := false
  /-- the heads that gave marks in the last sample of LOADING, with their cylinders, and the head whose marks ended step 3
  (R224) -/
  loadSeen : List (HeadIx × Nat) := []
  loadHead : Option HeadIx := none
  /-- the load was ordered by the mode sequencer (R224) -/
  loadCyl : Option Nat := none
  /-- the transfer sample is due at the next t0 (R224 step 4) -/
  transfer : Option Nat := none
  /-- a scheduler request for a cylinder waits for a t0 (R220) -/
  request : Option Nat := none
  /-- first cause and causes of the retract that runs, and of those that arose since (R245) -/
  retCause : Nat := 0
  retMask : Nat := 0
  trackLost : Bool := false
  /-- link: sequence of the last command, REPEAT sent for it (R226, R229) -/
  seq : Nat := 0
  repeated : Bool := false
  /-- the sequence the last good upstream frame echoed (R228) -/
  echo : Nat := 0
  /-- the last downstream frame, bytes 1 to 27 (R226) -/
  frame : List Byte := []
  icu : Icu := {}
  cap : Cap := {}
  deriving DecidableEq, Repr

/-! ### Write path, clocking and formatter (chapters 04 and 05) -/

/-- A slot armed at a lane (R166). -/
structure Arm where
  cyl : Nat
  sect : Nat
  rg : Bool
  wg : Bool
  sync : Bool
  ecc : Bool
  cap : Bool
  srvGate : Bool
  tagMode : Nat
  dataSel : Nat
  /-- the request's metadata mark and FLUSH kind (R150, R187) -/
  metaMark : Bool
  flush : Bool
  deriving DecidableEq, Repr

/-- A preamp port frame (R144, R146): precedence class 1 to 5, the head of a heater frame. -/
structure PaFrame where
  cls : Nat
  head : Option HeadIx
  read : Bool
  addr : Nat
  data : Nat
  retried : Bool := false
  deriving DecidableEq, Repr

/-- A group's WLS state beside its registers. -/
structure Wls where
  lockCnt : Nat := 0
  missCnt : Nat := 0
  /-- squares of theta of the last 256 wedges spent in LOCK, newest first (R130) -/
  squares : List Nat := []
  zone : Nat := 0
  /-- fractions of FINE in 1/64, per head (R134; DESIGN CHOICE, log entry 130: what one wedge's 1/64 leaves below FINE's unit
  adds to the next wedge's) -/
  frac : Vector Nat 8 := Vector.replicate 8 0
  /-- the shift of the cell grid since reset, 1/256 cell, and the island cycles over which the last wedge's shift was slewed
  (R129, R131) -/
  grid : Int := 0
  slew : Nat := 0
  /-- the last wedge's theta exceeded WR_THR (R150) -/
  thetaBad : Bool := false
  /-- spindle speed judged at the last wedge, f_bit / CPR, 1/16 rpm (R137) -/
  speed : Nat := 0
  /-- heads whose write gate is up (R139) -/
  gates : Nat := 0
  /-- heater code last sent and the time its frame ended, per head (R147, R148) -/
  heater : Vector Nat 8 := Vector.replicate 8 0
  heaterAt : Vector (Option Nat) 8 := Vector.replicate 8 none
  /-- recovery heater change per head (R106) -/
  recover : Vector Int 8 := Vector.replicate 8 0
  /-- frames of the preamp port: on the wire, and waiting in arrival order (R146) -/
  wire : Option PaFrame := none
  /-- the bits that the controller drives in that frame, first bit first (R144) -/
  driven : List Bool := []
  frames : List PaFrame := []
  /-- PAg_FLT_L is low -/
  preampFault : Bool := false
  deriving DecidableEq, Repr

/-- A request for write tokens: the heads of a group, and the sector slot that they are for (R155). -/
structure TokReq where
  grp : Grp
  mask : Nat
  cyl : Nat
  sect : Nat
  deriving DecidableEq, Repr

/-- The write-token arbiter (R154 to R157). -/
structure Tokens where
  /-- heads that hold a token, per group -/
  held : Vector Nat 4 := Vector.replicate 4 0
  /-- heads that hold a second token, for a slot that does not follow the first one's directly (R171) -/
  extra : Vector Nat 4 := Vector.replicate 4 0
  /-- waiting requests, oldest first -/
  waiting : List TokReq := []
  /-- requests of the present cycle, judged in round-robin order -/
  arriving : List TokReq := []
  /-- the group granted last; before any grant G3, so that G0 comes first (DESIGN CHOICE, log entry 130: the spec names no
  first group) -/
  last : Grp := 3
  deriving DecidableEq, Repr

/-- Events from a formatter to the scheduler (R181). -/
inductive FmtEvt where
  | slotDone | reqDone | needRev | release | abortReport
  | reqFailed (cause : Nat)
  deriving DecidableEq, Repr

/-- Where the shipped sequence of a request stands (R183 to R188). -/
inductive ShipAt where
  /-- after dispatch: the slot pointer, C0 and C1 are loaded, and hook HK1 is called -/
  | start1 | start2 | start3
  /-- a pass or run begins at its first slot, arms its slots, and waits for their ends -/
  | first | arm | slot | armsDone | done
  /-- the verdicts, hook HK0, the ladders -/
  | verdict | hook0 | ladders
  /-- after a write pass: hook HK3, then its outcome -/
  | hook3 | passEnd
  /-- the customer's body has been called -/
  | custom
  /-- hook HK2, then the end event: REQ_DONE, or REQ_FAILED with a cause; ABORT_REPORT before it -/
  | abortReport
  | hook2 (cause : Option Nat)
  | end_ (cause : Option Nat)
  deriving DecidableEq, Repr

/-- A shipped sequence that runs (R183 to R188): where it stands, the write pass, the repeats of that pass, and the sectors of
the present run that still have to be armed: sector index, heads read, heads captured or written; and how many slots of the
run are armed whose end has not been reported. -/
structure Ship where
  place : ShipAt
  pass : Nat := 0
  repeats : Nat := 0
  run : List (Nat × Nat × Nat) := []
  open_ : Nat := 0
  deriving DecidableEq, Repr

/-- A formatter's state beside its registers. -/
structure Fmt where
  /-- the shipped sequence that runs (R183 to R188) -/
  ship : Option Ship := none
  /-- a write slot of the present pass was deferred, or aborted (R186) -/
  deferred : Bool := false
  aborted : Bool := false
  stack : List Nat := []
  /-- the word whose wait runs (R166) -/
  waiting : Option MicroWord := none
  /-- conditions (chapter 05, Branch conditions) -/
  spWrap : Bool := false
  verdictFail : Bool := false
  tagFail : Bool := false
  slotMissed : Bool := false
  wrFail : Bool := false
  /-- slots armed with ECC_START that have no main-pass verdict yet -/
  verdicts : Nat := 0
  /-- a failed verdict or tag check since the last VERDICT wait ended -/
  newVerdictFail : Bool := false
  newTagFail : Bool := false
  /-- the last write arm's request still waits at the arbiter -/
  tokensWait : Bool := false
  cur : Option Request := none
  next : Option Request := none
  /-- the current request has ended (R182) -/
  ended : Bool := true
  /-- a hook runs: saved C0, C1, C2, SP and the stack depth at its call (R189, R192) -/
  hook : Option (Nat × Nat × Nat × Nat × Nat) := none
  halting : Bool := false
  /-- a single step was ordered -/
  single : Bool := false
  /-- events on their way to the scheduler, oldest first -/
  evts : List FmtEvt := []
  deriving DecidableEq, Repr

/-- A word's staged lower parts, per initiator (R160). -/
structure CsStage where
  word : Nat
  parts : List (Fin 3 × Word)
  deriving DecidableEq, Repr

/-- The control store: the words written since reset, by word address in rising order; an unlisted
word of the Walrix region reads the boot ROM's image once ROM_BOOT has loaded it, any other 0. -/
structure ControlStore where
  loaded : Bool := false
  words : List (Nat × MicroWord) := []
  stages : Vector (Option CsStage) 3 := Vector.replicate 3 none
  deriving DecidableEq, Repr

/-! ### Command queueing (chapter 13) -/

/-- What a media request serves. -/
inductive Purpose where
  /-- host commands, by fetch number -/
  | host (fs : List Nat)
  /-- the sectors that a destage of welts does not cover, read a revolution ahead (R363) -/
  | fill (first count : Nat)
  /-- a destage: first welt and welts of the intent -/
  | welts (first count : Nat)
  /-- almanac sectors of an append (R553) -/
  | almanac
  /-- a journal welt of copy A or, with true, B (R373) -/
  | journal (b : Bool)
  /-- an overwrite with a pattern (R573) -/
  | pattern (w : Word)
  /-- a flush: 0 directory, 1 data, 2 trailer (R327) -/
  | flush (part : Nat)
  /-- a cobbler step of a class (R451) -/
  | cobbler (cls : Nat)
  /-- a salvage read of a function (R388) -/
  | salvage (fn : Fn)
  deriving DecidableEq, Repr

/-- A media request in a group's list (R441 to R449). -/
structure MediaReq where
  no : Nat
  req : Request
  why : Purpose
  /-- issue order of its oldest command (age) and the model time of that command -/
  age : Nat
  since : Nat
  attempts : Nat := 0
  /-- a destage that failed waits until this time, one revolution on (R448) -/
  after : Nat := 0
  /-- slots whose outcome has reached QUE: sector index and head index -/
  done : List (Nat × Nat) := []
  deriving DecidableEq, Repr

/-- A sector's outcome at its lane (R116): status 0 read, 1 recovered or reconstructed, 2 unrecovered,
3 unrecovered with a tag mismatch, 4 a missing member; the payload as encrypted, and the tag. -/
structure SectOut where
  cyl : Nat
  sect : Nat
  ix : HeadIx
  status : Nat
  payload : List Byte
  tag : BitVec 128
  /-- its own pass had failed on the tag (R345) -/
  tagFailed : Bool := false
  deriving DecidableEq, Repr

/-- A group's requests: the list in order (its first 32 are the scheduler's queue, R9), the one
issued to the servo, and those posted to the formatter, current first. -/
structure GroupQ where
  list : List MediaReq := []
  active : Option MediaReq := none
  posted : List MediaReq := []
  /-- a reread revolution runs (R446) -/
  reread : Bool := false
  /-- outcomes of the posted requests' sectors -/
  results : List SectOut := []
  /-- sectors read ahead for a destage (R363), until its write has ended -/
  fills : List SectOut := []
  /-- held sectors as a posted write found them: namespace, LBA, kind, fetch number -/
  writing : List (Nat × Nat × Nat × Word) := []
  /-- the deadline of the issued request has been set at this time (R445) -/
  issued : Nat := 0
  /-- the cobbler's step that runs: its class, and the welts of its intent, first and count (R451) -/
  step : Option (Nat × Nat × Nat) := none
  /-- when it began; the 1 s window of the shares, and the µs that classes 1 to 3 and classes 4 and 5 have used in it
  (R451) -/
  stepAt : Nat := 0
  window : Nat := 0
  usedReb : Nat := 0
  usedBg : Nat := 0
  /-- the group may be moved before REQ_DONE (R181) -/
  released : Bool := false
  deriving DecidableEq, Repr
/-! ### Memory (chapter 14) -/

/-- A keystone word: three copies with whether each passes its parity, and the reported flag
(R477, R478). -/
structure KsWord where
  a : Word := 0
  b : Word := 0
  c : Word := 0
  okA : Bool := true
  okB : Bool := true
  okC : Bool := true
  reported : Bool := false
  deriving DecidableEq, Repr

/-- A cache line that is present: its number (address / 128), its way, and the bytes written in the
cache and not yet in HBM, oldest first (R469, R470). A line with such bytes is dirty. -/
structure Line where
  line : Nat
  way : Nat
  dirty : List (Nat × Byte) := []
  deriving DecidableEq, Repr

/-- A miss register: its line, the requests merged into it, writes among them, and whether it is a
prefetch (R471, R472). -/
structure Miss where
  line : Nat
  merged : Nat := 0
  writes : List (Nat × Byte) := []
  prefetch : Bool := false
  deriving DecidableEq, Repr

/-- A merge-buffer entry: granule address / 32 and the bytes it holds (R468). -/
structure Merge where
  granule : Nat
  bytes : List (Nat × Byte)
  deriving DecidableEq, Repr

/-- A maintenance operation that runs (R476): operation, next line, lines still to come, dirty lines
written. -/
structure Maint where
  op : Nat
  first : Nat
  count : Nat
  written : Nat
  deriving DecidableEq, Repr

/-- Memory state. HBM bytes are the listed cells in rising order of address; an unlisted byte is 0
(step 5 of R596), and no listed byte is 0. -/
structure MemSt where
  hbm : List (Nat × Byte) := []
  /-- poisoned granules, address / 32 (R464) -/
  poison : List Nat := []
  lines : List Line := []
  misses : List Miss := []
  /-- least recently used first (R468) -/
  merge : List Merge := []
  maint : Option Maint := none
  ks : Vector KsWord 64 := Vector.replicate 64 {}
  /-- correctable and uncorrectable counts per pseudo-channel 32s + p in the lap (R466) -/
  ce : Vector Nat 64 := Vector.replicate 64 0
  uc : Vector Nat 64 := Vector.replicate 64 0
  /-- next granule and start time of each memory's lap (R481) -/
  next : Vector Nat 8 := Vector.replicate 8 0
  lapAt : Vector Nat 8 := Vector.replicate 8 0
  /-- memories whose present lap ran past its limit (R482) -/
  slow : Nat := 0
  /-- the tightly coupled memories and the scratch ways, by address of R23; unlisted bytes are 0 -/
  core : List (Nat × Byte) := []
  /-- the data the last read delivered, with poison (MODEL: the answer to its requester) -/
  answer : List Byte := []
  answerPoison : Bool := false
  deriving DecidableEq, Repr

/-! ### Buffer pool and shuttle (chapter 15) -/

/-- The record of an allocated buffer (R484). -/
structure BufRec where
  buf : Nat
  owner : Nat
  shares : Nat := 0
  mirror : Bool := false
  /-- the odd member of a mirrored pair -/
  odd : Bool := false
  deriving DecidableEq, Repr

/-- Buffer pool state. -/
structure BpmSt where
  /-- allocated buffers -/
  recs : List BufRec := []
  /-- buffers marked unusable (R493) -/
  unusable : List Nat := []
  /-- buffers of the controller memory buffer, at the top of the buffer space (R483) -/
  cmb : Nat := 0
  /-- the controller memory buffer since the last controller reset of the PF, whose contents are then undefined: the index of
  their free values, none before one, and the runs written since (R417) -/
  cmbLost : Option Nat := none
  cmbKnown : List (Nat × Nat) := []
  /-- the pseudo-channel used last, as buffer number mod 64 (R489) -/
  lastPc : Nat := 63
  /-- waiting port requests, oldest first: requester, count, mirrored (R487) -/
  waiting : List (Nat × Nat × Bool) := []
  /-- requester served last (R487) -/
  served : Nat := 127
  /-- last answer on a port: status and buffers (MODEL) -/
  answer : Nat × List Nat := (0, [])
  deriving DecidableEq, Repr

/-- A job that runs on a shuttle channel. -/
structure Job where
  src : Nat
  dst : Nat
  count : Nat
  span : Nat
  cfg : Word
  abort : Bool := false
  deriving DecidableEq, Repr

/-! ### Host attachment (chapter 12) -/

/-- NVMe completion statuses, by the names the spec gives them. -/
inductive Status where
  | success | invalidOpcode | invalidField | sequenceError | accessDenied | internalError
  | namespaceNotReady (dnr : Bool) | invalidNamespace | lbaOutOfRange | writeProtected
  | unrecoveredRead | writeFault | compareFailure | guardCheck | appTagCheck | refTagCheck
  | prpOffset | sglType | sglLength | dataTransferError | abortRequested | abortedSqDeletion
  | abortLimit | formatInProgress | sanitizeInProgress | insufficientCapacity
  | invalidQueueId | invalidQueueSize | completionQueueInvalid | invalidQueueDeletion
  | invalidVector | asyncLimit | alreadyAttached | notAttached | invalidController
  | namespaceIdUnavailable | firmwareSlot | firmwareImage | overlappingRange | selfTestRuns
  | invalidResource | invalidSecondaryState | invalidLogPage | notSaveable | sanitizeFailed
  deriving DecidableEq, Repr

/-- A completion entry. -/
structure Cqe where
  fn : Fn
  sqid : Nat
  cid : Nat
  status : Status
  dw0 : Nat := 0
  dw1 : Nat := 0
  deriving DecidableEq, Repr

structure Sq where
  qid : Nat
  size : Nat
  cqid : Nat
  /-- QPRIO: 0 urgent, 1 high, 2 medium, 3 low -/
  prio : Nat := 0
  /-- entries visible and not fetched, oldest first -/
  entries : List Sqe := []
  deriving DecidableEq, Repr

structure Cq where
  qid : Nat
  size : Nat
  vector : Nat
  deriving DecidableEq, Repr

/-- A role session (R562). -/
structure Session where
  role : Nat
  number : Nat
  opened : Nat
  deriving DecidableEq, Repr

/-- A completed salvage read that waits for its Receives (R388, R416). -/
structure Salvage where
  status : List Nat
  data : List (List Byte)
  deriving DecidableEq, Repr

/-- A salvage read that runs (R388): its command, session, place, requests still to end, and the sectors in:
offset, status, plaintext. -/
structure SalvageRun where
  cid : Nat
  session : Nat
  band : Nat
  first : Nat
  count : Nat
  reqs : Nat
  got : List (Nat × Nat × List Byte) := []
  deriving DecidableEq, Repr

/-- A function's NVMe controller beside HST_FN_STATUS. -/
structure FnSt where
  sqs : List Sq := []
  cqs : List Cq := []
  /-- outstanding Asynchronous Event Requests, CIDs -/
  aers : List Nat := []
  session : Option Session := none
  /-- nonce and the time it was made (R562) -/
  nonce : Option (List Byte × Nat) := none
  salvage : Option Salvage := none
  salvaging : Option SalvageRun := none
  /-- flexible queue pairs and vectors assigned, and online (R393) -/
  vq : Nat := 0
  vi : Nat := 0
  online : Bool := false
  /-- features of function scope and per controller: FID, value -/
  feats : List (Nat × Nat) := []
  /-- namespaces of the Changed Namespace List -/
  changed : List Nat := []
  /-- MSI-X enabled, masked vectors, pending bits (R390, R394) -/
  msix : Bool := false
  masked : List Nat := []
  pba : List Nat := []
  /-- I/O queue served last by the fetch arbiter (R425) -/
  lastSq : Nat := 0
  /-- CC.AMS selects weighted round robin with the urgent class (R396, R425); per class the queue served last, and the
  entries that the round still gives classes high, medium and low -/
  weighted : Bool := false
  lastOf : Vector Nat 4 := Vector.replicate 4 0
  credits : Vector Nat 4 := Vector.replicate 4 0
  deriving DecidableEq, Repr

/-- Host attachment state. -/
structure HstSt where
  fns : Vector FnSt 64 := Vector.replicate 64 {}
  /-- completion entries posted to the host, oldest first (MODEL: what host memory has received) -/
  cqes : List Cqe := []
  /-- completions that wait while posting is paused (R543) -/
  deferred : List Cqe := []
  /-- data moved to the host: function, SQID, CID, bytes, oldest first (MODEL) -/
  data : List (Fn × Nat × Nat × List Byte) := []
  /-- MSI-X messages sent, oldest first (MODEL) -/
  irqs : List (Fn × Nat) := []
  perst : Bool := false
  /-- function served last by the fetch arbiter (R425) -/
  last : Fn := 63
  /-- features of device scope: FID, value -/
  feats : List (Nat × Nat) := []
  /-- the APST table: idle state entries as (target state, ms); none before the reset table (R609) -/
  apst : List (Nat × Nat) := []
  /-- Error Recovery times per namespace -/
  tler : List (Nat × Nat) := []
  /-- entries of the Error Information log, newest first: fn, SQID, CID, status -/
  errors : List Cqe := []
  /-- firmware image portions downloaded: offset, bytes; and the slot active at the next reset -/
  download : List (Nat × List Byte) := []
  fwNext : Nat := 1
  fwActive : Nat := 1
  /-- self-test: code that runs with its requester; last result code -/
  selfTest : Option (Nat × Fn × Nat × Nat) := none
  selfResult : Nat := 0
  deriving DecidableEq, Repr

/-! ### Namespaces, bands, journal, groups (chapters 10, 11) -/

/-- A namespace. -/
structure Ns where
  nsid : Nat
  nsze : Nat
  lbaf : Nat
  extended : Bool := false
  piType : Nat := 0
  attached : List Fn := []
  /-- delete accepted (R459) -/
  deleting : Bool := false
  /-- Format NVM runs (R402) -/
  formatting : Bool := false
  /-- the map broke R352 at load -/
  inaccessible : Bool := false
  deriving DecidableEq, Repr

/-- An entry of the lost-block table (R387). -/
structure Lost where
  lba : Nat
  nsid : Nat
  cause : Nat
  count : Nat
  epoch : Nat
  deriving DecidableEq, Repr

/-- A write intent (R373): welts of a group, epoch, member mask; retired by a RETIRE record. -/
structure Intent where
  grp : Grp
  first : Nat
  count : Nat
  epoch : Nat
  members : Nat
  /-- the commit that carries it has ended -/
  recorded : Bool := false
  deriving DecidableEq, Repr

/-- Records of a log sector (R371). -/
inductive LogRec where
  | open_ (i : Intent)
  | retire (i : Intent)
  | resync (i : Intent)
  | band (n : Nat) (e : BandEntry)
  | lost (add : Bool) (l : Lost)
  | cursor (g : Grp) (op band copied : Nat)
  deriving DecidableEq, Repr

/-- A log sector (R371): the epoch of its commit, the generation after it, its records, and the oldest epoch
that still holds an open intent. -/
structure LogSector where
  epoch : Nat
  gen : Nat
  recs : List LogRec
  oldest : Nat := 0
  deriving DecidableEq, Repr

/-- A checkpoint (R369, R370). -/
structure Checkpoint where
  gen : Nat
  epoch : Nat
  dir : List (Nat × BandEntry)
  maps : List (Nat × Nat × Option Nat)
  lost : List Lost
  /-- the cobbler's cursors of the groups: operation and band (DESIGN CHOICE, log entry 147: R369 gives them no place) -/
  cursors : List (Option (Nat × Nat)) := []
  /-- ring number of the next log sector -/
  ring : Nat := 0
  /-- it stands in checkpoint region B -/
  region : Bool := false
  deriving DecidableEq, Repr

/-- A media copy of the journal, as a reader of its band finds it: readable, its newest checkpoint and the one in the
other region, and its ring's log sectors, oldest first (R369, R370, R376). -/
structure JnlCopy where
  readable : Bool := false
  cp : Checkpoint := ⟨0, 0, [], [], [], [], 0, false⟩
  old : Option Checkpoint := none
  log : List LogSector := []
  /-- ring number after the last of them -/
  next : Nat := 0
  /-- the group whose journal band holds it (R369) -/
  grp : Nat := 0
  deriving DecidableEq, Repr

/-- A flushed buffer as the directory lists it: namespace, kind, its sectors as LBA, zero mark and
plaintext, and whether every one of them carries the epoch (R327, R330). -/
structure FlushExt where
  nsid : Nat
  kind : Nat
  sectors : List (Nat × Bool × List Byte)
  whole : Bool
  deriving DecidableEq, Repr

/-- The flush image on the media: epoch and extents (R327). -/
structure FlushImage where
  epoch : Nat
  exts : List FlushExt
  deriving DecidableEq, Repr

/-- What the pack holds that the controller reads back at a start: it survives every reset. -/
structure Media where
  jnlA : JnlCopy := {}
  jnlB : JnlCopy := {}
  flush : Option FlushImage := none
  /-- format digest in each group's journal-band header (R67); none where it is not formatted -/
  digest : Vector (Option (List Word)) 4 := Vector.replicate 4 none
  /-- heads that failed since their group was formatted (R357; DESIGN CHOICE, log entry 147: the spec names no place) -/
  failed : Vector Nat 4 := Vector.replicate 4 0
  /-- the namespaces and their formats -/
  ns : List Ns := []
  deriving DecidableEq, Repr

/-- A requested band-table change that waits for its locks (R355, R434). -/
structure TableChange where
  change : BandChange
  /-- fetch numbers of the granted locks it waits for -/
  waits : List Word
  /-- LBA ranges under the barrier: namespace, first, count -/
  ranges : List (Nat × Nat × Nat)
  /-- the command that ends with the commit: function, SQID, CID, DW0 -/
  client : Option (Fn × Nat × Nat × Nat) := none
  /-- holes that take a band when it commits: namespace, entry, state (R633) -/
  fills : List (Nat × Nat × Nat) := []
  /-- the group that it lays out afresh (R633) -/
  format : Option Grp := none
  deriving DecidableEq, Repr

/-- Kinds of long operation (R451, R406). -/
inductive OpKind where
  | formatNs (nsid : Nat)
  | sanitize (passes : Nat) (pattern : Word)
  /-- with the heads it excludes -/
  | rebuild (g : Grp) (heads : Nat)
  | reshape (g : Grp) (head : HeadIx)
  | selfTest
  | resync (g : Grp)
  | relocate (g : Grp) (area : Nat)
  | formatGroup (g : Grp)
  | patrol (g : Grp)
  deriving DecidableEq, Repr

/-- A long operation: what remains of it, its size, the groups whose step of it runs, its command. -/
structure LongOp where
  kind : OpKind
  /-- areas or bands still to handle, as band numbers -/
  todo : List Nat
  total : Nat
  paused : Bool := false
  running : Nat := 0
  /-- per band in hand: welts of the new extent copied (R381), or 16 × welts formatted plus the passes of
  the track in hand -/
  progress : List (Nat × Nat) := []
  /-- of a copy: 0 the next step reads, 1 it writes, 2 the switch-over is due, 3 an area is re-created
  by FORMAT, 4 a dirty part is written -/
  phase : Nat := 0
  /-- parts copied and written since, as welts of the new extent: first, count (R382) -/
  dirty : List (Nat × Nat) := []
  /-- part in hand: first and count of the new extent's welts -/
  part : Nat × Nat := (0, 0)
  /-- CBL_RESULT is due at its end -/
  byCmd : Bool := false
  client : Option (Fn × Nat × Nat) := none
  deriving DecidableEq, Repr

/-- Bands, journal and cobbler. -/
structure BandSt where
  /-- band directory entries that are not FREE with all-zero fields, by band number (R351) -/
  dir : List (Nat × BandEntry) := []
  /-- namespace maps: namespace, entry, band or hole (R352) -/
  maps : List (Nat × Nat × Option Nat) := []
  /-- generation: the band-table root (R354) -/
  gen : Nat := 0
  change : Option TableChange := none
  /-- changes requested after it, whose barriers stand too (R355, R434) -/
  changes : List TableChange := []
  ns : List Ns := []
  lost : List Lost := []
  /-- records for the next log sector (R373) -/
  pending : List LogRec := []
  /-- time of the last commit since power-on (R372) -/
  lastCommit : Option Nat := none
  sinceCp : Nat := 0
  intents : List Intent := []
  /-- a commit on its way to the media copies: its sector, copies still to end -/
  commit : Option (LogSector × Nat) := none
  /-- welts marked for resync: group, first, count (R376, R378) -/
  marked : List (Grp × Nat × Nat) := []
  /-- the journal ring as HBM holds it, the newest sector last (R366) -/
  log : List LogSector := []
  ops : List LongOp := []
  /-- ring number of the next log sector: sectors are numbered on from lap to lap (R369) -/
  ring : Nat := 0
  /-- commands that end once the records ahead of them are committed: records still ahead, function,
  SQID, CID, DW0 -/
  clients : List (Nat × Fn × Nat × Nat × Nat) := []
  /-- accepted deletes of namespaces: NSID, function, SQID, CID (R459) -/
  deletes : List (Nat × Fn × Nat × Nat) := []
  /-- sanitize status: 0 none, 1 done, 2 running, 3 failed (log page 0x81) -/
  sanitize : Nat := 0
  /-- patrol lap progress in welts, per group -/
  patrol : Vector Nat 4 := Vector.replicate 4 0
  /-- twice the consecutive laps with recovery, plus 1 where this lap had one, per band (R389) -/
  laps : List (Nat × Nat) := []
  /-- the copy under way in each group, as its last CURSOR record names it: operation and band (R381, R384) -/
  cursor : Vector (Option (Nat × Nat)) 4 := Vector.replicate 4 none
  /-- default members, kind, spare and reserve counts, cylinders of each group in the image -/
  layout : Vector (Option ImgGroup) 4 := Vector.replicate 4 none
  deriving DecidableEq, Repr

/-! ### Commands (chapter 13) -/

/-- Stages of a fetched I/O command. -/
inductive Stage where
  /-- its locks wait (R431) -/
  | lock
  /-- its buffers wait (R436) -/
  | buffer
  /-- its data is being pulled from the host (R437) -/
  | data
  /-- its media requests run -/
  | media
  /-- its data is being moved to the host -/
  | transfer
  /-- its data is held; its completion waits for the media (R401) -/
  | settle
  /-- a Scan Read waits for a scan context -/
  | context
  deriving DecidableEq, Repr

/-- A fetched I/O command without completion. -/
structure Cmd where
  f : Word
  q : QRef
  io : IoArgs
  cmd : IoCmd
  stage : Stage
  issued : Nat
  /-- buffers held, even members -/
  bufs : List Nat := []
  /-- order in which its locks were granted (R438) -/
  turn : Nat := 0
  /-- sectors still to come from the media: kind, LBA or tag-store sector -/
  need : List (Nat × Nat) := []
  /-- sectors delivered: kind, LBA or tag-store sector, plaintext -/
  got : List (Nat × Nat × List Byte) := []
  /-- the first failure -/
  err : Option Status := none
  /-- commands a Flush waits for -/
  waits : List Word := []
  /-- sectors of the range that were poisoned in their buffers and have been read again (R465, R515) -/
  again : List Nat := []
  deriving DecidableEq, Repr

/-- A range-lock entry (R430). -/
structure Lock where
  f : Word
  nsid : Nat
  lba : Nat
  count : Nat
  excl : Bool
  granted : Bool := false
  deriving DecidableEq, Repr

/-- A held sector (R22): plaintext, kind 0 user and 1 tag store, the fetch number of its write, and
whether the completion has been posted. -/
structure Held where
  nsid : Nat
  lba : Nat
  kind : Nat
  zero : Bool
  data : List Byte
  f : Word
  buf : Nat
  /-- restored by R330: destaged, in SAFE not -/
  restored : Bool := false
  /-- fetch numbers of the earlier writes of the LBA that it replaced before their data reached the media -/
  covers : List Word := []
  /-- the guard that came with the data, for the check before encryption (R347) -/
  guard : Option Nat := none
  deriving DecidableEq, Repr

/-- A flush that runs (R326 to R329): epoch, start, per group the extents still to write, and
whether the group has ended. -/
structure FlushRun where
  epoch : Nat
  since : Nat
  exts : List (Grp × FlushExt)
  /-- groups whose directory copy is written, and groups that have ended -/
  dirs : Nat := 0
  ended : Nat := 0
  /-- welts of data written, per group -/
  welts : Vector Nat 4 := Vector.replicate 4 0
  deriving DecidableEq, Repr

/-- Queueing state. -/
structure QueSt where
  cmds : List Cmd := []
  locks : List Lock := []
  held : List Held := []
  /-- tokens for lock-grant order and media request numbers -/
  turn : Nat := 0
  reqId : Nat := 0
  /-- function whose waiting request was served last (R438) -/
  servedFn : Fn := 63
  flush : Option FlushRun := none
  deriving DecidableEq, Repr

/-! ### Spindle, modes, security, vigil, trace (chapters 08, 09, 17, 19, 20) -/

/-- The two outputs of one bridge phase over a PWM period, in island cycles from its start: when the high side and when the
low side is on, and how long into the next period both stay low (R263, R266). -/
structure Leg where
  hi : List (Nat × Nat) := []
  lo : List (Nat × Nat) := []
  hold : Nat := 0
  deriving DecidableEq, Repr

/-- Spindle state beside its registers. -/
structure Spn where
  /-- crossings of the present check or window: phase and time, oldest first (R273) -/
  cross : List (Phase × Nat) := []
  signs : List Bool := []
  polTries : Nat := 0
  keTries : Nat := 0
  /-- the rotor was caught at 600 rpm or more (R283) -/
  caught : Bool := false
  abnormal : Bool := false
  started : Bool := false
  /-- state before ZC_FALLBACK (R298) -/
  before : Nat := 5
  zcRetract : Bool := false
  /-- chopper: periods of low IBRK, periods since engagement, engagement value (R318) -/
  lowBrk : Nat := 0
  brkFor : Nat := 0
  engage : Nat := 0
  /-- overvoltage stage: 0 none, 1 chopper, 2 short, 3 external until the spindle is disabled; step 3 value; WHY; VMAX -/
  ovStage : Nat := 0
  ovAt : Nat := 0
  ovWhy : Nat := 0
  vmax : Nat := 0
  /-- periods in a row whose link sample is below 13.5 V (R319 step 5) -/
  under : Nat := 0
  /-- power loss detected and latched (R320) -/
  pf : Bool := false
  /-- the set-point in 1/32,000 rpm, for ramps (R293) -/
  fine : Nat := 0
  /-- T of the three phases, their pulses and the starts of the two apertures, empty where the period is not modulated
  (R266 to R269) -/
  tx : List Nat := []
  pulses : List (Nat × Nat) := []
  apertures : List Nat := []
  /-- the gate outputs of the phases U, V, W (R263) -/
  legs : List Leg := [{}, {}, {}]
  /-- the electrical angle in force, from the source of the state, in 1/65,536 turn (R272) -/
  angle : Nat := 0
  /-- the injection's loop: angle without the 180° of R279 and its step a period in 1/65,536 turn, periods in a row with the
  error under 5°, the last q-axis current (R278) -/
  hfiAngle : Nat := 0
  hfiVel : Int := 0
  hfiRun : Nat := 0
  iqLast : Int := 0
  /-- the observer's last angle; its last good one with the periods since (R296, R298) -/
  obsAngle : Nat := 0
  goodAngle : Nat := 0
  goodAge : Nat := 0
  /-- the voltage injected on the d axis in 1/1,024 of the link, and the sign of the next injection (R278, R279) -/
  dAxis : Int := 0
  injNeg : Bool := false
  /-- periods since the polarity test began (R279) -/
  polAt : Option Nat := none
  /-- periods in the present state, and since a phase-voltage sign was seen to change (R277, R310) -/
  inState : Nat := 0
  quiet : Nat := 0
  /-- consecutive periods: the residual above RES_THR, the speeds apart, the angles agreed (R280, R295) -/
  resRun : Nat := 0
  misRun : Nat := 0
  agreed : Nat := 0
  /-- six-step: the sector of the first step; REGEN was entered from it (R296, R321) -/
  sector : Nat := 0
  regenSix : Bool := false
  /-- the q-axis current reference, mA, and the integral of the link's loop (R282, R316, R321) -/
  iqRef : Int := 0
  linkInt : Int := 0
  /-- currents of the last period, µA (R270) -/
  currents : List Int := []
  /-- the commanded acceleration, rpm/s (R292) -/
  accel : Int := 0
  /-- what the last servo sample published: speed in 1/16 rpm, acceleration, band (R292) -/
  omega : Nat := 0
  accelPub : Int := 0
  band : Nat := 0
  /-- offset calibration of the coast check: samples and their sum (R271) -/
  ofsN : Nat := 0
  ofsSum : Nat := 0
  /-- 180° were added to the injection angle (R279) -/
  flip : Bool := false
  /-- six-step commutations made (R296, R299) -/
  comms : Nat := 0
  /-- the clock of island 13 in 1/4 µs, the last commutation, the one that a crossing has set, the last 60° interval and the
  commutations since the last crossing (R296, R299) -/
  clk : Nat := 0
  lastComm : Nat := 0
  commAt : Option Nat := none
  sixth : Nat := 0
  zcMiss : Nat := 0
  /-- periods in a row with the residual at or below half of RES_THR (R298) -/
  reacq : Nat := 0
  /-- the run-up of a START lasts; KE_RECHECK waits for 1,000 rpm; START waits for the end of REGEN (R282, R300, R325) -/
  runup : Bool := false
  recheck : Bool := false
  restart : Bool := false
  /-- the peak line-to-line voltage of a Ke window, mV (R283) -/
  kePeak : Nat := 0
  /-- revolutions in a row within REG_TOL; the present one: its turn in 1/30,720,000, its wedges, its start, and whether an error
  left the limit (R291) -/
  regRun : Nat := 0
  revAcc : Nat := 0
  revWedges : Nat := 0
  revStart : Nat := 0
  revBad : Bool := false
  /-- phase PID: the grid's last time (none: the next wedge anchors it), integral, last error, the q-axis current added and
  the part of it held at the last anchoring (R288, R289) -/
  grid : Option Rat := none
  phInt : Int := 0
  phLast : Int := 0
  iqAdd : Int := 0
  iqBase : Int := 0
  /-- the speed at the last wedge of the source, in 1/16 rpm (R323) -/
  wedgeSpeed : Nat := 0
  deriving DecidableEq, Repr

/-- Rate matching (R305, R307): the mean, bytes of the present window, ms for which b_need has
stayed below the target band. -/
structure Rmt where
  dbar : Rat := 0
  bytes : Nat := 0
  below : Nat := 0
  /-- the band of a downward move to the host's limit that waits for the held portion to fit (R308) -/
  waits : Option Nat := none
  deriving DecidableEq, Repr

/-- The mode sequencer. -/
structure SeqSt where
  /-- COAST_FLUSH or RETRACT was entered from MAKER_SERVICE (R604) -/
  fromMaker : Bool := false
  /-- COAST_FLUSH was entered on an FA (R546) -/
  afterFa : Bool := false
  /-- a held spin request: true up (R411) -/
  spinHeld : Option Bool := none
  /-- a spin-down runs: its step of R310 -/
  spinDown : Nat := 0
  /-- a warm reset is being prepared: its step of R581, 0 none -/
  prep : Nat := 0
  /-- the spindle turned when the warm reset began (R581) -/
  turning : Bool := false
  /-- starts whose spindle entered FAULT (R597) -/
  tries : Nat := 0
  /-- phase of a start in SAFE: 0 none, 1 spin-up, 2 head load, 3 served (R605) -/
  safeStart : Nat := 0
  /-- loads ordered in HEAD_LOAD and calibrations done -/
  loads : Bool := false
  cal : Bool := false
  /-- step 11 of this HEAD_LOAD has begun (R150, R596) -/
  step11 : Bool := false
  /-- lanes whose heads calibration excluded: failed members from the end of HEAD_LOAD (R51) -/
  excluded : Nat := 0
  /-- the journal has been recovered since reset -/
  recovered : Bool := false
  /-- the device has reached ACTIVE since LAST_LOAD (R598) -/
  served : Bool := false
  /-- the operational power state an idle mode returns to (R609) -/
  opPs : Nat := 0
  /-- the retract that ends COAST_FLUSH has been requested (R329) -/
  ending : Bool := false
  /-- when DEEP_IDLE was entered (R482) -/
  deepAt : Nat := 0
  /-- patrol is due (R609) -/
  patrolDue : Bool := false
  /-- ways that the limits of PS2 hold OFF (R608) -/
  psWays : Nat := 0
  /-- the end of LAST_LOAD has been reached since reset -/
  loaded : Bool := false
  deriving DecidableEq, Repr

/-- Security state (chapter 19): namespace keys as (namespace, generation, key), old key-store
contents, session numbers, lockout. Key values are free values. -/
structure SecSt where
  keys : List (Nat × Nat × Nat) := []
  number : Nat := 0
  store : KeyStore := ⟨0, true, [], []⟩
  /-- which copy of the store is the older -/
  older : Bool := false
  lockSince : Nat := 0
  deriving DecidableEq, Repr

/-- A trace record: island-20 cycle count, source, INT_STATUS after the set (R575). -/
structure TrcRec where
  cycle : Nat
  source : Nat
  status : Word
  deriving DecidableEq, Repr

/-- Trace (chapter 19): the records that the port has sent, oldest first (MODEL: what TRC_D has carried). -/
structure TrcSt where
  sent : List TrcRec := []
  deriving DecidableEq, Repr


/-! ### Read channel lanes (chapter 03) -/

/-- Loop values of a lane (R72, R75, R80, R82), of reader A and reader B where there are two. -/
structure Loops where
  /-- VGA codes, and the part of a code step that has not yet moved them -/
  gainA : Int := 0
  gainB : Int := 0
  accA : Rat := 0
  accB : Rat := 0
  /-- offsets in 1/16 LSB, asymmetries in 1/1,024 -/
  ofsA : Rat := 0
  ofsB : Rat := 0
  asymA : Rat := 0
  asymB : Rat := 0
  /-- FIR taps, and g_1 to g_4 -/
  firA : List Rat := []
  firB : List Rat := []
  tgt : List Rat := []
  /-- interpolation phase in cells, and its frequency in cells per cell -/
  phase : Rat := 0
  freq : Rat := 0
  deriving DecidableEq, Repr

/-- What a detector works on (R69, R76, R90): g_1 to g_4, and the equaliser output for each cell of the codeword, none
where the cell's likelihood is erased. -/
structure DetIn where
  tgt : List Rat
  y : List (Option Rat)
  deriving DecidableEq, Repr

/-- A sample-buffer slot (R96, R100): the sector it holds and its zone, whether its fill has been ended and when it ends by
itself, whether it holds a servo field (R163), the cell at which each resume field begins, the samples, the detector's decisions and the sync distances that
they give at positions -32 to +32, the candidates on the fly, the loop values at its first cell, its thermal-asperity
regions, the order of the captures, and its pins: its own ladder, the lanes whose ladders pin it, HOLD. -/
structure Slot where
  cyl : Nat
  sect : Nat
  zone : Nat := 0
  full : Bool := false
  till : Nat := 0
  servo : Bool := false
  resumeAt : List Nat := []
  samplesA : List Byte := []
  samplesB : List Byte := []
  decs : List Bool := []
  dists : List Nat := []
  primary : Option Int := none
  second : Option Int := none
  start : Loops := {}
  /-- the angle of a zero-phase start with no amplitude (MODEL: a free value) -/
  angle : Nat := 0
  tas : List (Nat × Nat) := []
  serial : Nat := 0
  /-- HOLD keeps it although it holds no sector -/
  empty : Bool := false
  ladder : Bool := false
  peers : List LaneId := []
  hold : Bool := false
  deriving DecidableEq, Repr

/-- A sector whose main pass has not ended, or the lane's latest sector without a main pass to come (only captured, its mark
missed, or read in capture mode; its arm then has no `ecc`): its arm, its slot, its sync
candidates (R84, R85), the excesses of the readers' baselines that no region marks yet, its erasure regions, the loop values
at its end, whether firmware wrote its zone set during it (R78), and what the main decoder's detector works on. -/
structure Sect where
  arm : Arm
  slot : Option (Fin 3)
  missed : Bool := false
  primary : Option Int := none
  second : Option Int := none
  found : List (Nat × Nat) := []
  tas : List (Nat × Nat) := []
  loops : Loops := {}
  dirty : Bool := false
  det : DetIn := ⟨[], []⟩
  deriving DecidableEq, Repr

/-- A pass of the recovery decoder: step and index of R103 (step 1: 0 widened primary, 1 second
candidate; step 3: the pass-table entry). -/
structure PassId where
  step : Nat
  ix : Nat
  deriving DecidableEq, Repr

/-- A ladder of a lane (R103 to R109). -/
structure Ladder where
  cyl : Nat
  sect : Nat
  arm : Arm
  slot : Option (Fin 3)
  missed : Bool
  primary : Option Int
  second : Option Int
  /-- its mark was missed at least once -/
  syncMiss : Bool := false
  /-- passes still to be evaluated, in ladder order -/
  todo : List PassId := []
  /-- step 4 has begun, and the members handed over: head index and the 4,112-byte field -/
  welt : Bool := false
  members : List (HeadIx × List Byte) := []
  /-- peers that are unavailable for this reconstruction (R101, R631) -/
  refused : List HeadIx := []
  /-- step 5: the ladder waits for a reread -/
  waits : Bool := false
  revs : Nat := 0
  /-- record of R116 and chapter 03's LANE_REC_INFO -/
  tagFailed : Bool := false
  lastTag : Option (List Byte × BitVec 128) := none
  uscBest : Nat := 0xFFF
  spec : Nat := 0
  /-- speculative passes that were evaluated (R115) -/
  used : Nat := 0
  tried : Nat := 0
  /-- finished speculative passes with their counts (R114) -/
  store : List (PassId × List Nat × PassIn) := []
  deriving DecidableEq, Repr

/-- What the recovery decoder runs (R113): a pass carries the iteration limit that its settings gave when it started
(R123). -/
inductive RecWork where
  | ladder (cyl sect : Nat) (p : PassId) (limit : Nat)
  | peer (from_ : LaneId) (cyl sect : Nat)
  | spec (cyl sect : Nat) (p : PassId) (limit : Nat)
  deriving DecidableEq, Repr

/-- Speculation for a sector whose main pass runs (R111, R112). -/
structure Spec where
  cyl : Nat
  sect : Nat
  todo : List PassId
  launched : Nat := 0
  store : List (PassId × List Nat × PassIn) := []
  deriving DecidableEq, Repr

/-- A reader's front end (R71 to R73): VGA gain in 1/8 dB, cutoff in 1/256 of the bit rate, boost in dB. -/
structure FrontEnd where
  vga : Nat
  cutoff : Nat
  boost : Nat
  deriving DecidableEq, Repr

/-- A lane's state beside its registers. -/
structure LaneSt where
  slots : Vector (Option Slot) 3 := Vector.replicate 3 none
  /-- slot the ring fills next (R99), and captures made so far -/
  ring : Fin 3 := 0
  serial : Nat := 0
  /-- working loop state, and the zone and cylinder of the gated sector it was taken at (R77) -/
  work : Loops := {}
  last : Option (Nat × Nat) := none
  /-- the front ends of readers A and B as the last sector began, and the ADCs' rate in 1/24 of the bit rate's ratio word
  (R71 to R73) -/
  frontA : FrontEnd := ⟨0, 0, 0⟩
  frontB : FrontEnd := ⟨0, 0, 0⟩
  adcRate : Nat := 0
  /-- sectors whose main pass runs, oldest first -/
  sects : List Sect := []
  ladders : List Ladder := []
  specs : List Spec := []
  /-- what the recovery decoder runs, and what its detector works on (R98) -/
  dec : Option RecWork := none
  det : DetIn := ⟨[], []⟩
  /-- peer decodes that wait: requesting lane, cylinder, sector (R631) -/
  asks : List (LaneId × Nat × Nat) := []
  /-- results of sectors whose main pass or ladder succeeded and that a slot still holds, newest first -/
  won : List (Nat × Nat × List Byte) := []
  /-- sectors left in a calibration run (R119) -/
  cal : Nat := 0
  /-- slots that capture mode has filled, as a mask (R118) -/
  capMask : Nat := 0
  /-- ADAPT_RESET waits for the next sector start (R122) -/
  adapt : Bool := false
  /-- coefficient sets that firmware wrote since the last gated sector began (R78, R119) -/
  dirty : List Nat := []
  /-- wedges left of the revolution in which a reread's offsets apply, 0 with no offsets (R107) -/
  offsetFor : Nat := 0
  /-- a slot in progress at the lane ends at this time (R166) -/
  busyTill : Nat := 0
  deriving DecidableEq, Repr

/-- A run of the write gate: the cell at which it rises, none where it was up, the cells written from there on, whether it
falls after them, and the edges of the data in 1/256 cell, precompensated (R138 to R143). Cells count from the sector's first
preamble cell and run on through servo and resume fields. -/
structure Burst where
  rise : Option Int
  bits : List Bool
  fall : Bool
  edges : List Int
  deriving DecidableEq, Repr

/-- A sector that the write-data outputs carried: payload as encrypted and before scrambling, and the
tag, or the parity bytes in their places, the runs of the gate in which its cells were written, and whether the gate was up
as it began (MODEL: the record of what was written). -/
structure Written where
  lane : LaneId
  cyl : Nat
  sect : Nat
  payload : List Byte
  tag : BitVec 128
  bursts : List Burst := []
  up : Bool := false
  deriving DecidableEq, Repr

/-! ### The device -/

/-- The device: everything but the queue of waiting commands. -/
structure Dev where
  regs : RegFile := []
  /-- µs since power-on: the model's clock, advanced by an idle step (MODEL) -/
  now : Nat := 0
  /-- reads of the free-value source so far (MODEL: index of the next free value) -/
  fresh : Nat := 0
  bus : BusSt := {}
  ict : IctSt := {}
  flt : FltSt := {}
  alm : AlmSt := {}
  /-- the Timestamp feature: its value in ms and when it was set (R550) -/
  timestamp : Option (Nat × Nat) := none
  srv : Vector Srv 4 := Vector.replicate 4 {}
  wls : Vector Wls 4 := Vector.replicate 4 {}
  fmt : Vector Fmt 4 := Vector.replicate 4 {}
  tok : Tokens := {}
  /-- slots armed at each lane, oldest first (R169) -/
  arms : Vector (List Arm) 32 := Vector.replicate 32 []
  lanes : Vector LaneSt 32 := Vector.replicate 32 {}
  /-- sectors written, oldest first (MODEL) -/
  out : List Written := []
  grpq : Vector GroupQ 4 := Vector.replicate 4 {}
  cs : ControlStore := {}
  /-- zone tables of the last image, per group (R53) -/
  zones : Vector (List Zone) 4 := Vector.replicate 4 []
  /-- N_w, wedges per revolution (R49); the default 768 until an image sets it -/
  nw : Nat := 768
  /-- PWRFAIL_L is low -/
  pwrfail : Bool := false
  mem : MemSt := {}
  bpm : BpmSt := {}
  /-- jobs that run on the shuttle's channels -/
  jobs : Vector (Option Job) 64 := Vector.replicate 64 none
  hst : HstSt := {}
  band : BandSt := {}
  media : Media := {}
  que : QueSt := {}
  spn : Spn := {}
  rmt : Rmt := {}
  seq : SeqSt := {}
  sec : SecSt := {}
  trc : TrcSt := {}
  flash : Flash := ⟨[], none, none, none, [], []⟩
  deriving DecidableEq, Repr

/-- An empty flash of 64 MiB. -/
def Slots.empty : Slots := ⟨0x400_0000, [], [], [], []⟩

/-- The state: the device, the commands that wait, first in, first out, and the flash regions that only a programmer
writes. -/
structure State where
  pending : List Instr
  dev : Dev
  slots : Slots := Slots.empty
  deriving DecidableEq, Repr

/-- The state right after reset: every register at its reset word, every queue empty, the cold
reset released and ROM_BOOT begun (R31, R579, SYS_MODE). -/
def State.reset : State := { pending := [], dev := {} }

end Sys2Proof.Machine
end

