-- ==== Sys2Proof/Machine/Operands.lean ====
section
/-! DEFINITION. Operand forms: bit fields of command words, two's complement and fixed-point values,
saturation and rounding (R206 to R208, R218), the link CRC (R226), little-endian bytes. -/

namespace Sys2Proof.Machine

/-- Bits lo to lo + width - 1 of a word. -/
def bits (v : Word) (lo width : Nat) : Nat := (v.extractLsb' lo width).toNat

/-- Bit i of a number used as a mask. -/
def bit (m i : Nat) : Bool := m.testBit i

/-- A mask with bit i set. -/
def setBit (m i : Nat) : Nat := m ||| 1 <<< i

/-- A mask with bit i clear. -/
def clearBit (m i : Nat) : Nat := if m.testBit i then m ^^^ 1 <<< i else m

/-- A number's low n bits read as two's complement. -/
def sext (n v : Nat) : Int :=
  let u := v % 2 ^ n
  if u.testBit (n - 1) then (u : Int) - 2 ^ n else u

/-- A number's low n bits in two's complement. -/
def twos (n : Nat) (x : Int) : Nat := (x % 2 ^ n).toNat

/-- x limited to lo .. hi. -/
def clamp (lo hi x : Int) : Int := if x < lo then lo else if hi < x then hi else x

/-- x limited to 32-bit two's complement (R208). -/
def sat32 (x : Int) : Int := clamp (-2 ^ 31) (2 ^ 31 - 1) x

/-- x limited to 64-bit two's complement (R207). -/
def sat64 (x : Int) : Int := clamp (-2 ^ 63) (2 ^ 63 - 1) x

/-- sat20 of R218. -/
def sat20 (x : Int) : Int := clamp (-(2 ^ 19 - 1)) (2 ^ 19 - 1) x

/-- Arithmetic shift right. -/
def asr (x : Int) (n : Nat) : Int := x / 2 ^ n

/-- The quotient rounded to the nearest integer, ties toward plus infinity (R253); b nonzero. -/
def roundDiv (a b : Int) : Int :=
  let a' := if b < 0 then -a else a
  let b' := if b < 0 then -b else b
  (2 * a' + b') / (2 * b')

/-- A count field in which 0 acts as 1. -/
def atLeast1 (n : Nat) : Nat := if n = 0 then 1 else n

/-- The next sequence tag: 7 bits, wrapping at 127 (R37). -/
def nextTag (n : Nat) : Nat := (n + 1) % 128

/-- A 32-bit field of an almanac payload, little-endian (R550). -/
def le32 (n : Nat) : List Byte :=
  [BitVec.ofNat 8 n, BitVec.ofNat 8 (n / 2 ^ 8), BitVec.ofNat 8 (n / 2 ^ 16),
   BitVec.ofNat 8 (n / 2 ^ 24)]

/-- n bytes of a number, little-endian. -/
def leBytes : Nat → Nat → List Byte
  | 0, _ => []
  | k + 1, n => BitVec.ofNat 8 n :: leBytes k (n / 256)

/-- A number from little-endian bytes. -/
def ofLe : List Byte → Nat
  | [] => 0
  | b :: t => b.toNat + 256 * ofLe t

/-- Record payload of 32-bit fields in the order named (R550). -/
def fields32 (l : List Nat) : List Byte := l.flatMap le32

/-- One byte of the CRC-16 of R226: polynomial 0x1021, most-significant bit first. -/
def crc16Byte (c : BitVec 16) (b : Byte) : BitVec 16 :=
  let step := fun (c : BitVec 16) => if c.getLsbD 15 then c <<< 1 ^^^ 0x1021#16 else c <<< 1
  let c := c ^^^ b.setWidth 16 <<< 8
  step (step (step (step (step (step (step (step c)))))))

/-- The CRC-16 of R226, initial value 0xFFFF, no reflection, no final XOR. -/
def crc16 (bs : List Byte) : BitVec 16 := bs.foldl crc16Byte 0xFFFF#16

/-- The largest n with n * n ≤ m, by binary digits from 2^k downwards. -/
def isqrtAux (m : Nat) : Nat → Nat → Nat
  | 0, r => r
  | k + 1, r => let r' := r + 2 ^ k; isqrtAux m k (if r' * r' ≤ m then r' else r)

/-- The integer square root of a number below 2^128. -/
def isqrt (m : Nat) : Nat := isqrtAux m 64 0

/-- The quotient of two integers, rounded as the implementation rounds where the spec gives no
rounding: exact where b divides a, else down or up (Config.roundUp). b is positive. -/
def freeDiv (a b : Int) : Int :=
  if a % b = 0 then a / b else a / b + (if Config.roundUp a b then 1 else 0)

/-- The Taylor terms of the sine in 2^-60, from the term x^(2k+1)/(2k+1)! on. -/
def sineTerms (x2 : Int) : Nat → Nat → Int → Int
  | 0, _, _ => 0
  | n + 1, k, t =>
    let t' := -(t * x2 / 2 ^ 60) / ((2 * k + 2) * (2 * k + 3) : Nat)
    t + sineTerms x2 n (k + 1) t'

/-- round(32,767 sin(2 pi phi / 2^32)) for phi below 2^32 (R256): a Taylor sum in the first
quadrant, in units of 2^-60. -/
def sine15 (phi : Nat) : Int :=
  let q : Nat := phi / 2 ^ 30 % 4
  let r : Nat := phi % 2 ^ 30
  let r' : Nat := if q % 2 = 0 then r else 2 ^ 30 - r
  -- 2 pi 2^60 / 2^32, in 2^-32 of the unit
  let x : Int := ((r' : Nat) : Int) * 7244019458077122842 / 2 ^ 32
  let s := sineTerms (x * x / 2 ^ 60) 12 0 x
  let v := (2 * 32767 * s + 2 ^ 60) / 2 ^ 61
  if q < 2 then v else -v

/-- Heads set in an 8-bit mask, in ascending order. -/
def headsOf (m : Nat) : List HeadIx := (List.finRange 8).filter fun i => bit m i

/-- The low 8 bits of m without those of k. -/
def without8 (m k : Nat) : Nat := m % 256 &&& (255 ^^^ k % 256)

/-- Bits set in the low 8 bits of a mask. -/
def popcount8 (m : Nat) : Nat := (headsOf m).length

/-- Insert into a list in the order given, before the first element that is not before it. -/
def insertBy {α : Type} (le : α → α → Bool) (a : α) : List α → List α
  | [] => [a]
  | b :: t => if le a b then a :: b :: t else b :: insertBy le a t

/-- A list in the order given; elements that are equal in it keep their places. -/
def sortBy {α : Type} (le : α → α → Bool) : List α → List α
  | [] => []
  | a :: t => insertBy le a (sortBy le t)

end Sys2Proof.Machine
end

