-- ==== Sys2Proof/Machine/Ops.lean ====
section
/-! DEFINITION. The named operations over the device that every meaning is written with: the register
file, register accesses with their tests and capture (R26 to R37, R40, R628), and the updates of one
block instance's state. -/

namespace Sys2Proof.Machine

/-! ### The register file -/

/-- Order of register elements. -/
def RKey.lt (a b : RKey) : Bool :=
  decide (a.key < b.key) || (decide (a.key = b.key) &&
    (decide (a.i < b.i) || (decide (a.i = b.i) && decide (a.j < b.j))))

/-- The listed word of an element. -/
def RegFile.find : RegFile → RKey → Option Word
  | [], _ => none
  | (k', w) :: t, k => if k' = k then some w else RegFile.find t k

/-- List a word, keeping the order. -/
def RegFile.put : RegFile → RKey → Word → RegFile
  | [], k, w => [(k, w)]
  | (k', w') :: t, k, w =>
    if k' = k then (k, w) :: t
    else if RKey.lt k k' then (k, w) :: (k', w') :: t
    else (k', w') :: RegFile.put t k w

/-- Unlist an element. -/
def RegFile.del : RegFile → RKey → RegFile
  | [], _ => []
  | (k', w') :: t, k => if k' = k then RegFile.del t k else (k', w') :: RegFile.del t k

/-- The reset word of an element (R31). -/
abbrev Reg.reset (r : Reg) (j : Nat) : Word := BitVec.ofNat 32 (r.rst j)

/-- The word of element j of a register, instance i. -/
def Dev.word (d : Dev) (r : Reg) (i : Nat := 0) (j : Nat := 0) : Word :=
  (d.regs.find ⟨r.key, i, j⟩).getD (r.reset j)

/-- Set a whole word; the reset word is not listed. -/
def Dev.setWord (d : Dev) (r : Reg) (w : Word) (i : Nat := 0) (j : Nat := 0) : Dev :=
  { d with regs :=
      if w = r.reset j then d.regs.del ⟨r.key, i, j⟩ else d.regs.put ⟨r.key, i, j⟩ w }

/-- A field of a word. -/
def Fld.of (f : Fld) (w : Word) : Nat := (w.extractLsb' f.lo f.width).toNat

/-- A word with one field replaced. -/
def Fld.put (f : Fld) (w : Word) (v : Nat) : Word :=
  (w &&& ~~~((BitVec.allOnes f.width).setWidth 32 <<< f.lo)) |||
    ((BitVec.ofNat f.width v).setWidth 32 <<< f.lo)

/-- Read a field. -/
def Dev.get (d : Dev) (f : Fld) (i : Nat := 0) (j : Nat := 0) : Nat := f.of (d.word f.reg i j)

/-- Set a field. -/
def Dev.set (d : Dev) (f : Fld) (v : Nat) (i : Nat := 0) (j : Nat := 0) : Dev :=
  d.setWord f.reg (f.put (d.word f.reg i j) v) i j

/-- A field read as a flag. -/
def Dev.on (d : Dev) (f : Fld) (i : Nat := 0) (j : Nat := 0) : Bool := d.get f i j != 0

/-- Set bits of a field. -/
def Dev.orBits (d : Dev) (f : Fld) (m : Nat) (i : Nat := 0) (j : Nat := 0) : Dev :=
  d.set f (d.get f i j ||| m) i j

/-- Clear one bit of a field. -/
def Dev.clrBit (d : Dev) (f : Fld) (b : Nat) (i : Nat := 0) (j : Nat := 0) : Dev :=
  d.set f (clearBit (d.get f i j) b) i j

/-- Add to a counter field, saturating at all ones. -/
def Dev.bump (d : Dev) (f : Fld) (i : Nat := 0) (j : Nat := 0) (n : Nat := 1) : Dev :=
  d.set f (min (d.get f i j + n) (2 ^ f.width - 1)) i j

/-- Set a field to the smaller of a value and all ones. -/
def Dev.setSat (d : Dev) (f : Fld) (v : Nat) (i : Nat := 0) (j : Nat := 0) : Dev :=
  d.set f (min v (2 ^ f.width - 1)) i j

/-- Apply an update where a condition holds. -/
def Dev.when (d : Dev) (c : Bool) (f : Dev → Dev) : Dev := if c then f d else d

/-- Change the spindle's inner state. -/
def Dev.onSpn (d : Dev) (f : Spn → Spn) : Dev := { d with spn := f d.spn }

/-- Fold an update over a list. -/
def Dev.each {α : Type} (d : Dev) (l : List α) (f : α → Dev → Dev) : Dev :=
  l.foldl (fun d a => f a d) d

/-! ### Block instances -/

/-- Update one entry of a table. -/
def upd {α : Type} {n : Nat} (v : Vector α n) (i : Fin n) (f : α → α) : Vector α n :=
  v.set i (f v[i])

def Dev.onLane (d : Dev) (n : LaneId) (f : LaneSt → LaneSt) : Dev :=
  { d with lanes := upd d.lanes n f }

def Dev.onSrv (d : Dev) (g : Grp) (f : Srv → Srv) : Dev := { d with srv := upd d.srv g f }

/-- The next free value's index, and the device with it used up (MODEL). -/
def Dev.draw (d : Dev) : Nat × Dev := (d.fresh, { d with fresh := d.fresh + 1 })

/-! ### Register accesses -/

/-- Whole-register field. -/
def Reg.all (r : Reg) : Fld := ⟨r, 0, 32⟩

/-- The initiator's code (SYS_BUS_ERR_INFO.INITIATOR). -/
def whoCode : Who → Nat
  | .control => 0 | .management => 1 | .bar2 => 2

/-- The initiator as an index of per-initiator tables. -/
def whoIx : Who → Fin 3
  | .control => 0 | .management => 1 | .bar2 => 2

/-- The cause's code (SYS_BUS_ERR_INFO.CAUSE). -/
def causeCode : BusCause → Nat
  | .unmapped => 1 | .size => 2 | .islandOff => 3 | .timeout => 4 | .locked => 5 | .role => 6
  | .range => 7

/-- What an address names in the register space (R24). -/
structure Hit where
  reg : Reg
  inst : Nat
  idx : Nat

/-- The block instance of an address. -/
def blockAt (a : Nat) : Option (Blk × Nat) :=
  (Blk.all.find? fun b => decide (b.base ≤ a) && decide (a < b.base + 0x1_0000 * b.instances)).map
    fun b => (b, (a - b.base) / 0x1_0000)

/-- The register element of an address; an unaligned address names the word it lies in. -/
def regAt (a : Nat) : Option Hit :=
  match blockAt a with
  | none => none
  | some (b, i) =>
    let o := (a - b.base) % 0x1_0000 / 4 * 4
    (b.regs.find? fun r => decide (r.ofs ≤ o) && (o - r.ofs) % r.stride == 0 &&
        decide ((o - r.ofs) / r.stride < r.count)).map
      fun r => ⟨r, i, (o - r.ofs) / r.stride⟩

/-- The control-store window (R24, R25). -/
def inControlStore (a : Nat) : Bool := decide (0x4040_0000 ≤ a) && decide (a < 0x4044_0000)

/-- The register space (R23). -/
def inRegSpace (a : Nat) : Bool := decide (0x4000_0000 ≤ a) && decide (a < 0x4200_0000)

/-- An address that R23 and R24 map: a register element, the control store, or a memory region. -/
def Dev.mapped (d : Dev) (a : Nat) : Bool :=
  (regAt a).isSome || inControlStore a || decide (a < 0x8_0000) ||
  (decide (0x10_0000 ≤ a) && decide (a < 0x18_0000)) ||
  (decide (0x100_0000 ≤ a) && decide (a < 0x300_0000) &&
    d.get CCH_WAY_STATUS.WAY / 4 ^ (15 - (a - 0x100_0000) / 0x40_0000) % 4 == 3) ||
  (decide (0x8000_0000 ≤ a) && decide (a < 0xC000_0000))

/-- The internal block and minimum rank of a BAR2 access, by internal address (R392, R560): TRC and
ALM reads and the ALM cursor writes operator, TRC writes installer, FLT reads installer and writes
maker, CBL reads operator; none where BAR2 does not reach it. R560 ranks no write of an ALM register beside
ALM_CURSOR, ALM_CUR_OFS and the maker's ERASE: the model asks rank 3 of ALM_POST_* and ALM_INT_* (log entry 145). -/
def bar2Rank (a : Nat) (write : Bool) : Option Nat :=
  match blockAt a with
  | some (.trc, _) => some (if write then 2 else 1)
  | some (.alm, _) =>
    if write then (if a / 4 * 4 = 0x400B_0020 ∨ a / 4 * 4 = 0x400B_0024 then some 1 else some 3)
    else some 1
  | some (.flt, _) => some (if write then 3 else 2)
  | some (.cbl, _) => some (if write then 4 else 1)
  | _ => none

/-- The rank of the session open on the PF, 0 where none is open (R561). -/
def Dev.pfRank (d : Dev) : Nat := if d.on SEC_SESSION.OPEN 0 0 then d.get SEC_SESSION.ROLE 0 0 else 0

/-- Island i, 1 to 22, answers register accesses: enabled, running, not stopping (R17, R18). -/
def Dev.islandUp (d : Dev) (i : Nat) : Bool :=
  bit (d.word SYS_ISLAND_EN).toNat (i - 1) && bit (d.get SYS_ISLAND_STATUS.RUN) (i - 1)

/-- Island i's clock runs (R17): it stops only as SYS_ISLAND_STATUS shows it stopped. -/
def Dev.clocked (d : Dev) (i : Nat) : Bool := bit (d.get SYS_ISLAND_STATUS.RUN) (i - 1)

/-- Lane n has a head (R4, R20). -/
def Dev.hasHead (d : Dev) (n : Nat) : Bool := bit (d.get FMT_LANES.PRESENT (n / 8)) (n % 8)

/-- Group g has heads. -/
def Dev.hasHeads (d : Dev) (g : Nat) : Bool := d.get FMT_LANES.PRESENT g != 0

/-- The island of an address is up, and a lane's registers have a head behind them (R18, R20). -/
def Dev.served (d : Dev) (a : Nat) : Bool :=
  match blockAt a with
  | some (b, i) => d.islandUp (b.island i) && (b != .lane || d.hasHead i)
  | none => !inControlStore a || d.islandUp 7

/-- The tests of R628 up to ISLAND_OFF, in their order: the first that the access fails. -/
def Dev.refusal (d : Dev) (x : Access) : Option BusCause :=
  if !d.mapped x.addr || (x.who == .bar2 && (bar2Rank x.addr x.write).isNone) then some .unmapped
  else if x.who == .bar2 && decide (d.pfRank < (bar2Rank x.addr x.write).getD 4) then some .role
  else if inRegSpace x.addr && (x.size != 4 || x.addr % 4 != 0) then some .size
  else if !d.served x.addr then some .islandOff
  else none

/-- Capture a refused access (R40). -/
def Dev.capture (d : Dev) (who : Who) (addr : Nat) (write : Bool) (c : BusCause) : Dev :=
  if d.on SYS_BUS_ERR_INFO.VALID then d.bump SYS_BUS_ERR_INFO.OVERFLOW
  else ((((((d.set SYS_BUS_ERR_ADDR.ADDR addr).set SYS_BUS_ERR_INFO.VALID 1).set
    SYS_BUS_ERR_INFO.WRITE write.toNat).set SYS_BUS_ERR_INFO.INITIATOR (whoCode who)).set
    SYS_BUS_ERR_INFO.CAUSE (causeCode c)).set SYS_BUS_ERR_INFO.OVERFLOW 0)

/-- The register-space address of an element. -/
def Reg.at (r : Reg) (i : Nat := 0) (j : Nat := 0) : Nat := r.addr i j

/-- A snapshot ends when its initiator accesses a register of the block outside its group (R35). -/
def Dev.endSnaps (d : Dev) (who : Who) (addr : Nat) : Dev :=
  match blockAt addr with
  | none => d
  | some (b, i) =>
    { d with bus := { d.bus with snaps := d.bus.snaps.filter fun s =>
        !(s.who == who && s.blk == b && s.inst == i &&
          !(s.vals.any fun p => p.1 == addr / 4 * 4)) } }

/-- A write whose block may refuse it whole: the cause, or the device after its effect (R628, test 5). -/
abbrev Write := Except BusCause Dev

/-- A write by the tests of R628: those up to ISLAND_OFF, then the block's own. -/
def Dev.judgeWrite (d : Dev) (who : Who) (addr size : Nat) (f : Dev → Write) : Write :=
  match d.refusal ⟨who, addr, true, size⟩ with
  | some c => .error c
  | none => f (d.endSnaps who addr)

/-- A write of an aligned word to a register whose block has tests of its own. A refused write changes nothing but the
capture (R28). In OFF a cold reset is held, and no initiator runs (R579). -/
def Dev.tryWriteOr (d : Dev) (who : Who) (addr : Nat) (f : Dev → Write) (size : Nat := 4) : Dev :=
  if d.get SYS_MODE.MODE = 1 then d
  else match d.judgeWrite who addr size f with
  | .error c => d.capture who addr true c
  | .ok d' => d'

/-- A write to a register whose block refuses none. -/
def Dev.tryWrite (d : Dev) (who : Who) (addr : Nat) (f : Dev → Dev) (size : Nat := 4) : Dev :=
  d.tryWriteOr who addr (fun d => .ok (f d)) size

/-- The mask of a field description. -/
def FieldDesc.mask (f : FieldDesc) : Word := (BitVec.allOnes f.width).setWidth 32 <<< f.lo

/-- The field's bits after a write, by its access type (R29, R30); `lock` tells RWL fields apart. -/
def FieldDesc.written (f : FieldDesc) (old v : Word) (lock : Bool) : Word :=
  match f.acc with
  | .ro | .wo => old &&& f.mask
  | .rw | .rws => v &&& f.mask
  | .rwl => (if lock then old else v) &&& f.mask
  | .w1c => (old &&& ~~~v) &&& f.mask
  | .w1s => (old ||| v) &&& f.mask

/-- A register's word after a write of v, with the bits of `keep` locked (R29, R30, R32). -/
def Reg.written (r : Reg) (old v : Word) (lock : Bool) (keep : Word) : Word :=
  let w := r.fields.foldl (fun w f => w ||| f.written old v lock) 0
  (w &&& ~~~keep) ||| (old &&& keep)

/-- A write would change a locked field: a field of `keep`, or an RWL field under LST_LOCK (R30). -/
def Reg.hitsLock (r : Reg) (old v : Word) (lock : Bool) (keep : Word) : Bool :=
  r.fields.any fun f =>
    (v ^^^ old) &&& f.mask &&& (if f.acc == .rwl && lock then f.mask else keep) != 0

/-- LST_LOCK is set (R595). -/
def Dev.locked (d : Dev) : Bool := d.on LST_LOCK.LOCK

/-- The effect of a write by access types, with the fields of `keep` locked: R29 and R30. -/
def Dev.plainWrite (d : Dev) (who : Who) (r : Reg) (i j : Nat) (v : Word) (keep : Word := 0)
    (js : Nat := j) : Dev :=
  let old := d.word r i js
  let d' := d.setWord r (r.written old v d.locked keep) i js
  if r.hitsLock old v d.locked keep then d'.capture who (r.at i j) true .locked else d'

/-- A part of a write that its block refuses, while the rest takes effect (R30). -/
def Dev.refuse (d : Dev) (who : Who) (r : Reg) (i j : Nat) (c : BusCause) : Dev :=
  d.capture who (r.at i j) true c

/-- The value that a register write carries where a command code stands in some of its bits. -/
def withField (v : Word) (lo width code : Nat) : Word :=
  (v &&& ~~~((BitVec.allOnes width).setWidth 32 <<< lo)) |||
    ((BitVec.ofNat width code).setWidth 32 <<< lo)

/-! ### Modes -/

/-- Device modes (R599). -/
inductive Mode where
  | off | romBoot | lastLoad | spinUp | headLoad | active | glide | lightIdle | deepIdle
  | standby | retract | coastFlush | safe | makerService
  deriving DecidableEq, Repr

/-- SYS_MODE codes (R599). -/
def Mode.code : Mode → Nat
  | .off => 1 | .romBoot => 2 | .lastLoad => 3 | .spinUp => 4 | .headLoad => 5 | .active => 6
  | .glide => 7 | .lightIdle => 8 | .deepIdle => 9 | .standby => 10 | .retract => 11
  | .coastFlush => 12 | .safe => 13 | .makerService => 14

/-- The mode of a SYS_MODE code; the codes 0 and 15 name no mode and are never written. -/
def Mode.ofCode : Nat → Mode
  | 2 => .romBoot | 3 => .lastLoad | 4 => .spinUp | 5 => .headLoad | 6 => .active | 7 => .glide
  | 8 => .lightIdle | 9 => .deepIdle | 10 => .standby | 11 => .retract | 12 => .coastFlush
  | 13 => .safe | 14 => .makerService | _ => .off

/-- The device mode. -/
def Dev.mode (d : Dev) : Mode := Mode.ofCode (d.get SYS_MODE.MODE)

/-- The device is in one of the modes listed. -/
def Dev.inMode (d : Dev) (l : List Mode) : Bool := l.contains d.mode

/-! ### Lifting to the state -/

/-- Every meaning answers a next state in which only the device has changed. -/
def State.onDev (s : State) (f : Dev → Dev) : State := { s with dev := f s.dev }

/-- The outcome of a meaning. -/
abbrev Out := Host.Outcome State Fault Refusal

/-- A meaning given as an update of the device. -/
def State.run (s : State) (f : Dev → Dev) : Out := .next (s.onDev f)

/-- A maker session is open on some function. -/
def Dev.makerOpen (d : Dev) : Bool :=
  (List.finRange 64).any fun n => match d.hst.fns[n].session with
    | some s => s.role == 3
    | none => false

/-- What an engine of island i does: nothing while its clock is stopped (R17). -/
def State.runIn (s : State) (i : Nat) (f : Dev → Dev) : Out := s.run fun d => if d.clocked i then f d else d

/-- The lanes, the formatter and the write path of a group run: the island runs, and the WLS gives it a bit clock
(R131, R629). -/
def Dev.groupRuns (d : Dev) (g : Grp) : Bool := d.clocked (14 + g) && d.get WLS_STATUS.STATE g != 0

/-- What the lanes, the formatter or the write path of a group do (R17, R131, R629). -/
def State.runGroup (s : State) (g : Grp) (f : Dev → Dev) : Out := s.run fun d => if d.groupRuns g then f d else d

end Sys2Proof.Machine
end

