-- ==== Sys2Proof/Machine/Flags.lean ====
section
/-! DEFINITION. Status flags and interrupt lines: the interrupt status bit behind every source
(R42, R517, R518), the line of a source, and the capture records' sequence tags (R37). -/

namespace Sys2Proof.Machine

/-- A hardware set of an interrupt status bit. -/
def Dev.raise (d : Dev) (f : Fld) (i : Nat := 0) (j : Nat := 0) : Dev := d.set f 1 i j

/-- Advance the sequence tag of a capture record and set VALID (R37). -/
def Dev.stamp (d : Dev) (valid seq : Fld) (i : Nat := 0) (j : Nat := 0) : Dev :=
  (d.set seq (nextTag (d.get seq i j)) i j).set valid 1 i j

/-- The status register, enable register, instance, element and bit behind a source that a pair of
interrupt registers drives. -/
def sourcePair (s : Nat) : Option (Reg × Reg × Nat × Nat) :=
  if s < 256 then some (LANE_INT_STATUS, LANE_INT_EN, s / 8, s % 8)
  else if s < 320 then some (SRV_INT_STATUS, SRV_INT_EN, (s - 256) / 16, (s - 256) % 16)
  else if s < 352 then some (SPN_INT_STATUS, SPN_INT_EN, 0, s - 320)
  else if s < 416 then
    let g := (s - 352) / 16
    let b := (s - 352) % 16
    if b < 8 then some (FMT_INT_STATUS, FMT_INT_EN, g, b)
    else some (WLS_INT_STATUS, WLS_INT_EN, g, b - 8)
  else if s < 424 then some (HST_INT_STATUS, HST_INT_EN, 0, s - 416)
  else if s < 480 then none
  else if s < 512 then some (QUE_INT_STATUS, QUE_INT_EN, 0, s - 480)
  else if s < 544 then none
  else if s < 576 then some (BPM_INT_STATUS, BPM_INT_EN, 0, s - 544)
  else if s < 704 then none
  else if s < 720 then some (MEM_INT_STATUS, MEM_INT_EN, 0, s - 704)
  else if s < 752 then some (CCH_INT_STATUS, CCH_INT_EN, 0, s - 720)
  else if s < 768 then none
  else if s < 800 then some (FLT_INT_STATUS, FLT_INT_EN, 0, s - 768)
  else if s < 848 then none
  else if s < 864 then some (CBL_INT_STATUS, CBL_INT_EN, 0, s - 848)
  else if s < 880 then some (SCN_INT_STATUS, SCN_INT_EN, 0, s - 864)
  else if s < 884 then some (ALM_INT_STATUS, ALM_INT_EN, 0, s - 880)
  else if s < 889 then some (SEC_INT_STATUS, SEC_INT_EN, 0, s - 884)
  else if s < 896 then none
  else if s < 899 then some (VGL_INT_STATUS, VGL_INT_EN, 0, s - 896)
  else if s = 899 then some (ICT_INT_STATUS, ICT_INT_EN, 0, 0)
  else if s < 904 then none
  else if s < 909 then some (SYS_INT_STATUS, SYS_INT_EN, 0, s - 904)
  else none

/-- The line of a source: the condition that its owning block states (R517, R518, R42). A source in
a stopped island cannot assert (R532). -/
def Dev.line (d : Dev) (s : Nat) : Bool :=
  if s ≥ 992 then bit (d.get ICT_SWI_HI.SET) (s - 992)
  else if s ≥ 960 then bit (d.get ICT_SWI_LO.SET) (s - 960)
  else if s = 928 then d.on SYS_BUS_ERR_INFO.VALID
  else if 576 ≤ s && s < 704 then
    let c := (s - 576) / 2
    d.islandUp 5 &&
      (if s % 2 = 0 then d.on SHU_CH_INT.DONE 0 c && d.on SHU_CH_INT.DONE_EN 0 c
       else d.on SHU_CH_INT.ERR 0 c && d.on SHU_CH_INT.ERR_EN 0 c)
  else match sourcePair s with
    | some (st, en, i, b) =>
      d.islandUp (st.blk.island i) && (d.word st i).getLsbD b && (d.word en i).getLsbD b
    | none => false

/-! ### Counters (R577) -/

/-- An event of a code counts in every counter that selects it and, where it belongs to a group, that
group. -/
def Dev.count (d : Dev) (code : Nat) (g : Option Grp := none) (n : Nat := 1) : Dev :=
  if !d.on TRC_CTRL.CNT_EN || !d.islandUp 20 then d
  else d.each (List.range 256) fun i d =>
    let takes := match g with
      | some g => bit (d.get TRC_CNT_SEL.GROUPS 0 i) g
      | none => true
    if d.get TRC_CNT_SEL.CODE 0 i == code && takes then
      let v := d.get TRC_CNT_LO.CNT 0 i + 2 ^ 32 * d.get TRC_CNT_HI.CNT 0 i + n
      (d.set TRC_CNT_LO.CNT v 0 i).set TRC_CNT_HI.CNT (v / 2 ^ 32) 0 i
    else d

/-- 1 µs passes: the model's clock, and 400 cycles of island 20, code 0x40B (R577). -/
def Dev.passTime (d : Dev) : Dev := { d with now := d.now + 1 }.count 0x40B none 400

end Sys2Proof.Machine
end

