-- ==== Sys2Proof/Machine/Records.lean ====
section
/-! DEFINITION. Making almanac records (R550 to R552, R555) and the two media copies' bookkeeping
(R553, R554): the operations that every other block records its events with. -/

namespace Sys2Proof.Machine

/-- Time of acceptance in ms and its origin (R550, R551): the Timestamp feature where the host has
set it, else time since power-on. -/
def Dev.almTime (d : Dev) : Nat × Nat :=
  match d.timestamp with
  | some (ms, at_) => ((ms + (d.now - at_) / 1000) % 2 ^ 48, 1)
  | none => (d.now / 1000 % 2 ^ 48, 0)

/-- Bytes of a record: a 16-byte header and the payload padded to 16 (R550). -/
def AlmRecord.size (r : AlmRecord) : Nat := 16 + (r.payload.length + 15) / 16 * 16

/-- The bytes of an almanac record, header first (R550). -/
def AlmRecord.bytes (r : AlmRecord) : List Byte :=
  leBytes 2 r.payload.length ++ leBytes 2 r.type ++ leBytes 4 r.seq ++ leBytes 6 r.time ++ leBytes 1 r.origin ++
    leBytes 1 0 ++ r.payload ++ List.replicate ((16 - r.payload.length % 16) % 16) 0

/-- Bytes in use in staging. -/
def AlmSt.used (a : AlmSt) : Nat := (a.staging.map AlmRecord.size).sum

def Dev.onAlm (d : Dev) (f : AlmSt → AlmSt) : Dev := { d with alm := f d.alm }

/-- Show staging's use in KiB, rounded up. -/
def Dev.almStaged (d : Dev) : Dev := d.set ALM_STATUS.STAGED ((d.alm.used + 1023) / 1024)

/-- Count a record that is not accepted (R552). -/
def Dev.almDrop (d : Dev) : Dev :=
  let t := d.almTime.1
  ((d.onAlm fun a =>
      { a with drops := a.drops + 1, dropFirst := if a.drops = 0 then t else a.dropFirst,
               dropLast := t }).bump ALM_DROPPED.COUNT).raise ALM_INT_STATUS.DROPPED

/-- Give a record the next SEQ and put it into staging (R551). -/
def Dev.almPush (d : Dev) (type : Nat) (payload : List Byte) : Dev :=
  let t := d.almTime
  let s := d.alm.next
  let d := d.onAlm fun a =>
    { a with next := s + 1, since := if a.staging.isEmpty then d.now else a.since,
             staging := a.staging ++ [⟨s, type, t.1, t.2, payload⟩] }
  let d := d.when (d.alm.staging.length = 1 && d.alm.image.isEmpty) (·.set ALM_SEQ_FIRST.SEQ s)
  (d.set ALM_SEQ_LAST.SEQ s).almStaged

/-- The record fits into staging's 512 KiB (R552). -/
def Dev.almFits (d : Dev) (n : Nat) : Bool :=
  decide (d.alm.used + 16 + (n + 15) / 16 * 16 ≤ 0x8_0000)

/-- Types that the reserve takes: FA and POWER_LOSS records (R555). -/
def almReserveType (type : Nat) : Bool := type == 0x0102 || type == 0x0004

/-- The 16 bytes of a DROPPED record: count, first time, last time (R550). -/
def Dev.droppedPayload (d : Dev) : List Byte :=
  leBytes 4 (d.get ALM_DROPPED.COUNT) ++ leBytes 6 d.alm.dropFirst ++ leBytes 6 d.alm.dropLast

/-- The DROPPED record that precedes the first record accepted after drops (R552); none once FULL
is set (R555). -/
def Dev.almAnnounce (d : Dev) : Dev :=
  if d.alm.drops = 0 || d.on ALM_STATUS.FULL then d
  else ((d.almPush 0x0001 d.droppedPayload).onAlm fun a => { a with drops := 0 }).set
    ALM_DROPPED.COUNT 0

/-- The POWER_LOSS record that is the first accepted after a start whose almanac was not closed:
LAST_SEQ found on media, first SEQ given after the start (R556). -/
def Dev.almPowerLoss (d : Dev) : Dev :=
  match d.alm.powerLoss with
  | none => d
  | some last =>
    (d.onAlm fun a => { a with powerLoss := none }).almPush 0x0004 (fields32 [last, d.alm.next])

/-- Offer a record to the almanac (R551, R552, R555). -/
def Dev.record (d : Dev) (type : Nat) (payload : List Byte) : Dev :=
  let p := payload.take 4080
  if !d.on ALM_CTRL.EN then d.almDrop
  else if d.on ALM_STATUS.RESERVE_FULL then d.almDrop
  else if d.on ALM_STATUS.FULL && !almReserveType type then d.almDrop
  else
    let extra := (if d.alm.drops = 0 then 0 else 32) + (if d.alm.powerLoss.isSome then 32 else 0)
    if !d.almFits (p.length + extra) then d.almDrop
    else (d.almPowerLoss.almAnnounce).almPush type p

/-- A register write with the tests of R628; a BAR2 write that is taken makes its record: function,
role, session number, internal address, result (R568). -/
def Dev.busWriteOr (d : Dev) (who : Who) (addr : Nat) (f : Dev → Write) (size : Nat := 4) : Dev :=
  d.tryWriteOr who addr (size := size) fun d => (f d).map fun d' =>
    if who == .bar2 then
      d'.record 0x0604 (fields32 [0, d.pfRank, ((d.hst.fns[0].session).map Session.number).getD 0, addr, 0])
    else d'

/-- Such a write to a register whose block refuses none. -/
def Dev.busWrite (d : Dev) (who : Who) (addr : Nat) (f : Dev → Dev) (size : Nat := 4) : Dev :=
  d.busWriteOr who addr (fun d => .ok (f d)) size

/-- Bytes of the record space, 64 MiB, of which the last 1 MiB is the reserve (R553, R555). -/
def almSpace : Nat := 0x400_0000

def almReserve : Nat := 0x10_0000

/-- Bytes of a list of records. -/
def almBytes (l : List AlmRecord) : Nat := (l.map AlmRecord.size).sum

/-- What an append writes: the records taken, those discarded, whether FULL is to be written, and
whether the reserve is exhausted (R555). `used` is the record space in use. -/
def almSplit (used : Nat) (full : Bool) : List AlmRecord → List AlmRecord × Nat × Bool × Bool
  | [] => ([], 0, full, false)
  | r :: t =>
    if full then
      if almReserveType r.type && decide (used + r.size ≤ almSpace) then
        let (k, n, f, e) := almSplit (used + r.size) true t
        (r :: k, n, f, e)
      else
        let (k, n, f, e) := almSplit used true t
        (k, n + 1, f, e || almReserveType r.type)
    else if !almReserveType r.type && decide (used + r.size > almSpace - almReserve) then
      let (k, n, f, e) := almSplit (used + 16) true t
      (k, n + 1, f, e)
    else if used + r.size > almSpace then
      let (k, n, f, _) := almSplit used full t
      (k, n + 1, f, true)
    else
      let (k, n, f, e) := almSplit (used + r.size) full t
      (r :: k, n, f, e)

/-- Write the image's records to a copy, with the SEQ_LIMIT of R553 and the CLOSED flag of R556. -/
def AlmSt.copyOf (a : AlmSt) (closed : Bool) : AlmCopy :=
  { lastSeq := (a.image.getLast?.map AlmRecord.seq).getD 0, seqLimit := a.next + 65536,
    closed := closed, recs := a.image }

/-- An append takes staging into the HBM image (R554, R555). -/
def Dev.almTake (d : Dev) : Dev :=
  let full0 := d.on ALM_STATUS.FULL
  let (keep, lost, full, exhausted) := almSplit (almBytes d.alm.image) full0 d.alm.staging
  let t := d.almTime
  -- FULL stands in the place of the first discarded record, before the reserve records
  let early := keep.filter fun r => !almReserveType r.type
  let late := keep.filter fun r => almReserveType r.type
  let newFull := full && !full0
  let written := if newFull then early ++ ⟨d.alm.next, 0x0002, t.1, t.2, []⟩ :: late else keep
  let entered := almBytes d.alm.image ≤ almSpace - almReserve ∧
    almSpace - almReserve < almBytes (d.alm.image ++ written)
  let d := d.onAlm fun a =>
    { a with image := a.image ++ written, staging := [],
             next := if newFull then a.next + 1 else a.next }
  let d := d.bump ALM_DROPPED.COUNT 0 0 lost
  let d := d.when (lost != 0) (·.raise ALM_INT_STATUS.DROPPED)
  let d := d.when newFull fun d => (d.set ALM_STATUS.FULL 1).raise ALM_INT_STATUS.FULL
  let d := d.when (newFull || decide entered) (·.raise ALM_INT_STATUS.RESERVE)
  let d := d.when exhausted (·.set ALM_STATUS.RESERVE_FULL 1)
  d.almStaged

/-- Append staging to the media copies (R553 to R556): copy A, copy B where their groups can write.
With neither writable the append waits. `closed` is the CLOSED flag written. The appends of a spin-down, of a preparation and of an
FA stand on the media at the end of their step (log entry 137). -/
def Dev.almAppend (d : Dev) (closed : Bool) : Dev :=
  let okA := d.on ALM_STATUS.COPY_A_OK
  let okB := d.on ALM_STATUS.COPY_B_OK
  if !okA && !okB then d
  else d.almTake.onAlm fun a =>
    { a with copyA := if okA then a.copyOf closed else a.copyA, toA := none,
             copyB := if okB then a.copyOf closed else a.copyB, toB := none }

end Sys2Proof.Machine
end

