-- ==== Sys2Proof/Machine/IctOps.lean ====
section
/-! DEFINITION. The interrupt controller's operations (chapter 17): states of sources, effective targets,
the choice of R521, the stacks, and the status behind a source (R575). -/

namespace Sys2Proof.Machine

def Dev.onIct (d : Dev) (f : IctSt → IctSt) : Dev := { d with ict := f d.ict }

/-! ### Sources -/

abbrev icIdle : Nat := 0
abbrev icPending : Nat := 1
abbrev icActive : Nat := 2
abbrev icActivePending : Nat := 3

def Dev.srcState (d : Dev) (s : Nat) : Nat := d.get ICT_SRC_CFG.STATE 0 s
def Dev.srcPrio (d : Dev) (s : Nat) : Nat := d.get ICT_SRC_CFG.PRIO 0 s
def Dev.setSrc (d : Dev) (s st : Nat) : Dev := d.set ICT_SRC_CFG.STATE st 0 s

/-- Core k takes interrupts: not fenced, enabled (R520). -/
def Dev.coreTakes (d : Dev) (k : Nat) : Bool :=
  !bit (d.get FLT_FENCED_MISC.CORE) k && d.on ICT_CPU_CTRL.EN 0 k

/-- The core that ICT_SRC_CFG.CORE shows, and the effective target, none for a source that stays pending
(R520). -/
def Dev.coreOf (d : Dev) (s : Nat) : Nat :=
  let t := d.get ICT_SRC_CFG.TARGET 0 s
  if !d.coreTakes t && d.on ICT_SRC_CFG.FALLBACK 0 s then 1 - t else t

def Dev.effTarget (d : Dev) (s : Nat) : Option Nat :=
  if d.coreTakes (d.coreOf s) then some (d.coreOf s) else none

/-- The controller arbitrates: enabled, and its island runs (R17, R533). -/
def Dev.arbitrates (d : Dev) : Bool := d.on ICT_CTRL.EN && d.islandUp 7

/-- Before the arbitration stops, the vigil's copy of the effective targets is left as it is (R532). -/
def Dev.keepTargets (d : Dev) : Dev :=
  if d.arbitrates then d.onIct fun t => { t with kept := (List.range 1024).map d.coreOf } else d

/-- The target that the vigil knows for a source (R532). -/
def Dev.vigilTarget (d : Dev) (s : Nat) : Nat := if d.arbitrates then d.coreOf s else d.ict.kept.getD s 0

/-- The stack of core k, as an index of the two. -/
def coreIx (k : Nat) : Fin 2 := if k = 0 then 0 else 1

def Dev.stackOf (d : Dev) (k : Nat) : List (Nat × Nat) := d.ict.stack[coreIx k]

/-- The running priority of core k (R521). -/
def Dev.running (d : Dev) (k : Nat) : Nat := ((d.stackOf k).head?.map Prod.snd).getD 0

/-- The pending source that R521 chooses for core k: highest priority, then lowest number. -/
def Dev.choice (d : Dev) (k : Nat) : Option Nat :=
  (List.range 1024).foldl (fun b s =>
    if d.srcState s == icPending && d.srcPrio s != 0 && d.effTarget s == some k then
      match b with
      | some x => if d.srcPrio x < d.srcPrio s then some s else some x
      | none => some s
    else b) none

/-- The choice that may be delivered and claimed: above the running priority and PMR (R521, R524). -/
def Dev.deliverable (d : Dev) (k : Nat) : Option Nat :=
  match d.choice k with
  | some s =>
    if d.on ICT_CTRL.EN && decide (max (d.running k) (d.get ICT_CPU_CTRL.PMR 0 k) < d.srcPrio s) then some s
    else none
  | none => none

/-- Core k's interrupt line (R521, R529): a sleeping core receives none. -/
def Dev.coreLine (d : Dev) (k : Nat) : Bool := (d.deliverable k).isSome && !bit (d.get VGL_SLEEP.CORE) k

/-! ### States (R523) -/

/-- The ICT judges a source's line: an IDLE source pends, and an ACTIVE one whose line has been seen
deasserted since its claim. -/
def Dev.judge (d : Dev) (s : Nat) : Dev :=
  if !d.line s then
    if d.srcState s == icActive && !d.ict.low.contains s then d.onIct fun t => { t with low := s :: t.low }
    else d
  else if d.srcState s == icIdle && d.srcPrio s != 0 then d.setSrc s icPending
  else if d.srcState s == icActive && d.ict.low.contains s then
    (d.setSrc s icActivePending).onIct fun t => { t with low := t.low.filter (· != s) }
  else d

/-- The ICT judges the lines of the ACTIVE sources: after a write that may have cleared one. -/
def Dev.judgeActive (d : Dev) : Dev :=
  d.each ((d.ict.stack[0] ++ d.ict.stack[1]).map Prod.fst) fun s d => d.judge s

/-- Every line is judged again: the first cycle of island 7 after a restart (R533). -/
def Dev.judgeAll (d : Dev) : Dev := d.each (List.range 1024) fun s d => d.judge s

/-- The enable registers, with the first source of instance 0, the sources from one instance to the next, and the sources of
an instance (R517). -/
def enableRegs : List (Reg × Nat × Nat × Nat) :=
  [(LANE_INT_EN, 0, 8, 8), (SRV_INT_EN, 256, 16, 16), (SPN_INT_EN, 320, 0, 32), (FMT_INT_EN, 352, 16, 8),
   (WLS_INT_EN, 360, 16, 8), (HST_INT_EN, 416, 0, 8), (QUE_INT_EN, 480, 0, 32), (BPM_INT_EN, 544, 0, 32),
   (SHU_CH_INT, 576, 2, 2), (MEM_INT_EN, 704, 0, 16), (CCH_INT_EN, 720, 0, 32), (FLT_INT_EN, 768, 0, 32),
   (CBL_INT_EN, 848, 0, 16), (SCN_INT_EN, 864, 0, 16), (ALM_INT_EN, 880, 0, 4), (SEC_INT_EN, 884, 0, 5),
   (VGL_INT_EN, 896, 0, 3), (ICT_INT_EN, 899, 0, 1), (SYS_INT_EN, 904, 0, 5)]

/-- The sources whose lines an enable register gates, for an instance. -/
def enabledSources (r : Reg) (i : Nat) : List Nat :=
  match enableRegs.find? fun p => p.1.key == r.key with
  | some p => (List.range p.2.2.2).map (p.2.1 + p.2.2.1 * i + ·)
  | none => []

/-- A write of an enable register lets the ICT see the lines that it gates (R517, R523). -/
def Dev.judgeEnabled (d : Dev) (r : Reg) (i : Nat) : Dev :=
  if d.islandUp 7 then d.each (enabledSources r i) fun s d => d.judge s else d

/-- A source ends (R523): at its end-of-interrupt, or with its core's stack (R528). -/
def Dev.endSource (d : Dev) (s : Nat) : Dev :=
  let st := d.srcState s
  let again := st == icActivePending || (d.line s && d.srcPrio s != 0)
  (d.setSrc s (if again then icPending else icIdle)).onIct fun t => { t with low := t.low.filter (· != s) }

/-- Core k's stack is emptied (R528). -/
def Dev.dropStack (d : Dev) (k : Nat) : Dev :=
  let l := d.stackOf k
  (d.onIct fun t => { t with stack := t.stack.set (coreIx k) [] }).each l fun p d => d.endSource p.1

/-- Write ICT_ERR_INFO: 0 EOI_MISMATCH, 1 EOI_EMPTY, 2 OVERFLOW. -/
def Dev.ictError (d : Dev) (cause k s : Nat) : Dev :=
  (((d.set ICT_ERR_INFO.CAUSE cause).set ICT_ERR_INFO.CORE k).set ICT_ERR_INFO.SOURCE s).stamp
    ICT_ERR_INFO.VALID ICT_ERR_INFO.SEQ

/-! ### Trace (R575 to R577) -/

/-- The row of the table of R517 that holds a source. -/
def sourceRow (s : Nat) : Nat :=
  ([256, 320, 352, 416, 480, 544, 576, 704, 768, 832, 864, 880, 896, 960].filter fun b => decide (b ≤ s)).length

/-- The group of a source that belongs to one. -/
def sourceGrp (s : Nat) : Option Grp :=
  let g := if s < 256 then some (s / 64) else if s < 320 then some ((s - 256) / 16)
    else if 352 ≤ s ∧ s < 416 then some ((s - 352) / 16) else none
  g.map fun x => ⟨x % 4, by omega⟩

/-- The status bit behind a source is set. -/
def Dev.statusSet (d : Dev) (s : Nat) : Bool :=
  if s = 928 then d.on SYS_BUS_ERR_INFO.VALID
  else if 960 ≤ s then d.line s
  else if 576 ≤ s ∧ s < 704 then
    let c := (s - 576) / 2
    if s % 2 = 0 then d.on SHU_CH_INT.DONE 0 c else d.on SHU_CH_INT.ERR 0 c
  else match sourcePair s with
    | some (st, _, i, b) => (d.word st i).getLsbD b
    | none => false

/-- The owning block's INT_STATUS word (R575); the word that holds the status bit where the block has no
such register. -/
def Dev.statusWord (d : Dev) (s : Nat) : Word :=
  if s = 928 then d.word SYS_BUS_ERR_INFO
  else if 576 ≤ s ∧ s < 704 then d.word SHU_CH_INT 0 ((s - 576) / 2)
  else match sourcePair s with
    | some (st, _, i, _) => d.word st i
    | none => 0

end Sys2Proof.Machine
end

