-- ==== Sys2Proof/Machine/WriteOps.lean ====
section
/-! DEFINITION. Operations of the write path that several families share: zones, write tokens
(R154 to R158), preamp port frames and heaters (R144 to R149), and the write-inhibit inputs
(R150). -/

namespace Sys2Proof.Machine

def Dev.onWls (d : Dev) (g : Grp) (f : Wls → Wls) : Dev := { d with wls := upd d.wls g f }
def Dev.onFmt (d : Dev) (g : Grp) (f : Fmt → Fmt) : Dev := { d with fmt := upd d.fmt g f }
def Dev.onTok (d : Dev) (f : Tokens → Tokens) : Dev := { d with tok := f d.tok }

/-! ### Zones (R53) -/

/-- The index of the zone that holds a cylinder: the last whose FIRST_CYL is not above it. -/
def Dev.zoneIx (d : Dev) (g : Grp) (cyl : Nat) : Nat :=
  ((d.zones[g].filter fun z => decide (z.firstCyl ≤ cyl)).length) - 1

/-- A zone record; an all-zero record where the group has none. -/
def Dev.zone (d : Dev) (g : Grp) (z : Nat) : Zone := (d.zones[g])[z]?.getD ⟨0, 0, 0, 0, 0, 0, 0⟩

/-- Sectors per track at a cylinder. -/
def Dev.sptAt (d : Dev) (g : Grp) (cyl : Nat) : Nat := (d.zone g (d.zoneIx g cyl)).spt

/-- Cells per wedge interval of a zone, CPR / N_w (R54). -/
def Dev.cpw (d : Dev) (g : Grp) (z : Nat) : Nat := (d.zone g z).cpr / d.nw

/-! ### Write tokens -/

/-- Tokens granted to a group, and in the device. -/
def Tokens.ofGroup (t : Tokens) (g : Grp) : Nat := popcount8 t.held[g] + popcount8 t.extra[g]

def Tokens.count (t : Tokens) : Nat := ((List.finRange 4).map t.ofGroup).sum

/-- The operational power state: the present one, or the one an idle mode returns to. -/
def Dev.opPs (d : Dev) : Nat := if d.get SYS_MODE.PS ≤ 2 then d.get SYS_MODE.PS else d.seq.opPs

/-- The power state whose limits hold, but for the ceiling band: PS2 while the junction is hot (R608, R625). -/
def Dev.limitPs (d : Dev) : Nat := if d.on SYS_TEMP.THROTTLE then max 2 d.opPs else d.opPs

/-- The device write limit in force: WL_DEV, lowered by the power state (R154, R608). -/
def Dev.wlDev (d : Dev) : Nat :=
  let w := d.get WTA_CFG.WL_DEV
  match d.limitPs with
  | 0 => w
  | 1 => min w 12
  | _ => min w 8

def Dev.showTokens (d : Dev) : Dev := d.set WTA_CFG.IN_USE d.tok.count

/-- One token of each of a group's heads comes back (R157): of two, the one for the slot that has ended. -/
def Dev.returnTokens (d : Dev) (g : Grp) (mask : Nat) : Dev :=
  (d.onTok fun t => { t with
    held := upd t.held g fun m => without8 m (without8 mask t.extra[g])
    extra := upd t.extra g fun m => without8 m mask }).showTokens

/-- Every token of the heads of a mask comes back (R157). -/
def Dev.clearTokens (d : Dev) (g : Grp) (mask : Nat) : Dev :=
  (d.onTok fun t => { t with
    held := upd t.held g fun m => without8 m mask
    extra := upd t.extra g fun m => without8 m mask }).showTokens

/-- Every token of a group comes back (R157, R176). -/
def Dev.dropTokens (d : Dev) (g : Grp) : Dev :=
  (d.onTok fun t => { t with held := t.held.set g 0, extra := t.extra.set g 0 }).showTokens

/-- A request can be granted: the limits of R154 hold with it. -/
def Dev.tokensFit (d : Dev) (r : TokReq) : Bool :=
  let new := popcount8 r.mask
  decide (d.tok.count + new ≤ d.wlDev) && decide (d.tok.ofGroup r.grp + new ≤ d.get WLS_WRITE_CFG.WL_GRP r.grp)

/-- A group's latest request still waits: the TOKENS wait (chapter 05). -/
def Dev.showWait (d : Dev) (g : Grp) : Dev :=
  d.onFmt g fun f => { f with tokensWait := (d.tok.waiting ++ d.tok.arriving).any fun r => r.grp == g }

/-- Grant a request: a head that holds a token already takes a second one. -/
def Dev.grantTokens (d : Dev) (r : TokReq) : Dev :=
  ((d.onTok fun t => { t with
    extra := upd t.extra r.grp fun m => m ||| (r.mask &&& t.held[r.grp])
    held := upd t.held r.grp fun m => m ||| r.mask
    last := r.grp }).showTokens).showWait r.grp

/-- Serve the waiting requests, oldest first, until one cannot be granted (R156). -/
def Dev.serveTokens (d : Dev) : Nat → Dev
  | 0 => d
  | n + 1 =>
    match d.tok.waiting with
    | [] => d
    | r :: t =>
      if d.tokensFit r then ((d.onTok fun k => { k with waiting := t }).grantTokens r).serveTokens n else d

/-- Requests of one cycle in round-robin group order after the group granted last (R156). -/
def robinOrder (last : Grp) (l : List TokReq) : List TokReq :=
  [1, 2, 3, 4].flatMap fun k => l.filter fun r => r.grp.val == (last.val + k) % 4

/-- One cycle of the arbiter: the waiting requests, then those that arrived (R156). -/
def Dev.tokenCycle (d : Dev) : Dev :=
  let d := d.serveTokens d.tok.waiting.length
  let d := d.onTok fun t =>
    { t with waiting := t.waiting ++ robinOrder t.last t.arriving, arriving := [] }
  d.serveTokens d.tok.waiting.length

/-- Withdraw a group's waiting requests (R155). -/
def Dev.withdrawTokens (d : Dev) (g : Grp) : Dev :=
  (d.onTok fun t => { t with waiting := t.waiting.filter fun r => r.grp != g,
                             arriving := t.arriving.filter fun r => r.grp != g }).showWait g

/-- Withdraw one request (R155). -/
def Dev.withdrawToken (d : Dev) (r : TokReq) : Dev :=
  (d.onTok fun t => { t with waiting := t.waiting.erase r, arriving := t.arriving.erase r }).showWait r.grp

/-! ### Preamp port and heaters -/

/-- Odd parity: the bit that makes the number of ones odd. -/
def oddParity (l : List Bool) : Bool := (l.filter id).length % 2 == 0

/-- Bits of a number, most-significant first. -/
def bitsMsb (n v : Nat) : List Bool := (List.range n).map fun k => v.testBit (n - 1 - k)

/-- The bits that the controller drives in a frame (R144): the read bit and the address, and in a write frame the data and
odd parity over the 24 bits before it. -/
def PaFrame.driven (f : PaFrame) : List Bool :=
  let l := f.read :: bitsMsb 7 f.addr
  if f.read then l else let l := l ++ bitsMsb 16 f.data; l ++ [oddParity l]

/-- Take the next frame onto the wire: lowest class first, arrival order within a class; a heater
frame other than a safety frame waits while its head's gate is up (R146, R149). -/
def Dev.nextFrame (d : Dev) (g : Grp) : Dev :=
  let w := d.wls[g]
  if w.wire.isSome then d
  else
    let ready := w.frames.filter fun f =>
      f.cls == 1 || (match f.head with | some i => !bit w.gates i | none => true)
    let best := [1, 2, 3, 4, 5].findSome? fun c => ready.find? fun f => f.cls == c
    match best with
    | none => d
    | some f => d.onWls g fun w => { w with wire := some f, frames := w.frames.erase f, driven := f.driven }

/-- Write gates fall; frames that waited for them may go (R149). -/
def Dev.gatesFall (d : Dev) (g : Grp) (mask : Nat) : Dev :=
  (d.onWls g fun w => { w with gates := without8 w.gates mask }).nextFrame g

/-- Hand a frame to the port. -/
def Dev.sendFrame (d : Dev) (g : Grp) (f : PaFrame) : Dev :=
  (d.onWls g fun w => { w with frames := w.frames ++ [f] }).nextFrame g

/-- The heater code of a head: HTR_WR while a write is armed on it, else HTR_RD plus any recovery
change, before the limit (R147). -/
def Dev.heaterWanted (d : Dev) (g : Grp) (i : HeadIx) (wr : Bool) : Nat :=
  let e := 64 * i.val + d.wls[g].zone
  if wr then d.get WLS_HEATER.HTR_WR g e
  else ((d.get WLS_HEATER.HTR_RD g e : Int) + d.wls[g].recover[i]).toNat

/-- The code last ordered for a head: its newest frame's, else the code sent last. -/
def Dev.heaterOrdered (d : Dev) (g : Grp) (i : HeadIx) : Nat :=
  let w := d.wls[g]
  match (w.wire.toList ++ w.frames).reverse.find? fun f => f.head == some i with
  | some f => f.data
  | none => w.heater[i]

/-- Orders for a head's heater that wait are superseded, but for safety frames. -/
def Dev.dropHeater (d : Dev) (g : Grp) (i : HeadIx) : Dev :=
  d.onWls g fun w => { w with frames := w.frames.filter fun f =>
    !(f.head == some i && decide (2 ≤ f.cls) && decide (f.cls ≤ 4)) }

/-- Order a head's heater to its code under R147, in a precedence class of R146; an order that waits for the head is
superseded. -/
def Dev.setHeater (d : Dev) (g : Grp) (i : HeadIx) (wr : Bool) (cls : Nat) : Dev :=
  let want := d.heaterWanted g i wr
  let lim := d.get WLS_HTR_CFG.HTR_MAX g i
  let d := d.when (decide (lim < want)) (·.raise WLS_INT_STATUS.HTR_LIMIT g)
  let code := min want lim
  if d.heaterOrdered g i = code then d
  else
    let d := d.dropHeater g i
    if d.heaterOrdered g i = code then d
    else d.sendFrame g ⟨cls, some i, false, d.get WLS_HTR_CFG.ADDR g i, code, false⟩

/-- The formatter has a write armed on a head (R147). -/
def Dev.writeArmed (d : Dev) (g : Grp) (i : HeadIx) : Bool := d.arms[laneOf g i].any Arm.wg

/-- Order a head's heater to the code that R147 gives it now: in class 2 with a write armed, else in the class given. -/
def Dev.orderHeater (d : Dev) (g : Grp) (i : HeadIx) (cls : Nat) : Dev :=
  let wr := d.writeArmed g i
  d.setHeater g i wr (if wr then 2 else cls)

/-- Safety frames: the heaters of the group's heads to IDLE (R146), in place of the orders that wait. -/
def Dev.safetyHeaters (d : Dev) (g : Grp) : Dev :=
  d.each (headsOf (d.get FMT_LANES.PRESENT g)) fun i d =>
    (d.dropHeater g i).sendFrame g ⟨1, some i, false, d.get WLS_HTR_CFG.ADDR g i, d.get WLS_HTR_CFG.IDLE g i, false⟩

/-! ### Write inhibit -/

/-- Lane n is enabled, with a reader in use: both readers off act as EN = 0 (R70). -/
def Dev.laneOn (d : Dev) (n : LaneId) : Bool := d.on LANE_CTRL.EN n && (d.on LANE_CTRL.RDA_EN n || d.on LANE_CTRL.RDB_EN n)

/-- Lane n answers: it has a head, is enabled with a reader in use (R70), and not fenced. -/
def Dev.laneAlive (d : Dev) (n : LaneId) : Bool :=
  d.hasHead n && d.laneOn n && !bit (d.get FLT_FENCED_LANE.LANE) n

/-- Group and device inputs of R150, in the bit order of WLS_INH_STATUS.GROUP, for a slot with the
given metadata mark and FLUSH kind. A flush on another cause ends the other writes as PWRFAIL_L does (R326). -/
def Dev.groupInputs (d : Dev) (g : Grp) (metaMark flush : Bool) : List Bool :=
  let w := d.wls[g]
  [ d.get WLS_STATUS.STATE g != 2,
    w.thetaBad,
    w.preampFault,
    d.on SRV_LINK_STATUS.FAULT g || d.get SRV_STATUS.STATE g == 7,
    (d.pwrfail || d.mode == .coastFlush) && !flush,
    decide (w.speed < 2400 * 16),
    !(d.inMode [.active, .glide, .coastFlush, .makerService] || (d.mode == .headLoad && metaMark)) ]

/-- A mask from its bits, lowest first. -/
def maskOf : List Bool → Nat
  | [] => 0
  | b :: t => b.toNat + 2 * maskOf t

/-- Head inputs of R150: servo threshold, firmware mask, lane. -/
def Dev.headInputs (d : Dev) (g : Grp) (i : HeadIx) : List Bool :=
  [ bit (d.get SRV_SUP_STATUS.WI g) i, bit (d.get WLS_INHIBIT.FW_MASK g) i,
    !d.laneAlive (laneOf g i) ]

/-- A write gate of the head may not open (R150, R153). -/
def Dev.inhibited (d : Dev) (g : Grp) (i : HeadIx) (metaMark flush : Bool) : Bool :=
  (d.groupInputs g metaMark flush).any id || (d.headInputs g i).any id

/-- Show the inputs now active in WLS_INH_STATUS. -/
def Dev.refreshInh (d : Dev) (g : Grp) : Dev :=
  let grp := d.groupInputs g false false
  let heads := (List.finRange 8).map fun i => grp.any id || (d.headInputs g i).any id
  (d.set WLS_INH_STATUS.GROUP (maskOf grp) g).set WLS_INH_STATUS.HEAD (maskOf heads) g

end Sys2Proof.Machine
end

