-- ==== Sys2Proof/Machine/Channel.lean ====
section
/-! DEFINITION. The cells of a media sector and their place on the track (R56 to R59, R63 to R66), and the read channel's
sample chain, cell by cell: correction, interpolation, equaliser, adaptive loops, preamble and resume fields, baselines
(R68 to R83, R89, R90). -/

namespace Sys2Proof.Machine

/-! ### The media sector (R63 to R66) -/

/-- The 2T pattern 0b0011 (R63). -/
def twoT (k : Nat) : Bool := decide (2 ≤ k % 4)

/-- One step of the LFSR x^15 + x^14 + 1 (R66). -/
def lfsrStep (s : BitVec 15) : BitVec 15 := (s <<< 1) ||| (BitVec.ofBool (s.getLsbD 14 ^^ s.getLsbD 13)).setWidth 15

/-- k bits of the sequence, the most-significant bit of the register first, shifted into a byte. -/
def lfsrBits : Nat → BitVec 15 → Byte → Byte × BitVec 15
  | 0, s, b => (b, s)
  | k + 1, s, b => lfsrBits k (lfsrStep s) ((b <<< 1) ||| (BitVec.ofBool (s.getLsbD 14)).setWidth 8)

/-- The additive sequence over a byte string (R66); it undoes itself. -/
def scramble : BitVec 15 → List Byte → List Byte
  | _, [] => []
  | s, b :: t => let (m, s) := lfsrBits 8 s 0; (b ^^^ m) :: scramble s t

/-- The seed of cylinder c, sector k, head n (R66). -/
def seedOf (c k n : Nat) : BitVec 15 := BitVec.ofNat 15 ((c * 131 + k * 7 + n) % 32767 + 1)

/-- A payload scrambled for its place, or descrambled (R66, R94). -/
def scrambleAt (cyl sect : Nat) (n : LaneId) (payload : List Byte) : List Byte := scramble (seedOf cyl sect n) payload

/-- Bits of a byte string, most-significant first (R65). -/
def cellsOf (l : List Byte) : List Bool := l.flatMap fun b => (List.range 8).map fun k => b.getLsbD (7 - k)

/-- The bytes of a tag, most-significant first (R340). -/
def tagBytes (t : BitVec 128) : List Byte :=
  (List.range 16).map fun k => t.extractLsb' (8 * (15 - k)) 8

/-- The 496 parity bytes of a codeword (R65). -/
def parityBytes (l : List Byte) : List Byte := let p := Config.ldpcParity l; (List.range 496).map fun k => p.getD k 0

/-- The LDPC codeword of a sector: scrambled payload, tag, parity (R65, R66). -/
def codeword (cyl sect : Nat) (n : LaneId) (payload : List Byte) (tag : BitVec 128) : List Byte :=
  let l := scrambleAt cyl sect n payload ++ tagBytes tag
  l ++ parityBytes l

/-- The sync mark, bit 31 first (R63). -/
def syncMark : List Bool := (List.range 32).map fun k => (0xB3C2_E17A#32).getLsbD (31 - k)

/-- The cells of a media sector, one bit per cell (R63, R64). -/
def sectorBits (cyl sect : Nat) (n : LaneId) (payload : List Byte) (tag : BitVec 128) : List Bool :=
  (List.range 128).map twoT ++ syncMark ++ cellsOf (codeword cyl sect n payload tag) ++ (List.range 16).map twoT

/-- A raw pattern over a sector's cells, bit 31 first (chapter 05, DATA_SEL). -/
def patternBits (w : Word) : List Bool := (List.range 37040).map fun k => w.getLsbD (31 - k % 32)

/-! ### The place of a sector on its track (R56 to R59) -/

/-- D of R56: data cells of a wedge interval. -/
def Dev.dataCells (d : Dev) (g : Grp) (z : Nat) : Nat := d.cpw g z - (d.zone g z).srvCells - 64

/-- The cells of sector k below n at which an interval's data stream ends: before each lies a servo field and a resume field
(R57, R58). -/
def splitsUpTo (n dc k : Nat) : List Nat :=
  if dc = 0 then []
  else
    let first := (dc - k * 37104 % dc) % dc
    ((List.range 36).map fun j => first + j * dc).filter fun i => decide (0 < i) && decide (i < n)

def splitsOf (dc k : Nat) : List Nat := splitsUpTo 37040 dc k

def Dev.splits (d : Dev) (g : Grp) (cyl sect : Nat) : List Nat := splitsOf (d.dataCells g (d.zoneIx g cyl)) sect

/-- A sector's cell in the stream that a lane samples: the resume fields inside the sector count, servo fields do not (R96). -/
def streamAt (splits : List Nat) (i : Nat) : Nat := i + 64 * (splits.filter fun s => decide (s ≤ i)).length

/-- The stream cell at which each resume field begins (R96). -/
def resumeCells (splits : List Nat) : List Nat := splits.zipIdx.map fun p => p.1 + 64 * p.2

/-! ### Correction and front ends (R71 to R74) -/

/-- A rational in units of 1/u, rounded as the implementation rounds (Config.roundUp). -/
def roundTo (u : Nat) (q : Rat) : Int := freeDiv (q.num * u) q.den

/-- Offset and asymmetry correction of one ADC sample, in LSB (R74): saturated 255/16 LSB beyond the 8-bit range, and
carried at 12 bits, that is, in 1/8 LSB. -/
def correct (ofs asym : Rat) (b : Byte) : Rat :=
  let x1 : Rat := b.toInt - ofs / 16
  let x2 := x1 - asym / 1024 * (x1 * x1) / 128
  (roundTo 8 (max (-128 - 255 / 16) (min (127 + 255 / 16) x2)) : Rat) / 8

/-- A reader's front end (R72, R73): a gain code above 240 acts as 240, the cutoff is held within 32 to 128, the boost to
12. -/
def frontEnd (gain : Int) (fc boost : Nat) : FrontEnd := ⟨(clamp 0 240 gain).toNat, max 32 (min 128 fc), min 12 boost⟩

/-! ### The preamble (R80) -/

/-- The sine of k quarter-cells' worth of phase, k in 1/256 turn, in 2^-60. -/
def sine60 (k : Nat) : Int :=
  let q := k % 256 / 64
  let r := k % 64
  let r' := if q % 2 = 0 then r else 64 - r
  -- pi / 2 in 2^-60, over 64
  let x : Int := (r' : Int) * 1811004864519280710 / 64
  let s := sineTerms (x * x / 2 ^ 60) 14 0 x
  if q < 2 then s else -s

/-- What one cell adds to I and Q (R80). -/
def zpsAdd (k : Nat) (x : Rat) (p : Rat × Rat) : Rat × Rat :=
  match k % 4 with
  | 0 => (p.1 + x, p.2)
  | 1 => (p.1, p.2 + x)
  | 2 => (p.1 - x, p.2)
  | _ => (p.1, p.2 - x)

/-- atan2(Q, I) in 1/64 cell, 0 to 255: the step of 1/256 turn nearest to the angle. -/
def phaseOf (i q : Int) : Nat :=
  let proj := fun k => i * sine60 (k + 64) + q * sine60 k
  (List.range 256).foldl (fun b k => if proj b < proj k then k else b) 0

/-- round(160 log10(tgt / A)) with A^2 = 4 (i^2 + q^2) / len^2, limited to 96 either way: the code step
of R80. -/
def gainStep (tgt len : Nat) (i q : Int) : Int :=
  let a2 := 4 * (i * i + q * q).toNat
  if a2 = 0 then 96
  else
    -- the largest n with (tgt len)^320 / a2^160 at least 10^(2 n - 1)
    let x := (tgt * len) ^ 320
    let y := a2 ^ 160
    let ge := fun (n : Int) =>
      if 1 ≤ 2 * n - 1 then decide (y * 10 ^ (2 * n - 1).toNat ≤ x)
      else decide (y ≤ x * 10 ^ (1 - 2 * n).toNat)
    (List.range 193).foldl (fun b k => if ge ((k : Int) - 96) then (k : Int) - 96 else b) (-96)

/-- GAIN_TGT within its limits. -/
def gainTgt (v : Nat) : Nat := max 16 (min 120 v)

/-! ### The chain's settings -/

/-- What a lane's registers say for a run of the chain. -/
structure ChainCfg where
  splits : List Nat
  useA : Bool
  useB : Bool
  delayA : Nat
  delayB : Nat
  tgtA : Nat
  tgtB : Nat
  zpsStart : Nat
  zpsLen : Nat
  acqLen : Nat
  resAcq : Nat
  gainEn : Bool
  ofsEn : Bool
  asymEn : Bool
  firEn : Bool
  tgtEn : Bool
  muGainAcq : Nat
  muGainTrk : Nat
  muOfs : Nat
  muAsym : Nat
  muFir : Nat
  muTgt : Nat
  kpAcq : Nat
  kiAcq : Nat
  kpTrk : Nat
  kiTrk : Nat
  freqLim : Rat
  taThresh : Nat
  taExt : Nat
  /-- every loop holds: the sector is captured and not gated for reading -/
  hold : Bool := false
  deriving DecidableEq, Repr

/-- Calibrate mode with a run in progress (R119). -/
def Dev.calibrating (d : Dev) (n : LaneId) : Bool := d.get LANE_CTRL.MODE n == 2 && d.on LANE_CTRL.CAL_GO n

/-- The settings of a lane for a sector (chapter 03's registers); a calibration run forces the FIR and target loops on
(R119). -/
def Dev.chainCfg (d : Dev) (n : LaneId) (splits : List Nat) : ChainCfg where
  splits := splits
  useA := d.on LANE_CTRL.RDA_EN n
  useB := d.on LANE_CTRL.RDB_EN n
  delayA := d.get LANE_AFE_A.DELAY n
  delayB := d.get LANE_AFE_B.DELAY n
  tgtA := gainTgt (d.get LANE_AFE_A.GAIN_TGT n)
  tgtB := gainTgt (d.get LANE_AFE_B.GAIN_TGT n)
  zpsStart := d.get LANE_PREAMBLE.ZPS_START n
  zpsLen := d.get LANE_PREAMBLE.ZPS_LEN n
  acqLen := d.get LANE_PREAMBLE.ACQ_LEN n
  resAcq := d.get LANE_PREAMBLE.RES_ACQ_LEN n
  gainEn := d.on LANE_LOOP.GAIN_EN n
  ofsEn := d.on LANE_LOOP.OFS_EN n
  asymEn := d.on LANE_LOOP.ASYM_EN n
  firEn := d.on LANE_LOOP.FIR_EN n || d.calibrating n
  tgtEn := d.on LANE_LOOP.TGT_EN n || d.calibrating n
  muGainAcq := d.get LANE_LOOP.MU_GAIN_ACQ n
  muGainTrk := d.get LANE_LOOP.MU_GAIN_TRK n
  muOfs := d.get LANE_LOOP.MU_OFS n
  muAsym := d.get LANE_LOOP.MU_ASYM n
  muFir := d.get LANE_LOOP.MU_FIR n
  muTgt := d.get LANE_LOOP.MU_TGT n
  kpAcq := d.get LANE_TIMING.KP_ACQ n
  kiAcq := d.get LANE_TIMING.KI_ACQ n
  kpTrk := d.get LANE_TIMING.KP_TRK n
  kiTrk := d.get LANE_TIMING.KI_TRK n
  freqLim := (d.get LANE_TIMING.FREQ_LIMIT n : Rat) / 100000
  taThresh := d.get LANE_SPEC_TA.TA_THRESH n
  taExt := d.get LANE_SPEC_TA.TA_EXT n

/-- Segments of the preamble and of a resume field (R80, R83). -/
inductive Seg where
  | settle | zps | acq | low | data
  deriving DecidableEq, Repr

/-- The segment of a sector's cell (R80). -/
def ChainCfg.segOf (c : ChainCfg) (i : Nat) : Seg :=
  if 128 ≤ i then .data
  else if i < c.zpsStart then .settle
  else if i < c.zpsStart + c.zpsLen then .zps
  else if i < c.zpsStart + c.zpsLen + c.acqLen then .acq
  else .low

/-- The segment of a resume field's cell (R83). -/
def ChainCfg.resSeg (c : ChainCfg) (r : Nat) : Seg := if r < c.resAcq then .acq else .low

/-! ### The chain's state -/

/-- The chain after some cells. Histories are newest first; a cell before the first counts as 0. -/
structure Chain where
  l : Loops
  /-- cells processed; the next cell of the sector; resume cells still to come before it -/
  cell : Nat := 0
  sect : Nat := 0
  res : Nat := 0
  xA : List Rat := []
  xB : List Rat := []
  /-- the readers' contributions to the equaliser output, and the output (R69) -/
  rA : List Rat := []
  rB : List Rat := []
  y : List Rat := []
  /-- loop decisions, 1 or -1, and segments -/
  dec : List Int := []
  seg : List Seg := []
  /-- I and Q (R80) -/
  zA : Rat × Rat := (0, 0)
  zB : Rat × Rat := (0, 0)
  /-- cells in a row for which a reader's baseline has been too large, and the excess in progress: first and last cell -/
  overA : Nat := 0
  overB : Nat := 0
  exc : Option (Nat × Nat) := none
  found : List (Nat × Nat) := []
  /-- a loop has reached an end of its range (R79) -/
  hit : Bool := false
  deriving DecidableEq, Repr

/-- A value held at the ends of its range, and whether it reached one (R79). -/
def limited (lo hi x : Rat) : Rat × Bool := (max lo (min hi x), decide (x ≤ lo) || decide (hi ≤ x))

/-- Whole part toward zero. -/
def wholeOf (q : Rat) : Int := if q < 0 then -((-q).floor) else q.floor

/-- A VGA code whose accumulator moves: whenever it passes 1 or -1 the code changes by as many (R75); at an end of its range
the accumulator is emptied. -/
def bump (code : Int) (acc dx : Rat) : Int × Rat × Bool :=
  let t := acc + dx
  let k := wholeOf t
  let c := code + k
  if c ≤ 0 ∧ k < 0 then (0, 0, true) else if 240 ≤ c ∧ 0 < k then (240, 0, true) else (c, t - k, false)

def sgn (q : Rat) : Int := if q < 0 then -1 else if q = 0 then 0 else 1

/-- 2^-k. -/
def pow2neg (k : Nat) : Rat := 1 / (2 ^ k : Nat)

/-- The square root of a nonnegative rational, in 2^-20. -/
def sqrt20 (q : Rat) : Rat := (Nat.sqrt (q.num.toNat * q.den * 2 ^ 40) : Rat) / ((q.den * 2 ^ 20 : Nat) : Rat)

/-- An entry of a history. -/
def back (l : List Rat) (k : Nat) : Rat := l.getD k 0

/-- The sum of taps times a stream from entry k on. -/
def tapSum (taps xs : List Rat) : Rat := (taps.zip xs).foldl (fun s p => s + p.1 * p.2) 0

/-! ### One cell -/

/-- The segment of the cell that comes next. -/
def Chain.now (s : Chain) (c : ChainCfg) : Seg := if s.res = 0 then c.segOf s.sect else c.resSeg (64 - s.res)

/-- The known 2T pattern in a preamble or resume field, the loop detector's decision in data (R80). -/
def Chain.decision (s : Chain) (decs : List Bool) : Int :=
  let b := if s.res != 0 then twoT (64 - s.res) else if s.sect < 128 then twoT s.sect else decs.getD s.sect false
  if b then 1 else -1

/-- The place of the next cell in the ADC samples: 25/24 samples per cell (R71, R68). -/
def Chain.at_ (s : Chain) : Rat := (s.cell + s.l.phase) * 25 / 24

/-- The interpolated, corrected sample of each reader (R68, R74). -/
def Chain.sample (s : Chain) (c : ChainCfg) (a b : List Byte) : Rat × Rat :=
  (if c.useA then Config.interp (a.map (correct s.l.ofsA s.l.asymA)) s.at_ else 0,
   if c.useB then Config.interp (b.map (correct s.l.ofsB s.l.asymB)) s.at_ else 0)

/-- The cell enters the histories, and the equaliser gives its next output (R68, R69). -/
def Chain.take (s : Chain) (c : ChainCfg) (a b : List Byte) (decs : List Bool) : Chain :=
  let (x, x') := s.sample c a b
  let xA := (x :: s.xA).take 64
  let xB := (x' :: s.xB).take 64
  let ra := tapSum s.l.firA (xA.drop c.delayA)
  let rb := tapSum s.l.firB (xB.drop c.delayB)
  { s with xA := xA, xB := xB, rA := (ra :: s.rA).take 16, rB := (rb :: s.rB).take 16, y := (ra + rb) :: s.y
           dec := (s.decision decs :: s.dec).take 32, seg := (s.now c :: s.seg).take 16 }

/-- The magnitude of a reader's baseline exceeds TA_THRESH (R89). -/
def baselineOver (thr : Nat) (xs : List Rat) : Bool :=
  decide (16 ≤ xs.length) && decide ((thr : Rat) < |(xs.take 16).foldl (· + ·) 0 / 16|)

/-- R89: an excess begins with the first of 4 consecutive cells, and goes on while the baseline stays too large. -/
def Chain.baseline (s : Chain) (c : ChainCfg) : Chain :=
  let a := if c.useA && baselineOver c.taThresh s.xA then s.overA + 1 else 0
  let b := if c.useB && baselineOver c.taThresh s.xB then s.overB + 1 else 0
  let m := max a b
  let s := { s with overA := a, overB := b }
  if 4 ≤ m then { s with exc := some (((s.exc.map Prod.fst).getD (s.cell + 1 - m)), s.cell) }
  else match s.exc with
    | some e => { s with exc := none, found := s.found ++ [e] }
    | none => s

/-- The loops hold: a thermal-asperity region is known to reach this cell (R90). -/
def Chain.holds (s : Chain) (c : ChainCfg) : Bool :=
  s.exc.isSome || s.found.any fun e => decide (s.cell ≤ e.2 + c.taExt)

/-- The loops that work on the present decisions hold: the cell that the decisions have reached lies in a thermal-asperity
region (R89, R90). -/
def Chain.holdsLate (s : Chain) (c : ChainCfg) : Bool :=
  s.exc.any (fun e => decide (e.1 ≤ s.cell - 13 + 8)) ||
    s.found.any fun e => decide (e.1 ≤ s.cell - 13 + 8) && decide (s.cell - 13 ≤ e.2 + c.taExt)

/-- The preset at the last zero-phase-start cell (R80): the phase from reader A, or from reader B where A
is not in use, and each reader's code. `free` is the angle of a signal with no amplitude. -/
def Chain.preset (s : Chain) (c : ChainCfg) (free : Nat) : Chain :=
  let ints := fun (p : Rat × Rat) => let m := p.1.den * p.2.den; ((p.1 * m).num, (p.2 * m).num, m)
  let (ia, qa, ma) := ints s.zA
  let (ib, qb, mb) := ints s.zB
  let (i, q) := if c.useA then (ia, qa) else (ib, qb)
  let k := if i = 0 ∧ q = 0 then free % 256 else phaseOf i q
  { s with l := { s.l with
      phase := (k : Rat) / 64
      gainA := if c.useA then clamp 0 240 (s.l.gainA + gainStep c.tgtA (c.zpsLen * ma) ia qa) else s.l.gainA
      gainB := if c.useB then clamp 0 240 (s.l.gainB + gainStep c.tgtB (c.zpsLen * mb) ib qb) else s.l.gainB } }

/-- The zero-phase-start sums, and the preset after the last of its cells. -/
def Chain.zeroPhase (s : Chain) (c : ChainCfg) (free : Nat) : Chain :=
  let s := { s with zA := zpsAdd s.sect (back s.xA 0) s.zA, zB := zpsAdd s.sect (back s.xB 0) s.zB }
  if s.sect + 1 = c.zpsStart + c.zpsLen then s.preset c free else s

/-- The last four corrected samples of a reader, oldest first. -/
def lastPeriod (xs : List Rat) : Rat × Rat × Rat × Rat := (back xs 3, back xs 2, back xs 1, back xs 0)

/-- The loops that work once a 2T period (R75): gain in acquisition, offset, asymmetry. -/
def Chain.period (s : Chain) (c : ChainCfg) (acq : Bool) : Chain :=
  let one := fun (en : Bool) (tgt : Nat) (xs : List Rat) (code : Int) (acc ofs asym : Rat) =>
    let (x0, x1, x2, x3) := lastPeriod xs
    let a := sqrt20 ((x0 - x2) * (x0 - x2) + (x1 - x3) * (x1 - x3)) / 2
    let (code, acc, h1) := if en && acq && c.gainEn then
      bump code acc (pow2neg c.muGainAcq * (tgt - a) * 8 / tgt) else (code, acc, false)
    let (ofs, h2) := if en && c.ofsEn then
      limited (-512) 511 (ofs + pow2neg c.muOfs * (x0 + x1 + x2 + x3) / 4) else (ofs, false)
    let (asym, h3) := if en && c.asymEn then
      limited (-128) 127 (asym + pow2neg c.muAsym *
        (max (max x0 x1) (max x2 x3) + min (min x0 x1) (min x2 x3)) / 2) else (asym, false)
    (code, acc, ofs, asym, h1 || h2 || h3)
  let (ga, aa, oa, sa, h) := one c.useA c.tgtA s.xA s.l.gainA s.l.accA s.l.ofsA s.l.asymA
  let (gb, ab, ob, sb, h') := one c.useB c.tgtB s.xB s.l.gainB s.l.accB s.l.ofsB s.l.asymB
  { s with l := { s.l with gainA := ga, accA := aa, ofsA := oa, asymA := sa
                           gainB := gb, accB := ab, ofsB := ob, asymB := sb }
           hit := s.hit || h || h' }

/-- The ideal output for the loop decisions from entry k of their history on (R75). -/
def Chain.ideal (s : Chain) (k : Nat) : Rat :=
  let dk := fun (j : Nat) => ((s.dec.getD (k + j) 0 : Int) : Rat)
  dk 0 + tapSum s.l.tgt ((List.range 4).map fun j => dk (j + 1))

/-- Entry of the present loop decisions: they stand 8 cells behind the equaliser output, which lags the interpolator by 5
cells (R69, chapter 03's table). -/
abbrev loopLag : Nat := 8
abbrev cellLag : Nat := 13

/-- The error e_k that the loops work with (R75). -/
def Chain.err (s : Chain) : Rat := back s.y loopLag - s.ideal cellLag

/-- The tracking gain loop, per cell (R75). -/
def Chain.trackGain (s : Chain) (c : ChainCfg) : Chain :=
  let dx := fun (r : List Rat) => -(pow2neg c.muGainTrk * (sgn s.err * sgn (back r loopLag) : Int))
  let (ga, aa, h) := if c.useA && c.gainEn then bump s.l.gainA s.l.accA (dx s.rA) else (s.l.gainA, s.l.accA, false)
  let (gb, ab, h') := if c.useB && c.gainEn then bump s.l.gainB s.l.accB (dx s.rB) else (s.l.gainB, s.l.accB, false)
  { s with l := { s.l with gainA := ga, accA := aa, gainB := gb, accB := ab }, hit := s.hit || h || h' }

/-- The offset loop in data (R75). A sum of main taps of 0 leaves the offsets. -/
def Chain.dataOffset (s : Chain) (c : ChainCfg) : Chain :=
  let den := back s.l.firA 5 + back s.l.firB 5
  if !c.ofsEn || den = 0 then s
  else
    let dx := pow2neg c.muOfs * s.err * 16 / den
    let (oa, h) := if c.useA then limited (-512) 511 (s.l.ofsA + dx) else (s.l.ofsA, false)
    let (ob, h') := if c.useB then limited (-512) 511 (s.l.ofsB + dx) else (s.l.ofsB, false)
    { s with l := { s.l with ofsA := oa, ofsB := ob }, hit := s.hit || h || h' }

/-- One reader's taps after a cell (R75). -/
def firStep (mu delay : Nat) (e : Rat) (taps xs : List Rat) : List (Rat × Bool) :=
  taps.zipIdx.map fun p =>
    limited (-2) (2047 / 1024) (p.1 - pow2neg (mu + 8) * e * back xs (loopLag + delay + p.2))

/-- The FIR and target loops in data (R75, R76). -/
def Chain.coefs (s : Chain) (c : ChainCfg) : Chain :=
  let e := s.err
  let fa := firStep c.muFir c.delayA e s.l.firA s.xA
  let fb := firStep c.muFir c.delayB e s.l.firB s.xB
  let g := s.l.tgt.zipIdx.map fun p =>
    limited (-1) (511 / 512) (p.1 + pow2neg (c.muTgt + 8) * e * ((s.dec.getD (cellLag + 1 + p.2) 0 : Int) : Rat))
  let ua := c.firEn && c.useA
  let ub := c.firEn && c.useB
  { s with l := { s.l with firA := if ua then fa.map Prod.fst else s.l.firA
                           firB := if ub then fb.map Prod.fst else s.l.firB
                           tgt := if c.tgtEn then g.map Prod.fst else s.l.tgt }
           hit := s.hit || (ua && fa.any Prod.snd) || (ub && fb.any Prod.snd) || (c.tgtEn && g.any Prod.snd) }

/-- The timing loop (chapter 03, Timing recovery): phase += f + Kp tau, then f += Ki tau within FREQ_LIMIT (R82). -/
def Chain.steer (s : Chain) (c : ChainCfg) (kp ki : Nat) (tau : Rat) : Chain :=
  let (f, h) := limited (-c.freqLim) c.freqLim (s.l.freq + pow2neg ki * tau)
  { s with l := { s.l with phase := s.l.phase + s.l.freq + pow2neg kp * tau, freq := f }, hit := s.hit || h }

/-- The timing error in data. -/
def Chain.dataTau (s : Chain) : Rat :=
  back s.y (loopLag + 1) * s.ideal cellLag - back s.y loopLag * s.ideal (cellLag + 1)

/-- The loops of one cell, by the segment of the cell (R75, R80, R83); the loops that need decisions work on the cell that
the decisions have reached. -/
def Chain.adapt (s : Chain) (c : ChainCfg) (free : Nat) : Chain :=
  let now := s.seg.getD 0 .settle
  if c.hold then s
  else if now = .zps then s.zeroPhase c free
  else if now = .settle || s.holds c then s
  else
    let late := if s.holdsLate c then .settle else s.seg.getD cellLag .settle
    let k := if s.res = 0 then s.sect else 64 - s.res
    let s := if now != .data && k % 4 == 3 then s.period c (now == .acq) else s
    let s := if late = .low ∨ late = .data then s.trackGain c else s
    let s := if late = .data then (s.dataOffset c).coefs c else s
    if now = .acq then s.steer c c.kpAcq c.kiAcq (Config.quadError k (s.xA.take 4) (s.xB.take 4))
    else if now = .low then s.steer c c.kpTrk c.kiTrk (Config.quadError k (s.xA.take 4) (s.xB.take 4))
    else if late = .data then s.steer c c.kpTrk c.kiTrk s.dataTau
    else { s with l := { s.l with phase := s.l.phase + s.l.freq } }

/-- On to the next cell; a resume field stands before each split of the sector (R58). -/
def Chain.next (s : Chain) (c : ChainCfg) : Chain :=
  if s.res != 0 then { s with cell := s.cell + 1, res := s.res - 1 }
  else { s with cell := s.cell + 1, sect := s.sect + 1, res := if c.splits.contains (s.sect + 1) then 64 else 0 }

/-- One cell. -/
def Chain.step (s : Chain) (c : ChainCfg) (x : SlotIn) (free : Nat) : Chain :=
  ((((s.take c x.samplesA x.samplesB x.decs).baseline c).adapt c free).next c)

/-- The samples have run out, or the sector has ended. -/
def Chain.over (s : Chain) (x : SlotIn) : Bool :=
  decide (37040 ≤ s.sect) || decide ((max x.samplesA.length x.samplesB.length : Int) ≤ s.at_.floor)

/-- The chain over at most n cells. -/
def Chain.run (c : ChainCfg) (x : SlotIn) (free : Nat) : Nat → Chain → Chain
  | 0, s => s
  | n + 1, s => if s.over x then s else run c x free n (s.step c x free)

/-- The chain over a sector and its resume fields. -/
def runChain (c : ChainCfg) (x : SlotIn) (free : Nat) (start : Loops) : Chain :=
  let s := Chain.run c x free (37040 + 64 * 36) { l := start }
  match s.exc with
  | some e => { s with exc := none, found := s.found ++ [e] }
  | none => s

/-- The timing loop is past its high-gain segment (LANE_STATUS.TRACKING). -/
def Chain.tracking (s : Chain) (c : ChainCfg) : Bool := decide (c.zpsStart + c.zpsLen + c.acqLen ≤ s.sect)

/-! ### Sync distances (R84, R87) -/

/-- The distance of the 32 decisions from a cell on from the sync mark. -/
def markDistance (decs : List Bool) (cell : Nat) : Nat :=
  (syncMark.zipIdx.filter fun p => decs.getD (cell + p.2) false != p.1).length

/-- Distances at positions -32 to +32, in time order: a position is the offset of the window's first cell from cell 128. -/
def syncDists (decs : List Bool) : List Nat := (List.range 65).map fun j => markDistance decs (96 + j)

/-! ### What the detector gets (R76, R89, R90) -/

/-- The region that an excess marks: from 8 cells before its first cell to TA_EXT cells after its last (R89). -/
def taRegion (ext : Nat) (e : Nat × Nat) : Nat × Nat := (e.1 - 8, e.2 + ext)

/-- Regions that meet are one erasure region. -/
def mergeRegions : List (Nat × Nat) → List (Nat × Nat)
  | [] => []
  | r :: t =>
    match mergeRegions t with
    | [] => [r]
    | q :: u => if q.1 ≤ r.2 + 1 ∧ r.1 ≤ q.2 + 1 then (min r.1 q.1, max r.2 q.2) :: u else r :: q :: u

/-- A region erases more than 2,048 cells (R90). -/
def tooLong (l : List (Nat × Nat)) : Bool := (mergeRegions l).any fun r => decide (2048 < r.2 + 1 - r.1)

/-- The equaliser output for each codeword cell at an alignment, erased where a region, widened by `ext`, covers the cell
(R65, R69, R90). -/
def detIn (splits : List Nat) (s : Chain) (tas : List (Nat × Nat)) (ext : Nat) (tgt : List Rat) (p : Int) : DetIn :=
  if s.y.isEmpty then ⟨tgt, []⟩
  else
    let y := s.y.reverse
    ⟨tgt, (List.range 36864).map fun j =>
      let k := streamAt splits ((160 + p + j).toNat)
      if tas.any fun r => decide (r.1 ≤ k + ext) && decide (k ≤ r.2 + ext) then none else y[k + 5]?⟩

end Sys2Proof.Machine
end

