-- ==== Sys2Proof/Machine/ServoOps.lean ====
section
/-! DEFINITION. Operations of the control plane that several families share: write aborts (R152),
requests going back to their lists (R449), servo state changes and the emergency retract (R240 to
R245). -/

namespace Sys2Proof.Machine

/-! ### Servo states (SRV_STATUS.STATE) -/

abbrev stOff : Nat := 0
abbrev stParked : Nat := 1
abbrev stLoading : Nat := 2
abbrev stSeek : Nat := 3
abbrev stSettle : Nat := 4
abbrev stTrack : Nat := 5
abbrev stUnloading : Nat := 6
abbrev stRetract : Nat := 7
abbrev stManual : Nat := 8

/-- The servo state of a group. -/
def Dev.srvState (d : Dev) (g : Grp) : Nat := d.get SRV_STATUS.STATE g

/-! ### Requests of a group -/

def Dev.onGrpq (d : Dev) (g : Grp) (f : GroupQ → GroupQ) : Dev := { d with grpq := upd d.grpq g f }

/-- Show a group's request counts in QUE_GRP_STATUS. -/
def Dev.showGrpq (d : Dev) (g : Grp) : Dev :=
  let n := d.grpq[g].list.length
  ((d.set QUE_GRP_STATUS.QUEUED (min n 32) 0 g).setSat QUE_GRP_STATUS.HELD (n - 32) 0 g).set
    QUE_GRP_STATUS.REREAD d.grpq[g].reread.toNat 0 g

/-- A request of a flush. -/
def MediaReq.isFlush (m : MediaReq) : Bool := match m.why with | .flush _ => true | _ => false

/-- The request-abandoned event: the current request and the issued one go back, unchanged, to the
head of the group's list (R242, R449). A group that flushes stops there: its FLUSH requests go (R328). -/
def Dev.abandon (d : Dev) (g : Grp) : Dev :=
  ((d.onGrpq g fun q =>
    { q with list := (q.posted ++ q.active.toList ++ q.list).filter fun m => !m.isFlush, active := none, posted := [],
             reread := false, released := false }).onFmt g fun f =>
    { f with cur := none, next := none, ended := true, evts := [] }).showGrpq g

/-! ### Write aborts -/

/-- Update the armed slots of a lane. -/
def Dev.onArms (d : Dev) (n : LaneId) (f : List Arm → List Arm) : Dev :=
  { d with arms := upd d.arms n f }

/-- Write the abort record of a head (R152). -/
def Dev.abortRecord (d : Dev) (g : Grp) (i : HeadIx) (a : Arm) (cause : Nat) : Dev :=
  ((((d.set WLS_ABORT_INFO0.CAUSE cause g).set WLS_ABORT_INFO0.HEAD i g).set
    WLS_ABORT_INFO0.SECTOR a.sect g).set WLS_ABORT_INFO1.CYL a.cyl g).stamp
    WLS_ABORT_INFO0.VALID WLS_ABORT_INFO0.SEQ g

/-- An immediate inhibit stops a head's write: the sector is aborted, the gate is off, the token comes back and, with no
other write armed, the heater returns to the read code (R147, R151, R152, R157). No effect while the head's gate is not up. -/
def Dev.abortHead (d : Dev) (g : Grp) (cause : Nat) (i : HeadIx) : Dev :=
  if !bit d.wls[g].gates i then d
  else
    let n := laneOf g i
    let d := d.gatesFall g (1 <<< i.val)
    let d := match d.arms[n].find? Arm.wg with
      | some a =>
        (((d.abortRecord g i a cause).raise WLS_INT_STATUS.WRITE_ABORT g).onArms n
          fun l => l.erase a)
      | none => d
    let d := if d.writeArmed g i then d.returnTokens g (1 <<< i.val) else d.clearTokens g (1 <<< i.val)
    let d := (d.onFmt g fun f => { f with wrFail := true, aborted := true }).raise FMT_INT_STATUS.WR_FAIL g
    if d.writeArmed g i then d else d.orderHeater g i 4

/-- The same for several heads, in ascending head index (R152). -/
def Dev.abortHeads (d : Dev) (g : Grp) (mask cause : Nat) : Dev :=
  d.each (headsOf mask) fun i d => d.abortHead g cause i

/-! ### The downstream frame -/

/-- Numbers of 20 bits packed most-significant first. -/
def pack20 (l : List Int) : Nat := l.foldl (fun a x => a * 2 ^ 20 + twos 20 x) 0

/-- n bytes of a number, most-significant first. -/
def beBytes (n v : Nat) : List Byte :=
  (List.range n).map fun k => BitVec.ofNat 8 (v / 256 ^ (n - 1 - k))

/-- Bytes 1 to 27 of the downstream frame (R226). -/
def Dev.frameBytes (d : Dev) (g : Grp) (rpt : Bool) : List Byte :=
  let s := d.srv[g]
  let st := d.srvState g
  let enable := st != stOff && st != stParked
  let retract := st == stRetract || d.on SRV_LINK_STATUS.FAULT g
  let body := BitVec.ofNat 8 (0x10 + s.seq % 16) ::
    BitVec.ofNat 8 (enable.toNat + 2 * retract.toNat + 4 * rpt.toNat) ::
    beBytes 23 (pack20 (s.vcm :: s.fine.toList) * 16)
  body ++ beBytes 2 (crc16 body).toNat

/-- Send a frame: a new command advances the sequence, a repeat keeps it (R226, R229). -/
def Dev.sendDown (d : Dev) (g : Grp) (rpt : Bool) : Dev :=
  let d := if rpt then d else d.onSrv g fun s => { s with seq := (s.seq + 1) % 16 }
  d.onSrv g fun s => { s with frame := d.frameBytes g rpt, repeated := rpt }

/-! ### Servo state changes -/

/-- The generator stops, and its output becomes 0 (R255). -/
def Dev.icuRest (d : Dev) (g : Grp) : Dev :=
  ((d.set SRV_ICU_CTRL.RUN 0 g).set SRV_ICU_CTRL.STOP 0 g).onSrv g fun s =>
    { s with icu := { s.icu with stop := false, inj := 0 } }

/-- On entry to a state other than SETTLE, TRACK and MANUAL the generator stops, and a start that waits is withdrawn (R255). -/
def Dev.icuHalt (d : Dev) (g : Grp) : Dev :=
  ((d.icuRest g).set SRV_ICU_CTRL.GO 0 g).onSrv g fun s => { s with icu := { s.icu with armed := false } }

/-- Enter a state: the following-error counters clear (R238), the generator stops where R255 says. -/
def Dev.enter (d : Dev) (g : Grp) (st : Nat) : Dev :=
  let d := (d.set SRV_STATUS.STATE st g).onSrv g fun s =>
    { s with fe := Vector.replicate 8 0, ontrack := 0, settle := 0 }
  d.when (!(st == stSettle || st == stTrack || st == stManual)) (·.icuHalt g)

/-- A loss of track: TRACK is left other than by a commanded seek or unload (R223). -/
def Dev.loseTrack (d : Dev) (g : Grp) : Dev := d.onSrv g fun s => { s with trackLost := true }

/-- The servo inhibits every head of the group outside TRACK (R235). -/
def Dev.inhibitAll (d : Dev) (g : Grp) : Dev :=
  ((d.set SRV_SUP_STATUS.WI 255 g).onSrv g fun s =>
    { s with clean := Vector.replicate 8 0 })

/-- A capture with this trigger code is armed and not yet triggered: trigger it (R260). -/
def Dev.trigger (d : Dev) (g : Grp) (code : Nat) : Dev :=
  d.when (d.on SRV_CAP_CTRL.ARM g && d.get SRV_CAP_CTRL.TRIG g == code && !d.srv[g].cap.trigged)
    fun d => d.onSrv g fun s => { s with cap := { s.cap with trigNow := true } }

/-- An emergency-retract request with a cause code of R240: R241, R242, R245. -/
def Dev.retract (d : Dev) (g : Grp) (cause : Nat) : Dev :=
  let st := d.srvState g
  if st == stRetract then
    (d.set SRV_SUP_STATUS.RET_LATCH 1 g).onSrv g fun s =>
      { s with retMask := setBit s.retMask (cause - 1) }
  else if st == stParked || st == stOff then
    (d.set SRV_SUP_STATUS.RET_LATCH 1 g).orBits SRV_RET_INFO.MASK (1 <<< (cause - 1)) g
  else
    let d := if st == stTrack then d.loseTrack g else d
    -- a positioning request that waits for a t0 is dropped (R241)
    let d := d.when (d.srv[g].request).isSome (·.raise SRV_INT_STATUS.CMD_ERR g)
    let d := (d.enter g stRetract).inhibitAll g
    let d := (d.raise SRV_INT_STATUS.RETRACT g).set SRV_SUP_STATUS.RET_LATCH 1 g
    let d := d.set SRV_RET_INFO.VALID 0 g
    let d := d.onSrv g fun s =>
      { s with retCause := cause, retMask := 1 <<< (cause - 1), request := none, transfer := none,
               ramp := false, loadFailed := false, trackLost := true, vcm := 0,
               fine := Vector.replicate 8 0, applied := Vector.replicate 9 0 }
    -- operations that wait for a t0 are dropped (R241)
    let d := d.when (d.on SRV_CMD.GO g) fun d =>
      (d.set SRV_CMD.GO 0 g).raise SRV_INT_STATUS.CMD_ERR g
    let d := d.when (d.on SRV_MODE_CMD.GO g) fun d =>
      (d.set SRV_MODE_CMD.GO 0 g).raise SRV_INT_STATUS.CMD_ERR g
    let d := d.abortHeads g 255 3
    let d := d.safetyHeaters g
    let d := d.dropTokens g
    let d := d.abandon g
    -- a retract frame follows the frame on the wire at once (R243)
    ((d.sendDown g false).trigger g 3).refreshInh g

/-- Every group that is neither OFF nor PARKED retracts with a cause. -/
def Dev.retractAll (d : Dev) (cause : Nat) : Dev :=
  d.each (List.finRange 4) fun g d =>
    d.when (d.srvState g != stOff && d.srvState g != stParked) (·.retract g cause)

/-- A group is loaded: neither OFF nor PARKED. -/
def Dev.loaded (d : Dev) (g : Grp) : Bool := d.srvState g != stOff && d.srvState g != stParked

end Sys2Proof.Machine
end

