-- ==== Sys2Proof/Machine/MemOps.lean ====
section
/-! DEFINITION. Operations on buffer memory (R460 to R468), the cache (R469 to R476) and the keystone
words (R477 to R480) that several families share. -/

namespace Sys2Proof.Machine

def Dev.onMem (d : Dev) (f : MemSt → MemSt) : Dev := { d with mem := f d.mem }

/-! ### Cells of HBM: rising addresses, no zero byte listed -/

abbrev Cells := List (Nat × Byte)

/-- The canonical form: addresses strictly rising and no listed byte equal to 0. -/
def Cells.wf : Cells → Bool
  | [] => true
  | [(_, b)] => b != 0
  | (a, b) :: (a', b') :: t => b != 0 && decide (a < a') && Cells.wf ((a', b') :: t)

/-- The byte at an address; an unlisted byte is 0 (step 5 of R596). -/
def Cells.read : Cells → Nat → Byte
  | [], _ => 0
  | (a', b) :: t, a => if a = a' then b else Cells.read t a

/-- Insert a byte that is not 0, or replace the one listed. -/
def Cells.put : Cells → Nat → Byte → Cells
  | [], a, b => [(a, b)]
  | (a', b') :: t, a, b =>
    if a < a' then (a, b) :: (a', b') :: t
    else if a = a' then (a, b) :: t
    else (a', b') :: Cells.put t a b

/-- Unlist an address. -/
def Cells.del : Cells → Nat → Cells
  | [], _ => []
  | (a', b') :: t, a => if a = a' then Cells.del t a else (a', b') :: Cells.del t a

/-- Write a byte, keeping the canonical form. -/
def Cells.write (m : Cells) (a : Nat) (b : Byte) : Cells := if b = 0 then m.del a else m.put a b

/-- Write several bytes in order. -/
def Cells.writeAll (m : Cells) (l : List (Nat × Byte)) : Cells :=
  l.foldl (fun m p => m.write p.1 p.2) m

/-- Consecutive bytes from an address. -/
def cellsAt (a : Nat) (bs : List Byte) : List (Nat × Byte) :=
  bs.zipIdx.map fun p => (a + p.2, p.1)

/-! ### Buffers and pseudo-channels (R460, R461) -/

/-- Bytes of buffer memory: 48 GiB. -/
def hbmBytes : Nat := 48 * 2 ^ 30

/-- The pseudo-channel, as 32s + p, of a buffer (R460). -/
def bufPc (b : Nat) : Nat := 32 * (b % 2) + b / 2 % 32

/-- Pseudo-channel q is fenced (R466). -/
def Dev.pcFenced (d : Dev) (q : Nat) : Bool := bit (d.get MEM_PC_FENCE.FENCED 0 (q / 32)) (q % 32)

/-- The mirror bit of a buffer's pair is set (R461). -/
def Dev.mirrored (d : Dev) (b : Nat) : Bool :=
  d.bpm.recs.any fun r => r.buf == b / 2 * 2 && r.mirror

/-- The address of a byte in the other member of its buffer's pair (R461). -/
def mirrorAddr (a : Nat) : Nat := if a / 65536 % 2 = 0 then a + 65536 else a - 65536

/-! ### Bytes as a requester sees them -/

/-- Bytes of HBM written, in the buffer and, where its pair is mirrored, in the mirror; writes to a
fenced pseudo-channel are dropped (R463, R466). Poison leaves the granules written whole. -/
def Dev.hbmWrite (d : Dev) (l : List (Nat × Byte)) : Dev :=
  let twin := l.filterMap fun p =>
    if d.mirrored (p.1 / 65536) then some (mirrorAddr p.1, p.2) else none
  let kept := (l ++ twin).filter fun p => !d.pcFenced (bufPc (p.1 / 65536))
  d.onMem fun m => { m with hbm := Cells.writeAll m.hbm kept }

/-- The lines of the cache that hold a line number. -/
def MemSt.lineOf (m : MemSt) (n : Nat) : Option Line := m.lines.find? fun l => l.line == n

/-- The byte at an address, through the cache. -/
def Dev.memByte (d : Dev) (a : Nat) : Byte :=
  let dirty := ((((d.mem.lineOf (a / 128)).map Line.dirty).getD []) ++
    ((d.mem.misses.find? fun m => m.line == a / 128).map Miss.writes).getD []).reverse.find? fun p => p.1 == a
  match dirty with
  | some p => p.2
  | none =>
    -- held data of a fenced pseudo-channel is served from the other copy (R466)
    let b := if d.pcFenced (bufPc (a / 65536)) && d.mirrored (a / 65536) then mirrorAddr a else a
    if d.pcFenced (bufPc (b / 65536)) then 0 else Cells.read d.mem.hbm b

/-- n bytes from an address. -/
def Dev.memBytes (d : Dev) (a n : Nat) : List Byte := (List.range n).map fun k => d.memByte (a + k)

/-- Show the dirty-line count (R475). -/
def Dev.showDirty (d : Dev) : Dev :=
  let n := (d.mem.lines.filter fun l => !l.dirty.isEmpty).length
  (d.setSat CCH_STATUS.DIRTY n).set CCH_STATUS.MSHR d.mem.misses.length

/-- Write a line's dirty bytes back to HBM; the line stays, clean. -/
def Dev.cleanLine (d : Dev) (n : Nat) : Dev :=
  match d.mem.lineOf n with
  | none => d
  | some l =>
    ((d.hbmWrite l.dirty).onMem fun m =>
      { m with lines := m.lines.map fun l => if l.line = n then { l with dirty := [] } else l }).showDirty

/-- Drop a line. -/
def Dev.dropLine (d : Dev) (n : Nat) : Dev :=
  (d.onMem fun m => { m with lines := m.lines.filter fun l => l.line != n }).showDirty

/-- The state of way w: 0 ACTIVE, 1 CLEANING, 2 OFF, 3 SCRATCH (R473). -/
def Dev.wayState (d : Dev) (w : Nat) : Nat := d.get CCH_WAY_STATUS.WAY / 4 ^ w % 4

def Dev.setWay (d : Dev) (w st : Nat) : Dev :=
  let v := d.get CCH_WAY_STATUS.WAY
  d.set CCH_WAY_STATUS.WAY (v - v / 4 ^ w % 4 * 4 ^ w + st % 4 * 4 ^ w)

/-- Cache states (CCH_STATUS.STATE). -/
def Dev.cacheState (d : Dev) : Nat := d.get CCH_STATUS.STATE

/-- Install a line, evicting a victim of its set where no active way is free: which way pseudo-LRU
names is a free value (R469). -/
def Dev.installLine (d : Dev) (n : Nat) (dirty : List (Nat × Byte)) : Dev :=
  let ways := (List.range 16).filter fun w => d.wayState w == 0
  let inSet := d.mem.lines.filter fun l => l.line % 32768 == n % 32768
  if ways.isEmpty then d.hbmWrite dirty
  else
    match ways.find? fun w => !inSet.any fun l => l.way == w with
    | some w => (d.onMem fun m => { m with lines := m.lines ++ [⟨n, w, dirty⟩] }).showDirty
    | none =>
      let (k, d) := d.draw
      let w := ways.getD (Config.freeValue k % ways.length) 0
      let d := match inSet.find? fun l => l.way == w with
        | some l => (d.cleanLine l.line).dropLine l.line
        | none => d
      (d.onMem fun m => { m with lines := m.lines ++ [⟨n, w, dirty⟩] }).showDirty

/-! ### The merge buffer (R468) -/

/-- Narrow writes pass through the merge buffer in these modes (R467, R468). -/
def Dev.merging (d : Dev) : Bool := d.inMode [.romBoot, .lastLoad, .safe, .makerService]

def Dev.showMerge (d : Dev) : Dev := d.set MEM_STATUS.MERGE d.mem.merge.length

/-- Bytes of lines merge into the lines' miss registers (R471). -/
def MemSt.mergeWrites (m : MemSt) (l : List (Nat × Byte)) : MemSt :=
  { m with misses := m.misses.map fun x => { x with writes := x.writes ++ l.filter fun p => p.1 / 128 == x.line } }

/-- A granule's bytes written below the merge buffer: through the cache where the line is present, into the line's
miss register where one is in use, else in HBM. A narrow write to a poisoned granule is dropped (R465). -/
def Dev.writeBelow (d : Dev) (l : List (Nat × Byte)) : Dev :=
  match l with
  | [] => d
  | (a, _) :: _ =>
    if d.mem.poison.contains (a / 32) && decide (l.length < 32) then d
    else
      let d := d.onMem fun m => { m with poison := m.poison.filter fun p => p != a / 32 }
      let through := d.mirrored (a / 65536) || d.cacheState == 1
      match d.mem.lineOf (a / 128) with
      | some _ =>
        if through then
          (d.onMem fun m => { m with lines := m.lines.map fun x =>
            if x.line = a / 128 then { x with dirty := x.dirty ++ l } else x }).cleanLine (a / 128)
        else (d.onMem fun m => { m with lines := m.lines.map fun x =>
            if x.line = a / 128 then { x with dirty := x.dirty ++ l } else x }).showDirty
      | none =>
        let missed := d.mem.misses.any fun m => m.line == a / 128
        let d := if missed then d.onMem fun m => m.mergeWrites l else d
        if missed && !through then d else d.hbmWrite l

/-- Write an entry of the merge buffer out. -/
def Dev.mergeOut (d : Dev) (g : Nat) : Dev :=
  match d.mem.merge.find? fun e => e.granule == g with
  | none => d
  | some e =>
    ((d.onMem fun m => { m with merge := m.merge.filter fun x => x.granule != g }).writeBelow
      e.bytes).showMerge

/-- Consecutive bytes that fill granules, written by an engine into a buffer: a line that is present, or in a miss
register, takes them too (R463, R470). -/
def Dev.bufWrite (d : Dev) (a : Nat) (bs : List Byte) : Dev :=
  let l := cellsAt a bs
  let inside := fun (g : Nat) => decide (a ≤ 32 * g) && decide (32 * g + 32 ≤ a + bs.length)
  let d := d.each ((d.mem.merge.map Merge.granule).filter inside) fun g d => d.mergeOut g
  let hit := (d.mem.lines.map Line.line).filter fun n => decide (a / 128 ≤ n) && decide (n ≤ (a + bs.length - 1) / 128)
  let d := d.onMem fun m => { m.mergeWrites l with
    poison := m.poison.filter fun g => !inside g
    lines := m.lines.map fun x => if hit.contains x.line then { x with dirty := x.dirty ++ l.filter fun p => p.1 / 128 == x.line } else x }
  let d := d.hbmWrite l
  if hit.isEmpty then d
  else if d.mirrored (a / 65536) || d.cacheState == 1 then d.each hit fun n d => d.cleanLine n
  else d.showDirty

/-- Every entry is written out: before the device leaves a merging mode (R468). -/
def Dev.mergeFlush (d : Dev) : Dev :=
  d.each (d.mem.merge.map Merge.granule) fun g d => d.mergeOut g

/-- A narrow write to a granule through the merge buffer (R468). -/
def Dev.mergeIn (d : Dev) (g : Nat) (l : List (Nat × Byte)) : Dev :=
  let old := d.mem.merge.find? fun e => e.granule == g
  let d := if old.isNone && decide (32 ≤ d.mem.merge.length) then
      match d.mem.merge with
      | e :: _ => d.mergeOut e.granule
      | [] => d
    else d
  let have_ := (old.map Merge.bytes).getD []
  let bytes := have_.filter (fun p => !l.any fun q => q.1 == p.1) ++ l
  let d := (d.onMem fun m =>
    { m with merge := m.merge.filter (fun x => x.granule != g) ++ [⟨g, bytes⟩] }).showMerge
  if bytes.length = 32 then d.mergeOut g else d

/-- A write of consecutive bytes by a requester, granule by granule (R463, R467, R468). -/
def Dev.memWrite (d : Dev) (a : Nat) (bs : List Byte) : Dev :=
  let l := cellsAt a bs
  let gs := (l.map fun p => p.1 / 32).dedup
  d.each gs fun g d =>
    let part := l.filter fun p => p.1 / 32 == g
    if part.length = 32 then (d.mergeOut g).writeBelow part
    else if d.merging then d.mergeIn g part
    else d.writeBelow part

/-! ### Keystone words (R477 to R480) -/

/-- Outcome of a vote. -/
inductive Vote where
  | agree | ce | uc | fence
  deriving DecidableEq, Repr

/-- The vote across the copies that pass their parity (R478, R479). -/
def KsWord.vote (w : KsWord) : Word × Vote :=
  let l := (if w.okA then [w.a] else []) ++ (if w.okB then [w.b] else []) ++
    (if w.okC then [w.c] else [])
  match l with
  | [x, y, z] =>
    if x = y ∧ y = z then (x, .agree)
    else if x = y ∨ x = z then (x, .ce)
    else if y = z then (y, .ce)
    else (w.a, .fence)
  | [x, y] => if x = y then (x, .ce) else (w.a, .fence)
  | [x] => (x, .uc)
  | _ => (w.a, .fence)

/-- Keystone word k is fenced (R479). -/
def Dev.ksFenced (d : Dev) (k : Fin 64) : Bool :=
  if k.val < 32 then bit (d.get MEM_KS_FENCE_LO.FENCED) k else bit (d.get MEM_KS_FENCE_HI.FENCED) (k - 32)

/-- The value of a keystone word: the voted value, copy A of a fenced word (R478, R479). -/
def Dev.ks (d : Dev) (k : Fin 64) : Word :=
  if d.ksFenced k then d.mem.ks[k].a else d.mem.ks[k].vote.1

/-- A write of all three copies by the word's owner; none to a fenced word (R479, R480). -/
def Dev.ksWrite (d : Dev) (k : Fin 64) (v : Word) : Dev :=
  if d.ksFenced k then d
  else d.onMem fun m =>
    { m with ks := m.ks.set k { a := v, b := v, c := v, reported := m.ks[k].reported } }

end Sys2Proof.Machine
end

