-- ==== Sys2Proof/Machine/BpmOps.lean ====
section
/-! DEFINITION. The buffer pool's operations (R483 to R494), as every block's port and BPM_CMD use
them. -/

namespace Sys2Proof.Machine

def Dev.onBpm (d : Dev) (f : BpmSt → BpmSt) : Dev := { d with bpm := f d.bpm }

/-- Buffers of the device, and of one pseudo-channel (R460, R466). -/
def bufTotal : Nat := 786432

/-- The buffer is one of the pool's (R483). -/
def Dev.inPool (d : Dev) (b : Nat) : Bool :=
  decide (b + d.bpm.cmb < bufTotal) && !d.pcFenced (bufPc b) && !d.bpm.unusable.contains b

/-- The record of an allocated buffer. -/
def Dev.bufRec (d : Dev) (b : Nat) : Option BufRec := d.bpm.recs.find? fun r => r.buf == b

/-- A free buffer of the pool. -/
def Dev.bufFree (d : Dev) (b : Nat) : Bool := d.inPool b && (d.bufRec b).isNone

/-- Buffers of a requester, counted against its quota (R486, R488). -/
def Dev.bufsOf (d : Dev) (r : Nat) : Nat := (d.bpm.recs.filter fun x => x.owner == r).length

/-- Show the use of a requester. -/
def Dev.showUse (d : Dev) (r : Nat) : Dev :=
  (d.setSat BPM_USE.IN_USE (d.bufsOf r) 0 r).set BPM_USE.WAITING
    (d.bpm.waiting.any fun w => w.1 == r).toNat 0 r

/-- Set the free count, with LOW on a fall below WM (BPM_LOW_WM). -/
def Dev.setFree (d : Dev) (n : Nat) : Dev :=
  let wm := d.get BPM_LOW_WM.WM
  let old := d.get BPM_FREE.COUNT
  (d.set BPM_FREE.COUNT n).when (decide (wm ≤ old) && decide (n < wm)) (·.raise BPM_INT_STATUS.LOW)

/-- The unused parts of the other requesters' guarantees (R486). -/
def Dev.reserved (d : Dev) (r : Nat) : Nat :=
  ((List.range 128).map fun x =>
    if x = r then 0 else d.get BPM_QUOTA.RESERVE 0 x * 16 - d.bufsOf x).sum

/-- Statuses of BPM_RESULT0.STATUS. -/
abbrev bpmOk : Nat := 0
abbrev bpmDoubleFree : Nat := 1
abbrev bpmNotOwner : Nat := 2
abbrev bpmShareOut : Nat := 3
abbrev bpmNoShare : Nat := 4
abbrev bpmQuota : Nat := 5
abbrev bpmEmpty : Nat := 6
abbrev bpmRange : Nat := 7
abbrev bpmFenced : Nat := 8

/-- The status of an ALLOC of n buffers now: 0 where it can be granted (R485, R486, R494). -/
def Dev.allocStatus (d : Dev) (r n : Nat) : Nat :=
  if 82 ≤ r then bpmRange
  else if d.flt.requesters.contains r then bpmFenced
  else if d.get BPM_QUOTA.MAX 0 r * 16 < d.bufsOf r + n then bpmQuota
  else if d.get BPM_FREE.COUNT < n + d.reserved r then bpmEmpty
  else bpmOk

/-- A free buffer (the even member of a free pair, for a mirrored one) in the next pseudo-channel of
the rotation that has one (R488, R489); which buffer of the pseudo-channel is a free value. -/
def Dev.pickBuf (d : Dev) (mirror : Bool) : Option Nat × Dev :=
  let rot := (List.range 64).map fun k => (d.bpm.lastPc + 1 + k) % 64
  let ok := fun b => d.bufFree b && (!mirror || (b % 2 == 0 && d.bufFree (b + 1)))
  match rot.find? fun q => (List.range 12288).any fun k => ok (64 * k + q) with
  | none => (none, d)
  | some q =>
    let free := ((List.range 12288).map fun k => 64 * k + q).filter ok
    let (k, d) := d.draw
    (some (free.getD (Config.freeValue k % free.length) 0), d.onBpm fun p => { p with lastPc := q })

/-- Take one buffer, or one mirrored pair, for a requester. -/
def Dev.takeBuf (d : Dev) (r : Nat) (mirror : Bool) : Option Nat × Dev :=
  match d.pickBuf mirror with
  | (none, d) => (none, d)
  | (some b, d) =>
    let new := if mirror then [⟨b, r, 0, true, false⟩, ⟨b + 1, r, 0, true, true⟩]
      else [(⟨b, r, 0, false, false⟩ : BufRec)]
    (some b, (d.onBpm fun p => { p with recs := p.recs ++ new }).setFree
      (d.get BPM_FREE.COUNT - new.length))

/-- Take n buffers or pairs. -/
def Dev.takeBufs (d : Dev) (r : Nat) (mirror : Bool) : Nat → List Nat × Dev
  | 0 => ([], d)
  | n + 1 =>
    let (b, d) := d.takeBuf r mirror
    let (l, d) := d.takeBufs r mirror n
    (b.toList ++ l, d)

/-- ALLOC: the status, and the buffers where it is 0: all that are asked for, or none (R486, R488). -/
def Dev.alloc (d : Dev) (r n : Nat) (mirror : Bool) : Nat × List Nat × Dev :=
  let st := d.allocStatus r (if mirror then 2 * n else n)
  if st != bpmOk then (st, [], d)
  else
    let (l, d') := d.takeBufs r mirror n
    if l.length < n then (bpmEmpty, [], d) else (bpmOk, l, d'.showUse r)

/-- Update the record of a buffer, and of its pair's odd member. -/
def Dev.setRec (d : Dev) (b : Nat) (f : BufRec → BufRec) : Dev :=
  d.onBpm fun p => { p with recs := p.recs.map fun r =>
    if r.buf = b || (r.odd && r.buf = b + 1) then f r else r }

/-- A freed buffer, or pair, goes back to the pool, or leaves it where a member lies in a fenced
pseudo-channel (R493). -/
def Dev.giveBack (d : Dev) (r : BufRec) : Dev :=
  let both := if r.mirror then [r.buf, r.buf + 1] else [r.buf]
  let bad := both.any fun b => d.pcFenced (bufPc b)
  let good := both.filter fun b => !d.pcFenced (bufPc b)
  let d := d.onBpm fun p => { p with recs := p.recs.filter fun x => !both.contains x.buf }
  if bad then
    ((d.onBpm fun p => { p with unusable := p.unusable ++ good }).set BPM_POOL.COUNT
      (d.get BPM_POOL.COUNT - good.length)).raise BPM_INT_STATUS.RETIRE
  else d.setFree (d.get BPM_FREE.COUNT + both.length)

/-- The status of a FREE (R491). -/
def Dev.freeStatus (d : Dev) (r b : Nat) : Nat :=
  if 82 ≤ r || bufTotal ≤ b + d.bpm.cmb then bpmRange
  else match d.bufRec b with
    | none => bpmDoubleFree
    | some x =>
      if x.odd then bpmNotOwner else if x.owner != r then bpmNotOwner
      else if x.shares != 0 then bpmShareOut else bpmOk

/-- The status of a RELEASE (R491). -/
def Dev.releaseStatus (d : Dev) (r b : Nat) : Nat :=
  if 82 ≤ r || bufTotal ≤ b + d.bpm.cmb then bpmRange
  else match d.bufRec b with
    | none => bpmDoubleFree
    | some x =>
      if x.odd then bpmNotOwner else if x.shares = 0 then bpmNoShare
      else if x.owner = r then bpmNotOwner else bpmOk

/-- The status of a SHARE (R485, R488, R490). -/
def Dev.shareStatus (d : Dev) (r b k last : Nat) : Nat :=
  if 82 ≤ r || 82 ≤ last || k = 0 || bufTotal ≤ b + d.bpm.cmb then bpmRange
  else match d.bufRec b with
    | none => bpmNotOwner
    | some x =>
      if x.odd || x.owner != r then bpmNotOwner
      else if 255 < x.shares + k then bpmRange else bpmOk

/-- FREE of a buffer that R491 accepts. -/
def Dev.freeBuf (d : Dev) (r b : Nat) : Dev :=
  match d.bufRec b with
  | none => d
  | some x => if d.freeStatus r b = bpmOk then (d.giveBack x).showUse r else d

/-- Free a command's buffers under its function's identifier (R439, R485). -/
def Dev.freeBufs (d : Dev) (r : Nat) (l : List Nat) : Dev := d.each l fun b d => d.freeBuf r b

/-- The first of a list of waiting requests that can be granted whole, with its grant. -/
def Dev.firstGrant (d : Dev) : List (Nat × Nat × Bool) → Option ((Nat × Nat × Bool) × List Nat × Dev)
  | [] => none
  | w :: t =>
    let (st, l, d') := d.alloc w.1 w.2.1 w.2.2
    if st = bpmOk then some (w, l, d') else d.firstGrant t

/-- Grant the waiting port requests that now fit, in the order of R487: the oldest request of each
requester, from the requester after the one served last. -/
def Dev.serveAllocs (d : Dev) : Nat → Dev
  | 0 => d
  | n + 1 =>
    let order := (List.range 128).map fun k => (d.bpm.served + 1 + k) % 128
    match d.firstGrant (order.filterMap fun r => d.bpm.waiting.find? fun w => w.1 == r) with
    | none => d
    | some (w, l, d) =>
      ((d.onBpm fun p => { p with waiting := p.waiting.erase w, served := w.1, answer := (bpmOk, l) }).showUse
        w.1).serveAllocs n

end Sys2Proof.Machine
end

