-- ==== Sys2Proof/Machine/GroupOps.lean ====
section
/-! DEFINITION. Bands, mapping (R331 to R335), group states (R357 to R361), the held portion's limit
(R314), the journal's pending records (R371 to R373) and the lost-block table (R387). -/

namespace Sys2Proof

open Sys2Proof.Machine (headsOf popcount8)

/-- Data members of a band (R331). -/
def BandEntry.data (e : BandEntry) : Nat := popcount8 e.members - (if e.pq then 2 else 1)

/-- The P member at a cylinder, and the Q member, as member numbers (R332). -/
def BandEntry.pPos (e : BandEntry) (c : Nat) : Nat :=
  let w := popcount8 e.members
  w - 1 - c % (max w 1)

def BandEntry.qPos (e : BandEntry) (c : Nat) : Nat :=
  let w := popcount8 e.members
  (e.pPos c + w - 1) % (max w 1)

/-- Head indices of the data members at a cylinder, in data-index order (R332). -/
def BandEntry.dataHeads (e : BandEntry) (c : Nat) : List HeadIx :=
  ((headsOf e.members).zipIdx.filter fun p =>
    p.2 != e.pPos c && !(e.pq && p.2 == e.qPos c)).map Prod.fst

/-- Missing members of a band under a failed mask (R358). -/
def BandEntry.missing (e : BandEntry) (failed : Nat) : Nat := popcount8 (e.members &&& failed)

def BandEntry.tolerance (e : BandEntry) : Nat := if e.pq then 2 else 1

end Sys2Proof

namespace Sys2Proof.Machine

def Dev.onBand (d : Dev) (f : BandSt → BandSt) : Dev := { d with band := f d.band }
def Dev.onQue (d : Dev) (f : QueSt → QueSt) : Dev := { d with que := f d.que }

/-! ### Almanac events -/

/-- An almanac record of a class whose event code the spec leaves open (R550): fields of 32 bits in
the order named. -/
def Dev.event (d : Dev) (cls kind : Nat) (vals : List Nat) : Dev :=
  d.record (cls * 256 + Config.almEvent kind % 256) (fields32 vals)

/-! ### Welts (R331 to R335) -/

/-- ZB of every zone, ascending, from the first welt of the group (R333). -/
def weltBases : Nat → List Zone → List Nat
  | _, [] => []
  | b, [_] => [b]
  | b, z :: z' :: t => b :: weltBases (b + (z'.firstCyl - z.firstCyl) * z.spt) (z' :: t)

def Dev.bases (d : Dev) (g : Grp) : List Nat := weltBases 0 d.zones[g]

/-- Cylinders of a group (R52). -/
def Dev.cyls (d : Dev) (g : Grp) : Nat := (d.band.layout[g].map ImgGroup.cyls).getD 0

/-- Welts of a group. -/
def Dev.welts (d : Dev) (g : Grp) : Nat :=
  match d.zones[g].getLast?, (d.bases g).getLast? with
  | some z, some b => b + (d.cyls g - z.firstCyl) * z.spt
  | _, _ => 0

/-- Cylinder and sector index of a welt (R333, R335). -/
def Dev.locate (d : Dev) (g : Grp) (w : Nat) : Nat × Nat :=
  let bs := d.bases g
  let z := (bs.filter fun b => decide (b ≤ w)).length - 1
  let zn := d.zone g z
  let r := w - bs.getD z 0
  if zn.spt = 0 then (zn.firstCyl, 0) else (zn.firstCyl + r / zn.spt, r % zn.spt)

/-- The welt at a cylinder and sector index (R333). -/
def Dev.weltAt (d : Dev) (g : Grp) (cyl sect : Nat) : Nat :=
  let z := d.zoneIx g cyl
  (d.bases g).getD z 0 + (cyl - (d.zone g z).firstCyl) * (d.zone g z).spt + sect

/-- Welts of a band with D data members (R334). -/
def weltCount (data : Nat) : Nat := if data = 0 then 0 else (2 ^ 18 + data - 1) / data

/-- Where an LBA lies. -/
structure Place where
  grp : Grp
  band : Nat
  welt : Nat
  cyl : Nat
  sect : Nat
  head : HeadIx
  j : Nat
  deriving DecidableEq, Repr

def Dev.bandAt (d : Dev) (n : Nat) : Option BandEntry :=
  (d.band.dir.find? fun p => p.1 == n).map Prod.snd

/-- The namespace of an NSID. -/
def Dev.nsOf (d : Dev) (nsid : Nat) : Option Ns := d.band.ns.find? fun n => n.nsid == nsid

/-- A namespace's map entry: no entry, a hole, or a band (R352). -/
def Dev.mapOf (d : Dev) (nsid e : Nat) : Option (Option Nat) :=
  (d.band.maps.find? fun m => m.1 == nsid && m.2.1 == e).map fun m => m.2.2

/-- The place of offset off of a band (R335). -/
def Dev.placeIn (d : Dev) (band : Nat) (e : BandEntry) (off : Nat) : Place :=
  let w := e.startWelt + off / max e.data 1
  let j := off % max e.data 1
  let (c, k) := d.locate e.group w
  ⟨e.group, band, w, c, k, (e.dataHeads c).getD j 0, j⟩

/-- User bands of a namespace: U of R348. -/
def Ns.bands (n : Ns) : Nat := n.nsze / 2 ^ 18

/-- The place of an LBA (kind 0) or of a tag-store sector (kind 1) (R335, R348). -/
def Dev.place (d : Dev) (nsid lba kind : Nat) : Option Place :=
  match d.nsOf nsid with
  | none => none
  | some n =>
    let e := if kind = 0 then lba / 2 ^ 18 else n.bands + lba / 2 ^ 18
    match d.mapOf nsid e with
    | some (some b) => (d.bandAt b).map fun be => d.placeIn b be (lba % 2 ^ 18)
    | _ => none

/-! ### Group states -/

abbrev gsOnline : Nat := 0
abbrev gsDegraded : Nat := 1
abbrev gsRebuilding : Nat := 2
abbrev gsReshaping : Nat := 3
abbrev gsOffline : Nat := 4

def Dev.grpState (d : Dev) (g : Grp) : Nat := d.get CBL_GRP.STATE 0 g

/-- The group's failed-member mask (R357). -/
def Dev.failedMask (d : Dev) (g : Grp) : Nat := d.get CBL_GRP.FAILED 0 g

/-- The group is fenced (R541). -/
def Dev.grpFenced (d : Dev) (g : Grp) : Bool := bit (d.get FLT_FENCED_MISC.GROUP) g

/-- A FLUSH area of the group is being re-created (R380). -/
def Dev.recreating (d : Dev) (g : Grp) : Bool :=
  d.band.ops.any fun o => (match o.kind with | .rebuild x _ | .reshape x _ => x == g | _ => false) &&
    o.phase == 3 && (o.todo.take 1).any fun b => ((d.bandAt b).map BandEntry.state).getD 0 == 5

/-- The group has heads, is not OFFLINE and not fenced (R541). -/
def Dev.serves (d : Dev) (g : Grp) : Bool := d.hasHeads g && d.grpState g != gsOffline && !d.grpFenced g

/-- The group counts in G_live (R314); it does not while a FLUSH area of it is re-created (R380). -/
def Dev.live (d : Dev) (g : Grp) : Bool := d.serves g && !d.recreating g

/-- Keystone words of group g (R477). -/
def ksState (g : Grp) : Fin 64 := ⟨2 + g.val, by omega⟩
def ksFailed (g : Grp) : Fin 64 := ⟨6 + g.val, by omega⟩

/-- A group state with its keystone word and STATE_CHANGE (R359). -/
def Dev.setGrpState (d : Dev) (g : Grp) (st : Nat) : Dev :=
  if d.grpState g = st then d
  else ((d.set CBL_GRP.STATE st 0 g).ksWrite (ksState g) (BitVec.ofNat 32 st)).raise
    CBL_INT_STATUS.STATE_CHANGE

/-- Bands of a group, by area number ascending. -/
def Dev.bandsOf (d : Dev) (g : Grp) : List (Nat × BandEntry) :=
  d.band.dir.filter fun p => p.2.group == g

/-- Band states (R351). -/
abbrev bsFree : Nat := 0
abbrev bsUser : Nat := 1
abbrev bsTag : Nat := 2
abbrev bsSpare : Nat := 3
abbrev bsReserve : Nat := 4
abbrev bsFlush : Nat := 5
abbrev bsJournal : Nat := 6
abbrev bsAlmanac : Nat := 7
abbrev bsStaged : Nat := 8
abbrev bsRetired : Nat := 9

/-- A state whose missing members decide OFFLINE (R358). -/
def holdsData (st : Nat) : Bool := st == bsUser || st == bsTag || st == bsAlmanac

/-- A band's missing members exceed its tolerance (R358). -/
def Dev.beyond (d : Dev) (g : Grp) : Bool :=
  (d.bandsOf g).any fun p => holdsData p.2.state &&
    decide (p.2.tolerance < p.2.missing (d.failedMask g))

/-- Some band of the group is missing a member. -/
def Dev.anyMissing (d : Dev) (g : Grp) : Bool :=
  (d.bandsOf g).any fun p => p.2.state != bsFree && p.2.state != bsRetired &&
    decide (0 < p.2.missing (d.failedMask g))

/-! ### The journal's pending records (R371, R373) -/

/-- Add a record to the pending log sector. -/
def Dev.logRec (d : Dev) (r : LogRec) : Dev := d.onBand fun b => { b with pending := b.pending ++ [r] }

/-- The current journal epoch (CBL_EPOCH, keystone word 1). -/
def Dev.epoch (d : Dev) : Nat := d.get CBL_EPOCH.EPOCH

/-- Epoch a is at most epoch b (R372). -/
def epochLe (a b : Nat) : Bool := decide ((b + 2 ^ 32 - a % 2 ^ 32) % 2 ^ 32 < 2 ^ 31)

/-! ### The lost-block table (R387) -/

/-- A change of the lost-block table: entries that go and entries that come, each with its log record (R371, R373). -/
def Dev.putLost (d : Dev) (gone new : List Lost) : Dev :=
  let d := d.onBand fun b => { b with lost := b.lost.filter (fun x => !gone.contains x) ++ new }
  let d := (d.each gone fun l d => d.logRec (.lost false l)).each new fun l d => d.logRec (.lost true l)
  d.set CBL_LBT.ENTRIES d.band.lost.length

/-- Entries of one band fold into one that covers the band; the table is full (R387). -/
def Dev.foldLost (d : Dev) (l : Lost) : Dev :=
  let band := l.lba / 2 ^ 18
  d.putLost ((d.band.lost.filter fun x => x.nsid == l.nsid && x.lba / 2 ^ 18 == band).dedup)
    [{ l with lba := band * 2 ^ 18, count := 2 ^ 18 }]

/-- Enter LBAs in the lost-block table (R387). -/
def Dev.addLost (d : Dev) (nsid lba count cause : Nat) : Dev :=
  let l : Lost := ⟨lba, nsid, cause, count, d.epoch⟩
  (if decide (131072 ≤ d.band.lost.length) then d.foldLost l else d.putLost [] [l]).raise CBL_INT_STATUS.LOST_BLOCK

/-- The entries that remain of one after LBAs lba .. lba + n - 1 leave it. -/
def Lost.without (l : Lost) (lba n : Nat) : List Lost :=
  if l.lba + l.count ≤ lba ∨ lba + n ≤ l.lba then [l]
  else
    (if l.lba < lba then [{ l with count := lba - l.lba }] else []) ++
    (if lba + n < l.lba + l.count then
      [{ l with lba := lba + n, count := l.lba + l.count - (lba + n) }] else [])

/-- Remove LBAs of a namespace from the table (R387). -/
def Dev.dropLost (d : Dev) (nsid lba n : Nat) : Dev :=
  let hit := (d.band.lost.filter fun l => l.nsid == nsid && l.without lba n != [l]).dedup
  if hit.isEmpty then d else d.putLost hit (hit.flatMap fun l => l.without lba n)

/-- An LBA is listed. -/
def Dev.isLost (d : Dev) (nsid lba : Nat) : Bool :=
  d.band.lost.any fun l => l.nsid == nsid && decide (l.lba ≤ lba) && decide (lba < l.lba + l.count)

/-- Runs of consecutive numbers in an ascending list: first and count. -/
def runsOf : List Nat → List (Nat × Nat)
  | [] => []
  | a :: t => match runsOf t with
    | (b, n) :: r => if b = a + 1 then (a, n + 1) :: r else (a, 1) :: (b, n) :: r
    | [] => [(a, 1)]

/-- A sector is lost: a user LBA with the cause given, the 512 LBAs of a tag-store sector with cause 3 (R350, R387); LBAs listed
already stay as they are. -/
def Dev.loseSector (d : Dev) (nsid addr kind cause : Nat) : Dev :=
  let lbas := if kind = 0 then [addr] else if kind = 1 then (List.range 512).map (addr * 512 + ·) else []
  d.each (runsOf (lbas.filter fun l => !d.isLost nsid l)) fun r d => d.addLost nsid r.1 r.2 (if kind = 0 then cause else 3)

/-! ### The held portion (R312 to R314) -/

/-- Buffers in the held portion: those of granted write commands, from the grant on, and those of held sectors
(R436). -/
def Dev.heldBufs (d : Dev) : Nat :=
  let granted := (d.que.cmds.filter fun c => (c.stage == .data || c.stage == .media) &&
    (match c.cmd with | .write _ | .writeZeroes | .copy _ _ => true | _ => false)).flatMap Cmd.bufs
  (granted ++ d.que.held.map Held.buf).dedup.length

/-- The held portion is empty. -/
def Dev.heldEmpty (d : Dev) : Bool := d.que.held.isEmpty && d.heldBufs == 0

/-- Show the held portion in MiB, rounded up (RMT_STATUS.HELD). -/
def Dev.showHeld (d : Dev) : Dev := d.setSat RMT_STATUS.HELD ((d.heldBufs + 15) / 16)

/-- S_b in 1/16 rpm (R303). -/
def bandSpeed (b : Nat) : Nat :=
  if b = 0 then 67200 else if b < 23 then 69000 + 3600 * b else 153600

/-- The band of a target speed, from the band edges of R210. -/
def bandOfSpeed (s : Nat) : Nat := if s < 4425 * 16 then 0 else min 23 ((s - 4425 * 16) / (225 * 16) + 1)

/-- The published band (R292). -/
def Dev.pubBand (d : Dev) : Nat := d.spn.band

/-- The band of SPN_TARGET. -/
def Dev.tgtBand (d : Dev) : Nat := bandOfSpeed (d.get SPN_TARGET.TARGET)

/-- The held-portion limit of a band in buffers of 64 KiB: L × G_live / G (R314). -/
def Dev.limitOf (d : Dev) (b : Nat) : Nat :=
  let all := (List.finRange 4).filter fun (g : Grp) => d.hasHeads g
  let alive := all.filter fun g => d.live g
  if all.isEmpty then 0 else d.get RMT_HELD_LIMIT.LIMIT 0 b * 16 * alive.length / all.length

/-- The limit in force: of the lower of the published band and the target's, and of the band to which a downward move waits
(R308, R314). -/
def Dev.heldLimit (d : Dev) : Nat := d.limitOf (min (min d.pubBand d.tgtBand) (d.rmt.waits.getD 23))

/-- Rate matching runs (R304). -/
def Dev.rmtRuns (d : Dev) : Bool := d.on RMT_CTRL.EN && d.inMode [.active, .glide, .lightIdle, .deepIdle]

/-- Bytes that count as host demand in the present window: media reads of the host, and granted write data (R305). -/
def Dev.demand (d : Dev) (lbas : Nat) : Dev :=
  if d.rmtRuns then { d with rmt := { d.rmt with bytes := d.rmt.bytes + 4096 * lbas } } else d

/-! ### Journal copies (R366, R367) -/

/-- Groups that may take a copy, in the order of R366. -/
def Dev.eligible (d : Dev) : List Grp :=
  let of := fun st => (List.finRange 4).filter fun (g : Grp) =>
    d.serves g && d.grpState g == st
  let on := of gsOnline
  if 2 ≤ on.length then on else on ++ of gsDegraded

/-- The group that takes a new copy: the first eligible one that holds none (R366, R367). -/
def Dev.freshCopy (d : Dev) : Option Grp :=
  d.eligible.find? fun x => x.val != d.get CBL_JNL.COPY_A && !(d.on CBL_JNL.B_VALID && x.val == d.get CBL_JNL.COPY_B)

/-- The JOURNAL band of a group. -/
def Dev.journalBand (d : Dev) (g : Grp) : Option (Nat × BandEntry) :=
  (d.bandsOf g).find? fun p => p.2.state == bsJournal

/-- The copies that commits and checkpoints are written to: A false, B true, with their groups (R366, R367). While a new copy is
built, the one that it replaces, A before B, is out of use; an impaired copy else stays in use. -/
def Dev.jnlCopies (d : Dev) : List (Bool × Grp) :=
  let ga : Grp := ⟨d.get CBL_JNL.COPY_A % 4, by omega⟩
  let gb : Grp := ⟨d.get CBL_JNL.COPY_B % 4, by omega⟩
  let building := d.on CBL_JNL.BUILDING
  let outA := building && d.on CBL_JNL.A_IMPAIRED
  let outB := building && !outA && d.on CBL_JNL.B_IMPAIRED
  let use := fun (g : Grp) => d.serves g && (d.journalBand g).isSome
  (if use ga && !outA then [(false, ga)] else []) ++
    (if d.on CBL_JNL.B_VALID && use gb && !outB then [(true, gb)] else [])

/-- A group left ONLINE or went OFFLINE: a copy in it is impaired, and a new copy is built in the
next eligible group (R367). -/
def Dev.journalCheck (d : Dev) (g : Grp) : Dev :=
  let st := d.grpState g
  let bad := st == gsDegraded || st == gsRebuilding || st == gsOffline
  let a := bad && d.get CBL_JNL.COPY_A == g.val
  let b := bad && d.on CBL_JNL.B_VALID && d.get CBL_JNL.COPY_B == g.val
  let d := d.when a (·.set CBL_JNL.A_IMPAIRED 1)
  let d := d.when b (·.set CBL_JNL.B_IMPAIRED 1)
  d.when ((a || b) && d.freshCopy.isSome) (·.set CBL_JNL.BUILDING 1)

/-! ### Held data of an OFFLINE group (R365) -/

/-- The buffers that no command and no held sector uses go back to the pool (R433, R22 step 10). -/
def Dev.freeUnused (d : Dev) (l : List Nat) : Dev :=
  d.each l fun b d =>
    if d.que.held.any (fun h => h.buf == b) || d.que.cmds.any (fun c => c.bufs.contains b) then d
    else match d.bufRec b with
      | some r => d.freeBuf r.owner b
      | none => d

/-- Discard the held sectors that lie in a group and enter their LBAs as lost. -/
def Dev.dropHeldOf (d : Dev) (g : Grp) : Dev :=
  let gone := d.que.held.filter fun h =>
    match d.place h.nsid h.lba h.kind with
    | some p => p.grp == g
    | none => false
  let d := (d.onQue fun q => { q with held := q.held.filter fun h => !gone.contains h }).freeUnused (gone.map Held.buf)
  (d.each gone fun h d => d.loseSector h.nsid h.lba h.kind 6).showHeld

/-- The group goes OFFLINE (R358, R365). -/
def Dev.goOffline (d : Dev) (g : Grp) : Dev :=
  ((d.setGrpState g gsOffline).dropHeldOf g).journalCheck g

/-! ### The band table (R351 to R355) -/

/-- List an entry under its band number, in rising order. -/
def putEntry : List (Nat × BandEntry) → Nat → BandEntry → List (Nat × BandEntry)
  | [], n, e => [(n, e)]
  | (m, x) :: t, n, e =>
    if n < m then (n, e) :: (m, x) :: t else if n = m then (n, e) :: t else (m, x) :: putEntry t n e

/-- A map with one entry set. -/
def putMap (l : List (Nat × Nat × Option Nat)) (m : Nat × Nat × Option Nat) :
    List (Nat × Nat × Option Nat) :=
  l.filter (fun x => !(x.1 == m.1 && x.2.1 == m.2.1)) ++ [m]

/-- The directory after a change; an entry that is FREE with all-zero fields is not listed. -/
def Dev.dirAfter (d : Dev) (c : BandChange) : List (Nat × BandEntry) :=
  c.dir.foldl (fun l p =>
    if p.2.state = bsFree ∧ p.2.members = 0 then l.filter fun x => x.1 != p.1 else putEntry l p.1 p.2) d.band.dir

/-- Write a new band table: the HBM copy, the root, and the records of the commit path (R354, R355, R373). A group that the
change leaves beyond the tolerance of a band goes OFFLINE (R358, R359). -/
def Dev.writeTable (d : Dev) (c : BandChange) : Dev :=
  let gen := (d.band.gen + 1) % 2 ^ 32
  let dir := d.dirAfter c
  let d := d.onBand fun b => { b with dir := dir, maps := c.maps.foldl putMap b.maps, gen := gen }
  let d := d.ksWrite 0 (BitVec.ofNat 32 gen)
  let d := d.each c.dir fun p d => d.logRec (.band p.1 p.2)
  d.each ((List.finRange 4).filter fun g => c.dir.any fun p => p.2.group == g) fun g d =>
    if d.grpState g != gsOffline && d.beyond g then d.goOffline g else d

/-! ### Rebuild and reshape (R360, R361, R379, R380) -/

/-- SPARE areas that relocations of the group build bands in: RETIRED while they run, they count as SPARE (R379, R389). -/
def Dev.relocTargets (d : Dev) (g : Grp) : List Nat :=
  d.band.ops.filterMap fun o => match o.kind with
    | .relocate x s => if x = g then some s else none
    | _ => none

/-- The new width and extents of the areas that are kept, or why the reserve check fails: 1 width,
2 base, 3 an area's extent, 4 the flush extents (R379); `heads` heads are excluded. -/
def Dev.reserveCheck (d : Dev) (g : Grp) (heads : Nat := 1) : Nat × Nat × Nat :=
  let w' := d.get CBL_GRP.WIDTH 0 g - heads
  let pq := (d.band.layout[g].map ImgGroup.pq).getD false
  let n' := weltCount (w' - (if pq then 2 else 1))
  let spared := d.relocTargets g
  let kept := (d.bandsOf g).filter fun p => p.2.state != bsReserve && p.2.state != bsStaged &&
    (p.2.state != bsRetired || spared.contains p.1)
  let total := d.welts g
  let base := total - kept.length * n'
  let bad := kept.any fun p => (holdsData p.2.state || p.2.state == bsSpare || p.2.state == bsFree ||
    p.2.state == bsRetired) &&
    decide (base + p.1 % 32768 * n' < p.2.startWelt + weltCount p.2.data)
  let zone1 := (d.bases g).getD 1 total
  let flushBad := kept.any fun p => p.2.state == bsFlush &&
    decide (zone1 < base + (p.1 % 32768 + 1) * n')
  let why := if w' < 3 then 1 else if total < kept.length * n' then 2 else if bad then 3
    else if flushBad then 4 else 0
  (why, base, n')

/-- Band number of a group's staging entry (R381). -/
def stagingOf (g : Grp) : Nat := g.val * 32768 + 32767

/-- An entry of no band. -/
def noBand (g : Grp) : BandEntry := ⟨g, 0, bsFree, false, 0, 0, 0⟩

/-- The cobbler's cursor of a group: the CURSOR record, its keystone word, and what a checkpoint keeps (R371, R381, R384). With
operation 0 no copy is under way (DEDUCED, log entry 147). -/
def Dev.logCursor (d : Dev) (g : Grp) (op b copied : Nat) : Dev :=
  let d := d.onBand fun x => { x with cursor := x.cursor.set g (if op = 0 then none else some (op, b)) }
  (d.logRec (.cursor g op b copied)).ksWrite ⟨10 + g.val, by omega⟩ (BitVec.ofNat 32 b)

/-- A relocation of the group is dropped: its SPARE area comes back and its staging entry goes. -/
def Dev.dropRelocations (d : Dev) (g : Grp) : Dev :=
  let mine := d.relocTargets g
  if mine.isEmpty then d
  else
    let back := mine.filterMap fun s => (d.bandAt s).map fun e => (s, { e with state := bsSpare })
    let d := d.writeTable ⟨back ++ [(stagingOf g, noBand g)], []⟩
    d.onBand fun b => { b with ops := b.ops.filter fun o => match o.kind with
      | .relocate x _ => x != g
      | _ => true }

/-- Begin a rebuild or a reshape whose check has passed (R379, R380): RESERVE becomes RETIRED, and
the areas are handled in descending order. -/
def Dev.beginCopy (d : Dev) (g : Grp) (kind : OpKind) (byCmd : Bool := false) : Dev :=
  let d := d.dropRelocations g
  let d := d.writeTable ⟨((d.bandsOf g).filter fun p => p.2.state == bsReserve).map fun p =>
    (p.1, { p.2 with state := bsRetired }), []⟩
  let areas := ((d.bandsOf g).filter fun p => p.2.state != bsRetired && p.2.state != bsStaged).map
    Prod.fst
  let todo := areas.reverse
  let d := d.onBand fun b =>
    { b with ops := b.ops ++ [{ kind := kind, todo := todo, total := todo.length, byCmd := byCmd }] }
  ((d.set CBL_PROGRESS.DONE 0 0 g).setSat CBL_PROGRESS.TOTAL todo.length 0 g).set
    CBL_GRP.RESERVE_SHORT 0 0 g

/-- The reserve check failed: RESERVE_SHORT and the almanac record that names the check (R359). -/
def Dev.reserveShort (d : Dev) (g : Grp) (why : Nat) : Dev :=
  ((d.set CBL_GRP.RESERVE_SHORT 1 0 g).raise CBL_INT_STATUS.RESERVE_SHORT).event 0x05 10 [g, why]

/-- Failed heads that some band of the group still names. -/
def Dev.namedFailed (d : Dev) (g : Grp) : Nat :=
  ((d.bandsOf g).filter fun p => p.2.state != bsRetired && p.2.state != bsFree).foldl
    (fun m p => m ||| (p.2.members &&& d.failedMask g)) 0

/-- Start a rebuild of a DEGRADED group (R359, R361). -/
def Dev.startRebuild (d : Dev) (g : Grp) (byCmd : Bool := false) : Dev :=
  let m := d.namedFailed g
  let why := (d.reserveCheck g (popcount8 m)).1
  if why != 0 then d.reserveShort g why
  else ((d.beginCopy g (.rebuild g m) byCmd).setGrpState g gsRebuilding).journalCheck g

/-- The failed-member mask of a group: its register field, its keystone word, and what the media keep until the group is formatted
(R357). -/
def Dev.setFailed (d : Dev) (g : Grp) (m : Nat) : Dev :=
  let d := (d.set CBL_GRP.FAILED m 0 g).ksWrite (ksFailed g) (BitVec.ofNat 32 m)
  { d with media := { d.media with failed := d.media.failed.set g m } }

/-- A head becomes a failed member of its group (R357 to R359, R361, R385). -/
def Dev.memberFailed (d : Dev) (g : Grp) (i : HeadIx) : Dev :=
  if bit (d.failedMask g) i then d
  else
    let d := d.setFailed g (setBit (d.failedMask g) i)
    let named := (d.bandsOf g).any fun p => bit p.2.members i && p.2.state != bsRetired
    let st := d.grpState g
    if st == gsOffline || !named then d
    else if d.beyond g then d.goOffline g
    else if st == gsOnline then
      let d := (d.setGrpState g gsDegraded).journalCheck g
      if d.on CBL_CTRL.AUTO_REBUILD then d.startRebuild g else d
    else if st == gsReshaping then (d.setGrpState g gsRebuilding).journalCheck g
    else d

/-- The group is being formatted, or waits for the locks of its LBAs to be laid out afresh. -/
def Dev.formatting (d : Dev) (g : Grp) : Bool :=
  (d.band.ops.any fun o => o.kind == .formatGroup g) ||
    (d.band.change.toList ++ d.band.changes).any fun t => t.format == some g

/-! ### Intents (R373) -/

/-- An intent is open for a welt of a group. -/
def Dev.intentFor (d : Dev) (g : Grp) (w : Nat) : Option Intent :=
  d.band.intents.find? fun i => i.grp == g && decide (i.first ≤ w) && decide (w < i.first + i.count)

/-- Open an intent: the OPEN record joins the pending sector (R373 step 1). -/
def Dev.openIntent (d : Dev) (g : Grp) (first count members : Nat) : Dev :=
  let i : Intent := ⟨g, first, count, 0, members, false⟩
  (d.onBand fun b => { b with intents := b.intents ++ [i] }).logRec (.open_ i)

/-- Retire an intent: the RETIRE record joins the pending sector (R373 step 5). -/
def Dev.retireIntent (d : Dev) (i : Intent) : Dev :=
  (d.onBand fun b => { b with intents := b.intents.erase i }).logRec (.retire i)

end Sys2Proof.Machine
end

