-- ==== Sys2Proof/Machine/QueOps.lean ====
section
/-! DEFINITION. Completions and their arbiter (R394, R454), commands and their locks (R426 to R435),
media requests (R441, R442), and the held portion as commands see it (R21, R22). -/

namespace Sys2Proof.Machine

def Dev.onHst (d : Dev) (f : HstSt → HstSt) : Dev := { d with hst := f d.hst }
def Dev.onFn (d : Dev) (n : Fn) (f : FnSt → FnSt) : Dev :=
  d.onHst fun h => { h with fns := upd h.fns n f }

/-! ### Completions -/

/-- Raise a function's vector: sent, or pending while masked; none with MSI-X disabled (R390,
R394). -/
def Dev.vector (d : Dev) (n : Fn) (v : Nat) : Dev :=
  let f := d.hst.fns[n]
  if !f.msix then d
  else if f.masked.contains v then d.onFn n fun f => { f with pba := f.pba ++ [v] }
  else d.onHst fun h => { h with irqs := h.irqs ++ [(n, v)] }

/-- The vector of a submission queue's completions. -/
def Dev.vectorOf (d : Dev) (n : Fn) (sqid : Nat) : Nat :=
  let f := d.hst.fns[n]
  match f.sqs.find? fun s => s.qid == sqid with
  | some s => ((f.cqs.find? fun c => c.qid == s.cqid).map Cq.vector).getD 0
  | none => 0

/-- Write a completion entry to the host. -/
def Dev.sendCqe (d : Dev) (c : Cqe) : Dev :=
  let d := d.onHst fun h =>
    { h with cqes := h.cqes ++ [c],
             errors := if c.status = .success then h.errors else (c :: h.errors).take 64 }
  (d.vector c.fn (d.vectorOf c.fn c.sqid)).count 0x408

/-- Post a completion: at once, after a pause of the fault collector, or never in COAST_FLUSH
(R326, R454, R543). -/
def Dev.postCqe (d : Dev) (c : Cqe) : Dev :=
  if d.mode == .coastFlush then d
  else if d.on HST_CTRL.PAUSED then d.onHst fun h => { h with deferred := h.deferred ++ [c] }
  else d.sendCqe c

/-- Post a completion for a command of a queue. -/
def Dev.post (d : Dev) (q : QRef) (cid : Nat) (st : Status) (dw0 : Nat := 0) (dw1 : Nat := 0) : Dev :=
  d.postCqe ⟨q.fn, q.sqid, cid, st, dw0, dw1⟩

/-- Move bytes to the host for a command. -/
def Dev.toHost (d : Dev) (q : QRef) (cid : Nat) (bs : List Byte) : Dev :=
  d.onHst fun h => { h with data := h.data ++ [(q.fn, q.sqid, cid, bs)] }

/-- Barriers in the range-lock table: of requested band-table changes and of namespaces being deleted (R434, R459). -/
def BandSt.barriers (b : BandSt) : Nat := b.change.isSome.toNat + b.changes.length + b.deletes.length

/-- A command is a Scan Read. -/
def Cmd.isScan (c : Cmd) : Bool := match c.cmd with | .scanRead _ _ => true | _ => false

/-- Scan contexts in use (R513). -/
def Dev.contexts (d : Dev) : Nat :=
  (d.que.cmds.filter fun c => c.isScan && c.stage != .lock && c.stage != .context).length

/-- Show the commands, lock entries and scan contexts in use. -/
def Dev.showQue (d : Dev) : Dev :=
  let d := (d.set QUE_STATUS.OUTSTANDING d.que.cmds.length).set QUE_STATUS.LOCKS
    (d.que.locks.length + d.band.barriers)
  let d := d.set SCN_STATUS.CONTEXTS d.contexts
  d.each (List.finRange 64) fun f d => d.set HST_FN_STATUS.OUTSTANDING
    (d.que.cmds.filter fun c => c.q.fn == f).length 0 f

/-! ### Serving the host -/

/-- HST takes commands of a function: enabled, not paused, link not in reset, function present and
not fenced. The PF is present from LAST_LOAD. -/
def Dev.admits (d : Dev) (n : Fn) : Bool :=
  d.on HST_CTRL.EN && !d.on HST_CTRL.PAUSED && !d.hst.perst && d.islandUp 1 && d.islandUp 2 &&
    d.on HST_FN_STATUS.PRESENT 0 n && !d.on HST_FN_STATUS.FENCED 0 n && d.mode != .coastFlush

/-- A command from a function's host means that the host has set CC.EN there (MODEL: that write has no
row). -/
def Dev.enableFn (d : Dev) (n : Fn) : Dev :=
  if d.on HST_FN_STATUS.CC_EN 0 n then d
  else ((d.set HST_FN_STATUS.CC_EN 1 0 n).set HST_FN_STATUS.RDY 1 0 n).raise HST_INT_STATUS.CC_CHANGE

/-! ### Commands -/

/-- Fetch number a is below b (R426). -/
def fLt (a b : Word) : Bool := decide (a ≠ b) && decide ((b - a).toNat < 2 ^ 31)

def Dev.cmdOf (d : Dev) (f : Word) : Option Cmd := d.que.cmds.find? fun c => c.f == f

def Dev.onCmd (d : Dev) (f : Word) (g : Cmd → Cmd) : Dev :=
  d.onQue fun q => { q with cmds := q.cmds.map fun c => if c.f = f then g c else c }

/-- Remove a command: its locks, its buffers but those of held sectors, and its place in the waits of a
band-table change (R433, R434). -/
def Dev.dropCmd (d : Dev) (c : Cmd) : Dev :=
  let d := d.onQue fun q =>
    { q with cmds := q.cmds.filter (fun x => x.f != c.f), locks := q.locks.filter fun l => l.f != c.f }
  let d := d.onBand fun b =>
    let gone := fun (t : TableChange) => { t with waits := t.waits.filter fun w => w != c.f }
    { b with change := b.change.map gone, changes := b.changes.map gone }
  ((d.freeUnused c.bufs).showHeld).showQue

/-- The single completion of a fetched command (R454). -/
def Dev.finish (d : Dev) (c : Cmd) (st : Status) (dw0 : Nat := 0) (dw1 : Nat := 0) : Dev :=
  (d.dropCmd c).post c.q c.io.cid st dw0 dw1

/-- The commands write (R401, R430). -/
def IoCmd.writes : IoCmd → Bool
  | .write _ | .writeZeroes | .copy _ _ => true
  | _ => false

/-! ### Locks (R430 to R434) -/

/-- The entries of a command (R430). -/
def lockEntries (f : Word) (a : IoArgs) : IoCmd → List Lock
  | .read | .compare _ | .verify | .scanRead _ _ => [⟨f, a.nsid, a.slba, a.count, false, false⟩]
  | .write _ | .writeZeroes => [⟨f, a.nsid, a.slba, a.count, true, false⟩]
  | .copy _ src =>
    src.map (fun s => ⟨f, a.nsid, s.1, s.2, false, false⟩) ++
      [⟨f, a.nsid, a.slba, (src.map Prod.snd).sum, true, false⟩]
  | .flush | .datasetMgmt | .other _ => []

def overlaps (a n b m : Nat) : Bool := decide (a < b + m) && decide (b < a + n)

/-- Two entries conflict (R431). -/
def Lock.conflicts (x y : Lock) : Bool :=
  x.f != y.f && x.nsid == y.nsid && overlaps x.lba x.count y.lba y.count && (x.excl || y.excl)

/-- A barrier of a band-table change lies over an entry (R434). -/
def Dev.barred (d : Dev) (l : Lock) : Bool :=
  (d.band.change.toList ++ d.band.changes).any fun t => !t.waits.contains l.f && t.ranges.any fun r =>
    r.1 == l.nsid && overlaps r.2.1 r.2.2 l.lba l.count

/-- A command's entries can be granted together (R431, R434). -/
def Dev.grantable (d : Dev) (f : Word) : Bool :=
  let mine := d.que.locks.filter fun l => l.f == f
  mine.all fun l => !d.barred l && !d.que.locks.any fun o => fLt o.f f && o.conflicts l

/-! ### The namespace key and the tag (R340, R344, R570) -/

def Dev.keyOf (d : Dev) (nsid : Nat) : Nat :=
  ((d.sec.keys.find? fun k => k.1 == nsid).map fun k => k.2.2).getD 0

def tagAddr (t : BitVec 128) : Nat := (t.extractLsb' 80 48).toNat
def tagNsid (t : BitVec 128) : Nat := (t.extractLsb' 68 12).toNat
def tagFlush (t : BitVec 128) : Bool := t.getLsbD 67
def tagZero (t : BitVec 128) : Bool := t.getLsbD 66
def tagKind (t : BitVec 128) : Nat := (t.extractLsb' 64 2).toNat
def tagEpoch (t : BitVec 128) : Nat := (t.extractLsb' 32 32).toNat
def tagCrc (t : BitVec 128) : Nat := (t.extractLsb' 0 32).toNat
/-- A format tag: bit 47 of ADDR (R340). -/
def tagFormat (t : BitVec 128) : Bool := t.getLsbD 127

/-- 4,096 zero bytes. -/
def zeroSector : List Byte := List.replicate 4096 0

/-- The plaintext of a sector read (R344, R570). -/
def Dev.plain (d : Dev) (nsid : Nat) (payload : List Byte) (tag : BitVec 128) : List Byte :=
  if tagZero tag || tagFormat tag then zeroSector
  else Config.unxts (d.keyOf nsid) (tagAddr tag + 2 ^ 48 * tagKind tag) payload

/-! ### The held portion -/

/-- The held sector of an LBA. -/
def Dev.heldAt (d : Dev) (nsid lba kind : Nat) : Option Held :=
  d.que.held.find? fun h => h.nsid == nsid && h.lba == lba && h.kind == kind

/-- The writes whose data reaches the media with a held sector: its own, and those that it replaced (R22, R429). -/
def Held.writes (h : Held) : List Word := h.f :: h.covers

/-- A sector joins the held portion, in place of one held for the same LBA (R22 step 5). A write that it replaces waits for
the media still: a Flush or FUA that covers it completes after step 10 of the sector that stands for it (DEDUCED, log
entry 131). -/
def Dev.hold (d : Dev) (h : Held) : Dev :=
  let old := d.heldAt h.nsid h.lba h.kind
  let covers := ((old.map Held.writes).getD []).filter fun f => f != h.f
  let d := d.onQue fun q =>
    { q with held := q.held.filter (fun x =>
        !(x.nsid == h.nsid && x.lba == h.lba && x.kind == h.kind)) ++ [{ h with covers := covers }] }
  d.freeUnused (old.map Held.buf).toList

/-! ### Media requests (R441, R442) -/

/-- The lane serves reads: it is up, and its head is no failed member, whose lane answers as missing (R117, R362). -/
def Dev.laneReads (d : Dev) (n : LaneId) : Bool := d.laneAlive n && !bit (d.failedMask n.grp) n.ix

/-- The present members of a group: heads not failed and not fenced (R183, R362). -/
def Dev.presentMask (d : Dev) (g : Grp) : Nat := maskOf ((List.finRange 8).map fun i => d.laneReads (laneOf g i))

/-- A request with its number. -/
def Dev.newReq (d : Dev) (r : Request) (why : Purpose) : MediaReq :=
  { no := d.que.reqId, req := r, why := why, age := d.que.reqId, since := d.now }

/-- Append a request to a group's list; host reads on one track that allow as many rereads merge, until one is posted (R442;
DEDUCED, log entry 138: a request carries one RQ_REVS). -/
def Dev.addReq (d : Dev) (g : Grp) (r : Request) (why : Purpose) : Dev :=
  let mr := d.newReq r why
  let d := d.onQue fun q => { q with reqId := q.reqId + 1 }
  let twin := match why with
    | .host _ => (d.grpq[g].list ++ d.grpq[g].active.toList).find? fun (x : MediaReq) =>
        x.req.kind == 0 && r.kind == 0 && x.req.cyl == r.cyl && x.req.revs == r.revs &&
        (match x.why with | .host _ => true | _ => false) &&
        decide (r.sect ≤ x.req.sect + x.req.count) && decide (x.req.sect ≤ r.sect + r.count) &&
        decide (max (r.sect + r.count) (x.req.sect + x.req.count) - min r.sect x.req.sect ≤
          d.sptAt g r.cyl)
    | _ => none
  match twin with
  | some x =>
    let s := min r.sect x.req.sect
    let e := max (r.sect + r.count) (x.req.sect + x.req.count)
    let m : MediaReq := { x with
      req := { x.req with sect := s, count := e - s, rmask := x.req.rmask ||| r.rmask,
                          cmask := x.req.cmask ||| r.cmask }
      why := match x.why, why with
        | .host a, .host b => .host (a ++ b)
        | w, _ => w }
    let put := fun (y : MediaReq) => if y.no = x.no then m else y
    (d.onGrpq g fun q => { q with list := q.list.map put, active := q.active.map put }).showGrpq g
  | none => (d.onGrpq g fun q => { q with list := q.list ++ [mr] }).showGrpq g

/-- RQ_REVS of a host read: MAX_REVS of the group's lowest member, cut to the rereads that start
within the namespace's TLER; 0 with Limited Retry (R441). -/
def Dev.revsFor (d : Dev) (g : Grp) (nsid : Nat) (limited : Bool) : Nat :=
  let low := ((headsOf (d.get FMT_LANES.PRESENT g)).head?.map Fin.val).getD 0
  let m := min 24 (d.get LANE_LADDER.MAX_REVS (8 * g.val + low))
  let tler := ((d.hst.tler.find? fun t => t.1 == nsid).map Prod.snd).getD 0
  let speed := d.get SPN_SPEED.SPEED
  -- a revolution lasts 960,000,000 / speed µs with the speed in 1/16 rpm
  if limited then 0 else if tler = 0 then m else min m (tler * 100000 * speed / 960000000)

/-- Requests of one kind for the places of a command's LBAs, one per run of welts on a track (R441).
The places come in ascending welt order. -/
def trackRuns : List Place → List (List Place)
  | [] => []
  | p :: t =>
    match trackRuns t with
    | [] => [[p]]
    | r :: rs =>
      match r with
      | [] => [p] :: rs
      | n :: _ =>
        if p.grp == n.grp && p.cyl == n.cyl && decide (n.welt ≤ p.welt + 1) then (p :: r) :: rs
        else [p] :: r :: rs

/-- The request of a run. -/
def Dev.runReq (d : Dev) (kind : Nat) (nsid : Nat) (limited : Bool) (r : List Place) :
    Option (Grp × Request) :=
  match r with
  | [] => none
  | p :: _ =>
    let last := (r.getLast?.map Place.sect).getD p.sect
    let rm := r.foldl (fun m x => setBit m x.head) 0
    some (p.grp, ⟨kind, p.cyl, p.sect, last + 1 - p.sect, d.revsFor p.grp nsid limited, rm, 0,
      d.presentMask p.grp, false⟩)

/-- Queue the media requests for a command's needed LBAs. -/
def Dev.queueReads (d : Dev) (c : Cmd) (kind : Nat) : Dev :=
  let places := c.need.filterMap fun l => d.place c.io.nsid l.2 l.1
  let reqs := (trackRuns places).filterMap (d.runReq kind c.io.nsid c.io.limitedRetry)
  d.each reqs fun p d => d.addReq p.1 p.2 (.host [c.f.toNat])

/-- A scheduler request handed to the servo, which latches it at a t0; else it waits in the group's
list (R9, R220). -/
def Dev.handRequest (d : Dev) (g : Grp) (m : MediaReq) : Dev :=
  match d.grpq[g].active with
  | some _ => (d.onGrpq g fun q => { q with list := q.list ++ [m] }).showGrpq g
  | none =>
    ((d.onGrpq g fun q => { q with active := some m, issued := d.now }).onSrv g fun s =>
      { s with request := some m.req.cyl }).showGrpq g

/-! ### Completions that wait for the media (R401, R429) -/

/-- A Flush's commands and data have reached the media. -/
def Dev.flushDone (d : Dev) (c : Cmd) : Bool :=
  !(d.que.cmds.any fun x => c.waits.contains x.f) &&
  !(d.que.held.any fun h => h.writes.any (fLt · c.f) && (c.io.nsid == 0xFFFF_FFFF || h.nsid == c.io.nsid))

/-- Complete the commands whose data has reached the media. -/
def Dev.settled (d : Dev) : Dev :=
  d.each d.que.cmds fun c d =>
    if c.stage != .settle then d
    else match c.cmd with
      | .flush => if d.flushDone c then d.finish c .success else d
      | _ => if d.que.held.any fun h => h.writes.contains c.f then d else d.finish c .success

end Sys2Proof.Machine
end

