-- ==== Sys2Proof/Machine/ServoLaw.lean ====
section
/-! DEFINITION. One servo sample: measurement (R198 to R203), supervision (R234 to R239), band switch
(R210 to R213), control law (R204, R206 to R209), allocation (R217 to R219), reference generator
(R221), transfer to automatic control (R250 to R254), injection and capture (R255 to R260), and the
downstream frame (R226). -/

namespace Sys2Proof.Machine

/-! ### Measurement -/

/-- The heads on the disk give wedges in this state: SEEK, SETTLE, TRACK, MANUAL, and UNLOADING up
to the ramp. -/
def Dev.onDisk (d : Dev) (g : Grp) : Bool :=
  let st := d.srvState g
  st == stSeek || st == stSettle || st == stTrack || st == stManual ||
    (st == stUnloading && !d.srv[g].ramp)

/-- Head index i is an alive member (R198): present, enabled, not fenced. -/
def Dev.member (d : Dev) (g : Grp) (i : HeadIx) : Bool := d.laneAlive (laneOf g i)

/-- Head index i is lost (R201). -/
def Dev.lost (d : Dev) (g : Grp) (i : HeadIx) : Bool := bit (d.get SRV_STATUS.LOST g) i

/-- The offset of a head in 2^-20 track: OFS + REC, saturated to 2,048 / 4,096 track (R200). -/
def Dev.headOfs (d : Dev) (g : Grp) (i : HeadIx) : Int :=
  256 * clamp (-2048) 2048
    (sext 16 (d.get SRV_HEAD_OFS.OFS g i) + sext 16 (d.get SRV_HEAD_OFS.REC g i))

/-- A record's position in 2^-20 track. -/
def recPos (r : ServoRec) : Int := r.cyl * 2 ^ 20 + r.frac * 256

/-- A head's record is a valid measurement (R199). The prediction takes r_pos as the generator left it for this sample
(DEDUCED, log entry 145). -/
def Dev.validRec (d : Dev) (g : Grp) (i : HeadIx) (r : ServoRec) : Bool :=
  let s := d.srv[g]
  r.found && r.wedge == s.wedge &&
    decide ((16 * ((r.cyl * 2 ^ 20 : Nat) - (s.rpos + s.v)) - s.y[i] : Int).natAbs ≤
      d.get SRV_PES_CFG.GRAY_WIN g * 2 ^ 24)

/-- The measurement of a head in this wedge, where it is valid (R199). -/
def Dev.measured (d : Dev) (g : Grp) (i : HeadIx) : Option ServoRec :=
  match d.srv[g].recs.find? fun p => p.1 == i with
  | some (_, r) => if d.member g i && d.validRec g i r then some r else none
  | none => none

/-- Injection at a point of R257, in the unit of the point; 0 while the generator does not run. -/
def Dev.injAt (d : Dev) (g : Grp) (point : Nat) : Int :=
  if d.on SRV_ICU_CTRL.RUN g && d.get SRV_ICU_CTRL.POINT g == point then d.srv[g].icu.inj else 0

/-- The position error of a valid record: Q8.24, saturated (R200), less a reference injection. -/
def Dev.posError (d : Dev) (g : Grp) (i : HeadIx) (r : ServoRec) : Int :=
  sat32 (16 * (recPos r - d.srv[g].rpos - d.headOfs g i) - 256 * d.injAt g 2)

/-- A head becomes lost (R201). -/
def Dev.headLost (d : Dev) (g : Grp) (i : HeadIx) : Dev :=
  (d.orBits SRV_STATUS.LOST (1 <<< i.val) g).raise SRV_INT_STATUS.PES_LOST g

/-- MISS_LIMIT samples have passed without a valid measurement of the head (R201). -/
def Dev.missed (d : Dev) (g : Grp) (i : HeadIx) : Bool :=
  decide (atLeast1 (d.get SRV_PES_CFG.MISS_LIMIT g) ≤ d.srv[g].miss[i])

/-- The lost-head test and its retract cause run (R201, R202, R234): while the heads are meant to fly, and in RETRACT. Heads
that rest on the ramp give no marks and are not lost (DEDUCED, log entry 134). -/
def Dev.flies (d : Dev) (g : Grp) : Bool := d.onDisk g || d.srvState g == stRetract

/-- Take one head's measurement of the sample (R199 to R201). -/
def Dev.measureHead (g : Grp) (i : HeadIx) (d : Dev) : Dev :=
  match d.measured g i with
  | some r =>
    let y := d.posError g i r
    let d := d.onSrv g fun s =>
      { s with y := s.y.set i y, held := clearBit s.held i, miss := s.miss.set i 0,
               good := upd s.good i (· + 1), seen := s.seen ++ [(i, r)] }
    d.when (d.lost g i && decide (8 ≤ d.srv[g].good[i])) (·.clrBit SRV_STATUS.LOST i g)
  | none =>
    let d := d.onSrv g fun s =>
      { s with held := setBit s.held i, miss := upd s.miss i (· + 1), good := s.good.set i 0 }
    d.when (d.flies g && d.member g i && d.missed g i && !d.lost g i) (·.headLost g i)

/-- The measurements of a sample: while the heads fly, and in RETRACT, where the engine samples on (R243). -/
def Dev.measureAll (d : Dev) (g : Grp) : Dev :=
  let d := d.onSrv g fun s => { s with seen := [] }
  d.when (d.flies g) fun d => d.each (List.finRange 8) (Dev.measureHead g)

/-- Every alive member head of the group is lost (R202). -/
def Dev.allLost (d : Dev) (g : Grp) : Bool :=
  (headsOf (d.get FMT_LANES.PRESENT g)).all fun i => !d.member g i || d.lost g i

/-! ### Supervision -/

/-- A condition of R235 holds for the head. -/
def Dev.inhibitCond (d : Dev) (g : Grp) (i : HeadIx) : Bool :=
  d.srvState g != stTrack || d.lost g i || bit d.srv[g].held i ||
    decide (d.get SRV_SUP_CFG.WI_THR g * 4096 < d.srv[g].y[i].natAbs) ||
    bit d.srv[g].fineSat i || d.on SRV_ICU_CTRL.RUN g

/-- WI_REL clean samples have passed (R237). -/
def Dev.inhibitOver (d : Dev) (g : Grp) (i : HeadIx) : Bool :=
  decide (atLeast1 (d.get SRV_SUP_CFG.WI_REL g) ≤ d.srv[g].clean[i])

/-- The inhibit of a head ends (R237). -/
def Dev.releaseInhibit (d : Dev) (g : Grp) (i : HeadIx) : Dev :=
  (d.clrBit SRV_SUP_STATUS.WI i g).refreshInh g

/-- One head's write-inhibit test: R235 raises it at once, R237 ends it. -/
def Dev.superviseHead (g : Grp) (i : HeadIx) (d : Dev) : Dev :=
  if d.inhibitCond g i then
    let d := (d.orBits SRV_SUP_STATUS.WI (1 <<< i.val) g).onSrv g fun s =>
      { s with clean := s.clean.set i 0 }
    d.abortHead g 8 i
  else if d.inhibitOver g i then d.releaseInhibit g i
  else d.onSrv g fun s => { s with clean := upd s.clean i (· + 1) }

/-- The following-error limit of the state, Q8.24 (R238); none where no error is evaluated. -/
def Dev.feLimit (d : Dev) (g : Grp) : Option Nat :=
  let st := d.srvState g
  if st == stSettle || st == stTrack then some (d.get SRV_FE_CFG.FE_THR g * 4096)
  else if st == stSeek then some (d.get SRV_FE_CFG.FE_SEEK g * 2 ^ 24)
  else none

/-- Count one head's following error (R238). -/
def Dev.feHead (g : Grp) (lim : Nat) (i : HeadIx) (d : Dev) : Dev :=
  if !d.member g i || d.lost g i || bit d.srv[g].held i then d
  else d.onSrv g fun s =>
    { s with fe := s.fe.set i (if lim < s.y[i].natAbs then s.fe[i] + 1 else 0) }

/-- The head whose counter has reached FE_CNT (R239). -/
def Dev.feReached (d : Dev) (g : Grp) : Option HeadIx :=
  (List.finRange 8).find? fun i => decide (atLeast1 (d.get SRV_FE_CFG.FE_CNT g) ≤ d.srv[g].fe[i])

/-- Outside TRACK every head is inhibited in the sample, and a write that is open ends (R235, R151). -/
def Dev.inhibitNow (d : Dev) (g : Grp) : Dev := ((d.inhibitAll g).abortHeads g 255 8).refreshInh g

/-- A counter reached FE_CNT: the record, and the reaction of FE_ACT (R239), in the same sample (R234). -/
def Dev.followError (d : Dev) (g : Grp) (i : HeadIx) : Dev :=
  let st := d.srvState g
  let d := ((d.set SRV_FE_INFO.HEAD i g).set SRV_FE_INFO.STATE st g).setSat SRV_FE_INFO.ERR
    (d.srv[g].y[i].natAbs / 4096) g
  let d := (d.stamp SRV_FE_INFO.VALID SRV_FE_INFO.SEQ g).raise SRV_INT_STATUS.FOLLOW_ERR g
  let d := (d.onSrv g fun s => { s with fe := Vector.replicate 8 0 }).trigger g 2
  if d.on SRV_SUP_CFG.FE_ACT g then d.retract g 4
  else if st == stTrack then ((d.loseTrack g).enter g stSettle).inhibitNow g
  else d

/-- Supervision of the sample, in the order of R234. -/
def Dev.supervise (d : Dev) (g : Grp) : Dev :=
  let d := d.each (List.finRange 8) (Dev.superviseHead g)
  let d := d.refreshInh g
  let d := match d.feLimit g with
    | some lim => d.each (List.finRange 8) (Dev.feHead g lim)
    | none => d
  let d := match d.feReached g with
    | some i => d.followError g i
    | none => d
  d.when (d.flies g && d.allLost g) (·.retract g 3)

/-! ### Settling -/

/-- Every alive member head that is not lost lies within ONTRACK_THR (R222). -/
def Dev.within (d : Dev) (g : Grp) : Bool :=
  (List.finRange 8).all fun i => !d.member g i || d.lost g i ||
    decide (d.srv[g].y[i].natAbs ≤ d.get SRV_ONTRACK.ONTRACK_THR g * 4096)

/-- TRACK is entered and reported (R222). -/
def Dev.onTrack (d : Dev) (g : Grp) : Dev :=
  (d.enter g stTrack).raise SRV_INT_STATUS.ON_TRACK g

/-- One sample of SETTLE (R222). A SETTLE_MAX of 0 acts as 1 (DESIGN CHOICE, log entry 145). -/
def Dev.settle (d : Dev) (g : Grp) : Dev :=
  if d.srvState g != stSettle then d
  else
    let ok := d.within g
    let d := d.onSrv g fun s =>
      { s with ontrack := if ok then s.ontrack + 1 else 0, settle := s.settle + 1 }
    if atLeast1 (d.get SRV_ONTRACK.ONTRACK_CNT g) ≤ d.srv[g].ontrack then d.onTrack g
    else d.when (d.srv[g].settle == atLeast1 (d.get SRV_ONTRACK.SETTLE_MAX g))
      (·.raise SRV_INT_STATUS.SETTLE_SLOW g)

/-! ### Heads for a transfer (R251) -/

/-- The alive members whose mark was found in the wedge: in a load, where no prediction exists yet, these measure (R224). -/
def Dev.markedHeads (d : Dev) (g : Grp) : List (HeadIx × ServoRec) :=
  (List.finRange 8).filterMap fun i =>
    (d.srv[g].recs.find? fun p => p.1 == i && p.2.found && d.member g i).map fun p => (i, p.2)

/-- The heads with a measurement for a transfer, in ascending order. -/
def Dev.transferHeads (d : Dev) (g : Grp) : List (HeadIx × ServoRec) :=
  if d.srvState g == stLoading then d.markedHeads g else d.srv[g].seen

/-- The reference head of a transfer: the lowest alive member, not lost, with a valid measurement (R251); at the end of a
load the head whose marks ended step 3, else the lowest that gives marks (R224; DEDUCED, log entry 134). -/
def Dev.refHead (d : Dev) (g : Grp) : Option (HeadIx × ServoRec) :=
  let l := d.transferHeads g
  if d.srvState g == stLoading then (l.find? fun p => d.srv[g].loadHead == some p.1).or l.head?
  else l.find? fun p => !d.lost g p.1

/-! ### Bands -/

/-- The published band from the speed in 1/16 rpm and the band published before, with the hysteresis
of R210. -/
def bandStep (speed b : Nat) : Nat :=
  if b < 23 ∧ (4435 + 225 * b) * 16 ≤ speed then b + 1
  else if 0 < b ∧ speed < (4415 + 225 * (b - 1)) * 16 then b - 1
  else b

def publishBand (speed : Nat) : Nat → Nat → Nat
  | 0, b => b
  | n + 1, b => publishBand speed n (bandStep speed b)

/-- The target set (R211); with no valid set at all the one in use stays (DESIGN CHOICE, log entry 145). -/
def Dev.targetSet (d : Dev) (g : Grp) : Nat :=
  if d.on SRV_BAND_SEL.FORCE_EN g then min (d.get SRV_BAND_SEL.FORCE_BAND g) 23
  else
    let v := d.get SRV_BAND_VALID.VALID g
    let b := d.get SRV_BAND_SEL.MEAS g
    if bit v b then b
    else match ((List.range b).reverse.find? fun k => bit v k) with
      | some k => k
      | none => ((List.range 24).find? fun k => bit v k).getD (d.get SRV_BAND_SEL.CUR g)

/-- AUTO is latched at this t0: pending in MANUAL, with a reference head and no blend (R250). -/
def Dev.autoLatches (d : Dev) (g : Grp) : Bool :=
  d.on SRV_MODE_CMD.GO g && d.get SRV_MODE_CMD.OP g == 1 && d.srv[g].blend.isNone && (d.refHead g).isSome

/-- At a servo sample the spindle publishes speed, commanded acceleration and the band of the speed, which every group shows in
MEAS (R210, R292). -/
def Dev.publish (d : Dev) : Dev :=
  if !d.islandUp 13 then d
  else
    let v := d.get SPN_SPEED.SPEED
    let was := d.spn.band
    let b := publishBand v 24 was
    let d := d.onSpn fun s => { s with omega := v, accelPub := s.accel, band := b }
    (d.each (List.finRange 4) fun g d => d.set SRV_BAND_SEL.MEAS b g).when (b != was) (·.raise SPN_INT_STATUS.BAND_CHANGE)

/-- Band switching at a sample boundary, toward the published band that MEAS shows; no switch starts in RETRACT or in a
transfer sample (R211, R213, R242, R250). -/
def Dev.bandSample (d : Dev) (g : Grp) : Dev :=
  let d := d.when (!bit (d.get SRV_BAND_VALID.VALID g) (d.get SRV_BAND_SEL.MEAS g))
    (·.raise SRV_INT_STATUS.BAND_INVALID g)
  let t := d.targetSet g
  let cur := d.get SRV_BAND_SEL.CUR g
  let st := d.srvState g
  let held := st == stSeek || st == stSettle || st == stRetract || d.srv[g].blend.isSome || d.srv[g].transfer.isSome ||
    d.autoLatches g
  if t == cur then d.set SRV_STATUS.PENDING 0 g
  else if held then d.set SRV_STATUS.PENDING 1 g
  else
    let d := ((d.set SRV_BAND_SEL.CUR t g).set SRV_STATUS.BAND t g).set SRV_STATUS.PENDING 0 g
    if d.get SRV_BAND_SEL.BLEND_LEN g = 0 then d.raise SRV_INT_STATUS.BAND_SWITCH g
    else (d.onSrv g fun s => { s with blend := some (cur, 1) }).set SRV_STATUS.BLENDING 1 g

/-- The sample after a blend sample: the next j, or the end of the blend (R213, step 5). -/
def Dev.blendNext (d : Dev) (g : Grp) : Dev :=
  match d.srv[g].blend with
  | none => d
  | some (old, j) =>
    if d.get SRV_BAND_SEL.BLEND_LEN g ≤ j then
      ((d.onSrv g fun s => { s with blend := none }).set SRV_STATUS.BLENDING 0 g).raise
        SRV_INT_STATUS.BAND_SWITCH g
    else d.onSrv g fun s => { s with blend := some (old, j + 1) }

/-! ### The control law -/

/-- A coefficient, Q2.30: word row x 64 + col of a set (R214). -/
def Dev.coef (d : Dev) (g : Grp) (set row col : Nat) : Int :=
  (d.word SRV_COEF g (set * 3072 + row * 64 + col)).toInt

/-- The accumulator of a row over the columns listed with their entries (R207): the sum, and
whether an addition saturated. -/
def Dev.rowAcc (d : Dev) (g : Grp) (set row : Nat) (z : List (Nat × Int)) : Int × Bool :=
  z.foldl (fun (a : Int × Bool) (p : Nat × Int) =>
    let x := a.1 + d.coef g set row p.1 * p.2
    (sat64 x, a.2 || sat64 x != x)) (0, false)

/-- A row's result (R208), and whether R207 or R208 saturated. -/
def Dev.row (d : Dev) (g : Grp) (set row : Nat) (z : List (Nat × Int)) : Int × Bool :=
  let (a, s) := d.rowAcc g set row z
  let r := asr (a + 2 ^ 29) 30
  (sat32 r, s || sat32 r != r)

/-- Measurement m_j (R203). -/
def Dev.meas (d : Dev) (g : Grp) (j : Nat) : Int :=
  if d.get SRV_DIM.N_OUT g ≤ j then 0
  else
    let w := d.word SRV_YSEL g (j / 4)
    let code := bits w (8 * (j % 4)) 5
    if h : code < 8 then
      let i : HeadIx := ⟨code, h⟩
      sat32 (d.srv[g].y[i] +
        (if d.get SRV_ICU_CTRL.HEAD g == code then 256 * d.injAt g 1 else 0))
    else if code = 8 then sext 16 (d.get SRV_AMP_MEAS.IVCM g) * 512
    else if code = 9 then sext 16 (d.get SRV_AMP_MEAS.BEMF g) * 512
    else 0

/-- A reference parameter of row 9: its word, shifted by VSHIFT or ASHIFT, in 2^-24 track per sample (R214). -/
def Dev.refWide (d : Dev) (g : Grp) (col shiftLo : Nat) : Int :=
  let set := d.get SRV_BAND_SEL.CUR g
  d.coef g set 9 col * 2 ^ bits (d.word SRV_COEF g (set * 3072 + 9 * 64 + 4)) shiftLo 4

/-- The same at the 2^-20 track of r_pos and v (R221; DEDUCED, log entry 134). -/
def Dev.refParam (d : Dev) (g : Grp) (col shiftLo : Nat) : Int := asr (d.refWide g col shiftLo) 4

/-- A reference value as a vector entry: Q8.24 in units of 2^shift, saturated (R221). -/
def Dev.refEntry (d : Dev) (g : Grp) (x : Int) (shiftLo : Nat) : Int :=
  let set := d.get SRV_BAND_SEL.CUR g
  let sh := bits (d.word SRV_COEF g (set * 3072 + 9 * 64 + 4)) shiftLo 4
  sat32 (freeDiv (16 * x) (2 ^ sh))

/-- The reference generator runs: SEEK, and the seek of UNLOADING (R221, R225). -/
def Dev.seeking (d : Dev) (g : Grp) : Bool :=
  d.srvState g == stSeek || (d.srvState g == stUnloading && !d.srv[g].ramp)

/-- Columns 0 to 51 of the vector z (R204). -/
def Dev.vectorLow (d : Dev) (g : Grp) : List (Nat × Int) :=
  let s := d.srv[g]
  let n := d.get SRV_DIM.N_STATES g
  let refs := d.seeking g
  (List.finRange 32).map (fun j => (j.val, if j.val < n then s.xhat[j] else 0)) ++
  (List.range 16).map (fun j => (32 + j, d.meas g j)) ++
  [ (48, if refs then d.refEntry g s.v 0 else 0),
    (49, if refs then d.refEntry g s.aref 4 else 0),
    (50, 2 ^ 24), (51, 0) ]

/-- Row i of U for the sample, blended where a blend runs (R204, R213). A transfer sample, whose integrator is solved for the
set named by CUR alone (R253), takes that set alone, so that R254 holds (DEDUCED, log entry 145). -/
def Dev.uPre (d : Dev) (g : Grp) (z : List (Nat × Int)) (xfer : Bool) (i : Nat) : Int × Bool :=
  let (u, s) := d.row g (d.get SRV_BAND_SEL.CUR g) i z
  match d.srv[g].blend, xfer with
  | none, _ => (u, s)
  | _, true => (u, s)
  | some (old, j), false =>
    let l := d.get SRV_BAND_SEL.BLEND_LEN g
    let alpha : Int := (512 * j + l + 1 : Nat) / (2 * (l + 1) : Nat)
    let (uo, so) := d.row g old i z
    let b := asr (alpha * u + (256 - alpha) * uo + 128) 8
    (sat32 b, s || so || sat32 b != b)

/-! ### Allocation -/

/-- A static fine offset entry, limited to 0.875 of full scale (R217). -/
def Dev.fofs (d : Dev) (g : Grp) (i : HeadIx) (z : Nat) : Int :=
  clamp (-458752) 458752 (sext 20 (d.get SRV_FOFS.OFS g (64 * i.val + z)))

/-- The static part of a head at a cylinder (R217). -/
def Dev.static (d : Dev) (g : Grp) (i : HeadIx) (c : Nat) : Int :=
  let z := d.zoneIx g c
  if d.zones[g].length ≤ z + 1 then d.fofs g i z
  else
    let a := (d.zone g z).firstCyl
    let b := (d.zone g (z + 1)).firstCyl
    (d.fofs g i z * ((b : Int) - a) + (d.fofs g i (z + 1) - d.fofs g i z) * ((c : Int) - a)).tdiv ((b : Int) - a)

/-- The command of the velocity loop as a VCM code: KV / 16 times the velocity error in Q1.15 of
full scale, in the code's Q1.19 (R224, R225). -/
def Dev.velCode (d : Dev) (g : Grp) (vel : Nat) : Int :=
  sat20 (d.get SRV_LOAD_CFG.KV g * (sext 16 vel - sext 16 (d.get SRV_AMP_MEAS.BEMF g)))

/-- The applied manual code of the sample (R248): it moves toward TARGET, limited to LIMIT x 8, by at
most SLEW; true where TARGET was limited. -/
def Dev.manualCode (d : Dev) (g : Grp) : Int × Bool :=
  let lim : Int := d.get SRV_MAN_CFG.LIMIT g * 8
  let t := sext 20 (d.get SRV_MAN_TGT.TARGET g)
  let t' := clamp (-lim) lim t
  let slew : Int := atLeast1 (d.get SRV_MAN_CFG.SLEW g)
  let m := d.srv[g].man
  (m + clamp (-slew) slew (t' - m), t' != t)

/-- The VCM code of the sample before sat20, by state (R218, R224, R225, R243, R249); `xfer`: the transfer sample, in which
the U row commands (R251 step 6) with no plant-input injection: the applied value that R253 solves for holds the last one
already (R254; DEDUCED, log entry 145). -/
def Dev.vcmRaw (d : Dev) (g : Grp) (xfer : Bool) (u0 : Int) : Int :=
  let st := d.srvState g
  if xfer then asr (u0 + 16) 5
  else if st == stParked || st == stRetract then 0
  else if st == stLoading then
    d.velCode g (if d.srv[g].loadFailed then d.get SRV_UNLOAD_CFG.UNLOAD_VEL g
      else d.get SRV_LOAD_CFG.LOAD_VEL g)
  else if st == stUnloading && d.srv[g].ramp then d.velCode g (d.get SRV_UNLOAD_CFG.UNLOAD_VEL g)
  else if st == stManual then d.srv[g].man + d.injAt g 0
  else asr (u0 + 16) 5 + d.injAt g 0

/-- The fine code of a head before sat20, and its static part (R218, R219, R231). In PARKED, where the fine code is 0, the
applied value is 0 as in RETRACT (DESIGN CHOICE, log entry 145). -/
def Dev.fineRaw (d : Dev) (g : Grp) (i : HeadIx) (u : Int) : Int × Int :=
  let st := d.srvState g
  if !d.member g i || st == stParked || st == stRetract then (0, 0)
  else
    let s := d.static g i (d.srv[g].rpos / 2 ^ 20).toNat
    if bit d.srv[g].fineFault i then (0, s)
    else
      let dyn := if (st == stTrack || st == stSettle || st == stManual) && !d.lost g i
        then asr (u + 16) 5 else 0
      (s + dyn + (if d.get SRV_ICU_CTRL.HEAD g == i.val then d.injAt g 3 else 0), s)

/-- Form and store the codes and applied values (R218). -/
def Dev.allocate (d : Dev) (g : Grp) (xfer : Bool) (u : List Int) : Dev :=
  let v := sat20 (d.vcmRaw g xfer (u.getD 0 0))
  let fines := (List.finRange 8).map fun i => d.fineRaw g i (u.getD (1 + i.val) 0)
  let code := fun (i : Fin 8) => sat20 (fines.getD i (0, 0)).1
  let satm := maskOf (fines.map fun p => sat20 p.1 != p.1)
  let d := d.onSrv g fun s =>
    { s with vcm := v, fineSat := satm,
             fine := Vector.ofFn code,
             applied := Vector.ofFn fun (k : Fin 9) =>
               if k.val = 0 then v * 32
               else (sat20 (fines.getD (k.val - 1) (0, 0)).1 - (fines.getD (k.val - 1) (0, 0)).2) * 32 }
  d.when (satm != 0) (·.raise SRV_INT_STATUS.SAT g)

/-! ### The reference generator -/

/-- One run of the generator in SEEK, or in the seek of UNLOADING (R221). -/
def Dev.reference (d : Dev) (g : Grp) : Dev :=
  if !d.seeking g then d
  else
    let s := d.srv[g]
    let tgt : Int := s.target * 2 ^ 20
    let e := tgt - s.rpos
    -- 2^-24 by 2^-20, so that the root is in 2^-22
    let vdec : Int := isqrt (2 * d.refWide g 2 4 * e.natAbs).toNat / 4
    let vmag := min (min (s.v.natAbs + d.refParam g 1 4) (d.refParam g 0 0)) vdec
    let vnew := if e < 0 then -vmag else vmag
    let r := s.rpos + vnew
    let near := decide (((tgt - r).natAbs : Int) ≤ asr (d.coef g (d.get SRV_BAND_SEL.CUR g) 9 3) 4)
    if near then
      let d := d.onSrv g fun s => { s with rpos := tgt, v := 0, aref := 0 }
      if d.srvState g == stSeek then d.enter g stSettle
      else d.onSrv g fun s => { s with ramp := true }
    else d.onSrv g fun s => { s with rpos := r, v := vnew, aref := vnew - s.v }

/-! ### Injection -/

/-- The generator's signal s_k of the sample (R256), in Q1.15, with the free place of the swept sine
within its 2 LSB. -/
def Dev.icuSignal (d : Dev) (g : Grp) : Int × Dev :=
  let u := d.srv[g].icu
  match d.get SRV_ICU_CTRL.TYPE g with
  | 0 =>
    let (k, d) := d.draw
    (clamp (-32768) 32767 (sine15 (u.phi % 2 ^ 32) + (Config.freeValue k % 5 : Nat) - 2), d)
  | 1 => (if u.lfsr.testBit 14 then 32767 else -32767, d)
  | _ =>
    let w := d.word SRV_ICU_TABLE g (u.step / 2)
    (sext 16 (bits w (16 * (u.step % 2)) 16), d)

/-- Entries, bits or frequencies of the program (R256). -/
def Dev.icuCount (d : Dev) (g : Grp) : Nat :=
  let n := atLeast1 (d.get SRV_ICU_SWEEP.COUNT g)
  if d.get SRV_ICU_CTRL.TYPE g = 2 then min n 4096 else n

/-- Samples that one frequency, bit or entry lasts. -/
def Dev.icuHold (d : Dev) (g : Grp) : Nat :=
  if d.get SRV_ICU_CTRL.TYPE g = 0 then atLeast1 (d.get SRV_ICU_SWEEP.DWELL g)
  else atLeast1 (d.get SRV_ICU_AMP.HOLD g)

/-- The generator at the start of its program (R256). -/
def Dev.icuInit (d : Dev) (g : Grp) : Dev :=
  let f := (d.word SRV_ICU_F0 g).toNat
  d.onSrv g fun s => { s with icu :=
    { s.icu with phi := 0, freq := f, lfsr := 1, step := 0, held := 0 } }

/-- The program has ended: it restarts with LOOP, else the generator stops; a start that waits stays (R255, R256). -/
def Dev.icuEnd (d : Dev) (g : Grp) : Dev :=
  if d.on SRV_ICU_CTRL.LOOP g then d.icuInit g else d.icuRest g

/-- The running program has reached COUNT (R256). -/
def Dev.icuDone (d : Dev) (g : Grp) : Bool :=
  d.on SRV_ICU_CTRL.RUN g && decide (d.icuCount g ≤ d.srv[g].icu.step)

/-- Advance the generator by one sample (R256). -/
def Dev.icuAdvance (d : Dev) (g : Grp) : Dev :=
  let u := d.srv[g].icu
  let lastHold := decide (d.icuHold g ≤ u.held + 1)
  let step := if lastHold then u.step + 1 else u.step
  let u' : Icu :=
    { u with phi := (u.phi + u.freq) % 2 ^ 32, held := if lastHold then 0 else u.held + 1,
             step := step,
             freq := if lastHold then (u.freq + (d.word SRV_ICU_FSTEP g).toNat) % 2 ^ 32 else u.freq,
             lfsr := if lastHold then
                 (u.lfsr * 2 + (u.lfsr.testBit 14 ^^ u.lfsr.testBit 13).toNat) % 2 ^ 15
               else u.lfsr }
  d.onSrv g fun s => { s with icu := u' }

/-- The generator in one sample: stop, start, signal (R255 to R257). -/
def Dev.icuSample (d : Dev) (g : Grp) : Dev :=
  let d := d.when d.srv[g].icu.stop (·.icuRest g)
  let d := d.when (d.icuDone g) (·.icuEnd g)
  let start := d.srv[g].icu.armed && (!d.on SRV_ICU_CTRL.SYNC g || d.srv[g].wedge == 0)
  let d := d.when start fun d =>
    let d := (d.icuInit g).onSrv g fun s => { s with icu := { s.icu with armed := false } }
    ((d.set SRV_ICU_CTRL.RUN 1 g).set SRV_ICU_CTRL.GO 0 g).trigger g 1
  if !d.on SRV_ICU_CTRL.RUN g then d
  else
    let (x, d) := d.icuSignal g
    let amp : Int := d.get SRV_ICU_AMP.AMP g
    let d := d.onSrv g fun s => { s with icu := { s.icu with inj := asr (x * amp + 2 ^ 14) 15 } }
    d

/-! ### Capture -/

/-- The word of a capture source (R258). -/
def Dev.capSource (d : Dev) (g : Grp) (xhat : Vector Int 32) (z : List (Nat × Int)) (u : List Int)
    (code : Nat) : Word :=
  let s := d.srv[g]
  let entry := fun c => ((z.find? fun p => p.1 == c).map Prod.snd).getD 0
  if h : code < 8 then
    BitVec.ofInt 32 (sat32 (s.y[code] + (if d.get SRV_ICU_CTRL.HEAD g == code then 256 * d.injAt g 1 else 0)))
  else if 0x10 ≤ code ∧ code < 0x20 then BitVec.ofInt 32 (entry (32 + (code - 0x10)))
  else if h : 0x20 ≤ code ∧ code < 0x40 then BitVec.ofInt 32 xhat[code - 0x20]
  else if 0x40 ≤ code ∧ code ≤ 0x48 then BitVec.ofInt 32 (u.getD (code - 0x40) 0)
  else if h : 0x50 ≤ code ∧ code ≤ 0x58 then BitVec.ofInt 32 s.applied[code - 0x50]
  else if code = 0x60 then BitVec.ofInt 32 s.rpos
  else if code = 0x61 then BitVec.ofInt 32 (entry 48)
  else if code = 0x62 then BitVec.ofInt 32 (entry 49)
  else if code = 0x63 then BitVec.ofInt 32 s.icu.inj
  else if code = 0x64 then BitVec.ofInt 32 (sext 16 (d.get SRV_AMP_MEAS.IVCM g))
  else if code = 0x65 then BitVec.ofInt 32 (sext 16 (d.get SRV_AMP_MEAS.BEMF g))
  else 0

/-- The record's status word, bytes 36 to 39 (R258). -/
def Dev.capStatus (d : Dev) (g : Grp) (trig sat : Bool) : Word :=
  BitVec.ofNat 32 (d.srv[g].wedge % 1024 + 2 ^ 10 * d.get SRV_BAND_SEL.CUR g +
    2 ^ 15 * d.srvState g + 2 ^ 19 * d.get SRV_ICU_CTRL.RUN g + 2 ^ 20 * trig.toNat +
    2 ^ 21 * sat.toNat + 2 ^ 22 * d.get SRV_STATUS.TIMER g)

/-- The capture ends: the result record and the interrupt (R260, R261). -/
def Dev.capEnd (d : Dev) (g : Grp) (overrun aborted : Bool) : Dev :=
  let c := d.srv[g].cap
  let kept := if c.trigged then c.preKept else min (d.get SRV_CAP_LEN.PRE g) c.sample
  let d := (((d.set SRV_CAP_RESULT.OVERRUN overrun.toNat g).set SRV_CAP_RESULT.ABORTED aborted.toNat g).set
    SRV_CAP_RESULT.TRIGGERED c.trigged.toNat g).set SRV_CAP_RESULT.PRE_KEPT kept g
  let d := (d.stamp SRV_CAP_RESULT.VALID SRV_CAP_RESULT.SEQ g).raise SRV_INT_STATUS.CAPTURE g
  (d.set SRV_CAP_CTRL.ARM 0 g).onSrv g fun s =>
    { s with cap := { s.cap with trigged := false, trigNow := false } }

/-- The trigger of the sample: one that an event marked, or a sample of wedge 0 (R260). -/
def Dev.capTrigger (d : Dev) (g : Grp) : Bool :=
  !d.srv[g].cap.trigged && (d.srv[g].cap.trigNow ||
    (d.get SRV_CAP_CTRL.TRIG g == 4 && d.srv[g].wedge == 0))

/-- The last record after the trigger has been written (R260). -/
def Dev.capDone (d : Dev) (g : Grp) : Bool :=
  d.on SRV_CAP_CTRL.ARM g && d.srv[g].cap.trigged && d.srv[g].cap.left == 0

/-- Form the sample's capture record (R258 to R260). -/
def Dev.capSample (d : Dev) (g : Grp) (xhat : Vector Int 32) (z : List (Nat × Int)) (u : List Int)
    (sat : Bool) : Dev :=
  if !d.on SRV_CAP_CTRL.ARM g then d
  else if d.capDone g then d.capEnd g false false
  else if 16 ≤ d.srv[g].cap.fifo.length then (d.bump SRV_CAP_STATUS.DROPPED g).capEnd g true false
  else
    let trig := d.capTrigger g
    let sel := (List.range 8).map fun k => bits (d.word SRV_CAP_SEL g (k / 4)) (8 * (k % 4)) 8
    let rec_ := sel.map (d.capSource g xhat z u) ++
      [BitVec.ofNat 32 d.srv[g].cap.sample, d.capStatus g trig sat] ++ List.replicate 6 0
    let written := d.get SRV_CAP_STATUS.WRITTEN g
    let pre := d.get SRV_CAP_LEN.PRE g
    let d := d.set SRV_CAP_STATUS.WRITTEN (written + 1) g
    let d := d.onSrv g fun s => { s with cap :=
      { s.cap with fifo := s.cap.fifo ++ [rec_], sample := s.cap.sample + 1,
                   trigged := s.cap.trigged || trig, trigNow := false,
                   preKept := if trig then min pre s.cap.sample else s.cap.preKept,
                   left := if trig then d.get SRV_CAP_LEN.LEN g - pre else s.cap.left - 1 } }
    d

/-! ### Transfer to automatic control -/

/-- Preset one state (R252). -/
def Dev.presetState (g : Grp) (int : Option Nat) (j : Fin 32) (d : Dev) : Dev :=
  let x : Int :=
    match d.get SRV_PRESET.MODE g j with
    | 1 => 0
    | 2 => sat32 (asr (d.meas g (d.get SRV_PRESET.SRC g j) *
        sext 16 (d.get SRV_PRESET.GAIN g j) + 2 ^ 13) 14)
    | _ => d.srv[g].xhat[j]
  if int == some j.val || d.get SRV_DIM.N_STATES g ≤ j.val then d
  else d.onSrv g fun s => { s with xhat := s.xhat.set j x }

/-- Solve the integrator state (R253), and whether S saturated (R207, R209). -/
def Dev.solveInt (d : Dev) (g : Grp) (j : Fin 32) (applied : Int) : Dev × Bool :=
  let set := d.get SRV_BAND_SEL.CUR g
  let z := (d.vectorLow g).filter fun p => p.1 != j.val
  let (s, sat) := d.rowAcc g set 0 z
  let u := d.coef g set 0 j
  let d := d.when sat (·.raise SRV_INT_STATUS.SAT g)
  let d := if u = 0 then
      (d.onSrv g fun s => { s with xhat := s.xhat.set j 0 }).set SRV_SUP_STATUS.PRESET_ERR 1 g
    else d.onSrv g fun t => { t with xhat := t.xhat.set j (sat32 (roundDiv (applied * 2 ^ 30 - s) u)) }
  (d, sat)

/-- A load begins the prediction anew: no head is lost (DEDUCED, log entry 134). -/
def Dev.freshHeads (d : Dev) (g : Grp) : Dev :=
  (d.set SRV_STATUS.LOST 0 g).onSrv g fun s => { s with miss := Vector.replicate 8 0, good := Vector.replicate 8 0 }

/-- Steps 1 to 5 of the transfer sample toward a cylinder (R251), and whether S saturated. -/
def Dev.transferTo (d : Dev) (g : Grp) (cyl : Nat) (i : HeadIx) (r : ServoRec) : Dev × Bool :=
    let a := d.srv[g].applied[(0 : Fin 9)]
    let seen := d.transferHeads g
    let d := d.onSrv g fun s =>
      { s with rpos := recPos r - d.headOfs g i, v := 0, aref := 0, target := cyl, transfer := none,
               wedge := r.wedge }
    let d := d.when (d.srvState g == stLoading) (·.freshHeads g)
    let d := d.each seen fun p d => d.onSrv g fun s =>
      { s with y := s.y.set p.1 (d.posError g p.1 p.2), held := clearBit s.held p.1 }
    let int := (List.finRange 32).find? fun (j : Fin 32) =>
      decide (j.val < d.get SRV_DIM.N_STATES g) && d.get SRV_PRESET.MODE g j == 3
    let d := d.each (List.finRange 32) (Dev.presetState g (int.map Fin.val))
    match int with
    | some j => d.solveInt g j a
    | none => (d, false)

/-! ### Latching commands -/

/-- A seek is latched, and counted with code 0x407 (R220, R221, R577). -/
def Dev.startSeek (d : Dev) (g : Grp) (cyl : Nat) : Dev :=
  let d := d.count 0x407 (some g)
  if d.srvState g == stTrack && d.srv[g].target == cyl then
    (d.raise SRV_INT_STATUS.ON_TRACK g).onSrv g fun s =>
      { s with fe := Vector.replicate 8 0 }
  else (d.enter g stSeek).onSrv g fun s => { s with target := cyl }

/-- A load begins toward a cylinder: heaters at IDLE, ENABLE, LOADING (R224, step 1). -/
def Dev.startLoad (d : Dev) (g : Grp) (cyl : Nat) : Dev :=
  ((d.safetyHeaters g).enter g stLoading).onSrv g fun s =>
    { s with loadCyl := some cyl, loadSeen := [], loadHead := none, loadFailed := false, ramp := false }

/-- A LOAD finds what R224 and R245 ask: PARKED, no RET_LATCH, the published band valid and at or above MIN_BAND, the speed
regulated. -/
def Dev.loadOk (d : Dev) (g : Grp) : Bool :=
  d.srvState g == stParked && !d.on SRV_SUP_STATUS.RET_LATCH g &&
    bit (d.get SRV_BAND_VALID.VALID g) (d.get SRV_BAND_SEL.MEAS g) &&
    decide (d.get SRV_LOAD_CFG.MIN_BAND g ≤ d.get SRV_BAND_SEL.MEAS g) && d.on SPN_STATUS.REGULATED

/-- A LOAD is latched, or dropped with CMD_ERR. -/
def Dev.latchLoad (d : Dev) (g : Grp) (cyl : Nat) : Dev :=
  if d.loadOk g then d.startLoad g cyl else d.raise SRV_INT_STATUS.CMD_ERR g

/-- A SRV_CMD operation that its state accepts is latched (R220, R224, R225). -/
def Dev.latchCmd (d : Dev) (g : Grp) : Dev :=
  let st := d.srvState g
  let cyl := d.get SRV_CMD.CYL g
  match d.get SRV_CMD.OP g with
  | 0 =>
    if d.tok.held[g] != 0 then d
    else if st == stSeek || st == stSettle || st == stTrack then
      (d.set SRV_CMD.GO 0 g).startSeek g cyl
    else (d.set SRV_CMD.GO 0 g).raise SRV_INT_STATUS.CMD_ERR g
  | 2 =>
    if d.tok.held[g] != 0 then d
    else if !(st == stSeek || st == stSettle || st == stTrack) then
      (d.set SRV_CMD.GO 0 g).raise SRV_INT_STATUS.CMD_ERR g
    else (((d.set SRV_CMD.GO 0 g).enter g stUnloading).inhibitAll g).onSrv g fun s =>
      { s with target := 0, ramp := false }
  | 1 => (d.set SRV_CMD.GO 0 g).latchLoad g cyl
  | _ => d.set SRV_CMD.GO 0 g

/-- The scheduler's request is latched; a new target waits until no token is held (R220, R221). -/
def Dev.latchRequest (d : Dev) (g : Grp) : Dev :=
  match d.srv[g].request with
  | none => d
  | some cyl =>
    let st := d.srvState g
    let same := st == stTrack && d.srv[g].target == cyl
    if (d.tok.held[g] != 0 && !same) || !(st == stSeek || st == stSettle || st == stTrack) then d
    else (d.onSrv g fun s => { s with request := none }).startSeek g cyl

/-- A mode command is latched (R247, R248, R250); in a state that has come not to accept it, it is dropped with CMD_ERR. -/
def Dev.latchMode (d : Dev) (g : Grp) : Dev :=
  let st := d.srvState g
  let manual := d.get SRV_MODE_CMD.OP g == 0
  if !(if manual then st == stSeek || st == stSettle || st == stTrack else st == stManual) then
    (d.set SRV_MODE_CMD.GO 0 g).raise SRV_INT_STATUS.CMD_ERR g
  else match d.get SRV_MODE_CMD.OP g with
  | 0 =>
    let d := d.when (d.srvState g == stTrack) (·.loseTrack g)
    let v := d.srv[g].vcm
    (((d.set SRV_MODE_CMD.GO 0 g).enter g stManual).inhibitAll g |>.set SRV_MAN_TGT.TARGET (twos 20 v) g).onSrv
      g fun s => { s with man := v }
  | _ =>
    if d.srv[g].blend.isSome || (d.refHead g).isNone then d
    else (d.set SRV_MODE_CMD.GO 0 g).onSrv g fun s =>
      { s with transfer := some (d.get SRV_MODE_CMD.CYL g) }

/-- What is latched at t0 (R220, R247): a mode command before a SRV_CMD operation; the mode sequencer's LOAD whatever
FW_OWN holds (R224). -/
def Dev.latch (d : Dev) (g : Grp) : Dev :=
  let due := d.srv[g].loadDue
  let d := d.when due fun d => (d.onSrv g fun s => { s with loadDue := false }).latchLoad g 0
  if d.on SRV_MODE_CMD.GO g then
    let d := d.when (d.on SRV_CMD.GO g) fun d =>
      (d.set SRV_CMD.GO 0 g).raise SRV_INT_STATUS.CMD_ERR g
    d.latchMode g
  else if d.on SRV_CMD.GO g then d.latchCmd g
  else if d.on SRV_CTRL.FW_OWN g then d
  else d.latchRequest g

/-! ### Loading -/

/-- Step 3 of a load: a member head gives valid marks, with cylinders that differ by at most 4, in
two consecutive samples; then the transfer is due at the next sample (R224). -/
def Dev.loadSample (d : Dev) (g : Grp) : Dev :=
  if d.srvState g != stLoading || d.srv[g].loadFailed || (d.srv[g].transfer).isSome then d
  else
    let found := (d.markedHeads g).map fun p => (p.1, p.2.cyl)
    let agrees := fun (p : HeadIx × Nat) => d.srv[g].loadSeen.any fun q =>
      q.1 == p.1 && decide (((q.2 : Int) - p.2).natAbs ≤ 4)
    match found.find? agrees with
    | some (i, _) => d.onSrv g fun s => { s with loadSeen := found, loadHead := some i, transfer := s.loadCyl }
    | none => d.onSrv g fun s => { s with loadSeen := found }

/-! ### The sample -/

/-- The vector window takes the sample's values (R233). -/
def Dev.window (d : Dev) (g : Grp) (z : List (Nat × Int)) : Dev :=
  if d.on SRV_OBS_CTRL.FREEZE g then d
  else
    let s := d.srv[g]
    let entry := fun c => ((z.find? fun p => p.1 == c).map Prod.snd).getD 0
    let d := d.each (List.range 32) fun j d => d.setWord SRV_XHAT (BitVec.ofInt 32 (entry j)) g j
    let d := d.each (List.range 16) fun j d => d.setWord SRV_Y (BitVec.ofInt 32 (entry (32 + j))) g j
    let d := d.each (List.finRange 9) fun k d => d.setWord SRV_U (BitVec.ofInt 32 s.applied[k]) g k
    d.set SRV_OBS_CTRL.SEQ s.sampleNo g

/-- The law of the sample: U rows, allocation, frame, X rows, window, capture, reference (R204, with the latency table of
R232); `man`: the applied manual code moves (R248); `xfer`: the transfer sample, which enters SEEK after the X rows (R251
step 7); `flagged`: a saturation was flagged before. -/
def Dev.law (d : Dev) (g : Grp) (man xfer flagged : Bool) : Dev :=
  let z := d.vectorLow g
  let us := (List.range 9).map (d.uPre g z xfer)
  let u := us.map Prod.fst
  let (mc, over_) := d.manualCode g
  let move := man && !xfer && d.srvState g == stManual
  let lim := move && over_
  let d := d.when move fun d => (d.when lim (·.raise SRV_INT_STATUS.SAT g)).onSrv g fun s => { s with man := mc }
  let d := (d.allocate g xfer u).sendDown g false
  let s := d.srv[g]
  let zx := z ++ (List.finRange 9).map fun k => (52 + k.val, s.applied[k])
  let n := d.get SRV_DIM.N_STATES g
  let xs := (List.range n).map fun j => d.row g (d.get SRV_BAND_SEL.CUR g) (16 + j) zx
  let sat := (us.any Prod.snd) || (xs.any Prod.snd)
  let d := d.when sat (·.raise SRV_INT_STATUS.SAT g)
  let d := d.window g z
  let d := d.capSample g s.xhat z u (flagged || sat || lim || s.fineSat != 0)
  let d := d.when xfer (·.enter g stSeek)
  let d := d.reference g
  d.onSrv g fun s => { s with xhat := Vector.ofFn fun (j : Fin 32) => (xs.getD j (0, false)).1 }

/-- The law of a transfer sample, and what its load reports (R224 step 4, R251). -/
def Dev.transferLaw (d : Dev) (g : Grp) (cyl : Nat) (i : HeadIx) (r : ServoRec) : Dev :=
  let load := d.srvState g == stLoading
  let (d, flagged) := d.transferTo g cyl i r
  let d := d.law g false true flagged
  -- the heaters, at IDLE since step 1, take their read codes (R147; DESIGN CHOICE, log entry 145)
  d.when load fun d => ((d.each (headsOf (d.get FMT_LANES.PRESENT g)) fun i d => d.orderHeater g i 4).raise
    SRV_INT_STATUS.LOAD_DONE g).onSrv g fun s => { s with loadCyl := none }

/-- One sample of the engine (R196, R204, R234): generator, measurement and supervision, then band switch and what is
latched, so that a retract of the sample goes before a request of the same t0 (R241). -/
def Dev.sample (d : Dev) (g : Grp) : Dev :=
  if d.srvState g == stOff then d
  else
    let wl := d.get WLS_STATUS.STATE g
    let d := d.set SRV_STATUS.TIMER (!(wl == 2 || wl == 3)).toNat g
    -- the sequence that this sample's frame follows
    let seq := d.srv[g].seq
    let d := ((((d.publish).blendNext g).icuSample g).measureAll g).supervise g
    -- a later sample of MANUAL (R248)
    let man := d.srvState g == stManual
    let d := (d.bandSample g).latch g
    let d := (d.when (d.srvState g != stTrack) (·.inhibitNow g)).settle g
    let xfer := match d.srv[g].transfer, d.refHead g with
      | some cyl, some (i, r) => some (cyl, i, r)
      | _, _ => none
    let d := (d.loadSample g).onSrv g fun s => { s with seq := seq }
    let d := match xfer with
      | some (cyl, i, r) => d.transferLaw g cyl i r
      | none => d.law g man false false
    let d := d.when (d.on SRV_ICU_CTRL.RUN g) (·.icuAdvance g)
    d.onSrv g fun s =>
      { s with recs := [], sampleNo := (s.sampleNo + 1) % 2 ^ 16,
               wedge := if d.nw = 0 then 0 else (s.wedge + 1) % d.nw }

/-! ### Register writes of the servo engine -/

/-- A write of SRV_CTRL: FW_OWN stays 1 in MANUAL, a write that would clear it is refused there
(R247). -/
def Dev.srvCtrlWrite (d : Dev) (who : Who) (g : Grp) (v : Word) : Dev :=
  let keep : Word := if d.srvState g == stManual then 2 else 0
  d.plainWrite who SRV_CTRL g 0 v keep

/-- A coefficient set may not be written through the window: outside LAST_LOAD and MAKER_SERVICE, the
set named by CUR, either set of a running blend (R215). -/
def Dev.coefLocked (d : Dev) (g : Grp) (set : Nat) : Bool :=
  !d.inMode [.lastLoad, .makerService] ||
    d.get SRV_BAND_SEL.CUR g == set ||
    (match d.srv[g].blend with
     | some (old, _) => old == set
     | none => false)

end Sys2Proof.Machine
end

