-- ==== Sys2Proof/Machine/Modes.lean ====
section
/-! DEFINITION. The mode sequencer (R597 to R610), spin-down (R310), the flush (R324 to R329) and the
preparation of a warm reset (R581): the operations that every family drives modes with. -/

namespace Sys2Proof.Machine

def Dev.onSeq (d : Dev) (f : SeqSt → SeqSt) : Dev := { d with seq := f d.seq }

/-! ### Mode changes -/

/-- A running injection is abandoned (R548). -/
def Dev.abandonInjection (d : Dev) : Dev :=
  (d.set FLT_INJ_CTRL.GO 0).set FLT_INJ_STATUS.ACTIVE 0

/-- Change the mode: every merge-buffer entry is written out before a merging mode is left (R468), an
injection ends with MAKER_SERVICE (R548), MODE_CHANGE. -/
def Dev.setMode (d : Dev) (m : Mode) : Dev :=
  let old := d.mode
  if old == m then d
  else
    let d := d.when d.merging (·.mergeFlush)
    let d := d.when (old == .makerService) (·.abandonInjection)
    let d := (d.set SYS_MODE.PREV old.code).set SYS_MODE.MODE m.code
    (d.when (m != .safe) (·.set SYS_MODE.SAFE_CAUSE 0)).raise SYS_INT_STATUS.MODE_CHANGE

/-- SAFE with a cause (R605). -/
def Dev.enterSafe (d : Dev) (cause : Nat) : Dev :=
  let d' := ((d.setMode .safe).set SYS_MODE.SAFE_CAUSE cause).onSeq fun s => { s with safeStart := 0 }
  d'.when (d.mode != .safe) (·.raise SYS_INT_STATUS.SAFE)

/-- A start runs up to REGULATED: SPIN_UP, or its phase in SAFE (R597, R605). -/
def Dev.startRuns (d : Dev) : Bool := d.mode == .spinUp || (d.mode == .safe && d.seq.safeStart == 1)

/-- SAFE's cause leaves reads served (R605). -/
def Dev.safeReads (d : Dev) : Bool := d.get SYS_MODE.SAFE_CAUSE == 1 || d.get SYS_MODE.SAFE_CAUSE == 2

/-! ### Ceiling and the start target -/

/-- The ceiling band of an operational power state (R608). -/
def psCeil : Nat → Nat
  | 1 => 17 | 2 => 9 | _ => 23

/-- CEIL as R306 uses it (R608). -/
def Dev.ceilEff (d : Dev) : Nat := min (d.get RMT_HOST.CEIL) (psCeil d.opPs)

def Dev.showCeil (d : Dev) : Dev := d.set SYS_MODE.CEIL_EFF d.ceilEff

/-- The target of R311: 7,200 rpm within S of the floor and of the ceiling band. -/
def Dev.startTarget (d : Dev) : Nat :=
  max (bandSpeed (d.get RMT_HOST.FLOOR)) (min (bandSpeed d.ceilEff) 115200)

/-- The mode sequencer issues a spindle command: 0 START, 1 STOP, 2 COAST (R300). -/
def Dev.spnIssue (d : Dev) (op : Nat) : Dev := (d.set SPN_CMD.OP op).set SPN_CMD.GO 1

/-- START with the target of R311, unless a power-loss detection is latched (R325). -/
def Dev.issueStart (d : Dev) : Dev :=
  let d := d.set SPN_TARGET.TARGET d.startTarget
  let regen := d.get SPN_STATUS.STATE = 11 ∧ d.get SPN_STOP_STATUS.PHASE = 2
  if d.spn.pf ∨ regen then d.onSpn fun s => { s with restart := true }
  else (d.onSpn fun s => { s with restart := false }).spnIssue 0

/-- Enter SPIN_UP (R311, R596 step 7). -/
def Dev.enterSpinUp (d : Dev) : Dev :=
  ((d.setMode .spinUp).onSeq fun s => { s with spinDown := 0, ending := false, loads := false, tries := 0 }).issueStart

/-! ### Groups at rest -/

/-- Sectors of the log ring (R369). -/
def ringSize : Nat := 258032

/-- Every group is PARKED or OFF. -/
def Dev.allParked (d : Dev) : Bool :=
  (List.finRange 4).all fun g => d.srvState g == stParked || d.srvState g == stOff

/-- PARKED: the ramp is reached (R225, R244). -/
def Dev.park (d : Dev) (g : Grp) : Dev :=
  ((d.enter g stParked).inhibitAll g).onSrv g fun s =>
    { s with ramp := false, loadFailed := false, loadCyl := none, loadSeen := [], loadHead := none, loadDue := false, transfer := none,
             request := none, vcm := 0, fine := Vector.replicate 8 0, applied := Vector.replicate 9 0 }

/-- The mode sequencer issues a LOAD toward cylinder 0 to every group with heads that is not fenced, which the group
latches at its next t0 (R220, R596 step 9). -/
def Dev.loadAll (d : Dev) : Dev :=
  d.each (List.finRange 4) fun g d =>
    d.when (d.hasHeads g && !d.grpFenced g && d.srvState g == stParked) (·.onSrv g fun s => { s with loadDue := true })

/-- Enter HEAD_LOAD (R596 step 9). -/
def Dev.enterHeadLoad (d : Dev) : Dev :=
  ((d.setMode .headLoad).onSeq fun s => { s with loads := true, cal := false, step11 := false, tries := 0 }).loadAll

/-- Every group that tracks unloads (R225): the mode sequencer's UNLOAD. -/
def Dev.unloadAll (d : Dev) : Dev :=
  d.each (List.finRange 4) fun g d =>
    let st := d.srvState g
    if st == stSeek || st == stSettle || st == stTrack || st == stManual then
      ((d.enter g stUnloading).inhibitAll g).onSrv g fun s =>
        { s with target := 0, ramp := false, request := none }
    else d

/-- The warm reset can be taken: the WARM_RESET event takes it (R580). -/
def Dev.warmReady (d : Dev) : Dev := d.onSeq fun s => { s with prep := 5 }

/-! ### Spin-down (R310) and warm-reset preparation (R581) -/

/-- The held portion and the media queues are empty, and no long-operation step runs; in SAFE the held
portion is not waited for (R310 step 3, R605), nor where no group can write it before a warm reset. -/
def Dev.drained (d : Dev) : Bool :=
  (d.heldEmpty || d.mode == .safe || (d.seq.prep != 0 && d.allParked)) && d.band.intents.isEmpty &&
    (List.finRange 4).all (fun g => d.grpq[g].list.isEmpty && d.grpq[g].active.isNone &&
      d.grpq[g].posted.isEmpty) &&
    d.band.ops.all fun o => o.running == 0

/-- The last sectors that a ring holds (R369). -/
def keepRing (l : List LogSector) : List LogSector := l.drop (l.length - ringSize)

/-- A copy after a checkpoint (R370): it goes to the other region, and the one before it stays; a copy built in another group
starts anew. -/
def JnlCopy.withCheckpoint (c : JnlCopy) (grp : Nat) (cp : Checkpoint) : JnlCopy :=
  if c.readable && c.grp = grp then { c with cp := { cp with region := !c.cp.region }, old := some c.cp }
  else { readable := true, cp := cp, next := cp.ring, grp := grp }

/-- The tables as a checkpoint written now holds them. -/
def Dev.checkpointNow (d : Dev) : Checkpoint :=
    { gen := d.band.gen, epoch := d.epoch, dir := d.band.dir, maps := d.band.maps, lost := d.band.lost
      cursors := d.band.cursor.toList
      -- a sector on its way has a number already
      ring := d.band.ring - d.band.commit.isSome.toNat }

/-- A checkpoint is written to every copy in use (R367, R370). -/
def Dev.checkpoint (d : Dev) : Dev :=
  let cp := d.checkpointNow
  let okA := d.jnlCopies.any fun c => !c.1
  let okB := d.jnlCopies.any Prod.fst
  let d := d.onBand fun b => { b with sinceCp := 0 }
  { d with media := { d.media with
      jnlA := if okA then d.media.jnlA.withCheckpoint (d.get CBL_JNL.COPY_A) cp else d.media.jnlA
      jnlB := if okB then d.media.jnlB.withCheckpoint (d.get CBL_JNL.COPY_B) cp else d.media.jnlB } }

/-- Step 2 of a spin-down and of the preparation: the almanac is appended and closed, a checkpoint is
written (R370, R556); in SAFE nothing is written (R605). -/
def Dev.closeMedia (d : Dev) : Dev := if d.mode == .safe then d else (d.almAppend true).checkpoint

/-- Steps that follow the groups' reaching PARKED (R310 step 4, R581 step 4). -/
def Dev.spinParked (d : Dev) : Dev :=
  if d.seq.spinDown = 3 then (d.onSeq fun s => { s with spinDown := 4 }).spnIssue 1
  else if d.seq.prep = 3 then (d.spnIssue 2).warmReady
  else d

/-- Steps 2 to 4 as far as they can go now (R310, R581). -/
def Dev.spinAdvance (d : Dev) : Dev :=
  let want := d.seq.spinDown = 1 || d.seq.spinDown = 2
  let wantP := d.seq.prep = 1 || d.seq.prep = 2
  if (want || wantP) && d.drained then
    let d := d.closeMedia.onSeq fun s =>
      { s with spinDown := if want then 3 else s.spinDown, prep := if wantP then 3 else s.prep }
    let d := d.unloadAll
    if d.allParked then d.spinParked else d
  else d

/-- A spin-down is accepted (R310 step 1). -/
def Dev.startSpinDown (d : Dev) : Dev :=
  (d.onSeq fun s => { s with spinDown := 1 }).spinAdvance

/-- ACTIVE or GLIDE, with a held spin-down taken (R411, R600). -/
def Dev.enterActive (d : Dev) : Dev :=
  let d := d.setMode (if d.on SPN_STATUS.GLIDING then .glide else .active)
  let d := d.onSeq fun s => { s with served := true }
  if d.seq.spinHeld = some false then
    (d.onSeq fun s => { s with spinHeld := none }).startSpinDown
  else d

/-! ### Flush -/

/-- Buffers of the held portion, each as an extent; an extent whose buffer reads poisoned is listed and
not written (R327, R546). While restored extents are held, the flush area keeps their image and is not written
(R330). -/
def Dev.heldExts (d : Dev) : List FlushExt :=
  let bufs := if d.que.held.any Held.restored then [] else (d.que.held.map Held.buf).dedup
  bufs.filterMap fun b =>
    let hs := d.que.held.filter fun h => h.buf == b
    match hs with
    | [] => none
    | h :: _ => some ⟨h.nsid, h.kind, hs.map fun x => (x.lba, x.zero, x.data),
        !(d.mem.poison.any fun p => p / 2048 == b)⟩

/-- Deal a list to groups in turn. -/
def deal (gs : List Grp) : Nat → List FlushExt → List (Grp × FlushExt)
  | _, [] => []
  | k, e :: t =>
    match gs[k % (max gs.length 1)]? with
    | some g => (g, e) :: deal gs (k + 1) t
    | none => []

/-- Split a run of welts by tracks: cylinder, sector, count. -/
def Dev.trackSpans (d : Dev) (g : Grp) : Nat → Nat → Nat → List (Nat × Nat × Nat)
  | 0, _, _ => []
  | fuel + 1, w, n =>
    if n = 0 then []
    else
      let (c, k) := d.locate g w
      let m := min n (max 1 (d.sptAt g c - k))
      (c, k, m) :: d.trackSpans g fuel (w + m) (n - m)

/-- The first flush band of a group (R327, R353). -/
def Dev.flushBand (d : Dev) (g : Grp) : Option (Nat × BandEntry) :=
  (d.bandsOf g).find? fun p => p.2.state == bsFlush

/-- FLUSH requests of one part over a run of welts (R187, R327). -/
def Dev.flushReqs (d : Dev) (g : Grp) (part w n members : Nat) : Dev :=
  d.each (d.trackSpans g n w n) fun s d =>
    d.addReq g ⟨4, s.1, s.2.1, s.2.2, 0, 0, members, 0, false⟩ (.flush part)

/-- Welts of a directory copy of n entries of 16 bytes, with D data members (R327). -/
def flushDirWelts (n data : Nat) : Nat := max 1 (((n * 16 + 4095) / 4096 + data - 1) / data)

/-- The layout of one group: directory, data, trailer (R327). A group that is not loaded has stopped (R328). -/
def Dev.layFlush (exts : List (Grp × FlushExt)) (g : Grp) (d : Dev) : Dev :=
  match d.loaded g, d.flushBand g with
  | false, _ | _, none => d
  | true, some (_, e) =>
    let dd := max e.data 1
    let mem := e.members
    let dirW := flushDirWelts exts.length dd
    let secs := ((exts.filter fun p => p.1 == g && p.2.whole).map fun p => p.2.sectors.length).sum
    let dataW := (secs + dd - 1) / dd
    ((d.flushReqs g 0 e.startWelt dirW mem).flushReqs g 1 (e.startWelt + dirW) dataW mem).flushReqs g 2
      (e.startWelt + dirW + dataW) 1 mem

/-- The extents of a flush as the media hold them: whole are those whose sectors all fall within the data their group has written
(R330). -/
def Dev.flushed (d : Dev) (r : FlushRun) : List FlushExt :=
  (List.finRange 4).flatMap fun (g : Grp) =>
    let mine := (r.exts.filter fun (p : Grp × FlushExt) => p.1 == g).map Prod.snd
    let dd := ((d.flushBand g).map fun (p : Nat × BandEntry) => p.2.data).getD 1
    (mine.foldl (fun (a : Nat × List FlushExt) (e : FlushExt) =>
      if e.whole then
        let n := a.1 + e.sectors.length
        (n, a.2 ++ [{ e with whole := decide (n ≤ r.welts[g] * dd) || bit r.ended g }])
      else (a.1, a.2 ++ [e])) (0, [])).2

/-- The flush image as far as it has come, from the first directory copy on (R330). -/
def Dev.storeFlush (d : Dev) : Dev :=
  match d.que.flush with
  | none => d
  | some r => if r.dirs = 0 then d else { d with media := { d.media with flush := some ⟨r.epoch, d.flushed r⟩ } }

/-- The flush is over: its image stands on the media, and every group retracts with cause MODE
(R329, R330). -/
def Dev.endFlush (d : Dev) : Dev :=
  let d := ((d.storeFlush.onQue fun q => { q with flush := none }).onSeq fun s => { s with ending := true }).retractAll 9
  d.each (List.finRange 4) fun g d =>
    (d.onGrpq g fun q => { q with list := q.list.filter fun m => !m.isFlush }).showGrpq g

/-- A group still has a FLUSH request. -/
def Dev.flushLeft (d : Dev) : Bool :=
  (List.finRange 4).any fun g =>
    (d.grpq[g].list ++ d.grpq[g].active.toList ++ d.grpq[g].posted).any MediaReq.isFlush

/-- Stop island i of the device, by the mode sequencer. -/
def Dev.stopIsland (d : Dev) (i : Nat) : Dev := d.clrBit SYS_ISLAND_STATUS.RUN (i - 1)

/-- Run an island that is enabled. -/
def Dev.runIsland (d : Dev) (i : Nat) : Dev :=
  if bit (d.word SYS_ISLAND_EN).toNat (i - 1) then d.orBits SYS_ISLAND_STATUS.RUN (1 <<< (i - 1)) else d

/-- Keystone word 15: the latest flush epoch. -/
def ksFlush : Fin 64 := 15

/-- COAST_FLUSH is left after its retract: the restart of R329, or the warm reset (R546, R604), with
PWRFAIL_L high. -/
def Dev.leaveFlush (d : Dev) : Dev :=
  if d.pwrfail then d
  else
    let d := d.onSpn fun s => { s with pf := false }
    if d.seq.afterFa || d.seq.fromMaker then d.warmReady
    else
      let d := d.set HST_CTRL.PAUSED 0
      let d := (d.runIsland 1).runIsland 19
      d.enterSpinUp

/-- What follows when a group has come to rest: the end of a flush that has nothing left to write; with every group at rest the
exits of R600 from RETRACT and COAST_FLUSH, and the next steps of a spin-down or of a preparation. -/
def Dev.afterPark (d : Dev) : Dev :=
  let d := d.when (d.mode == .coastFlush && d.que.flush.isSome && !d.flushLeft) (·.endFlush)
  if !d.allParked then d
  else match d.mode with
    | .retract =>
      if d.spn.pf then d
      else if d.seq.fromMaker then d.warmReady
      else if d.on SPN_STATUS.REGULATED then d.enterHeadLoad else d.enterSpinUp
    | .coastFlush => if d.seq.ending then d.leaveFlush else d
    | _ => d.spinParked

/-- COAST_FLUSH (R324, R326, R327, R546). -/
def Dev.enterCoastFlush (d : Dev) (fa : Bool) : Dev :=
  if d.mode == .coastFlush then d.onSeq fun s => { s with afterFa := s.afterFa || fa }
  else
    let maker := d.mode == .makerService
    let d := (d.setMode .coastFlush).onSeq fun s =>
      { s with afterFa := fa, fromMaker := maker, ending := false, spinDown := 0, prep := 0 }
    let d := ((d.set HST_CTRL.PAUSED 1).stopIsland 1).stopIsland 19
    let d := d.each (List.finRange 4) fun g d =>
      ((d.abandon g).onSrv g fun s => { s with request := none })
    let exts := d.heldExts
    let gs := (List.finRange 4).filter fun (g : Grp) => d.live g
    let d := d.each (List.finRange 4) fun g d => d.refreshInh g
    let epoch := ((d.ks ksFlush).toNat + 1) % 2 ^ 32
    if exts.isEmpty then (d.endFlush).afterPark
    else
      let dealt := deal gs 0 exts
      let d := d.ksWrite ksFlush (BitVec.ofNat 32 epoch)
      let d := d.onQue fun q => { q with flush := some { epoch := epoch, since := d.now, exts := dealt } }
      (d.each gs (Dev.layFlush dealt)).afterPark

/-- The flush ends where every group has written its trailer or stopped. -/
def Dev.flushOver (d : Dev) : Dev := if d.mode == .coastFlush then d.afterPark else d

/-- A mode retract without a flush: RETRACT from the modes of R325 and R600, with the groups retracting
with the cause given. -/
def Dev.modeRetract (d : Dev) (cause : Nat) (maker : Bool) : Dev :=
  let goes := d.inMode [.active, .glide, .lightIdle, .deepIdle, .headLoad] ||
    (maker && d.mode == .makerService)
  let fromMaker := d.mode == .makerService
  let d := d.retractAll cause
  if goes then
    (((d.setMode .retract).onSeq fun s => { s with fromMaker := fromMaker, spinDown := 0 })).afterPark
  else d

/-- The mode sequencer's part of a power loss (R324, R325, R606). Where the held portion is flushed first, no retract orders
the heaters to IDLE, and the power loss does (R146). -/
def Dev.powerLost (d : Dev) : Dev :=
  if !d.heldEmpty && !d.inMode [.safe, .off] then
    (d.each (List.finRange 4) fun g d => d.safetyHeaters g).enterCoastFlush false
  else d.modeRetract 9 true

/-! ### Idle modes (R609, R610) -/

/-- The islands an idle mode stops (R610). -/
def idleIslands : Mode → List Nat
  | .lightIdle => [19]
  | .deepIdle => [5, 6, 18, 19, 20]
  | _ => []

/-- Enter LIGHT_IDLE or DEEP_IDLE (R609, R610). -/
def Dev.enterIdle (d : Dev) (m : Mode) (ps : Nat) : Dev :=
  let d := d.onSeq fun s => { s with opPs := if d.get SYS_MODE.PS ≤ 2 then d.get SYS_MODE.PS else s.opPs }
  let d := ((d.setMode m).set SYS_MODE.PS ps).onSeq fun s => { s with deepAt := d.now }
  d.each (idleIslands m) fun i d => d.stopIsland i

/-- An idle mode ends: ACTIVE, or GLIDE if a glide runs, at the operational state held before
(R600, R609). -/
def Dev.idleExit (d : Dev) : Dev :=
  if !d.inMode [.lightIdle, .deepIdle] then d
  else
    -- time in DEEP_IDLE does not count toward a scrub lap (R482)
    let out := if d.mode == .deepIdle then d.now - d.seq.deepAt else 0
    let d := d.onMem fun m => { m with lapAt := m.lapAt.map (· + out) }
    let d := d.each (idleIslands d.mode) fun i d => d.runIsland i
    (((d.set SYS_MODE.PS d.seq.opPs).raise SYS_INT_STATUS.IDLE_EXIT)).enterActive

/-- GLIDING rises or falls: ACTIVE and GLIDE (R600). -/
def Dev.followGlide (d : Dev) : Dev :=
  if d.mode == .active && d.on SPN_STATUS.GLIDING then d.setMode .glide
  else if d.mode == .glide && !d.on SPN_STATUS.GLIDING then d.setMode .active
  else d

/-- A start in SAFE (R605): the mode stays SAFE. -/
def Dev.startInSafe (d : Dev) : Dev := (d.onSeq fun s => { s with safeStart := 1, spinHeld := none, tries := 0 }).issueStart

/-- STANDBY at the end of a spin-down, with a held spin-up taken (R310 step 6, R600). -/
def Dev.enterStandby (d : Dev) : Dev :=
  let d := d.onSeq fun s => { s with spinDown := 0 }
  if d.mode == .safe then
    let again := d.seq.spinHeld == some true && d.safeReads
    let d := d.onSeq fun s => { s with safeStart := 0, spinHeld := none }
    if again then d.startInSafe else d
  else
    let d := d.setMode .standby
    if d.seq.spinHeld = some true then
      (d.onSeq fun s => { s with spinHeld := none }).enterSpinUp
    else d

end Sys2Proof.Machine
end

