-- ==== Sys2Proof/Machine/Replay.lean ====
section
/-! DEFINITION. A lane's coefficient sets and working loop values (R75 to R79), its sync candidates (R84 to R88), its slots,
and the replay of a slot through the chain (R98, R123). -/

namespace Sys2Proof.Machine

/-! ### Coefficient sets (R75 to R78) -/

/-- The alternate or zone set's values as a lane starts from them (R77): taps with 10 fraction bits, targets with 9; a set
whose gain is not valid gives VGA_INIT; a code above 240 acts as 240 (R72); the taps of a reader that is not in use are 0
(R70). -/
def Dev.setLoops (d : Dev) (n : LaneId) (s : Nat) : Loops :=
  let v := d.on LANE_SET_GAIN.VALID n s
  { gainA := min 240 (if v then d.get LANE_SET_GAIN.GAIN_A n s else d.get LANE_AFE_A.VGA_INIT n)
    gainB := min 240 (if v then d.get LANE_SET_GAIN.GAIN_B n s else d.get LANE_AFE_B.VGA_INIT n)
    ofsA := sext 10 (d.get LANE_SET_OFS.OFS_A n s)
    ofsB := sext 10 (d.get LANE_SET_OFS.OFS_B n s)
    asymA := sext 8 (d.get LANE_SET_ASYM.ASYM_A n s)
    asymB := sext 8 (d.get LANE_SET_ASYM.ASYM_B n s)
    firA := (List.range 16).map fun k =>
      if d.on LANE_CTRL.RDA_EN n then (sext 12 (d.get LANE_SET_FIR_A.COEF n (16 * s + k)) : Rat) / 1024 else 0
    firB := (List.range 16).map fun k =>
      if d.on LANE_CTRL.RDB_EN n then (sext 12 (d.get LANE_SET_FIR_B.COEF n (16 * s + k)) : Rat) / 1024 else 0
    tgt := (List.range 4).map fun k => (sext 10 (d.get LANE_SET_TGT.G n (4 * s + k)) : Rat) / 512 }

/-- A value in units of 1/u as a field of b bits holds it in two's complement. -/
def coefField (b u : Nat) (q : Rat) : Nat := twos b (clamp (-2 ^ (b - 1)) (2 ^ (b - 1) - 1) (roundTo u q))

/-- Write loop values into a coefficient set (R78). -/
def Dev.putLoops (d : Dev) (n : LaneId) (s : Nat) (l : Loops) : Dev :=
  let d := ((d.set LANE_SET_GAIN.VALID 1 n s).set LANE_SET_GAIN.GAIN_A l.gainA.toNat n s).set
    LANE_SET_GAIN.GAIN_B l.gainB.toNat n s
  let d := (d.set LANE_SET_OFS.OFS_A (coefField 10 1 l.ofsA) n s).set LANE_SET_OFS.OFS_B (coefField 10 1 l.ofsB) n s
  let d := (d.set LANE_SET_ASYM.ASYM_A (coefField 8 1 l.asymA) n s).set LANE_SET_ASYM.ASYM_B (coefField 8 1 l.asymB) n s
  let d := d.each (l.firA.take 16).zipIdx fun p d =>
    d.set LANE_SET_FIR_A.COEF (coefField 12 1024 p.1) n (16 * s + p.2)
  let d := d.each (l.firB.take 16).zipIdx fun p d =>
    d.set LANE_SET_FIR_B.COEF (coefField 12 1024 p.1) n (16 * s + p.2)
  d.each (l.tgt.take 4).zipIdx fun p d => d.set LANE_SET_TGT.G (coefField 10 512 p.1) n (4 * s + p.2)

/-- The loop values that a gated sector starts with (R77, R82, R122): taps and target from the zone set; gain, offset and
asymmetry from the end of the previous gated sector where that lay in the same zone and on the same cylinder. -/
def Dev.startLoops (d : Dev) (n : LaneId) (cyl : Nat) : Loops :=
  let z := d.zoneIx n.grp cyl
  let set := d.setLoops n z
  let l := d.lanes[n]
  if l.last == some (z, cyl) && !l.adapt then
    { set with gainA := l.work.gainA, gainB := l.work.gainB, accA := l.work.accA, accB := l.work.accB
               ofsA := l.work.ofsA, ofsB := l.work.ofsB, asymA := l.work.asymA, asymB := l.work.asymB
               phase := l.work.phase }
  else { set with phase := l.work.phase }

/-! ### Sync candidates (R84 to R88) -/

/-- Position of entry k of the distance list. -/
def posOf (k : Nat) : Int := (k : Int) - 32

/-- Distances by position in a window of lo to hi. -/
def windowOf (lo hi : Int) (l : List Nat) : List (Int × Nat) :=
  (l.zipIdx.map fun p => (posOf p.2, p.1)).filter fun p => decide (lo ≤ p.1) && decide (p.1 ≤ hi)

/-- The better of two candidates: lower distance, then nearer to 0, then earlier (R85). -/
def better (a b : Int × Nat) : Bool :=
  decide (a.2 < b.2) || (decide (a.2 = b.2) &&
    (decide (a.1.natAbs < b.1.natAbs) || (decide (a.1.natAbs = b.1.natAbs) && decide (a.1 ≤ b.1))))

/-- The first of the ranking of R85. -/
def bestOf : List (Int × Nat) → Option (Int × Nat)
  | [] => none
  | c :: t => match bestOf t with
    | none => some c
    | some b => if better c b then some c else some b

/-- Primary and second candidate on the fly (R84, R85). -/
def flyCandidates (maxDist : Nat) (dists : List Nat) : Option Int × Option Int :=
  let w := windowOf (-8) 8 dists
  match w.find? fun p => decide (p.2 ≤ maxDist) with
  | some p => (some p.1, (bestOf (w.filter fun c => c.1 != p.1)).map Prod.fst)
  | none =>
    match bestOf w with
    | some f => (none, (bestOf (w.filter fun c => c.1 != f.1)).map Prod.fst)
    | none => (none, none)

/-- Widened re-detection (R87). -/
def wideCandidates (maxDist : Nat) (dists : List Nat) : Option Int × Option Int :=
  let w := windowOf (-32) 32 dists
  match bestOf w with
  | some p =>
    if p.2 ≤ maxDist then (some p.1, (bestOf (w.filter fun c => c.1 != p.1)).map Prod.fst)
    else (none, (bestOf (w.filter fun c => c.1 != p.1)).map Prod.fst)
  | none => (none, none)

/-- The distance at a position. -/
def distAt (dists : List Nat) (p : Int) : Nat := dists.getD (p + 32).toNat 32

/-- The candidates of widened re-detection on a slot at the lane's threshold (R87). -/
def Dev.wideOf (d : Dev) (n : LaneId) (x : Slot) : Option Int × Option Int :=
  wideCandidates (min 10 (d.get LANE_SYNC.MAX_DIST_WIDE n)) x.dists

/-! ### Slots and passes -/

/-- The slot that holds a sector: the latest capture of it (R101). -/
def LaneSt.slotOf (l : LaneSt) (cyl sect : Nat) : Option (Fin 3) :=
  let serial := fun (i : Fin 3) => (l.slots[i].map Slot.serial).getD 0
  let mine := (List.finRange 3).filter fun i => match l.slots[i] with
    | some s => !s.empty && !s.servo && s.cyl == cyl && s.sect == sect
    | none => false
  mine.find? fun i => mine.all fun j => decide (serial j ≤ serial i)

/-- A count field in which 0 acts as 1 and a value above the limit as the limit. -/
def countField (v hi : Nat) : Nat := max 1 (min v hi)

/-- Iteration limit of a ladder pass, or of a peer's (R103, R631). -/
def Dev.passLimit (d : Dev) (n : LaneId) (p : PassId) : Nat :=
  if p.step = 1 ∨ p.step = 4 then countField (d.get LANE_ITER.GLOBAL_OTF n) 8
  else if p.step = 2 then countField (d.get LANE_ITER.GLOBAL_REC n) 64
  else
    let i := d.get LANE_PASS.ITER n p.ix
    if i = 0 then 64 else i

/-- Taps doubled and held within the coefficient range (R123). -/
def doubled (l : List Rat) : List Rat := l.map fun q => (limited (-2) (2047 / 1024) (2 * q)).1

/-- The settings of a replay: on-the-fly settings, but those that a pass-table entry changes (R98, R123): the set, the
readers, the target. A peer's pass uses the zone set (R631). -/
def Dev.passLoops (d : Dev) (n : LaneId) (x : Slot) (p : PassId) : Loops :=
  let zone := d.setLoops n (d.zoneIx n.grp x.cyl)
  if p.step = 4 then { x.start with firA := zone.firA, firB := zone.firB, tgt := zone.tgt }
  else if p.step != 3 then x.start
  else
    let k := d.get LANE_PASS.SET n p.ix
    let set := if 1 ≤ k ∧ k ≤ 4 then d.setLoops n (63 + k) else zone
    let l := { x.start with firA := set.firA, firB := set.firB, tgt := set.tgt }
    let l := match d.get LANE_PASS.READERS n p.ix with
      | 1 => { l with firA := doubled l.firA, firB := l.firB.map fun _ => 0 }
      | 2 => { l with firA := l.firA.map (fun _ => 0), firB := doubled l.firB }
      | _ => l
    match d.get LANE_PASS.TARGET n p.ix with
    | 1 => { l with tgt := [3 / 4, 1 / 4, 0, 0] }
    | 2 => { l with tgt := [1 / 2, 0, 0, 0] }
    | _ => l

/-- The loop decisions of a replay: those of the fly where it runs the taps and the target of the fly (R98). -/
def Slot.decsFor (x : Slot) (l : Loops) : List Bool :=
  if l.firA = x.start.firA ∧ l.firB = x.start.firB ∧ l.tgt = x.start.tgt then x.decs
  else Config.loopDecisions x.samplesA x.samplesB l.firA l.firB l.tgt

/-- A replay of a slot through the chain, from the loop values stored with the slot, and what the detector gets from it at an
alignment (R76, R90, R98): erased are the regions marked in the slot and those that the replay itself finds. The slot and the
lane's values stay as they are. A replay forces no loop on. -/
def Dev.replaySlot (d : Dev) (n : LaneId) (x : Slot) (p : PassId) (al : Option Int) : DetIn :=
  let splits := d.splits n.grp x.cyl x.sect
  let c := d.chainCfg n splits
  let only := if p.step = 3 then d.get LANE_PASS.READERS n p.ix else 0
  let ext := if p.step = 3 then d.get LANE_PASS.ERASE_EXT n p.ix else 0
  let c := { c with useA := c.useA && only != 2, useB := c.useB && only != 1 }
  let l := d.passLoops n x p
  let r := runChain c ⟨x.samplesA, x.samplesB, x.decsFor l⟩ x.angle l
  match al with
  | some q => detIn splits r (x.tas ++ r.found.map (taRegion c.taExt)) ext r.l.tgt q
  | none => ⟨r.l.tgt, []⟩

/-- The alignment of a pass over a slot (R87, R88, R103): the second candidate, else the primary, of the fly or of widened
re-detection. -/
def Dev.passAlign (d : Dev) (n : LaneId) (l : Ladder) (p : PassId) : Option Int :=
  if p.step = 1 ∧ p.ix = 1 then
    if l.missed then ((l.slot.bind fun i => d.lanes[n].slots[i]).map fun x => (d.wideOf n x).2).getD none else l.second
  else l.primary

/-- The alignment of a peer's decode (R631): its primary, or after SYNC_MISS the primary of widened re-detection. -/
def Dev.peerAlign (d : Dev) (n : LaneId) (x : Slot) : Option Int :=
  x.primary.or (if d.on LANE_SYNC.WIDE_EN n then (d.wideOf n x).1 else none)

/-- The recovery decoder takes up work; its detector works on a replay of the slot (R95, R98). -/
def Dev.startDec (d : Dev) (n : LaneId) (w : RecWork) (x : Option Slot) (p : PassId) (al : Option Int) : Dev :=
  let det := match x with
    | some x => d.replaySlot n x p al
    | none => ⟨[], []⟩
  d.onLane n fun l => { l with dec := some w, det := det }

end Sys2Proof.Machine
end

