-- ==== Sys2Proof/Machine/LanePins.lean ====
section
/-! DEFINITION. Pins of the lanes' sample buffers (R99 to R101, R117), the reread offsets (R106, R107)
and the discarding of ladders. -/

namespace Sys2Proof.Machine

/-! ### Slots and pins (R99 to R101, R121) -/

def Slot.pinned (s : Slot) : Bool := s.ladder || !s.peers.isEmpty || s.hold

/-- Slots of a lane that are pinned. -/
def LaneSt.pins (l : LaneSt) : Nat := (l.slots.toList.filter fun s => (s.map Slot.pinned).getD false).length

/-- Update a slot. -/
def Dev.onSlot (d : Dev) (n : LaneId) (i : Fin 3) (f : Slot → Slot) : Dev :=
  d.onLane n fun l => { l with slots := upd l.slots i (Option.map f) }

/-- The slot's fill has ended: the last of its samples has been taken, or it was ended; an empty slot has none. -/
def Slot.filled (s : Slot) (now : Nat) : Bool := !s.empty && (s.full || decide (s.till ≤ now))

/-- Results that no slot of the lane holds any more go (R631). -/
def LaneSt.trimWon (l : LaneSt) : LaneSt := { l with won := l.won.filter fun w => (l.slotOf w.1 w.2.1).isSome }

/-- A sector's main pass or ladder has succeeded: the lane keeps its result for its peers while a slot holds it (R631). -/
def LaneSt.keepResult (l : LaneSt) (cyl sect : Nat) (field : List Byte) : LaneSt :=
  { l with won := (cyl, sect, field) :: l.won.filter fun w => !(w.1 == cyl && w.2.1 == sect) }.trimWon

/-- The slot's fill has ended; a slot that HOLD keeps empty holds no sector. -/
def Slot.fillEnds (s : Slot) : Slot := { s with full := !s.empty }

/-- Show LANE_STATUS. -/
def Dev.showLane (d : Dev) (n : LaneId) : Dev :=
  let l := d.lanes[n]
  let (r, s) := match l.dec with
    | some (.spec ..) => (0, 1)
    | some _ => (1, 0)
    | none => (0, 0)
  ((d.set LANE_STATUS.PINNED l.pins n).set LANE_STATUS.REC_BUSY r n).set LANE_STATUS.SPEC_BUSY s n

/-- A ladder's pin on the slot that holds its sector, where the lane has a pin to give or the slot is pinned already (R100). -/
def Dev.pinLadder (d : Dev) (n : LaneId) (l : Ladder) : Dev :=
  match l.slot.bind fun i => (d.lanes[n].slots[i]).map fun s => (i, s) with
  | some (i, s) =>
    if s.cyl == l.cyl && s.sect == l.sect && !s.empty && (s.pinned || decide (d.lanes[n].pins < 2)) then
      d.onSlot n i fun s => { s with ladder := true }
    else d
  | none => d

/-- Ladders in their buffered steps whose slot is not pinned take a pin that has become free (R100). -/
def Dev.repin (d : Dev) (n : LaneId) : Dev :=
  d.each (d.lanes[n].ladders.filter fun l => !l.waits) fun l d => d.pinLadder n l

/-- The pass of a peer's decode. -/
abbrev peerPass : PassId := ⟨4, 0⟩

/-- An idle recovery decoder takes the oldest peer decode that waits, where no ladder of the lane wants it (R113, R631): one
pass with the zone set. -/
def Dev.nextAsk (d : Dev) (n : LaneId) : Dev :=
  let l := d.lanes[n]
  if l.dec.isSome || l.ladders.any (fun x => !x.waits && !x.todo.isEmpty) then d
  else match l.asks with
    | [] => d
    | a :: t =>
      let x := (l.slotOf a.2.1 a.2.2).bind fun i => l.slots[i]
      ((d.onLane n fun l => { l with asks := t }).startDec n (.peer a.1 a.2.1 a.2.2) x peerPass
        (x.bind fun x => d.peerAlign n x)).showLane n

/-- What the peers do for a ladder of lane n is called off (R105, R115): waiting and running decodes. Their decoders are
free. -/
def Dev.callOff (d : Dev) (n : LaneId) (cyl sect : Nat) : Dev :=
  d.each (List.finRange 8) fun i d =>
    let m := laneOf n.grp i
    let d := d.onLane m fun l => { l with asks := l.asks.filter fun a => a != (n, cyl, sect) }
    match d.lanes[m].dec with
    | some (.peer r c k) =>
      if r == n && c == cyl && k == sect then (d.onLane m fun l => { l with dec := none }).showLane m else d
    | _ => d

/-- A ladder of lane n ends: its pins on every lane of the group are released (R101). -/
def Dev.unpin (d : Dev) (n : LaneId) (cyl sect : Nat) : Dev :=
  (d.callOff n cyl sect).each (List.finRange 8) fun i d =>
    let m := laneOf n.grp i
    let mine := fun (s : Slot) => s.cyl == cyl && s.sect == sect
    let d := d.onLane m fun l => { l with
      slots := l.slots.map (Option.map fun s =>
        if mine s then { s with peers := s.peers.filter (· != n),
                                ladder := if m == n then false else s.ladder } else s) }
    (d.repin m).showLane m

/-! ### Reread offsets (R106, R107) -/

/-- Row of reread r: multiples of OT and of HS. -/
def rereadRow (r : Nat) : Int × Int :=
  match (r - 1) % 8 with
  | 2 => (1, 0) | 3 => (-1, 0) | 4 => (2, 0) | 5 => (-2, 0) | 6 => (0, 1) | 7 => (0, 2)
  | _ => (0, 0)

/-- The offsets of reread r at a head, for the wedges of one revolution. -/
def Dev.rereadOn (d : Dev) (n : LaneId) (r : Nat) : Dev :=
  let (o, h) := rereadRow r
  let ot : Int := d.get LANE_LADDER.OFFTRACK_STEP n
  let hs : Int := d.get LANE_LADDER.HEATER_STEP n
  let had := d.wls[n.grp].recover[n.ix] != 0
  let d := d.set SRV_HEAD_OFS.REC (twos 16 (o * ot)) n.grp n.ix.val
  let d := d.onWls n.grp fun w => { w with recover := w.recover.set n.ix (h * hs) }
  let d := d.onLane n fun l => { l with offsetFor := d.nw }
  if h != 0 then d.orderHeater n.grp n.ix 3 else if had then d.orderHeater n.grp n.ix 4 else d

/-- They are withdrawn. -/
def Dev.rereadOff (d : Dev) (n : LaneId) : Dev :=
  let had := d.wls[n.grp].recover[n.ix] != 0
  let d := (d.set SRV_HEAD_OFS.REC 0 n.grp n.ix.val).onLane n fun l => { l with offsetFor := 0 }
  let d := d.onWls n.grp fun w => { w with recover := w.recover.set n.ix 0 }
  if had then d.orderHeater n.grp n.ix 4 else d

/-- A wedge has passed: the offsets of a reread end with its revolution (R107). -/
def Dev.offsetsWedge (d : Dev) (g : Grp) : Dev :=
  d.each (List.finRange 8) fun i d =>
    let n := laneOf g i
    match d.lanes[n].offsetFor with
    | 0 => d
    | 1 => d.rereadOff n
    | k + 2 => d.onLane n fun l => { l with offsetFor := k + 1 }

/-- Another revolution is needed (R103, R106): every waiting ladder of the group counts a reread, and a head with such
ladders takes the offsets of the highest reread among them. -/
def Dev.countRereads (d : Dev) (g : Grp) : Dev :=
  d.each (List.finRange 8) fun i d =>
    let n := laneOf g i
    let d := d.onLane n fun l => { l with ladders := l.ladders.map fun y =>
      if y.waits then { y with revs := y.revs + 1 } else y }
    match (d.lanes[n].ladders.filter Ladder.waits).map Ladder.revs with
    | [] => d
    | r :: t => d.rereadOn n (t.foldl max r)

/-! ### Discarding (R115, R117) -/

/-- The main-pass verdict reaches the sequencer (chapter 05, VERDICT). -/
def Dev.verdict (d : Dev) (g : Grp) (ok tagFail : Bool) : Dev :=
  d.onFmt g fun f => { f with verdicts := f.verdicts - 1, newVerdictFail := f.newVerdictFail || !ok,
                              newTagFail := f.newTagFail || tagFail }

/-- A ladder ends: the decoder's work for it and its pins go. -/
def Dev.dropLadder (d : Dev) (n : LaneId) (l : Ladder) : Dev :=
  let d := d.onLane n fun x =>
    { x with ladders := x.ladders.filter (fun y => !(y.cyl == l.cyl && y.sect == l.sect))
             dec := match x.dec with
               | some (.ladder c k _ _) => if c == l.cyl && k == l.sect then none else x.dec
               | w => w }
  (d.unpin n l.cyl l.sect).showLane n

/-- The ladder of a sector whose lane answers as a missing member (R117, R362): it has no slot and no pass, and goes to welt
reconstruction at once. What its record counts stays (R116, R120). -/
def Ladder.missing (l : Ladder) : Ladder :=
  { l with slot := none, missed := false, primary := none, second := none, todo := [], welt := false, members := []
           refused := [], waits := false, store := [] }

def missingLadder (a : Arm) : Ladder :=
  { cyl := a.cyl, sect := a.sect, arm := a, slot := none, missed := false, primary := none, second := none }

/-- The lane answers a sector as a missing member; `old` is what it did for the sector before. -/
def Dev.answerMissing (d : Dev) (n : LaneId) (a : Arm) (old : Option Ladder := none) : Dev :=
  let mine := fun (y : Ladder) => y.cyl == a.cyl && y.sect == a.sect
  d.onLane n fun l => { l with
    ladders := l.ladders.filter (fun y => !mine y) ++
      [((old.or (l.ladders.find? mine)).map Ladder.missing).getD (missingLadder a)] }

/-- A lane discards its ladders and releases every pin it holds or has requested (R117): the sectors of its ladders and of
the gates begun count as missing members, and the verdicts of those gates are given. Reread offsets and HOLD go. -/
def Dev.dropLane (d : Dev) (n : LaneId) : Dev :=
  let ladders := d.lanes[n].ladders
  let gates := (d.lanes[n].sects.map Sect.arm).filter Arm.ecc
  let d := d.each ladders fun l d => d.dropLadder n l
  let d := (d.rereadOff n).set LANE_SBUF_SEL.HOLD 0 n
  let d := d.onLane n fun l =>
    { l with dec := none, asks := [], specs := [], sects := []
             slots := l.slots.map (Option.map fun s => { s with ladder := false, peers := [], hold := false }) }
  let d := d.each ladders fun l d => d.answerMissing n l.arm l
  let d := d.each gates fun a d => d.answerMissing n a
  (d.each gates fun _ d => d.verdict n.grp false false).showLane n

end Sys2Proof.Machine
end

