-- ==== Sys2Proof/Machine/FaultOps.lean ====
section
/-! DEFINITION. The fault collector's operations (R536 to R549): a report, its record and reaction,
and fences. Every block's checker reports through Dev.report. -/

namespace Sys2Proof.Machine

def Dev.onFlt (d : Dev) (f : FltSt → FltSt) : Dev := { d with flt := f d.flt }

/-- The unit kind and index that a site's fence removes; kind 0 where none (R536). -/
def siteUnit (s : Nat) : Nat × Nat :=
  if s < 128 then (1, s / 4)
  else if s < 160 then (2, (s - 128) / 8)
  else if s < 168 then (0, 0)
  else if s < 200 then (2, (s - 168) / 8)
  else if 320 ≤ s ∧ s < 336 then (4, s - 320)
  else if 336 ≤ s ∧ s < 400 then (5, s - 336)
  else if s = 440 ∨ s = 441 then (7, s - 440)
  else (0, 0)

/-- The unit of a report: the site's, or the function that an HST report names (R536, R537). -/
def FaultRec.unit (r : FaultRec) : Nat × Nat :=
  if 208 ≤ r.site ∧ r.site < 224 ∧ r.kind = 6 then (6, r.index) else siteUnit r.site

/-- CE count of a site in the window (R538). -/
def Dev.ceCount (d : Dev) (s : Nat) : Nat :=
  ((d.flt.win.find? fun p => p.1 == s).map Prod.snd).getD 0

/-- Set a site's count. -/
def Dev.setCeCount (d : Dev) (s n : Nat) : Dev :=
  d.onFlt fun f => { f with win := (f.win.filter fun p => p.1 != s) ++ [(s, n)] }

/-- The site has had a CE in this window (R540). -/
def Dev.ceSeen (d : Dev) (s : Nat) : Bool := d.flt.win.any fun p => p.1 == s

/-- The payload of a fault almanac record (R540, R544). -/
def faultPayload (r : FaultRec) (fenced : Bool) (detail ce : Nat) : List Byte :=
  leBytes 2 r.site ++
    [BitVec.ofNat 8 r.cls,
     BitVec.ofNat 8 (r.injected.toNat + 2 * fenced.toNat + 4 * r.escalated.toNat)] ++
    leBytes 2 r.kind ++ leBytes 2 r.index ++ leBytes 8 r.addr ++ leBytes 4 detail ++ leBytes 4 ce ++
    leBytes 8 0

/-- Write FLT_REC0 to FLT_REC2 for a UC or FA record (R540). -/
def Dev.writeRec (d : Dev) (r : FaultRec) (fenced : Bool) : Dev :=
  let d := ((((d.set FLT_REC0.CLASS r.cls).set FLT_REC0.INJECTED r.injected.toNat).set
    FLT_REC0.FENCED fenced.toNat).set FLT_REC0.KIND r.kind).set FLT_REC0.SITE r.site
  (((d.set FLT_REC1.ADDR_LO r.addr).set FLT_REC2.UNIT r.index).set FLT_REC2.ADDR_HI
    (r.addr / 2 ^ 32)).stamp FLT_REC0.VALID FLT_REC0.SEQ

/-! ### Fences -/

/-- Set a unit's fence bit (R541). -/
def Dev.fenceBit (d : Dev) (kind ix : Nat) : Dev :=
  match kind with
  | 1 => d.orBits FLT_FENCED_LANE.LANE (1 <<< ix)
  | 2 => d.orBits FLT_FENCED_MISC.GROUP (1 <<< ix)
  | 4 => d.orBits FLT_FENCED_MISC.WAY (1 <<< ix)
  | 5 => if ix < 32 then d.orBits FLT_FENCED_SHU_LO.CH (1 <<< ix)
         else d.orBits FLT_FENCED_SHU_HI.CH (1 <<< (ix - 32))
  | 6 => if ix < 32 then d.orBits FLT_FENCED_FN_LO.FN (1 <<< ix)
         else d.orBits FLT_FENCED_FN_HI.FN (1 <<< (ix - 32))
  | 7 => d.orBits FLT_FENCED_MISC.CORE (1 <<< ix)
  | 9 => d.onFlt fun f => { f with requesters := f.requesters ++ [ix] }
  | _ => d

/-- Channel c is fenced. -/
def Dev.chanFenced (d : Dev) (c : Nat) : Bool :=
  if c < 32 then bit (d.get FLT_FENCED_SHU_LO.CH) c else bit (d.get FLT_FENCED_SHU_HI.CH) (c - 32)

/-- A unit is already fenced. -/
def Dev.unitFenced (d : Dev) (kind ix : Nat) : Bool :=
  match kind with
  | 1 => bit (d.get FLT_FENCED_LANE.LANE) ix
  | 2 => bit (d.get FLT_FENCED_MISC.GROUP) ix
  | 3 => d.pcFenced ix
  | 4 => bit (d.get FLT_FENCED_MISC.WAY) ix
  | 5 => d.chanFenced ix
  | 6 => if ix < 32 then bit (d.get FLT_FENCED_FN_LO.FN) ix
         else bit (d.get FLT_FENCED_FN_HI.FN) (ix - 32)
  | 7 => bit (d.get FLT_FENCED_MISC.CORE) ix
  | 9 => d.flt.requesters.contains ix
  | _ => false

/-- A buffer pool member lies in a fenced pseudo-channel: the pool loses its free buffers (R466,
R483). -/
def Dev.fencePc (d : Dev) (q : Nat) : Dev :=
  if d.pcFenced q then d
  else
    let free := ((List.range 12288).map fun k => 64 * k + 2 * (q % 32) + q / 32).filter d.bufFree
    let d := (d.orBits MEM_PC_FENCE.FENCED (1 <<< (q % 32)) 0 (q / 32)).raise MEM_INT_STATUS.PC_FENCE
    let d := d.set BPM_POOL.COUNT (d.get BPM_POOL.COUNT - (12288 - d.bpm.cmb / 64))
    ((d.setFree (d.get BPM_FREE.COUNT - free.length)).raise BPM_INT_STATUS.RETIRE)

/-- End every command of a function without completion (R395, R454). -/
def Dev.endCmds (d : Dev) (n : Fn) : Dev :=
  let mine := d.que.cmds.filter fun c => c.q.fn == n
  let d := d.each mine fun c d => d.dropCmd c
  d.onFn n fun f => { f with aers := [] }

/-- Close a function's session (R565): cause 0 CLOSE, 1 life, 2 reset, 3 fence. -/
def Dev.endSession (d : Dev) (n : Fn) (cause : Nat) : Dev :=
  match d.hst.fns[n].session with
  | none => d
  | some s =>
    let d := d.onFn n fun f => { f with session := none, salvage := none }
    let d := ((d.setWord SEC_SESSION 0 0 n).set HST_FN_STATUS.SESSION 0 0 n).record 0x0602
      (fields32 [n, s.role, s.number, 0, cause])
    (d.raise SEC_INT_STATUS.SESSION).raise HST_INT_STATUS.SESSION

/-- A way is cleaned and goes OFF (R473); its dirty lines are written back. -/
def Dev.cleanWay (d : Dev) (w : Nat) : Dev :=
  let mine := d.mem.lines.filter fun l => l.way == w
  d.each mine fun l d => (d.cleanLine l.line).dropLine l.line

/-- A job ends on a shuttle channel: its record and its interrupt (R503, R504). -/
def Dev.jobResult (d : Dev) (c : Fin 64) (status done : Nat) : Dev :=
  let d := { d with jobs := d.jobs.set c none }
  let d := (((d.set SHU_CH_RESULT.STATUS status 0 c).set SHU_CH_DONE.BYTES done 0 c).set
    SHU_CH_CTRL.START 0 0 c).set SHU_CH_CTRL.ABORT 0 0 c
  let d := d.stamp SHU_CH_RESULT.VALID SHU_CH_RESULT.SEQ 0 c
  let d := if c.val < 32 then d.clrBit SHU_BUSY_LO.BUSY c else d.clrBit SHU_BUSY_HI.BUSY (c - 32)
  if status = 0 then d.raise SHU_CH_INT.DONE 0 c else d.raise SHU_CH_INT.ERR 0 c

/-- The effects of a fence at its unit (R541). -/
def Dev.applyFence (d : Dev) (kind ix : Nat) : Dev :=
  let d := d.fenceBit kind ix
  match kind with
  | 1 => if h : ix < 32 then
      let n : LaneId := ⟨ix, h⟩
      ((((d.dropLane n).abortHead n.grp 0xA n.ix).memberFailed n.grp n.ix).refreshInh n.grp) else d
  | 2 => if h : ix < 4 then d.retract ⟨ix, h⟩ 10 else d
  | 3 => d.fencePc ix
  | 4 => (((d.cleanWay ix).setWay ix 2).orBits CCH_WAY_CTRL.OFF (1 <<< ix)).raise CCH_INT_STATUS.WAY_FENCE
  | 5 => if h : ix < 64 then
      if (d.jobs[ix]).isSome then d.jobResult ⟨ix, h⟩ 6 (d.get SHU_CH_POS.BYTES 0 ix) else d
    else d
  | 6 => if h : ix < 64 then
      let n : Fn := ⟨ix, h⟩
      ((d.endCmds n).set HST_FN_STATUS.CFS 1 0 n).set HST_FN_STATUS.FENCED 1 0 n
        |>.onFlt fun f => { f with requesters := f.requesters ++ [ix] }
    else d
  | 7 => d.dropStack ix
  | _ => d

/-- A fence starts: PAUSE, posting and fetching stop (R543 step 1). -/
def Dev.startFence (d : Dev) (j : FenceJob) : Dev :=
  let j := { j with delayed0 := d.get FLT_DELAYED.COUNT }
  (((d.onFlt fun f => { f with running := some j }).set FLT_STATUS.PAUSE 1).set HST_CTRL.PAUSED 1)

/-- A fence from a report: it runs, or waits behind the running one (R545). -/
def Dev.fenceReport (d : Dev) (j : FenceJob) : Dev :=
  match d.flt.running with
  | none => d.startFence j
  | some _ =>
    let d := d.onFlt fun f => { f with queue := f.queue ++ [j] }
    d.set FLT_STATUS.QUEUED d.flt.queue.length

/-- Deferred completions are posted once posting resumes (R543 step 5). -/
def Dev.resumePosting (d : Dev) : Dev :=
  let l := d.hst.deferred
  let d := (d.set HST_CTRL.PAUSED 0).onHst fun h => { h with deferred := [] }
  d.each l fun c d => d.postCqe c

/-! ### Fatal faults -/

/-- The reaction to an FA (R546): FLT_FA0 and FLT_FA1 unless they hold an earlier one, CFS on every
function, the almanac is appended, COAST_FLUSH; a spindle and motor stay in regulation. -/
def Dev.fatal (d : Dev) (r : FaultRec) : Dev :=
  let d := if d.on FLT_FA0.VALID then d
    else
      let d := ((((d.set FLT_FA0.CLASS 2).set FLT_FA0.INJECTED r.injected.toNat).set FLT_FA0.FENCED 0).set
        FLT_FA0.KIND r.kind).set FLT_FA0.SITE r.site
      ((d.set FLT_FA1.UNIT r.index).set FLT_FA1.ADDR_HI (r.addr / 2 ^ 32)).stamp FLT_FA0.VALID FLT_FA0.SEQ
  let d := d.each (List.range 64) fun f d => d.set HST_FN_STATUS.CFS 1 0 f
  let d := (d.set FLT_STATUS.FA 1).raise FLT_INT_STATUS.FA
  (d.almAppend false).enterCoastFlush true

/-! ### Reports -/

/-- One access of an injection at this site is used up (R548, R549). -/
def Dev.useInjection (d : Dev) (site : Nat) : Bool × Bool × Dev :=
  if d.on FLT_INJ_STATUS.ACTIVE && d.get FLT_INJ_CTRL.SITE == site then
    let n := d.get FLT_INJ_STATUS.REMAIN - 1
    let sup := d.on FLT_INJ_CTRL.SUPPRESS
    let d := d.set FLT_INJ_STATUS.REMAIN n
    (true, sup, if n = 0 then
        ((d.set FLT_INJ_STATUS.ACTIVE 0).set FLT_INJ_CTRL.GO 0).raise FLT_INT_STATUS.INJ_DONE
      else d)
  else (false, false, d)

/-- The error that the next checked access at a site sees (R548). -/
def Dev.injecting (d : Dev) (site : Nat) : Option EccIn :=
  if d.on FLT_INJ_STATUS.ACTIVE && d.get FLT_INJ_CTRL.SITE == site then
    some (if d.get FLT_INJ_CTRL.BITS = 2 then .uc else .ce)
  else none

/-- What the checker of a site sees of an access, with an injection the worse of the two (R548, R549). -/
def Dev.checkedAs (d : Dev) (site : Nat) (e : EccIn) : EccIn :=
  match d.injecting site, e with
  | some .uc, _ => .uc
  | some _, .ok => .ce
  | _, e => e

/-- Sites that never report (R536). -/
def siteSilent (s : Nat) : Bool :=
  decide (464 ≤ s) || (decide (458 ≤ s) && decide (s < 464)) || (decide (403 ≤ s) && decide (s < 416))

/-- A report of a checker (R536 to R540): its class, its counters, its record, its reaction; a lane's own
checkers set LANE_FAULT. -/
def Dev.report (d : Dev) (x : Report) : Dev :=
  if siteSilent x.site then d
  else
    -- the worse class of the injected and the real error (R549)
    let x := match d.injecting x.site with
      | some e => { x with cls := max x.cls (if e = EccIn.uc then 1 else 0) }
      | none => x
    let (inj, sup, d) := d.useInjection x.site
    let d := if x.site < 128 then d.raise LANE_INT_STATUS.LANE_FAULT (x.site / 4) else d
    let s := x.site
    let lim := d.get FLT_SITE_CFG.CE_LIM 0 s * 16
    let n := d.ceCount s
    let first := !d.ceSeen s
    -- a CE past the limit of its window is reported as UC (R538)
    let esc := x.cls == 0 && lim != 0 && decide (lim ≤ n)
    let act := d.get FLT_SITE_CFG.ACTION 0 s
    let cls := if esc then 1 else x.cls
    let cls := if cls = 1 ∧ act = 2 then 2 else cls
    let r : FaultRec := ⟨s, cls, x.kind, x.index, x.addr, x.detail, inj, esc⟩
    if cls = 0 then
      let d := ((d.setCeCount s (n + 1)).bump FLT_SITE_CFG.CE_CNT 0 s).raise FLT_INT_STATUS.CE
      if first then d.record 0x0100 (faultPayload r false x.detail (n + 1)) else d
    else
      let d := if esc then (d.setCeCount s 0).raise FLT_INT_STATUS.ESCALATE else d
      let ce := d.ceCount s
      if cls = 2 then
        let d := (d.bump FLT_SITE_CFG.FA_CNT 0 s).writeRec r false
        let d := d.record 0x0102 (faultPayload r false x.detail ce)
        if sup then (d.set FLT_STATUS.FA 1).raise FLT_INT_STATUS.FA else d.fatal r
      else
        let d := (d.bump FLT_SITE_CFG.UC_CNT 0 s).raise FLT_INT_STATUS.UC
        let (k, u) := r.unit
        let fences := act == 1 && !sup && k != 0 && !(k == 6 && u == 0)
        if fences then
          let d := (d.writeRec { r with kind := k, index := u } true).set FLT_REC0.VALID 0
          -- fencing the second core as well is an FA (R541)
          if k == 7 && d.unitFenced 7 (1 - u) then
            let r : FaultRec := { r with cls := 2 }
            ((d.writeRec r false).record 0x0102 (faultPayload r false x.detail ce)).fatal r
          else d.fenceReport ⟨k, u, some ({ r with kind := k, index := u }, ce), .control, 0⟩
        else (d.writeRec r false).record 0x0101 (faultPayload r false x.detail ce)

/-- A record-only or fencing UC report of a site. -/
def Dev.uc (d : Dev) (site : Nat) (kind ix addr detail : Nat := 0) : Dev :=
  d.report ⟨site, 1, kind, ix, addr, detail⟩

/-- Up to n accesses at a site whose only errors are the injected ones (R548): the first uncorrected one that fences its unit
is the last. -/
def Dev.checked (d : Dev) (site kind ix n : Nat) : Dev :=
  match d.injecting site with
  | none => d
  | some e =>
    let last := e = EccIn.uc && d.get FLT_SITE_CFG.ACTION 0 site != 0 && !d.on FLT_INJ_CTRL.SUPPRESS
    d.each (List.range (min n (if last then 1 else d.get FLT_INJ_STATUS.REMAIN))) fun _ d =>
      d.report ⟨site, if e = EccIn.uc then 1 else 0, kind, ix, 0, 0⟩

/-- An FA report of a site. -/
def Dev.fa (d : Dev) (site : Nat) (kind ix addr detail : Nat := 0) : Dev :=
  d.report ⟨site, 2, kind, ix, addr, detail⟩

/-- The pseudo-channels of one index are fenced in both stacks while a held pair of that index is in use
(R466). -/
def Dev.pcPairFatal (d : Dev) (q : Nat) : Dev :=
  let p := q % 32
  let held := d.bpm.recs.any fun r => r.mirror && r.buf / 2 % 32 == p
  if d.pcFenced p && d.pcFenced (32 + p) && held then d.fa (256 + q) 3 q else d

/-! ### Keystone votes that report (R478, R479) -/

/-- The dependent unit of a fenced keystone word (R477, R479): a group goes OFFLINE in service (its
state is unusable), sessions of a role end. -/
def Dev.ksDependent (d : Dev) (k : Fin 64) : Dev :=
  if 2 ≤ k.val ∧ k.val ≤ 9 then
    let g : Grp := ⟨(k.val - 2) % 4, by omega⟩
    (d.orBits FLT_FENCED_MISC.GROUP (1 <<< g.val)).retract g 10
  else if 28 ≤ k.val ∧ k.val ≤ 39 then
    let role := (k.val - 28) / 4 + 1
    d.each (List.finRange 64) fun n d =>
      match d.hst.fns[n].session with
      | some s => if s.role = role then d.endSession n 3 else d
      | none => d
  else d

/-- A keystone word as its checkers see it: an injection inverts the parity of copy A, or of copies A and B (R548). -/
def Dev.ksSeen (d : Dev) (k : Fin 64) : KsWord :=
  let w := d.mem.ks[k]
  match d.injecting 400 with
  | none => w
  | some e => { w with okA := !w.okA, okB := if e = EccIn.uc then !w.okB else w.okB }

/-- A vote of a read or of the sweep: its record, once, and the fence (R478, R479). An injected error leaves the reported flag,
as it leaves the stored word (R548). -/
def Dev.ksVote (d : Dev) (k : Fin 64) : Dev :=
  let w := d.mem.ks[k]
  let (_, v) := (d.ksSeen k).vote
  if v = .agree then d
  else
    let inj := (d.injecting 400).isSome
    let d := d.raise MEM_INT_STATUS.KS_EVENT
    let d := if inj then d.report ⟨400, if v = .ce then 0 else 1, 8, k.val, 0, 0⟩
      else if w.reported then d
      else (d.onMem fun m => { m with ks := m.ks.set k { w with reported := true } }).report
        ⟨400, if v = .ce then 0 else 1, 8, k.val, 0, 0⟩
    if v = .fence && !d.ksFenced k then
      let d := if k.val < 32 then d.orBits MEM_KS_FENCE_LO.FENCED (1 <<< k.val)
        else d.orBits MEM_KS_FENCE_HI.FENCED (1 <<< (k.val - 32))
      d.ksDependent k
    else d

/-- The sweep at a word: the vote, the repair, and the flag once the copies agree (R478). -/
def Dev.ksSweep (d : Dev) (k : Fin 64) : Dev :=
  let d := d.ksVote k
  let w := d.mem.ks[k]
  let (v, o) := w.vote
  if d.ksFenced k then d
  else match o with
    | .agree => d.onMem fun m => { m with ks := m.ks.set k { w with reported := false } }
    | .fence => d
    | _ => d.onMem fun m => { m with ks := m.ks.set k { a := v, b := v, c := v, reported := w.reported } }

/-- A fence is lifted: a shuttle channel, a function or a requester (R542). -/
def Dev.lift (d : Dev) (kind ix : Nat) : Dev :=
  match kind with
  | 5 => if ix < 32 then d.clrBit FLT_FENCED_SHU_LO.CH ix else d.clrBit FLT_FENCED_SHU_HI.CH (ix - 32)
  | 6 =>
    let d := if ix < 32 then d.clrBit FLT_FENCED_FN_LO.FN ix else d.clrBit FLT_FENCED_FN_HI.FN (ix - 32)
    (d.set HST_FN_STATUS.FENCED 0 0 ix).onFlt fun f =>
      { f with requesters := f.requesters.filter fun r => r != ix }
  | 9 => d.onFlt fun f => { f with requesters := f.requesters.filter fun r => r != ix }
  | _ => d

/-- The host commands whose work passes through a unit (R544): media requests that use a lane, buffers in a pseudo-channel, lines
of buffers in a way. -/
def Dev.worksThrough (d : Dev) (kind ix : Nat) : List Cmd :=
  let reqs := fun (g : Grp) => d.grpq[g].active.toList ++ d.grpq[g].posted
  match kind with
  | 1 => if h : ix < 32 then
      let n : LaneId := ⟨ix, h⟩
      let fs := (reqs n.grp).flatMap fun m =>
        if bit m.req.cmask n.ix || bit m.req.wmask n.ix then (match m.why with | .host fs => fs | _ => []) else []
      d.que.cmds.filter fun c => fs.contains c.f
    else []
  | 3 => d.que.cmds.filter fun c => c.bufs.any fun b => bufPc b == ix
  | 4 => d.que.cmds.filter fun c => c.bufs.any fun b => d.mem.lines.any fun l => l.way == ix && l.line / 512 == b
  | _ => []

/-- The controller resets a function's NVMe controller: its commands end without completion, its queues
go, its session closes (R395, R416, R580). -/
def Dev.resetFn (d : Dev) (n : Fn) : Dev :=
  let d := (d.endCmds n).endSession n 2
  let d := d.onFn n fun f =>
    { f with sqs := [], cqs := [], aers := [], nonce := none, salvage := none, salvaging := none, feats := []
             weighted := false }
  let d := (d.set HST_FN_STATUS.CC_EN 0 0 n).set HST_FN_STATUS.RDY 0 0 n
  -- the contents of the controller memory buffer are undefined after a controller reset (R417)
  if n = 0 && d.bpm.cmb != 0 then
    let (k, d) := d.draw
    d.onBpm fun b => { b with cmbLost := some k, cmbKnown := [] }
  else d

end Sys2Proof.Machine
end

