-- ==== Sys2Proof/Machine/LaneOps.lean ====
section
/-! DEFINITION. Operations of the read channel lanes (chapter 03) that several commands share, the tag
check (R341 to R345), and the welt engine's parity (R337 to R339). -/

namespace Sys2Proof.Machine

/-! ### CRC-32C and the Galois field -/

/-- One bit of the CRC-32C, reflected. -/
def crc32cBit (c : BitVec 32) : BitVec 32 :=
  if c.getLsbD 0 then (c >>> 1) ^^^ 0x82F63B78#32 else c >>> 1

def crc32cByte (c : BitVec 32) (b : Byte) : BitVec 32 :=
  let c := c ^^^ b.setWidth 32
  crc32cBit (crc32cBit (crc32cBit (crc32cBit (crc32cBit (crc32cBit (crc32cBit (crc32cBit c)))))))

/-- CRC-32C of a byte string. -/
def crc32c (l : List Byte) : BitVec 32 := ~~~(l.foldl crc32cByte 0xFFFF_FFFF#32)

/-- Multiplication by g = 0x02 over x^8 + x^4 + x^3 + x^2 + 1 (R337). -/
def gfDouble (b : Byte) : Byte := if b.getLsbD 7 then (b <<< 1) ^^^ 0x1D#8 else b <<< 1

/-- Multiplication in GF(2^8), by the bits of b from bit n - 1 down (R337). -/
def gfMulAux (a b : Byte) : Nat → Byte
  | 0 => 0
  | n + 1 => gfDouble (gfMulAux a b n) ^^^ (if b.getLsbD (8 - (n + 1)) then a else 0)

def gfMul (a b : Byte) : Byte := gfMulAux a b 8

/-- g^n. -/
def gfPow : Nat → Byte
  | 0 => 1
  | n + 1 => gfDouble (gfPow n)

/-- The inverse of a nonzero element: a^254. -/
def gfPowOf (a : Byte) : Nat → Byte
  | 0 => 1
  | n + 1 => gfMul (gfPowOf a n) a

def gfInv (a : Byte) : Byte := gfPowOf a 254

/-- Fields of 4,112 bytes added byte by byte; a missing byte is 0. -/
def fieldAdd : List Byte → List Byte → List Byte
  | [], l => l
  | l, [] => l
  | a :: s, b :: t => (a ^^^ b) :: fieldAdd s t

/-- A field scaled. -/
def fieldMul (c : Byte) (l : List Byte) : List Byte := l.map (gfMul c)

def tagOf (l : List Byte) : BitVec 128 :=
  l.foldl (fun t b => (t <<< 8) ||| b.setWidth 128) 0

/-- The 4,112-byte field of a member (R337). -/
def fieldOf (payload : List Byte) (t : BitVec 128) : List Byte := payload ++ tagBytes t

/-- P over data fields in data-index order (R337). -/
def parityP (l : List (List Byte)) : List Byte := l.foldl fieldAdd []

/-- Q over data fields (R337). -/
def parityQ (l : List (List Byte)) : List Byte :=
  l.zipIdx.foldl (fun q p => fieldAdd q (fieldMul (gfPow p.2) p.1)) []

/-- The lost data members rebuilt (R338): `data` gives the surviving fields by data index, `lost` the
lost indices in ascending order. -/
def rebuild (data : List (Nat × List Byte)) (p q : Option (List Byte)) (lost : List Nat) :
    Option (List (List Byte)) :=
  let p' := p.map fun p => data.foldl (fun a x => fieldAdd a x.2) p
  let q' := q.map fun q => data.foldl (fun a x => fieldAdd a (fieldMul (gfPow x.1) x.2)) q
  match lost with
  | [] => some []
  | [x] =>
    match p', q' with
    | some p', _ => some [p']
    | none, some q' => some [fieldMul (gfInv (gfPow x)) q']
    | none, none => none
  | [x, y] =>
    match p', q' with
    | some p', some q' =>
      let a := gfPow (y - x)
      let dx := fieldMul (gfInv (a ^^^ 1)) (fieldAdd (fieldMul a p') (fieldMul (gfInv (gfPow x)) q'))
      some [dx, fieldAdd p' dx]
    | _, _ => none
  | _ => none

/-! ### Tags (R340 to R345) -/

/-- A format tag's physical address: bits 34:33 group, 32:13 cylinder, 12:3 sector, 2:0 head index. -/
def physAddr (g : Grp) (cyl sect : Nat) (i : HeadIx) : Nat :=
  g.val * 2 ^ 33 + cyl * 2 ^ 13 + sect * 2 ^ 3 + i.val

/-- The tag of a sector from its fields (R340). -/
def mkTag (addr nsid : Nat) (flush zero : Bool) (kind epoch : Nat) (crc : BitVec 32) : BitVec 128 :=
  (BitVec.ofNat 48 addr ++ (BitVec.ofNat 12 nsid ++ (BitVec.ofBool flush ++ (BitVec.ofBool zero ++
    (BitVec.ofNat 2 kind ++ (BitVec.ofNat 32 epoch ++ crc))))))

/-- The format tag of a sector (R340, R341); its payload is zeros. -/
def formatTag (g : Grp) (cyl sect : Nat) (i : HeadIx) (payload : List Byte) : BitVec 128 :=
  mkTag (2 ^ 47 + physAddr g cyl sect i) 0 false true 0 0 (crc32c payload)

/-- What QUE expects of a slot: the sector's LBA or tag-store number, namespace, kind, and whether it
lies in a flush band (R342). -/
structure Expect where
  nsid : Nat
  addr : Nat
  kind : Nat
  flush : Bool

/-- The band whose extent covers a welt of a group, FREE, RETIRED and STAGED entries apart. -/
def Dev.bandOver (d : Dev) (g : Grp) (w : Nat) : Option (Nat × BandEntry) :=
  (d.bandsOf g).find? fun p => p.2.state != bsFree && p.2.state != bsRetired && p.2.state != bsStaged &&
    decide (p.2.startWelt ≤ w) && decide (w < p.2.startWelt + weltCount p.2.data)

/-- The head holds a P or Q member of the welt (R343). -/
def Dev.parityHead (d : Dev) (g : Grp) (cyl sect : Nat) (i : HeadIx) : Bool :=
  match d.bandOver g (d.weltAt g cyl sect) with
  | some (_, e) => bit e.members i && !(e.dataHeads cyl).contains i
  | none => false

/-- The expectation for a head's sector (R335, R342); none where the head holds no data member, and at the positions of a
band's last welt that have no LBA (R334). -/
def Dev.expect (d : Dev) (g : Grp) (cyl sect : Nat) (i : HeadIx) : Option Expect :=
  let w := d.weltAt g cyl sect
  match d.bandOver g w with
  | none => none
  | some (_, e) =>
    match (e.dataHeads cyl).idxOf? i with
    | none => none
    | some j =>
      let off := (w - e.startWelt) * e.data + j
      if (e.state = bsUser ∨ e.state = bsTag) ∧ 2 ^ 18 ≤ off then none
      else if e.state = bsUser then some ⟨e.nsid, e.nsIndex * 2 ^ 18 + off, 0, false⟩
      else if e.state = bsTag then
        let u := ((d.nsOf e.nsid).map Ns.bands).getD 0
        some ⟨e.nsid, (e.nsIndex - u) * 2 ^ 18 + off, 1, false⟩
      else some ⟨0, 0, 2, e.state == bsFlush⟩

/-- The tag check of R342; P and Q members are never checked (R343). A metadata sector's address is not compared, and in a
flush band, which holds sectors of every kind, the tag's own kind, namespace and address stand (DESIGN CHOICE, log entry 145). -/
def Dev.tagPasses (d : Dev) (mode : Nat) (g : Grp) (cyl sect : Nat) (i : HeadIx)
    (payload : List Byte) (t : BitVec 128) : Bool :=
  let crcOk := tagCrc t == (crc32c payload).toNat
  let x := d.expect g cyl sect i
  let kindOk := match x with | some x => if x.flush then tagKind t != 3 else tagKind t == x.kind | none => false
  if d.parityHead g cyl sect i then true
  else if mode = 1 then
    crcOk && ((tagFormat t && tagAddr t % 2 ^ 35 == physAddr g cyl sect i) ||
      (!tagFormat t && match x with
        | some x => kindOk && (!tagFlush t || x.flush) && epochLe (tagEpoch t) d.epoch &&
            (x.flush || (tagNsid t == x.nsid && (x.kind == 2 || tagAddr t == x.addr)))
        | none => false))
  else if mode = 2 then crcOk && (kindOk || tagFormat t)
  else true

/-! ### Passes -/

/-- The unsatisfied-check counts of a pass up to its end: 0 reached, the iteration limit, or a stall
(R92). The list is read from iteration k on, the last three counts in `prev`, newest first. -/
def cutUscs (limit : Nat) (stall : Bool) : Nat → List Nat → List Nat → List Nat
  | _, _, [] => []
  | k, prev, u :: t =>
    if u = 0 then [u]
    else if limit ≤ k then [u]
    else if stall && decide (4 ≤ k) && decide (prev.getD 2 0 ≤ u) then [u]
    else u :: cutUscs limit stall (k + 1) ((u :: prev).take 3) t

/-- A pass after its end: its counts, and whether it converged. -/
def passCounts (limit : Nat) (stall : Bool) (p : PassIn) : List Nat := cutUscs limit stall 1 [] p.uscs

def converged (l : List Nat) : Bool := l.getLast? == some 0

/-! ### Outcomes (R109, R116, R120) -/

/-- A sector's outcome reaches QUE. A VERIFY delivers its verdict and no payload; the payload of a PATROL goes no further than
the welt engine, which checks P and Q (R187, R389). -/
def Dev.deliver (d : Dev) (g : Grp) (o : SectOut) : Dev :=
  let o := if d.fmt[g].cur.any (fun r => r.kind == 2) then { o with payload := [] } else o
  d.onGrpq g fun q => { q with results := q.results ++ [o] }

/-- The capture record of a ladder (chapter 03, LANE_REC_INFO0 to 2). -/
def Dev.recInfo (d : Dev) (n : LaneId) (l : Ladder) (outcome step pass globals : Nat) (pos : Int) : Dev :=
  let d := (((d.set LANE_REC_INFO0.OUTCOME outcome n).set LANE_REC_INFO0.STEP step n).set
    LANE_REC_INFO0.REVS l.revs n).set LANE_REC_INFO0.SECTOR l.sect n
  let d := (((d.set LANE_REC_INFO1.TAG_MISMATCH l.tagFailed.toNat n).set LANE_REC_INFO1.PASS pass n).set
    LANE_REC_INFO1.SYNC_POS (twos 7 pos) n).set LANE_REC_INFO1.CYL l.cyl n
  let d := ((d.set LANE_REC_INFO2.USC_BEST l.uscBest n).setSat LANE_REC_INFO2.SPEC_LAUNCHED l.spec n).set
    LANE_REC_INFO2.GLOBALS globals n
  d.stamp LANE_REC_INFO0.VALID LANE_REC_INFO0.SEQ n

/-- The flags of an outcome after a ladder (R116). -/
def Dev.ladderFlags (d : Dev) (n : LaneId) (l : Ladder) : Dev :=
  let d := d.when l.syncMiss (·.raise LANE_INT_STATUS.SYNC_MISS n)
  let d := d.when l.tagFailed (·.raise LANE_INT_STATUS.TAG_MISMATCH n)
  d.count 0x403 (some n.grp) l.used

/-- A ladder commits (R104, R116). -/
def Dev.commit (d : Dev) (n : LaneId) (l : Ladder) (outcome step pass globals : Nat) (pos : Int)
    (payload : List Byte) (tag : BitVec 128) : Dev :=
  let d := ((d.ladderFlags n l).raise LANE_INT_STATUS.RECOVERED n).count 0x401 (some n.grp)
  let d := (d.recInfo n l outcome step pass globals pos).dropLadder n l
  let d := d.onLane n fun x => x.keepResult l.cyl l.sect (fieldOf payload tag)
  d.deliver n.grp ⟨l.cyl, l.sect, n.ix, 1, payload, tag, l.tagFailed⟩

/-- The record of R345 for an unrecovered sector with a tag mismatch. -/
def Dev.tagRecord (d : Dev) (n : LaneId) (l : Ladder) : Dev :=
  let x := (d.expect n.grp l.cyl l.sect n.ix).getD ⟨0, 0, 0, false⟩
  let (pl, tg) := l.lastTag.getD ([], 0)
  let found := match l.lastTag with
    | some _ => [0, 1, 2, 3].map fun k => ofLe ((tagBytes tg).drop (4 * k) |>.take 4)
    | none => [0, 0, 0, 0]
  (d.uc 201 1 n.val).event 0x03 30
    ([n.grp.val * 8 + n.ix.val, l.cyl, l.sect, x.addr % 2 ^ 32, x.addr / 2 ^ 32,
      x.nsid * 16 + x.kind, (crc32c pl).toNat] ++ found)

/-- A ladder ends unrecovered (R109). -/
def Dev.unrecovered (d : Dev) (n : LaneId) (l : Ladder) : Dev :=
  let d := ((d.ladderFlags n l).raise LANE_INT_STATUS.UNRECOVERED n).count 0x402 (some n.grp)
  let step := if l.revs != 0 then 5 else l.tried
  let d := (d.recInfo n l 2 step 0xF 0 0).dropLadder n l
  let d := if l.tagFailed then d.tagRecord n l else d
  let (pl, tg) := l.lastTag.getD ([], 0)
  d.deliver n.grp ⟨l.cyl, l.sect, n.ix, if l.tagFailed then 3 else 2, pl, tg, l.tagFailed⟩

/-- The rereads of a request that the formatter runs; a sequence without a request sets no limit. -/
def Dev.rereadsAllowed (d : Dev) (n : LaneId) (l : Ladder) : Bool :=
  decide (l.revs < min 24 (d.get LANE_LADDER.MAX_REVS n)) &&
    (match d.fmt[n.grp].cur with | some r => r.revs != 0 | none => true)

/-- Step 5 of the ladder, or its end (R103, R105): what still runs for it, here and at its peers, is discarded. -/
def Dev.step5 (d : Dev) (n : LaneId) (l : Ladder) : Dev :=
  if d.rereadsAllowed n l then
    let d := d.onLane n fun x =>
      { x with ladders := x.ladders.map fun y => if y.cyl == l.cyl && y.sect == l.sect then
                 { l with todo := [], waits := true, store := [], welt := false, members := [], refused := [] } else y
               dec := match x.dec with
                 | some (.ladder c k _ _) => if c == l.cyl && k == l.sect then none else x.dec
                 | w => w }
    (d.callOff n l.cyl l.sect).showLane n
  else d.unrecovered n l

/-- Members of the welt, and how many of them a rebuild of one missing member needs (R338). -/
def Dev.weltNeeds (d : Dev) (g : Grp) (cyl sect : Nat) : Option (BandEntry × Nat) :=
  (d.bandOver g (d.weltAt g cyl sect)).map fun p => (p.2, p.2.data)

/-- Enough members have been handed over for the welt kind. -/
def Dev.enough (d : Dev) (n : LaneId) (l : Ladder) : Bool :=
  match d.weltNeeds n.grp l.cyl l.sect with
  | some (_, k) => decide (k ≤ l.members.length)
  | none => false

/-- A peer of the welt may still hand over its member (R101, R631): it has done so; or its lane answers, has not proved
unavailable, and still has the sector to come, or holds it in a slot that is or can be pinned, with a result or an alignment to
decode it at. -/
def Dev.mayHand (d : Dev) (n : LaneId) (l : Ladder) (i : HeadIx) : Bool :=
  let m := laneOf n.grp i
  let x := d.lanes[m]
  l.members.any (fun p => p.1 == i) ||
    (i != n.ix && d.laneReads m && !l.refused.contains i &&
      (d.arms[m].any (fun a => a.cyl == l.cyl && a.sect == l.sect && !a.wg) ||
        match (x.slotOf l.cyl l.sect).bind fun k => x.slots[k] with
        | some s => (s.pinned || decide (x.pins < 2)) &&
            (x.won.any (fun w => w.1 == l.cyl && w.2.1 == l.sect) || (d.get LANE_CTRL.MODE m != 1 && (d.peerAlign m s).isSome))
        | none => false))

/-- Step 4 can still apply (R103): enough members are, or may be, decoded for the welt kind. -/
def Dev.canWelt (d : Dev) (n : LaneId) (l : Ladder) : Bool :=
  d.on LANE_LADDER.WELT_EN n &&
    match d.weltNeeds n.grp l.cyl l.sect with
    | some (e, k) => decide (k ≤ ((headsOf e.members).filter (d.mayHand n l)).length)
    | none => false

/-- Replace a ladder. -/
def Dev.putLadder (d : Dev) (n : LaneId) (l : Ladder) : Dev :=
  d.onLane n fun x => { x with ladders := x.ladders.map fun y =>
    if y.cyl == l.cyl && y.sect == l.sect then l else y }

/-- Evaluate a finished pass of a ladder, given its counts (R94, R104): the payload is descrambled with the seed of its place;
the ladder commits, or its failure is noted. True where it committed. -/
def Dev.evalPass (d : Dev) (n : LaneId) (l : Ladder) (p : PassId) (us : List Nat) (r : PassIn) (spec : Bool) : Bool × Dev :=
  let conv := converged us
  let payload := scrambleAt l.cyl l.sect n r.payload
  let ok := d.tagPasses l.arm.tagMode n.grp l.cyl l.sect n.ix payload r.tag
  let l := { l with tried := max l.tried p.step, used := l.used + spec.toNat
                    todo := l.todo.filter (· != p) }
  if conv && ok then
    (true, d.commit n l 0 p.step (if p.step = 3 then p.ix else 0xF) us.length ((d.passAlign n l p).getD 0)
      payload r.tag)
  else
    let u := if conv then 0 else us.getLast?.getD 0xFFF
    let l := { l with uscBest := min l.uscBest u, tagFailed := l.tagFailed || conv
                      lastTag := if conv then some (payload, r.tag) else l.lastTag }
    (false, d.putLadder n l)

/-- A pass of a ladder that may run: a pass-table entry must be valid when it starts (R123). -/
def Dev.passValid (d : Dev) (n : LaneId) (p : PassId) : Bool := p.step != 3 || d.on LANE_PASS.VALID n p.ix

/-- A speculative pass that may run (R112, R123). -/
def Dev.specValid (d : Dev) (n : LaneId) (p : PassId) : Bool := d.passValid n p && (p.step != 3 || d.on LANE_PASS.SPEC n p.ix)

/-- Advance a ladder as far as its stored results go: the next pass that the decoder must run, none where
the ladder has ended or waits for its peers. -/
def Dev.advance (d : Dev) (n : LaneId) (cyl sect : Nat) : Nat → Option PassId × Dev
  | 0 => (none, d)
  | fuel + 1 =>
    match d.lanes[n].ladders.find? fun l => l.cyl == cyl && l.sect == sect with
    | none => (none, d)
    | some l =>
      if l.waits then (none, d)
      else match l.todo with
      | [] =>
        -- step 4
        if !d.canWelt n l then (none, d.step5 n l)
        else (none, if l.welt then d else d.putLadder n { l with welt := true })
      | p :: t =>
        match l.store.find? fun x => x.1 == p with
        | some (_, us, r) =>
          let (done, d) := d.evalPass n l p us r true
          if done then (none, d) else d.advance n cyl sect fuel
        | none =>
          if d.passValid n p then (some p, d) else (d.putLadder n { l with todo := t }).advance n cyl sect fuel

/-- The slot that a ladder's passes work on. -/
def Dev.ladderSlot (d : Dev) (n : LaneId) (l : Ladder) : Option Slot := l.slot.bind fun i => d.lanes[n].slots[i]

/-- The recovery decoder takes up a pass of a ladder. -/
def Dev.startPass (d : Dev) (n : LaneId) (x : Ladder) (p : PassId) : Dev :=
  (d.startDec n (.ladder x.cyl x.sect p (d.passLimit n p)) (d.ladderSlot n x) p (d.passAlign n x p)).showLane n

/-- The recovery decoder takes up the first speculative pass that may run (R112, R113). -/
def Dev.nextSpec (d : Dev) (n : LaneId) : Dev :=
  match d.lanes[n].specs.find? fun s => s.todo.any (d.specValid n) with
  | none => d.showLane n
  | some s =>
    match s.todo.dropWhile fun p => !d.specValid n p with
    | [] => d.showLane n
    | p :: t =>
      let x := (d.lanes[n].slotOf s.cyl s.sect).bind fun i => d.lanes[n].slots[i]
      let al := if p.step = 1 then x.bind Slot.second else x.bind Slot.primary
      let d := d.onLane n fun l => { l with specs := l.specs.map fun y => if y.cyl == s.cyl && y.sect == s.sect then
        { y with todo := t, launched := y.launched + 1 } else y }
      (d.startDec n (.spec s.cyl s.sect p (d.passLimit n p)) x p al).showLane n

/-- A ladder has something to do now: a pass to evaluate, a step to enter, or a step 4 that can no longer apply. -/
def Dev.ladderActs (d : Dev) (n : LaneId) (l : Ladder) : Bool :=
  !l.waits && !(l.todo.isEmpty && l.welt && d.canWelt n l)

/-- Give the recovery decoder its next work, in the order of R113. -/
def Dev.nextDec (d : Dev) (n : LaneId) : Nat → Dev
  | 0 => d
  | fuel + 1 =>
    let l := d.lanes[n]
    let busy := match l.dec with
      | none => false
      | some (.spec ..) => false
      | some _ => true
    if busy then d.showLane n
    else
      match l.ladders.find? (d.ladderActs n) with
      | some x =>
        let (p, d) := d.advance n x.cyl x.sect 12
        match p, d.lanes[n].ladders.find? fun y => y.cyl == x.cyl && y.sect == x.sect with
        | some p, some x => d.startPass n x p
        | _, _ => d.nextDec n fuel
      | none =>
        if !l.asks.isEmpty then (d.onLane n fun l => { l with dec := none }).nextAsk n
        else if l.dec.isSome then d.showLane n
        else d.nextSpec n

/-- A lane's recovery decoder has work that it could take up now (R113). -/
def Dev.wantsDec (d : Dev) (n : LaneId) : Bool :=
  let l := d.lanes[n]
  match l.dec with
  | none => l.ladders.any (d.ladderActs n) || !l.asks.isEmpty || l.specs.any fun s => s.todo.any (d.specValid n)
  | some (.spec ..) => l.ladders.any (d.ladderActs n) || !l.asks.isEmpty
  | some _ => false

/-- The recovery decoders of a group take up what they can (R113): what one lane does may free or ask another. -/
def Dev.serve (d : Dev) (g : Grp) : Nat → Dev
  | 0 => d
  | fuel + 1 =>
    match (List.finRange 8).find? fun i => d.wantsDec (laneOf g i) with
    | none => d
    | some i => (d.nextDec (laneOf g i) 16).serve g fuel

/-- A peer is unavailable for the reconstruction of a ladder (R101, R631). -/
def Dev.refuseMember (d : Dev) (to_ : LaneId) (c k : Nat) (i : HeadIx) : Dev :=
  d.onLane to_ fun x => { x with ladders := x.ladders.map fun y =>
    if y.cyl == c && y.sect == k then { y with refused := i :: y.refused } else y }

/-- A sector enters the ladder (R103): its passes in order, and its own pin. `r` is the failed main pass with its counts,
none after a missed mark. What its speculation runs is pre-empted, what it has finished is kept (R113, R114). -/
def Dev.enterLadder (d : Dev) (n : LaneId) (s : Sect) (r : Option (List Nat × List Byte × BitVec 128)) : Dev :=
  let c := s.arm.cyl
  let k := s.arm.sect
  let wideEn := d.on LANE_SYNC.WIDE_EN n
  let secEn := d.on LANE_SYNC.SECOND_EN n
  let wide := match s.slot.bind fun i => d.lanes[n].slots[i] with
    | some x => if wideEn then d.wideOf n x else (none, none)
    | none => (none, none)
  let prim := if s.missed then wide.1 else s.primary
  let step1 :=
    if s.missed then
      (if wideEn && wide.1.isSome then [⟨1, 0⟩] else []) ++
      (if wideEn && secEn && wide.2.isSome then [⟨1, 1⟩] else [])
    else if secEn && s.second.isSome then [(⟨1, 1⟩ : PassId)] else []
  let rest := if prim.isSome then ⟨2, 0⟩ :: (List.range 8).map (fun i => (⟨3, i⟩ : PassId)) else []
  let todo := if s.slot.isSome then step1 ++ rest else []
  let old := d.lanes[n].ladders.find? fun l => l.cyl == c && l.sect == k
  let sp := d.lanes[n].specs.find? fun x => x.cyl == c && x.sect == k
  let conv := match r with | some (us, _) => converged us | none => false
  let usc := match r with
    | some (us, _) => if converged us then 0 else us.getLast?.getD 0xFFF
    | none => 0xFFF
  let base : Ladder := old.getD
    { cyl := c, sect := k, arm := s.arm, slot := s.slot, missed := s.missed, primary := prim, second := s.second }
  let l : Ladder := { base with
    slot := s.slot, missed := s.missed, primary := prim, second := s.second, todo := todo
    waits := false, welt := false, members := [], refused := [], syncMiss := base.syncMiss || s.missed
    tagFailed := base.tagFailed || conv
    lastTag := match r with | some (us, p) => if converged us then some p else base.lastTag
                            | none => base.lastTag
    uscBest := min base.uscBest usc
    spec := base.spec + (sp.map Spec.launched).getD 0
    store := (sp.map Spec.store).getD [] }
  let d := d.onLane n fun x =>
    { x with specs := x.specs.filter fun y => !(y.cyl == c && y.sect == k)
             ladders := if old.isSome then x.ladders.map (fun y => if y.cyl == c && y.sect == k then l else y)
               else x.ladders ++ [l]
             dec := match x.dec with
               | some (.spec a b _ _) => if a == c && b == k then none else x.dec
               | w => w }
  (d.pinLadder n l).serve n.grp 64

/-- Every ladder of a group that still waits for a reread ends unrecovered: the request has ended
(R184). -/
def Dev.endLadders (d : Dev) (g : Grp) : Dev :=
  (d.each (List.finRange 8) fun i d =>
    let n := laneOf g i
    d.each (d.lanes[n].ladders.filter Ladder.waits) fun l d => d.unrecovered n l).serve g 64

end Sys2Proof.Machine
end

