-- ==== Sys2Proof/Machine/Lanes.lean ====
section
/-! DEFINITION. Commands of the read channel lanes (chapter 03). -/

namespace Sys2Proof.Machine

/-- An arm is dropped (R170): SLOT_MISSED; a slot armed with ECC_START has no verdict to wait for. -/
def Dev.dropArm (d : Dev) (n : LaneId) (a : Arm) : Dev :=
  let d := (d.onArms n fun l => l.erase a).onFmt n.grp fun f =>
    { f with slotMissed := true, verdicts := if a.ecc then f.verdicts - 1 else f.verdicts }
  d.raise FMT_INT_STATUS.SLOT_MISSED n.grp

/-! ### Capture (R96, R99 to R101, R118) -/

/-- The slot that a capture fills: the next of the ring that is neither pinned nor in `keep`; none while two are pinned
(R99, R100). -/
def LaneSt.freeSlot (l : LaneSt) (keep : Nat) : Option (Fin 3) :=
  if 2 ≤ l.pins then none
  else [l.ring, l.ring + 1, l.ring + 2].find? fun i =>
    !((l.slots[i].map Slot.pinned).getD false) && !bit keep i

/-- The lanes of a list whose ladders for a sector are at a reread (R101). -/
def Dev.rereading (d : Dev) (cyl sect : Nat) (l : List LaneId) : List LaneId :=
  l.filter fun p => d.lanes[p].ladders.any fun y => y.cyl == cyl && y.sect == sect && (y.waits || y.revs != 0)

/-- The duration of a sector slot in µs, 37,104 cells at the present bit rate, rounded up. -/
def Dev.slotTime (d : Dev) (g : Grp) : Nat :=
  let r := d.get WLS_RATIO_LO.FRAC g + 2 ^ 32 * d.get WLS_RATIO_HI.INT g
  if r = 0 then 0 else (37104 * 2 ^ 32 + 25 * r - 1) / (25 * r)

/-- Capture a sector: the slot, and the device with it filled; the fill before it has ended. At a reread the pins of the
ladders that wait move from the older capture of the sector to this one; where it cannot be made, they are released (R96,
R101). -/
def Dev.fillSlot (d : Dev) (n : LaneId) (new : Slot) (keep : Nat := 0) : Option (Fin 3) × Dev :=
  let l := d.lanes[n]
  let old := (l.slotOf new.cyl new.sect).bind fun j => l.slots[j]
  let own := !new.servo && !(d.rereading new.cyl new.sect [n]).isEmpty
  let movers := if new.servo then [] else d.rereading new.cyl new.sect ((old.map Slot.peers).getD [])
  let leave := fun (s : Slot) => if s.cyl == new.cyl && s.sect == new.sect then
    { s with ladder := s.ladder && !own, peers := s.peers.filter fun p => !movers.contains p } else s
  match l.freeSlot keep with
  | none =>
    let d := d.onLane n fun l => { l with slots := l.slots.map (Option.map leave) }
    (none, (if 2 ≤ l.pins then d.raise LANE_INT_STATUS.NOT_CAPTURED n else d).repin n)
  | some i =>
    let new : Slot := { new with serial := l.serial + 1, ladder := own, peers := movers, till := d.now + d.slotTime n.grp }
    let d := d.onLane n fun l => { l with
      slots := (l.slots.map (Option.map fun s => (leave s).fillEnds)).set i (some new)
      ring := i + 1, serial := l.serial + 1 }.trimWon
    (some i, d)

/-- The slot of a sector, from which a replay starts with f = 0 (R82): its samples, the cells at which its resume fields begin, its sync distances and candidates
(R84, R85, R96); a capture armed with SRV_GATE holds the next servo field, and no sector (R163). -/
def Dev.slotFor (d : Dev) (n : LaneId) (a : Arm) (x : SlotIn) (start : Loops) (angle : Nat) : Slot :=
  let z := d.zoneIx n.grp a.cyl
  if a.srvGate then
    { cyl := a.cyl, sect := a.sect, zone := z, servo := true, samplesA := x.samplesA.take 40960
      samplesB := x.samplesB.take 40960, start := { start with freq := 0 } }
  else
    let dists := syncDists x.decs
    let (p, q) := flyCandidates (min 8 (d.get LANE_SYNC.MAX_DIST n)) dists
    { cyl := a.cyl, sect := a.sect, zone := z, resumeAt := resumeCells (d.splits n.grp a.cyl a.sect)
      samplesA := x.samplesA.take 40960, samplesB := x.samplesB.take 40960, decs := x.decs, dists := dists
      primary := p, second := q, start := { start with freq := 0 }, angle := angle }

/-- Capture a sector as the lane's mode says: in capture mode the three slots are filled once and held (R118). -/
def Dev.captureSlot (d : Dev) (n : LaneId) (x : Slot) : Option (Fin 3) × Dev :=
  if d.get LANE_CTRL.MODE n == 1 then
    let (i, d) := d.fillSlot n x d.lanes[n].capMask
    (i, match i with
      | some i => d.onLane n fun l => { l with capMask := setBit l.capMask i }
      | none => d)
  else d.fillSlot n x

/-- Start speculation for a sector (R111, R112). -/
def Dev.speculate (d : Dev) (n : LaneId) (s : Sect) : Dev :=
  let known := d.lanes[n].specs.any fun x => x.cyl == s.arm.cyl && x.sect == s.arm.sect
  if !d.on LANE_SPEC_TA.SPEC_EN n || s.slot.isNone || known then d
  else
    let first := if d.on LANE_SYNC.SECOND_EN n && s.second.isSome then [(⟨1, 1⟩ : PassId)] else []
    let rest := ((List.range 8).filter fun i => d.on LANE_PASS.VALID n i && d.on LANE_PASS.SPEC n i).map
      fun i => (⟨3, i⟩ : PassId)
    (d.onLane n fun l => { l with specs := l.specs ++ [⟨s.arm.cyl, s.arm.sect, first ++ rest, 0, []⟩] }).nextDec
      n 16

/-- TRIG_SYNC (R111). -/
def Dev.trigSync (d : Dev) (n : LaneId) (s : Sect) (dists : List Nat) : Bool :=
  d.on LANE_SPEC_TA.TRIG_SYNC n &&
    match s.primary with
    | none => false
    | some p =>
      decide (d.get LANE_SYNC.SPEC_DIST n ≤ distAt dists p) ||
        (match s.second with | some q => decide (distAt dists q < distAt dists p) | none => false)

/-- The front ends as a sector begins, and the rate of the ADCs, 25/24 of the bit rate, as the bit rate's 40-bit ratio word
times 25 (R71 to R73). -/
def Dev.showFront (d : Dev) (n : LaneId) (w : Loops) : Dev :=
  d.onLane n fun l => { l with
    frontA := frontEnd w.gainA (d.get LANE_AFE_A.CTF_FC n) (d.get LANE_AFE_A.CTF_BOOST n)
    frontB := frontEnd w.gainB (d.get LANE_AFE_B.CTF_FC n) (d.get LANE_AFE_B.CTF_BOOST n)
    adcRate := 25 * (d.get WLS_RATIO_LO.FRAC n.grp + 2 ^ 32 * d.get WLS_RATIO_HI.INT n.grp) }

/-- A gated sector runs through the lane's chain (R68 to R83): its working values are those at the sector's end, ADAPT_LIMIT
is set where a loop reached an end of its range, TRACKING where the timing loop passed its high-gain segment. -/
def Dev.runSector (d : Dev) (n : LaneId) (a : Arm) (x : SlotIn) (start : Loops) (angle : Nat) : Chain × Dev :=
  let c := d.chainCfg n (d.splits n.grp a.cyl a.sect)
  let r := runChain c x angle start
  let z := d.zoneIx n.grp a.cyl
  let d := d.onLane n fun l => { l with work := r.l, last := some (z, a.cyl), adapt := false, dirty := [], cal := l.cal - 1 }
  let d := (d.when r.hit (·.raise LANE_INT_STATUS.ADAPT_LIMIT n)).set LANE_STATUS.TRACKING (r.tracking c).toNat n
  (r, d)

/-- The chain over a sector that is captured and not gated for reading: its loops hold, its baselines are kept (R89). -/
def Dev.baselines (d : Dev) (n : LaneId) (a : Arm) (x : SlotIn) (start : Loops) : Chain :=
  runChain { d.chainCfg n (d.splits n.grp a.cyl a.sect) with hold := true } x 0 start

/-- A lane's latest sector, where no main pass follows: a thermal asperity may still be found in it (R89). -/
def Dev.keepSect (d : Dev) (n : LaneId) (st : Sect) : Dev :=
  d.onLane n fun l => { l with
    sects := l.sects.filter (fun y => y.arm.ecc) ++ [{ st with arm := { st.arm with ecc := false } }] }

/-- LANE_SECTOR_START (R68 to R86, R96, R99, R100, R111, R117, R118, R170): the oldest armed slot of
the lane begins. In LOST and OFF the WLS allows no read, and the arm is dropped. In capture mode nothing is decoded, and the
verdict of a sector gated with ECC_START is success (DESIGN CHOICE, log entry 130). -/
def execLaneSectorStart (n : LaneId) (x : SlotIn) (s : State) : Out :=
  s.runGroup n.grp fun d =>
    match d.arms[n] with
    | [] => d
    | a :: _ =>
      let g := n.grp
      let wst := d.get WLS_STATUS.STATE g
      if a.wg then d
      else if wst = 4 then d.dropArm n a
      else
        let d := d.onArms n fun l => l.erase a
        if !d.laneReads n then
          -- the lane answers as a missing member (R117)
          if a.ecc then ((d.answerMissing n a).verdict g false false).serve g 64 else d
        else
          let (angle, d) := d.draw
          let start := if a.rg then d.startLoops n a.cyl else d.lanes[n].work
          let d := (d.showFront n start).set LANE_STATUS.ZONE (d.zoneIx g a.cyl) n
          let d := d.onLane n fun l => { l with busyTill := d.now + d.slotTime g }
          let slot := d.slotFor n a x start (Config.freeValue angle)
          let (i, d) := if a.rg || a.cap then d.captureSlot n slot else (none, d)
          if !a.rg then
            -- the lane keeps its baselines; its loops hold (R89)
            let found := if a.cap && !a.srvGate then (d.baselines n a x start).found else []
            ((d.keepSect n { arm := a, slot := i, found := found, loops := start }).set LANE_STATUS.TRACKING 0 n).showLane n
          else
            let (r, d) := d.runSector n a x start (Config.freeValue angle)
            if d.get LANE_CTRL.MODE n == 1 then
              ((if a.ecc then d.verdict g true false else d).keepSect n { arm := a, slot := i, found := r.found, loops := r.l }).showLane n
            else
              let c := (slot.cyl, slot.sect)
              -- without SYNC_ARM no mark is searched for
              let prim := if a.sync then slot.primary else none
              let st : Sect :=
                { arm := a, slot := i, missed := prim.isNone, primary := prim, second := slot.second
                  found := r.found, loops := r.l
                  det := detIn (d.splits g a.cyl a.sect) r (r.found.map (taRegion (d.get LANE_SPEC_TA.TA_EXT n))) 0 r.l.tgt
                    (prim.getD 0) }
              let d := d.onLane n fun l => { l with
                won := if a.ecc then l.won.filter (fun w => (w.1, w.2.1) != c) else l.won }
              if !a.ecc then (d.keepSect n st).showLane n
              else if st.missed then ((d.verdict g false false).keepSect n st).enterLadder n st none
              else
                let d := d.onLane n fun l => { l with sects := l.sects.filter (fun y => y.arm.ecc) ++ [st] }
                -- a reread of a ladder that waits
                let d := d.onLane n fun l => { l with ladders := l.ladders.map fun y =>
                  if (y.cyl, y.sect) == c && y.waits then { y with slot := i } else y }
                (if d.trigSync n st slot.dists then d.speculate n st else d).showLane n

/-- THERMAL_ASPERITY (R89, R90, R111): an excess of a reader's baseline over the cells `first` to `last` of the latest sector,
which no region marks yet, is marked, in the sector and in its slot. Cells over which the lane's chain found no such excess mark
nothing. -/
def execThermalAsperity (n : LaneId) (first last : Nat) (s : State) : Out :=
  s.runGroup n.grp fun d =>
    match d.lanes[n].sects.getLast? with
    | none => d
    | some st =>
      if !st.found.contains (first, last) then d
      else
        let r := taRegion (d.get LANE_SPEC_TA.TA_EXT n) (first, last)
        let st' := { st with found := st.found.erase (first, last), tas := st.tas ++ [r] }
        let d := d.onLane n fun l => { l with sects := l.sects.dropLast ++ [st'] }
        let d := match st.slot with
          | some i => d.onSlot n i fun x => { x with tas := x.tas ++ [r] }
          | none => d
        if d.on LANE_SPEC_TA.TRIG_TA n && st.arm.ecc then d.speculate n st' else d

/-- The write-back of R78: the values at the sector's end, unless firmware wrote the set during the sector. -/
def Dev.writeBack (d : Dev) (n : LaneId) (st : Sect) : Dev :=
  if d.on LANE_LOOP.WB_EN n && !st.dirty then d.putLoops n (d.zoneIx n.grp st.arm.cyl) st.loops else d

/-- The main pass of a sector: its counts up to its end (R92); a region that is too long fails it without decoding (R90). -/
def Dev.mainCounts (d : Dev) (n : LaneId) (st : Sect) (p : PassIn) : List Nat :=
  if tooLong st.tas then []
  else passCounts (countField (d.get LANE_ITER.GLOBAL_OTF n) 8) (d.on LANE_ITER.STALL_STOP n) p

/-- TRIG_USC (R111). -/
def Dev.trigUsc (d : Dev) (n : LaneId) (us : List Nat) : Bool :=
  d.on LANE_SPEC_TA.TRIG_USC n && decide (2 ≤ us.length) && decide (d.get LANE_ITER.SPEC_USC n ≤ us.getD 1 0)

/-- MAIN_PASS_END (R78, R92 to R94, R103, R111, R114, R116). -/
def execMainPassEnd (n : LaneId) (p : PassIn) (s : State) : Out :=
  s.runGroup n.grp fun d =>
    match d.lanes[n].sects.find? fun y => y.arm.ecc with
    | none => d
    | some st =>
      let g := n.grp
      let c := st.arm.cyl
      let k := st.arm.sect
      let payload := scrambleAt c k n p.payload
      let us := d.mainCounts n st p
      let conv := converged us
      let ok := conv && d.tagPasses st.arm.tagMode g c k n.ix payload p.tag
      let d := if d.trigUsc n us then d.speculate n st else d
      let d := d.onLane n fun l =>
        { l with sects := l.sects.erase st
                 slots := match st.slot with
                   | some i => upd l.slots i (Option.map Slot.fillEnds)
                   | none => l.slots }
      if ok then
        let d0 := d
        let d := (d.writeBack n st).verdict g true false
        let d := d.onLane n fun l =>
          { l with specs := l.specs.filter fun y => !(y.cyl == c && y.sect == k)
                   dec := match l.dec with
                     | some (.spec a b _ _) => if a == c && b == k then none else l.dec
                     | w => w
               }.keepResult c k (fieldOf payload p.tag)
        let launched := ((d0.lanes[n].specs.find? fun y => y.cyl == c && y.sect == k).map Spec.launched).getD 0
        let d := match d.lanes[n].ladders.find? fun y => y.cyl == c && y.sect == k with
          | some l => d.commit n { l with spec := l.spec + launched } 0 5 0xF us.length (st.primary.getD 0) payload p.tag
          | none => (d.count 0x400 (some g)).deliver g ⟨c, k, n.ix, 0, payload, p.tag, false⟩
        d.serve g 64
      else (d.verdict g false conv).enterLadder n st (if us.isEmpty then none else some (us, payload, p.tag))

/-- A member is handed over to the ladder of a lane, which is at step 4 (R105, R631). -/
def Dev.handOver (d : Dev) (to_ : LaneId) (c k : Nat) (i : HeadIx) (field : List Byte) : Dev :=
  match d.lanes[to_].ladders.find? fun y => y.cyl == c && y.sect == k && y.welt && !y.waits with
  | none => d
  | some l =>
    let l := { l with members := l.members.filter (fun m => m.1 != i) ++ [(i, field)] }
    let l := if d.enough to_ l then { l with tried := max l.tried 4 } else l
    d.putLadder to_ l

/-- RECOVERY_PASS_END (R94, R95, R104, R113, R631): the pass that the decoder ran. A pass converges only where it had an
alignment. -/
def execRecoveryPassEnd (n : LaneId) (p : PassIn) (s : State) : Out :=
  s.runGroup n.grp fun d =>
    let w := d.lanes[n].dec
    let d := d.onLane n fun l => { l with dec := none, det := ⟨[], []⟩ }
    match w with
    | none => d
    | some (.ladder c k q limit) =>
      match d.lanes[n].ladders.find? fun y => y.cyl == c && y.sect == k with
      | some l => ((d.evalPass n l q (passCounts limit false p) p false).2).serve n.grp 64
      | none => d.serve n.grp 64
    | some (.peer r c k) =>
      let us := passCounts (d.passLimit n peerPass) false p
      (if converged us then d.handOver r c k n.ix (fieldOf (scrambleAt c k n p.payload) p.tag)
        else d.refuseMember r c k n.ix).serve n.grp 64
    | some (.spec c k q limit) =>
      (d.onLane n fun l => { l with specs := l.specs.map fun y => if y.cyl == c && y.sect == k then
        { y with store := y.store ++ [(q, passCounts limit false p, p)] } else y }).serve n.grp 64

/-- BUF_BUDGET_EXPIRY (R105). -/
def execBufBudgetExpiry (n : LaneId) (cyl sect : Nat) (s : State) : Out :=
  s.runGroup n.grp fun d =>
    match d.lanes[n].ladders.find? fun y => y.cyl == cyl && y.sect == sect && !y.waits with
    | none => d
    | some l => (d.step5 n l).serve n.grp 64

/-- The field that the welt engine rebuilds for a head from the members handed over (R337, R338). -/
def weltRebuild (e : BandEntry) (cyl : Nat) (i : HeadIx) (members : List (HeadIx × List Byte)) :
    Option (List Byte) :=
  let heads := headsOf e.members
  let dataHeads := e.dataHeads cyl
  let field := fun (h : HeadIx) => (members.find? fun m => m.1 == h).map Prod.snd
  let ph := (heads[e.pPos cyl]?).bind field
  let qh := if e.pq then (heads[e.qPos cyl]?).bind field else none
  let data := dataHeads.zipIdx.filterMap fun x => (field x.1).map fun f => (x.2, f)
  let lost := (List.range dataHeads.length).filter fun j => !(data.any fun x => x.1 == j)
  match dataHeads.idxOf? i with
  | some j =>
    let data := data.filter fun x => x.1 != j
    let lost := sortBy (fun a b => decide (a ≤ b)) (lost ++ [j]).dedup
    (rebuild data ph qh lost).bind fun l => l[(lost.idxOf? j).getD 0]?
  | none =>
    -- a lost P or Q is recomputed
    (rebuild data ph qh lost).map fun l =>
      let all := (sortBy (fun a b => decide (a.1 ≤ b.1)) (data ++ lost.zip l)).map Prod.snd
      if heads[e.pPos cyl]? == some i then parityP all else parityQ all

/-- RECONSTRUCTION_DELIVERED (R104, R105, R338, R339). -/
def execReconstructionDelivered (n : LaneId) (cyl sect : Nat) (s : State) : Out :=
  s.runGroup n.grp fun d =>
    match d.lanes[n].ladders.find? fun y => y.cyl == cyl && y.sect == sect && y.welt && !y.waits,
        d.weltNeeds n.grp cyl sect with
    | some l, some (e, _) =>
      if !d.enough n l then d
      else match weltRebuild e cyl n.ix l.members with
        | none => (d.step5 n l).serve n.grp 64
        | some f =>
          let payload := f.take 4096
          let tag := tagOf (f.drop 4096)
          let isData := (e.dataHeads cyl).contains n.ix
          if !isData || d.tagPasses l.arm.tagMode n.grp cyl sect n.ix payload tag then
            (d.commit n l 1 4 0xF 0 0 payload tag).serve n.grp 64
          else (d.step5 n l).serve n.grp 64
    | _, _ => d

/-- The ladder of a lane for a sector. -/
def Dev.hasLadder (d : Dev) (n : LaneId) (c k : Nat) : Bool :=
  d.lanes[n].ladders.any fun y => y.cyl == c && y.sect == k

/-- PEER_PIN (R101): lane n pins its slot for the ladder of another lane of its group; where it already has two pinned slots
it is unavailable for that ladder's reconstruction. -/
def execPeerPin (n from_ : LaneId) (cyl sect : Nat) (s : State) : Out :=
  s.runGroup n.grp fun d =>
    if n == from_ || n.grp != from_.grp || !d.laneReads n || !d.hasLadder from_ cyl sect then d
    else match d.lanes[n].slotOf cyl sect with
      | none => d
      | some i =>
        let already := ((d.lanes[n].slots[i]).map Slot.pinned).getD false
        if already || d.lanes[n].pins < 2 then
          (d.onSlot n i fun x => { x with peers := x.peers.filter (· != from_) ++ [from_] }).showLane n
        else (d.refuseMember from_ cyl sect n.ix).serve n.grp 64

/-- PEER_MEMBER_REQUEST (R101, R118, R631): lane n, whose slot the ladder of another lane pins, hands over its result, or
decodes the slot where an alignment exists; a lane in capture mode decodes nothing. Else it is unavailable. -/
def execPeerMemberRequest (n from_ : LaneId) (cyl sect : Nat) (s : State) : Out :=
  s.runGroup n.grp fun d =>
    let asked := d.lanes[from_].ladders.any fun y => y.cyl == cyl && y.sect == sect && y.welt && !y.waits
    if n == from_ || n.grp != from_.grp || !d.laneReads n || !asked then d
    else match (d.lanes[n].slotOf cyl sect).bind fun i => d.lanes[n].slots[i] with
      | none => d
      | some x =>
        if !x.peers.contains from_ then (d.refuseMember from_ cyl sect n.ix).serve n.grp 64
        else match d.lanes[n].won.find? fun w => w.1 == cyl && w.2.1 == sect with
          | some w => d.handOver from_ cyl sect n.ix w.2.2
          | none =>
            if (d.peerAlign n x).isNone || d.get LANE_CTRL.MODE n == 1 then (d.refuseMember from_ cyl sect n.ix).serve n.grp 64
            else if d.lanes[n].asks.contains (from_, cyl, sect) || d.lanes[n].dec == some (.peer from_ cyl sect) then d
            else (d.onLane n fun l => { l with asks := l.asks ++ [(from_, cyl, sect)] }).serve n.grp 64

/-! ### Register writes -/

/-- A write of LANE_CTRL (R70, R117 to R119, R122). CAL_SECTORS of 0 acts as 1 (DESIGN CHOICE, log entry 130). -/
def Dev.laneCtrlWrite (d : Dev) (who : Who) (n : LaneId) (v : Word) : Dev :=
  let mode := d.get LANE_CTRL.MODE n
  let was := d.calibrating n
  let d := d.plainWrite who LANE_CTRL n 0 v
  let d := d.when (mode != 1 && d.get LANE_CTRL.MODE n == 1) (·.onLane n fun l => { l with capMask := 0 })
  let d := d.when (v.getLsbD 9) (·.onLane n fun l => { l with adapt := true })
  let d := d.when (!was && d.calibrating n) (·.onLane n fun l =>
    { l with cal := atLeast1 (d.get LANE_CTRL.CAL_SECTORS n) })
  let d := if d.laneReads n then d else ((d.dropLane n).abortHead n.grp 0xA n.ix).serve n.grp 64
  d.refreshInh n.grp

/-- LANE_DISABLE (R117): EN, or both reader enables, cleared. -/
def execLaneDisable (who : Who) (n : LaneId) (v : Word) (s : State) : Out :=
  s.run fun d => d.tryWrite who (LANE_CTRL.at n) fun d =>
    let v := if bits v 1 2 = 0 then v else withField v 0 1 0
    d.laneCtrlWrite who n v

/-- CAL_GO (R119). -/
def execCalGo (who : Who) (n : LaneId) (v : Word) (s : State) : Out :=
  s.run fun d => d.tryWrite who (LANE_CTRL.at n) fun d => d.laneCtrlWrite who n (withField v 8 1 1)

/-- CALIBRATION_END (R119): the lane of head index `i` of a group has reached its sector count. -/
def execCalibrationEnd (g : Grp) (i : HeadIx) (s : State) : Out :=
  s.runGroup g fun d =>
    let n := laneOf g i
    if !d.calibrating n || d.lanes[n].cal != 0 then d
    else
      let d := match d.lanes[n].last with
        | some (z, _) => if d.lanes[n].dirty.contains z then d else d.putLoops n z d.lanes[n].work
        | none => d
      (d.set LANE_CTRL.CAL_GO 0 n).raise LANE_INT_STATUS.CAL_DONE n

/-- ADAPT_RESET (R122). -/
def execAdaptReset (who : Who) (n : LaneId) (v : Word) (s : State) : Out :=
  s.run fun d => d.tryWrite who (LANE_CTRL.at n) fun d => d.laneCtrlWrite who n (withField v 9 1 1)

/-- The limits of R81. -/
def preambleOk (v : Word) : Bool :=
  let len := bits v 8 8
  len % 4 == 0 && decide (8 ≤ len) && decide (len ≤ 32) &&
    decide (bits v 0 8 + len + bits v 16 8 ≤ 120)

/-- LANE_PREAMBLE_WRITE (R81). -/
def execLanePreambleWrite (who : Who) (n : LaneId) (v : Word) (s : State) : Out :=
  s.run fun d => d.tryWriteOr who (LANE_PREAMBLE.at n) fun d =>
    if preambleOk v then .ok (d.plainWrite who LANE_PREAMBLE n 0 v) else .error .range

/-- The slot that LANE_SBUF_SEL selects. -/
def Dev.selSlot (d : Dev) (n : LaneId) : Fin 3 :=
  match d.get LANE_SBUF_SEL.SLOT n with
  | 0 => 0 | 1 => 1 | _ => 2

/-- A slot with HOLD's pin; an empty one is kept out of the ring. -/
def holdOn (x : Option Slot) : Option Slot :=
  let y := x.getD { cyl := 0, sect := 0, empty := true }
  some { y with hold := true }

/-- HOLD pins the selected slot, or reads back 0 where two slots are pinned (R100, R121). -/
def Dev.holdSlot (d : Dev) (n : LaneId) : Dev :=
  if 2 ≤ d.lanes[n].pins then d.set LANE_SBUF_SEL.HOLD 0 n
  else
    let i := d.selSlot n
    (d.onLane n fun l => { l with slots := upd l.slots i holdOn }).showLane n

/-- A write of LANE_SBUF_SEL (R121). -/
def Dev.sbufWrite (d : Dev) (who : Who) (n : LaneId) (v : Word) : Dev :=
  let was := d.on LANE_SBUF_SEL.HOLD n
  let d := d.plainWrite who LANE_SBUF_SEL n 0 v (if was then 7 else 0)
  if d.on LANE_SBUF_SEL.HOLD n then
    if was then d
    else
      -- a fill that runs ends first (HOLD_PIN)
      let i := d.selSlot n
      let filling : Bool := ((d.lanes[n].slots[i]).map fun x => !x.filled d.now && !x.empty).getD false
      if 2 ≤ d.lanes[n].pins then d.set LANE_SBUF_SEL.HOLD 0 n
      else if filling then d else d.holdSlot n
  else if was then
    -- a slot that held no sector returns to the ring
    let free := fun (x : Option Slot) => x.bind fun x => if x.empty then none else some { x with hold := false }
    ((d.onLane n fun l => { l with slots := l.slots.map free }).repin n).showLane n
  else d

/-- SBUF_HOLD (R121): a write of LANE_SBUF_SEL. -/
def execSbufHold (who : Who) (n : LaneId) (v : Word) (s : State) : Out :=
  s.run fun d => d.tryWrite who (LANE_SBUF_SEL.at n) fun d => d.sbufWrite who n v

/-- HOLD_PIN (R121): the selected slot's fill ends. -/
def execHoldPin (n : LaneId) (s : State) : Out :=
  s.runGroup n.grp fun d =>
    let i := d.selSlot n
    if !d.on LANE_SBUF_SEL.HOLD n || ((d.lanes[n].slots[i].map Slot.hold).getD false) then d
    else (d.onSlot n i Slot.fillEnds).holdSlot n

/-- The element of a coefficient-set register that the window shows: element k of set s (R122). -/
def Dev.setIndex (d : Dev) (n : LaneId) (r : Reg) (k : Nat) : Nat := d.get LANE_SET_SEL.SET n * r.count + k

/-- A write to the coefficient-set window, offsets 0x100 to 0x19B (R122). -/
def Dev.setWrite (d : Dev) (who : Who) (n : LaneId) (h : Hit) (v : Word) : Dev :=
  let s := d.get LANE_SET_SEL.SET n
  (d.plainWrite who h.reg n h.idx v 0 (d.setIndex n h.reg h.idx)).onLane n fun l =>
    { l with dirty := s :: l.dirty
             sects := l.sects.map fun y => { y with dirty := y.dirty || d.zoneIx n.grp y.arm.cyl == s } }

/-- SET_WINDOW_WRITE (R122): an offset of the lane's register space. -/
def execSetWindowWrite (who : Who) (n : LaneId) (ofs : Nat) (v : Word) (s : State) : Out :=
  s.run fun d =>
    let a := LANE_CTRL.at n + (0x100 + ofs % 0x9C)
    d.tryWrite who a fun d =>
      match regAt a with
      | some h => d.setWrite who n h v
      | none => d

end Sys2Proof.Machine
end

