-- ==== Sys2Proof/Machine/FmtOps.lean ====
section
/-! DEFINITION. Operations of the formatter sequencers (chapter 05) that several commands share: the
control store, the microword's fields (R163), arms, the completion of a step (R166, R175), traps and
halts (R176 to R179). -/

namespace Sys2Proof.Machine

/-! ### The control store (R25, R159 to R162) -/

/-- The word at an address: the last one written since reset, else what the boot ROM loaded. -/
def ControlStore.word (c : ControlStore) (a : Nat) : MicroWord :=
  match c.words.find? fun p => p.1 == a with
  | some p => p.2
  | none => if c.loaded && decide (a < 0x3800) then Config.romWord a else 0

/-- List a word in rising order of address. -/
def putStoreWord : List (Nat × MicroWord) → Nat → MicroWord → List (Nat × MicroWord)
  | [], a, w => [(a, w)]
  | (a', w') :: t, a, w =>
    if a = a' then (a, w) :: t else if a < a' then (a, w) :: (a', w') :: t
    else (a', w') :: putStoreWord t a w

def Dev.onCs (d : Dev) (f : ControlStore → ControlStore) : Dev := { d with cs := f d.cs }

/-- Commit a word. -/
def Dev.putStore (d : Dev) (a : Nat) (w : MicroWord) : Dev :=
  d.onCs fun c => { c with words := putStoreWord c.words a w }

/-- The window is open for a word (R159): the customer region in LAST_LOAD, and in MAKER_SERVICE to a maker session (R560). -/
def Dev.storeOpen (d : Dev) (a : Nat) : Bool :=
  if a < 0x3800 then d.inMode [.romBoot, .lastLoad] else d.mode == .lastLoad || (d.mode == .makerService && d.makerOpen)

/-- Part k of a word, bits 32k + 31 to 32k. -/
def partOf (w : MicroWord) (k : Nat) : Word := w.extractLsb' (32 * k) 32

/-- A word from its four parts, lowest first. -/
def ofParts (p0 p1 p2 p3 : Word) : MicroWord := p3 ++ (p2 ++ (p1 ++ p0))

/-- A lower part joins its initiator's staging, which holds parts of one word (R160). -/
def CsStage.add (s : Option CsStage) (word : Nat) (part : Fin 3) (v : Word) : CsStage :=
  match s with
  | some s => if s.word = word then { s with parts := s.parts.filter (fun p => p.1 != part) ++ [(part, v)] }
              else ⟨word, [(part, v)]⟩
  | none => ⟨word, [(part, v)]⟩

/-- The committed word: the parts staged for it, the stored value for every other lower part (R160). -/
def Dev.commitWord (d : Dev) (who : Who) (word : Nat) (v : Word) : MicroWord :=
  let old := d.cs.word word
  let part := fun (k : Fin 3) => match d.cs.stages[whoIx who] with
    | some s => if s.word = word then ((s.parts.find? fun p => p.1 == k).map Prod.snd).getD (partOf old k)
                else partOf old k
    | none => partOf old k
  ofParts (part 0) (part 1) (part 2) v

/-- A write of part k of a word in the window (R159, R160). -/
def Dev.storeWrite (d : Dev) (who : Who) (word k : Nat) (v : Word) : Write :=
  if !d.storeOpen word then .error .locked
  else if k < 3 then
    let part : Fin 3 := if k = 0 then 0 else if k = 1 then 1 else 2
    let put := fun (s : Option CsStage) => some (CsStage.add s word part v)
    .ok (d.onCs fun c => { c with stages := upd c.stages (whoIx who) put })
  else
    .ok ((d.putStore word (d.commitWord who word v)).onCs fun c =>
      { c with stages := c.stages.set (whoIx who) none })

/-! ### The microword (R163) -/

/-- A field of a microword. -/
def mw (w : MicroWord) (lo width : Nat) : Nat := (w.extractLsb' lo width).toNat

def mwLanes (w : MicroWord) : Nat := mw w 0 8
def mwMask (w : MicroWord) : Nat := mw w 8 2
def mwRg (w : MicroWord) : Bool := w.getLsbD 10
def mwWg (w : MicroWord) : Bool := w.getLsbD 11
def mwSync (w : MicroWord) : Bool := w.getLsbD 12
def mwEcc (w : MicroWord) : Bool := w.getLsbD 13
def mwTag (w : MicroWord) : Nat := mw w 14 2
def mwCap (w : MicroWord) : Bool := w.getLsbD 16
def mwSrvGate (w : MicroWord) : Bool := w.getLsbD 17
def mwData (w : MicroWord) : Nat := mw w 18 2
def mwHalt (w : MicroWord) : Bool := w.getLsbD 20
def mwIrq (w : MicroWord) : Nat := mw w 21 3
def mwEvt (w : MicroWord) : Nat := mw w 24 4
def mwCntSel (w : MicroWord) : Nat := mw w 28 2
def mwCntOp (w : MicroWord) : Nat := mw w 30 2
def mwImm (w : MicroWord) : Nat := mw w 32 16
def mwArg (w : MicroWord) : Nat := mw w 48 16
def mwWait (w : MicroWord) : Nat := mw w 64 3
def mwCond (w : MicroWord) : Nat := mw w 67 5
def mwInv (w : MicroWord) : Bool := w.getLsbD 72
def mwSeq (w : MicroWord) : Nat := mw w 73 2
def mwNext (w : MicroWord) : Nat := mw w 75 14
def mwSp (w : MicroWord) : Nat := mw w 89 2

/-- The word is illegal (R165). -/
def mwIllegal (w : MicroWord) (maker : Bool) : Bool :=
  mw w 91 37 != 0 || mwCntSel w == 3 || (decide (1 ≤ mwIrq w) && decide (mwIrq w ≤ 3)) ||
  mwData w == 3 || mwTag w == 3 || decide (19 ≤ mwCond w) || decide (7 ≤ mwEvt w) ||
  (mwRg w && mwWg w) || ((mwSync w || mwEcc w) && !mwRg w) || (mwTag w != 0 && !mwEcc w) ||
  (mwData w != 0 && !mwWg w) || ((mwData w == 2 || mwSrvGate w) && !maker) ||
  (mwSrvGate w && (!mwCap w || mwRg w || mwWg w)) || (mwEvt w == 3 && mwCntOp w != 0)

/-- A word of the customer region breaks R191. -/
def mwCustRule (w : MicroWord) : Bool := mwWg w || mwEvt w != 0 || mwHalt w || mwSeq w == 3

/-- The word arms slots. -/
def mwArms (w : MicroWord) : Bool := mwRg w || mwWg w || mwCap w

/-! ### State of a sequencer -/

abbrev fsOff : Nat := 0
abbrev fsHalted : Nat := 1
abbrev fsRun : Nat := 2
abbrev fsWait : Nat := 3
abbrev fsTrapped : Nat := 4

def Dev.fmtState (d : Dev) (g : Grp) : Nat := d.get FMT_STATUS.STATE g
def Dev.fmtPc (d : Dev) (g : Grp) : Nat := d.get FMT_STATUS.PC g

/-- Show the stack depth. -/
def Dev.showStack (d : Dev) (g : Grp) : Dev := d.set FMT_STATUS.STACK d.fmt[g].stack.length g

/-- The cylinder of the slots armed now: the current request's, else the servo's target. -/
def Dev.fmtCyl (d : Dev) (g : Grp) : Nat :=
  match d.fmt[g].cur with
  | some r => r.cyl
  | none => d.srv[g].target

/-- The effective lane mask (R164). -/
def Dev.fmtMask (d : Dev) (g : Grp) (w : MicroWord) : Nat :=
  let m := mwLanes w
  let rq := d.fmt[g].cur
  let s := match mwMask w with
    | 1 => m &&& (rq.map Request.rmask).getD 0
    | 2 => m &&& (rq.map Request.wmask).getD 0
    | 3 => m &&& (rq.map Request.cmask).getD 0
    | _ => m
  s &&& d.get FMT_LANES.PRESENT g

/-- The group is on track at a cylinder (R180). -/
def Dev.onCyl (d : Dev) (g : Grp) (cyl : Nat) : Bool := d.srvState g == stTrack && d.srv[g].target == cyl

/-- Branch conditions (chapter 05). -/
def Dev.fmtCond (d : Dev) (g : Grp) (c : Nat) : Bool :=
  let f := d.fmt[g]
  match c with
  | 1 => true
  | 2 => d.get FMT_CNT01.C0 g == 0
  | 3 => d.get FMT_CNT01.C1 g == 0
  | 4 => d.get FMT_CNT2.C2 g == 0
  | 5 => f.spWrap
  | 6 => d.get FMT_CNT2.SP g + 1 == d.sptAt g (d.fmtCyl g)
  | 7 => f.verdictFail
  | 8 => f.tagFail
  | 9 => f.slotMissed
  | 10 => f.wrFail
  | 11 => match f.cur with | some r => d.onCyl g r.cyl | none => false
  | 12 => d.srv[g].trackLost
  | 13 => f.next.isSome
  | 14 => (headsOf (d.get FMT_LANES.PRESENT g)).any fun i => !d.laneAlive (laneOf g i)
  | 15 => d.get WLS_STATUS.STATE g == 2
  | 16 => d.on FMT_CFG.SW_FLAG g
  | 17 => d.pwrfail
  | 18 => d.mode == .makerService
  | _ => false

/-! ### Tokens (R154 to R158, R171) -/

/-- A request asks for more tokens than the limits allow at all (R158). -/
def Dev.tokensRefused (d : Dev) (g : Grp) (mask : Nat) : Bool :=
  decide (d.get WLS_WRITE_CFG.WL_GRP g < popcount8 mask) || decide (d.wlDev < popcount8 mask)

/-- A head keeps the token of the write slot that is armed directly before a new one on the same track (R171). `l` are the
lane's arms before the new one. -/
def keepsToken (held : Nat) (i : HeadIx) (l : List Arm) (cyl sect : Nat) : Bool :=
  bit held i && match l.getLast? with
    | some b => b.wg && b.cyl == cyl && b.sect + 1 == sect
    | none => false

/-- A group's request for the tokens of a slot reaches the arbiter (R155); heads that keep a token ask for none, and where no
head asks the slot is granted at once (R171). The request of a slot is made once. -/
def Dev.askTokens (d : Dev) (r : TokReq) : Dev :=
  if r.mask = 0 ∨ (d.tok.waiting ++ d.tok.arriving).contains r then d.showWait r.grp
  else ((d.onTok fun t => { t with arriving := t.arriving ++ [r] })).showWait r.grp

/-- The request for a mask at the present sector slot. -/
def Dev.tokenReq (d : Dev) (g : Grp) (mask : Nat) : TokReq := ⟨g, mask, d.fmtCyl g, d.get FMT_CNT2.SP g⟩

/-! ### The gate and the cells of a write (R58, R139, R140, R142, R143) -/

/-- Edges of a run of cells, in 1/256 cell (R142, R143): `prev` is the level of the cell before, `gap` the cells since the
transition before, none before the first. Every transition at cell k is moved earlier by L/64 cell and later by FINE. -/
def edgesOf (l0 l1 l2 l3 fine : Nat) (prev : Bool) : Option Nat → Int → List Bool → List Int
  | _, _, [] => []
  | gap, k, b :: t =>
    if b == prev then edgesOf l0 l1 l2 l3 fine b (gap.map (· + 1)) (k + 1) t
    else
      let l := match gap with | some 1 => l1 | some 2 => l2 | some 3 => l3 | _ => l0
      (256 * k + fine - 4 * min 31 l) :: edgesOf l0 l1 l2 l3 fine b (some 1) (k + 1) t

/-- The edges of a head's run of cells from cell k on, by its WLS_PRECOMP entry and the fine part of its offset. A run that
follows the splice with the gate up has its last transition two cells before. -/
def Dev.edges (d : Dev) (g : Grp) (i : HeadIx) (goesOn : Bool) (k : Int) (bits : List Bool) : List Int :=
  let e := 64 * i.val + d.wls[g].zone
  edgesOf (d.get WLS_PRECOMP.L0 g e) (d.get WLS_PRECOMP.L1 g e) (d.get WLS_PRECOMP.L2 g e) (d.get WLS_PRECOMP.L3 g e)
    (d.get WLS_LANE_OFS.FINE g i) (if goesOn then true else bits.headD false) (if goesOn then some 2 else none) k bits

/-- The runs of the gate for cells `bits` of a sector from cell `from_` on, split at `splits` (R58, R139, R140): before each
split the gate falls, and it rises WG_LEAD cells before the resume field of the next interval, 2T filling lead and field.
`up`: the gate is up already; `skip`: cells between two data streams; `lead`, `cells`: WG_LEAD and the offset's CELLS. -/
def burstsOf (edges : Bool → Int → List Bool → List Int) (lead skip : Nat) (cells : Int) (lastFalls : Bool) :
    Bool → Bool → Nat → Nat → List Bool → List Nat → List Burst
  | up, inside, at_, from_, bits, splits =>
    let gap := if inside then 64 else 0
    -- the run's first cell: the first data cell, before it the resume field and the lead
    let pre := if up then 0 else lead + gap
    let start : Int := at_ - pre + cells
    let fill := (List.range pre).map fun j => twoT (j + (4 - lead % 4) % 4)
    match splits with
    | [] =>
      let run := fill ++ bits
      [⟨if up then none else some start, run, lastFalls, edges up start run⟩]
    | s :: t =>
      let n := s - from_
      let run := fill ++ bits.take n
      ⟨if up then none else some start, run, true, edges up start run⟩ ::
        burstsOf edges lead skip cells lastFalls false true (at_ + n + skip) s (bits.drop n) t

/-- The runs of the gate in a sector's write: after the last pad cell WG_TAIL cells of 2T, cut at the end of the data stream,
or, where the next sector is written too, the 64 cells of the splice. A sector that begins an interval with the gate up rises
before its resume field as R140 says. -/
def Dev.bursts (d : Dev) (n : LaneId) (cyl sect : Nat) (up stays : Bool) (sector : List Bool) : List Burst :=
  let g := n.grp
  let dc := d.dataCells g (d.zoneIx g cyl)
  let tail := d.get WLS_WRITE_CFG.WG_TAIL g
  let after := splitsUpTo 37104 dc sect |>.filter fun s => decide (37040 ≤ s)
  let len := if stays then 64 else (after.map fun s => s - 37040).foldl min tail
  let splits := d.splits g cyl sect ++ if stays then after else []
  let bits := sector ++ (List.range len).map twoT
  let begins := fun (k : Nat) => dc != 0 && k * 37104 % dc == 0
  burstsOf (d.edges g n.ix) (d.get WLS_WRITE_CFG.WG_LEAD g) (64 + (d.zone g (d.zoneIx g cyl)).srvCells)
    (sext 12 (d.get WLS_LANE_OFS.CELLS g n.ix)) (!stays || begins (sect + 1)) (up && !begins sect) (up && begins sect)
    0 0 bits splits

/-- The cells of a sector that a head writes (R63 to R66): the sector of its field, or a raw pattern, whose field is its 4
bytes. -/
def writtenCells (n : LaneId) (cyl sect : Nat) (f : List Byte × BitVec 128) : List Bool :=
  if f.1.length = 4 then patternBits (BitVec.ofNat 32 (f.1.foldl (fun x b => 256 * x + b.toNat) 0))
  else sectorBits cyl sect n f.1 f.2

/-- The sector that a lane wrote last, where the gate stayed up after it for a sector that is not written after all: it ends
with its tail, and the gate falls (R139). -/
def Dev.endBurst (d : Dev) (n : LaneId) : Dev :=
  let last := (d.out.zipIdx.filter fun p => p.1.lane == n).getLast?
  match last with
  | some (w, k) =>
    { d with out := d.out.set k { w with
        bursts := d.bursts n w.cyl w.sect w.up false (writtenCells n w.cyl w.sect (w.payload, w.tag)) } }
  | none => d

/-- A head's gate that is up falls at the end of its last sector (R139). -/
def Dev.gateDown (d : Dev) (n : LaneId) : Dev :=
  if bit d.wls[n.grp].gates n.ix then (d.endBurst n).gatesFall n.grp (1 <<< n.ix.val) else d

/-! ### Dropping arms (R173, R176) -/

/-- The arms of a lane that have not begun are dropped, with SLOT_MISSED (R170, R173): the tokens of dropped write slots come
back, requests for them are withdrawn, and their heads' heaters return to the read value (R147, R155, R157). -/
def Dev.missArms (d : Dev) (g : Grp) : Dev :=
  let d := d.each (List.finRange 8) fun i d =>
    let n := laneOf g i
    let wrote := d.writeArmed g i
    let d := d.each d.arms[n] fun a d => d.dropArm n a
    d.when wrote fun d => ((d.gateDown n).clearTokens g (1 <<< i.val)).orderHeater g i 4
  d.withdrawTokens g

/-- The sequencer's arms are dropped at a trap: gates fall at sector end, tokens come back, heaters go back
to the read value, and no verdict is awaited (R147, R157, R176). DESIGN CHOICE (log entry 130): arms dropped so set neither
the SLOT_MISSED condition nor its status bit. -/
def Dev.clearArms (d : Dev) (g : Grp) : Dev :=
  let d := d.each (List.finRange 8) fun i d =>
    let n := laneOf g i
    let wrote := d.writeArmed g i
    let lost := (d.arms[n].filter Arm.ecc).length
    let d := ((d.onArms n fun _ => []).onFmt g fun f => { f with verdicts := f.verdicts - lost }).gateDown n
    d.when wrote (·.orderHeater g i 4)
  (d.dropTokens g).withdrawTokens g

/-! ### Ends (R176 to R179, R182) -/

/-- An event to the scheduler; an end event only while the current request has not ended (R182). -/
def Dev.fmtEvent (d : Dev) (g : Grp) (e : FmtEvt) : Dev :=
  let ends := match e with | .reqDone | .reqFailed _ => true | _ => false
  if ends && (d.fmt[g].ended || d.fmt[g].cur.isNone) then d
  else d.onFmt g fun f => { f with evts := f.evts ++ [e], ended := f.ended || ends }

/-- The sequencer traps at the current word (R176). -/
def Dev.fmtTrap (d : Dev) (g : Grp) (cause : Nat) : Dev :=
  let pc := d.fmtPc g
  let d := (d.clearArms g).fmtEvent g (.reqFailed 1)
  let d := ((d.set FMT_TRAP.CAUSE cause g).set FMT_TRAP.PC pc g).stamp FMT_TRAP.VALID FMT_TRAP.SEQ g
  let d := (d.set FMT_STATUS.STATE fsTrapped g).onFmt g fun f =>
    { f with waiting := none, halting := false, single := false, ship := none }
  (d.raise FMT_INT_STATUS.TRAP g).event 0x03 31 [g, cause, pc]

/-- The sequencer halts (R177). -/
def Dev.fmtHalt (d : Dev) (g : Grp) : Dev :=
  ((d.set FMT_STATUS.STATE fsHalted g).onFmt g fun f =>
    { f with waiting := none, halting := false, single := false }).raise FMT_INT_STATUS.HALTED g

/-- The sequencer is disabled (R179). DESIGN CHOICE (log entry 130): a disable sets no FMT_INT_STATUS.TRAP and makes no
almanac record. -/
def Dev.fmtOff (d : Dev) (g : Grp) : Dev :=
  let d := (d.clearArms g).fmtEvent g (.reqFailed 3)
  (d.set FMT_STATUS.STATE fsOff g).onFmt g fun f =>
    { f with waiting := none, halting := false, single := false, ship := none }

/-! ### The completion of a step (R166, R175, R189, R190) -/

/-- Where a step leads: a trap, or the next word's address with the stack, and the effect on requests and
hooks. -/
inductive Lead where
  | trap (cause : Nat)
  | go (pc : Nat)
  | call (pc : Nat) (hook : Bool)
  | ret (pc : Nat)
  | dispatch (pc : Nat)
  deriving DecidableEq, Repr

/-- The lead of a word at the present state (R175, R189, R190). DESIGN CHOICE (log entry 130): hooks are the words 0x3800 to 0x3803;
a call of 0x3808 saves and restores nothing. -/
def Dev.lead (d : Dev) (g : Grp) (w : MicroWord) : Lead :=
  let f := d.fmt[g]
  let pc := d.fmtPc g
  let cust := decide (0x3800 ≤ pc)
  let taken := d.fmtCond g (mwCond w) != mwInv w
  let next := (pc + 1) % 0x4000
  let stay := fun (a : Nat) (l : Lead) => if cust && decide (a < 0x3800) then Lead.trap 2 else l
  let fall := stay next (.go next)
  if !taken then fall
  else match mwSeq w with
    | 0 => stay (mwNext w) (.go (mwNext w))
    | 1 =>
      let t := mwNext w
      let hook := !cust && decide (0x3800 ≤ t) && decide (t ≤ 0x3803)
      if hook && !bit (d.get FMT_HOOK_CFG.EN g) (t - 0x3800) then fall
      else if 4 ≤ f.stack.length then .trap 4
      else stay t (.call t hook)
    | 2 =>
      match f.stack with
      | [] => .trap 4
      | a :: _ => .ret a
    | _ =>
      if cust then .trap 2
      else match f.next with
        | none => .trap 4
        | some r => .dispatch ((mwNext w + r.kind) % 0x4000)

/-- Show the current request in FMT_RQ0 to FMT_RQ2. DESIGN CHOICE (log entry 130): VALID stays set after the request has ended,
until the next dispatch. -/
def Dev.showRequest (d : Dev) (g : Grp) : Dev :=
  match d.fmt[g].cur with
  | none => d.set FMT_RQ0.VALID 0 g
  | some r =>
    let d := ((d.set FMT_RQ0.VALID 1 g).set FMT_RQ0.KIND r.kind g).set FMT_RQ0.CYL r.cyl g
    let d := ((d.set FMT_RQ1.COUNT r.count g).set FMT_RQ1.REVS r.revs g).set FMT_RQ1.SECT r.sect g
    ((d.set FMT_RQ2.CMASK r.cmask g).set FMT_RQ2.WMASK r.wmask g).set FMT_RQ2.RMASK r.rmask g

/-- DISPATCH (R175): the next request becomes current. -/
def Dev.dispatch (d : Dev) (g : Grp) : Dev :=
  let d := d.onFmt g fun f =>
    { f with cur := f.next, next := none, ended := f.next.isNone, slotMissed := false, wrFail := false
             deferred := false, aborted := false }
  (d.onSrv g fun s => { s with trackLost := false }).showRequest g

/-- Follow a lead that is no trap. -/
def Dev.follow (d : Dev) (g : Grp) (l : Lead) : Dev :=
  match l with
  | .trap _ => d
  | .go a => d.set FMT_STATUS.PC a g
  | .dispatch a => (d.dispatch g).set FMT_STATUS.PC a g
  | .call a hook =>
    let back := (d.fmtPc g + 1) % 0x4000
    let saved := (d.get FMT_CNT01.C0 g, d.get FMT_CNT01.C1 g, d.get FMT_CNT2.C2 g, d.get FMT_CNT2.SP g,
      d.fmt[g].stack.length)
    let d := d.onFmt g fun f =>
      { f with stack := back :: f.stack, hook := if hook then some saved else f.hook }
    (d.set FMT_STATUS.PC a g).showStack g
  | .ret a =>
    let d := d.onFmt g fun f => { f with stack := f.stack.drop 1 }
    let d := match d.fmt[g].hook with
      | some (c0, c1, c2, sp, n) =>
        if n = d.fmt[g].stack.length then
          ((((d.set FMT_CNT01.C0 c0 g).set FMT_CNT01.C1 c1 g).set FMT_CNT2.C2 c2 g).set FMT_CNT2.SP sp g).onFmt
            g fun f => { f with hook := none }
        else d
      | none => d
    (d.set FMT_STATUS.PC a g).showStack g

/-- The event of an EVT_SCHED code. -/
def evtOf (w : MicroWord) : Option FmtEvt :=
  match mwEvt w with
  | 1 => some .slotDone | 2 => some .reqDone | 3 => some (.reqFailed (mwImm w % 256)) | 4 => some .needRev
  | 5 => some .release | 6 => some .abortReport | _ => none

/-- A word's events and user interrupt are emitted (R181). -/
def Dev.emit (d : Dev) (g : Grp) (w : MicroWord) : Dev :=
  let d := match evtOf w with | some e => d.fmtEvent g e | none => d
  if 4 ≤ mwIrq w then d.orBits FMT_INT_STATUS.UEVT (1 <<< (mwIrq w - 4)) g else d

/-- A VERDICT wait has ended: its conditions (chapter 05). -/
def Dev.latchVerdict (d : Dev) (g : Grp) : Dev :=
  d.onFmt g fun f => { f with verdictFail := f.newVerdictFail, tagFail := f.newTagFail,
                              newVerdictFail := false, newTagFail := false }

/-- Completion (R166 step 3): the lead is judged, and a trap suppresses the word's events (R176); `branch` is
false where a halt request ended the wait, which leaves the branch unjudged (R177): the PC then stays at the word that waited
(DESIGN CHOICE, log entry 130). -/
def Dev.complete (d : Dev) (g : Grp) (w : MicroWord) (branch : Bool) : Dev :=
  let d := d.when (mwWait w == 4) (·.latchVerdict g)
  let l := if branch then d.lead g w else .go (d.fmtPc g)
  match l with
  | .trap c => d.fmtTrap g c
  | l =>
    let d := (((d.emit g w).follow g l).set FMT_STATUS.STATE fsRun g).onFmt g fun f => { f with waiting := none }
    if mwHalt w || d.fmt[g].halting || d.fmt[g].single then d.fmtHalt g else d

/-! ### Waits -/

/-- Every slot armed has ended, those in progress at the lanes too, and every gate has fallen. -/
def Dev.armsDone (d : Dev) (g : Grp) : Bool :=
  d.wls[g].gates == 0 && (List.finRange 8).all fun i =>
    d.arms[laneOf g i].isEmpty && decide (d.lanes[laneOf g i].busyTill ≤ d.now)

/-- A wait on a state is over; waits on cells and wedges end by the passage of time, which the command
WAIT_END reports (chapter 05, Waits; R173). -/
def Dev.waitOver (d : Dev) (g : Grp) (mode : Nat) : Bool :=
  let lost := d.get WLS_STATUS.STATE g == 4
  match mode with
  | 3 => d.armsDone g || lost
  | 4 => d.fmt[g].verdicts == 0 || lost
  | 6 => !d.fmt[g].tokensWait
  | 7 => d.fmt[g].next.isSome
  | _ => true

/-- The wait is judged at issue: NONE, and the waits on a state that already holds. -/
def Dev.waitsNot (d : Dev) (g : Grp) (w : MicroWord) : Bool :=
  match mwWait w with
  | 0 => true
  | 1 => mwArg w == 0
  | 2 => false
  | 5 => false
  | m => d.waitOver g m

/-! ### Issue (R163, R166, R169 to R171) -/

/-- One lane's arm of a step (R166 phase 1). -/
def Dev.newArm (d : Dev) (g : Grp) (w : MicroWord) : Arm :=
  let rq := d.fmt[g].cur
  { cyl := d.fmtCyl g, sect := d.get FMT_CNT2.SP g, rg := mwRg w, wg := mwWg w, sync := mwSync w
    ecc := mwEcc w, cap := mwCap w, srvGate := mwSrvGate w, tagMode := mwTag w, dataSel := mwData w
    metaMark := (rq.map Request.metaMark).getD false, flush := (rq.map fun r => r.kind == 4).getD false }

/-- Some lane of the mask already has two armed slots (R169). -/
def Dev.armStall (d : Dev) (g : Grp) (mask : Nat) : Bool :=
  (headsOf mask).any fun i => decide (2 ≤ d.arms[laneOf g i].length)

/-- Slots are armed on the mask's lanes; write arms order their heaters and ask for their tokens (R147, R155,
R166, R171). -/
def Dev.armAll (d : Dev) (g : Grp) (w : MicroWord) (mask : Nat) : Dev :=
  if !mwArms w then d
  else
    let a := d.newArm g w
    let keep := (headsOf mask).filter fun i => keepsToken d.tok.held[g] i d.arms[laneOf g i] a.cyl a.sect
    let need := without8 mask (maskOf ((List.finRange 8).map fun i => keep.contains i))
    let d := d.each (headsOf mask) fun i d => d.onArms (laneOf g i) fun l => l ++ [a]
    let d := if mwEcc w then d.onFmt g fun f => { f with verdicts := f.verdicts + (headsOf mask).length } else d
    if mwWg w then (d.each (headsOf mask) fun i d => d.setHeater g i true 2).askTokens ⟨g, need, a.cyl, a.sect⟩ else d

/-- The counter of CNT_SEL. -/
def cntFld (sel : Nat) : Fld := if sel = 0 then FMT_CNT01.C0 else if sel = 1 then FMT_CNT01.C1 else FMT_CNT2.C2

/-- CNT_OP (R163). -/
def Dev.cntOp (d : Dev) (g : Grp) (w : MicroWord) : Dev :=
  let f := cntFld (mwCntSel w)
  match mwCntOp w with
  | 1 => d.set f (mwImm w) g
  | 2 => d.set f (d.get f g - 1) g
  | 3 =>
    match d.fmt[g].cur with
    | some r => d.set f (if mwCntSel w = 0 then r.count else if mwCntSel w = 1 then r.revs else r.sect) g
    | none => d.set f 0 g
  | _ => d

/-- SP_OP (R163): SP + 1 modulo SPT, RQ_SECT, or C2; SPT is that of the cylinder worked on. `c2` is C2 before the step's counter operation has
any bearing on it: both take effect at the end of the issue cycle (R166). -/
def Dev.spOp (d : Dev) (g : Grp) (w : MicroWord) (c2 : Nat) : Dev :=
  match mwSp w with
  | 1 =>
    let spt := d.sptAt g (d.fmtCyl g)
    let sp := d.get FMT_CNT2.SP g + 1
    -- (SP + 1) mod SPT; a cylinder without sectors wraps to 0
    (d.set FMT_CNT2.SP (if spt = 0 then 0 else sp % spt) g).onFmt g fun f => { f with spWrap := spt == 0 || sp % spt == 0 }
  | 2 => d.set FMT_CNT2.SP (((d.fmt[g].cur).map Request.sect).getD 0) g
  | 3 => d.set FMT_CNT2.SP c2 g
  | _ => d

/-- The wait phase of a step (R166 phase 2): the completion follows at once where the wait has no duration. A
halt request made before ends a wait without its branch (R177). -/
def Dev.beginWait (d : Dev) (g : Grp) (w : MicroWord) : Dev :=
  if d.waitsNot g w then d.complete g w true
  else if d.fmt[g].halting then d.complete g w false
  else (d.set FMT_STATUS.STATE fsWait g).onFmt g fun f => { f with waiting := some w }

/-- A read or capture arm that reaches its lane later than 96 cells before its slot is dropped (R170). -/
def Dev.missLate (d : Dev) (g : Grp) (w : MicroWord) (mask : Nat) : Dev :=
  if mwWg w || !mwArms w then d
  else d.each (headsOf mask) fun i d =>
    match d.arms[laneOf g i].getLast? with
    | some a => d.dropArm (laneOf g i) a
    | none => d

/-- Issue and what follows it, for a word that is legal here (R166, R169, R171). -/
def Dev.issue (d : Dev) (g : Grp) (w : MicroWord) (late : Bool) : Dev :=
  let mask := d.fmtMask g w
  if mwWg w && d.tokensRefused g mask then d.fmtTrap g 8
  else
    let c2 := d.get FMT_CNT2.C2 g
    let d := (d.armAll g w mask).when late (·.missLate g w mask)
    ((d.cntOp g w).spOp g w c2).beginWait g w

/-! ### FMT_CTRL -/

/-- The sequencer starts at an address (R178). -/
def Dev.fmtStartAt (d : Dev) (g : Grp) (a : Nat) : Dev :=
  let d := d.onFmt g fun f =>
    { f with stack := [], hook := none, waiting := none, halting := false, single := false
             slotMissed := false, wrFail := false, ship := none, deferred := false, aborted := false }
  ((((d.set FMT_TRAP.VALID 0 g).set FMT_STATUS.PC a g).set FMT_STATUS.STATE fsRun g).showStack g)

/-- EN of a write (R178, R179). -/
def Dev.fmtEnWrite (d : Dev) (g : Grp) (old new : Bool) : Dev :=
  if new && !old then d.set FMT_STATUS.STATE fsHalted g
  else if old && !new then d.fmtOff g
  else d

/-- START of a write (R178, R632). -/
def Dev.fmtStartWrite (d : Dev) (who : Who) (g : Grp) : Dev :=
  let a := d.get FMT_CTRL.START_ADDR g
  let st := d.fmtState g
  if !d.on FMT_CTRL.EN g || st == fsRun || st == fsWait || (a != 0x10 && d.mode != .makerService) then
    d.refuse who FMT_CTRL g 0 .locked
  else d.fmtStartAt g a

/-- HALT_REQ of a write (R177); with the island's clock off the wait ends once the sequencer runs again (R629). -/
def Dev.fmtHaltWrite (d : Dev) (g : Grp) : Dev :=
  let d := d.onFmt g fun f => { f with halting := d.fmtState g == fsRun || d.fmtState g == fsWait }
  match d.fmt[g].waiting with
  | some w => if d.fmtState g == fsWait && d.groupRuns g then d.complete g w false else d
  | none => d

/-- STEP of a write: one step from HALTED. -/
def Dev.fmtStepWrite (d : Dev) (who : Who) (g : Grp) : Dev :=
  if d.mode != .makerService then d.refuse who FMT_CTRL g 0 .locked
  else if d.fmtState g == fsHalted then
    (d.set FMT_STATUS.STATE fsRun g).onFmt g fun f => { f with single := true }
  else d

/-- A write of FMT_CTRL: EN first, then START, HALT_REQ and STEP, which hardware clears (R177 to R179). -/
def Dev.fmtCtrlWrite (d : Dev) (who : Who) (g : Grp) (v : Word) : Dev :=
  let old := d.on FMT_CTRL.EN g
  let d := (d.set FMT_CTRL.START_ADDR (bits v 16 14) g).set FMT_CTRL.EN (bits v 0 1) g
  let d := d.fmtEnWrite g old (v.getLsbD 0)
  let d := d.when (v.getLsbD 1) (·.fmtStartWrite who g)
  let d := d.when (v.getLsbD 2) (·.fmtHaltWrite g)
  d.when (v.getLsbD 3) (·.fmtStepWrite who g)

end Sys2Proof.Machine
end

