-- ==== Sys2Proof/Machine/Memory.lean ====
section
/-! DEFINITION. Buffer memory, cache, keystone words and scrubber (chapter 14). A request that must wait
for a miss register or for a fill is served after that fill, which is completed first (R471). -/

namespace Sys2Proof.Machine

/-! ### ECC records and pseudo-channel fences (R464, R466) -/

/-- An ECC record: class 0 CE, 1 MIRROR_REPAIR, 2 UC poisoned, 3 FA. -/
def Dev.eccRecord (d : Dev) (cls a : Nat) : Dev :=
  let q := bufPc (a / 65536)
  let d := ((((d.set MEM_ECC_INFO0.CLASS cls).set MEM_ECC_INFO0.PC (q % 32)).set
    MEM_ECC_INFO0.STACK (q / 32)).set MEM_ECC_INFO0.ADDR_HI (a / 2 ^ 32)).set
    MEM_ECC_INFO1.ADDR (a / 32 % 2 ^ 27)
  let d := d.stamp MEM_ECC_INFO0.VALID MEM_ECC_INFO0.SEQ
  let d := if cls ≤ 1 then d.raise MEM_INT_STATUS.CE else d.raise MEM_INT_STATUS.UC
  d.report ⟨256 + q, if cls ≤ 1 then 0 else cls - 1, 3, q, a, 0⟩

/-- Count an error of a pseudo-channel in the lap, and fence it at its limit (R466). -/
def Dev.eccCount (d : Dev) (uc : Bool) (q : Nat) : Dev :=
  if h : q < 64 then
    let i : Fin 64 := ⟨q, h⟩
    let d := d.onMem fun m =>
      if uc then { m with uc := upd m.uc i (· + 1) } else { m with ce := upd m.ce i (· + 1) }
    let lim := d.get MEM_ECC_CFG.CE_FENCE * 256
    let full := if uc then decide (atLeast1 (d.get MEM_ECC_CFG.UC_FENCE) ≤ d.mem.uc[i])
      else lim != 0 && decide (lim ≤ d.mem.ce[i])
    if full && !d.pcFenced q then (d.fencePc q).pcPairFatal q else d
  else d

/-- What a read of a granule of HBM finds: with the ECC outcome of the primary and of the mirror, the
device after corrections and records, the address that the data is taken from, and whether it is
poisoned (R464, R466). An injected error leaves the stored data as it is (R548). `moved`: a write arrived before the write-back. -/
def Dev.readGranule (d : Dev) (a : Nat) (e mirror : EccIn) (moved : Bool) : Dev × Nat × Bool :=
  let q := bufPc (a / 65536)
  let twin := d.mirrored (a / 65536)
  let other := mirrorAddr a
  let inj := (d.injecting (256 + q)).isSome
  let e := d.checkedAs (256 + q) e
  if d.pcFenced q then
    if twin && !d.pcFenced (bufPc (other / 65536)) && mirror != .uc then (d, other, false) else (d, a, true)
  else
    let e := if d.mem.poison.contains (a / 32) then .uc else e
    let mirror := if d.mem.poison.contains (other / 32) then .uc else mirror
    match e with
    | .ok => (d, a, false)
    | .ce => ((d.eccRecord 0 a).eccCount false q, a, false)
    | .uc =>
      if twin then
        if mirror == .uc || d.pcFenced (bufPc (other / 65536)) then ((d.eccRecord 3 a).eccCount true q, a, true)
        else
          -- the primary is rewritten from the mirror, unless a write came first
          let good := (List.range 32).map fun k => (a / 32 * 32 + k, Cells.read d.mem.hbm (other / 32 * 32 + k))
          let d := if moved || inj then d else d.onMem fun m =>
            { m with hbm := Cells.writeAll m.hbm good, poison := m.poison.filter fun p => p != a / 32 }
          ((d.eccRecord 1 a).eccCount true q, other, false)
      else
        let known := d.mem.poison.contains (a / 32)
        let d := (d.eccRecord 2 a).eccCount true q
        ((d.when (!known && !moved && !inj) (·.onMem fun m => { m with poison := m.poison ++ [a / 32] })), a, true)

/-! ### Misses, fills and maintenance (R471, R472, R475, R476) -/

def Dev.missOf (d : Dev) (n : Nat) : Option Miss := d.mem.misses.find? fun m => m.line == n

/-- A requester's misses allocate (R470): only while the cache is ENABLED. -/
def Dev.allocates (d : Dev) (r : Nat) : Bool := d.cacheState == 0 && d.on CCH_REQ_ATTR.ALLOC 0 r

/-- Apply the running maintenance operation to a line: CLEAN 0, INVALIDATE 1, CLEAN_INV 2. -/
def Dev.maintLine (d : Dev) (op n : Nat) : Dev :=
  match d.mem.lineOf n with
  | none => d
  | some l =>
    let wrote := op != 1 && !l.dirty.isEmpty
    let d := d.when (op != 1) (·.cleanLine n)
    let d := d.when (op != 0) (·.dropLine n)
    d.when wrote (·.onMem fun m => { m with maint := m.maint.map fun x => { x with written := x.written + 1 } })

/-- The operation goes on, line by line in ascending order, to the first line whose miss register is in
use (R476). -/
def Dev.maintRun (d : Dev) : Dev :=
  match d.mem.maint with
  | none => d
  | some x =>
    let last := x.first + x.count
    let stop := d.mem.misses.foldl (fun s m => if x.first ≤ m.line then min s m.line else s) last
    let lines := (d.mem.lines.map Line.line).filter fun n => decide (x.first ≤ n) && decide (n < stop)
    let d := d.each lines fun n d => d.maintLine x.op n
    d.onMem fun m => { m with maint := m.maint.map fun y => { y with first := stop, count := last - stop } }

/-- A miss fill completes: the line stands in the cache with the merged writes, or, while the cache
drains, the writes go on to HBM (R471, R475). -/
def Dev.fillLine (d : Dev) (n : Nat) : Dev :=
  match d.missOf n with
  | none => d
  | some m =>
    let d := d.onMem fun s => { s with misses := s.misses.filter fun x => x.line != n }
    let d := if d.cacheState = 0 then d.installLine n m.writes else d.hbmWrite m.writes
    d.showDirty.maintRun

/-- A new miss register for a line, once one is free, with the prefetch of the next line (R471,
R472). -/
def Dev.takeMiss (d : Dev) (r n : Nat) (writes : List (Nat × Byte)) : Dev :=
  let d := if 256 ≤ d.mem.misses.length then
      match d.mem.misses with
      | m :: _ => d.fillLine m.line
      | [] => d
    else d
  let d := d.onMem fun s => { s with misses := s.misses ++ [{ line := n, writes := writes }] }
  let next := n + 1
  let pre := d.on CCH_REQ_ATTR.PREFETCH 0 r && next / 512 == n / 512 && (d.mem.lineOf next).isNone &&
    (d.missOf next).isNone && decide (d.mem.misses.length + 32 ≤ 256)
  (d.when pre (·.onMem fun s =>
    { s with misses := s.misses ++ [{ line := next, prefetch := true }] })).showDirty

/-- A secondary request merges into a line's register, up to eight; a ninth waits for the fill. -/
def Dev.mergeMiss (d : Dev) (n : Nat) : Dev :=
  d.onMem fun s => { s with misses := s.misses.map fun m => if m.line = n then { m with merged := m.merged + 1 } else m }

/-! ### Reads and writes of requesters -/

/-- An access to an address of 48 GiB or more is refused with cause UNMAPPED (R460); the crossings record
the accesses of the two cores. -/
def Dev.unmappedBuf (d : Dev) (req a : Nat) (write : Bool) : Dev :=
  if req = 80 then d.capture .control a write .unmapped
  else if req = 81 then d.capture .management a write .unmapped
  else d

/-- A read of the granule at an address (R464 to R472); what it delivers stands in MemSt.answer. -/
def Dev.memRead (d : Dev) (req a : Nat) (e mirror : EccIn) : Dev :=
  if hbmBytes ≤ a then d.unmappedBuf req a false
  else
    let g := a / 32
    let n := a / 128
    let d := d.mergeOut g
    let d := match d.missOf n with
      | some m => if m.merged < 8 then d.mergeMiss n else d.fillLine n
      | none => d
    let inCache := (d.mem.lineOf n).isSome || (d.missOf n).isSome
    let (d, src, bad) := if inCache then (d, a, d.mem.poison.contains g) else d.readGranule a e mirror false
    let d := d.when (!inCache && d.allocates req) (·.takeMiss req n [])
    let bytes := if src = a then d.memBytes (g * 32) 32
      else (List.range 32).map fun k => Cells.read d.mem.hbm (src / 32 * 32 + k)
    d.onMem fun m => { m with answer := bytes, answerPoison := bad }

/-- The bytes of one line of a write below the merge buffer: into the line, where it is present, or its miss register,
which takes eight and is filled for the ninth; through where the pair is mirrored or the cache drains; a whole line
allocated without a fetch, else a miss; past the cache for a requester that does not allocate (R463, R469 to R471). -/
def Dev.writeLine (d : Dev) (req n : Nat) (l : List (Nat × Byte)) : Dev :=
  let gs := (l.map fun p => p.1 / 32).dedup
  let d := match d.missOf n with
    | some m => if m.merged < 8 then d.mergeMiss n else d.fillLine n
    | none => d
  if (d.mem.lineOf n).isSome || (d.missOf n).isSome || d.mirrored (n / 512) || !d.allocates req then
    d.each gs fun g d => d.writeBelow (l.filter fun p => p.1 / 32 == g)
  else
    let whole := gs.filter fun g => (l.filter fun p => p.1 / 32 == g).length == 32
    -- a narrow write to a poisoned granule is dropped (R465)
    let l := l.filter fun p => whole.contains (p.1 / 32) || !d.mem.poison.contains (p.1 / 32)
    let d := d.onMem fun m => { m with poison := m.poison.filter fun p => !whole.contains p }
    if l.length = 128 then d.installLine n l else if l.isEmpty then d else d.takeMiss req n l

/-- A write of consecutive bytes by a requester (R463, R467, R468). -/
def Dev.reqWrite (d : Dev) (req a : Nat) (bs : List Byte) : Dev :=
  if hbmBytes < a + bs.length then d.unmappedBuf req a true
  else
    let l := cellsAt a bs
    let ns := (l.map fun p => p.1 / 128).dedup
    d.each ns fun n d =>
      let line := l.filter fun p => p.1 / 128 == n
      let gs := (line.map fun p => p.1 / 32).dedup
      let narrow := gs.filter fun g => d.merging && (line.filter fun p => p.1 / 32 == g).length != 32
      let d := d.each (gs.filter fun g => !narrow.contains g) fun g d => d.mergeOut g
      let rest := line.filter fun p => !narrow.contains (p.1 / 32)
      let d := if rest.isEmpty then d else d.writeLine req n rest
      d.each narrow fun g d => d.mergeIn g (line.filter fun p => p.1 / 32 == g)

/-- MEMORY_READ (R462, R467) through the buffer fabric, island 5. -/
def execMemoryRead (req addr : Nat) (e mirror : EccIn) (s : State) : Out :=
  s.runIn 5 fun d => d.memRead req addr e mirror

/-- BUFFER_WRITE (R463, R467, R468). A peer's write into BAR4 is one of the host engine's, to the controller memory buffer at
the top of the buffer space (R417, R418). -/
def execBufferWrite (req addr : Nat) (data : List Byte) (s : State) : Out :=
  s.runIn 5 fun d =>
    let d := d.reqWrite req addr data
    if 65536 * (bufTotal - d.bpm.cmb) ≤ addr then d.onBpm fun b => { b with cmbKnown := b.cmbKnown ++ [(addr, data.length)] }
    else d

/-- The least recently used merge-buffer entry, idle for 256 island cycles, is written out (R468). -/
def execMergeWriteOut (s : State) : Out :=
  s.runIn 5 fun d => match d.mem.merge with
    | e :: _ => d.mergeOut e.granule
    | [] => d

def execCacheFill (line : Nat) (s : State) : Out := s.runIn 6 fun d => d.fillLine line

/-! ### Ways (R473, R474) -/

/-- A write of CCH_WAY_CTRL: set bits move ACTIVE ways to CLEANING, cleared bits bring ways back empty; a
bit of a way in SCRATCH is not set, that of a fenced way not cleared (R473, R541). -/
def Dev.wayWrite (d : Dev) (who : Who) (v : Word) : Dev :=
  let old := d.get CCH_WAY_CTRL.OFF
  let new := (v.extractLsb' 0 16).toNat
  let held := fun w => (!bit old w && bit new w && d.wayState w == 3) ||
    (bit old w && !bit new w && bit (d.get FLT_FENCED_MISC.WAY) w)
  let rise := (List.range 16).filter fun w => !bit old w && bit new w && !held w
  let fall := (List.range 16).filter fun w => bit old w && !bit new w && !held w
  let d := if (List.range 16).any held then d.refuse who CCH_WAY_CTRL 0 0 .locked else d
  let d := d.set CCH_WAY_CTRL.OFF (rise.foldl setBit (fall.foldl clearBit old))
  let d := d.each rise fun w d => d.setWay w 1
  d.each fall fun w d =>
    (d.cleanWay w).setWay w (if 16 ≤ w + d.get CCH_SCRATCH.COUNT then 1 else 0)

def execWayOff (who : Who) (v : Word) (s : State) : Out :=
  s.run fun d => d.busWrite who CCH_WAY_CTRL.at fun d => d.wayWrite who v

def execWayOn (who : Who) (v : Word) (s : State) : Out :=
  s.run fun d => d.busWrite who CCH_WAY_CTRL.at fun d => d.wayWrite who v

/-- A cleaning way reaches OFF, or SCRATCH where it is converted (R473, R474). -/
def execWayCleaned (w : Fin 16) (s : State) : Out :=
  s.runIn 6 fun d =>
    if d.wayState w != 1 then d
    else
      let st := if bit (d.get CCH_WAY_CTRL.OFF) w then 2 else if 16 ≤ w.val + d.get CCH_SCRATCH.COUNT then 3
        else 2
      ((d.cleanWay w).setWay w st).raise CCH_INT_STATUS.WAY_DONE

/-- A write of CCH_SCRATCH.COUNT (R474): ways that are OFF stay OFF. -/
def Dev.scratchWrite (d : Dev) (v : Word) : Write :=
  let n := (v.extractLsb' 0 4).toNat
  let old := d.get CCH_SCRATCH.COUNT
  if 8 < n then .error .range
  else .ok <|
    let d := d.set CCH_SCRATCH.COUNT n
    let up := (List.range 16).filter fun w => decide (16 - n ≤ w) && decide (w < 16 - old)
    let down := (List.range 16).filter fun w => decide (16 - old ≤ w) && decide (w < 16 - n)
    let d := d.each up fun w d => if d.wayState w = 0 then d.setWay w 1 else d
    d.each down fun w d =>
      let d := d.onMem fun m => { m with core := m.core.filter fun p =>
        !(decide (0x100_0000 ≤ p.1) && (p.1 - 0x100_0000) / 0x40_0000 == 15 - w) }
      if d.wayState w = 2 then d else (d.cleanWay w).setWay w 0

def execScratchCountWrite (who : Who) (v : Word) (s : State) : Out :=
  s.run fun d => d.busWriteOr who CCH_SCRATCH.at fun d => d.scratchWrite v

/-! ### Disabling (R475) -/

/-- A write of CCH_CTRL (R475). -/
def Dev.cacheCtrl (d : Dev) (v : Word) : Dev :=
  let en := v.getLsbD 0
  let st := d.cacheState
  let d := d.set CCH_CTRL.EN en.toNat
  if en then
    if st = 2 then ((d.onMem fun m => { m with lines := [] }).set CCH_STATUS.STATE 0).showDirty
    else d.set CCH_STATUS.STATE 0
  else if st = 0 then d.set CCH_STATUS.STATE 1
  else d

def execCacheDisable (who : Who) (v : Word) (s : State) : Out :=
  s.run fun d => d.busWrite who CCH_CTRL.at fun d => d.cacheCtrl (withField v 0 1 0)

def execCacheEnable (who : Who) (v : Word) (s : State) : Out :=
  s.run fun d => d.busWrite who CCH_CTRL.at fun d => d.cacheCtrl (withField v 0 1 1)

/-- The write-backs of DRAINING have ended and no miss register is in use (R475). -/
def execCacheDrained (s : State) : Out :=
  s.runIn 6 fun d =>
    if d.cacheState != 1 || !d.mem.misses.isEmpty then d
    else
      let d := d.each (d.mem.lines.map Line.line) fun n d => d.cleanLine n
      (((d.onMem fun m => { m with lines := [] }).set CCH_STATUS.STATE 2).showDirty).raise
        CCH_INT_STATUS.DRAINED

/-! ### Maintenance (R476) -/

/-- A write of CCH_MAINT_CMD: dropped with LOCKED while a command runs, with RANGE for the reserved
operation; with GO it starts, and the result is not valid until it ends (R37). -/
def Dev.maintWrite (d : Dev) (who : Who) (v : Word) : Write :=
  let op := (v.extractLsb' 26 2).toNat
  if d.on CCH_MAINT_CMD.GO then .error .locked
  else if op = 3 then .error .range
  else .ok <|
    let d := d.plainWrite who CCH_MAINT_CMD 0 0 v
    if !v.getLsbD 31 then d
    else
      let d := d.set CCH_MAINT_RESULT.VALID 0
      let a := (d.word CCH_MAINT_ADDR_LO).toNat + 2 ^ 32 * ((d.word CCH_MAINT_ADDR_HI).toNat % 256)
      (d.onMem fun m => { m with maint := some ⟨op, a / 128, atLeast1 (v.extractLsb' 0 20).toNat, 0⟩ }).maintRun

def execMaintClean (who : Who) (v : Word) (s : State) : Out :=
  s.run fun d => d.busWriteOr who CCH_MAINT_CMD.at fun d =>
    d.maintWrite who (withField (withField v 26 2 0) 31 1 1)

def execMaintInvalidate (who : Who) (v : Word) (s : State) : Out :=
  s.run fun d => d.busWriteOr who CCH_MAINT_CMD.at fun d =>
    d.maintWrite who (withField (withField v 26 2 1) 31 1 1)

def execMaintCleanInv (who : Who) (v : Word) (s : State) : Out :=
  s.run fun d => d.busWriteOr who CCH_MAINT_CMD.at fun d =>
    d.maintWrite who (withField (withField v 26 2 2) 31 1 1)

/-- The last line is done: CCH_MAINT_RESULT becomes valid (R476, R37). -/
def execMaintDone (s : State) : Out :=
  s.runIn 6 fun d => match d.mem.maint with
    | none => d
    | some x =>
      if x.count != 0 then d
      else
        let d := (d.onMem fun m => { m with maint := none }).set CCH_MAINT_CMD.GO 0
        ((d.setSat CCH_MAINT_RESULT.WRITTEN x.written).stamp CCH_MAINT_RESULT.VALID
          CCH_MAINT_RESULT.SEQ).raise CCH_INT_STATUS.MAINT_DONE

/-! ### Keystone words (R478 to R480) -/

/-- A read votes, and answers the voted value. -/
def execKeystoneRead (k : Fin 64) (s : State) : Out :=
  s.runIn 7 fun d =>
    let d := d.ksVote k
    { d with bus := { d.bus with rdata := d.ks k } }

def execKeystoneSweep (s : State) : Out :=
  s.runIn 7 fun d => d.each (List.finRange 64) fun k d => d.ksSweep k

/-- A firmware write: LOCKED outside the modes of R480 and to a fenced word. -/
def Dev.ksFirmware (d : Dev) (k : Fin 64) (v : Word) : Write :=
  if !d.merging || d.ksFenced k then .error .locked else .ok (d.ksWrite k v)

def execKeystoneWrite (who : Who) (k : Fin 64) (v : Word) (s : State) : Out :=
  s.run fun d => d.busWriteOr who (MEM_KS.at 0 k) fun d => d.ksFirmware k v

/-! ### The scrubber (R481, R482) -/

/-- Granules, or words, of memory m: a stack's 24 GiB, the cache's 64 MiB, the control store's words, the
coefficient words of an engine. -/
def scrubSize (m : Nat) : Nat :=
  if m ≤ 1 then 805306368 else if m = 2 then 2097152 else if m = 3 then 16384 else 73728

/-- The step from a granule to the next, and the number of granules skipped at once: a buffer of a fenced
pseudo-channel, a way that is OFF. -/
def Dev.scrubSkip (d : Dev) (m k : Nat) : Nat :=
  if m ≤ 1 then if d.pcFenced (32 * m + k / 2048 % 32) then 2048 - k % 2048 else 0
  else if m = 2 then if d.wayState (k / 131072) = 2 then 131072 - k % 131072 else 0
  else 0

/-- The next granule that is not skipped, within so many skips. -/
def Dev.scrubFrom (d : Dev) (m : Nat) : Nat → Nat → Nat
  | 0, k => k
  | n + 1, k =>
    if scrubSize m ≤ k ∨ d.scrubSkip m k = 0 then k else d.scrubFrom m n (k + d.scrubSkip m k)

/-- What the scrubber finds at granule k of memory m. -/
def Dev.scrubAt (d : Dev) (m k : Nat) (e mirror : EccIn) (moved : Bool) : Dev :=
  if m ≤ 1 then (d.readGranule (65536 * (2 * (k / 2048) + m) + 32 * (k % 2048)) e mirror moved).1
  else
    let site := if m = 2 then 320 + k / 131072 else if m = 3 then 200 else 128 + 8 * (m - 4)
    let unit := if m = 2 then (4, k / 131072) else if m = 3 then (0, 0) else (2, m - 4)
    match d.checkedAs site e with
    | .ok => d
    | .ce => d.report ⟨site, 0, unit.1, unit.2, k, 0⟩
    | .uc => d.report ⟨site, 1, unit.1, unit.2, k, 0⟩

/-- Limit of a lap, µs. -/
def Dev.lapLimit (d : Dev) (m : Nat) : Nat :=
  if m ≤ 1 then atLeast1 (d.get MEM_SCRUB_CFG.HBM_MAX_H) * 3600000000
  else d.get MEM_SCRUB_CFG.SRAM_MAX_MS * 1000

/-- A lap ends: its time, SCRUB_LAP, and the counts of its stack restart (R482). -/
def Dev.lapEnd (d : Dev) (m : Fin 8) : Dev :=
  let t := d.now - d.mem.lapAt[m]
  let slow := bit d.mem.slow m || decide (d.lapLimit m < t)
  let d := (d.setSat MEM_SCRUB_LAP.LAP (if m.val ≤ 1 then t / 1000000 else t / 1000) 0 m).set
    MEM_SCRUB_LAP.SLOW slow.toNat 0 m
  let zero := fun (v : Vector Nat 64) => Vector.ofFn fun (i : Fin 64) => if i.val / 32 = m.val then 0 else v[i]
  (d.raise MEM_INT_STATUS.SCRUB_LAP).onMem fun s =>
    { s with next := s.next.set m 0, lapAt := s.lapAt.set m d.now, slow := clearBit s.slow m
             ce := if m.val ≤ 1 then zero s.ce else s.ce
             uc := if m.val ≤ 1 then zero s.uc else s.uc }

/-- The island of a scrubbed memory (R481): a stack, the cache array, the control store, a servo engine. -/
def scrubIsland (m : Fin 8) : Nat :=
  if m.val ≤ 1 then 3 + m.val else if m.val = 2 then 6 else if m.val = 3 then 7 else 5 + m.val

/-- The scrubber reads the next granule of memory m (R481); it pauses in DEEP_IDLE. -/
def execScrubRead (m : Fin 8) (e mirror : EccIn) (writeBetween : Bool) (s : State) : Out :=
  s.runIn (scrubIsland m) fun d =>
    if !d.on MEM_SCRUB_CFG.EN || d.mode == .deepIdle then d
    else
      let size := scrubSize m
      let k := d.scrubFrom m 64 d.mem.next[m]
      let d := if k < size then d.scrubAt m k e mirror writeBetween else d
      let k := d.scrubFrom m 64 (k + 1)
      let d := if size ≤ k then d.lapEnd m else d.onMem fun s => { s with next := s.next.set m k }
      d.set MEM_SCRUB_LAP.PROGRESS (d.mem.next[m] * 128 / size) 0 m

/-- A lap has run past its limit (R482). -/
def execScrubSlow (m : Fin 8) (s : State) : Out :=
  s.run fun d =>
    (d.orBits MEM_INT_STATUS.SCRUB_SLOW (1 <<< m.val)).onMem fun s => { s with slow := setBit s.slow m }

end Sys2Proof.Machine
end

