-- ==== Sys2Proof/Machine/ShuOps.lean ====
section
/-! DEFINITION. The shuttle's jobs (R495 to R504): the checks, the bytes that a job moves, and the stream
ports of the capture units. -/

namespace Sys2Proof.Machine

/-- The 40-bit address of an address pair of channel c. -/
def Dev.shuAddr (d : Dev) (lo hi : Reg) (c : Nat) : Nat :=
  (d.word lo 0 c).toNat + 2 ^ 32 * ((d.word hi 0 c).toNat % 256)

/-- The channel's job as its registers give it. -/
def Dev.jobOf (d : Dev) (c : Nat) : Job :=
  ⟨d.shuAddr SHU_SRC_LO SHU_SRC_HI c, d.shuAddr SHU_DST_LO SHU_DST_HI c, d.get SHU_COUNT.BYTES 0 c,
    d.get SHU_SPAN.BYTES 0 c, d.word SHU_CH_CFG 0 c, false⟩

def Job.mode (j : Job) : Nat := SHU_CH_CFG.MODE.of j.cfg
def Job.stream (j : Job) : Bool := SHU_CH_CFG.STREAM.of j.cfg != 0
def Job.port (j : Job) : Nat := SHU_CH_CFG.PORT.of j.cfg
def Job.u (j : Job) : Nat := SHU_CH_CFG.U.of j.cfg * 64
def Job.w (j : Job) : Nat := SHU_CH_CFG.W.of j.cfg
def Job.wrap (j : Job) : Nat := SHU_CH_CFG.WRAP.of j.cfg
def Job.weaves (j : Job) : Bool := j.mode == 3 || j.mode == 4
def Job.circular (j : Job) : Bool := j.mode == 1 || j.mode == 2

/-- Byte k of a circular run from an address (R497). -/
def Job.circ (j : Job) (a k : Nat) : Nat :=
  let n := 2 ^ j.wrap
  a / n * n + (a % n + k) % n

/-- Byte k of the job's interleaved side: unit i of the single stream belongs to stream i mod W at unit
i div W (R498). -/
def Job.woven (j : Job) (a k : Nat) : Nat :=
  let i := k / max j.u 1
  a + i % (max j.w 1) * j.span + i / (max j.w 1) * j.u + k % (max j.u 1)

/-- Source and destination of byte k of the job's single order (R496). -/
def Job.srcAt (j : Job) (k : Nat) : Nat :=
  if j.mode = 1 then j.circ j.src k else if j.mode = 3 then j.woven j.src k else j.src + k

def Job.dstAt (j : Job) (k : Nat) : Nat :=
  if j.mode = 2 then j.circ j.dst k else if j.mode = 4 then j.woven j.dst k else j.dst + k

/-- Units of stream k (R498). -/
def Job.units (j : Job) (k : Nat) : Nat := (j.count / max j.u 1 + j.w - 1 - k) / max j.w 1

/-- Extents of the streams of an interleave mode: base and length. -/
def Job.streams (j : Job) (a : Nat) : List (Nat × Nat) :=
  (List.range j.w).map fun k => (a + k * j.span, j.units k * j.u)

/-- Extents of the two sides for the overlap rules: the whole circular region counts (R501). -/
def Job.srcExts (j : Job) : List (Nat × Nat) :=
  if j.stream then [] else if j.mode = 1 then [(j.src / 2 ^ j.wrap * 2 ^ j.wrap, 2 ^ j.wrap)]
  else if j.mode = 3 then j.streams j.src else [(j.src, j.count)]

def Job.dstExts (j : Job) : List (Nat × Nat) :=
  if j.mode = 2 then [(j.dst / 2 ^ j.wrap * 2 ^ j.wrap, 2 ^ j.wrap)]
  else if j.mode = 4 then j.streams j.dst else [(j.dst, j.count)]

def meets (x y : Nat × Nat) : Bool := decide (x.1 < y.1 + y.2) && decide (y.1 < x.1 + x.2)

/-- Two extents of a list overlap. -/
def selfMeets : List (Nat × Nat) → Bool
  | [] => false
  | x :: t => t.any (meets x) || selfMeets t

/-- The overlap rules (R501); COPY has none (R500). -/
def Job.overlap (j : Job) : Bool :=
  (j.weaves || j.circular) &&
    ((j.srcExts.any fun x => j.dstExts.any (meets x)) || (j.weaves && (selfMeets j.srcExts || selfMeets j.dstExts)))

/-- The codes of a job are legal: those that its mode uses (R495, R497, R499). -/
def Job.legal (j : Job) : Bool :=
  decide (j.mode ≤ 4) &&
    (!j.weaves || (decide (2 ≤ j.w) && decide (j.w ≤ 8) && decide (64 ≤ j.u) && decide (j.u ≤ 65536))) &&
    (!j.circular || (decide (12 ≤ j.wrap) && decide (j.wrap ≤ 30))) &&
    (if j.stream then (j.mode == 0 || j.mode == 2) && decide (j.port < 4) else j.count != 0)

def Job.aligned (j : Job) : Bool :=
  (j.stream || j.src % 64 == 0) && j.dst % 64 == 0 && j.count % 64 == 0 && j.span % 64 == 0 &&
    (!j.weaves || j.count % max j.u 1 == 0)

/-- Every byte lies below 48 GiB. -/
def Job.mapped (j : Job) : Bool :=
  (j.srcExts ++ j.dstExts).all fun x => decide (x.1 + x.2 ≤ hbmBytes)

/-- The status of a START: none where the job may start (R495). -/
def Dev.jobCheck (d : Dev) (c : Nat) (j : Job) : Option Nat :=
  if !d.on SHU_CTRL.EN || d.chanFenced c then some 6
  else if !j.legal then some 3
  else if !j.aligned then some 2
  else if !j.mapped then some 3
  else if j.overlap then some 4
  else none

/-- The order of a job's 64-byte blocks: backward where the ranges of a COPY overlap with DST above SRC
(R500). -/
def Job.backward (j : Job) : Bool :=
  j.mode == 0 && !j.stream && decide (j.src < j.dst) && meets (j.src, j.count) (j.dst, j.count)

/-- The k-th block that the job moves. -/
def Job.block (j : Job) (k : Nat) : Nat := if j.backward then j.count / 64 - 1 - k else k

/-- The first of the blocks, in the job's order, with a poisoned source granule (R503). -/
def Dev.jobPoison (d : Dev) (j : Job) (n : Nat) : Option Nat :=
  (List.range n).find? fun k =>
    let a := j.srcAt (64 * j.block k)
    [a, a + 32].any fun x => d.mem.poison.contains (x / 32) || (d.pcFenced (bufPc (x / 65536)) && !d.mirrored (x / 65536))

/-- The requester of channel c (R485). -/
def shuReq (c : Nat) : Nat := 72 + c / 8

/-- The job's first n blocks are moved: every destination byte receives what its source byte held (R500). -/
def Dev.moveBlocks (d : Dev) (c : Nat) (j : Job) (n : Nat) : Dev :=
  let vals := (List.range n).map fun k =>
    let o := 64 * j.block k
    (j.dstAt o, (List.range 64).map fun x => d.memByte (j.srcAt (o + x)))
  d.each vals fun p d => d.reqWrite (shuReq c) p.1 p.2

/-! ### Stream ports (R259, R499) -/

/-- The channel that takes the records of SRV[g]: SRV_CAP_CTRL.CH, where a stream job of port g runs. -/
def Dev.streamJob (d : Dev) (g : Grp) : Option (Fin 64 × Job) :=
  let c : Fin 64 := ⟨d.get SRV_CAP_CTRL.CH g % 64, by omega⟩
  match d.jobs[c] with
  | some j => if j.stream && j.port == g.val && !j.abort then some (c, j) else none
  | none => none

/-- The records of a capture unit's FIFO pass to its channel, up to COUNT bytes where that is not 0. -/
def Dev.drainStream (d : Dev) (g : Grp) : Dev :=
  match d.streamJob g with
  | none => d
  | some (c, j) =>
    let pos := d.get SHU_CH_POS.BYTES 0 c
    let recs := d.srv[g].cap.fifo
    let n := if j.count = 0 then recs.length else min recs.length ((j.count - pos) / 64)
    let d := d.each (recs.take n).zipIdx fun p d =>
      d.reqWrite (shuReq c) (j.dstAt (pos + 64 * p.2)) (p.1.flatMap fun w => leBytes 4 w.toNat)
    (d.onSrv g fun s => { s with cap := { s.cap with fifo := s.cap.fifo.drop n } }).set SHU_CH_POS.BYTES
      (pos + 64 * n) 0 c

/-! ### START and ABORT (R495, R503, R504) -/

/-- A write of 1 to START. The channel checks each 64-byte block that it moves (R548). -/
def Dev.jobStart (d : Dev) (c : Fin 64) : Dev :=
  let j := d.jobOf c
  match d.jobCheck c j with
  | some st =>
    let d := (d.set SHU_CH_RESULT.VALID 0 0 c).set SHU_CH_POS.BYTES 0 0 c
    let d := d.jobResult c st 0
    if st = 2 then d.uc (336 + c) 5 c else d
  | none =>
    let d := (d.set SHU_CH_RESULT.VALID 0 0 c).set SHU_CH_POS.BYTES 0 0 c
    if j.mode = 0 && !j.stream && j.src = j.dst then d.jobResult c 0 j.count
    else
      let d := { d with jobs := d.jobs.set c (some j) }
      let d := d.set SHU_CH_CTRL.START 1 0 c
      let d := if c.val < 32 then d.orBits SHU_BUSY_LO.BUSY (1 <<< c.val)
        else d.orBits SHU_BUSY_HI.BUSY (1 <<< (c.val - 32))
      if j.stream then d.each (List.finRange 4) fun g d => d.drainStream g
      else d.checked (336 + c) 5 c (j.count / 64)

/-- A write of 1 to ABORT: nothing on an idle channel. -/
def Dev.jobAbort (d : Dev) (c : Fin 64) : Dev :=
  match d.jobs[c] with
  | none => d
  | some j => { d with jobs := d.jobs.set c (some { j with abort := true }) }.set SHU_CH_CTRL.ABORT 1 0 c

/-- A write of SHU_CH_CTRL: START is judged first; a START on a running channel is LOCKED. -/
def Dev.shuCtrl (d : Dev) (who : Who) (c : Fin 64) (v : Word) : Dev :=
  let d := if v.getLsbD 31 then
      if (d.jobs[c]).isSome then d.refuse who SHU_CH_CTRL 0 c .locked else d.jobStart c
    else d
  if v.getLsbD 30 then d.jobAbort c else d

/-- A write of SHU_CTRL: clearing EN aborts every job (R503). -/
def Dev.shuEnable (d : Dev) (v : Word) : Dev :=
  let d := d.set SHU_CTRL.EN (v.getLsbD 0).toNat
  if v.getLsbD 0 then d else d.each (List.finRange 64) fun c d => d.jobAbort c

/-- A job ends (R503): aborted after `moved` bytes, with POISON before the first poisoned block, DONE; a
stream job at COUNT bytes or, with COUNT 0, when its capture has ended. -/
def Dev.jobEnd (d : Dev) (c : Fin 64) (moved : Nat) (poison : Bool) : Dev :=
  match d.jobs[c] with
  | none => d
  | some j =>
    let pos := d.get SHU_CH_POS.BYTES 0 c
    if j.stream then
      if j.abort then d.jobResult c 1 pos
      else
        let g : Grp := ⟨j.port % 4, by omega⟩
        let over_ := if j.count = 0 then !d.on SRV_CAP_CTRL.ARM g && d.srv[g].cap.fifo.isEmpty
          else decide (j.count ≤ pos)
        if over_ then d.jobResult c 0 pos else d
    else
      let all := j.count / 64
      let n := if j.abort || poison then min (moved / 64) all else all
      match d.jobPoison j n with
      | some k => ((d.moveBlocks c j k).set SHU_CH_POS.BYTES (64 * k) 0 c).jobResult c 5 (64 * k)
      | none =>
        ((d.moveBlocks c j n).set SHU_CH_POS.BYTES (64 * n) 0 c).jobResult c
          (if poison && decide (n < all) then 5 else if j.abort && decide (n < all) then 1 else 0) (64 * n)

end Sys2Proof.Machine
end

