-- ==== Sys2Proof/Machine/BandOps.lean ====
section
/-! DEFINITION. Band-table changes (R336, R351 to R355, R434, R633), the default layout of a group (R353),
the choice of free areas (R458) and the journal's commit path (R366 to R375). -/

namespace Sys2Proof.Machine

/-! ### Directory and maps -/

/-- Update the namespaces, in HBM and as the pack holds them. -/
def Dev.onNs (d : Dev) (f : List Ns → List Ns) : Dev :=
  let d := d.onBand fun b => { b with ns := f b.ns }
  { d with media := { d.media with ns := d.band.ns } }

def Dev.setNs (d : Dev) (nsid : Nat) (f : Ns → Ns) : Dev :=
  d.onNs fun l => l.map fun n => if n.nsid = nsid then f n else n

/-- The extents of a group's bands in any state but FREE and RETIRED (R336). -/
def extentsOf (dir : List (Nat × BandEntry)) (g : Grp) : List (Nat × Nat) :=
  (dir.filter fun p => p.2.group == g && p.2.state != bsFree && p.2.state != bsRetired).map fun p =>
    (p.2.startWelt, weltCount p.2.data)

/-- The directory keeps the rule of R336 in a group. -/
def Dev.extentsOk (d : Dev) (dir : List (Nat × BandEntry)) (g : Grp) : Bool :=
  let l := extentsOf dir g
  !selfMeets l && l.all fun x => decide (x.1 + x.2 ≤ d.welts g)

/-- LBAs of a namespace that a map entry serves: a user band's own, or those whose tag-store sectors the
band holds (R348). -/
def Dev.mapRange (d : Dev) (nsid ix : Nat) : Nat × Nat × Nat :=
  let u := ((d.nsOf nsid).map Ns.bands).getD 0
  if ix < u then (nsid, ix * 2 ^ 18, 2 ^ 18) else (nsid, (ix - u) * 2 ^ 27, 2 ^ 27)

/-- LBAs under the barrier of a change: those of every band and map entry that it changes (R355). -/
def Dev.changeRanges (d : Dev) (c : BandChange) : List (Nat × Nat × Nat) :=
  let owned := fun (e : BandEntry) => e.state == bsUser || e.state == bsTag
  let old := c.dir.filterMap fun p => (d.bandAt p.1).bind fun e =>
    if owned e then some (d.mapRange e.nsid e.nsIndex) else none
  let new := c.dir.filterMap fun p => if owned p.2 then some (d.mapRange p.2.nsid p.2.nsIndex) else none
  (old ++ new ++ c.maps.map fun m => d.mapRange m.1 m.2.1).dedup

/-- Granted commands that cover an LBA of the ranges (R355, R434). -/
def Dev.lockHolders (d : Dev) (rs : List (Nat × Nat × Nat)) : List Word :=
  ((d.que.locks.filter fun l => l.granted && rs.any fun r =>
    r.1 == l.nsid && overlaps r.2.1 r.2.2 l.lba l.count).map Lock.f).dedup

/-- A band in any state but FREE and RETIRED (R336). -/
def placed (e : BandEntry) : Bool := e.state != bsFree && e.state != bsRetired

/-- A change keeps the rule of R336: no band to which it gives an extent meets another of its group, or lies beyond the group's
welts. -/
def Dev.changeOk (d : Dev) (c : BandChange) : Bool :=
  let dir := d.dirAfter c
  let kept := fun (p : Nat × BandEntry) => (d.bandAt p.1).any fun e =>
    placed e && e.group == p.2.group && e.startWelt == p.2.startWelt && e.data == p.2.data
  (dir.filter fun p => placed p.2 && !kept p).all fun p =>
    decide (p.2.startWelt + weltCount p.2.data ≤ d.welts p.2.group) &&
      dir.all fun q => q.1 == p.1 || q.2.group != p.2.group || !placed q.2 ||
        !overlaps p.2.startWelt (weltCount p.2.data) q.2.startWelt (weltCount q.2.data)

/-- Request a change (R355): refused where it breaks R336; else its barrier stands until it commits, after those requested
before it (R434). -/
def Dev.requestChange (d : Dev) (t : TableChange) : Dev :=
  if !d.changeOk t.change then d
  else
    let rs := t.ranges ++ d.changeRanges t.change
    let t := { t with ranges := rs, waits := d.lockHolders rs }
    (d.onBand fun b => if b.change.isSome then { b with changes := b.changes ++ [t] } else { b with change := some t }).showQue

/-- The next requested change that still keeps R336 is the one to commit. -/
def Dev.nextChange (d : Dev) : Dev :=
  let l := d.band.changes.dropWhile fun t => !d.changeOk t.change
  (d.onBand fun b => { b with change := l.head?, changes := l.drop 1 }).showQue

/-- Show a group's width: that of its widest default area still in use, or of the image. -/
def Dev.showWidth (d : Dev) (g : Grp) : Dev :=
  let ws := ((d.bandsOf g).filter fun p => p.2.state != bsRetired && p.2.state != bsStaged).map fun p =>
    popcount8 p.2.members
  d.set CBL_GRP.WIDTH (ws.foldl max 0) 0 g

/-! ### Layout and free areas -/

/-- Groups of the almanac copies: the two lowest-numbered with heads (R353). -/
def Dev.almGroups (d : Dev) : List Grp := ((List.finRange 4).filter fun (g : Grp) => d.hasHeads g).take 2

/-- The default areas of a group (R353). -/
def Dev.defaultLayout (d : Dev) (g : Grp) : List (Nat × BandEntry) :=
  match d.band.layout[g] with
  | none => []
  | some l =>
    let data := popcount8 l.members - (if l.pq then 2 else 1)
    let nbw := weltCount data
    let n := if nbw = 0 then 0 else min 32767 (d.welts g / nbw)
    let alm := (d.almGroups).contains g
    (List.range n).map fun a =>
      let st := if a < 2 then bsFlush else if a = 2 then bsJournal else if a = 3 && alm then bsAlmanac
        else if n - l.reserve ≤ a then bsReserve else if n - l.reserve - l.spare ≤ a then bsSpare else bsFree
      (g.val * 32768 + a, ⟨g, a * nbw, st, l.pq, l.members, 0, 0⟩)

/-- FREE areas of a group, by band number. -/
def freeAreas (dir : List (Nat × BandEntry)) (g : Grp) : List (Nat × BandEntry) :=
  dir.filter fun p => p.2.group == g && p.2.state == bsFree

/-- The next band that R458 chooses: of the group with the most FREE areas among those allowed, the lower
on a tie, its lowest-numbered FREE area. -/
def chooseFree (dir : List (Nat × BandEntry)) (gs : List Grp) : Option (Nat × BandEntry) :=
  let best := gs.foldl (fun (b : Option (Grp × Nat)) g =>
    let n := (freeAreas dir g).length
    match b with
    | some (_, m) => if m < n then some (g, n) else b
    | none => if n = 0 then none else some (g, n)) none
  best.bind fun x => (freeAreas dir x.1).head?

/-- Take a band for each of a list of map entries; an entry with no FREE area left becomes a hole (R458,
R633). -/
def takeBands (gs : List Grp) : List (Nat × Nat × Nat) → List (Nat × BandEntry) → BandChange → BandChange
  | [], _, c => c
  | (nsid, ix, st) :: t, dir, c =>
    match chooseFree dir gs with
    | some (n, e) =>
      let e' : BandEntry := { e with state := st, nsid := nsid, nsIndex := ix }
      takeBands gs t (putEntry dir n e') ⟨c.dir ++ [(n, e')], c.maps ++ [(nsid, ix, some n)]⟩
    | none => takeBands gs t dir ⟨c.dir, c.maps ++ [(nsid, ix, none)]⟩

/-- Groups that give bands (R458). -/
def Dev.giving (d : Dev) : List Grp :=
  (List.finRange 4).filter fun g => d.grpState g == gsOnline || d.grpState g == gsDegraded

/-- The state of a namespace's map entry (R352). -/
def Ns.entryState (n : Ns) (ix : Nat) : Nat := if ix < n.bands then bsUser else bsTag

/-- Entries of a namespace's map: its user bands, and one tag-store band for 512 of them where it carries
protection information (R348, R352). -/
def Ns.entries (n : Ns) : Nat := n.bands + (if n.lbaf = 0 then 0 else (n.bands + 511) / 512)

/-- Map entries in entry order: by namespace, then by entry. -/
def entryOrder (l : List (Nat × Nat × Nat)) : List (Nat × Nat × Nat) :=
  sortBy (fun a b => decide (a.1 < b.1) || (a.1 == b.1 && decide (a.2.1 ≤ b.2.1))) l

/-- The holes of the maps, in entry order (R633). -/
def Dev.holes (d : Dev) : List (Nat × Nat × Nat) :=
  entryOrder (d.band.maps.filterMap fun m => match m.2.2 with
    | some _ => none
    | none => (d.nsOf m.1).map fun n => (m.1, m.2.1, n.entryState m.2.1))

/-- A change gives bands back to FREE. -/
def freesAreas (c : BandChange) : Bool := c.dir.any fun p => p.2.state == bsFree && p.2.members != 0

/-- Write a change that commits; where it frees areas, or where `asked`, holes are filled in entry order in the same step (R633).
Where a granted lock covers an LBA of those holes, they are filled by a further change, requested here, that waits for it (R355;
DEDUCED, log entry 147). -/
def Dev.commitChange (d : Dev) (c : BandChange) (asked : List (Nat × Nat × Nat) := []) : Dev :=
  let open_ := d.holes.filter fun h => !(c.maps.any fun m => m.1 == h.1 && m.2.1 == h.2.1)
  let want := if freesAreas c then open_ else open_.filter asked.contains
  let rs := want.map fun h => d.mapRange h.1 h.2.1
  let busy := !(d.lockHolders rs).isEmpty
  let t := takeBands d.giving (if busy then [] else want) (d.dirAfter c) ⟨[], []⟩
  let all : BandChange := ⟨c.dir ++ t.dir, c.maps ++ t.maps.filter fun m => m.2.2.isSome⟩
  let d := if all.dir.isEmpty && all.maps.isEmpty then d else d.writeTable all
  d.when busy (·.requestChange { change := ⟨[], []⟩, waits := [], ranges := rs, fills := want })

/-! ### The journal's commit path -/

/-- Intents opened in the log sector that the next commit overwrites are written again, in the sector of that commit, ahead of its
other records (R375): epochs a whole ring old. -/
def Dev.reopen (d : Dev) (e : Nat) : Dev :=
  let step := if d.on CBL_JNL.B_VALID && d.get CBL_JNL.COPY_A == d.get CBL_JNL.COPY_B then ringSize / 2 else ringSize
  let old := d.band.intents.filter fun i => i.recorded && e != i.epoch &&
    (e + 2 ^ 32 - i.epoch % 2 ^ 32) % 2 ^ 32 % step == 0
  d.onBand fun b => { b with pending := old.map .open_ ++ b.pending,
                             clients := b.clients.map fun c => (c.1 + old.length, c.2) }

/-- Two media copies share the one group's ring: A takes its even sectors and B the odd ones (R366). -/
def Dev.ringShared (d : Dev) : Bool := d.on CBL_JNL.B_VALID && d.get CBL_JNL.COPY_A == d.get CBL_JNL.COPY_B

/-- The epoch that is at most every other of a list and a start, in serial order (R372). -/
def oldestEpoch (e : Nat) (l : List Nat) : Nat := l.foldl (fun a b => if epochLe a b then a else b) e

/-- The journal request of a copy: the welt of the ring's next log sector (R371, R374). -/
def Dev.jnlRequest (d : Dev) (c : Bool × Grp) : Dev :=
  match d.journalBand c.2 with
  | none => d
  | some (n, e) =>
    let pos := (if d.ringShared then 2 * d.band.ring + c.1.toNat else d.band.ring) % ringSize
    let p := d.placeIn n e (4112 + pos)
    let m := e.members &&& d.presentMask c.2
    d.addReq c.2 ⟨1, p.cyl, p.sect, 1, 0, 0, m, 0, true⟩ (.journal c.1)

/-- PERIOD ms, never fewer than 20, have gone by since the last commit (R372). -/
def Dev.periodOver (d : Dev) : Bool :=
  d.band.lastCommit.all fun t => decide (t + 1000 * max 20 (d.get CBL_JNL.PERIOD) ≤ d.now)

/-- A commit (R373 step 2): the pending sector takes the next epoch and goes to every usable copy; the
commands bound to its records move up. With no copy there is no commit (R368). -/
def Dev.commitLog (d : Dev) : Dev :=
  let e := (d.epoch + 1) % 2 ^ 32
  let copies := d.jnlCopies
  if copies.isEmpty then d.event 0x05 50 []
  else
    let d := d.reopen e
    let recs := (d.band.pending.take 127).map fun r => match r with
      | .open_ i => if i.recorded then r else .open_ { i with epoch := e }
      | r => r
    -- an intent is open until the sector of its RETIRE record
    let ends := (d.band.pending.drop 127).filterMap fun r => match r with | .retire i => some i | _ => none
    let held := (d.band.intents.filter Intent.recorded ++ ends).map Intent.epoch
    let sector : LogSector := ⟨e, d.band.gen, recs, oldestEpoch e held⟩
    let d := d.onBand fun b =>
      { b with pending := b.pending.drop 127, commit := some (sector, copies.length), lastCommit := some d.now,
               clients := b.clients.map fun c => (c.1 - recs.length, c.2) }
    let d := d.each copies fun c d => d.jnlRequest c
    d.onBand fun b => { b with ring := b.ring + 1, log := keepRing (b.log ++ [sector]) }

/-- A whole run of welts as requests of one kind, split by tracks. -/
def Dev.weltReqs (d : Dev) (g : Grp) (kind first count rmask wmask cmask : Nat) (why : Purpose) : Dev :=
  -- the writes of start-up recovery carry the metadata mark (R150)
  d.each (d.trackSpans g count first count) fun s d =>
    d.addReq g ⟨kind, s.1, s.2.1, s.2.2, 0, rmask, wmask, cmask, d.mode == .headLoad⟩ why

/-- Data heads of a welt whose position the held portion does not cover, and that no read-ahead has in hand (R363). -/
def Dev.uncoveredMask (d : Dev) (g : Grp) (w : Nat) : Nat :=
  let (c, k) := d.locate g w
  (List.finRange 8).foldl (fun m i =>
    match d.expect g c k i with
    | some x => if (d.heldAt x.nsid x.addr x.kind).isSome ||
        d.grpq[g].fills.any (fun f => f.cyl == c && f.sect == k && f.ix == i) then m else setBit m i
    | none => m) 0

/-- Some position of a run of welts is held. -/
def Dev.anyHeld (d : Dev) (g : Grp) (first count : Nat) : Bool :=
  d.que.held.any fun h => match d.place h.nsid h.lba h.kind with
    | some p => p.grp == g && decide (first ≤ p.welt) && decide (p.welt < first + count)
    | none => false

/-- Reads ahead of a run of welts: every data position that is not held, a missing member's too, with every
present member captured (R362, R363, R378). -/
def Dev.fillReqs (d : Dev) (g : Grp) (first count : Nat) (why : Purpose) : Dev :=
  d.each (d.trackSpans g count first count) fun s d =>
    let w0 := d.weltAt g s.1 s.2.1
    let rm := (List.range s.2.2).foldl (fun m k => m ||| d.uncoveredMask g (w0 + k)) 0
    if rm = 0 then d else d.addReq g ⟨0, s.1, s.2.1, s.2.2, 0, rm, 0, d.presentMask g, false⟩ why

/-- The purpose of an intent's write: an overwrite's pattern, the data in hand of a
cobbler's copy, an almanac append, else an ordinary destage. -/
def Dev.intentWhy (d : Dev) (i : Intent) : Purpose :=
  let staged := (d.bandsOf i.grp).any fun p => p.2.state == bsStaged && decide (p.2.startWelt ≤ i.first) &&
    decide (i.first < p.2.startWelt + weltCount p.2.data)
  let pat := d.band.ops.findSome? fun o => match o.kind with
    | .sanitize n v => if n = 0 then none else some v
    | _ => none
  let user := ((d.bandOver i.grp i.first).map fun p => p.2.state == bsUser).getD false
  match pat, user with
  | some v, true => .pattern v
  | _, _ =>
    if staged then .cobbler 3
    else if (d.bandOver i.grp i.first).any fun p => p.2.state == bsAlmanac then .almanac
    else .welts i.first i.count

/-- Members of the band over a welt. -/
def Dev.membersAt (d : Dev) (g : Grp) (w : Nat) : Nat := ((d.bandOver g w).map fun p => p.2.members).getD 0

/-- The read-ahead of a run has rebuilt a sector whose own pass failed on its tag (R345). -/
def Dev.rebuiltIn (d : Dev) (g : Grp) (first count : Nat) : Bool :=
  d.grpq[g].fills.any fun f => f.status == 1 && f.tagFailed &&
    (let w := d.weltAt g f.cyl f.sect; decide (first ≤ w) && decide (w < first + count))

/-- The write of a recorded intent (R373 step 4): its members; every present member where held data lies in
its welts (R363), or where a surface is to be corrected (R345). -/
def Dev.weltWrite (d : Dev) (i : Intent) : Dev :=
  let all := if d.anyHeld i.grp i.first i.count || d.rebuiltIn i.grp i.first i.count then d.membersAt i.grp i.first else 0
  d.weltReqs i.grp 1 i.first i.count 0 ((i.members ||| all) &&& d.presentMask i.grp) 0 (d.intentWhy i)

/-- The welts of a recorded intent are read ahead where needed, then written (R363, R373). -/
def Dev.intentReady (d : Dev) (i : Intent) : Dev :=
  match d.intentWhy i with
  | .welts _ _ =>
    let n := (List.range i.count).any fun k => d.uncoveredMask i.grp (i.first + k) != 0
    if n then d.fillReqs i.grp i.first i.count (.fill i.first i.count) else d.weltWrite i
  | _ => d.weltWrite i

/-! ### The almanac's media writes (R553, R554) -/

/-- Where a copy of the almanac lies, A or with true B: its group, the area, and the sector offset at which it begins. -/
def Dev.almArea (d : Dev) (b : Bool) : Option (Grp × BandEntry × Nat) :=
  let gs := d.almGroups
  let base := if b && gs.length == 1 then 16400 else 0
  (if b then (gs.drop 1).head?.or gs.head? else gs.head?).bind fun g =>
    ((d.bandsOf g).find? fun p => p.2.state == bsAlmanac).map fun p => (g, p.2, base)

/-- Intents over the welts of a run of a copy's sectors; a welt that an intent names already needs none. -/
def Dev.almIntent (d : Dev) (b : Bool) (first count : Nat) : Dev :=
  match d.almArea b with
  | none => d
  | some (g, e, base) =>
    let dd := max 1 e.data
    let w := e.startWelt + (base + first) / dd
    let n := e.startWelt + (base + first + count - 1) / dd + 1 - w
    if d.band.intents.any fun i => i.grp == g && i.first == w && i.count == n then d
    else d.openIntent g w n (e.members &&& d.presentMask g)

/-- A copy's writes of an append: the sectors of its records from the last partly filled one on, and its header. -/
def Dev.almSectors (d : Dev) (b : Bool) (was now : Nat) : Dev :=
  (if was < now then d.almIntent b (16 + was / 4096) ((now + 4095) / 4096 - was / 4096) else d).almIntent b 0 1

/-- An append begins: staging joins the image, and intents are opened for the sectors that change in every copy whose group can
write; the copies hold it when they are written. -/
def Dev.almStart (d : Dev) : Dev :=
  let okA := d.on ALM_STATUS.COPY_A_OK
  let okB := d.on ALM_STATUS.COPY_B_OK
  if (!okA && !okB) || (okA && d.alm.toA.isSome) || (okB && d.alm.toB.isSome) then d
  else
    let was := almBytes d.alm.image
    let d := d.almTake
    let now := almBytes d.alm.image
    let d := d.onAlm fun a =>
      { a with toA := if okA then some (a.copyOf false) else none, toB := if okB then some (a.copyOf false) else none }
    (d.when okA (·.almSectors false was now)).when okB (·.almSectors true was now)

/-- The writes of an append have ended in a copy's group: the copy holds it. -/
def Dev.almWritten (d : Dev) (g : Grp) : Dev :=
  let here := fun (b : Bool) => (d.almArea b).any fun x => x.1 == g
  let busy := d.band.intents.any fun i => i.grp == g && (d.bandOver g i.first).any fun p => p.2.state == bsAlmanac
  if busy then d
  else d.onAlm fun a =>
    { a with copyA := if here false then a.toA.getD a.copyA else a.copyA, toA := if here false then none else a.toA,
             copyB := if here true then a.toB.getD a.copyB else a.copyB, toB := if here true then none else a.toB }

/-- Every copy's write has ended: the epoch advances, the intents of the sector are recorded and their
welts may be written, and the commands bound to it end (R373 step 3). -/
def Dev.committed (d : Dev) (sector : LogSector) : Dev :=
  let d := (d.set CBL_EPOCH.EPOCH sector.epoch).ksWrite 1 (BitVec.ofNat 32 sector.epoch)
  let d := d.onBand fun b => { b with commit := none, sinceCp := b.sinceCp + 1 }
  let opened := sector.recs.filterMap fun r => match r with
    | .open_ i => if i.recorded then none else some i
    | _ => none
  let found := fun (i : Intent) =>
    opened.find? fun (o : Intent) => o.grp == i.grp && o.first == i.first && o.count == i.count && !i.recorded
  let mark := fun (i : Intent) => match found i with
    | some o => { o with recorded := true }
    | none => i
  let d := d.onBand fun b => { b with intents := b.intents.map mark }
  let d := d.each opened fun o d => d.intentReady { o with recorded := true }
  let d := if 16384 ≤ d.band.sinceCp then d.checkpoint else d
  let due := d.band.clients.filter fun c => c.1 == 0
  let d := d.onBand fun b => { b with clients := b.clients.filter fun c => c.1 != 0 }
  d.each due fun c d => d.post ⟨c.2.1, c.2.2.1⟩ c.2.2.2.1 .success c.2.2.2.2

/-- A copy's write of the running commit has ended: the copy holds the sector. -/
def Dev.copyDone (d : Dev) (b : Bool) : Dev :=
  match d.band.commit with
  | none => d
  | some (s, n) =>
    let put := fun (c : JnlCopy) => { c with log := keepRing (c.log ++ [s]), next := d.band.ring }
    let d := { d with media := if b then { d.media with jnlB := put d.media.jnlB }
                               else { d.media with jnlA := put d.media.jnlA } }
    if n ≤ 1 then d.committed s else d.onBand fun x => { x with commit := some (s, n - 1) }

/-- A command that ends once every record now pending is committed (R458). -/
def Dev.afterCommit (d : Dev) (c : Fn × Nat × Nat × Nat) : Dev :=
  if d.band.pending.isEmpty && d.band.commit.isNone then d.post ⟨c.1, c.2.1⟩ c.2.2.1 .success c.2.2.2
  else d.onBand fun b => { b with clients := b.clients ++ [(b.pending.length, c)] }

end Sys2Proof.Machine
end

