-- ==== Sys2Proof/Machine/ScanOps.lean ====
section
/-! DEFINITION. The scan engine's filter (R505 to R515): the checks of a descriptor, the tests and terms of
a record, and the output of a scan. -/

namespace Sys2Proof.Machine

/-- A number from big-endian bytes. -/
def ofBe (l : List Byte) : Nat := l.foldl (fun n b => 256 * n + b.toNat) 0

/-- n bytes from offset o; bytes beyond the end are 0. -/
def cut (l : List Byte) (o n : Nat) : List Byte :=
  let x := (l.drop o).take n
  x ++ List.replicate (n - x.length) 0

/-- A big-endian field. -/
def beAt (l : List Byte) (o n : Nat) : Nat := ofBe (cut l o n)

/-- The first nonzero byte of a range. -/
def firstNonzero (l : List Byte) (o n : Nat) : Option Nat :=
  (((l.drop o).take n).findIdx? (· != 0)).map (o + ·)

/-! ### Descriptor fields (R505, R506, R508) -/

def scnRsize (s : List Byte) : Nat := beAt s 4 2
def scnN (s : List Byte) : Nat := beAt s 6 1
def scnFlags (s : List Byte) : Nat := beAt s 7 1
def scnT (s : List Byte) : Nat := beAt s 8 1
def testBase (t : Nat) : Nat := 0x40 + 0x40 * t
def termBase (u : Nat) : Nat := 0x440 + 8 * u
def termUse (s : List Byte) (u : Nat) : Nat := beAt s (termBase u) 2
def termNeg (s : List Byte) (u : Nat) : Nat := beAt s (termBase u + 2) 2

/-- A 64-bit value as RANGE compares it: signed or unsigned. -/
def rangeVal (signed : Bool) (v : Nat) : Int := if signed then sext 64 v else (v : Int)

/-- Reserved bytes that are not zero: reason 6. -/
def scnZero (s : List Byte) (o n : Nat) : List (Nat × Nat) := ((firstNonzero s o n).map fun b => (6, b)).toList

/-- Faults of a used test: reason and offset (R506, R509). -/
def testFaults (s : List Byte) (b : Nat) : List (Nat × Nat) :=
  let op := beAt s b 1
  let l := beAt s (b + 1) 1
  let ofs := beAt s (b + 2) 2
  let span := beAt s (b + 4) 2
  let flags := beAt s (b + 6) 1
  let size := scnRsize s
  let range := op == 2
  let signed := flags.testBit 0
  (if op = 0 ∨ 3 < op then [(2, b)] else []) ++
  (if l = 0 ∨ (if range then 8 else 32) < l then [(3, b + 1)] else []) ++
  (if op = 3 then
     (if size < ofs then [(3, b + 2)] else []) ++
     (if span < l ∨ size < ofs + span then [(3, b + 4)] else [])
   else
     (if size < ofs + l then [(3, b + 2)] else []) ++ scnZero s (b + 4) 2) ++
  (if range then (if 4 ≤ flags then [(6, b + 6)] else []) else scnZero s (b + 6) 1) ++
  scnZero s (b + 7) 1 ++
  (if range then
     (if rangeVal signed (beAt s (b + 40) 8) < rangeVal signed (beAt s (b + 8) 8) then [(4, b + 8)] else []) ++
       scnZero s (b + 16) 24
   else scnZero s (b + 8 + min l 32) (32 - min l 32) ++ scnZero s (b + 40) 8) ++
  scnZero s (b + 48) 16

/-- Faults of a term below T (R508, R509). -/
def termFaults (s : List Byte) (u : Nat) : List (Nat × Nat) :=
  let use := termUse s u
  let neg := termNeg s u
  let n := 2 ^ scnN s
  (if use = 0 ∨ n ≤ use then [(5, termBase u)] else []) ++
  (if n ≤ neg ∨ neg &&& use ≠ neg then [(5, termBase u + 2)] else []) ++
  scnZero s (termBase u + 4) 4

/-- All faults of a descriptor (R509). -/
def scnFaults (s : List Byte) : List (Nat × Nat) :=
  let size := scnRsize s
  let n := scnN s
  let t := scnT s
  (if beAt s 0 4 = 0x5343_4E31 then [] else [(1, 0)]) ++
  (if size % 64 = 0 ∧ 64 ≤ size ∧ size ≤ 4096 then [] else [(1, 4)]) ++
  (if 1 ≤ n ∧ n ≤ 16 then [] else [(1, 6)]) ++
  (if scnFlags s < 4 then [] else [(6, 7)]) ++
  (if 1 ≤ t ∧ t ≤ 16 then [] else [(1, 8)]) ++
  scnZero s 9 55 ++
  ((List.range 16).flatMap fun k =>
    if k < n then testFaults s (testBase k)
    else if beAt s (testBase k) 1 = 0 then [] else [(2, testBase k)]) ++
  ((List.range 16).flatMap fun u =>
    if u < t then termFaults s u
    else ((firstNonzero s (termBase u) 8).map fun _ => (5, termBase u)).toList) ++
  scnZero s 0x4C0 2880

/-- The first faulty field: the lowest offset (SCN_REJ_INFO.BYTE). -/
def scnReject (s : List Byte) : Option (Nat × Nat) :=
  (scnFaults s).foldl (fun b x => match b with
    | some y => if x.2 < y.2 then some x else some y
    | none => some x) none

/-! ### Records (R507, R508, R510, R511) -/

/-- A test's result for a record. -/
def testPass (s : List Byte) (r : List Byte) (t : Nat) : Bool :=
  let b := testBase t
  let l := beAt s (b + 1) 1
  let ofs := beAt s (b + 2) 2
  let span := beAt s (b + 4) 2
  let flags := beAt s (b + 6) 1
  let a := cut s (b + 8) l
  match beAt s b 1 with
  | 1 => cut r ofs l == a
  | 2 =>
    let x := cut r ofs l
    let u := if flags.testBit 1 then ofLe x else ofBe x
    let signed := flags.testBit 0
    let v : Int := if signed then sext (8 * l) u else (u : Int)
    decide (rangeVal signed (beAt s (b + 8) 8) ≤ v) && decide (v ≤ rangeVal signed (beAt s (b + 40) 8))
  | 3 => (List.range (span + 1 - l)).any fun p => cut r (ofs + p) l == a
  | _ => false

/-- Term u passes. -/
def termPass (s : List Byte) (r : List Byte) (u : Nat) : Bool :=
  (List.range 16).all fun t => !(termUse s u).testBit t || (testPass s r t != (termNeg s u).testBit t)

/-- The record matches. -/
def recordMatch (s : List Byte) (r : List Byte) : Bool :=
  let any := (List.range (scnT s)).any fun u => termPass s r u
  if (scnFlags s).testBit 1 then !any else any

/-- The elements of one LBA: the matching records in index order, each behind its address where
EMIT_ADDR is 1. -/
def lbaElements (s : List Byte) (lba : Nat) (data : List Byte) : List (List Byte) :=
  (List.range (4096 / max (scnRsize s) 1)).filterMap fun k =>
    let r := cut data (k * scnRsize s) (scnRsize s)
    if recordMatch s r then
      some ((if (scnFlags s).testBit 0 then beBytes 6 lba ++ beBytes 2 k else []) ++ r)
    else none

/-- A scan in LBA order: the elements output, the LBAs before the ending point, and whether it ended at
an LBA that cannot be delivered (R515). -/
def scanRun (s : List Byte) (room : Nat) : List (Nat × Option (List Byte)) → List (List Byte) × Nat × Bool
  | [] => ([], 0, false)
  | (_, none) :: _ => ([], 0, true)
  | (lba, some data) :: t =>
    let es := lbaElements s lba data
    let size := (es.map List.length).sum
    if room < size then ([], 0, false)
    else
      let (out, n, stop) := scanRun s (room - size) t
      (es ++ out, n + 1, stop)

end Sys2Proof.Machine
end

