-- ==== Sys2Proof/Machine/HostOps.lean ====
section
/-! DEFINITION. The host engine's operations (chapters 12 and 13): data-pointer walks, protection
information, fetch and admission of I/O commands, and their way through locks, buffers, media and
transfer. -/

namespace Sys2Proof.Machine

/-! ### Walks (R419 to R424) -/

/-- A failed walk: status, HST_ERR_INFO cause and object. -/
abbrev WalkErr := Status × Nat × Nat

/-- Walk the descriptors of an SGL: segments followed so far and bytes still to be described. -/
def sglWalk (write : Bool) : Nat → Nat → List SglDesc → Option WalkErr
  | _, need, [] => if need = 0 then none else some (.sglLength, 7, 2)
  | segs, need, x :: t =>
    if need = 0 then none
    else match x.type with
      | .dataBlock => sglWalk write segs (need - x.len) t
      | .bitBucket => if write then some (.sglType, 7, 2) else sglWalk write segs (need - x.len) t
      | .segment | .lastSegment =>
        if 512 ≤ segs then some (.sglLength, 5, 2) else sglWalk write (segs + 1) need t
      | .other => some (.sglType, 7, 2)

/-- Walk a data pointer for a transfer: PRP entries after PRP1 up to the transfer length (R419; DEDUCED, log entry 139), or an
SGL. -/
def walk (write : Bool) (bytes : Nat) : DataPtr → Option WalkErr
  | .prp p1 entries =>
    let n := (p1 % 4096 + bytes + 4095) / 4096 - 1
    if p1 % 4 ≠ 0 ∨ (entries.take n).any (fun e => e % 4096 != 0) then some (.prpOffset, 6, 1) else none
  | .sgl ds => sglWalk write 0 bytes ds

/-- The runs of bytes that the pages of a PRP name: address and length (R419). -/
def pageRuns : Nat → List Nat → List (Option Nat × Nat)
  | _, [] => []
  | need, e :: t =>
    let n := min need (4096 - e % 4096)
    (some e, n) :: pageRuns (need - n) t

/-- The runs of an SGL; a Bit Bucket has no address (R420). -/
def sglRuns : Nat → List SglDesc → List (Option Nat × Nat)
  | _, [] => []
  | need, x :: t => match x.type with
    | .dataBlock => (some x.addr, min need x.len) :: sglRuns (need - x.len) t
    | .bitBucket => (none, min need x.len) :: sglRuns (need - x.len) t
    | _ => sglRuns need t

/-- The runs of host addresses of a transfer, in the order of its bytes. -/
def ptrRuns (bytes : Nat) : DataPtr → List (Option Nat × Nat)
  | .prp p1 entries => pageRuns bytes (p1 :: entries)
  | .sgl ds => sglRuns bytes ds

/-- The buffer address of a run that lies inside the PF's own BAR4, which the top of the buffer space holds: it is served
inside the controller; none for a run that goes over the link (R417, R418). -/
def Dev.cmbAddr (d : Dev) (fn : Fn) (r : Option Nat × Nat) : Option Nat :=
  match r.1 with
  | some a =>
    if d.bpm.cmb = 0 then none
    else if fn = 0 ∧ Config.bar4 ≤ a ∧ a + r.2 ≤ Config.bar4 + 65536 * d.bpm.cmb ∧ r.2 ≠ 0 then
      some (65536 * (bufTotal - d.bpm.cmb) + (a - Config.bar4))
    else none
  | none => none

/-- A byte of the controller memory buffer: a free value where nothing has been written since the last controller reset
(R417). -/
def Dev.cmbByte (d : Dev) (a : Nat) : Byte :=
  match d.bpm.cmbLost with
  | some k =>
    if d.bpm.cmbKnown.any fun r => decide (r.1 ≤ a ∧ a < r.1 + r.2) then d.memByte a
    else BitVec.ofNat 8 (Config.freeValue (k * 2 ^ 40 + a))
  | none => d.memByte a

/-- The bytes of a transfer from the host: those of the link, and, for runs inside BAR4, those that stand there (R418). -/
def Dev.gather (d : Dev) (fn : Fn) (p : DataPtr) (link : List Byte) : List Byte :=
  ((ptrRuns link.length p).foldl (fun (x : Nat × List Byte) r =>
    (x.1 + r.2, x.2 ++ match d.cmbAddr fn r with
      | some a => (List.range r.2).map fun k => d.cmbByte (a + k)
      | none => cut link x.1 r.2)) (0, [])).2

/-- Protection information as its metadata field carries it: guard, application tag, storage and reference tag, high byte
first (R407, R408; PRESUMED, log entry 139). -/
def piBytes (lbaf : Nat) (f : Nat × Nat × Nat) : List Byte :=
  if lbaf = 2 then beBytes 8 f.1 ++ beBytes 2 f.2.1 ++ beBytes 6 f.2.2 else beBytes 2 f.1 ++ beBytes 2 f.2.1 ++ beBytes 4 f.2.2

/-- The fields of such bytes. -/
def piOf (lbaf : Nat) (b : List Byte) : Nat × Nat × Nat :=
  if lbaf = 2 then (beAt b 0 8, beAt b 8 2, beAt b 10 6) else (beAt b 0 2, beAt b 2 2, beAt b 4 4)

/-- The data of a write of n LBAs with m metadata bytes each, by LBA, and their protection fields: as the link delivers them,
or gathered where a run lies inside BAR4 (R408, R418). -/
def Dev.hostData (d : Dev) (fn : Fn) (io : IoArgs) (lbaf m : Nat) (data : List (List Byte)) :
    List (List Byte) × List (Nat × Nat × Nat) :=
  let n := io.count
  let len := 4096 + m
  if (ptrRuns (len * n) io.ptr).all fun r => (d.cmbAddr fn r).isNone then (data, io.pi.fields)
  else
    let x := d.gather fn io.ptr ((List.range n).flatMap fun k =>
      cut (data.getD k []) 0 4096 ++ cut (piBytes lbaf (io.pi.fields.getD k (0, 0, 0))) 0 m)
    ((List.range n).map fun k => cut x (len * k) 4096,
      if m = 0 then io.pi.fields else (List.range n).map fun k => piOf lbaf (cut x (len * k + 4096) m))

/-- Bytes delivered for a command: runs inside BAR4 are written there, a Bit Bucket drops its bytes, the rest moves to the
host (R418, R420). -/
def Dev.toRuns (d : Dev) (q : QRef) (cid : Nat) (p : DataPtr) (bs : List Byte) : Dev :=
  let x := (ptrRuns bs.length p).foldl (fun (x : Nat × List Byte × Dev) r =>
    let part := cut bs x.1 r.2
    match d.cmbAddr q.fn r, r.1 with
    | some a, _ => (x.1 + r.2, x.2.1, (x.2.2.bufWrite a part).onBpm fun b => { b with cmbKnown := b.cmbKnown ++ [(a, r.2)] })
    | none, some _ => (x.1 + r.2, x.2.1 ++ part, x.2.2)
    | none, none => (x.1 + r.2, x.2.1, x.2.2)) (0, [], d)
  x.2.2.toHost q cid x.2.1

/-- The capture record of a command that a walk or a fetch ended (R424). -/
def Dev.hstError (d : Dev) (q : QRef) (cid cause object addr : Nat) : Dev :=
  let d := ((d.set HST_ERR_INFO.CAUSE cause).set HST_ERR_INFO.OBJECT object).set HST_ERR_INFO.FUNC q.fn
  let d := (d.set HST_ERR_CMD.SQID q.sqid).set HST_ERR_CMD.CID cid
  let d := (d.setWord HST_ERR_ADDR_LO (BitVec.ofNat 32 addr)).setWord HST_ERR_ADDR_HI
    (BitVec.ofNat 32 (addr / 2 ^ 32))
  let d := d.stamp HST_ERR_INFO.VALID HST_ERR_INFO.SEQ
  if cause = 5 then d.raise HST_INT_STATUS.SGL_LIMIT else d.raise HST_INT_STATUS.WALK_ERR

/-! ### Protection information (R346 to R349, R409) -/

/-- Modulus of the reference tag of an LBA format. -/
def refMod (lbaf : Nat) : Nat := if lbaf = 2 then 2 ^ 48 else 2 ^ 32

/-- The reference tag that the k-th LBA of a command should carry. -/
def PiArgs.expectRef (p : PiArgs) (lbaf lba k : Nat) : Nat :=
  if p.type = 1 then lba % refMod lbaf else if p.type = 2 then (p.ilbrt + k) % refMod lbaf
  else p.ilbrt % refMod lbaf

/-- The check of one LBA's fields: guard, application tag, reference tag (R409). -/
def piCheck (p : PiArgs) (lbaf lba k : Nat) (data : List Byte) (f : Nat × Nat × Nat) : Option Status :=
  if p.chkGuard && f.1 != Config.piGuard lbaf data then some .guardCheck
  else if p.chkApp && f.2.1 &&& p.lbatm != p.lbat &&& p.lbatm then some .appTagCheck
  else if p.chkRef && p.type != 3 && f.2.2 != PiArgs.expectRef p lbaf lba k then some .refTagCheck
  else none

/-- The guard that comes with a write's k-th LBA and is checked: the host's, or, with PRACT, the generated one (R347, R409). -/
def PiArgs.guardOf (p : PiArgs) (lbaf k : Nat) (data : List Byte) : Option Nat :=
  if lbaf = 0 then none else if p.pract then some (Config.piGuard lbaf data)
  else if p.chkGuard then (p.fields[k]?).map Prod.fst else none

/-- The tags that a write stores for its k-th LBA: those the host transfers, or, with PRACT, generated
ones. -/
def PiArgs.stored (p : PiArgs) (lbaf lba k : Nat) : Nat × Nat :=
  if p.pract then (p.lbat, PiArgs.expectRef p lbaf lba k)
  else match p.fields[k]? with
    | some f => (f.2.1, f.2.2)
    | none => (0, 0)

/-- An entry of a tag-store sector (R348). -/
def tagEntry (lbaf : Nat) (t : Nat × Nat) : List Byte :=
  if lbaf = 2 then beBytes 2 t.1 ++ beBytes 6 t.2 else beBytes 2 t.1 ++ [0, 0] ++ beBytes 4 t.2

/-- The tags of an LBA in its tag-store sector. -/
def entryTags (lbaf : Nat) (sector : List Byte) (lba : Nat) : Nat × Nat :=
  let o := 8 * (lba % 512)
  (beAt sector o 2, if lbaf = 2 then beAt sector (o + 2) 6 else beAt sector (o + 4) 4)

/-- A tag-store sector with the entries of a command's LBAs written (R349). -/
def putEntries (lbaf : Nat) (s : Nat) (old : List Byte) (l : List (Nat × Nat × Nat)) : List Byte :=
  l.foldl (fun (b : List Byte) (x : Nat × Nat × Nat) =>
    if x.1 / 512 = s then
      let o := 8 * (x.1 % 512)
      b.take o ++ tagEntry lbaf x.2 ++ b.drop (o + 8)
    else b) (cut old 0 4096)

/-! ### Commands -/

/-- Opcodes that R399 supports. -/
def IoCmd.known : IoCmd → Bool
  | .other _ => false
  | _ => true

/-- The LBAs that a command reads, and those it writes. -/
def Cmd.readLbas (c : Cmd) : List Nat :=
  match c.cmd with
  | .read | .compare _ | .verify | .scanRead _ _ => (List.range c.io.count).map (c.io.slba + ·)
  | .copy _ src => src.flatMap fun s => (List.range s.2).map (s.1 + ·)
  | _ => []

def Cmd.writeCount (c : Cmd) : Nat :=
  match c.cmd with
  | .write _ | .writeZeroes => c.io.count
  | .copy _ src => (src.map Prod.snd).sum
  | _ => 0

def Dev.lbafOf (d : Dev) (nsid : Nat) : Nat := ((d.nsOf nsid).map Ns.lbaf).getD 0

/-- Tag-store sectors of an LBA range. -/
def tagSectors (lba n : Nat) : List Nat := if n = 0 then [] else (List.range ((lba + n - 1) / 512 - lba / 512 + 1)).map (lba / 512 + ·)

/-- Tag-store sectors that a command changes (R349), and those that it reads. -/
def Dev.tagsWritten (d : Dev) (c : Cmd) : List Nat :=
  if d.lbafOf c.io.nsid = 0 then [] else tagSectors c.io.slba c.writeCount

def Dev.tagsRead (d : Dev) (c : Cmd) : List Nat :=
  if d.lbafOf c.io.nsid = 0 then []
  else match c.cmd with
    | .read | .compare _ | .verify => tagSectors c.io.slba c.io.count
    | _ => []

/-- A long operation of a kind runs. -/
def Dev.sanitizing (d : Dev) : Bool := d.band.ops.any fun o => match o.kind with | .sanitize _ _ => true | _ => false

/-- The flags that an open value gives. -/
def freeBit (k : Nat) : Bool := Config.freeValue k % 2 == 1

/-- What the mode in force says of a command (R598, R602, R603, R605): none where it is served. -/
def Dev.modeGate (d : Dev) (c : IoCmd) : Option Status :=
  let w := IoCmd.writes c
  let fl := match c with | .flush => true | _ => false
  match d.mode with
  | .active | .glide | .lightIdle | .deepIdle =>
    if d.seq.spinDown = 0 || fl then none
    else if w || 3 ≤ d.seq.spinDown then some (.namespaceNotReady true) else none
  | .standby => some (if fl then .success else .namespaceNotReady true)
  | .safe =>
    if !d.safeReads then some (.namespaceNotReady true)
    else if w then some .writeProtected
    else if fl then some .success
    else if d.seq.safeStart = 3 then none else some (.namespaceNotReady false)
  | _ => some (.namespaceNotReady false)

/-- The limits of R396, R400, R413 and R414 on a command's fields. -/
def argCheck (a : IoArgs) : IoCmd → Option Status
  | .read | .compare _ | .write _ | .verify => if 512 < a.count then some .invalidField else none
  | .writeZeroes => if 2 ^ 18 < a.count then some .invalidField else none
  | .copy fmt src =>
    if 1 < fmt || 128 < src.length || src.any (fun s => 512 < s.2) || 512 < (src.map Prod.snd).sum then some .invalidField
    else none
  | .scanRead _ len =>
    if a.count = 0 || 2 ^ 18 < a.count || len % 4096 != 0 || 2 ^ 21 < len then some .invalidField else none
  | _ => none

/-- Metadata bytes that an extended LBA moves with its data: none with PRACT, which moves 4,096 bytes per LBA (R408, R409). -/
def Ns.metaBytes (n : Ns) (p : PiArgs) : Nat := if n.lbaf = 0 || !n.extended || p.pract then 0 else 8 * n.lbaf

/-- A command moves data between the host and the controller. -/
def IoCmd.moves : IoCmd → Bool
  | .read | .compare _ | .write _ => true
  | _ => false

/-- A command reaches beyond the namespace (R400). -/
def beyondNs (a : IoArgs) (size : Nat) : IoCmd → Bool
  | .flush | .datasetMgmt | .other _ => false
  | .copy _ src => src.any (fun s => size < s.1 + s.2) || decide (size < a.slba + (src.map Prod.snd).sum)
  | _ => decide (size < a.slba + a.count)

/-- The admission of a fetched command: none where it takes its locks, else the status that ends it
(R398 to R400, R402, R403, R428, R459, R477, R598). -/
def Dev.ioCheck (d : Dev) (fn : Fn) (a : IoArgs) (c : IoCmd) : Option Status :=
  if !IoCmd.known c then some .invalidOpcode
  else if a.fuse ≠ 0 then some .invalidField
  else match d.modeGate c with
    | some st => some st
    | none =>
      let all := a.nsid == 0xFFFF_FFFF && (match c with | .flush => true | _ => false)
      if d.sanitizing then some .sanitizeInProgress
      else if all then none
      else match d.nsOf a.nsid with
        | none => some .invalidNamespace
        | some n =>
          if n.deleting || !n.attached.contains fn then some .invalidNamespace
          else if n.formatting then some .formatInProgress
          else if n.inaccessible || d.ksFenced 0 || d.ksFenced 1 then
            some (.namespaceNotReady (freeBit d.fresh))
          else match argCheck a c with
            | some st => some st
            | none =>
              -- MDTS is 2 MiB (R396, R400)
              if IoCmd.moves c && decide (2 ^ 21 < a.count * (4096 + n.metaBytes a.pi)) then some .invalidField
              else if beyondNs a n.nsze c then some .lbaOutOfRange else none

/-- A rejected descriptor: its record and interrupt (R509). -/
def Dev.scanRejected (d : Dev) (fn : Fn) (r : Nat × Nat) : Dev :=
  ((((d.set SCN_REJ_INFO.REASON r.1).set SCN_REJ_INFO.FUNC fn).set SCN_REJ_INFO.BYTE r.2).stamp
    SCN_REJ_INFO.VALID SCN_REJ_INFO.SEQ).raise SCN_INT_STATUS.REJECT

/-- What the scan engine says of a Scan Read before its first media request (R414, R505, R509, SCN_CTRL). -/
def Dev.scanCheck (d : Dev) (q : QRef) (a : IoArgs) (c : IoCmd) : Dev × Option Status :=
  match c with
  | .scanRead desc _ =>
    if !d.on SCN_CTRL.EN || !d.islandUp 19 then (d, some .internalError)
    else if d.lbafOf a.nsid != 0 then (d, some .invalidField)
    else match scnReject desc with
      | some r => (d.scanRejected q.fn r, some .invalidField)
      | none => (d, none)
  | _ => (d, none)

/-- A fetched command is admitted (R426 to R430): it takes its fetch number and its lock entries. -/
def Dev.takeCmd (d : Dev) (q : QRef) (e : Sqe) : Dev :=
  let f : Word := d.word QUE_FETCH_NUM + 1
  let d := d.setWord QUE_FETCH_NUM f
  match d.ioCheck q.fn e.io e.cmd with
  | some st => { d with fresh := d.fresh + 1 }.post q e.io.cid st
  | none =>
    let (d, r) := d.scanCheck q e.io e.cmd
    match r with
    | some st => d.post q e.io.cid st
    | none =>
      match e.cmd with
      | .datasetMgmt => d.post q e.io.cid .success
      | .flush =>
        let older := (d.que.cmds.filter fun x => IoCmd.writes x.cmd &&
          (e.io.nsid == 0xFFFF_FFFF || x.io.nsid == e.io.nsid)).map Cmd.f
        let c : Cmd := { f := f, q := q, io := e.io, cmd := e.cmd, stage := .settle, issued := d.now, waits := older }
        ((d.onQue fun t => { t with cmds := t.cmds ++ [c] }).showQue).settled
      | _ =>
        let c : Cmd := { f := f, q := q, io := e.io, cmd := e.cmd, stage := .lock, issued := d.now }
        (d.onQue fun t => { t with cmds := t.cmds ++ [c], locks := t.locks ++ lockEntries f e.io e.cmd }).showQue

/-! ### Fetch (R425, R432) -/

def Dev.sqOf (d : Dev) (q : QRef) : Option Sq := d.hst.fns[q.fn].sqs.find? fun s => s.qid == q.sqid

def Dev.onSq (d : Dev) (q : QRef) (f : Sq → Sq) : Dev :=
  d.onFn q.fn fun t => { t with sqs := t.sqs.map fun s => if s.qid = q.sqid then f s else s }

/-- The fetch arbiter runs. -/
def Dev.fetching (d : Dev) (fn : Fn) : Bool :=
  d.clocked 2 && d.admits fn && d.on QUE_CTRL.EN && !d.on QUE_CTRL.FETCH_STOP && decide (d.que.cmds.length < 8192)

/-- The weight of a class in the Arbitration feature: its byte plus 1 (PRESUMED, log entry 139). -/
def FnSt.weight (t : FnSt) (cls : Nat) : Nat :=
  ((t.feats.find? fun x => x.1 == 1).map Prod.snd).getD 0 / 2 ^ (8 * (4 - cls)) % 256 + 1

/-- The class that weighted round robin serves among those that have entries: urgent before all; then the highest whose
entries of the round are not used up, a new round beginning where none is (R425; PRESUMED, log entry 139). -/
def FnSt.nextClass (t : FnSt) (ready : List Nat) : Option Nat :=
  if ready.contains 0 then some 0
  else
    let cs := [1, 2, 3].filter ready.contains
    (cs.find? fun c => t.credits.toList.getD c 0 != 0).or cs.head?

/-- A queue has been served: the round robins go on after it. -/
def FnSt.serve (t : FnSt) (s : Sq) : FnSt :=
  let t := { t with lastSq := s.qid }
  if !t.weighted then t
  else
    let c : Fin 4 := ⟨s.prio % 4, by omega⟩
    let full : Vector Nat 4 := Vector.ofFn fun k => t.weight k
    let credits := if c = 0 then t.credits else if t.credits[c] = 0 then full else t.credits
    { t with lastOf := t.lastOf.set c s.qid, credits := if c = 0 then credits else credits.set c (credits[c] - 1) }

/-- The queue of a function that the arbiter takes next, of those with an entry: round robin, in the class that CC.AMS selects
(R425). -/
def FnSt.nextSq (t : FnSt) : Option Nat :=
  let ready := t.sqs.filter fun s => !s.entries.isEmpty
  let turn := fun (last : Nat) (l : List Nat) =>
    let low := fun (l : List Nat) => l.foldl (fun b n => match b with | some m => some (min m n) | none => some n) none
    (low (l.filter fun n => decide (last < n))).or (low l)
  if !t.weighted then turn t.lastSq (ready.map Sq.qid)
  else (t.nextClass (ready.map fun s => s.prio % 4)).bind fun c =>
    turn (t.lastOf.toList.getD c 0) ((ready.filter fun s => s.prio % 4 == c).map Sq.qid)

/-- Fetch the oldest entry of a queue; LOCK_FULL where its entries do not fit (R432). -/
def Dev.fetchFrom (d : Dev) (q : QRef) : Dev :=
  match d.sqOf q with
  | none => d
  | some s => match s.entries with
    | [] => d
    | e :: t =>
      let used := d.que.locks.length + d.band.barriers
      if 8192 < used + (lockEntries 0 e.io e.cmd).length then d.raise QUE_INT_STATUS.LOCK_FULL
      else
        let d := d.onSq q fun s => { s with entries := t }
        let d := (d.onHst fun h => { h with last := q.fn }).onFn q.fn fun x => x.serve s
        d.takeCmd q e

/-- A submission doorbell: the entries become visible, up to the queue's size, and an idle mode ends (R21,
R609). -/
def Dev.doorbell (d : Dev) (q : QRef) (es : List Sqe) : Dev :=
  match d.sqOf q with
  | none => d
  | some s =>
    if d.hst.perst || q.sqid = 0 then d
    else
      let d := d.onSq q fun s => { s with entries := s.entries ++ es.take (s.size - 1 - s.entries.length) }
      let d := d.when (s.size != 0) (·.enableFn q.fn)
      d.idleExit

/-- The queue that the arbiter serves next (R425): of the next function in turn with a visible entry. -/
def Dev.nextQueue (d : Dev) : Option QRef :=
  let fns := (List.range 64).map fun k => (⟨(d.hst.last.val + 1 + k) % 64, by omega⟩ : Fn)
  match fns.find? fun f => d.fetching f && d.hst.fns[f].nextSq.isSome with
  | some f => d.hst.fns[f].nextSq.map fun n => ⟨f, n⟩
  | none => none

/-- An I/O command's row: the host makes it visible, and where the arbiter runs it is fetched. -/
def Dev.ioCommand (d : Dev) (q : QRef) (a : IoArgs) (c : IoCmd) : Dev :=
  let d := d.doorbell q [⟨a, c⟩]
  if d.fetching q.fn then d.fetchFrom q else d

/-! ### After the lock (R433, R435, R436, R439) -/

/-- What mapping a sector gives: none where it can be reached, else the status that ends the command (R335,
R355, R365, R387, R541, R633). -/
def Dev.mapCheck (d : Dev) (nsid kind l : Nat) (write : Bool) : Option Status :=
  match d.place nsid l kind with
  | none => some (if write then .writeFault else .unrecoveredRead)
  | some p =>
    if d.grpFenced p.grp then (if write then none else some (.namespaceNotReady false))
    else if d.grpState p.grp = gsOffline then some (if write then .writeFault else .unrecoveredRead)
    else if !write && kind == 0 && d.isLost nsid l then some .unrecoveredRead
    else none

/-- The protection-information fields of a command, with the type of its namespace (R346). -/
def Dev.piOf (d : Dev) (c : Cmd) : PiArgs := { c.io.pi with type := ((d.nsOf c.io.nsid).map Ns.piType).getD 0 }

/-- Sectors that a command reads, by kind: data, and tags where the namespace carries protection
information; a write reads the tag-store sectors that it changes (R349). -/
def Dev.wanted (d : Dev) (c : Cmd) : List (Nat × Nat) :=
  (c.readLbas.map fun l => (0, l)) ++ ((d.tagsRead c ++ d.tagsWritten c).dedup.map fun s => (1, s))

/-- Split the wanted sectors: those held are delivered (R435), the rest are needed from the media; the
first that cannot be reached ends the command, but for a Scan Read, whose scan ends there (R515). -/
def Dev.lookUp (d : Dev) (c : Cmd) : Cmd :=
  (d.wanted c).foldl (fun (c : Cmd) x =>
    match d.heldAt c.io.nsid x.2 x.1 with
    | some h => { c with got := c.got ++ [(x.1, x.2, if h.zero then zeroSector else h.data)] }
    | none =>
      match d.mapCheck c.io.nsid x.1 x.2 false with
      | none => { c with need := c.need ++ [x] }
      | some st => if c.isScan then c else { c with err := c.err.or (some st) }) c

/-- The first LBA that a write cannot reach ends it, or the first tag-store sector that it changes (R365, R633). -/
def Dev.writeCheck (d : Dev) (c : Cmd) : Option Status :=
  (((List.range c.writeCount).map fun k => (0, c.io.slba + k)) ++ (d.tagsWritten c).map fun t => (1, t)).foldl
    (fun (e : Option Status) (x : Nat × Nat) => e.or (d.mapCheck c.io.nsid x.1 x.2 true)) none

/-- Buffers that a command asks for (R436, R439); a Scan Read takes at most those of one ALLOC, and its sectors pass through
them in turn (R485, R514; DESIGN CHOICE, log entry 144). -/
def Dev.bufsWanted (d : Dev) (c : Cmd) : Nat :=
  if IoCmd.writes c.cmd then
    (c.writeCount + 15) / 16 + ((d.tagsWritten c).filter fun s => (d.heldAt c.io.nsid s 1).isNone).length
  else match c.cmd with
    | .scanRead _ _ => min 64 ((c.io.count + 15) / 16)
    | _ => (c.io.count + 15) / 16

/-- Whom a command's buffers are asked for: its function, or the scan engine (R485, R514). -/
def Cmd.requester (c : Cmd) : Nat := if c.isScan then 70 else c.q.fn

/-- The buffer that the k-th sector of a read stands in. -/
def Cmd.bufAt (c : Cmd) (k : Nat) : Option Nat := c.bufs[k / 16 % c.bufs.length]?

/-- The data of a sector stands in its buffer. -/
def Dev.fillBuf (d : Dev) (buf ix : Nat) (data : List Byte) : Dev :=
  d.bufWrite (buf * 65536 + ix % 16 * 4096) data

/-- A command's sectors join the held portion: its data, its zeroes, or what it copies, with the tag-store
sectors that it changes; listed LBAs leave the lost-block table (R22 step 5, R349, R387). -/
def Dev.holdAll (d : Dev) (c : Cmd) (data : List (List Byte)) (zero : Bool) : Dev :=
  let n := c.writeCount
  let lbaf := d.lbafOf c.io.nsid
  let d := d.each (List.range n) fun k d =>
    let b := c.bufs.getD (k / 16) 0
    let x := if zero then zeroSector else cut (data.getD k []) 0 4096
    (d.fillBuf b k x).hold
      { nsid := c.io.nsid, lba := c.io.slba + k, kind := 0, zero := zero, data := x, f := c.f, buf := b,
        guard := if zero then none else PiArgs.guardOf (d.piOf c) lbaf k x }
  let tags := d.tagsWritten c
  let entries := (List.range n).map fun k => (c.io.slba + k, PiArgs.stored (d.piOf c) lbaf (c.io.slba + k) k)
  let free := c.bufs.drop ((n + 15) / 16)
  let d := d.each tags.zipIdx fun p d =>
    let old := match d.heldAt c.io.nsid p.1 1 with
      | some h => h.data
      | none => ((c.got.find? fun g => g.1 == 1 && g.2.1 == p.1).map fun g => g.2.2).getD []
    let b := match d.heldAt c.io.nsid p.1 1 with
      | some h => h.buf
      | none => free.getD p.2 (free.headD 0)
    let x := putEntries lbaf p.1 old entries
    (d.fillBuf b p.2 x).hold
      { nsid := c.io.nsid, lba := p.1, kind := 1, zero := false, data := x, f := c.f, buf := b }
  ((d.dropLost c.io.nsid c.io.slba n).showHeld)

/-- A write's data is held: its completion at once, or, with FUA or without the write cache, after the
media (R22, R401, R433). -/
def Dev.afterHold (d : Dev) (c : Cmd) : Dev :=
  let vwc := ((d.hst.feats.find? fun x => x.1 == 6).map Prod.snd).getD 1 != 0
  let wait := match c.cmd with
    | .copy _ _ => c.io.fua
    | _ => c.io.fua || !vwc
  if wait then (d.onCmd c.f fun x => { x with stage := .settle }).settled else d.finish c .success

/-- Plaintext of the k-th LBA of a read. -/
def Cmd.dataAt (c : Cmd) (k : Nat) : List Byte :=
  ((c.got.find? fun g => g.1 == 0 && g.2.1 == c.io.slba + k).map fun g => g.2.2).getD []

/-- The protection information of the k-th LBA of a read: the guard that SEC computes, and the stored tags (R347, R348). -/
def Dev.readTags (d : Dev) (c : Cmd) (k : Nat) : Nat × Nat × Nat :=
  let lbaf := d.lbafOf c.io.nsid
  let lba := c.io.slba + k
  let sec := ((c.got.find? fun g => g.1 == 1 && g.2.1 == lba / 512).map fun g => g.2.2).getD []
  (Config.piGuard lbaf (c.dataAt k), entryTags lbaf sec lba)

/-- The protection-information check of a read (R347, R409). -/
def Dev.readPi (d : Dev) (c : Cmd) : Option Status :=
  let lbaf := d.lbafOf c.io.nsid
  if lbaf = 0 then none
  else (List.range c.io.count).foldl (fun (e : Option Status) k =>
    e.or (piCheck (d.piOf c) lbaf (c.io.slba + k) k (c.dataAt k) (d.readTags c k))) none

/-- A command whose sectors have all come: a failure ends it; else a Verify completes, a Copy is held, a
read goes to its transfer, and a write that read tag-store sectors waits for its data. -/
def Dev.cmdAdvance (d : Dev) (f : Word) : Dev :=
  match d.cmdOf f with
  | none => d
  | some c =>
    if !c.need.isEmpty then d
    else match c.err, c.cmd with
      | some st, _ => d.finish c st
      | none, .verify =>
        match d.readPi c with
        | some st => (d.raise HST_INT_STATUS.PI_ERR).finish c st
        | none => d.finish c .success
      | none, .copy _ _ =>
        let data := c.readLbas.map fun l => ((c.got.find? fun g => g.1 == 0 && g.2.1 == l).map fun g => g.2.2).getD []
        (d.holdAll c data false).afterHold c
      | none, .write _ => d
      | none, .writeZeroes => (d.holdAll c [] true).afterHold c
      | none, _ =>
        let d := d.each (c.got.filter fun g => g.1 == 0) fun g d =>
          match c.bufAt (g.2.1 - c.io.slba) with
          | some b => d.fillBuf b (g.2.1 - c.io.slba) g.2.2
          | none => d
        d.onCmd f fun c => { c with stage := .transfer }

/-- Media requests of a command, or what follows where it needs none. -/
def Dev.startMedia (d : Dev) (f : Word) : Dev :=
  match d.cmdOf f with
  | none => d
  | some c =>
    if c.need.isEmpty then d.cmdAdvance f
    else
      let kind := match c.cmd with | .verify => 2 | _ => 0
      let d := match c.cmd with
        | .write _ => d
        | _ => d.onCmd f fun c => { c with stage := .media }
      (d.demand (c.need.filter fun x => x.1 == 0).length).queueReads c kind

/-- Buffers for a read: taken at once where its requester's quota has room (R439, R514). -/
def Dev.readBufs (d : Dev) (c : Cmd) : Dev :=
  let (st, l, d) := d.alloc c.requester (d.bufsWanted c) false
  if st = bpmOk then (d.onCmd c.f fun c => { c with bufs := l }).startMedia c.f
  else d.onCmd c.f fun c => { c with stage := .buffer }

/-- A Scan Read takes a context, and then its buffers, or waits for one (R513, R514). -/
def Dev.takeContext (d : Dev) (f : Word) : Dev :=
  if 64 ≤ d.contexts then d.onCmd f fun c => { c with stage := .context }
  else
    let d := d.onCmd f fun c => { c with stage := .media }
    let d := d.set SCN_STATUS.CONTEXTS d.contexts
    match d.cmdOf f with
    | some c => d.readBufs c
    | none => d

/-- A command's locks are granted together (R431), and it maps its sectors (R355). -/
def Dev.grantLocks (d : Dev) (f : Word) : Dev :=
  match d.cmdOf f with
  | none => d
  | some c =>
    if c.stage != .lock || !d.grantable f then d
    else
      let d := d.onQue fun q =>
        { q with locks := q.locks.map (fun l => if l.f = f then { l with granted := true } else l), turn := q.turn + 1 }
      let c := { c with turn := d.que.turn }
      let c := match IoCmd.writes c.cmd, d.writeCheck c with
        | true, some st => { c with err := some st }
        | _, _ => d.lookUp c
      let d := d.onCmd f fun _ => c
      match c.err with
      | some st => d.finish c st
      | none =>
        match c.cmd with
        | .scanRead _ _ => d.takeContext f
        | cmd => if IoCmd.writes cmd then d.onCmd f fun c => { c with stage := .buffer } else d.readBufs c

/-- The write request of a function that is served next: the one whose locks were granted first (R438). -/
def Dev.oldestWrite (d : Dev) (fn : Fn) : Option Cmd :=
  (d.que.cmds.filter fun c => c.q.fn == fn && c.stage == .buffer && IoCmd.writes c.cmd).foldl
    (fun (b : Option Cmd) c => match b with
      | some x => if c.turn < x.turn then some c else some x
      | none => some c) none

/-- A write's request for buffers fits its quota, and the held-portion limit (R314, R436). -/
def Dev.writeFits (d : Dev) (c : Cmd) : Bool :=
  d.allocStatus c.q.fn (2 * d.bufsWanted c) == bpmOk && decide (d.heldBufs + d.bufsWanted c ≤ d.heldLimit)

/-- The write request that the room goes to (R438). -/
def Dev.nextWrite (d : Dev) : Option Cmd :=
  let fns := (List.range 64).map fun k => (⟨(d.que.servedFn.val + 1 + k) % 64, by omega⟩ : Fn)
  (fns.filterMap d.oldestWrite).find? d.writeFits

/-- No write request is granted during a spin-down, the preparation of a warm reset, or COAST_FLUSH
(R440, R581), nor while restored extents are held, whose flush area cannot be written again (R330). -/
def Dev.writesHeld (d : Dev) : Bool :=
  d.que.held.any Held.restored || d.seq.spinDown != 0 || d.seq.prep != 0 || d.mode == .coastFlush

/-- Grant a command's buffers (R436, R438, R439). -/
def Dev.grantBuffers (d : Dev) (f : Word) : Dev :=
  match d.cmdOf f with
  | none => d
  | some c =>
    if c.stage != .buffer then d
    else if !IoCmd.writes c.cmd then d.readBufs c
    else if d.writesHeld || (d.nextWrite.map Cmd.f) != some f then d
    else
      let (_, l, d) := d.alloc c.q.fn (d.bufsWanted c) true
      let d := d.onQue fun q => { q with servedFn := c.q.fn }
      let d := d.onCmd f fun c => { c with bufs := l, stage := .data }
      ((d.demand c.writeCount).showHeld).startMedia f

/-- Metadata bytes per LBA of a command's transfer. -/
def Dev.metaOf (d : Dev) (c : Cmd) : Nat := ((d.nsOf c.io.nsid).map fun n => n.metaBytes c.io.pi).getD 0

/-- The check of the protection information that the host transfers, with PRACT = 0 (R409). -/
def Dev.hostPi (d : Dev) (c : Cmd) (data : List (List Byte)) : Option Status :=
  let lbaf := d.lbafOf c.io.nsid
  if lbaf = 0 || c.io.pi.pract then none
  else (List.range c.io.count).foldl (fun (e : Option Status) k =>
    e.or (piCheck (d.piOf c) lbaf (c.io.slba + k) k (data.getD k []) (c.io.pi.fields.getD k (0, 0, 0)))) none

/-- The write data of a command has arrived in its buffers and is checked and held (R22 steps 4 to 6, R409,
R423). -/
def Dev.dataHeld (d : Dev) (f : Word) : Dev :=
  match d.cmdOf f with
  | none => d
  | some c =>
    match c.cmd with
    | .write data =>
      if c.stage != .data || !c.need.isEmpty then d
      else match walk true ((4096 + d.metaOf c) * c.io.count) c.io.ptr with
        | some (st, cause, object) => (d.hstError c.q c.io.cid cause object 0).finish c st
        | none =>
          let lbaf := d.lbafOf c.io.nsid
          let (data, fields) := d.hostData c.q.fn c.io lbaf (d.metaOf c) data
          let c := { c with io := { c.io with pi := { c.io.pi with fields := fields } } }
          match d.hostPi c data with
          | some st => (d.raise HST_INT_STATUS.PI_ERR).finish c st
          | none => ((d.holdAll c data false).count 0x40A none c.io.count).afterHold c
    | _ => d

/-- A read moves its data, and without PRACT the protection information, in the LBAs or through the metadata pointer (R408,
R409). -/
def Dev.moveRead (d : Dev) (c : Cmd) : Dev :=
  let lbaf := d.lbafOf c.io.nsid
  let m := d.metaOf c
  let bs := (List.range c.io.count).flatMap fun k => c.dataAt k ++ cut (piBytes lbaf (d.readTags c k)) 0 m
  let d' := d.toRuns c.q c.io.cid c.io.ptr bs
  if lbaf = 0 || c.io.pi.pract || m != 0 then d'
  else d'.toHost c.q c.io.cid ((List.range c.io.count).flatMap fun k => piBytes lbaf (d.readTags c k))

/-- A Scan Read ends: the elements of the LBAs before the ending point (R511, R515). -/
def Dev.scanEnd (d : Dev) (c : Cmd) (desc : List Byte) (len : Nat) : Dev :=
  let lbas := (List.range c.io.count).map fun k =>
    (c.io.slba + k, (c.got.find? fun g => g.1 == 0 && g.2.1 == c.io.slba + k).map fun g => g.2.2)
  let (es, n, stop) := scanRun desc len lbas
  let d := (d.toRuns c.q c.io.cid c.io.ptr es.flatten).count 0x409 none n
  let d := d.when stop (·.raise SCN_INT_STATUS.UNREC_STOP)
  d.finish c (if stop then .unrecoveredRead else .success) es.length n

/-- Sectors that a command has read and whose bytes in its buffers are poisoned: a granule is, or the pseudo-channel is
fenced (R465, R466). -/
def Dev.poisoned (d : Dev) (c : Cmd) : List Nat :=
  (List.range c.io.count).filter fun k => (c.got.any fun g => g.1 == 0 && g.2.1 == c.io.slba + k) && match c.bufAt k with
    | some b => d.pcFenced (bufPc b) || d.mem.poison.any fun g => g / 128 == 16 * b + k % 16
    | none => false

/-- A command without the data of some of its sectors. -/
def Cmd.forget (c : Cmd) (bad : List Nat) : Cmd :=
  { c with got := c.got.filter fun x => !(x.1 == 0 && bad.any fun k => x.2.1 == c.io.slba + k) }

/-- The buffers of a command that lie in fenced pseudo-channels go back, and others are taken in their places. -/
def Dev.replaceBufs (d : Dev) (c : Cmd) : Dev :=
  let bad := c.bufs.filter fun b => d.pcFenced (bufPc b)
  let (st, l, d) := d.alloc c.requester bad.length false
  if bad.isEmpty || st != bpmOk then d
  else
    let new := c.bufs.map fun b => ((bad.zip l).find? fun x => x.1 == b).elim b Prod.snd
    (d.onCmd c.f fun c => { c with bufs := new }).freeUnused bad

/-- Sectors of a host read whose buffered data is poisoned come again: from the held portion, else from the media (R465). -/
def Dev.readAgain (d : Dev) (c : Cmd) (bad : List Nat) : Dev :=
  let d := d.replaceBufs c
  let lbas := bad.map (c.io.slba + ·)
  let c := { (c.forget bad) with again := c.again ++ bad, bufs := ((d.cmdOf c.f).map Cmd.bufs).getD c.bufs }
  let c := lbas.foldl (fun (c : Cmd) l => match d.heldAt c.io.nsid l 0 with
    | some h => { c with got := c.got ++ [(0, l, if h.zero then zeroSector else h.data)] }
    | none => { c with need := c.need ++ [(0, l)] }) c
  ((d.onCmd c.f fun _ => c).startMedia c.f)

/-- A read's data has been moved to the host (R21 steps 11 and 12); a Compare compares it. -/
def Dev.transferred (d : Dev) (f : Word) : Dev :=
  match d.cmdOf f with
  | none => d
  | some c =>
    if c.stage != .transfer then d
    else
      let bad := d.poisoned c
      -- what a scan finds poisoned twice cannot be delivered to it (R515)
      let (twice, once) := bad.partition fun k => c.isScan && c.again.contains k
      if !once.isEmpty then d.readAgain c once
      else
      let c := c.forget twice
      let bytes := match c.cmd with | .scanRead _ len => len | _ => (4096 + d.metaOf c) * c.io.count
      match walk (match c.cmd with | .compare _ => true | _ => false) bytes c.io.ptr with
      | some (st, cause, object) => (d.hstError c.q c.io.cid cause object 0).finish c st
      | none =>
        match c.cmd with
        | .scanRead desc len => d.scanEnd c desc len
        | .compare data =>
          let (data, fields) := d.hostData c.q.fn c.io (d.lbafOf c.io.nsid) (d.metaOf c) data
          let same := (List.range c.io.count).all fun k => c.dataAt k == cut (data.getD k []) 0 4096
          match (d.readPi c).or (d.hostPi { c with io := { c.io with pi := { c.io.pi with fields := fields } } } data) with
          | some st => (d.raise HST_INT_STATUS.PI_ERR).finish c st
          | none => d.finish c (if same then .success else .compareFailure)
        | _ =>
          match d.readPi c with
          | some st => (d.raise HST_INT_STATUS.PI_ERR).finish c st
          | none =>
            ((d.moveRead c).count 0x409 none c.io.count).finish c .success

end Sys2Proof.Machine
end

