-- ==== Sys2Proof/Machine/SchedOps.lean ====
section
/-! DEFINITION. The group schedulers (R9, R441 to R450): the choice of the next request, destage (R22, R444),
posting to the formatter, and the end of a request as QUE takes it. -/

namespace Sys2Proof.Machine

/-! ### The cost of a request (R443) -/

/-- The wedge at which slot k of a cylinder begins (R56, R57, R59). -/
def Dev.slotWedge (d : Dev) (g : Grp) (cyl k : Nat) : Nat :=
  let z := d.zone g (d.zoneIx g cyl)
  let stream := z.cpr / d.nw - z.srvCells - 64
  (cyl * z.skewW + (if stream = 0 then 0 else k * 37104 / stream)) % max d.nw 1

/-- QUE_SEEK_EST for a distance in cylinders, µs. -/
def Dev.seekEst (d : Dev) (dist : Nat) : Nat :=
  d.get QUE_SEEK_EST.US 0 (if dist = 0 then 0 else min 20 (Nat.log2 dist + 1))

/-- The cost of a request in wedges. -/
def Dev.cost (d : Dev) (g : Grp) (cyl sect : Nat) : Nat :=
  let nw := max d.nw 1
  -- the sample expects the wedge that follows the one under the heads
  let n0 := (d.srv[g].wedge + nw - 1) % nw
  let r := (d.slotWedge g cyl sect + 2 * nw - n0 - 1) % nw
  let at_ := d.srv[g].target
  let dist := if at_ ≤ cyl then cyl - at_ else at_ - cyl
  -- t × 960,000,000, with the speed in 1/16 rpm
  let t := d.seekEst dist * nw * d.get SPN_SPEED.SPEED
  let one := 960000000
  if t ≤ r * one then r else r + nw * ((t - r * one + nw * one - 1) / (nw * one))

/-! ### Destage (R22 step 7, R363, R444) -/

/-- A copy of a held sector lies in a fenced pseudo-channel (R466). -/
def Dev.halfHeld (d : Dev) (h : Held) : Bool := d.pcFenced (bufPc h.buf) || d.pcFenced (bufPc (h.buf ^^^ 1))

/-- The destage that comes next in a group: of its oldest held sector that no intent covers, one whose copy a fence has taken
ahead of the others (R466), with the
neighbouring welts of its track that hold more; none in SAFE, nor in a MAKER_SERVICE entered from it until it is
left (R604, R605). -/
def Dev.nextDestage (d : Dev) (g : Grp) : Option (Nat × Nat) :=
  let left := d.mode == .makerService && d.get SYS_MODE.PREV == Mode.safe.code && d.seq.prep == 0
  if d.mode == .safe || left then none
  else
    let places := (d.que.held.filter d.halfHeld ++ d.que.held.filter fun h => !d.halfHeld h).filterMap fun h =>
      match d.place h.nsid h.lba h.kind with
      | some p => if p.grp = g && (d.intentFor g p.welt).isNone then some p else none
      | none => none
    match places with
    | [] => none
    | p :: _ =>
      let ws := ((places.filter fun q => q.cyl == p.cyl && q.band == p.band).map Place.welt).dedup
      let up := ((List.range 1024).takeWhile fun k => ws.contains (p.welt + k)).length
      let down := ((List.range p.welt).takeWhile fun k => ws.contains (p.welt - 1 - k)).length
      some (p.welt - down, down + up)

/-- A destage is chosen: its intent is opened (R373 step 1). -/
def Dev.destage (d : Dev) (g : Grp) (first count : Nat) : Dev :=
  d.openIntent g first count (d.membersAt g first &&& d.presentMask g)

/-! ### The choice (R443, R444) -/

/-- A destage's write, or the read ahead of it. -/
def MediaReq.isDestage (m : MediaReq) : Bool :=
  match m.why with | .welts _ _ | .fill _ _ => true | _ => false


/-- What the scheduler chooses: a request of the list, or to open a destage. -/
inductive Choice where
  | req (m : MediaReq)
  | destage (first count : Nat)
  | none
  deriving DecidableEq, Repr

/-- The cheapest of a list, the older on a tie. -/
def Dev.cheapest (d : Dev) (g : Grp) (l : List MediaReq) : Option MediaReq :=
  l.foldl (fun b m => match b with
    | some x => if d.cost g m.req.cyl m.req.sect < d.cost g x.req.cyl x.req.sect then some m else some x
    | none => some m) none

/-- The oldest of a list. -/
def oldestReq (l : List MediaReq) : Option MediaReq :=
  l.foldl (fun b m => match b with
    | some x => if m.age < x.age then some m else some x
    | none => some m) none

/-- The part of a flush that a request writes: 0 directory, 1 data, 2 trailer; 3 for any other (R327). -/
def MediaReq.part (m : MediaReq) : Nat := match m.why with | .flush p => p | _ => 3

/-- The requests that may be positioned for now: the flush alone while power fails (R326, R187), in the order of its parts (R327),
and on the cylinder of a request that still holds the group (R446). -/
def Dev.eligibleReqs (d : Dev) (g : Grp) : List MediaReq :=
  let q := d.grpq[g]
  let l := (q.list.filter fun m => !(d.pwrfail || d.mode == .coastFlush) || m.isFlush).take 32
  let part := ((q.list ++ q.posted).map MediaReq.part).foldl min 3
  let l := l.filter fun m => decide (m.after ≤ d.now) && (!m.isFlush || m.part == part)
  match q.posted.getLast? with
  | some p => if q.released && !q.reread then l else l.filter fun m => m.req.cyl == p.req.cyl
  | none => l

/-- The choice of R443 and R444. H is compared with LO and HI over 256 of L'. -/
def Dev.choose (d : Dev) (g : Grp) : Choice :=
  let l := d.eligibleReqs g
  let h := 256 * d.heldBufs
  let lim := d.heldLimit
  let low := decide (h < d.get QUE_DESTAGE_CFG.LO * lim)
  let high := decide (d.get QUE_DESTAGE_CFG.HI * lim < h)
  let dst := if d.grpq[g].posted.isEmpty && !d.pwrfail && d.mode != .coastFlush then d.nextDestage g else Option.none
  let age := atLeast1 (d.get QUE_SCHED_CFG.AGE_MS) * 1000
  let window := min 32 (atLeast1 (d.get QUE_SCHED_CFG.WINDOW))
  let aged := l.filter fun m => !m.isDestage && decide (m.since + age < d.now)
  let others := l.filter fun m => !m.isDestage
  let dests := l.filter MediaReq.isDestage
  let ofReq := fun (o : Option MediaReq) => match o with | some m => Choice.req m | Option.none => Choice.none
  let commit := l.find? fun m => match m.why with | .journal _ => true | _ => false
  -- a destage not yet opened, against the best of a list
  let withDst := fun (o : Option MediaReq) => match dst, o with
    | some (w, n), some m =>
      let (c, k) := d.locate g w
      if d.cost g c k < d.cost g m.req.cyl m.req.sect then Choice.destage w n else Choice.req m
    | some (w, n), Option.none => Choice.destage w n
    | Option.none, o => ofReq o
  match commit with
  | some m => .req m
  | Option.none =>
    match oldestReq aged with
    | some m => .req m
    | Option.none =>
      if high && (dst.isSome || !dests.isEmpty) then
        match d.cheapest g dests with
        | some m => .req m
        | Option.none => withDst Option.none
      else if low && !others.isEmpty then ofReq (d.cheapest g (others.take window))
      else withDst (d.cheapest g (l.take window))

/-- Issue a positioning request (R9, R220). -/
def Dev.issueReq (d : Dev) (g : Grp) (m : MediaReq) : Dev :=
  (d.onGrpq g fun q => { q with list := q.list.filter fun (x : MediaReq) => x.no != m.no }).handRequest g m

/-- A group reads or writes: a request of it is issued or posted. -/
def Dev.groupBusy (d : Dev) (g : Grp) : Bool := d.grpq[g].active.isSome || !d.grpq[g].posted.isEmpty

/-- The power state lets a group begin to read or write (R608). A flush is under no such limit. -/
def Dev.groupAllowed (d : Dev) (g : Grp) : Bool :=
  d.groupBusy g || d.mode == .coastFlush ||
    decide (((List.finRange 4).filter fun (x : Grp) => d.groupBusy x).length < 4 - d.limitPs)

/-- The scheduler of a group chooses its next request (R443 to R446). -/
def Dev.schedule (d : Dev) (g : Grp) : Dev :=
  if !d.on QUE_CTRL.EN || !d.islandUp 2 || d.grpq[g].active.isSome || !d.loaded g || d.grpFenced g || !d.groupAllowed g then d
  else
    let d := d.when (decide (d.get QUE_DESTAGE_CFG.HI * d.heldLimit < 256 * d.heldBufs) && d.heldBufs != 0)
      (·.raise QUE_INT_STATUS.DESTAGE_HI)
    match d.choose g with
    | .req m => d.issueReq g m
    | .destage w n => d.destage g w n
    | .none => d

/-! ### Posting (R180, R181) -/

/-- Held sectors of a run of welts. -/
def Dev.heldSects (d : Dev) (g : Grp) (first count : Nat) : List Held :=
  d.que.held.filter fun h => match d.place h.nsid h.lba h.kind with
    | some p => p.grp == g && decide (first ≤ p.welt) && decide (p.welt < first + count)
    | none => false

/-- What a destage writes of them: namespace, LBA, kind, fetch number. -/
def Dev.heldIn (d : Dev) (g : Grp) (first count : Nat) : List (Nat × Nat × Nat × Word) :=
  (d.heldSects g first count).map fun h => (h.nsid, h.lba, h.kind, h.f)

/-- The welts of a request. -/
def Dev.reqWelts (d : Dev) (g : Grp) (m : MediaReq) : Nat × Nat := (d.weltAt g m.req.cyl m.req.sect, m.req.count)

/-- The issued request goes to the formatter: the servo has latched it (R220), the formatter's next-request place is empty, the
group is on track at the request's cylinder, and while PWRFAIL_L is low only FLUSH is admitted (R187). -/
def Dev.postReq (d : Dev) (g : Grp) : Dev :=
  match d.grpq[g].active with
  | none => d
  | some m =>
    if d.fmt[g].next.isSome || d.srv[g].request.isSome || !d.onCyl g m.req.cyl || d.fmtState g == fsOff || (d.pwrfail && m.req.kind != 4) then d
    else
      let held := match m.why with
        | .welts _ _ => let (w, n) := d.reqWelts g m; d.heldIn g w n
        | _ => []
      let d := d.onGrpq g fun q =>
        { q with active := none, posted := q.posted ++ [m], released := false, writing := q.writing ++ held }
      (d.onFmt g fun f => { f with next := some m.req }).showGrpq g

/-! ### Events from the formatter -/

/-- The oldest event of a formatter, taken where it is the one named. -/
def Dev.takeEvt (d : Dev) (g : Grp) (e : FmtEvt) : Option Dev :=
  match d.fmt[g].evts with
  | x :: t => if x = e then some (d.onFmt g fun f => { f with evts := t }) else none
  | [] => none

/-! ### Outcomes to commands (R21, R345, R350, R447, R450) -/

/-- Give a sector's outcome to a command that needs it; the verdict of a VERIFY request to no other than a Verify (R187), which
takes no data. A scan ends at a sector that is not read (R515). -/
def Dev.giveSector (d : Dev) (x : Expect) (o : SectOut) (verdictOnly : Bool) (c : Cmd) : Dev :=
  if c.io.nsid != x.nsid || !c.need.contains (x.kind, x.addr) || (verdictOnly && c.cmd != .verify) then d
  else
    let left := c.need.erase (x.kind, x.addr)
    let data := d.plain x.nsid o.payload o.tag
    d.onCmd c.f fun c =>
      if o.status ≤ 1 ∧ c.cmd = .verify then { c with need := left }
      else if o.status ≤ 1 then { c with need := left, got := c.got ++ [(x.kind, x.addr, data)] }
      else if c.isScan then { c with need := left }
      else { c with need := left, err := c.err.or (some .unrecoveredRead) }

/-- What an outcome means beside its commands: a rebuilt sector whose own pass failed on its tag is queued for
destage (R345), an unrecovered tag-store sector loses its LBAs (R350). -/
def Dev.afterSector (d : Dev) (g : Grp) (x : Expect) (o : SectOut) : Dev :=
  let w := d.weltAt g o.cyl o.sect
  if o.status = 1 && o.tagFailed && (d.intentFor g w).isNone then d.destage g w 1
  else if 2 ≤ o.status && x.kind == 1 then d.loseSector x.nsid x.addr 1 3
  else d

/-- Commands whose last sector has come move on. -/
def Dev.advanceAll (d : Dev) : Dev :=
  d.each (d.que.cmds.filter fun c => c.need.isEmpty && (c.stage == .media || c.stage == .data)) fun c d =>
    d.cmdAdvance c.f

/-- The outcomes that have reached QUE go to the commands that need them (R447). -/
def Dev.handOut (d : Dev) (g : Grp) : Dev :=
  let rs := d.grpq[g].results
  let verdictOnly := (d.grpq[g].posted.head?).any fun m => m.req.kind == 2
  let d := d.onGrpq g fun q => { q with results := [] }
  let d := d.each rs fun o d =>
    match d.expect g o.cyl o.sect o.ix with
    | some x => (d.each d.que.cmds (fun c d => d.giveSector x o verdictOnly c)).afterSector g x o
    | none => d
  d.advanceAll

/-- The formatter works for host commands. -/
def Dev.hostPosted (d : Dev) (g : Grp) : Bool :=
  match (d.grpq[g].posted.head?).map MediaReq.why with
  | some (.host _) => true
  | none => true
  | _ => false

/-! ### The end of a destage (R22 steps 9 and 10, R373 step 5) -/

/-- A run of welts without welts first .. first + n - 1. -/
def weltsWithout (first n : Nat) (x : Grp × Nat × Nat) : List (Grp × Nat × Nat) :=
  if x.2.1 + x.2.2 ≤ first ∨ first + n ≤ x.2.1 then [x]
  else
    (if x.2.1 < first then [(x.1, x.2.1, first - x.2.1)] else []) ++
    (if first + n < x.2.1 + x.2.2 then [(x.1, first + n, x.2.1 + x.2.2 - (first + n))] else [])

/-- Welts are no longer marked for resync; RESYNC_DONE with the last of them (R378). -/
def Dev.unmark (d : Dev) (g : Grp) (first n : Nat) : Dev :=
  let old := d.band.marked
  let new := old.flatMap fun x => if x.1 = g then weltsWithout first n x else [x]
  let d := d.onBand fun b => { b with marked := new }
  d.when (!old.isEmpty && new.isEmpty) (·.raise CBL_INT_STATUS.RESYNC_DONE)

/-- The copy of a band that runs in a group: its operation, band number, present entry and staging entry. -/
def Dev.copying (d : Dev) (g : Grp) : Option (LongOp × Nat × BandEntry × BandEntry) :=
  match d.bandAt (stagingOf g) with
  | none => none
  | some s =>
    let op := d.band.ops.find? fun o => match o.kind with
      | .rebuild x _ | .reshape x _ | .relocate x _ => x == g && !o.todo.isEmpty
      | _ => false
    match op with
    | none => none
    | some o =>
      let b := o.todo.headD 0
      (d.bandAt b).map fun e => (o, b, e, s)

/-- Replace an operation. -/
def Dev.setOp (d : Dev) (k : OpKind) (f : LongOp → LongOp) : Dev :=
  d.onBand fun b => { b with ops := b.ops.map fun o => if o.kind = k then f o else o }

/-- A destage of old welts marks the parts already copied, or in hand, dirty (R382). -/
def Dev.markDirty (d : Dev) (g : Grp) (first n : Nat) : Dev :=
  match d.copying g with
  | none => d
  | some (o, b, e, s) =>
    let done := max (((o.progress.find? fun p => p.1 == b).map Prod.snd).getD 0) (o.part.1 + o.part.2)
    let lo := (first - e.startWelt) * e.data / max s.data 1
    let hi := min done ((((first + n) - e.startWelt) * e.data + s.data - 1) / max s.data 1)
    if first + n ≤ e.startWelt ∨ e.startWelt + weltCount e.data ≤ first ∨ hi ≤ lo then d
    else d.setOp o.kind fun o => { o with dirty := o.dirty ++ [(lo, hi - lo)] }

/-- A request of a group for a run of an intent still stands. -/
def Dev.intentBusy (d : Dev) (g : Grp) (first count : Nat) : Bool :=
  let q := d.grpq[g]
  (q.list ++ q.active.toList ++ q.posted).any fun m =>
    (match m.why with | .welts _ _ | .cobbler _ | .fill _ _ | .almanac => true | _ => false) &&
      (let (w, n) := d.reqWelts g m; decide (w < first + count) && decide (first < w + n))

/-- The intents over a run retire once no request of theirs stands (R373 step 5). -/
def Dev.retireOver (d : Dev) (g : Grp) (first count : Nat) : Dev :=
  let done := d.band.intents.filter fun i => i.grp == g && i.recorded && decide (i.first < first + count) &&
    decide (first < i.first + i.count) && !d.intentBusy g i.first i.count
  d.each done fun i d => d.retireIntent i

/-- The flush image is used up once no restored extent is held. -/
def Dev.imageUsed (d : Dev) : Dev :=
  if d.que.held.any Held.restored || d.que.flush.isSome then d
  else { d with media := { d.media with flush := none } }

/-- Commands that have read a tag-store sector take what a destage has written of it since: a write changes the entries as they
stand on the media (R349). -/
def Dev.freshTags (d : Dev) (gone : List Held) : Dev :=
  d.each (gone.filter fun h => h.kind == 1) fun h d => d.onQue fun q =>
    { q with cmds := q.cmds.map fun c => if c.io.nsid != h.nsid then c
        else { c with got := c.got.map fun x => if x.1 = 1 ∧ x.2.1 = h.lba then (1, h.lba, h.data) else x } }

/-- Every member of a run of welts is written: its held sectors leave the held portion, but those rewritten
since, and the commands that wait for the media complete. -/
def Dev.weltsDone (d : Dev) (g : Grp) (m : MediaReq) : Dev :=
  let (w, n) := d.reqWelts g m
  let here := fun (x : Nat × Nat × Nat × Word) => match d.place x.1 x.2.1 x.2.2.1 with
    | some p => p.grp == g && decide (w ≤ p.welt) && decide (p.welt < w + n)
    | none => false
  let wrote := d.grpq[g].writing.filter here
  let gone := d.que.held.filter fun h => wrote.contains (h.nsid, h.lba, h.kind, h.f)
  -- a sector rewritten since stands no more for the writes whose data is written
  let left := fun (h : Held) => { h with covers := h.covers.filter fun f => !(wrote.any fun x =>
    x.1 == h.nsid && x.2.1 == h.lba && x.2.2.1 == h.kind && !fLt x.2.2.2 f) }
  let inRun := fun (f : SectOut) => let x := d.weltAt g f.cyl f.sect; decide (w ≤ x) && decide (x < w + n)
  let d := d.onGrpq g fun q => { q with writing := q.writing.filter fun x => !wrote.contains x
                                        fills := q.fills.filter fun f => !inRun f }
  let d := ((d.onQue fun q => { q with held := (q.held.filter fun h => !gone.contains h).map left }).freeUnused
    (gone.map Held.buf)).freshTags gone
  (((((d.markDirty g w n).unmark g w n).retireOver g w n).imageUsed).showHeld.settled).spinAdvance

/-- The read ahead of a destage has ended: its sectors are kept for the write; a position that no step
recovers is entered as lost, in a marked welt with cause 2 (R378), and the write follows. -/
def Dev.fillDone (d : Dev) (g : Grp) (first count : Nat) : Dev :=
  let isMarked := d.band.marked.any fun x => x.1 == g && overlaps x.2.1 x.2.2 first count
  let cause := if isMarked then 2 else 1
  let rs := d.grpq[g].results
  let bad := rs.filter fun o => decide (2 ≤ o.status)
  let good := rs.filter fun o => decide (o.status ≤ 1)
  let d := d.onGrpq g fun q => { q with results := [], fills := q.fills ++ good }
  let d := d.each bad fun o d =>
    match d.expect g o.cyl o.sect o.ix with
    | some x => d.loseSector x.nsid x.addr x.kind cause
    | none => d
  let more := (d.grpq[g].list ++ d.grpq[g].active.toList ++ d.grpq[g].posted).any fun m => m.why == .fill first count
  if more then d
  else match d.band.intents.find? fun i => i.grp == g && decide (i.first ≤ first) &&
      decide (first + count ≤ i.first + i.count) && i.recorded with
    | some i => d.weltWrite { i with first := first, count := count }
    | none => d

/-! ### The flush (R327 to R329) -/

/-- A part of the flush is written: the media hold the image as far as it has come (R330). -/
def Dev.flushPart (d : Dev) (g : Grp) (part n : Nat) : Dev :=
  let d := d.onQue fun q => { q with flush := q.flush.map fun r =>
    if part = 0 then { r with dirs := setBit r.dirs g }
    else if part = 1 then { r with welts := upd r.welts g (· + n) }
    else { r with ended := setBit r.ended g } }
  d.storeFlush.flushOver

/-- A group that fails stops its flush and writes no trailer (R328). -/
def Dev.flushStop (d : Dev) (g : Grp) : Dev :=
  ((d.onGrpq g fun q => { q with list := q.list.filter fun m => !m.isFlush }).showGrpq g).flushOver

end Sys2Proof.Machine
end

