-- ==== Sys2Proof/Machine/CblOps.lean ====
section
/-! DEFINITION. The cobbler (chapter 11): steps of long operations, copying and switch-over of bands (R380 to
R386), formatting (R187, R402, R573, R633), resync (R378), patrol (R389), and the placement of journal and
almanac copies (R353, R366). -/

namespace Sys2Proof.Machine

/-! ### Results and copies -/

/-- CBL_RESULT and OP_DONE (R37, R360). -/
def Dev.cblResult (d : Dev) (op outcome : Nat) (g : Grp) : Dev :=
  ((((d.set CBL_RESULT.OP op).set CBL_RESULT.GROUP g).set CBL_RESULT.OUTCOME outcome).stamp
    CBL_RESULT.VALID CBL_RESULT.SEQ).raise CBL_INT_STATUS.OP_DONE

/-- The placement as keystone word 40 (R477). -/
def Dev.showJnl (d : Dev) : Dev := d.ksWrite 40 (d.word CBL_JNL &&& 0xFF#32)

/-- Place the journal copies in the two lowest-numbered groups that R366 allows; in a pack with one group,
both in that group. -/
def Dev.placeCopies (d : Dev) : Dev :=
  let one := decide (((List.finRange 4).filter fun (g : Grp) => d.hasHeads g).length ≤ 1)
  let put := fun (a b : Grp) (v : Nat) (d : Dev) =>
    ((((d.set CBL_JNL.COPY_A a).set CBL_JNL.COPY_B b).set CBL_JNL.B_VALID v).set CBL_JNL.A_IMPAIRED 0).set
      CBL_JNL.B_IMPAIRED 0
  match d.eligible with
  | a :: b :: _ => (put a b 1 d).showJnl
  | [a] => (put a a (if one then 1 else 0) d).showJnl
  | [] => ((d.set CBL_JNL.A_IMPAIRED 1).set CBL_JNL.B_VALID 0).showJnl

/-- A second group can take the media copy that is missing: it is built there (R366, R367). -/
def Dev.buildSecond (d : Dev) : Dev :=
  d.when (!d.on CBL_JNL.B_VALID && !d.jnlCopies.isEmpty && d.freshCopy.isSome) (·.set CBL_JNL.BUILDING 1)

/-- Show which media copies of the almanac can be written (R353, R553). -/
def Dev.showAlm (d : Dev) : Dev :=
  let ok := fun (g : Grp) => d.serves g && (d.bandsOf g).any fun p => p.2.state == bsAlmanac
  match d.almGroups with
  | [a] => (d.set ALM_STATUS.COPY_A_OK (ok a).toNat).set ALM_STATUS.COPY_B_OK (ok a).toNat
  | a :: b :: _ => (d.set ALM_STATUS.COPY_A_OK (ok a).toNat).set ALM_STATUS.COPY_B_OK (ok b).toNat
  | [] => (d.set ALM_STATUS.COPY_A_OK 0).set ALM_STATUS.COPY_B_OK 0

/-- The digest of a group's zone table and welt kind under the loaded image (R67). The cylinder count, with which the zone
table comes, and the member mask go into it as well (DESIGN CHOICE, log entry 133). -/
def Dev.digestOf (d : Dev) (g : Grp) : List Word :=
  let zs := d.zones[g].flatMap fun z => [z.firstCyl, z.cpr, z.spt, z.srvCells, z.srvFrac, z.skewW, z.pitch]
  Config.formatDigest (zs ++ match d.band.layout[g] with
    | some l => [l.cyls, l.pq.toNat, l.members]
    | none => [])

/-- A group is ONLINE again: a copy in it is no longer impaired, once a checkpoint stands in it, and a missing one can be built
(R366, R370). -/
def Dev.journalBack (d : Dev) (g : Grp) : Dev :=
  let a := d.on CBL_JNL.A_IMPAIRED && d.get CBL_JNL.COPY_A == g.val
  let b := d.on CBL_JNL.B_VALID && d.on CBL_JNL.B_IMPAIRED && d.get CBL_JNL.COPY_B == g.val
  if !a && !b then d.buildSecond
  else
    let d := d.when a (·.set CBL_JNL.A_IMPAIRED 0)
    let d := d.when b (·.set CBL_JNL.B_IMPAIRED 0)
    ((d.set CBL_JNL.BUILDING 0).checkpoint).buildSecond

/-! ### Operations -/

/-- The group that an operation belongs to; none where it spans groups. -/
def OpKind.grp? : OpKind → Option Grp
  | .rebuild g _ | .reshape g _ | .resync g | .relocate g _ | .formatGroup g | .patrol g => some g
  | .formatNs _ | .sanitize _ _ | .selfTest => none

/-- Heads that a copy leaves out (R361, R360). -/
def OpKind.excludes : OpKind → Nat
  | .rebuild _ m => m
  | .reshape _ h => 1 <<< h.val
  | _ => 0

/-- The operation code of a copy in a CURSOR record (R371), as log page 0xC0 numbers operations (DEDUCED, log entry 147). -/
def OpKind.code : OpKind → Nat
  | .rebuild _ _ => 3
  | .reshape _ _ => 4
  | _ => 7

/-- Progress of a band in hand. -/
def LongOp.done (o : LongOp) (b : Nat) : Nat := ((o.progress.find? fun p => p.1 == b).map Prod.snd).getD 0

def LongOp.setDone (o : LongOp) (b n : Nat) : LongOp :=
  { o with progress := (o.progress.filter fun p => p.1 != b) ++ [(b, n)] }

/-- The band of an operation that a step in group g works on next: the first of an operation of one group;
of one that spans groups, the first that lies in g. -/
def Dev.nextBand (d : Dev) (g : Grp) (o : LongOp) : Option Nat :=
  match o.kind with
  | .selfTest => if o.running = 0 then some 0 else none
  | .formatGroup x => if x = g then some (g.val * 32768) else none
  | k => match k.grp? with
    | some x => if x = g then o.todo.head? else none
    | none => o.todo.find? fun b => ((d.bandAt b).map fun e => e.group == g).getD false

/-- Host requests of the group wait. -/
def Dev.hostWaits (d : Dev) (g : Grp) : Bool :=
  d.grpq[g].list.any fun m => match m.why with | .host _ => true | _ => false

/-- A step has begun (R451). -/
def Dev.beginStep (d : Dev) (g : Grp) (cls first count : Nat) : Dev :=
  (d.onGrpq g fun q => { q with step := some (cls, first, count), stepAt := d.now }).set QUE_GRP_STATUS.STEP 1 0 g

/-- Media time of a group that the classes of a share have used in the present 1 s window, µs. -/
def Dev.shareUsed (d : Dev) (g : Grp) (bg : Bool) : Nat :=
  let q := d.grpq[g]
  if d.now < q.window + 1000000 then (if bg then q.usedBg else q.usedReb) else 0

/-- A step of a class may start: no host request of the group waits, or the class's share of the window is not used up
(R451). -/
def Dev.shareOpen (d : Dev) (g : Grp) (bg : Bool) : Bool :=
  let share := if bg then d.get CBL_CTRL.SHARE_BG else atLeast1 (d.get CBL_CTRL.SHARE_REB)
  !d.hostWaits g || decide (16 * d.shareUsed g bg < share * 1000000)

/-- A step's time counts against its share at its actual length; windows follow one another from time 0 (R451). -/
def Dev.countStep (d : Dev) (g : Grp) (cls : Nat) : Dev :=
  let w := d.now / 1000000 * 1000000
  let bg := decide (4 ≤ cls)
  let t := d.now - max w d.grpq[g].stepAt
  let reb := d.shareUsed g false
  let back := d.shareUsed g true
  d.onGrpq g fun q =>
    { q with window := w, usedReb := if bg then reb else reb + t, usedBg := if bg then back + t else back }

/-- The operation's step runs in the group. -/
def Dev.opRuns (d : Dev) (g : Grp) (k : OpKind) : Dev := d.setOp k fun o => { o with running := setBit o.running g }

/-- An area is handled. -/
def Dev.areaDone (d : Dev) (g : Grp) (k : OpKind) (b : Nat) : Dev :=
  (d.setOp k fun o => { o with todo := o.todo.filter (fun x => x != b), phase := 0, dirty := [], part := (0, 0)
                               progress := o.progress.filter fun p => p.1 != b }).bump CBL_PROGRESS.DONE 0 g

/-! ### Formatting -/

/-- Passes of a track: the surfaces of the mask in chunks of WL_GRP (R185, R187). -/
def passesOf (wl : Nat) : Nat → List HeadIx → List Nat
  | 0, _ => []
  | _ + 1, [] => []
  | k + 1, l => ((l.take (max wl 1)).foldl (fun m i => setBit m i) 0) :: passesOf wl k (l.drop (max wl 1))

/-- A FORMAT step: one pass over the part of a track that welts first + w and on cover (R187). -/
def Dev.formatPass (d : Dev) (g : Grp) (cls first total mask at_ : Nat) : Dev :=
  let w := at_ / 16
  let ps := passesOf (d.get WLS_WRITE_CFG.WL_GRP g) 8 (headsOf mask)
  match d.trackSpans g 1 (first + w) (total - w) with
  | s :: _ =>
    let m := ps.getD (at_ % 16) 0
    if m = 0 then d else d.addReq g ⟨3, s.1, s.2.1, s.2.2, 0, 0, m, 0, false⟩ (.cobbler cls)
  | [] => d

/-- What a FORMAT pass leaves done: the next pass of its track, or the next track. -/
def Dev.formatNext (d : Dev) (g : Grp) (first total mask at_ : Nat) : Nat :=
  let w := at_ / 16
  let ps := passesOf (d.get WLS_WRITE_CFG.WL_GRP g) 8 (headsOf mask)
  match d.trackSpans g 1 (first + w) (total - w) with
  | s :: _ => if at_ % 16 + 1 < ps.length then at_ + 1 else (w + s.2.2) * 16
  | [] => total * 16

/-- First welt, welts and surfaces of what a format step of an operation works on. -/
def Dev.formatArea (d : Dev) (g : Grp) (o : LongOp) (b : Nat) : Nat × Nat × Nat :=
  match o.kind with
  | .formatGroup _ =>
    let m := ((d.band.layout[g].map ImgGroup.members).getD 0) &&&
      maskOf ((List.finRange 8).map fun i => d.laneAlive (laneOf g i))
    (0, d.welts g, m)
  | _ => match d.bandAt b with
    | some e => (e.startWelt, weltCount e.data, e.members &&& d.presentMask g)
    | none => (0, 0, 0)

/-! ### Copying (R379 to R386) -/

/-- Where a copy places a band: its first welt and members. -/
def Dev.newExtent (d : Dev) (g : Grp) (k : OpKind) (b : Nat) (e : BandEntry) : Nat × Nat :=
  match k with
  | .relocate _ s => (((d.bandAt s).map BandEntry.startWelt).getD 0, e.members)
  | _ =>
    let (_, base, n') := d.reserveCheck g (popcount8 k.excludes)
    (base + b % 32768 * n', e.members &&& (255 ^^^ k.excludes))

/-- A read of the old welts of a part of a copy: every data position, from the media (R381). -/
def Dev.copyReads (d : Dev) (g : Grp) (cls first count : Nat) : Dev :=
  d.each (d.trackSpans g count first count) fun s d =>
    let w0 := d.weltAt g s.1 s.2.1
    let rm := match d.bandOver g w0 with
      | some (_, e) => (e.dataHeads s.1).foldl (fun m i => setBit m i) 0
      | none => 0
    if rm = 0 then d else d.addReq g ⟨0, s.1, s.2.1, s.2.2, 0, rm, 0, d.presentMask g, false⟩ (.cobbler cls)

/-- Old welts that a part (i, n) of the new extent comes from: first and count. -/
def oldPart (e s : BandEntry) (i n : Nat) : Nat × Nat :=
  let a := i * s.data / max e.data 1
  let z := min (weltCount e.data) (((i + n) * s.data + e.data - 1) / max e.data 1)
  (e.startWelt + a, z - a)

/-- The part of a copy that a read step takes from new welt i on, within `left` of them: at most one track of
old welts. -/
def Dev.partOf (d : Dev) (g : Grp) (e s : BandEntry) (i left : Nat) : Nat × Nat :=
  let c := (d.locate g (oldPart e s i 1).1).1
  (i, min left (max 1 (d.sptAt g c * e.data / max s.data 1 - 1)))

/-- The welts of results in which a sector whose own pass failed on its tag was rebuilt are queued for destage, so that the surface
is corrected (R345). -/
def Dev.correct (d : Dev) (g : Grp) (rs : List SectOut) : Dev :=
  d.each ((rs.filter fun r => r.status == 1 && r.tagFailed).map fun r => d.weltAt g r.cyl r.sect).dedup fun w d =>
    if (d.intentFor g w).isNone then d.destage g w 1 else d

/-- The sectors read for a part, as they go to the new extent; a position that could not be read is lost with
cause 1 (R386). -/
def Dev.moveResults (d : Dev) (g : Grp) (b : Nat) (e s : BandEntry) (part : Nat × Nat) : Dev :=
  let rs := d.grpq[g].results
  let offs := (List.range (part.2 * s.data)).map (part.1 * s.data + ·)
  let moved := offs.filterMap fun o =>
    let p := d.placeIn b e o
    let q := d.placeIn b s o
    (rs.find? fun r => r.cyl == p.cyl && r.sect == p.sect && r.ix == p.head && decide (r.status ≤ 1)).map fun r =>
      { r with cyl := q.cyl, sect := q.sect, ix := q.head }
  let bad := offs.filter fun o => decide (o < 2 ^ 18) &&
    (let p := d.placeIn b e o
     rs.any fun r => r.cyl == p.cyl && r.sect == p.sect && r.ix == p.head && decide (2 ≤ r.status))
  let d := d.onGrpq g fun q => { q with results := [], fills := q.fills ++ moved }
  let d := d.each bad fun o d =>
    let p := d.placeIn b e o
    match d.expect g p.cyl p.sect p.head with
    | some x => d.loseSector x.nsid x.addr x.kind 1
    | none => d
  (d.when (!bad.isEmpty) (·.event 0x05 55 [g, b])).correct g rs

/-- A copied band's switch-over as a band-table change (R383); a relocation gives its old area back as SPARE,
marked unusable by the index 0x1FFFF (R389). -/
def switchChange (g : Grp) (k : OpKind) (b : Nat) (e s : BandEntry) : BandChange :=
  let spare := match k with
    | .relocate _ a => [(a, { e with state := bsSpare, nsid := 0, nsIndex := 0x1FFFF })]
    | _ => []
  ⟨[(b, { e with startWelt := s.startWelt, members := s.members }), (stagingOf g, noBand g)] ++ spare, []⟩

/-- A step of a rebuild, reshape or relocation on a band (R380 to R383). -/
def Dev.copyStep (d : Dev) (g : Grp) (cls : Nat) (o : LongOp) (b : Nat) : Dev :=
  match d.bandAt b with
  | none => (d.areaDone g o.kind b).beginStep g cls 0 0
  | some e =>
    let (w, m) := d.newExtent g o.kind b e
    if e.state = bsSpare || e.state = bsFree then
      ((d.writeTable ⟨[(b, { e with startWelt := w, members := m })], []⟩).areaDone g o.kind b).beginStep g cls 0 0
    else if e.state = bsFlush || e.state = bsJournal then
      let d := if o.phase = 3 then d
        else ((d.writeTable ⟨[(b, { e with startWelt := w, members := m })], []⟩).logCursor g o.kind.code b 0).setOp o.kind
          fun o => { (o.setDone b 0) with phase := 3 }
      let e := (d.bandAt b).getD e
      let at_ := if o.phase = 3 then o.done b else 0
      (((d.formatPass g cls e.startWelt (weltCount e.data) (m &&& d.presentMask g) at_).opRuns g o.kind).beginStep
        g cls 0 0)
    else
      let d := if (d.bandAt (stagingOf g)).isSome then d
        else (d.writeTable ⟨[(stagingOf g, { e with state := bsStaged, startWelt := w, members := m })], []⟩).setOp
          o.kind fun o => o.setDone b 0
      match d.bandAt (stagingOf g) with
      | none => d
      | some s =>
        let read := fun (p : Nat × Nat) (d : Dev) =>
          let old := oldPart e s p.1 p.2
          (((d.copyReads g cls old.1 old.2).setOp o.kind fun o => { o with part := p }).opRuns g o.kind).beginStep
            g cls 0 0
        match o.phase with
        | 0 => read (d.partOf g e s (o.done b) (weltCount s.data - o.done b)) d
        | 1 | 4 =>
          let first := s.startWelt + o.part.1
          (((d.openIntent g first o.part.2 (s.members &&& d.presentMask g)).opRuns g o.kind).beginStep g cls first
            o.part.2)
        | _ => match d.band.change, o.dirty with
          | none, _ => d.requestChange { change := switchChange g o.kind b e s, waits := [], ranges := [] }
          | some t, p :: _ => if t.waits.isEmpty then read (d.partOf g e s p.1 p.2) d else d
          | some _, [] => d

/-- The end of a copy's step. -/
def Dev.copyStepEnd (d : Dev) (g : Grp) (o : LongOp) (b : Nat) : Dev :=
  match d.bandAt b, d.bandAt (stagingOf g) with
  | some e, some s =>
    match o.phase with
    | 0 => (d.moveResults g b e s o.part).setOp o.kind fun o => { o with phase := 1 }
    | 1 =>
      let n := o.part.1 + o.part.2
      let full := decide (weltCount s.data ≤ n)
      let d := d.setOp o.kind fun o => { (o.setDone b n) with phase := if full then 2 else 0 }
      d.when full (·.logCursor g o.kind.code b n)
    | 2 => (d.moveResults g b e s o.part).setOp o.kind fun o =>
        { o with phase := 4, dirty := (match o.dirty with
            | p :: t => if p.2 ≤ o.part.2 then t else (p.1 + o.part.2, p.2 - o.part.2) :: t
            | [] => []) }
    | 4 => d.setOp o.kind fun o => { o with phase := 2 }
    | _ => d
  | some e, none =>
    if o.phase = 3 then
      let at_ := d.formatNext g e.startWelt (weltCount e.data) (e.members &&& d.presentMask g) (o.done b)
      if weltCount e.data * 16 ≤ at_ then
        let d := d.areaDone g o.kind b
        if e.state = bsJournal && (d.get CBL_JNL.COPY_A = g.val || d.get CBL_JNL.COPY_B = g.val) then d.checkpoint else d
      else d.setOp o.kind fun o => o.setDone b at_
    else d
  | none, _ => d

/-- A rebuild or reshape is over (R359, R360): the retired head joins the failed mask, the state follows, and
CBL_RESULT reports a commanded one. -/
def Dev.copyOver (d : Dev) (g : Grp) (o : LongOp) : Dev :=
  let d := (d.onBand fun b => { b with ops := b.ops.filter fun x => x.kind != o.kind }).logCursor g 0 0 0
  match o.kind with
  | .relocate _ _ => (d.raise CBL_INT_STATUS.RELOCATE)
  | _ =>
    let d := match o.kind with
      | .reshape _ h => ((d.setFailed g (setBit (d.failedMask g) h)).dropLane (laneOf g h)).serve g 64
      | _ => d
    let d := d.showWidth g
    let d := if d.grpState g = gsOffline then d
      else if d.anyMissing g then
        let d := (d.setGrpState g gsDegraded).journalCheck g
        if d.on CBL_CTRL.AUTO_REBUILD then d.startRebuild g else d
      else (d.setGrpState g gsOnline).journalBack g
    if o.byCmd then d.cblResult (match o.kind with | .reshape _ _ => 1 | _ => 0) 0 g else d

/-! ### A group formatted again (R353, R633) -/

/-- The map entries that name a band of a group, in entry order. -/
def Dev.entriesIn (d : Dev) (g : Grp) : List (Nat × Nat × Nat) :=
  entryOrder (d.band.maps.filterMap fun m => m.2.2.bind fun b =>
    if ((d.bandAt b).map fun e => e.group == g).getD false then (d.nsOf m.1).map fun n => (m.1, m.2.1, n.entryState m.2.1)
    else none)

/-- The change that lays a group out afresh: its default areas, no entry beyond them, and new bands for the map
entries that named one of its bands, then for the holes that stood before (R633). The group's new state counts in the choice. -/
def Dev.relayout (d : Dev) (g : Grp) : BandChange :=
  let new := d.defaultLayout g
  let old := (d.bandsOf g).filter fun p => !(new.any fun q => q.1 == p.1)
  let c : BandChange := ⟨new ++ old.map fun p => (p.1, noBand g), []⟩
  let t := takeBands d.giving (d.entriesIn g ++ d.holes) (d.dirAfter c) ⟨[], []⟩
  ⟨c.dir ++ t.dir, t.maps⟩

/-- A format of a group is over: its areas, its state, its digest and its journal band (R67, R353, R359,
R366, R633). -/
def Dev.groupFormatted (d : Dev) (g : Grp) : Dev :=
  let d := (d.setFailed g 0).setGrpState g gsOnline
  let d := (d.writeTable (d.relayout g)).showWidth g
  let d := { d with media := { d.media with digest := d.media.digest.set g (some (d.digestOf g)) } }
  let dead := (headsOf (((d.band.layout[g]).map ImgGroup.members).getD 0)).filter fun i => !d.laneAlive (laneOf g i)
  let d := d.each dead fun i d => d.memberFailed g i
  let d := if d.jnlCopies.isEmpty then d.placeCopies else d.journalBack g
  d.showAlm.checkpoint

/-- Every area of a group is formatted: its new layout waits, as a band-table change, until no granted lock covers an LBA of the
map entries that it changes (R355, R633). -/
def Dev.finishFormat (d : Dev) (g : Grp) : Dev :=
  let rs := (d.entriesIn g ++ d.holes).map fun m => d.mapRange m.1 m.2.1
  if (d.lockHolders rs).isEmpty && d.band.change.isNone then d.groupFormatted g
  else d.requestChange { change := ⟨[], []⟩, waits := [], ranges := rs, format := some g }

/-! ### Format NVM and sanitize (R402, R573) -/

/-- Make a namespace key: a free value under the next generation (R572). -/
def Dev.newKey (d : Dev) (nsid : Nat) : Dev :=
  let gen := ((d.sec.keys.find? fun k => k.1 == nsid).map fun k => k.2.1).getD 0 + 1
  let (i, d) := d.draw
  let keys := (d.sec.keys.filter fun k => k.1 != nsid) ++ [(nsid, gen, Config.freeValue i)]
  ({ d with sec := { d.sec with keys := keys } }).set SEC_STATUS.KEYS keys.length

/-- Write the flash key store (R571): the older copy takes the next generation. -/
def Dev.writeStore (d : Dev) : Dev :=
  let gen := (d.get SEC_KS_GEN.GEN + 1) % 2 ^ 32
  let st : KeyStore := ⟨gen, true, d.sec.keys, d.sec.store.hashes⟩
  let f := if d.sec.older then { d.flash with store1 := some st } else { d.flash with store0 := some st }
  let d := { d with flash := f, sec := { d.sec with store := st, older := !d.sec.older } }
  (d.set SEC_KS_GEN.GEN gen).raise SEC_INT_STATUS.KEYSTORE

/-- The almanac record of a key (R568): function, role, session number, NSID, result. -/
def Dev.keyRecord (d : Dev) (fn : Fn) (nsid result : Nat) : Dev :=
  let s := d.hst.fns[fn].session
  d.record 0x0605 (fields32 [fn, (s.map Session.role).getD 0, (s.map Session.number).getD 0, nsid, result])

/-- The bands of namespaces, user bands and tag store. -/
def Dev.nsBands (d : Dev) (nsids : List Nat) : List Nat :=
  (d.band.dir.filter fun p => (p.2.state == bsUser || p.2.state == bsTag) && nsids.contains p.2.nsid).map Prod.fst

/-- Held data of namespaces is discarded. -/
def Dev.dropHeld (d : Dev) (nsids : List Nat) : Dev :=
  let gone := d.que.held.filter fun h => nsids.contains h.nsid
  ((d.onQue fun q => { q with held := q.held.filter fun h => !gone.contains h }).freeUnused
    (gone.map Held.buf)).showHeld

/-- CBL_PROGRESS at the start of an operation over several groups. -/
def Dev.showTotals (d : Dev) (todo : List Nat) : Dev :=
  d.each (List.finRange 4) fun g d =>
    let n := (todo.filter fun b => b / 32768 == g.val).length
    if n = 0 then d else (d.set CBL_PROGRESS.DONE 0 0 g).setSat CBL_PROGRESS.TOTAL n 0 g

/-- OFFLINE groups among those of some bands are formatted again first (R633). -/
def Dev.reformatOffline (d : Dev) (bands : List Nat) : Dev :=
  d.each (List.finRange 4) fun g d =>
    if d.hasHeads g && d.grpState g == gsOffline && bands.any (fun b => b / 32768 == g.val) &&
        !d.formatting g then
      d.onBand fun b => { b with ops := b.ops ++ [{ kind := .formatGroup g, todo := [g.val * 32768], total := 1 }] }
    else d

/-- An asynchronous event: the oldest outstanding request of the PF completes with it (type, information, log
page). -/
def Dev.asyncEvent (d : Dev) (n : Fn) (dw0 : Nat) : Dev :=
  match d.hst.fns[n].aers with
  | [] => d
  | c :: _ => (d.onFn n fun f => { f with aers := f.aers.drop 1 }).post ⟨n, 0⟩ c .success dw0

/-- An operation with nothing left is over. -/
def Dev.opOver (d : Dev) (o : LongOp) : Dev :=
  let rest := d.onBand fun b => { b with ops := b.ops.filter fun x => x.kind != o.kind }
  match o.kind with
  | .formatNs n =>
    let d := rest.onNs fun l => l.map fun x => if n = 0xFFFF_FFFF || x.nsid = n then { x with formatting := false } else x
    match o.client with
    | some (f, q, c) => d.post ⟨f, q⟩ c .success
    | none => d
  | .sanitize p v =>
    if 1 < p then
      -- the next pass takes new keys (R573)
      let bands := d.nsBands (d.band.ns.map Ns.nsid)
      let d := rest.each (d.band.ns.map Ns.nsid) fun n d => d.newKey n
      let d := d.writeStore
      d.onBand fun b => { b with ops := b.ops ++ [{ o with kind := .sanitize (p - 1) v, todo := bands, running := 0
                                                           progress := [] }] }
    else (rest.onBand fun b => { b with sanitize := 1 }).asyncEvent 0 0x810106
  | .selfTest =>
    rest.onHst fun h => { h with selfTest := none, selfResult := 16 * ((h.selfTest.map Prod.fst).getD 0) }
  | .formatGroup g => rest.finishFormat g
  | .rebuild g _ | .reshape g _ | .relocate g _ => d.copyOver g o
  | .resync _ | .patrol _ => rest

/-! ### Patrol (R389) -/

/-- A sector's tag is too old (R389): it trails the current epoch by more than 2^30, and is no format tag. -/
def Dev.aged (d : Dev) (t : BitVec 128) : Bool :=
  !tagFormat t && decide (2 ^ 30 < (d.epoch + 2 ^ 32 - tagEpoch t) % 2 ^ 32) &&
    decide ((d.epoch + 2 ^ 32 - tagEpoch t) % 2 ^ 32 < 2 ^ 31)

/-- The parity of a welt disagrees with its data, all of whose members were decoded. -/
def parityBad (e : BandEntry) (cyl : Nat) (rs : List SectOut) : Bool :=
  let at_ := fun (i : HeadIx) => (rs.find? fun r => r.ix == i && decide (r.status ≤ 1)).map fun r => fieldOf r.payload r.tag
  let data := (e.dataHeads cyl).map at_
  let all := headsOf e.members
  if data.any Option.isNone then false
  else
    let fs := data.filterMap id
    let bad := fun (pos : Nat) (want : List Byte) => match (all[pos]?).bind at_ with
      | some x => x != want
      | none => false
    bad (e.pPos cyl) (parityP fs) || (e.pq && bad (e.qPos cyl) (parityQ fs))

/-- What patrol does about one welt. -/
def Dev.patrolWelt (d : Dev) (g : Grp) (w : Nat) (rs : List SectOut) : Dev :=
  let (c, k) := d.locate g w
  let mine := rs.filter fun r => r.cyl == c && r.sect == k
  match d.bandOver g w with
  | none => d
  | some (b, e) =>
    let heads := e.dataHeads c
    let bad := mine.filter fun r => decide (2 ≤ r.status) && heads.contains r.ix
    let d := d.each bad fun r d => match d.expect g c k r.ix with
      | some x => d.loseSector x.nsid x.addr x.kind 5
      | none => d
    let hit := mine.any fun r => r.status != 0
    let old := mine.any fun r => heads.contains r.ix && d.aged r.tag
    let d := if !hit then d
      else d.onBand fun x => { x with laps := (x.laps.filter fun l => l.1 != b) ++
        [(b, (((x.laps.find? fun l => l.1 == b).map fun l => l.2 / 2).getD 0) * 2 + 1)] }
    if (hit || old) && (d.intentFor g w).isNone then d.destage g w 1
    else if parityBad e c mine && (d.intentFor g w).isNone then
      (d.onBand fun x => { x with marked := x.marked ++ [(g, w, 1)] }).logRec (.resync ⟨g, w, 1, d.epoch, e.members, true⟩)
    else d

/-- A band is relocated to a SPARE area of its group that is usable (R389). -/
def Dev.relocateBand (d : Dev) (g : Grp) (b : Nat) : Dev :=
  let spare := (d.bandsOf g).find? fun p => p.2.state == bsSpare && p.2.nsIndex != 0x1FFFF
  let copies := fun (k : OpKind) => match k with | .rebuild _ _ | .reshape _ _ => true | _ => false
  let busy := d.band.ops.any fun o => o.kind.grp? == some g && (o.todo.contains b || copies o.kind)
  match spare with
  | none => d
  | some (s, e) =>
    if busy then d
    else
      let d := d.writeTable ⟨[(s, { e with state := bsRetired })], []⟩
      d.onBand fun x => { x with ops := x.ops ++ [{ kind := .relocate g s, todo := [b], total := 1 }] }

/-- A patrol lap of a group ends. -/
def Dev.patrolLapEnd (d : Dev) (g : Grp) : Dev :=
  let limit := atLeast1 (d.get CBL_PATROL.RELOC_COUNT)
  let mine := d.band.laps.filter fun l => l.1 / 32768 == g.val
  let due := (mine.filter fun l => l.2 % 2 == 1 && decide (limit ≤ l.2 / 2 + 1)).map Prod.fst
  let keep := mine.filterMap fun l => if l.2 % 2 = 1 && !due.contains l.1 then some (l.1, (l.2 / 2 + 1) * 2) else none
  let d := d.onBand fun x => { x with patrol := x.patrol.set g 0
                                      laps := x.laps.filter (fun l => l.1 / 32768 != g.val) ++ keep }
  (d.each due fun b d => d.relocateBand g b).raise CBL_INT_STATUS.PATROL_LAP

/-- A patrol step: the next track of the group (R187, R389). -/
def Dev.patrolStep (d : Dev) (g : Grp) : Dev :=
  let w := d.band.patrol[g]
  match d.trackSpans g 1 w (d.welts g - w) with
  | s :: _ =>
    let m := match d.bandOver g w with
      | some (_, e) => e.members
      | none => ((d.band.layout[g]).map ImgGroup.members).getD 0
    let m := m &&& d.presentMask g
    (d.addReq g ⟨5, s.1, s.2.1, s.2.2, 0, m, 0, m, false⟩ (.cobbler 5)).beginStep g 5 w 0
  | [] => d

/-! ### The choice of a step, and its end (R451 to R453) -/

/-- The first operation in order that has work of some kind in a group. -/
def Dev.opFor (d : Dev) (g : Grp) (p : OpKind → Bool) : Option (LongOp × Nat) :=
  d.band.ops.findSome? fun o =>
    if p o.kind && !o.paused && !bit o.running g then (d.nextBand g o).map fun b => (o, b) else none

/-- A marked run of the group that no intent covers: the part of it on one track. -/
def Dev.nextMarked (d : Dev) (g : Grp) : Option (Nat × Nat) :=
  (d.band.marked.filter fun x => x.1 == g).findSome? fun x =>
    match d.trackSpans g 1 x.2.1 x.2.2 with
    | s :: _ => if (d.intentFor g x.2.1).isNone then some (x.2.1, s.2.2) else none
    | [] => none

/-- A step of resync (R378): the parity members of a run under an intent; with a missing member, the welts
whole. -/
def Dev.resyncStep (d : Dev) (g : Grp) (w n : Nat) : Dev :=
  match d.bandOver g w with
  | none => (d.unmark g w n).beginStep g 2 0 0
  | some (_, e) =>
    let c := (d.locate g w).1
    let par := (e.dataHeads c).foldl (fun m i => clearBit m i) (e.members % 256)
    let m := if e.missing (d.failedMask g) = 0 then par else e.members &&& d.presentMask g
    (d.openIntent g w n m).beginStep g 2 w n

/-- A step of an operation of class 3 that formats, or writes a pattern. -/
def Dev.formatStep (d : Dev) (g : Grp) (o : LongOp) (b : Nat) : Dev :=
  let (first, total, mask) := d.formatArea g o b
  let user := ((d.bandAt b).map fun e => e.state == bsUser).getD false
  match o.kind with
  | .selfTest => (d.opRuns g o.kind).beginStep g 3 0 0
  | .sanitize (_ + 1) _ =>
    if user then
      match d.trackSpans g 1 (first + o.done b / 16) (total - o.done b / 16) with
      | s :: _ =>
        let w := d.weltAt g s.1 s.2.1
        ((d.openIntent g w s.2.2 mask).opRuns g o.kind).beginStep g 3 w s.2.2
      | [] => (d.opRuns g o.kind).beginStep g 3 0 0
    else ((d.formatPass g 3 first total mask (o.done b)).opRuns g o.kind).beginStep g 3 0 0
  | _ => ((d.formatPass g 3 first total mask (o.done b)).opRuns g o.kind).beginStep g 3 0 0

/-- The end of such a step. -/
def Dev.formatStepEnd (d : Dev) (g : Grp) (o : LongOp) (b : Nat) : Dev :=
  let (first, total, mask) := d.formatArea g o b
  let user := ((d.bandAt b).map fun e => e.state == bsUser).getD false
  let at_ := o.done b
  let next := match o.kind with
    | .selfTest => 0
    | .sanitize (_ + 1) _ =>
      if user then match d.trackSpans g 1 (first + at_ / 16) (total - at_ / 16) with
        | s :: _ => (at_ / 16 + s.2.2) * 16
        | [] => total * 16
      else d.formatNext g first total mask at_
    | _ => d.formatNext g first total mask at_
  if o.kind == .selfTest || total * 16 ≤ next then d.areaDone g o.kind b
  else d.setOp o.kind fun o => o.setDone b next

/-- A group with heads that holds no format yet: the cobbler begins its format by itself (R67, R353; DESIGN CHOICE, log
entry 133). -/
def Dev.virginGroup (d : Dev) (g : Grp) : Bool :=
  d.hasHeads g && d.grpState g == gsOffline && (d.media.digest[g]).isNone && (d.bandsOf g).isEmpty &&
    (d.band.layout[g]).isSome && !d.formatting g

def OpKind.copies : OpKind → Bool
  | .rebuild _ _ | .reshape _ _ => true
  | _ => false

def OpKind.formats : OpKind → Bool
  | .formatNs _ | .sanitize _ _ | .formatGroup _ | .selfTest => true
  | _ => false

def OpKind.moves : OpKind → Bool
  | .relocate _ _ => true
  | _ => false

/-- The cobbler starts a step of a group, by class (R451): switch-over and journal copy build, resync, the
operations, relocation, patrol. -/
def Dev.startStep (d : Dev) (g : Grp) : Dev :=
  let d := if d.virginGroup g then
      d.onBand fun b => { b with ops := b.ops ++ [{ kind := .formatGroup g, todo := [g.val * 32768], total := 1 }] }
    else d
  let build := d.on CBL_JNL.BUILDING && d.freshCopy == some g
  let reb := d.shareOpen g false
  let bg := d.shareOpen g true
  let switch := if reb then (d.opFor g fun k => k.copies || k.moves).filter fun p => p.1.phase == 2 else none
  match switch with
  | some (o, b) => d.copyStep g 1 o b
  | none =>
    if reb && build then
      match d.journalBand g with
      | some (_, e) =>
        (d.weltReqs g 1 e.startWelt ((2064 + e.data - 1) / max e.data 1) 0 (e.members &&& d.presentMask g) 0
          (.cobbler 1)).beginStep g 1 0 0
      | none => d
    else match if reb then d.nextMarked g else none with
      | some (w, n) => d.resyncStep g w n
      | none => match if reb then d.opFor g OpKind.formats else none with
        | some (o, b) => d.formatStep g o b
        | none => match if reb then d.opFor g OpKind.copies else none with
          | some (o, b) => d.copyStep g 3 o b
          | none => match if bg then d.opFor g OpKind.moves else none with
            | some (o, b) => d.copyStep g 4 o b
            | none => if bg && d.on CBL_CTRL.PATROL_EN && d.grpState g != gsOffline then d.patrolStep g else d

/-- A new journal copy is complete: it takes the place of an impaired one, or of the one that was missing (R366, R367). -/
def Dev.copyBuilt (d : Dev) (g : Grp) : Dev :=
  let d := if d.on CBL_JNL.A_IMPAIRED then (d.set CBL_JNL.COPY_A g).set CBL_JNL.A_IMPAIRED 0
    else ((d.set CBL_JNL.COPY_B g).set CBL_JNL.B_VALID 1).set CBL_JNL.B_IMPAIRED 0
  let left := (d.on CBL_JNL.A_IMPAIRED || !d.on CBL_JNL.B_VALID || d.on CBL_JNL.B_IMPAIRED) && d.freshCopy.isSome
  (((d.set CBL_JNL.BUILDING left.toNat).showJnl).checkpoint).raise CBL_INT_STATUS.JNL_MIRROR

/-- Requests and intents of a group's step still stand. -/
def Dev.stepBusy (d : Dev) (g : Grp) : Bool :=
  let q := d.grpq[g]
  (q.list ++ q.active.toList ++ q.posted).any (fun m =>
    match m.why with | .cobbler _ | .pattern _ => true | _ => false) ||
  match q.step with
  | some (_, w, n) => n != 0 && d.band.intents.any fun i => i.grp == g && decide (i.first < w + n) &&
      decide (w < i.first + i.count)
  | none => false

/-- The operation whose step runs in a group, with the band it works on. -/
def Dev.runningOp (d : Dev) (g : Grp) : Option (LongOp × Nat) :=
  d.band.ops.findSome? fun o => if bit o.running g then
    (d.nextBand g { o with running := 0 }).map fun b => (o, b) else none

/-- Operations with nothing left are over. -/
def Dev.finishOps (d : Dev) : Dev :=
  let finished := d.band.ops.filter fun o => o.todo.isEmpty && o.running == 0
  d.each finished fun o d => d.opOver o

/-- A step of a group ends (R453). -/
def Dev.endStep (d : Dev) (g : Grp) : Dev :=
  match d.grpq[g].step with
  | none => d
  | some (cls, w, _) =>
    if d.stepBusy g then d
    else
      let ro := d.runningOp g
      let d := d.onBand fun b => { b with ops := b.ops.map fun o => { o with running := clearBit o.running g } }
      let d := ((d.countStep g cls).onGrpq g fun q => { q with step := none }).set QUE_GRP_STATUS.STEP 0 0 g
      let d := match ro with
        | some (o, b) =>
          let o := { o with running := clearBit o.running g }
          if o.kind.formats then d.formatStepEnd g o b else d.copyStepEnd g o b
        | none =>
          if cls = 5 then
            let rs := d.grpq[g].results
            let n := match d.trackSpans g 1 w (d.welts g - w) with | s :: _ => s.2.2 | [] => 1
            let d := d.onGrpq g fun q => { q with results := [] }
            let d := d.each (List.range n) fun k d => d.patrolWelt g (w + k) rs
            let d := (d.onBand fun b => { b with patrol := b.patrol.set g (w + n) }).onSeq fun s => { s with patrolDue := false }
            if d.welts g ≤ w + n then d.patrolLapEnd g else d
          else if cls = 1 then (if d.on CBL_JNL.BUILDING then d.copyBuilt g else d)
          else d
      d.finishOps.spinAdvance

end Sys2Proof.Machine
end

