-- ==== Sys2Proof/Machine/Queue.lean ====
section
/-! DEFINITION. Commands of the queueing block (chapter 13): formatter events, locks, buffers, data, the
schedulers, the end of a namespace, and scan contexts (R513). -/

namespace Sys2Proof.Machine

/-! ### The end of a request (R447 to R450) -/

/-- The last request of a salvage read has ended (R388, R565): its result waits for the Receives of the session
that asked for it, and is discarded where that session has ended. -/
def Dev.salvageOver (d : Dev) (fn : Fn) (r : SalvageRun) : Dev :=
  let at_ := fun (k : Nat) => r.got.find? fun x => x.1 == k
  let status := (List.range r.count).map fun k => ((at_ k).map fun x => x.2.1).getD 2
  let data := (List.range r.count).map fun k => ((at_ k).map fun x => x.2.2).getD zeroSector
  let same := ((d.hst.fns[fn].session).map Session.number) == some r.session
  let d := d.onFn fn fun f => { f with salvaging := none, salvage := if same then some ⟨status, data⟩ else f.salvage }
  d.post ⟨fn, 0⟩ r.cid .success

/-- A request of a salvage read has ended: its outcomes, decrypted with the namespace key (R388). -/
def Dev.salvagePart (d : Dev) (g : Grp) (fn : Fn) : Dev :=
  let rs := d.grpq[g].results
  let d := d.onGrpq g fun q => { q with results := [] }
  match d.hst.fns[fn].salvaging with
  | none => d
  | some r =>
    match d.bandAt r.band with
    | none => d.salvageOver fn r
    | some e =>
      let mine := (List.range r.count).filterMap fun k =>
        let p := d.placeIn r.band e (r.first + k)
        (rs.find? fun o => o.cyl == p.cyl && o.sect == p.sect && o.ix == p.head && p.grp == g).map fun o =>
          if o.status ≤ 1 then (k, o.status, d.plain e.nsid o.payload o.tag) else (k, 2, zeroSector)
      let r := { r with reqs := r.reqs - 1, got := r.got ++ mine }
      if r.reqs = 0 then d.salvageOver fn r else d.onFn fn fun f => { f with salvaging := some r }

/-- What the end of a request brings its purpose. -/
def Dev.reqEnded (d : Dev) (g : Grp) (m : MediaReq) : Dev :=
  match m.why with
  | .host _ => d.handOut g
  | .fill a n => d.fillDone g a n
  | .welts _ _ | .pattern _ => d.weltsDone g m
  | .almanac => (d.weltsDone g m).almWritten g
  | .journal b => d.copyDone b
  | .flush p => d.flushPart g p m.req.count
  | .cobbler _ => if m.req.kind = 1 then d.weltsDone g m else d
  | .salvage fn => d.salvagePart g fn

/-- The current request leaves the formatter's list. -/
def Dev.popPosted (d : Dev) (g : Grp) : Dev :=
  (d.onGrpq g fun q => { q with posted := q.posted.drop 1, reread := false, released := false }).showGrpq g

/-- A place lies in a request's run. -/
def MediaReq.covers (m : MediaReq) (g : Grp) (p : Place) : Bool :=
  p.grp == g && p.cyl == m.req.cyl && decide (m.req.sect ≤ p.sect) && decide (p.sect < m.req.sect + m.req.count)

/-- Sectors that a command still needs from a request. -/
def Dev.needIn (d : Dev) (g : Grp) (m : MediaReq) (c : Cmd) : List (Nat × Nat) :=
  c.need.filter fun x => match d.place c.io.nsid x.2 x.1 with
    | some p => m.covers g p
    | none => false

/-- Commands end with Internal Error for the sectors of a request without an outcome (R447, R448). -/
def Dev.noOutcome (d : Dev) (g : Grp) (m : MediaReq) : Dev :=
  let d := d.each d.que.cmds fun c d =>
    let mine := d.needIn g m c
    if mine.isEmpty then d
    else d.onCmd c.f fun c => { c with need := c.need.filter (fun x => !mine.contains x), err := c.err.or (some .internalError) }
  d.advanceAll

/-- The part of a host request that commands still need. -/
def Dev.narrowed (d : Dev) (g : Grp) (m : MediaReq) : Option MediaReq :=
  let ks := (List.range m.req.count).filter fun k =>
    d.que.cmds.any fun c => (d.needIn g { m with req := { m.req with sect := m.req.sect + k, count := 1 } } c) != []
  match ks.head?, ks.getLast? with
  | some a, some z => some { m with req := { m.req with sect := m.req.sect + a, count := z + 1 - a } }
  | _, _ => none

/-- A Flush or an FUA write that waits on a destage completes with Write Fault; the data stays held (R448). -/
def Dev.faultWaiters (d : Dev) (g : Grp) (m : MediaReq) : Dev :=
  let (w, n) := d.reqWelts g m
  let hs := d.heldSects g w n
  d.each d.que.cmds fun c d =>
    let hit := c.stage == .settle && match c.cmd with
      | .flush => hs.any fun h => h.writes.any (fLt · c.f) && (c.io.nsid == 0xFFFF_FFFF || c.io.nsid == h.nsid)
      | _ => hs.any fun h => h.writes.contains c.f
    if hit then d.finish c .writeFault else d

/-- A request goes back to the head of its group's list for another attempt. -/
def Dev.retryReq (d : Dev) (g : Grp) (m : MediaReq) : Dev :=
  (d.onGrpq g fun q => { q with list := m :: q.list }).showGrpq g

/-- A write under an intent is planned again (R363, R364), one revolution later (R448): what its read-ahead lost sight of is read,
and the members present now are written. -/
def Dev.replan (d : Dev) (g : Grp) (m : MediaReq) : Dev :=
  -- a revolution lasts 960,000,000 over the speed in 1/16 rpm
  let m := { m with after := d.now + 960000000 / d.get SPN_SPEED.SPEED }
  let (w, n) := d.reqWelts g m
  match if m.req.kind = 1 then d.intentFor g w else none with
  | none => d.retryReq g m
  | some i =>
    let no := d.que.reqId
    let d := d.intentReady { i with first := w, count := n, recorded := true }
    let again := fun (x : MediaReq) =>
      if no ≤ x.no then { x with after := m.after, attempts := m.attempts, age := m.age, since := m.since } else x
    (d.onGrpq g fun q => { q with list := q.list.map again }).showGrpq g

/-- The capture record of a failed request (R447). -/
def Dev.failInfo (d : Dev) (g : Grp) (m : MediaReq) (cause : Nat) : Dev :=
  let d := (((d.set QUE_FAIL_INFO0.CAUSE cause).set QUE_FAIL_INFO0.KIND m.req.kind).set QUE_FAIL_INFO0.GROUP g).setSat
    QUE_FAIL_INFO0.ATTEMPT m.attempts
  (((d.set QUE_FAIL_INFO1.SECT m.req.sect).set QUE_FAIL_INFO1.CYL m.req.cyl).stamp QUE_FAIL_INFO0.VALID
    QUE_FAIL_INFO0.SEQ).raise QUE_INT_STATUS.REQ_FAILED

/-- A request has ended unfinished (R447, R448). -/
def Dev.failReq (d : Dev) (g : Grp) (cause : Nat) : Dev :=
  match d.grpq[g].posted with
  | [] => d
  | m :: _ =>
    let m := { m with attempts := m.attempts + 1 }
    let host := match m.why with | .host _ => true | _ => false
    let d := ((d.popPosted g).failInfo g m cause).when host (·.handOut g)
    if cause = 6 then (if host then d.noOutcome g m else d)
    else if 0x80 ≤ cause then d
    else
      let spent := m.attempts % atLeast1 (d.get QUE_SCHED_CFG.RETRY_MAX) == 0
      let d := if spent then (d.raise QUE_INT_STATUS.RETRY_EXHAUSTED).event 0x05 56 [g, m.req.kind, m.req.cyl, m.req.sect, cause]
        else d
      match m.why with
      | .host _ =>
        if spent then d.noOutcome g m
        else match d.narrowed g m with
          | some r => d.retryReq g r
          | none => d
      | .flush _ => if spent then d.flushStop g else d.retryReq g m
      | .salvage fn => if spent then d.salvagePart g fn else d.retryReq g m
      | .welts _ _ | .fill _ _ | .almanac =>
        (if spent then d.faultWaiters g m else d).replan g m
      | .cobbler _ | .pattern _ => d.replan g m
      | .journal _ => d.retryReq g m

/-! ### Formatter events -/

/-- REQUEST_POST (R180, R187, R442): the scheduler posts the issued request. -/
def execRequestPost (g : Grp) (s : State) : Out := s.runIn 2 fun d => d.postReq g

/-- SLOT_DONE (R181): a slot of the current request has ended; the outcomes that host commands wait for go to
them. -/
def execSlotDone (g : Grp) (s : State) : Out :=
  s.runIn 2 fun d =>
    match d.takeEvt g .slotDone with
    | none => d
    | some d =>
      let d := d.onGrpq g fun q => { q with posted := match q.posted with
        | m :: t => { m with done := m.done ++ [(m.req.sect + m.done.length, 0)] } :: t
        | [] => [] }
      if d.hostPosted g then d.handOut g else d

/-- REQ_DONE (R447): the current request has ended; every ladder that waits for a reread ends (R184). -/
def execReqDone (g : Grp) (s : State) : Out :=
  s.runIn 2 fun d =>
    match d.takeEvt g .reqDone with
    | none => d
    | some d =>
      match d.grpq[g].posted with
      | [] => d
      | m :: _ => ((d.endLadders g).popPosted g).reqEnded g m

/-- REQ_FAILED (R447 to R449), with the cause that the formatter reported. -/
def execReqFailed (g : Grp) (cause : Nat) (s : State) : Out :=
  s.runIn 2 fun d =>
    match d.takeEvt g (.reqFailed cause) with
    | none => d
    | some d => (d.endLadders g).failReq g cause

/-- NEED_REV (R184, R446): the group stays for another revolution, in which every waiting ladder is read again
with the offsets of its row. -/
def execNeedRev (g : Grp) (s : State) : Out :=
  s.runIn 2 fun d =>
    match d.takeEvt g .needRev with
    | none => d
    | some d =>
      let d := ((d.onGrpq g fun q => { q with reread := true }).showGrpq g).count 0x406 (some g)
      d.countRereads g

/-- RELEASE (R181): the group may be moved before REQ_DONE. -/
def execRelease (g : Grp) (s : State) : Out :=
  s.runIn 2 fun d =>
    match d.takeEvt g .release with
    | none => d
    | some d => d.onGrpq g fun q => { q with released := true }

/-- ABORT_REPORT (R152, R181, R364): a write slot was aborted; the welt's intent stays open, and the request's
REQ_FAILED repeats the destage. -/
def execAbortReport (g : Grp) (s : State) : Out :=
  s.runIn 2 fun d => (d.takeEvt g .abortReport).getD d

/-! ### Commands -/

/-- LOCK_GRANT (R431). -/
def execLockGrant (f : Word) (s : State) : Out := s.runIn 2 fun d => d.grantLocks f

/-- BUFFER_GRANT (R436 to R440). -/
def execBufferGrant (f : Word) (s : State) : Out := s.runIn 2 fun d => d.grantBuffers f

/-- WRITE_DATA_HELD (R22, R401, R409, R423). -/
def execWriteDataHeld (f : Word) (s : State) : Out := s.runIn 2 fun d => (d.dataHeld f).spinAdvance

/-- TRANSFER_DONE (R21, R409, R511). -/
def execTransferDone (f : Word) (s : State) : Out := s.runIn 2 fun d => d.transferred f

/-- SCHEDULE_CHOICE (R443, R444, R446). -/
def execScheduleChoice (g : Grp) (s : State) : Out := s.runIn 2 fun d => d.schedule g

/-- POSITIONING_DEADLINE (R445): the issued request, not yet on track at its cylinder, is withdrawn and issued
again. -/
def execPositioningDeadline (g : Grp) (s : State) : Out :=
  s.runIn 2 fun d =>
    match d.grpq[g].active with
    | none => d
    | some m =>
      if d.onCyl g m.req.cyl then d
      else ((d.onGrpq g fun q => { q with active := none, list := m :: q.list }).issueReq g m)

/-- A copy of a band that no longer holds data is given up. -/
def Dev.dropCopy (d : Dev) (bands : List Nat) : Dev :=
  d.each (List.finRange 4) fun g d =>
    match d.copying g with
    | none => d
    | some (o, b, _, _) =>
      if !bands.contains b then d
      else
        let other := fun (t : TableChange) => !(t.change.dir.any fun p => p.1 == stagingOf g)
        let d := d.onBand fun x => { x with change := x.change.filter other, changes := x.changes.filter other }
        let d := d.when d.band.change.isNone Dev.nextChange
        let d := d.writeTable ⟨[(stagingOf g, noBand g)], []⟩
        d.setOp o.kind fun o => { o with phase := 0, dirty := [], part := (0, 0), progress := o.progress.filter fun p => p.1 != b }

/-- A namespace's bands return to FREE in one band-table change, with its map and its lost-block entries gone;
holes of other namespaces are filled (R459, R633). -/
def Dev.freeBands (d : Dev) (nsid : Nat) : Dev :=
  let bands := d.nsBands [nsid]
  let size := ((d.nsOf nsid).map Ns.nsze).getD 0
  let d := (d.dropCopy bands).dropLost nsid 0 size
  let d := d.onBand fun b => { b with maps := b.maps.filter fun m => m.1 != nsid }
  let free : BandChange := ⟨bands.filterMap fun n => (d.bandAt n).map fun e =>
    (n, { e with state := bsFree, nsid := 0, nsIndex := 0 }), []⟩
  d.commitChange free

/-- The Changed Namespace List of every function. -/
def Dev.nsChanged (d : Dev) (nsid : Nat) : Dev :=
  let d := d.each (List.finRange 64) fun f d => d.onFn f fun x =>
    { x with changed := if x.changed.contains nsid then x.changed else x.changed ++ [nsid] }
  let d := d.each (List.finRange 64) fun f d =>
    if d.on HST_FN_STATUS.RDY 0 f then d.asyncEvent f 0x040002 else d
  d.raise QUE_INT_STATUS.NS_CHANGE

/-- NAMESPACE_DELETE_DRAINED (R459 steps 3 to 5): no granted entry of the namespace is left. -/
def execNamespaceDeleteDrained (nsid : Nat) (s : State) : Out :=
  s.runIn 2 fun d =>
    match d.band.deletes.find? fun x => x.1 == nsid with
    | none => d
    | some (_, fn, sqid, cid) =>
      if d.que.locks.any fun l => l.nsid == nsid then d
      else
        let d := d.dropHeld [nsid]
        let bands := d.nsBands [nsid]
        let mine := d.band.intents.filter fun i => match d.bandOver i.grp i.first with
          | some (b, _) => bands.contains b
          | none => false
        let d := d.each mine fun i d => d.retireIntent i
        let keys := d.sec.keys.filter fun k => k.1 != nsid
        let d := ({ d with sec := { d.sec with keys := keys } }).set SEC_STATUS.KEYS keys.length
        let d := (d.writeStore).keyRecord fn nsid 2
        let d := (d.freeBands nsid).onNs fun l => l.filter fun n => n.nsid != nsid
        let d := d.onBand fun b => { b with deletes := b.deletes.filter fun x => x.1 != nsid }
        let last := !(d.band.deletes.any fun x => x.2 == (fn, sqid, cid))
        let d := (d.nsChanged nsid).showQue
        (if last then d.afterCommit (fn, sqid, cid, 0) else d).spinAdvance

/-- SCAN_CONTEXT_GRANT (R513): the oldest Scan Read that waits takes a context that is free. -/
def execScanContextGrant (s : State) : Out :=
  s.runIn 19 fun d =>
    match d.que.cmds.find? fun c => c.stage == .context with
    | some c => d.takeContext c.f
    | none => d

end Sys2Proof.Machine
end

