-- ==== Sys2Proof/Machine/Host.lean ====
section
/-! DEFINITION. The link, the functions, fetch, and the I/O commands (chapters 12, 13 and 16). -/

namespace Sys2Proof.Machine

/-! ### Link and functions -/

/-- Every NVMe controller is reset (R580, R582). -/
def Dev.resetAll (d : Dev) : Dev := d.each (List.finRange 64) fun f d => d.resetFn f

/-- PERST (R582): PERST_L falls or rises. Low, it resets the link-facing state and every NVMe controller; data in the
held portion stays held. -/
def execPerst (low : Bool) (s : State) : Out :=
  s.run fun d =>
    if !low then d.onHst fun h => { h with perst := false }
    else
      let d := (d.onHst fun h => { h with perst := true }).resetAll
      let d := d.setWord HST_LINK 0
      let d := d.each (List.finRange 64) fun f d =>
        let d := d.onFn f fun x => { x with msix := false, masked := [], pba := [], online := false }
        if f = 0 then d else d.set HST_FN_STATUS.PRESENT 0 0 f
      d

/-- LINK_UP: the data link layer came up, or the link trained to another speed or width. -/
def execLinkUp (speed width : Nat) (s : State) : Out :=
  s.run fun d =>
    if d.hst.perst || !d.islandUp 1 || speed = 0 || 4 < speed || width = 0 || 16 < width then d
    else
      let same := d.on HST_LINK.DL_UP && d.get HST_LINK.SPEED == speed && d.get HST_LINK.WIDTH == width
      let d := (((d.set HST_LINK.DL_UP 1).set HST_LINK.SPEED speed).set HST_LINK.WIDTH width).set HST_LINK.L1 0
      if same then d else d.raise HST_INT_STATUS.LINK_UP

/-- LINK_DOWN: the data link layer went down. -/
def execLinkDown (s : State) : Out :=
  s.run fun d =>
    if d.on HST_LINK.DL_UP then ((d.set HST_LINK.DL_UP 0).set HST_LINK.L1 0).raise HST_INT_STATUS.LINK_DOWN else d

/-- FUNCTION_LEVEL_RESET (R395, R542): of a VF, that function alone; of the PF, every function. -/
def execFunctionLevelReset (f : Fn) (s : State) : Out :=
  s.run fun d =>
    if !d.on HST_FN_STATUS.PRESENT 0 f then d
    else
      -- the fence of a VF ends with its own reset and with the PF's (R542)
      let d := d.each (if f = 0 then (List.range 64).drop 1 else [f.val]) fun n d =>
        if d.unitFenced 6 n then d.lift 6 n else d
      (if f = 0 then d.resetAll else d.resetFn f).raise HST_INT_STATUS.FLR

/-- CONTROLLER_RESET (R395, R416, R454): CC.EN of a function is cleared; CC.AMS stands as the host then writes it for the next
time (R396, R425). -/
def execControllerReset (c : CcClear) (s : State) : Out :=
  s.run fun d =>
    if !d.on HST_FN_STATUS.CC_EN 0 c.fn then d
    else ((d.resetFn c.fn).onFn c.fn fun x => { x with weighted := c.weighted }).raise HST_INT_STATUS.CC_CHANGE

/-! ### Fetch -/

/-- SUBMISSION_DOORBELL (R21, R425, R609). -/
def execSubmissionDoorbell (q : QRef) (entries : List Sqe) (s : State) : Out := s.runIn 2 fun d => d.doorbell q entries

/-- COMMAND_FETCH (R425 to R432): the arbiter takes the next visible entry. -/
def execCommandFetch (s : State) : Out :=
  s.runIn 2 fun d =>
    match d.nextQueue with
    | some q => d.fetchFrom q
    | none => d

/-- FETCH_ERROR (R422, R424): a fetch for a command failed. Cause 1 completion timeout, 2 Unsupported Request,
3 Completer Abort, 4 poisoned data; object 0 queue entry, 1 PRP list, 2 SGL segment, 3 data. -/
def execFetchError (q : QRef) (cid cause object addr : Nat) (s : State) : Out :=
  s.runIn 2 fun d =>
    if cause = 0 || 4 < cause || !d.admits q.fn then d
    else
      let d := (d.hstError q cid cause (object % 4) addr).uc 208 6 q.fn addr
      if object = 0 then
        (d.onSq q fun x => { x with entries := x.entries.drop 1 }).post q cid .dataTransferError
      else
        match d.que.cmds.find? fun c => c.q == q && c.io.cid == cid with
        | some c => d.finish c .dataTransferError
        | none => if q.sqid = 0 then d.post q cid .dataTransferError else d

/-! ### I/O commands: the host makes one visible in a submission queue, and where the arbiter runs it is fetched -/

/-- FLUSH (R401, R429). -/
def execFlush (q : QRef) (a : IoArgs) (s : State) : Out := s.run fun d => d.ioCommand q a .flush

/-- WRITE (R22, R399 to R401, R423, R436). -/
def execWrite (q : QRef) (a : IoArgs) (data : List (List Byte)) (s : State) : Out :=
  s.run fun d => d.ioCommand q a (.write data)

/-- READ (R21, R399, R400, R441). -/
def execRead (q : QRef) (a : IoArgs) (s : State) : Out := s.run fun d => d.ioCommand q a .read

/-- COMPARE (R399). -/
def execCompare (q : QRef) (a : IoArgs) (data : List (List Byte)) (s : State) : Out :=
  s.run fun d => d.ioCommand q a (.compare data)

/-- WRITE_ZEROES (R341, R396, R399). -/
def execWriteZeroes (q : QRef) (a : IoArgs) (s : State) : Out := s.run fun d => d.ioCommand q a .writeZeroes

/-- DATASET_MANAGEMENT (R399): a hint, which completes. -/
def execDatasetManagement (q : QRef) (a : IoArgs) (s : State) : Out := s.run fun d => d.ioCommand q a .datasetMgmt

/-- VERIFY (R399, R409). -/
def execVerify (q : QRef) (a : IoArgs) (s : State) : Out := s.run fun d => d.ioCommand q a .verify

/-- COPY (R396, R399, R433). -/
def execCopy (q : QRef) (a : IoArgs) (fmt : Nat) (src : List (Nat × Nat)) (s : State) : Out :=
  s.run fun d => d.ioCommand q a (.copy fmt src)

/-- SCAN_READ (R413, R414, R509). -/
def execScanRead (q : QRef) (a : IoArgs) (desc : List Byte) (bufLen : Nat) (s : State) : Out :=
  s.run fun d => d.ioCommand q a (.scanRead desc bufLen)

end Sys2Proof.Machine
end

