-- ==== Sys2Proof/Machine/JnlBytes.lean ====
section
/-! DEFINITION. What metadata sectors hold (R340): the journal band's headers, checkpoint regions and log ring (R351, R352,
R369 to R371, R374), the almanac's media copies (R553), and a flush image's directory and trailer (R327). Numbers in records
are little-endian (PRESUMED, log entry 137); what the spec names without a place is Config.openLayout's. -/

namespace Sys2Proof.Machine

/-! ### Entries and records -/

/-- A sector of the bytes given, filled up with zeros. -/
def sectorOf (l : List Byte) : List Byte := l.take 4096 ++ List.replicate (4096 - l.length) 0

/-- Values of a header with the CRC-32C of their 32-bit fields after them (R369, R553). -/
def withCrc (l : List Nat) (rest : List Byte := []) : List Nat := l ++ [(crc32c (fields32 l ++ rest)).toNat]

/-- A directory entry, most-significant bit first: its 96 bits, then their CRC-32C (R351). -/
def entryBytes (e : BandEntry) : List Byte :=
  let bits : BitVec 96 := BitVec.ofNat 2 e.group.val ++ (BitVec.ofNat 30 e.startWelt ++ (BitVec.ofNat 4 e.state ++
    (BitVec.ofBool e.pq ++ (0#3 ++ (BitVec.ofNat 8 e.members ++ (BitVec.ofNat 12 e.nsid ++ (BitVec.ofNat 17 e.nsIndex ++
      0#19)))))))
  let body := beBytes 12 bits.toNat
  body ++ beBytes 4 (crc32c body).toNat

/-- An entry of the lost-block table (R387). -/
def lostBytes (l : Lost) : List Byte :=
  leBytes 6 l.lba ++ leBytes 2 (l.nsid * 16 + l.cause) ++ leBytes 4 l.count ++ leBytes 4 l.epoch

/-- A map entry's word: VALID and the band number (R352). -/
def mapWord : Option Nat → Nat
  | some b => 2 ^ 31 + b % 2 ^ 17
  | none => 0

/-- The 32 bytes of an intent's record (R371). -/
def intentBytes (type : Nat) (i : Intent) : List Byte :=
  leBytes 1 type ++ leBytes 1 i.grp.val ++ leBytes 2 i.count ++ leBytes 4 i.first ++ leBytes 4 i.epoch ++
    leBytes 1 i.members ++ List.replicate 19 0

/-- The 32 bytes of a log record (R371). -/
def LogRec.bytes : LogRec → List Byte
  | .open_ i => intentBytes 1 i
  | .retire i => intentBytes 2 i
  | .resync i => intentBytes 3 i
  | .band n e => leBytes 4 4 ++ leBytes 4 n ++ List.replicate 8 0 ++ entryBytes e
  | .lost add l => leBytes 1 5 ++ leBytes 1 (if add then 1 else 2) ++ List.replicate 14 0 ++ lostBytes l
  | .cursor g op n copied => leBytes 1 6 ++ leBytes 1 g.val ++ leBytes 2 op ++ leBytes 4 n ++ leBytes 4 copied ++
      List.replicate 20 0

/-- A log sector in a copy: its header of 32 bytes and its records (R371). -/
def LogSector.bytes (s : LogSector) (copy : Bool) : List Byte :=
  let head := leBytes 4 0x4A52_4543 ++ leBytes 4 s.epoch ++ leBytes 2 s.recs.length ++ leBytes 1 copy.toNat ++ [0] ++
    leBytes 4 s.gen ++ leBytes 4 s.oldest ++ List.replicate 8 0
  let recs := s.recs.flatMap LogRec.bytes
  sectorOf (head ++ leBytes 4 (crc32c (head ++ recs)).toNat ++ recs)

/-! ### The journal band (R369) -/

/-- The maps' words: the namespaces' maps one after another, by NSID (DESIGN CHOICE, log entry 137). -/
def mapWords (maps : List (Nat × Nat × Option Nat)) : List Nat :=
  (List.range 4096).flatMap fun n =>
    let mine := maps.filter fun m => m.1 == n
    (List.range mine.length).map fun ix => mapWord ((mine.find? fun m => m.2.1 == ix).bind fun m => m.2.2)

/-- A sector of a checkpoint region after its header: directory, maps, lost-block table, zeros. -/
def Checkpoint.sector (c : Checkpoint) (o : Nat) : List Byte :=
  if o ≤ 512 then
    (List.range 256).flatMap fun k =>
      entryBytes (((c.dir.find? fun p => p.1 == (o - 1) * 256 + k).map Prod.snd).getD ⟨0, 0, bsFree, false, 0, 0, 0⟩)
  else if o ≤ 768 then sectorOf (((mapWords c.maps).drop ((o - 513) * 1024)).take 1024 |>.flatMap (leBytes 4))
  else if o ≤ 1280 then sectorOf (((c.lost.drop ((o - 769) * 256)).take 256).flatMap lostBytes)
  else zeroSector

/-- A checkpoint region's sector: its header carries the CRC-32C of its own values and of the rest. -/
def Checkpoint.region_ (c : Checkpoint) (o : Nat) : List Byte :=
  if o = 0 then
    let rest := (List.range 2047).flatMap fun k => c.sector (k + 1)
    sectorOf (Config.openLayout 1 (withCrc [c.gen, c.epoch, c.ring % ringSize] rest))
  else c.sector o

/-- The checkpoint that stands in a region of a copy. -/
def JnlCopy.at_ (c : JnlCopy) (b : Bool) : Option Checkpoint :=
  if !c.readable then none else if c.cp.region == b then some c.cp else c.old

/-- The log sector at a place of the ring, and the copy it is for: the newest whose number falls there. -/
def Dev.ringAt (d : Dev) (copy : Bool) (q : Nat) : Option (LogSector × Bool) :=
  let (m, r, c) := if d.ringShared then (ringSize / 2, q / 2, q % 2 == 1) else (ringSize, q, copy)
  let back := (d.band.ring + m - 1 - r % m) % m
  if back < d.band.log.length then (d.band.log[d.band.log.length - 1 - back]?).map fun s => (s, c) else none

/-- The sector at an offset of a copy's journal band, from the HBM copy (R369). -/
def Dev.jnlSector (d : Dev) (copy : Bool) (g : Grp) (o : Nat) : List Byte :=
  let c := if copy then d.media.jnlB else d.media.jnlA
  -- a copy that is being built in another group takes a checkpoint from HBM (R367)
  let c := if c.grp = g.val then c else { readable := true, cp := d.checkpointNow, grp := g.val }
  if o < 16 then sectorOf (Config.openLayout 0 (withCrc ([o, 0x4A4E_4C31, copy.toNat, g.val] ++
    (((d.media.digest[g]).getD []).map BitVec.toNat))))
  else if o < 4112 then
    match c.at_ (decide (2064 ≤ o)) with
    | some cp => cp.region_ ((o - 16) % 2048)
    | none => zeroSector
  else match d.ringAt copy (o - 4112) with
    | some (s, c) => s.bytes c
    | none => zeroSector

/-- The epoch of a journal welt's tags: that of the newest log sector in it (R374). -/
def Dev.jnlEpoch (d : Dev) (copy : Bool) (first data : Nat) : Nat :=
  let es := (List.range data).filterMap fun k =>
    if first + k < 4112 then none else (d.ringAt copy (first + k - 4112)).map fun s => s.1.epoch
  match es with
  | [] => d.epoch
  | a :: t => t.foldl (fun x y => if epochLe x y then y else x) a

/-! ### The almanac's area (R553) -/

/-- The sector at an offset of the almanac's area, as an append that runs leaves it; in a pack with one group copy B begins at
16,400. The header ends in the CRC-32C of its values. -/
def Dev.almSector (d : Dev) (g : Grp) (o : Nat) : List Byte :=
  let one := d.almGroups.length ≤ 1
  let b := if one then 16400 ≤ o else d.almGroups.head? != some g
  let c := if b then d.alm.toB.getD d.alm.copyB else d.alm.toA.getD d.alm.copyA
  let o := if one && 16400 ≤ o then o - 16400 else o
  let recs := c.recs.flatMap fun r => r.bytes ++ List.replicate (r.size - r.bytes.length) 0
  if o = 0 then
    sectorOf (Config.openLayout 4 (withCrc [0x414C_4D31, c.lastSeq, c.seqLimit, c.closed.toNat, (recs.length + 4095) / 4096]))
  else if o < 16 || 16400 ≤ o then zeroSector
  else sectorOf ((recs.drop ((o - 16) * 4096)).take 4096)

/-! ### Fields -/

/-- The field of a metadata sector: its payload under the metadata key; its tag has KIND 0b10, NSID and ADDR 0 (R340, R341, R569,
R570). -/
def metaSector (flush : Bool) (epoch : Nat) (p : List Byte) : List Byte × BitVec 128 :=
  let x := Config.xts Config.metaKey (2 ^ 48 * 2) p
  (x, mkTag 0 0 flush false 2 epoch (crc32c x))

/-- The field of data index j of a welt of band e whose area holds metadata. -/
def Dev.metaField (d : Dev) (g : Grp) (w : Nat) (e : BandEntry) (j : Nat) : List Byte × BitVec 128 :=
  let first := (w - e.startWelt) * e.data
  if e.state = bsJournal then
    let copy := !d.ringShared && (if d.get CBL_JNL.COPY_A = g.val then false
      else if d.on CBL_JNL.B_VALID && d.get CBL_JNL.COPY_B == g.val then true else !d.on CBL_JNL.A_IMPAIRED)
    metaSector false (d.jnlEpoch copy first e.data) (d.jnlSector copy g (first + j))
  else
    let epoch := ((d.intentFor g w).map Intent.epoch).getD d.epoch
    metaSector (e.state == bsFlush) epoch (if e.state = bsAlmanac then d.almSector g (first + j) else zeroSector)

/-- Data position of a welt in its group's flush area. -/
def Dev.flushPos (d : Dev) (g : Grp) (w : Nat) (e : BandEntry) (j : Nat) : Nat :=
  let start := ((d.flushBand g).map fun (p : Nat × BandEntry) => p.2.startWelt).getD 0
  (w - start) * max e.data 1 + j

/-- The extents of the running flush, in the order they were dealt. -/
def Dev.flushExts (d : Dev) : List (Grp × FlushExt) := (d.que.flush.map FlushRun.exts).getD []

/-- Welts of the running flush's directory in a group. -/
def Dev.flushDir (d : Dev) (g : Grp) : Nat :=
  flushDirWelts d.flushExts.length (max (((d.flushBand g).map fun (p : Nat × BandEntry) => p.2.data).getD 1) 1)

/-- Directory entries: namespace, first LBA, sector count, and the flush location as group and data position in its share. -/
def flushEntries : List (Grp × FlushExt) → Vector Nat 4 → List (List Nat)
  | [], _ => []
  | (g, e) :: t, at_ =>
    let n := if e.whole then e.sectors.length else 0
    [e.nsid, ((e.sectors.head?).map Prod.fst).getD 0, e.sectors.length, g.val, at_[g]] :: flushEntries t (at_.set g (at_[g] + n))

/-- Sector k of a directory copy: the flush epoch and its 256 entries (R327). -/
def Dev.flushDirSector (d : Dev) (k : Nat) : List Byte :=
  let es := ((flushEntries d.flushExts (Vector.replicate 4 0)).drop (256 * k)).take 256
  sectorOf (Config.openLayout 2 ([(d.que.flush.map FlushRun.epoch).getD 0, k] ++ es.flatten))

/-- A trailer's sector: the flush epoch and the count of data sectors written (R327). -/
def Dev.flushTrailer (d : Dev) (g : Grp) : List Byte :=
  let n := ((d.flushExts.filter fun p => p.1 == g && p.2.whole).map fun p => p.2.sectors.length).sum
  sectorOf (Config.openLayout 3 [(d.que.flush.map FlushRun.epoch).getD 0, n])

/-- A sector of the flush area that is no held sector: it carries the flush epoch and the flush flag (R327). -/
def Dev.flushField (d : Dev) (p : List Byte) : List Byte × BitVec 128 := metaSector true ((d.que.flush.map FlushRun.epoch).getD 0) p

end Sys2Proof.Machine
end

