-- ==== Sys2Proof/Machine/Bridge.lean ====
section
/-! DEFINITION. The spindle's bridge, its modulator and its samples (chapter 08, R263 to R272, and the braking current of
R316). A PWM_PERIOD stands between two periods: it takes the samples of the one that ends and sets the drive of the one that
begins. -/

namespace Sys2Proof.Machine

/-! ### States -/

abbrev spOff : Nat := 0
abbrev spCheck : Nat := 1
abbrev spRev : Nat := 2
abbrev spAlign : Nat := 3
abbrev spHfi : Nat := 4
abbrev spObs : Nat := 5
abbrev spKe : Nat := 6
abbrev spKeHold : Nat := 7
abbrev spZc : Nat := 8
abbrev spCoast : Nat := 9
abbrev spFault : Nat := 10
abbrev spStop : Nat := 11

def Dev.spnState (d : Dev) : Nat := d.get SPN_STATUS.STATE

/-! ### The converters (R265, R620) -/

/-- The voltage in mV that a 12-bit code of the link or of a phase stands for: full scale 19.2 V behind the divider (R620). -/
def linkMv (code : BitVec 12) : Nat := code.toNat * 75 / 16

/-- The link at or above 14.0 V: code 2,986 (chapter 21's example). -/
def linkHigh (v : Nat) : Bool := decide (linkMv 2986 ≤ v)

/-- The current of a shunt code in µA (R271). -/
def Dev.shunt (d : Dev) (code : BitVec 14) : Int :=
  ((code.toNat : Int) - d.get SPN_ISNS_CAL.OFS) * d.get SPN_ISNS_CAL.GAIN

/-- The highest line-to-line voltage of a sample of the three phases, mV (R283). -/
def linePeak (v : BitVec 12 × BitVec 12 × BitVec 12) : Nat :=
  let l := [linkMv v.1, linkMv v.2.1, linkMv v.2.2]
  l.foldl max 0 - l.foldl min (linkMv v.1)

/-! ### The bridge (R263 to R272) -/

/-- What the six gate outputs do (R272, the phases of STOPPING). -/
inductive Drive where
  /-- gates off: all six outputs low -/
  | off
  /-- the three low sides on (R264) -/
  | short
  /-- modulated by space vectors: field-oriented control or injection -/
  | vector
  | sixStep
  /-- three-stated (R319) -/
  | float
  deriving DecidableEq, Repr

/-- The steps of a polarity test, in quarters of a microsecond since it began: the d-axis voltage in 1/1,024 of the link, none
with the gates off (R279). -/
def polarityPulse (amp us : Nat) (t : Nat) : Option Int :=
  let p := 4 * us
  if t < p then some (4 * amp : Nat) else if t < 5 * p then none else if t < 6 * p then some (-(4 * amp : Nat)) else none

/-- The polarity test's d-axis voltage in the present period, 31.25 µs each; outer none where no test runs (R279). -/
def Dev.polarity (d : Dev) : Option (Option Int) :=
  d.spn.polAt.map fun n => polarityPulse (d.get SPN_POL_CFG.POL_AMP) (d.get SPN_POL_CFG.POL_US) (125 * n)

/-- The gates of the present state (R272, R277, R279, R310, R319, R321): REV_BRAKE brakes for 320 periods of every 384. -/
def Dev.drive (d : Dev) : Drive :=
  let st := d.spnState
  if st = spRev then if d.spn.inState % 384 < 320 then .short else .off
  else if st = spAlign then if d.polarity = some none then .off else .vector
  else if st = spHfi ∨ st = spObs ∨ st = spKeHold then .vector
  else if st = spZc then .sixStep
  else if st = spStop then
    match d.get SPN_STOP_STATUS.PHASE with
    | 1 => if d.on SPN_STOP_STATUS.CHOP_BAD then .off else .vector
    | 2 => if d.spn.regenSix then .sixStep else .vector
    | 3 => .short
    | 4 => .float
    | _ => .off
  else .off

/-- A modulated phase: the high side from its turn-on, delayed by the dead time, to its turn-off; the low side in the rest of
the period, after the dead time (R263, R266). -/
def Leg.pulse (dead : Nat) (prev : Leg) (p : Nat × Nat) : Leg :=
  { hi := if p.1 + dead < p.2 then [(p.1 + dead, p.2)] else [],
    lo := (if prev.hold < p.1 then [(prev.hold, p.1)] else []) ++
      (if p.2 + dead < 6250 then [(p.2 + dead, 6250)] else []),
    hold := p.2 + dead - 6250 }

/-- A phase whose low side is on throughout (R264). -/
def Leg.low (prev : Leg) : Leg := { lo := [(prev.hold, 6250)] }

/-- A phase whose outputs fall now: both stay low for the dead time (R263). -/
def Leg.drop (dead : Nat) (prev : Leg) : Leg := { hold := if prev.hi = [] then prev.hold else dead }

/-- Gates off now (R263). -/
def Dev.gatesOff (d : Dev) : Dev :=
  d.onSpn fun s => { s with legs := s.legs.map (Leg.drop (d.get SPN_PWM_CFG.DEAD)), tx := [], pulses := [], apertures := [],
                            dAxis := 0, iqRef := 0, polAt := none }

/-- The six sectors of six-step drive: the phase driven high and the phase driven low; the third floats. PRESUMED (log entry
135). -/
def sixSector (k : Nat) : Nat × Nat :=
  match k % 6 with
  | 0 => (0, 1) | 1 => (0, 2) | 2 => (1, 2) | 3 => (1, 0) | 4 => (2, 0) | _ => (2, 1)

/-- T_MIN (R267). -/
def Dev.tMin (d : Dev) : Nat := d.get SPN_PWM_CFG.DEAD + d.get SPN_PWM_CFG.SETTLE + 40

/-- T_x of a duty: round(3,125 (1 - d)), ties up (R266). -/
def pwmT (duty : Rat) : Nat := (3125 * (1 - duty) + 1 / 2).floor.toNat

/-- The duties of a voltage vector given by its components along U and V in 1/65,536 of the link: the zero-sequence injection
centres the highest and the lowest (min-max); a vector that needs a duty above the limit is scaled down, its angle kept
(R267). The Bool says that it was. -/
def duties (limit : Rat) (u v : Int) : Bool × List Rat :=
  let w := -u - v
  let hi := max u (max v w)
  let lo := min u (min v w)
  let span : Rat := (hi - lo : Int) / 65536
  let most := max 0 (2 * limit - 1)
  let k : Rat := if most < span then most / span else 1
  (decide (most < span), [u, v, w].map fun (x : Int) => 1 / 2 + k * (x - (hi + lo : Int) / 2) / 65536)

/-- The phases in the order of their T, equal ones U, V, W (R268). -/
def phaseOrder (t : List Nat) : List Nat :=
  (sortBy (fun (a b : Nat × Nat) => decide (a.1 < b.1) || (decide (a.1 = b.1) && decide (a.2 ≤ b.2))) t.zipIdx).map Prod.snd

/-- The pulses of the three phases as (on, off) cycles after minimum-pulse insertion (R266, R268, R269). -/
def pulses (tmin tu tv tw : Nat) : List (Nat × Nat) :=
  let t := [tu, tv, tw]
  match phaseOrder t with
  | [a, b, c] =>
    let ta := t.getD a 0
    let tb := t.getD b 0
    let tc := t.getD c 0
    let sa := if tb - ta < tmin then tmin - (tb - ta) else 0
    let sc := if tc - tb < tmin then tmin - (tc - tb) else 0
    [0, 1, 2].map fun x =>
      if x = a then (ta - sa, 6250 - ta - sa) else if x = c then (tc + sc, 6250 - tc + sc) else (tb, 6250 - tb)
  | _ => []

/-- Where the two 40-cycle apertures start: DEAD + SETTLE after the starts of the windows (R268). -/
def aperturesOf (settled : Nat) (t : List Nat) (p : List (Nat × Nat)) : List Nat :=
  match phaseOrder t with
  | [a, b, _] => [(p.getD a (0, 0)).1 + settled, (p.getD b (0, 0)).1 + settled]
  | _ => []

/-- Phase currents in µA from the two samples of a period of these T: i_a and -i_c, the third from their sum (R270, R271). -/
def Dev.phaseCurrents (d : Dev) (t : List Nat) (c1 c2 : BitVec 14) : List Int :=
  let ia := d.shunt c1
  let ic := -d.shunt c2
  match phaseOrder t with
  | [a, _, c] => [0, 1, 2].map fun x => if x = a then ia else if x = c then ic else -(ia + ic)
  | _ => d.spn.currents

/-- The comparators: each phase voltage against the mean of the three (R265). -/
def comparators (v : BitVec 12 × BitVec 12 × BitVec 12) : List Bool :=
  let l := [v.1.toNat, v.2.1.toNat, v.2.2.toNat]
  l.map fun x => decide (l.sum ≤ 3 * x)

/-- The offset calibration of a coast check: the mean of its first 256 samples with the gates off (R271). -/
def Dev.calibrateOfs (d : Dev) (codes : List Nat) : Dev :=
  if d.spnState != spCheck || 256 ≤ d.spn.ofsN then d
  else
    let l := codes.take (256 - d.spn.ofsN)
    let d := d.onSpn fun s => { s with ofsN := s.ofsN + l.length, ofsSum := s.ofsSum + l.sum }
    if d.spn.ofsN = 256 then d.set SPN_ISNS_CAL.OFS (freeDiv d.spn.ofsSum 256).toNat else d

/-- The samples of the period that ends: phase currents and, where no short brake holds the phases, the signs of their
voltages; `quiet` counts the periods since a sign changed; in KE_CHECK the peak line-to-line voltage (R265, R270, R271, R277,
R283). -/
def Dev.samplePhases (d : Dev) (p : PwmIn) : Dev :=
  let d := d.calibrateOfs (p.offCodes.map BitVec.toNat)
  let seen := comparators p.volts
  let look := d.spnState != spRev || d.drive == .off
  d.onSpn fun s =>
    { s with currents := d.phaseCurrents s.tx p.code1 p.code2, inState := s.inState + 1, clk := s.clk + 125,
             kePeak := if d.spnState = spKe then max s.kePeak (linePeak p.volts) else s.kePeak,
             quiet := if look && s.signs != seen then 0 else s.quiet + 1,
             signs := if look then seen else s.signs }

/-- The q-axis current reference of the next period: the speed loop's with the phase loop's, limited to I_MAX; in BRAKE and
REGEN a braking current alone, limited to I_MAX and to IMAX_REGEN and cut to 0 in a period whose link sample is at or above
14.0 V; in REGEN the PI loop of the link asks for it; in ALIGN, injection only, none (R272, R282, R289, R316, R321). -/
def Dev.current (d : Dev) (p : PwmIn) : Dev :=
  let imax : Int := d.get SPN_FOC_CFG.I_MAX
  match d.drive with
  | .vector | .sixStep =>
    if d.spnState = spStop then
      let cut := linkHigh (linkMv p.vlink)
      if d.get SPN_STOP_STATUS.PHASE = 2 then
        let err : Int := (d.get SPN_LINK_CFG.REGEN_V : Int) - linkMv p.vlink
        let sum := d.spn.linkInt + err
        let ask := freeDiv err (2 ^ d.get SPN_REGEN_CFG.KPV) + freeDiv sum (2 ^ d.get SPN_REGEN_CFG.KIV)
        d.onSpn fun s =>
          { s with linkInt := sum,
                   iqRef := if cut then 0 else -clamp 0 (d.get SPN_REGEN_CFG.IMAX_REGEN) ask }
      else d.onSpn fun s => { s with iqRef := if cut then 0 else clamp (-imax) 0 p.iqWant }
    else d.onSpn fun s => { s with iqRef := if d.spnState = spAlign then 0 else clamp (-imax) imax (p.iqWant + s.iqAdd) }
  | _ => d.onSpn fun s => { s with iqRef := 0 }

/-- The current limit holds (R282). -/
def Dev.atLimit (d : Dev) (p : PwmIn) : Bool :=
  let st := d.spnState
  (st == spHfi || st == spObs || st == spKeHold) && decide (d.get SPN_FOC_CFG.I_MAX < (p.iqWant + d.spn.iqAdd).natAbs)

/-- The d-axis injection of the next period: ±HFI_AMP in turn in ALIGN and HFI_RUN, the pulses of the polarity test (R278,
R279, R280). -/
def Dev.inject (d : Dev) : Dev :=
  let st := d.spnState
  let amp : Int := d.get SPN_HFI_CFG.HFI_AMP
  match d.polarity with
  | some x => d.onSpn fun s => { s with dAxis := x.getD 0, polAt := s.polAt.map (· + 1) }
  | none => d.onSpn fun s =>
      if st = spAlign ∨ st = spHfi then { s with dAxis := if s.injNeg then -amp else amp, injNeg := !s.injNeg }
      else { s with dAxis := 0 }

/-- The injection's loop, in a period that had an injection: the change of the q-axis current along its sign drives angle and
step with the gains 2^-HFI_KP and 2^-HFI_KI; the periods in a row with the error under 5° (R278). -/
def Dev.hfiLoop (d : Dev) (p : PwmIn) : Dev :=
  let runs := (d.spnState = spAlign ∨ d.spnState = spHfi) ∧ d.spn.polAt = none ∧ d.spn.dAxis ≠ 0
  d.onSpn fun s =>
    if runs then
      let e := Config.hfiError ((p.iq - s.iqLast) * s.dAxis.sign)
      let vel := s.hfiVel + freeDiv e (2 ^ d.get SPN_HFI_CFG.HFI_KI)
      { s with iqLast := p.iq, hfiVel := vel,
               hfiAngle := ((s.hfiAngle + vel + freeDiv e (2 ^ d.get SPN_HFI_CFG.HFI_KP)) % 65536).toNat,
               hfiRun := if e.natAbs * 360 < 5 * 65536 then s.hfiRun + 1 else 0 }
    else { s with iqLast := p.iq }

/-- The electrical turn that n periods at a speed take, in 1/65,536. -/
def Dev.turnIn (d : Dev) (n v : Nat) : Nat := (freeDiv (d.get SPN_MODEL.POLE_PAIRS * n * v * 65536 : Nat) 30720000).toNat

/-- The angle in force, from the source that the table of R272 gives the state: the injection with its 180° of R279, else the
observer; six-step advances its own at the speed (R296). -/
def Dev.angleIn (d : Dev) (p : PwmIn) : Dev :=
  let st := d.spnState
  let d := d.onSpn fun s => { s with obsAngle := p.angObs % 65536 }
  if st = spAlign ∨ st = spHfi then
    d.onSpn fun s => { s with angle := (s.hfiAngle + if s.flip then 32768 else 0) % 65536 }
  else if d.drive = .sixStep then d.onSpn fun s => { s with angle := (s.angle + d.turnIn 1 (d.get SPN_SPEED.SPEED)) % 65536 }
  else if st = spOff ∨ st = spFault ∨ st = spCheck ∨ st = spRev then d
  else d.onSpn fun s => { s with angle := s.obsAngle }

/-- The components along phases U and V of the d-axis injection at the angle in force, in 1/65,536 of the link (R278). The sine
is that of R256; DESIGN CHOICE (log entry 135). -/
def Dev.injected (d : Dev) : Int × Int :=
  let part := fun (turn : Nat) =>
    freeDiv (d.spn.dAxis * 64 * sine15 ((d.spn.angle + turn) % 65536 * 65536)) 32767
  (part 16384, part (16384 + 43691))

/-- The drive of the next period: limited duties, VOLT_LIMIT, pulses, apertures and the six gate outputs (R263, R264, R266 to
R269, R296). -/
def Dev.modulate (d : Dev) (p : PwmIn) : Dev :=
  let dead := d.get SPN_PWM_CFG.DEAD
  match d.drive with
  | .vector =>
    let tmin := d.tMin
    -- in ALIGN the injection alone, in HFI_RUN on top of the drive (R272, R280)
    let (u, v) := d.injected
    let (big, l) := if d.spnState = spAlign then duties (1 - (tmin : Rat) / 3125) u v
      else duties (1 - (tmin : Rat) / 3125) (p.vecU + u) (p.vecV + v)
    let t := l.map pwmT
    let q := pulses tmin (t.getD 0 0) (t.getD 1 0) (t.getD 2 0)
    let d := (d.set SPN_STATUS.VOLT_LIMIT big.toNat).when big (·.raise SPN_INT_STATUS.VOLT_LIMIT)
    d.onSpn fun s =>
      { s with tx := t, pulses := q, apertures := aperturesOf (dead + d.get SPN_PWM_CFG.SETTLE) t q,
               legs := (s.legs.zip q).map fun (l, x) => l.pulse dead x }
  | g =>
    let d := (d.set SPN_STATUS.VOLT_LIMIT 0).onSpn fun s => { s with tx := [], pulses := [], apertures := [] }
    match g with
    | .short => d.onSpn fun s => { s with legs := s.legs.map Leg.low }
    | .sixStep =>
      let (h, l) := sixSector (d.spn.sector + d.spn.comms)
      let t := pwmT (min ((p.duty : Rat) / 65536) (1 - (d.tMin : Rat) / 3125))
      d.onSpn fun s =>
        { s with legs := s.legs.zipIdx.map fun (leg, x) =>
            if x = h then leg.pulse dead (t, 6250 - t) else if x = l then leg.low else {} }
    | _ => d.onSpn fun s => { s with legs := s.legs.map fun _ => {} }

/-- Output of a phase in a cycle of the period, high side or low side: low while island 13 is stopped, none where it is
three-stated (R263, R319, R619). -/
def Dev.gate (d : Dev) (phase : Nat) (high : Bool) (cycle : Nat) : Option Bool :=
  if !d.clocked 13 then some false
  else if d.drive = .float then none
  else
    let leg := d.spn.legs.getD phase {}
    some ((if high then leg.hi else leg.lo).any fun w => decide (w.1 ≤ cycle ∧ cycle < w.2))

end Sys2Proof.Machine
end

