-- ==== Sys2Proof/Machine/Spindle.lean ====
section
/-! DEFINITION. Commands of the spindle drive (chapter 08) and of braking, rate matching and power loss
(chapter 09). Speeds are in 1/16 rpm. -/

namespace Sys2Proof.Machine

/-- Clear REGULATED, with the revolutions that count for it (R291). -/
def Dev.unregulate (d : Dev) : Dev :=
  let d := d.onSpn fun s => { s with regRun := 0 }
  if d.on SPN_STATUS.REGULATED then (d.set SPN_STATUS.REGULATED 0).raise SPN_INT_STATUS.REG_CHANGE else d

/-- The speed source: the wedges of the lowest group whose WLS is in LOCK, else the observer; zero
crossings in ZC_FALLBACK, none with no rotor angle (R288, SPN_STATUS.SRC). -/
def Dev.source (d : Dev) : Nat × Nat :=
  let st := d.spnState
  match (List.finRange 4).find? fun (g : Grp) => d.get WLS_STATUS.STATE g == 2 with
  | some g => (2, g.val)
  | none =>
    if d.drive == .sixStep then (3, 0)
    else if st == spObs || st == spKe || st == spKeHold || st == spHfi || st == spCoast || st == spStop
    then (1, 0) else (0, 0)

/-- The next wedge anchors the phase reference and begins a revolution; the current added so far stays, so that no step results
(R288, R289, R291). -/
def Dev.reanchor (d : Dev) : Dev :=
  d.onSpn fun s => { s with grid := none, phInt := 0, phLast := 0, iqBase := s.iqAdd, revAcc := 0, revWedges := 0, revBad := false }

/-- The source changes, with SRC_CHANGE (R288). -/
def Dev.resource (d : Dev) : Dev :=
  let (s, g) := d.source
  if d.get SPN_STATUS.SRC == s && d.get SPN_STATUS.WGRP == g then d
  else
    (((d.set SPN_STATUS.SRC s).set SPN_STATUS.WGRP g).raise SPN_INT_STATUS.SRC_CHANGE).reanchor

/-- Enter a state: every change of state clears REGULATED (R291); a state with the gates off turns them off (R272); KE_CHECK
begins a measurement of Ke, so that its record is not valid (R37, R283). -/
def Dev.spnEnter (d : Dev) (st : Nat) : Dev :=
  let d := (((d.unregulate).set SPN_STATUS.STATE st).onSpn fun s =>
    { s with inState := 0, quiet := 0, resRun := 0, misRun := 0, agreed := 0, hfiRun := 0, recheck := false }).resource
  let d := if st = spKe then (d.set SPN_KE_MEAS.VALID 0).onSpn fun s => { s with cross := [], kePeak := 0 } else d
  if st = spOff ∨ st = spCheck ∨ st = spKe ∨ st = spCoast ∨ st = spFault then d.gatesOff else d

/-- Gates off, COAST; no STOPPING phase. -/
def Dev.spnCoast (d : Dev) : Dev := (d.spnEnter spCoast).set SPN_STOP_STATUS.PHASE 0

/-- The set-point, held in 1/32,000 rpm. -/
def Dev.setPoint (d : Dev) (fine : Nat) : Dev :=
  (d.onSpn fun s => { s with fine := fine }).setSat SPN_SETPOINT.SPEED (fine / 2000)

/-- The target in force (R294). -/
def Dev.spnTarget (d : Dev) : Nat := max 67200 (min 153600 (d.get SPN_TARGET.TARGET))

/-- Retries of a start whose spindle entered FAULT; the third ends it in SAFE (R597). -/
def Dev.startFailed (d : Dev) : Dev :=
  if d.startRuns then
    let d := d.onSeq fun s => { s with tries := s.tries + 1 }
    if 3 ≤ d.seq.tries then d.enterSafe 6 else d
  else d

/-- Entry to FAULT: FAULT, a UC record and an almanac record that names the cause (R287). -/
def Dev.spnFault (d : Dev) (cause : Nat) : Dev :=
  let d := ((d.spnEnter spFault).set SPN_STATUS.FCAUSE cause).set SPN_STOP_STATUS.PHASE 0
  ((((d.raise SPN_INT_STATUS.FAULT).uc 160).event 0x04 20 [cause])).startFailed

/-! ### Starting (R273 to R287) -/

/-- Speed from n electrical sixths of a turn in T µs. -/
def sixthSpeed (pp n t : Nat) : Nat :=
  if pp = 0 ∨ t = 0 then 2 ^ 18 - 1 else (freeDiv (160000000 * n) (pp * t)).toNat

def Phase.next : Sys2Proof.Phase → Sys2Proof.Phase
  | .u => .v | .v => .w | .w => .u

/-- Distinct phases of a list of crossings. -/
def phasesOf (l : List (Sys2Proof.Phase × Nat)) : Nat := (l.map Prod.fst).dedup.length

/-- The finding of a coast check: forward, speed, and whether REVERSE is to be taken whichever way
(R273, R275). -/
def coastFinding (pp : Nat) (l : List (Sys2Proof.Phase × Nat)) : Bool × Nat :=
  match l.reverse with
  | (p2, t2) :: (p1, t1) :: rest =>
    if 3 ≤ l.length ∧ 2 ≤ phasesOf l then
      match rest with
      | (_, t0) :: _ => (Phase.next p1 == p2, sixthSpeed pp 2 (t2 - t0))
      | [] => (Phase.next p1 == p2, sixthSpeed pp 1 (t2 - t1))
    else if p1 != p2 then (Phase.next p1 == p2, sixthSpeed pp 1 (t2 - t1))
    else (false, sixthSpeed pp 3 (t2 - t1))
  | _ => (true, 0)

/-- The coast check ends (R276). -/
def Dev.coastEnd (d : Dev) : Dev :=
  let (fwd, v) := coastFinding (d.get SPN_MODEL.POLE_PAIRS) d.spn.cross
  let result := if v < 480 then 0 else if !fwd then 1 else if v < 9600 then 2 else 3
  let d := ((d.set SPN_COAST_INFO.RESULT result).setSat SPN_COAST_INFO.SPEED v).stamp
    SPN_COAST_INFO.VALID SPN_COAST_INFO.SEQ
  let d := d.onSpn fun s => { s with cross := [], caught := result == 3, keTries := 0, polTries := 0 }
  match result with
  | 1 => ((d.spnEnter spRev).raise SPN_INT_STATUS.REVERSE).set SPN_STATUS.DIR 1
  | 3 => (d.spnEnter spKe).raise SPN_INT_STATUS.CATCH
  | _ => d.spnEnter spAlign

/-- START takes effect: COAST_CHECK, whose record is not valid from now, or FAULT where the Ke reference is fenced (R37, R273,
R287). -/
def Dev.spnStart (d : Dev) : Dev :=
  let d := ((d.set SPN_STATUS.KE_OK 0).set SPN_STATUS.DIR 0).set SPN_COAST_INFO.VALID 0
  let d := d.onSpn fun s =>
    { s with cross := [], started := false, abnormal := false, ofsN := 0, ofsSum := 0, flip := false, runup := true }
  if d.ksFenced 14 then d.spnFault 6 else d.spnEnter spCheck

/-- STOP takes effect (R300, R310 step 4). -/
def Dev.spnStop (d : Dev) : Dev :=
  let st := d.spnState
  if st == spCheck || st == spRev || st == spAlign then d.spnCoast
  else (d.spnEnter spStop).set SPN_STOP_STATUS.PHASE 1

/-- The spindle floats after an external overvoltage: only SPN_CTRL.EN brings it back (R319). -/
def Dev.floating (d : Dev) : Bool := d.spnState == spStop && d.get SPN_STOP_STATUS.PHASE == 4

/-- Latch SPN_CMD at the start of a PWM period (R300). KE_RECHECK enters KE_CHECK at 1,000 rpm. -/
def Dev.latchSpn (d : Dev) : Dev :=
  if !d.on SPN_CMD.GO then d
  else
    let st := d.spnState
    let op := d.get SPN_CMD.OP
    let d := d.set SPN_CMD.GO 0
    let ok := match op with
      | 0 => st == spCoast || st == spFault
      | 1 => st != spOff && st != spCoast && st != spFault
      | 2 => st != spOff && d.allParked
      | _ => st == spKeHold && d.mode == .makerService
    if !ok || d.floating then d.raise SPN_INT_STATUS.CMD_ERR
    else match op with
      | 0 => d.spnStart
      | 1 => d.spnStop
      | 2 => d.spnCoast
      | _ => d.onSpn fun s => { s with recheck := true }

/-! ### Overvoltage and the chopper (R317 to R319) -/

/-- The chopper is judged faulty (R318): 1 no current, 2 link still rising. -/
def Dev.chopBad (d : Dev) (why : Nat) : Dev :=
  (((d.set SPN_STOP_STATUS.CHOP_BAD 1).raise SPN_INT_STATUS.CHOP_FAULT).set SPN_STOP_STATUS.CHOP_ON 0).onSpn
    fun s => { s with ovWhy := why }

/-- The overvoltage's record; FLOAT keeps its stage until the spindle is disabled (R319 step 6). -/
def Dev.ovRecord (d : Dev) (stage : Nat) : Dev :=
  let d := ((d.set SPN_OV_INFO.STAGE stage).set SPN_OV_INFO.WHY d.spn.ovWhy).setSat SPN_OV_INFO.VMAX d.spn.vmax
  (d.stamp SPN_OV_INFO.VALID SPN_OV_INFO.SEQ).onSpn fun s => { s with ovStage := if stage = 2 then 3 else 0 }

/-- REGEN, or the short brake of an overvoltage, ends with the gates off in COAST; a START that waited for it is issued (R319, R321, R325). -/
def Dev.regenOver (d : Dev) : Dev :=
  let d := d.spnCoast
  if d.spn.restart then d.issueStart else d

/-- Step 3: the short brake from any state, every loaded group retracts (R319). -/
def Dev.ovShort (d : Dev) (v : Nat) : Dev :=
  let d := (d.spnEnter spStop).set SPN_STOP_STATUS.PHASE 3
  ((d.raise SPN_INT_STATUS.OV_SHORT).onSpn fun s => { s with ovStage := 2, ovAt := v }).modeRetract 8 false

/-- Step 4: the source is external, FLOAT, an FA record and an almanac record (R319). -/
def Dev.ovExternal (d : Dev) : Dev :=
  let d := (d.set SPN_STOP_STATUS.PHASE 4).raise SPN_INT_STATUS.OV_EXT
  ((d.ovRecord 2).fa 160).event 0x04 21 [d.spn.vmax]

/-- Steps 5 and 6: the short brake ends, not external (R319). -/
def Dev.ovEnd (d : Dev) : Dev := (d.regenOver).ovRecord 1

/-- The chopper's judgement: IBRK low for two periods, or the link risen past BRK_DV eight periods after the engagement; 0 where
neither holds (R318). -/
def Dev.chopWhy (d : Dev) (v : Nat) : Nat :=
  if 2 ≤ d.spn.lowBrk then 1
  else if d.spn.brkFor = 8 ∧ d.spn.engage + d.get SPN_CHOP_CFG.BRK_DV * 10 < v then 2
  else 0

/-- The chopper while it is on: IBRK in mA, and its judgement (R317, R318). -/
def Dev.chopSample (d : Dev) (v ibrk : Nat) : Dev :=
  if d.on SPN_STOP_STATUS.CHOP_ON then
    let d := (d.setSat SPN_STOP_STATUS.IBRK ibrk).onSpn fun s =>
      { s with brkFor := s.brkFor + 1,
               lowBrk := if ibrk < d.get SPN_CHOP_CFG.BRK_IMIN * 10 then s.lowBrk + 1 else 0 }
    d.when (d.chopWhy v != 0) (·.chopBad (d.chopWhy v))
  else d

/-- The chopper engages after a sample at or above 14.0 V wherever it is off and good (R317, R318). -/
def Dev.chopOn (d : Dev) (v : Nat) : Dev :=
  if d.on SPN_STOP_STATUS.CHOP_BAD || d.on SPN_STOP_STATUS.CHOP_ON then d
  else
    ((d.set SPN_STOP_STATUS.CHOP_ON 1).raise SPN_INT_STATUS.CHOP_ON).onSpn fun s =>
      { s with engage := v, brkFor := 0, lowBrk := 0 }

/-- The link sample of a period: chopper, its judgement, the short brake and FLOAT (R317 to R319). -/
def Dev.linkSample (d : Dev) (v ibrk : Nat) : Dev :=
  let d := d.onSpn fun s => { s with vmax := if s.ovStage = 0 then v else max s.vmax v }
  let d := d.chopSample v ibrk
  let d := if linkHigh v && d.spn.ovStage == 0 then
      (d.set SPN_OV_INFO.VALID 0).onSpn fun s => { s with ovStage := 1, vmax := v, ovWhy := 0 }
    else d
  let d := d.when (linkHigh v) (·.chopOn v)
  let d := if v < 13500 then
      let d := d.set SPN_STOP_STATUS.CHOP_ON 0
      if d.spn.ovStage = 1 then d.ovRecord 0 else d
    else d
  let d := d.onSpn fun s => { s with under := if v < 13500 then s.under + 1 else 0 }
  if d.spn.ovStage = 2 ∧ d.spn.ovAt + d.get SPN_CHOP_CFG.OV_RISE * 10 < v then d.ovExternal
  else if d.spn.ovStage = 2 ∧ 32 ≤ d.spn.under then d.ovEnd
  else if 15000 ≤ v ∧ d.spn.ovStage = 1 ∧ !d.floating then d.ovShort v
  else d

/-! ### Ramps and speed conditions (R281, R282, R293, R297) -/

/-- The ramp's rate in rpm/s: the run-up's until the set-point first reaches the target, while every group is OFF or PARKED
(R282, R293, R310). DEDUCED (log entry 146): the end of the run-up. -/
def Dev.rampRate (d : Dev) : Nat :=
  if d.spnState = spStop then atLeast1 (d.get SPN_STOP_CFG.STOP_DECEL)
  else if d.spn.runup && d.allParked then atLeast1 (d.get SPN_RAMP.RUNUP_ACCEL)
  else min 150 (atLeast1 (d.get SPN_RAMP.GLIDE_RATE))

/-- Where the set-point moves in the present state, none where it holds (R280, R282, R283, R286, R296,
R310). -/
def Dev.rampGoal (d : Dev) : Option Nat :=
  let st := d.spnState
  if st = spHfi then some (min d.spnTarget 9600)
  else if st = spObs then some (if d.on SPN_STATUS.KE_OK then d.spnTarget else min d.spnTarget 16000)
  else if st = spKeHold then some 16000
  else if st = spStop ∧ d.get SPN_STOP_STATUS.PHASE = 1 then some 0
  else none

/-- The set-point moves by one period's step; while the current limit holds it waits. A set-point that does not move commands no
acceleration (R282, R292, R293). -/
def Dev.ramp (d : Dev) (atLimit : Bool) : Dev :=
  let d := d.when atLimit (·.raise SPN_INT_STATUS.CUR_LIMIT)
  -- in REGEN the wedges measure what is published (R323)
  let still := fun (d : Dev) => d.onSpn fun s =>
    { s with accel := if d.spnState = spStop ∧ d.get SPN_STOP_STATUS.PHASE = 2 then s.accel else 0 }
  match d.rampGoal with
  | none => still d
  | some goal =>
    let r := d.rampRate
    let f := d.spn.fine
    let g := goal * 2000
    if atLimit then still d
    else if f < g then (d.setPoint (min g (f + r))).onSpn fun s => { s with accel := if g ≤ f + r then 0 else r }
    else if g < f then (d.setPoint (max g (f - r))).onSpn fun s => { s with accel := if f - r ≤ g then 0 else -r }
    else d.onSpn fun s => { s with accel := 0 }

/-- A set-point is in force: from HFI_RUN to ZC_FALLBACK (R272). -/
def Dev.driven (d : Dev) : Bool := decide (spHfi ≤ d.spnState ∧ d.spnState ≤ spZc)

/-- GLIDING while a set-point is in force that differs from the target; GLIDE_DONE; the modes ACTIVE and GLIDE; the run-up ends at
the target (R282, R291, R293, R600). -/
def Dev.glide (d : Dev) : Dev :=
  let drives := d.driven
  let now := drives ∧ d.spn.fine ≠ d.spnTarget * 2000
  let was := d.on SPN_STATUS.GLIDING
  let d := d.onSpn fun s => { s with runup := s.runup && !(drives && s.fine == d.spnTarget * 2000) }
  let d := if now ∧ !was then (d.set SPN_STATUS.GLIDING 1).unregulate
    else if !now && was then
      let d := d.set SPN_STATUS.GLIDING 0
      if drives then d.raise SPN_INT_STATUS.GLIDE_DONE else d
    else d
  d.followGlide

/-- The speed's consequences by state: KE_CHECK at 1,000 rpm, KE_HOLD below it, HFI_RUN below 500 rpm with the injection's angle
preset, the end of REGEN, which lets a waiting START go, BRAKE to SHORT (R281, R283, R286, R300, R310, R321, R325). -/
def Dev.speedConditions (d : Dev) (v : Nat) : Dev :=
  let st := d.spnState
  let ph := d.get SPN_STOP_STATUS.PHASE
  let at1000 := d.spn.fine = 16000 * 2000 ∧ 16000 ≤ v
  if st = spObs ∧ !d.on SPN_STATUS.KE_OK ∧ at1000 then d.spnEnter spKe
  else if st = spKeHold ∧ d.spn.recheck ∧ at1000 then
    (d.onSpn fun s => { s with keTries := 0, abnormal := false, caught := false }).spnEnter spKe
  else if st = spKe ∧ d.spn.abnormal ∧ v ≤ 16000 then (d.setPoint (v * 2000)).spnEnter spKeHold
  else if st = spObs ∧ v < 8000 then (d.onSpn fun s => { s with flip := false, hfiAngle := s.obsAngle }).spnEnter spHfi
  else if st = spStop ∧ ph = 2 ∧ v < d.get SPN_REGEN_CFG.MIN_SPEED * 1600 then d.regenOver
  else if st = spStop ∧ ph = 1 ∧ v < 9600 then d.set SPN_STOP_STATUS.PHASE 3
  else d

/-- ZC_FALLBACK: at the first speed outside 2 % of the set-point every loaded group retracts (R297). -/
def Dev.zcSpeed (d : Dev) (v : Nat) : Dev :=
  if d.spnState = spZc ∧ !d.spn.zcRetract ∧
      d.spn.fine / 2000 * 2 < ((v : Int) - (d.spn.fine / 2000 : Nat)).natAbs * 100 then
    ((d.onSpn fun s => { s with zcRetract := true }).set SPN_LOSS_INFO.RETRACTED 1).modeRetract 8 false
  else d

/-- The speed as the present source measures it: the wedges', that of the crossing intervals, else the observer's (R288, R297). -/
def Dev.speedOf (d : Dev) (p : PwmIn) : Nat :=
  match d.get SPN_STATUS.SRC with
  | 2 => d.spn.wedgeSpeed
  | 3 => sixthSpeed (d.get SPN_MODEL.POLE_PAIRS) 4 d.spn.sixth
  | _ => p.obsSpeed

/-! ### Six-step drive (R296, R298, R299, R321) -/

/-- A 60° interval at a speed, in 1/4 µs. -/
def Dev.sixthAt (d : Dev) (v : Nat) : Nat :=
  (freeDiv 640000000 (max 1 (d.get SPN_MODEL.POLE_PAIRS * v) : Nat)).toNat

/-- The phase that floats in the present sector (R296). -/
def Dev.floatPhase (d : Dev) : Nat :=
  let (h, l) := sixSector (d.spn.sector + d.spn.comms)
  3 - h - l

/-- A commutation at a time: the next sector, whose edge is the commutation angle (R296). -/
def Dev.commutate (d : Dev) (t : Nat) : Dev :=
  d.onSpn fun s =>
    { s with comms := s.comms + 1, lastComm := t, commAt := none, angle := (s.sector + s.comms + 1) % 6 * 65536 / 6 }

/-- The commutation that a crossing has set falls due (R296). -/
def Dev.commDue (d : Dev) : Dev :=
  match d.spn.commAt with
  | some t => if d.drive == .sixStep && decide (t ≤ d.spn.clk) then d.commutate t else d
  | none => d

/-- A zero crossing under six-step drive, at a time in µs: past the blanking and on the floating phase it measures the 60°
interval and sets the commutation 30° later, timed from that interval (R296). -/
def Dev.sixCross (d : Dev) (ph : Sys2Proof.Phase) (us : Nat) : Dev :=
  let at_ := match ph with | .u => 0 | .v => 1 | .w => 2
  if at_ = d.floatPhase ∧ d.spn.lastComm + 4 * d.get SPN_OBS_CFG.ZC_BLANK ≤ 4 * us then
    let was := d.spn.cross.getLast?.map Prod.snd
    d.onSpn fun s =>
      let sixth : Nat := match was with
        | some t => (freeDiv (4 * ((us : Int) - t)) (s.zcMiss + 1)).toNat
        | none => s.sixth
      { s with cross := [(ph, us)], sixth := sixth, zcMiss := 0, commAt := some (4 * us + (freeDiv sixth 2).toNat) }
  else d

/-- The rotor is lost: ZC_FALLBACK from the last good angle, advanced at the speed measured; SPN_LOSS_INFO not valid (R295, R296). -/
def Dev.loseRotor (d : Dev) (mismatch : Bool) : Dev :=
  let st := d.spnState
  if st = spObs ∨ st = spKeHold then
    let v := d.get SPN_SPEED.SPEED
    let d := (d.raise SPN_INT_STATUS.OBS_LOST).setWord SPN_LOSS_INFO
      (BitVec.ofNat 32 (d.get SPN_LOSS_INFO.SEQ * 2 ^ 24))
    let d := (d.set SPN_LOSS_INFO.CAUSE mismatch.toNat).set SPN_LOSS_INFO.SPEED v
    let a := (d.spn.goodAngle + d.turnIn d.spn.goodAge v) % 65536
    ((d.onSpn fun s =>
      { s with before := st, zcRetract := false, cross := [], angle := a, sector := a * 6 / 65536, comms := 0, commAt := none,
               lastComm := s.clk, sixth := d.sixthAt v, zcMiss := 0, reacq := 0 }).spnEnter spZc).glide
  else d

/-- The observer's angle lies within a number of degrees of an angle. -/
def nearAngle (deg a b : Nat) : Bool :=
  let x := ((a : Int) - b).natAbs % 65536
  decide (min x (65536 - x) * 360 ≤ deg * 65536)

/-- The judgement of the observer: RES_CNT consecutive periods with the residual above RES_THR, or, with the wedge source,
with the speeds more than 1 % apart (R295). A period without either gives the last good angle (R296). -/
def Dev.judgeRotor (d : Dev) (p : PwmIn) : Dev :=
  let st := d.spnState
  let w := d.spn.wedgeSpeed
  let far := d.get SPN_STATUS.SRC == 2 && decide (w < ((p.obsSpeed : Int) - w).natAbs * 100)
  let high := decide (d.get SPN_OBS_CFG.RES_THR < p.resid)
  let d := d.onSpn fun s =>
    { s with resRun := if high then s.resRun + 1 else 0, misRun := if far then s.misRun + 1 else 0,
             goodAngle := if high || far then s.goodAngle else s.obsAngle, goodAge := if high || far then s.goodAge + 1 else 0 }
  let n := atLeast1 (d.get SPN_OBS_CFG.RES_CNT)
  if st != spObs && st != spKeHold then d
  else if n ≤ d.spn.resRun then d.loseRotor false
  else if n ≤ d.spn.misRun then d.loseRotor true
  else d

/-- The rotor is acquired again: the residual at or below half of RES_THR for REACQ_CNT x 8 periods in a row, and the observer's
angle within 15° of the commutation angle (R298). -/
def Dev.mayReacquire (d : Dev) : Bool :=
  d.spnState == spZc && decide (8 * d.get SPN_OBS_CFG.REACQ_CNT ≤ d.spn.reacq) && nearAngle 15 d.spn.angle d.spn.obsAngle

/-- Back to the state before the loss, at the observer's angle, with the q-axis current of the last six-step period (R298). -/
def Dev.reacquire (d : Dev) : Dev :=
  let d := ((d.set SPN_LOSS_INFO.REACQ 1).stamp SPN_LOSS_INFO.VALID SPN_LOSS_INFO.SEQ).raise
    SPN_INT_STATUS.OBS_REACQ
  let iq := sext 16 (d.get SPN_MEAS.IQ)
  ((d.spnEnter d.spn.before).onSpn fun s => { s with iqRef := iq, angle := s.obsAngle }).glide

/-- ZC_FALLBACK: the observer goes on, and acquires the rotor again (R298). -/
def Dev.judgeReacq (d : Dev) (resid : Nat) : Dev :=
  if d.spnState = spZc then
    let d := d.onSpn fun s => { s with reacq := if 2 * resid ≤ d.get SPN_OBS_CFG.RES_THR then s.reacq + 1 else 0 }
    d.when d.mayReacquire (·.reacquire)
  else d

/-! ### From injection to observer (R278 to R280) -/

/-- OBS_RUN from HFI_RUN at or above 600 rpm, with the angles agreed for 32 periods (R280). -/
def Dev.handOverAngle (d : Dev) : Dev :=
  if d.spnState = spHfi ∧ 9600 ≤ d.get SPN_SPEED.SPEED ∧ 32 ≤ d.spn.agreed then (d.spnEnter spObs).glide else d

/-- The observer's angle against the injection's: within 10° for 32 consecutive periods (R280). -/
def Dev.judgeAngles (d : Dev) : Dev :=
  let near := nearAngle 10 d.spn.angle d.spn.obsAngle
  (d.onSpn fun s => { s with agreed := if near && d.spnState == spHfi then s.agreed + 1 else 0 }).handOverAngle

/-- The injection's angle has converged in ALIGN: the polarity test begins, unless it runs (R278, R279). -/
def Dev.converge (d : Dev) : Dev :=
  if d.spnState = spAlign ∧ d.spn.polAt = none ∧ 64 ≤ d.spn.hfiRun then
    d.onSpn fun s => { s with polTries := 0, flip := false, polAt := some 0 }
  else d

/-- What follows the first REGULATED of a start (R596 step 8, R605). -/
def Dev.spunUp (d : Dev) : Dev :=
  if d.mode == .spinUp then d.enterHeadLoad
  else if d.mode == .safe && d.seq.safeStart == 1 then
    (d.onSeq fun s => { s with safeStart := 2, loads := true, cal := false, step11 := false, tries := 0 }).loadAll
  else d

/-- A revolution has ended, within the tolerance or not: REG_REVS in a row within it set REGULATED, one outside clears it
(R291). -/
def Dev.revolution (d : Dev) (good : Bool) : Dev :=
  if !d.driven then d
  else if !good then d.unregulate
  else
    let d := d.onSpn fun s => { s with regRun := s.regRun + 1 }
    if d.spn.regRun < atLeast1 (d.get SPN_REG_CFG.REG_REVS) || d.on SPN_STATUS.REGULATED then d
    else
      let d := (d.set SPN_STATUS.REGULATED 1).raise SPN_INT_STATUS.REG_CHANGE
      if d.spn.started then d.spunUp
      else ((d.onSpn fun s => { s with started := true }).raise SPN_INT_STATUS.STARTED).spunUp

/-- A value of x against a reference y lies outside REG_TOL x 10 ppm of it (R291). -/
def Dev.outOfTol (d : Dev) (x y : Rat) : Bool :=
  decide (d.get SPN_REG_CFG.REG_TOL * 10 * y < (x - y) * 1000000 ∨ d.get SPN_REG_CFG.REG_TOL * 10 * y < (y - x) * 1000000)

/-- A period's turn where no wedge measures the speed: it counts towards the revolution, 30,720,000 of 1/16 rpm a period, and its
speed error towards the revolution's (R291). -/
def Dev.turnRev (d : Dev) (v : Nat) : Dev :=
  if d.get SPN_STATUS.SRC = 1 ∨ d.get SPN_STATUS.SRC = 3 then
    let d := d.onSpn fun s => { s with revAcc := s.revAcc + v, revBad := s.revBad || d.outOfTol (v * 2000 : Nat) s.fine }
    if 30720000 ≤ d.spn.revAcc then
      let bad := d.spn.revBad
      (d.onSpn fun s => { s with revAcc := s.revAcc - 30720000, revBad := false }).revolution !bad
    else d
  else d

/-- No phase-voltage sign has changed for 2,000 / POLE_PAIRS ms, 32 periods each: REV_BRAKE leads to ALIGN (R277). -/
def Dev.judgeRest (d : Dev) : Dev :=
  if d.spnState = spRev ∧ 64000 ≤ d.spn.quiet * d.get SPN_MODEL.POLE_PAIRS then d.spnEnter spAlign else d

/-- A power loss is detected: PF_DETECT, the record and REGEN; the modes follow. The detection latches (R320, R321, R324). -/
def Dev.losePower (d : Dev) (link : Bool) : Dev :=
  if d.spn.pf then d
  else
    let d := (d.raise SPN_INT_STATUS.PF_DETECT).when link (·.raise SPN_INT_STATUS.LINK_UV)
    let st := d.spnState
    let d := d.onSpn fun s => { s with pf := true, regenSix := st == spZc, linkInt := 0 }
    let regen := d.islandUp 13 && (st == spObs || st == spKeHold || st == spZc)
    let v := d.get SPN_SPEED.SPEED
    let d := ((d.set SPN_PF_INFO.SRC link.toNat).set SPN_PF_INFO.REGEN regen.toNat).set SPN_PF_INFO.SPEED v
    let d := d.stamp SPN_PF_INFO.VALID SPN_PF_INFO.SEQ
    let d := if regen then
        let d := ((d.spnEnter spStop).set SPN_STOP_STATUS.PHASE 2).raise SPN_INT_STATUS.REGEN
        (if v < d.get SPN_REGEN_CFG.MIN_SPEED * 1600 then d.regenOver else d).glide
      else d
    let d := d.each (List.finRange 4) fun g d => d.refreshInh g
    d.powerLost

/-- The samples of the period that ends, and what they show of rotor and speed (R265, R270, R278, R288, R291, R295, R298). -/
def Dev.periodSamples (d : Dev) (p : PwmIn) : Dev :=
  let v := d.speedOf p
  let d := ((d.setSat SPN_MEAS.VLINK (linkMv p.vlink)).set SPN_MEAS.IQ (twos 16 p.iq)).setSat SPN_SPEED.SPEED v
  let d := ((d.samplePhases p).hfiLoop p).angleIn p
  (((d.commDue).turnRev v).judgeRotor p).judgeReacq p.resid

/-- PWM_PERIOD (R265 to R272, R277, R280, R282, R293, R295 to R298, R300, R301, R316 to R320): the samples of the period that
ends and the fault reactions to them, then the latch of SPN_CMD, then the ramp, the conditions and the drive of the next
period. -/
def execPwmPeriod (p : PwmIn) (s : State) : Out :=
  s.runIn 13 fun d =>
    if !d.islandUp 13 then d
    else
      let d := d.periodSamples p
      let v := d.get SPN_SPEED.SPEED
      let d := d.linkSample (linkMv p.vlink) ((d.shunt p.brkCode).toNat / 1000)
      let d := if linkMv p.vlink < d.get SPN_LINK_CFG.PF_VLINK then d.losePower true else d
      let d := d.zcSpeed v
      let d := if d.spnState = spOff then d.set SPN_CMD.GO 0 |>.when (d.on SPN_CMD.GO)
          (·.raise SPN_INT_STATUS.CMD_ERR)
        else d.latchSpn
      let d := (d.ramp (d.atLimit p)).speedConditions v
      let d := (((d.judgeAngles).converge).judgeRest).glide
      (((d.resource).current p).inject).modulate p

/-! ### Commands -/

/-- A firmware write of SPN_CMD: LOCKED outside MAKER_SERVICE; a later write replaces an operation not
yet latched (R300). -/
def Dev.spnCmdWrite (d : Dev) (who : Who) (v : Word) (op : Nat) : Dev :=
  d.busWriteOr who SPN_CMD.at fun d =>
    if d.mode != .makerService then .error .locked
    else .ok (d.plainWrite who SPN_CMD 0 0 (withField (withField v 0 2 op) 31 1 1))

/-- SPN_START (R273, R300). -/
def execSpnStart (who : Who) (v : Word) (s : State) : Out := s.run fun d => d.spnCmdWrite who v 0

/-- SPN_STOP (R300). -/
def execSpnStop (who : Who) (v : Word) (s : State) : Out := s.run fun d => d.spnCmdWrite who v 1

/-- SPN_COAST (R300). -/
def execSpnCoast (who : Who) (v : Word) (s : State) : Out := s.run fun d => d.spnCmdWrite who v 2

/-- KE_RECHECK (R300). -/
def execKeRecheck (who : Who) (v : Word) (s : State) : Out := s.run fun d => d.spnCmdWrite who v 3

/-- SPN_ENABLE (R302, SPN_CTRL): OFF becomes COAST. -/
def execSpnEnable (who : Who) (v : Word) (s : State) : Out :=
  s.run fun d => d.busWrite who SPN_CTRL.at fun d =>
    let d := d.plainWrite who SPN_CTRL 0 0 (withField v 0 1 1)
    if d.spnState = spOff then d.spnCoast else d

/-- SPN_DISABLE (R302): outside OFF and COAST every loaded group retracts first; then OFF, which ends a short brake's overvoltage
with its record and FLOAT (R319). -/
def execSpnDisable (who : Who) (v : Word) (s : State) : Out :=
  s.run fun d => d.busWrite who SPN_CTRL.at fun d =>
    let d := d.plainWrite who SPN_CTRL 0 0 (withField v 0 1 0)
    let st := d.spnState
    let d := if st = spOff ∨ st = spCoast then d else d.retractAll 8
    let d := ((d.spnEnter spOff).set SPN_STOP_STATUS.PHASE 0).glide
    if d.spn.ovStage = 2 then d.ovRecord 1
    else d.onSpn fun s => { s with ovStage := if s.ovStage = 3 then 0 else s.ovStage }

/-- SPN_TARGET_WRITE (R294): LOCKED outside MAKER_SERVICE. -/
def execSpnTargetWrite (who : Who) (v : Word) (s : State) : Out :=
  s.run fun d => d.busWriteOr who SPN_TARGET.at fun d =>
    if d.mode != .makerService then .error .locked
    else .ok (d.plainWrite who SPN_TARGET 0 0 v).glide

/-! ### Start events -/

/-- ZERO_CROSSING (R273, R283, R296), at a time in µs on the spindle's clock: a crossing of the coast check ends it at the third on
at least two phases; KE_CHECK collects them; under six-step drive it sets the commutation 30° later. -/
def execZeroCrossing (ph : Sys2Proof.Phase) (us : Nat) (s : State) : Out :=
  s.runIn 13 fun d =>
    if d.spnState = spCheck then
      let d := d.onSpn fun s => { s with cross := s.cross ++ [(ph, us)] }
      if 3 ≤ d.spn.cross.length ∧ 2 ≤ phasesOf d.spn.cross then d.coastEnd else d
    else if d.spnState = spKe then d.onSpn fun s => { s with cross := s.cross ++ [(ph, us)] }
    else if d.drive = .sixStep then d.sixCross ph us
    else d

/-- COAST_CHECK_TIMEOUT (R273, R275): COAST_MS has passed. -/
def execCoastCheckTimeout (s : State) : Out :=
  s.runIn 13 fun d => if d.spnState = spCheck then d.coastEnd else d

/-- REV_BRAKE_REST (R277). -/
def execRevBrakeRest (s : State) : Out :=
  s.runIn 13 fun d => if d.spnState = spRev then d.spnEnter spAlign else d

/-- REV_BRAKE_TIMEOUT (R277): FAULT with cause REV. -/
def execRevBrakeTimeout (s : State) : Out :=
  s.runIn 13 fun d => if d.spnState = spRev then d.spnFault 1 else d

/-- HFI_CONVERGED (R278, R279): after 64 periods with the error under 5° the polarity test begins. -/
def execHfiConverged (s : State) : Out := s.runIn 13 (·.converge)

/-- HFI_TIMEOUT (R278): an angle that has not converged leads to FAULT with cause HFI. -/
def execHfiTimeout (s : State) : Out :=
  s.runIn 13 fun d => if d.spnState = spAlign ∧ d.spn.polAt = none then d.spnFault 2 else d

/-- POLARITY_TEST_END (R279), of the test that runs: the peaks of |i_d|; within 3 % of the larger there is no decision, and
the third such test is FAULT with cause POL; else HFI_RUN, 180° on where the negative peak is larger. -/
def execPolarityTestEnd (posPeak negPeak : Nat) (s : State) : Out :=
  s.runIn 13 fun d =>
    if d.spnState != spAlign || d.spn.polAt.isNone then d
    else if ((posPeak : Int) - negPeak).natAbs * 100 < 3 * max posPeak negPeak ∨ posPeak = negPeak then
      let d := d.onSpn fun s => { s with polTries := s.polTries + 1, polAt := some 0 }
      if 3 ≤ d.spn.polTries then d.spnFault 3 else d
    else
      ((d.onSpn fun s => { s with flip := decide (posPeak < negPeak), polAt := none }).setPoint
        (d.get SPN_SPEED.SPEED * 2000)).spnEnter spHfi

/-- OBS_HANDOVER (R280): at or above 600 rpm with the angles agreed. -/
def execObsHandover (s : State) : Out := s.runIn 13 (·.handOverAngle)

/-- HANDOVER_TIMEOUT (R280): at 600 rpm with the angles not agreed, FAULT with cause HANDOVER. -/
def execHandoverTimeout (s : State) : Out :=
  s.runIn 13 fun d =>
    if d.spnState = spHfi ∧ 9600 ≤ d.get SPN_SPEED.SPEED ∧ d.spn.agreed < 32 then d.spnFault 4 else d

/-- A measured Ke is judged (R285, R286). -/
def Dev.judgeKe (d : Dev) (ke v : Nat) : Dev :=
  let ref := d.get SPN_KE_REF.KE
  let pass := decide (((ke : Int) - ref).natAbs * 100 ≤ 8 * ref)
  let d := (((d.set SPN_KE_MEAS.SRC (!d.spn.caught).toNat).set SPN_KE_MEAS.PASS pass.toNat).setSat
    SPN_KE_MEAS.KE ke).stamp SPN_KE_MEAS.VALID SPN_KE_MEAS.SEQ
  let d := (d.raise SPN_INT_STATUS.KE_DONE).set SPN_STATUS.KE_OK pass.toNat
  if pass then
    (((d.onSpn fun s => { s with abnormal := false }).setPoint (v * 2000)).spnEnter spObs).glide
  else
    let d := ((d.raise SPN_INT_STATUS.ABNORMAL_KE).event 0x04 22 [ke, ref]).onSpn fun s =>
      { s with abnormal := true }
    let d := if v ≤ 16000 then (d.setPoint (v * 2000)).spnEnter spKeHold else d
    if d.startRuns then d.enterSafe 6 else d

/-- The speed of a Ke window from its crossings, none with fewer than two on a phase: the window is KE_WIN electrical periods of
six crossings each, and the speed the mean over its intervals (R283, R284). DEDUCED (log entry 146): the mean. -/
def keSpeed (pp win : Nat) (l : List (Sys2Proof.Phase × Nat)) : Option Nat :=
  let l := l.take (6 * win + 1)
  let enough := [Sys2Proof.Phase.u, .v, .w].all fun p => decide (2 ≤ (l.filter fun x => x.1 == p).length)
  match l.head?, l.getLast? with
  | some (_, a), some (_, b) => if enough && decide (a < b) then some (sixthSpeed pp (l.length - 1) (b - a)) else none
  | _, _ => none

/-- The Ke window that has ended: the crossings and phase voltages that commands brought while it ran, and the further ones given
(R283). -/
def Dev.keWindow (d : Dev) (more : List (Sys2Proof.Phase × Nat)) (volts : List (BitVec 12 × BitVec 12 × BitVec 12))
    (since : Nat) : Option Nat × Nat :=
  let l := (d.spn.cross ++ more).filter fun x => decide (since ≤ x.2)
  (keSpeed (d.get SPN_MODEL.POLE_PAIRS) (atLeast1 (d.get SPN_COAST_CFG.KE_WIN)) l, (volts.map linePeak).foldl max d.spn.kePeak)

/-- KE_CHECK_END (R283 to R286): the window, which began at a time in µs, has ended; crossings and phase voltages of it that no
ZERO_CROSSING or PWM_PERIOD brought are given. Fewer than two crossings on a phase repeat the measurement once, then FAULT with
cause KE_MEAS; else the peak voltage over the speed is judged. -/
def execKeCheckEnd (crossings : List (Sys2Proof.Phase × Nat)) (volts : List (BitVec 12 × BitVec 12 × BitVec 12)) (since : Nat)
    (s : State) : Out :=
  s.runIn 13 fun d =>
    if d.spnState != spKe || d.spn.abnormal then d
    else match d.keWindow crossings volts since with
      | (some v, peak) => if v = 0 then d else d.judgeKe (freeDiv (peak * 160000 : Nat) v).toNat v
      | (none, _) =>
        let d := d.onSpn fun s => { s with keTries := s.keTries + 1, cross := [], kePeak := 0 }
        if 2 ≤ d.spn.keTries then d.spnFault 5 else d

/-! ### Regulation and loss of the rotor -/

/-- OBS_LOST (R295, R296): true for a speed mismatch, which only the wedge source shows; ZC_FALLBACK, SPN_LOSS_INFO not valid. -/
def execObsLost (mismatch : Bool) (s : State) : Out :=
  s.runIn 13 fun d => if mismatch && d.get SPN_STATUS.SRC != 2 then d else d.loseRotor mismatch

/-- OBS_REACQ (R298): the conditions hold, and the spindle is back in the state before the loss. -/
def execObsReacq (s : State) : Out := s.runIn 13 fun d => d.when d.mayReacquire (·.reacquire)

/-- ZC_MISSED (R299): with no crossing found, the commutation is made at the expected time. -/
def execZcMissed (s : State) : Out :=
  s.runIn 13 fun d =>
    if d.drive = .sixStep ∧ d.spn.commAt = none then
      (d.commutate d.spn.clk).onSpn fun s => { s with zcMiss := s.zcMiss + 1 }
    else d

/-- ZC_LOST (R299). -/
def execZcLost (s : State) : Out :=
  s.runIn 13 fun d =>
    if d.spnState = spZc then
      let d := (d.raise SPN_INT_STATUS.ZC_LOST).set SPN_LOSS_INFO.ZC_LOST 1
      let d := (d.stamp SPN_LOSS_INFO.VALID SPN_LOSS_INFO.SEQ).spnCoast
      (((d.glide).modeRetract 8 false).uc 160).event 0x04 23 []
    else d

/-- A wedge interval at the set-point, 60 / (set-point x N_w) s, in 1/8 island cycle (R289). -/
def Dev.wedgeEighths (d : Dev) : Rat := 3072000000000000 / (max (d.spn.fine * d.nw) 1 : Nat)

/-- The phase error of a wedge whose reference cell falls at a time: against the grid, which the anchor wedge starts (R289). -/
def Dev.phaseError (d : Dev) (time : Nat) : Option Rat := d.spn.grid.map fun g => (time : Rat) - (g + d.wedgeEighths)

/-- The PID of R289 on a phase error in 1/8 island cycle, rounded as the implementation rounds. -/
def Dev.phasePid (d : Dev) (e : Rat) : Dev :=
  let err := freeDiv e.num e.den
  d.onSpn fun s =>
    let i := s.phInt + err
    { s with phInt := i, phLast := err,
             iqAdd := s.iqBase + freeDiv err (2 ^ d.get SPN_REG_CFG.KPH) + freeDiv i (2 ^ d.get SPN_REG_CFG.KIH) +
               freeDiv (err - s.phLast) (2 ^ d.get SPN_REG_CFG.KDH) }

/-- A wedge of the source after the anchor: the N_w-th ends a revolution, whose mean speed error is judged (R291). -/
def Dev.wedgeTurn (d : Dev) (time : Nat) : Dev :=
  let d := d.onSpn fun s => { s with revWedges := s.revWedges + 1 }
  if d.spn.revWedges < d.nw then d
  else
    let bad := d.outOfTol (d.wedgeEighths * d.nw) (((time : Int) - d.spn.revStart : Int) : Rat)
    (d.onSpn fun s => { s with revStart := time, revWedges := 0 }).revolution !bad

/-- WEDGE_REGULATION (R289): a wedge of the source at a time in 1/8 island cycle. The first anchors the grid; each later one
advances it by an interval and updates the PID; an error past half an interval anchors it again and clears REGULATED. The wedge
that ends a revolution judges its time against 60 / set-point (R291). -/
def execWedgeRegulation (time : Nat) (s : State) : Out :=
  s.runIn 13 fun d =>
    if d.get SPN_STATUS.SRC != 2 then d
    else
      let anchor := fun (d : Dev) => d.onSpn fun s => { s with grid := some (time : Rat), revStart := time, revWedges := 0 }
      match d.phaseError time with
      | none => anchor d
      | some e =>
        if d.wedgeEighths < 2 * e ∨ d.wedgeEighths < -(2 * e) then anchor ((d.reanchor).unregulate)
        else ((d.onSpn fun s => { s with grid := s.grid.map (· + d.wedgeEighths) }).phasePid e).wedgeTurn time

/-- REGULATED (R291): speed errors in ppm, as the source measures them, of the revolutions that have ended, oldest first. -/
def execRegulated (errs : List Int) (s : State) : Out :=
  s.runIn 13 fun d => errs.foldl (fun d e => d.revolution (decide (e.natAbs ≤ d.get SPN_REG_CFG.REG_TOL * 10))) d

/-! ### Overvoltage and power loss -/

/-- CHOP_FAULT (R318): the judgement, while the chopper is on and one of the two cases holds. -/
def execChopFault (s : State) : Out :=
  s.runIn 13 fun d =>
    let why := d.chopWhy (d.get SPN_MEAS.VLINK)
    if d.on SPN_STOP_STATUS.CHOP_ON ∧ why ≠ 0 then d.chopBad why else d

/-- OV_RECOVER (R319 steps 5 and 6): after the short brake, not external, with the link below 13.5 V. -/
def execOvRecover (s : State) : Out :=
  s.runIn 13 fun d => if d.spn.ovStage = 2 ∧ d.spn.under ≠ 0 then d.ovEnd else d

/-- POWER_LOSS (R320, R321, R324): PWRFAIL_L low for 1 µs, or the link under-voltage. -/
def execPowerLoss (link : Bool) (s : State) : Out :=
  s.run fun d => (if link then d else { d with pwrfail := true }).losePower link

/-- PF_RELEASE (R325): PWRFAIL_L and the link have been good for 10 ms. In COAST_FLUSH the detection
ends with the flush (R320, R329). A START held back, or one for a spindle that REGEN has taken, is issued, after REGEN where it
still runs. -/
def execPfRelease (s : State) : Out :=
  s.run fun d =>
    let d := { d with pwrfail := false }
    let d := d.each (List.finRange 4) fun g d => d.refreshInh g
    if d.mode == .coastFlush then d.afterPark
    else if !d.spn.pf then d
    else
      let d := d.onSpn fun s => { s with pf := false }
      let again := d.spn.restart || (d.mode == .spinUp && d.on SPN_PF_INFO.REGEN)
      if d.mode == .retract then d.afterPark
      else if again && d.inMode [.spinUp, .safe] then d.issueStart
      else d

/-- FLUSH_TIME_LIMIT (R328): groups that still write stop, without a trailer. -/
def execFlushTimeLimit (s : State) : Out :=
  s.run fun d =>
    if d.mode == .coastFlush && d.que.flush.isSome then (d.endFlush).afterPark else d

/-- SPIN_DOWN_DESTAGED (R310 step 3, R581): the held portion and the media queues are empty. -/
def execSpinDownDestaged (s : State) : Out := s.run fun d => d.spinAdvance

/-- STOP_DONE (R310 step 6): at rest in phase SHORT of a STOP. -/
def execStopDone (s : State) : Out :=
  s.runIn 13 fun d =>
    if d.spnState = spStop ∧ d.get SPN_STOP_STATUS.PHASE = 3 ∧ d.spn.ovStage = 0 then
      let d := ((d.spnCoast).raise SPN_INT_STATUS.STOP_DONE).setPoint 0
      if d.seq.spinDown = 4 then d.enterStandby else d
    else d

/-! ### Rate matching (R303 to R308) -/

/-- Band b is a candidate (R306). -/
def Dev.candidate (d : Dev) (b : Nat) : Bool :=
  decide (d.get RMT_HOST.FLOOR ≤ b) && decide (b ≤ d.ceilEff) &&
    (List.finRange 4).all fun (g : Grp) => !d.hasHeads g || d.grpState g == gsOffline ||
      bit (d.get SRV_BAND_VALID.VALID g) b

/-- Bytes of media reads queued in QUE (R305). -/
def Dev.queuedReads (d : Dev) : Nat :=
  ((d.que.cmds.filter fun c => !IoCmd.writes c.cmd).map fun c => c.need.length * 4096).sum

/-- Need in MB/s (R305). -/
def Dev.rateNeed (d : Dev) (dbar : Rat) : Rat :=
  dbar * 256 / atLeast1 (d.get RMT_CTRL.UTIL) +
    ((d.heldBufs * 65536 + d.queuedReads : Nat) : Rat) / 1000000 /
      ((atLeast1 (d.get RMT_RATE.T_DRAIN_MS) : Rat) / 1000)

/-- b_need (R305): the lowest candidate that carries the need, else the highest; the floor band where
no band is a candidate (R306). -/
def Dev.bNeed (d : Dev) (need : Rat) : Nat :=
  let c := (List.range 24).filter d.candidate
  match c.find? fun b => decide (need ≤ d.get RMT_RATE.MEDIA_RATE * ((bandSpeed b : Rat) / 153600)) with
  | some b => b
  | none => c.getLast?.getD (d.get RMT_HOST.FLOOR)

/-- The lowest band whose held-portion limit carries the present held portion (R307). -/
def Dev.fitBand (d : Dev) : Nat :=
  ((List.range 24).find? fun b => decide (d.heldBufs ≤ d.limitOf b)).getD 23

/-- A band target (R303). -/
def Dev.writeTarget (d : Dev) (b : Nat) : Dev :=
  ((d.set SPN_TARGET.TARGET (bandSpeed b)).set RMT_STATUS.B_TGT b).glide

def ratFloor (q : Rat) : Nat := (freeDiv q.num q.den).toNat

/-- RATE_MATCH_WINDOW (R304 to R308). -/
def execRateMatchWindow (s : State) : Out :=
  s.runIn 13 fun d =>
    if !d.rmtRuns then { d with rmt := { d.rmt with bytes := 0, waits := none } }
    else
      let m := d.rmt
      let dbar := m.dbar + ((m.bytes : Rat) / 10000 - m.dbar) / 2 ^ d.get RMT_CTRL.AVG_SHIFT
      let need := d.rateNeed dbar
      let b := d.bNeed need
      let t := d.tgtBand
      let below := if b < t then m.below + 10 else 0
      let d := { d with rmt := { dbar := dbar, bytes := 0, below := below, waits := none } }
      let d := (d.setSat RMT_DEMAND.DBAR (ratFloor dbar)).setSat RMT_DEMAND.NEED (ratFloor need)
      let d := ((d.set RMT_STATUS.B_NEED b).set RMT_STATUS.B_TGT t).showHeld
      -- the present target lies outside the host's limits (R308)
      if t < d.get RMT_HOST.FLOOR then d.writeTarget (d.get RMT_HOST.FLOOR)
      else if d.ceilEff < t then
        if d.heldBufs ≤ d.limitOf d.ceilEff then d.writeTarget d.ceilEff
        else { d with rmt := { d.rmt with waits := some d.ceilEff } }
      else if t < b then d.writeTarget b
      else if b < t ∧ d.get RMT_CTRL.DOWN_MS ≤ below then
        let n := max b d.fitBand
        { d.writeTarget n with rmt := { d.rmt with below := if n = t then below else 0 } }
      else d

/-- RMT_HOST refuses a value: a band above 23, FLOOR above CEIL, or FLOOR above the ceiling band of PS1
or PS2 (R608). -/
def Dev.rmtRefused (d : Dev) (floor ceil : Nat) : Bool :=
  decide (23 < floor) || decide (23 < ceil) || decide (ceil < floor) || decide (psCeil d.opPs < floor)

/-- RMT_HOST_WRITE (R308). -/
def execRmtHostWrite (who : Who) (v : Word) (s : State) : Out :=
  s.run fun d => d.busWriteOr who RMT_HOST.at fun d =>
    if d.rmtRefused (bits v 0 5) (bits v 8 5) then .error .range
    else .ok (d.plainWrite who RMT_HOST 0 0 v).showCeil

end Sys2Proof.Machine
end

