-- ==== Sys2Proof/Machine/AdminOps.lean ====
section
/-! DEFINITION. Operations of the admin commands (chapters 12, 13 and 20): their fetch, the pages of Get Log Page
and Identify, features, spin requests, power states, and namespaces. -/

namespace Sys2Proof.Machine

/-! ### Admin commands -/

/-- An admin command that the arbiter fetches: it takes a fetch number, an idle mode ends, and its effect runs
(R425, R426, R609). One that the arbiter does not fetch stays with the host. -/
def Dev.adminCmd (d : Dev) (q : QRef) (f : Dev → Dev) : Dev :=
  if d.fetching q.fn && q.sqid == 0 then
    let d := (d.enableFn q.fn).idleExit
    f (d.setWord QUE_FETCH_NUM (d.word QUE_FETCH_NUM + 1))
  else d

/-- An admin command of the PF alone: to a VF its opcode is not supported (R398). -/
def Dev.pfCmd (d : Dev) (q : QRef) (cid : Nat) (f : Dev → Dev) : Dev :=
  d.adminCmd q fun d => if q.fn != 0 then d.post q cid .invalidOpcode else f d

/-- I/O queue pairs and vectors beside the admin one of a function (R393). -/
def Dev.queueLimit (d : Dev) (n : Fn) : Nat := if n = 0 then 64 else d.hst.fns[n].vq
def Dev.vectorLimit (d : Dev) (n : Fn) : Nat := if n = 0 then 64 else d.hst.fns[n].vi

/-- A command ends early, as an Abort or the deletion of its queue ends it (R456, R457): data that is held stays
held, a ladder runs on. -/
def Dev.endEarly (d : Dev) (c : Cmd) (st : Status) : Dev :=
  (d.finish c st).settled

/-! ### Pages -/

/-- Bytes that the spec leaves open: free values, used up. -/
def Dev.freeBytes (d : Dev) (n : Nat) : List Byte × Dev :=
  ((List.range n).map fun k => BitVec.ofNat 8 (Config.freeValue (d.fresh + k)), { d with fresh := d.fresh + n })

/-- A page with bytes laid over it. -/
def lay (page : List Byte) (l : List (Nat × List Byte)) : List Byte :=
  l.foldl (fun p x => p.take x.1 ++ x.2 ++ p.drop (x.1 + x.2.length)) page

/-- The composite temperature in kelvin, rounded down. -/
def Dev.kelvin (d : Dev) : Nat := (sext 12 (d.get SYS_TEMP.TJ) / 4 + 273).toNat

/-- Running operation of a group, coded as log page 0xC0 codes it (R406). -/
def Dev.runningCode (d : Dev) (g : Grp) : Nat :=
  let touches := fun (o : LongOp) => match o.kind with
    | .formatNs _ | .sanitize _ _ => o.todo.any fun b => b / 32768 == g.val
    | .selfTest => true
    | .rebuild x _ | .reshape x _ | .resync x | .relocate x _ | .formatGroup x | .patrol x => x == g
  let code := fun (o : LongOp) => match o.kind with
    | .formatNs _ | .formatGroup _ => 1
    | .sanitize _ _ => 2
    | .rebuild _ _ => 3
    | .reshape _ _ => 4
    | .selfTest => 5
    | .resync _ => 6
    | .relocate _ _ | .patrol _ => 0
  match ((d.band.ops.filter touches).map code).find? fun c => c != 0 with
  | some c => c
  | none => if d.band.marked.any fun x => x.1 == g then 6 else 0

/-- Log page 0xC0 (R406). -/
def Dev.pageC0 (d : Dev) : List Byte :=
  (List.finRange 4).flatMap (fun g =>
    let paused := d.band.ops.any fun o => o.paused && (o.kind.grp? == some g || o.todo.any fun b => b / 32768 == g.val)
    leBytes 1 (d.grpState g) ++ leBytes 1 (d.failedMask g) ++ leBytes 1 (d.runningCode g) ++
      leBytes 1 (d.get CBL_GRP.RESERVE_SHORT 0 g + 2 * paused.toNat) ++
      leBytes 4 (d.get CBL_PROGRESS.DONE 0 g) ++ leBytes 4 (d.get CBL_PROGRESS.TOTAL 0 g) ++
      leBytes 4 (if d.welts g = 0 then 0 else d.band.patrol[g] * 65536 / d.welts g) ++ List.replicate 16 0) ++
    leBytes 4 d.epoch

/-- Sanitize progress in 1/65,536, and its status code. -/
def Dev.sanitizeState (d : Dev) : Nat × Nat :=
  match d.band.ops.find? fun o => match o.kind with | .sanitize _ _ => true | _ => false with
  | some o => (if o.total = 0 then 0 else (o.total - o.todo.length) * 65536 / o.total, 2)
  | none => (65535, d.band.sanitize)

/-- Groups with heads. -/
def Dev.groupCount (d : Dev) : Nat := ((List.finRange 4).filter fun (g : Grp) => d.hasHeads g).length

/-- A log page from its first byte: what the spec gives of it over free bytes; none for an unlisted identifier. -/
def Dev.logPage (d : Dev) (fn : Fn) (lid ofs : Nat) : Option (List Byte × Dev) :=
  let (free, d') := d.freeBytes 4096
  match lid with
  | 0x01 =>
    let l := d.hst.errors.filter fun c => c.fn == fn
    some (lay free (l.zipIdx.map fun x => (64 * x.2 + 8, leBytes 2 x.1.sqid ++ leBytes 2 x.1.cid)), d')
  | 0x02 => some (lay free [(0, leBytes 1 (2 * d.get SYS_TEMP.THROTTLE)), (1, leBytes 2 d.kelvin)], d')
  | 0x03 => some (lay free [(0, leBytes 1 (d.hst.fwActive +
      (if d.hst.fwNext = d.hst.fwActive then 0 else 16 * d.hst.fwNext)))], d')
  | 0x04 =>
    let l := d.hst.fns[fn].changed
    some (l.flatMap (leBytes 4) ++ List.replicate (4096 - 4 * l.length) 0, d.onFn fn fun f => { f with changed := [] })
  | 0x05 => some (free, d')
  | 0x06 => some (lay free [(0, leBytes 1 ((d.hst.selfTest.map Prod.fst).getD 0)), (4, leBytes 1 d.hst.selfResult)], d')
  | 0x16 => some (lay free [(0, leBytes 2 1), (2, leBytes 2 d.groupCount),
      (4, leBytes 2 (freeDiv (bandSpeed d.tgtBand) 16).toNat)], d')
  | 0x81 => some (lay free [(0, leBytes 2 d.sanitizeState.1), (2, leBytes 2 d.sanitizeState.2)], d')
  | 0xC0 => some (d.pageC0, d)
  | 0xC1 => some (List.replicate (ofs / 16 * 16) 0 ++ (d.band.lost.drop (ofs / 16)).flatMap lostBytes, d)
  | _ => none

/-- The LBA formats of R407 as Identify Namespace lays them. -/
def lbaFormats : List Byte :=
  [0, 8, 16].flatMap fun m => leBytes 2 m ++ leBytes 1 12 ++ leBytes 1 0

/-- Identify Namespace (R396, R407). -/
def identifyNs (free : List Byte) (n : Ns) : List Byte :=
  lay free [(0, leBytes 8 n.nsze), (8, leBytes 8 n.nsze), (25, leBytes 1 2),
    (26, leBytes 1 (n.lbaf + 16 * n.extended.toNat)), (29, leBytes 1 n.piType), (74, leBytes 2 512),
    (76, leBytes 4 512), (80, leBytes 1 127), (128, lbaFormats)]

/-- A power-state descriptor: maximum power in 10 mW, non-operational, entry and exit latency in µs (R397,
R610). -/
def powerState (mw : Nat) (idle : Bool) (enlat exlat : Nat) : List Byte :=
  leBytes 2 mw ++ [0] ++ leBytes 1 (2 * idle.toNat) ++ leBytes 4 enlat ++ leBytes 4 exlat

/-- Identify Controller (R396, R397). -/
def identifyCtrl (free : List Byte) (fn : Fn) : List Byte :=
  lay free [(0, leBytes 2 0x1F3E), (2, leBytes 2 0x1F3E), (77, leBytes 1 9), (78, leBytes 2 fn),
    (80, leBytes 4 0x20000), (258, leBytes 1 7), (259, leBytes 1 7), (260, leBytes 1 4), (262, leBytes 1 63),
    (263, leBytes 1 4), (265, leBytes 1 1), (328, leBytes 4 5), (512, leBytes 1 0x66), (513, leBytes 1 0x44),
    (516, leBytes 4 4095), (522, leBytes 2 0), (524, leBytes 1 4), (525, leBytes 1 7),
    (2048, powerState 12000 false 0 0), (2080, powerState 9000 false 0 0), (2112, powerState 6000 false 0 0),
    (2144, powerState 4500 true 1000 2000), (2176, powerState 2200 true 20000 50000)]

/-- A function's PCI Express identity: vendor, device, class code, revision (R390). -/
def Dev.pciId (d : Dev) (fn : Fn) : Nat × Nat × Nat × Nat :=
  (0x1F3E, if fn = 0 then 0x3264 else 0x3265, 0x01_0802, d.get SYS_ID.STEPPING)

/-- The NVMe registers that the host reads at a function's BAR0: CAP, VS, CMBLOC, CMBSZ (R396, R417); the places of their fields
are the NVMe base specification's (PRESUMED, log entry 139). -/
def Dev.nvmeCap (d : Dev) (fn : Fn) : Nat :=
  0x3FFF + 2 ^ 16 + 1 * 2 ^ 17 + 4 * 2 ^ 24 + 2 ^ 37 + 4 * 2 ^ 52 + (if fn = 0 && d.bpm.cmb != 0 then 2 ^ 57 else 0)
def nvmeVs : Nat := 0x0002_0000
def Dev.cmbLoc (d : Dev) (fn : Fn) : Nat := if fn = 0 && d.bpm.cmb != 0 then 4 else 0
def Dev.cmbSz (d : Dev) (fn : Fn) : Nat :=
  if fn = 0 && d.bpm.cmb != 0 then 1 + 4 + 8 + 16 + 4 * 2 ^ 8 + d.bpm.cmb / 4096 * 2 ^ 12 else 0

/-- Namespace IDs above one, as a list page. -/
def idPage (l : List Nat) (n : Nat) : List Byte :=
  let up := (List.range 4096).filter fun i => decide (n < i) && l.contains i
  let b := (up.take 1024).flatMap (leBytes 4)
  b ++ List.replicate (4096 - b.length) 0

/-- A controller list page. -/
def ctrlPage (l : List Nat) : List Byte :=
  let b := leBytes 2 l.length ++ l.flatMap (leBytes 2)
  b ++ List.replicate (4096 - b.length) 0

/-- Flexible queue pairs and vectors assigned to VFs (R393). -/
def Dev.flexUsed (d : Dev) : Nat × Nat :=
  ((d.hst.fns.toList.map FnSt.vq).sum, (d.hst.fns.toList.map FnSt.vi).sum)

/-- An Identify page (R396, R398, R407); none for a CNS value that is not listed. -/
def Dev.identifyPage (d : Dev) (fn : Fn) (cns nsid : Nat) : Option (Except Status (List Byte × Dev)) :=
  let (free, d') := d.freeBytes 4096
  let zero := List.replicate 4096 (0 : Byte)
  let nsOr := fun (f : Ns → List Byte × Dev) => match d.nsOf nsid with
    | some n => some (.ok (f n))
    | none => some (.error .invalidNamespace)
  let mine := ((d.band.ns.filter fun n => n.attached.contains fn).map Ns.nsid)
  match cns with
  | 0x00 => nsOr fun n => if n.attached.contains fn then (identifyNs free n, d') else (zero, d)
  | 0x01 => some (.ok (identifyCtrl free fn, d'))
  | 0x02 => some (.ok (idPage mine nsid, d))
  | 0x03 => nsOr fun _ => (free, d')
  | 0x05 => nsOr fun _ => (lay free [(268, leBytes 4 0), (272, leBytes 4 0), (276, leBytes 4 0x100)], d')
  | 0x06 => some (.ok (lay free [(1, leBytes 1 18)], d'))
  | 0x08 => nsOr fun _ => (free, d')
  | 0x10 => some (.ok (idPage (d.band.ns.map Ns.nsid) nsid, d))
  | 0x11 => nsOr fun n => (identifyNs free n, d')
  | 0x12 => nsOr fun n => (ctrlPage (n.attached.map Fin.val), d)
  | 0x13 => some (.ok (ctrlPage (((List.finRange 64).filter fun (f : Fn) => d.on HST_FN_STATUS.PRESENT 0 f).map Fin.val), d))
  | 0x14 => some (.ok (lay free [(0, leBytes 2 0), (4, leBytes 1 3), (32, leBytes 4 960), (36, leBytes 4 d.flexUsed.1),
      (40, leBytes 2 0), (42, leBytes 2 64), (44, leBytes 2 256), (64, leBytes 4 1920), (68, leBytes 4 d.flexUsed.2),
      (72, leBytes 2 0), (74, leBytes 2 65), (76, leBytes 2 256)], d'))
  | 0x15 =>
    let es := (List.range 63).flatMap fun k =>
      let f := d.hst.fns.toList.getD (k + 1) {}
      leBytes 2 (k + 1) ++ leBytes 2 0 ++ leBytes 1 f.online.toNat ++ List.replicate 3 0 ++ leBytes 2 (k + 1) ++
        leBytes 2 f.vq ++ leBytes 2 f.vi ++ List.replicate 18 0
    some (.ok (lay zero [(0, leBytes 1 63), (32, es)], d))
  | _ => none

/-! ### Power states (R608) -/

/-- The cache ways that PS2 powers down: the highest-numbered ACTIVE ways, until eight ways are powered; they come
back with it (R473, R608). -/
def Dev.followWays (d : Dev) : Dev :=
  if d.limitPs = 2 then
    if d.seq.psWays != 0 then d
    else
      let powered := (List.range 16).filter fun w => d.wayState w != 2
      let off := (((List.range 16).filter fun w => d.wayState w == 0).reverse).take (powered.length - 8)
      let m := off.foldl setBit 0
      let d := (d.onSeq fun s => { s with psWays := m }).set CCH_WAY_CTRL.OFF (d.get CCH_WAY_CTRL.OFF ||| m)
      d.each off fun w d => d.setWay w 1
  else
    let back := (List.range 16).filter fun w => bit d.seq.psWays w && !bit (d.get FLT_FENCED_MISC.WAY) w
    let d := (d.onSeq fun s => { s with psWays := 0 }).set CCH_WAY_CTRL.OFF (back.foldl clearBit (d.get CCH_WAY_CTRL.OFF))
    d.each back fun w d => (d.cleanWay w).setWay w 0

/-- Set Features of feature 0x02 (R397, R608). -/
def Dev.setPower (d : Dev) (ps : Nat) : Dev × Status :=
  if 2 < ps || psCeil ps < d.get RMT_HOST.FLOOR then (d, .invalidField)
  else ((((d.set SYS_MODE.PS ps).onSeq fun s => { s with opPs := ps }).showCeil).followWays, .success)

/-! ### Spin requests (R411, R600, R605) -/

def Dev.holdSpin (d : Dev) (x : Option Bool) : Dev := d.onSeq fun s => { s with spinHeld := x }

/-- A spin-down. -/
def Dev.askDown (d : Dev) : Dev × Status :=
  match d.mode with
  | .active | .glide =>
    if d.seq.spinDown = 0 then (d.startSpinDown, .success) else (d.holdSpin none, .success)
  | .spinUp | .headLoad => (d.holdSpin (some false), .success)
  | .standby => (d, .success)
  | .safe =>
    if d.seq.spinDown != 0 then (d.holdSpin none, .success)
    else if d.seq.safeStart = 1 || d.seq.safeStart = 2 then (d.holdSpin (some false), .success)
    else if d.seq.safeStart = 3 || d.get SPN_SPEED.SPEED != 0 then (d.startSpinDown, .success)
    else (d, .success)
  | _ => (d, .sequenceError)

/-- A spin-up. -/
def Dev.askUp (d : Dev) : Dev × Status :=
  match d.mode with
  | .standby => (d.enterSpinUp, .success)
  | .active | .glide => (d.holdSpin (if d.seq.spinDown = 0 then none else some true), .success)
  | .spinUp | .headLoad => (d.holdSpin none, .success)
  | .safe =>
    if !d.safeReads then (d, .sequenceError)
    else if d.seq.spinDown != 0 then (d.holdSpin (some true), .success)
    else if d.seq.safeStart = 0 then (d.startInSafe, .success)
    else (d.holdSpin none, .success)
  | _ => (d, .sequenceError)

/-! ### Features (R404, R405) -/

/-- Features whose scope is the PF (R404). -/
def pfFeature (fid : Nat) : Bool := [0x02, 0x06, 0x0C, 0x1A, 0xC0, 0xC1].contains fid

def featKnown (fid : Nat) : Bool :=
  [0x01, 0x02, 0x04, 0x05, 0x06, 0x07, 0x08, 0x09, 0x0B, 0x0C, 0x0E, 0x1A, 0xC0, 0xC1].contains fid

/-- A list of values with one set. -/
def putFeat (l : List (Nat × Nat)) (k v : Nat) : List (Nat × Nat) := l.filter (fun x => x.1 != k) ++ [(k, v)]

def featAt (l : List (Nat × Nat)) (k dflt : Nat) : Nat := ((l.find? fun x => x.1 == k).map Prod.snd).getD dflt

/-- Where a function's feature is kept: the vector is part of 0x09's place. -/
def featPlace (fid cdw11 : Nat) : Nat := if fid = 0x09 then fid + 256 * (cdw11 % 2 ^ 16) else fid

def Dev.setDevFeat (d : Dev) (k v : Nat) : Dev := d.onHst fun h => { h with feats := putFeat h.feats k v }

/-- Feature 0x06. -/
def Dev.setCache (d : Dev) (enable : Bool) : Dev := d.setDevFeat 0x06 enable.toNat

/-- Feature 0x0C (R609): a zero time names no target. -/
def Dev.setApst (d : Dev) (apste : Bool) (table : List (Nat × Nat)) : Dev × Status :=
  if table.any fun e => e.2 != 0 && !(e.1 == 3 || e.1 == 4) then (d, .invalidField)
  else ((d.setDevFeat 0x0C apste.toNat).onHst fun h => { h with apst := table }, .success)

/-- Feature 0x1A (R412): saved in flash with SV. -/
def Dev.setSpinup (d : Dev) (up save : Bool) : Dev :=
  let d := d.setDevFeat 0x1A up.toNat
  if save then { d with flash := { d.flash with savedSpinup := some up } } else d

/-- Feature 0xC0 (R410, R308). -/
def Dev.setLimits (d : Dev) (floor ceil : Nat) : Dev × Status :=
  if d.rmtRefused floor ceil then (d, .invalidField)
  else (((d.set RMT_HOST.FLOOR floor).set RMT_HOST.CEIL ceil).showCeil, .success)

/-- Feature 0x05 (R404): TLER of one namespace, or of all. -/
def Dev.setTler (d : Dev) (nsid v : Nat) : Dev × Status :=
  if v.testBit 16 then (d, .invalidField)
  else
    let ids := if nsid = 0xFFFF_FFFF then d.band.ns.map Ns.nsid else [nsid]
    if nsid != 0xFFFF_FFFF && (d.nsOf nsid).isNone then (d, .invalidNamespace)
    else (d.onHst fun h => { h with tler := ids.foldl (fun l n => putFeat l n (v % 2 ^ 16)) h.tler }, .success)

/-- What Set Features does: the device after it, the status, DW0. -/
def Dev.setFeature (d : Dev) (fn : Fn) (fid nsid v : Nat) (save : Bool) : Dev × Status × Nat :=
  if !featKnown fid then (d, .invalidField, 0)
  else if save && fid != 0x1A then (d, .notSaveable, 0)
  else if fn != 0 && pfFeature fid then (d, .invalidField, 0)
  else
    let plain := fun (r : Dev × Status) => (r.1, r.2, 0)
    match fid with
    | 0x02 => plain (d.setPower (v % 32))
    | 0x04 => (d.setDevFeat (0x04 + 256 * (v / 2 ^ 16 % 64)) (v % 2 ^ 16), .success, 0)
    | 0x05 => plain (d.setTler nsid v)
    | 0x06 => (d.setCache (v.testBit 0), .success, 0)
    | 0x07 =>
      let n := d.queueLimit fn - 1
      if v % 2 ^ 16 = 0xFFFF || v / 2 ^ 16 = 0xFFFF then (d, .invalidField, 0) else (d, .success, n + 2 ^ 16 * n)
    | 0x0C => plain (d.setApst (v.testBit 0) d.hst.apst)
    | 0x0E => ({ d with timestamp := some (v % 2 ^ 48, d.now) }, .success, 0)
    | 0x1A => (d.setSpinup (v.testBit 0) save, .success, 0)
    | 0xC0 => plain (d.setLimits (v % 32) (v / 256 % 32))
    | 0xC1 => if v % 4 = 1 then plain d.askDown else if v % 4 = 2 then plain d.askUp else (d, .invalidField, 0)
    | _ =>
      if fid = 0x09 && d.vectorLimit fn < v % 2 ^ 16 then (d, .invalidField, 0)
      else (d.onFn fn fun f => { f with feats := putFeat f.feats (featPlace fid v) v }, .success, 0)

/-- What Get Features answers: DW0 and the data, where the feature is listed. -/
def Dev.getFeature (d : Dev) (fn : Fn) (fid nsid : Nat) : Option (Nat × List Byte) :=
  let own := featAt d.hst.fns[fn].feats
  match fid with
  | 0x02 => some (d.get SYS_MODE.PS, [])
  | 0x04 => some (featAt d.hst.feats 0x04 0, [])
  | 0x05 => some (featAt d.hst.tler nsid 0, [])
  | 0x06 => some (featAt d.hst.feats 0x06 1, [])
  | 0x07 => some ((d.queueLimit fn - 1) * (2 ^ 16 + 1), [])
  | 0x0C => some (featAt d.hst.feats 0x0C 1, d.hst.apst.flatMap fun e => leBytes 8 (8 * e.1 + 256 * e.2))
  | 0x0E => some (0, leBytes 6 d.almTime.1 ++ leBytes 1 (2 * d.almTime.2) ++ [0])
  | 0x1A => some (featAt d.hst.feats 0x1A 1, [])
  | 0xC0 => some (d.get RMT_HOST.FLOOR + 256 * d.get RMT_HOST.CEIL, [])
  | 0xC1 => some (d.get SYS_MODE.MODE, [])
  | 0x01 | 0x08 | 0x0B => some (own fid 0, [])
  | 0x09 => some (own 0x09 0, [])
  | _ => none

/-! ### Namespaces (R402, R404, R458, R459) -/

/-- The format field of Namespace Management and of Format NVM: LBA format in bits 3:0, extended LBA in bit 4 (a Format NVM's is an
operand of its own), protection type in bits 7:5 (R346, R407, R408; PRESUMED, log entry 147). -/
def fmtLbaf (f : Nat) : Nat := f % 16
def fmtExt (f : Nat) : Bool := f.testBit 4
def fmtPi (f : Nat) : Nat := f / 32

/-- A format that exists: types 1 to 3 with protection information, no type without (R346, R407). -/
def fmtOk (f : Nat) : Bool := decide (fmtLbaf f ≤ 2) && decide (fmtPi f ≤ 3) && ((fmtLbaf f == 0) == (fmtPi f == 0))

/-- The lowest unused NSID from 1 to 4,095 (R458). -/
def Dev.freeNsid (d : Dev) : Option Nat :=
  ((List.range 4095).map (· + 1)).find? fun n => !(d.band.ns.any fun x => x.nsid == n)

/-- Entries of a new namespace's map, for the choice of its bands. -/
def Ns.wanted (n : Ns) : List (Nat × Nat × Nat) := (List.range n.entries).map fun ix => (n.nsid, ix, n.entryState ix)

/-- Why Namespace Management create is refused (R404, R578). -/
def Dev.createRefused (d : Dev) (nsze ncap fmt : Nat) : Option Status :=
  if !d.on SEC_STATUS.ENTROPY_OK then some .internalError
  else if d.sanitizing then some .sanitizeInProgress
  else if nsze = 0 || nsze % 2 ^ 18 != 0 || nsze != ncap || !fmtOk fmt then some .invalidField
  else none

/-- Namespace Management create (R404, R458, R572). -/
def Dev.createNs (d : Dev) (q : QRef) (cid nsze ncap fmt : Nat) : Dev :=
  match d.createRefused nsze ncap fmt with
  | some st => d.post q cid st
  | none =>
    match d.freeNsid with
    | none => d.post q cid .namespaceIdUnavailable
    | some id =>
      let n : Ns := { nsid := id, nsze := nsze, lbaf := fmtLbaf fmt, extended := fmtExt fmt, piType := fmtPi fmt }
      let c := takeBands d.giving n.wanted d.band.dir ⟨[], []⟩
      if c.maps.any fun m => m.2.2.isNone then d.post q cid .insufficientCapacity
      else
        let d := (d.onNs fun l => l ++ [n]).newKey id
        let d := ((d.writeStore).keyRecord q.fn id 0).writeTable c
        (d.nsChanged id).afterCommit (q.fn, q.sqid, cid, id)

/-- Steps 1 and 2 of a delete (R459). -/
def Dev.deleteNs (q : QRef) (cid nsid : Nat) (d : Dev) : Dev :=
  let d := d.setNs nsid fun n => { n with deleting := true, attached := [] }
  let d := d.onBand fun b => { b with deletes := b.deletes ++ [(nsid, q.fn, q.sqid, cid)] }
  let waiting := d.que.cmds.filter fun c => c.io.nsid == nsid && c.stage == .lock
  (d.each waiting fun c d => d.finish c .invalidNamespace).showQue

/-- Tell functions that a namespace they see changed (Changed Namespace List). -/
def Dev.tellFns (d : Dev) (nsid : Nat) (l : List Fn) : Dev :=
  d.each l fun f d =>
    let d := d.onFn f fun x => { x with changed := if x.changed.contains nsid then x.changed else x.changed ++ [nsid] }
    if d.on HST_FN_STATUS.RDY 0 f then d.asyncEvent f 0x040002 else d

/-- New keys for namespaces, in one write of the store, with a record each (R572). -/
def Dev.replaceKeys (d : Dev) (fn : Fn) (ids : List Nat) : Dev :=
  let d := d.each ids fun n d => d.newKey n
  let d := d.writeStore
  d.each ids fun n d => d.keyRecord fn n 1

/-- I/O commands of namespaces end with a status; the data that those had held is discarded, and their LBAs leave
the lost-block table (R387, R402, R403, R573). -/
def Dev.clearNs (d : Dev) (ids : List Nat) (st : Status) : Dev :=
  let mine := d.que.cmds.filter fun c => ids.contains c.io.nsid
  let d := d.each mine fun c d => d.endEarly c st
  let d := d.dropHeld ids
  d.each ids fun n d => d.dropLost n 0 (((d.nsOf n).map Ns.nsze).getD 0)

/-- A long operation over bands begins, and ends at once where there are none (R402, R573). -/
def Dev.beginBands (d : Dev) (k : OpKind) (bands : List Nat) (client : Option (Fn × Nat × Nat)) : Dev :=
  let d := (d.reformatOffline bands).showTotals bands
  (d.onBand fun b => { b with ops := b.ops ++ [{ kind := k, todo := bands, total := bands.length, client := client }] }).finishOps

/-- The band-table change of a Format NVM: tag-store bands come or go with the LBA format, and its holes are filled
(R348, R633). None where too few areas are free for the tag store. -/
def Dev.formatChange (d : Dev) (n : Ns) (lbaf : Nat) : Option BandChange :=
  let n' := { n with lbaf := lbaf }
  if n.lbaf = 0 && lbaf != 0 then
    let c := takeBands d.giving (n'.wanted.drop n.bands) d.band.dir ⟨[], []⟩
    if c.maps.any fun m => m.2.2.isNone then none
    else
      let holes := d.holes.filter fun h => h.1 == n.nsid
      let t := takeBands d.giving holes (d.dirAfter c) ⟨[], []⟩
      some ⟨c.dir ++ t.dir, c.maps ++ t.maps.filter fun m => m.2.2.isSome⟩
  else if n.lbaf != 0 && lbaf = 0 then
    let free := (d.band.dir.filter fun p => p.2.state == bsTag && p.2.nsid == n.nsid).map fun p =>
      (p.1, { p.2 with state := bsFree, nsid := 0, nsIndex := 0 })
    some ⟨free, []⟩
  else
    let t := takeBands d.giving (d.holes.filter fun h => h.1 == n.nsid) d.band.dir ⟨[], []⟩
    some ⟨t.dir, t.maps.filter fun m => m.2.2.isSome⟩

/-- A namespace takes its new format and protection type (R346). None of its commands holds a lock then, and those that come end
with Format In Progress (R402): the change of its entries waits for none (R355). -/
def Dev.applyFormat (fmt : Nat) (extended : Bool) (nsid : Nat) (d : Dev) : Dev :=
  let lbaf := fmtLbaf fmt
  match d.nsOf nsid with
  | none => d
  | some n =>
    match d.formatChange n lbaf with
    | none => d
    | some c =>
      let gone := if n.lbaf != 0 && lbaf = 0 then d.nsBands [nsid] else []
      let d := d.dropCopy (gone.filter fun b => ((d.bandAt b).map fun e => e.state == bsTag).getD false)
      let d := if n.lbaf != 0 && lbaf = 0 then
          d.onBand fun b => { b with maps := b.maps.filter fun m => !(m.1 == nsid && decide (n.bands ≤ m.2.1)) }
        else d
      let d := d.commitChange c
      let d := d.setNs nsid fun x => { x with lbaf := lbaf, extended := extended, piType := fmtPi fmt, formatting := true }
      -- a namespace without a tag store fills its own holes with the others
      if n.lbaf != 0 && lbaf = 0 then d.commitChange ⟨[], []⟩ (d.holes.filter fun h => h.1 == nsid) else d

/-- Why Format NVM is refused (R402, R403, R459, R578). -/
def Dev.formatRefused (d : Dev) (nsid fmt ses : Nat) : Option Status :=
  let ids := if nsid = 0xFFFF_FFFF then d.band.ns.map Ns.nsid else [nsid]
  let all := ids.filterMap d.nsOf
  if !d.on SEC_STATUS.ENTROPY_OK then some .internalError
  else if d.sanitizing then some .sanitizeInProgress
  else if !fmtOk fmt || 2 < ses then some .invalidField
  else if all.length != ids.length || all.any (fun n => n.deleting) then some .invalidNamespace
  else if all.any fun n => n.formatting then some .formatInProgress
  else if all.any fun n => (d.formatChange n (fmtLbaf fmt)).isNone then some .insufficientCapacity
  else none

/-- Format NVM (R402, R572). -/
def Dev.formatNs (d : Dev) (q : QRef) (cid nsid fmt ses : Nat) (extended : Bool) : Dev :=
  match d.formatRefused nsid fmt ses with
  | some st => d.post q cid st
  | none =>
    let ids := if nsid = 0xFFFF_FFFF then d.band.ns.map Ns.nsid else [nsid]
    let d := (d.clearNs ids .formatInProgress).replaceKeys q.fn ids
    let d := d.each ids fun n d => d.applyFormat fmt extended n
    d.beginBands (.formatNs nsid) (d.nsBands ids) (some (q.fn, q.sqid, cid))

/-- Sanitize (R403, R573): crypto erase with no passes, or an overwrite. It completes when it has begun. -/
def Dev.sanitizeAll (d : Dev) (q : QRef) (cid passes : Nat) (pattern : Word) : Dev :=
  if !d.on SEC_STATUS.ENTROPY_OK then d.post q cid .internalError
  else if d.sanitizing then d.post q cid .sanitizeInProgress
  else if d.band.ns.any fun n => n.formatting then d.post q cid .formatInProgress
  else
    let ids := d.band.ns.map Ns.nsid
    let d := (d.clearNs ids .sanitizeInProgress).replaceKeys q.fn ids
    let d := (d.onBand fun b => { b with sanitize := 2 }).post q cid .success
    d.beginBands (.sanitize passes pattern) (d.nsBands ids) none

end Sys2Proof.Machine
end

