-- ==== Sys2Proof/Machine/Admin.lean ====
section
/-! DEFINITION. The admin commands (chapters 12, 13 and 20). -/

namespace Sys2Proof.Machine

/-! ### Queues (R393, R396, R457) -/

/-- CREATE_IO_SQ: size in entries, its completion queue and its priority class (R425). -/
def execCreateIoSq (q : QRef) (cid qid size : Nat) (u : SqUse) (s : State) : Out :=
  s.run fun d => d.adminCmd q fun d =>
    let f := d.hst.fns[q.fn]
    if qid = 0 || d.queueLimit q.fn < qid || f.sqs.any (fun x => x.qid == qid) then d.post q cid .invalidQueueId
    else if size < 2 || 16384 < size then d.post q cid .invalidQueueSize
    else if !f.cqs.any fun x => x.qid == u.cqid then d.post q cid .completionQueueInvalid
    else (d.onFn q.fn fun f => { f with sqs := f.sqs ++ [{ qid := qid, size := size, cqid := u.cqid, prio := u.prio }] }).post q cid .success

/-- DELETE_IO_SQ (R457): the queue's commands end first, each as by an Abort. -/
def execDeleteIoSq (q : QRef) (cid qid : Nat) (s : State) : Out :=
  s.run fun d => d.adminCmd q fun d =>
    if !d.hst.fns[q.fn].sqs.any fun x => x.qid == qid then d.post q cid .invalidQueueId
    else
      let mine := d.que.cmds.filter fun c => c.q == ⟨q.fn, qid⟩
      let d := d.each mine fun c d => d.endEarly c .abortedSqDeletion
      (d.onFn q.fn fun f => { f with sqs := f.sqs.filter fun x => x.qid != qid }).post q cid .success

/-- CREATE_IO_CQ. -/
def execCreateIoCq (q : QRef) (cid qid size vector : Nat) (s : State) : Out :=
  s.run fun d => d.adminCmd q fun d =>
    let f := d.hst.fns[q.fn]
    if qid = 0 || d.queueLimit q.fn < qid || f.cqs.any (fun x => x.qid == qid) then d.post q cid .invalidQueueId
    else if size < 2 || 16384 < size then d.post q cid .invalidQueueSize
    else if d.vectorLimit q.fn < vector then d.post q cid .invalidVector
    else (d.onFn q.fn fun f => { f with cqs := f.cqs ++ [{ qid := qid, size := size, vector := vector }] }).post q cid .success

/-- DELETE_IO_CQ. -/
def execDeleteIoCq (q : QRef) (cid qid : Nat) (s : State) : Out :=
  s.run fun d => d.adminCmd q fun d =>
    let f := d.hst.fns[q.fn]
    if !f.cqs.any fun x => x.qid == qid then d.post q cid .invalidQueueId
    else if f.sqs.any fun x => x.cqid == qid then d.post q cid .invalidQueueDeletion
    else (d.onFn q.fn fun f => { f with cqs := f.cqs.filter fun x => x.qid != qid }).post q cid .success

/-! ### Pages and events -/

/-- GET_LOG_PAGE (R405, R406): len bytes from offset ofs; bytes beyond the page read as zero. -/
def execGetLogPage (q : QRef) (cid lid _nsid ofs len : Nat) (s : State) : Out :=
  s.run fun d => d.adminCmd q fun d =>
    match d.logPage q.fn lid ofs with
    | none => d.post q cid .invalidLogPage
    | some (page, d) => (d.toHost q cid (cut page ofs len)).post q cid .success

/-- IDENTIFY (R396, R398, R407). -/
def execIdentify (q : QRef) (cid cns nsid : Nat) (s : State) : Out :=
  s.run fun d => d.adminCmd q fun d =>
    match d.identifyPage q.fn cns nsid with
    | none => d.post q cid .invalidField
    | some (.error st) => d.post q cid st
    | some (.ok (page, d)) => (d.toHost q cid page).post q cid .success

/-- ABORT (R454 to R456): the command's completion precedes the Abort's. An Abort ends in the step that takes it, so
none is ever outstanding. -/
def execAbort (q : QRef) (cid sqid target : Nat) (s : State) : Out :=
  s.run fun d => d.adminCmd q fun d =>
    match d.que.cmds.find? fun c => c.q == ⟨q.fn, sqid⟩ && c.io.cid == target with
    | none => d.post q cid .success 1
    | some c => (d.endEarly c .abortRequested).post q cid .success 0

/-- ASYNC_EVENT_REQUEST (R396): eight may be outstanding. -/
def execAsyncEventRequest (q : QRef) (cid : Nat) (s : State) : Out :=
  s.run fun d => d.adminCmd q fun d =>
    if 8 ≤ d.hst.fns[q.fn].aers.length then d.post q cid .asyncLimit
    else d.onFn q.fn fun f => { f with aers := f.aers ++ [cid] }

/-! ### Features (R404, R405) -/

/-- SET_FEATURES. -/
def execSetFeatures (q : QRef) (cid fid nsid cdw11 : Nat) (save : Bool) (s : State) : Out :=
  s.run fun d => d.adminCmd q fun d =>
    let r := d.setFeature q.fn fid nsid cdw11 save
    r.1.post q cid r.2.1 r.2.2

/-- GET_FEATURES. -/
def execGetFeatures (q : QRef) (cid fid nsid : Nat) (s : State) : Out :=
  s.run fun d => d.adminCmd q fun d =>
    match d.getFeature q.fn fid nsid with
    | none => d.post q cid .invalidField
    | some (v, data) => (if data.isEmpty then d else d.toHost q cid data).post q cid .success v

/-- A Set Features of the PF's scope: from a VF, Invalid Field in Command (R405). -/
def Dev.pfFeat (d : Dev) (q : QRef) (cid : Nat) (f : Dev → Dev × Status) : Dev :=
  d.adminCmd q fun d =>
    if q.fn != 0 then d.post q cid .invalidField
    else
      let r := f d
      r.1.post q cid r.2

/-- POWER_MANAGEMENT (R397, R608). -/
def execPowerManagement (q : QRef) (cid ps : Nat) (s : State) : Out :=
  s.run fun d => d.pfFeat q cid fun d => d.setPower ps

/-- VOLATILE_WRITE_CACHE (R401). -/
def execVolatileWriteCache (q : QRef) (cid : Nat) (enable : Bool) (s : State) : Out :=
  s.run fun d => d.pfFeat q cid fun d => (d.setCache enable, .success)

/-- AUTONOMOUS_POWER_STATE_TRANSITION (R609). -/
def execAutonomousPowerStateTransition (q : QRef) (cid : Nat) (apste : Bool) (table : List (Nat × Nat)) (s : State) : Out :=
  s.run fun d => d.pfFeat q cid fun d => d.setApst apste table

/-- SPINUP_CONTROL (R412). -/
def execSpinupControl (q : QRef) (cid : Nat) (up save : Bool) (s : State) : Out :=
  s.run fun d => d.pfFeat q cid fun d => (d.setSpinup up save, .success)

/-- SPINDLE_BAND_LIMITS (R410). -/
def execSpindleBandLimits (q : QRef) (cid floor ceil : Nat) (s : State) : Out :=
  s.run fun d => d.pfFeat q cid fun d => d.setLimits floor ceil

/-- SPIN_DOWN (R310, R411). -/
def execSpinDown (q : QRef) (cid : Nat) (s : State) : Out :=
  s.run fun d => d.pfFeat q cid Dev.askDown

/-- SPIN_UP (R311, R411). -/
def execSpinUp (q : QRef) (cid : Nat) (s : State) : Out :=
  s.run fun d => d.pfFeat q cid Dev.askUp

/-! ### Namespaces -/

/-- NAMESPACE_CREATE (R404, R458, R572). -/
def execNamespaceCreate (q : QRef) (cid nsze ncap fmt : Nat) (s : State) : Out :=
  s.run fun d => d.pfCmd q cid fun d => d.createNs q cid nsze ncap fmt

/-- NAMESPACE_DELETE (R459), of one namespace or, with NSID 0xFFFF_FFFF, of all. -/
def execNamespaceDelete (q : QRef) (cid nsid : Nat) (s : State) : Out :=
  s.run fun d => d.pfCmd q cid fun d =>
    let l := d.band.ns.filter fun n => (nsid == 0xFFFF_FFFF || n.nsid == nsid) && !n.deleting
    if l.isEmpty then d.post q cid .invalidNamespace
    else if d.sanitizing then d.post q cid .sanitizeInProgress
    else if l.any fun n => n.formatting then d.post q cid .formatInProgress
    else d.each (l.map Ns.nsid) fun n d => d.deleteNs q cid n

/-- NAMESPACE_ATTACHMENT (R398). -/
def execNamespaceAttachment (q : QRef) (cid nsid : Nat) (attach : Bool) (ctrls : List Fn) (s : State) : Out :=
  s.run fun d => d.pfCmd q cid fun d =>
    match d.nsOf nsid with
    | none => d.post q cid .invalidNamespace
    | some n =>
      if n.deleting then d.post q cid .invalidNamespace
      else if ctrls.isEmpty then d.post q cid .invalidController
      else if attach && ctrls.any (fun f => n.attached.contains f) then d.post q cid .alreadyAttached
      else if !attach && ctrls.any (fun f => !n.attached.contains f) then d.post q cid .notAttached
      else
        let d := d.setNs nsid fun n => { n with attached :=
          if attach then n.attached ++ ctrls.dedup else n.attached.filter fun f => !ctrls.contains f }
        (d.tellFns nsid ctrls.dedup).post q cid .success

/-! ### Firmware (R398, R584) -/

/-- FIRMWARE_IMAGE_DOWNLOAD: a portion of an image, dword-aligned, within the 4 MiB of a slot. -/
def execFirmwareImageDownload (q : QRef) (cid ofs : Nat) (data : List Byte) (s : State) : Out :=
  s.run fun d => d.pfCmd q cid fun d =>
    if ofs % 4 != 0 || data.length % 4 != 0 || 2 ^ 22 < ofs + data.length then d.post q cid .invalidField
    else if d.hst.download.any fun p => overlaps p.1 p.2.length ofs data.length then d.post q cid .overlappingRange
    else (d.onHst fun h => { h with download := h.download ++ [(ofs, data)] }).post q cid .success

/-- The downloaded image: its portions from offset 0 on, without a gap. -/
def imageFrom : Nat → Nat → List (Nat × List Byte) → List Byte
  | 0, _, _ => []
  | k + 1, at_, l => match l.find? fun p => p.1 == at_ && !p.2.isEmpty with
    | some p => p.2 ++ imageFrom k (at_ + p.2.length) l
    | none => []

/-- FIRMWARE_COMMIT: action 0 replaces a slot, 1 replaces it and activates it at the next reset, 2 activates a slot
at the next reset. An image that is no signed extension package is refused; its patches go to their region. -/
def execFirmwareCommit (q : QRef) (cid slot action : Nat) (s : State) : Out :=
  s.run fun d => d.pfCmd q cid fun d =>
    let target := if slot = 0 then (if d.hst.fwActive = 1 then 2 else 1) else slot
    if 2 < action then d.post q cid .invalidField
    else if 2 < slot then d.post q cid .firmwareSlot
    else if action = 2 then
      if (if target = 1 then d.flash.fwSlot1 else d.flash.fwSlot2).isEmpty then d.post q cid .firmwareSlot
      else (d.onHst fun h => { h with fwNext := target }).post q cid .success
    else
      let img := imageFrom d.hst.download.length 0 d.hst.download
      if img.isEmpty || !Config.packageSigned img then d.post q cid .firmwareImage
      else
        let f := if target = 1 then { d.flash with fwSlot1 := img } else { d.flash with fwSlot2 := img }
        let ps := Config.packagePatches img
        let f := if ps.isEmpty then f else { f with patches := ps }
        ({ d with flash := f }.onHst fun h =>
          { h with download := [], fwNext := if action = 1 then target else h.fwNext }).post q cid .success

/-! ### Self-test, virtualization -/

/-- DEVICE_SELF_TEST (R398, R451): 1 short, 2 extended, 0xF abort. It completes when it has begun. -/
def execDeviceSelfTest (q : QRef) (cid code : Nat) (s : State) : Out :=
  s.run fun d => d.adminCmd q fun d =>
    if code = 0xF then
      let d := match d.hst.selfTest with
        | none => d
        | some (c, _) =>
          (d.onBand fun b => { b with ops := b.ops.filter fun o => o.kind != OpKind.selfTest }).onHst fun h =>
            { h with selfTest := none, selfResult := 16 * c + 1 }
      d.post q cid .success
    else if code != 1 && code != 2 then d.post q cid .invalidField
    else if d.hst.selfTest.isSome then d.post q cid .selfTestRuns
    else
      let d := d.onHst fun h => { h with selfTest := some (code, q.fn, q.sqid, cid) }
      (d.onBand fun b => { b with ops := b.ops ++ [{ kind := .selfTest, todo := [0], total := 1 }] }).post q cid .success

/-- VIRTUALIZATION_MANAGEMENT (R393): 7 offline, 8 assign, 9 online, of a secondary controller. -/
def execVirtualizationManagement (q : QRef) (cid act : Nat) (cntlid : Fn) (vq : Bool) (n : Nat) (s : State) : Out :=
  s.run fun d => d.pfCmd q cid fun d =>
    let f := d.hst.fns[cntlid]
    let used := d.flexUsed
    if act != 7 && act != 8 && act != 9 then d.post q cid .invalidField
    else if cntlid = 0 then d.post q cid .invalidController
    else if act = 7 then
      let d := (d.resetFn cntlid).onFn cntlid fun f => { f with online := false }
      (d.set HST_FN_STATUS.PRESENT 0 0 cntlid).post q cid .success
    else if act = 8 then
      if f.online then d.post q cid .invalidSecondaryState
      else if 256 < n || (if vq then 960 < used.1 - f.vq + n else 1920 < used.2 - f.vi + n) then d.post q cid .invalidResource
      else (d.onFn cntlid fun f => if vq then { f with vq := n } else { f with vi := n }).post q cid .success n
    else if f.vq = 0 || f.vi = 0 then d.post q cid .invalidSecondaryState
    else
      let d := d.onFn cntlid fun f => { f with online := true }
      (d.set HST_FN_STATUS.PRESENT 1 0 cntlid).post q cid .success

/-! ### Format and sanitize -/

/-- FORMAT_NVM (R402, R572). -/
def execFormatNvm (q : QRef) (cid nsid fmt ses : Nat) (extended : Bool) (s : State) : Out :=
  s.run fun d => d.adminCmd q fun d => d.formatNs q cid nsid fmt ses extended

/-- SANITIZE_EXIT_FAILURE (R403): a failed sanitize is left. -/
def execSanitizeExitFailure (q : QRef) (cid : Nat) (s : State) : Out :=
  s.run fun d => d.pfCmd q cid fun d =>
    if d.sanitizing then d.post q cid .sanitizeInProgress
    else (d.onBand fun b => { b with sanitize := if b.sanitize = 3 then 0 else b.sanitize }).post q cid .success

/-- SANITIZE_OVERWRITE (R403, R573): OWPASS 1 to 15. -/
def execSanitizeOverwrite (q : QRef) (cid owpass : Nat) (pattern : Word) (s : State) : Out :=
  s.run fun d => d.pfCmd q cid fun d =>
    if owpass = 0 || 15 < owpass then d.post q cid .invalidField else d.sanitizeAll q cid owpass pattern

/-- SANITIZE_CRYPTO_ERASE (R403, R573). -/
def execSanitizeCryptoErase (q : QRef) (cid : Nat) (s : State) : Out :=
  s.run fun d => d.pfCmd q cid fun d => d.sanitizeAll q cid 0 0

/-- Opcodes of R398 and R399. -/
def adminOpcodes : List Nat :=
  [0x00, 0x01, 0x02, 0x04, 0x05, 0x06, 0x08, 0x09, 0x0A, 0x0C, 0x0D, 0x10, 0x11, 0x14, 0x15, 0x1C, 0x80, 0x81, 0x82, 0x84]
def ioOpcodes : List Nat := [0x00, 0x01, 0x02, 0x05, 0x08, 0x09, 0x0C, 0x19, 0x91]

/-- INVALID_OPCODE (R398, R399): an opcode that the tables do not list. A listed one has a command of its own. -/
def execInvalidOpcode (q : QRef) (cid opcode : Nat) (s : State) : Out :=
  s.run fun d =>
    if q.sqid = 0 then
      if adminOpcodes.contains opcode then d else d.adminCmd q fun d => d.post q cid .invalidOpcode
    else if ioOpcodes.contains opcode then d
    else
      let a : IoArgs := { cid := cid, fuse := 0, nsid := 0, slba := 0, count := 1, fua := false, limitedRetry := false,
                          ptr := .prp 0 [], pi := ⟨false, false, false, false, 0, 0, 0, 0, []⟩ }
      d.ioCommand q a (.other opcode)

end Sys2Proof.Machine
end

