-- ==== Sys2Proof/Machine/JnlOps.lean ====
section
/-! DEFINITION. Start-up recovery: almanac copies (R556), format digests (R67), the journal (R376, R377, R384)
and the flush image (R330). -/

namespace Sys2Proof.Machine

/-! ### Almanac copies (R556) -/

/-- The group's format matches the loaded image, and its heads are on the disk. -/
def Dev.digestOk (d : Dev) (g : Grp) : Bool := d.media.digest[g] == some (d.digestOf g)

/-- A copy of the almanac holds anything. -/
def AlmCopy.found (c : AlmCopy) : Bool := c.seqLimit != 0

/-- Read both almanac copies: the higher LAST_SEQ wins, and the other is rewritten from it where its group can write; SEQ resumes at
its SEQ_LIMIT, and records accepted before follow it; a copy that was not closed makes POWER_LOSS the first record. -/
def Dev.recoverAlm (d : Dev) : Dev :=
  let gs := d.almGroups
  let ok := fun (g : Option Grp) => match g with | some g => d.digestOk g && d.loaded g | none => false
  let ga := gs.head?
  let gb := (gs.drop 1).head?.or ga
  let a := ok ga && d.alm.copyA.found
  let b := ok gb && d.alm.copyB.found
  let win := if a && b then (if d.alm.copyA.lastSeq < d.alm.copyB.lastSeq then some d.alm.copyB else some d.alm.copyA)
    else if a then some d.alm.copyA else if b then some d.alm.copyB else none
  match win with
  | none => d
  | some w =>
    let t := d.almTime
    let loss := if w.closed then [] else [(⟨0, 0x0004, t.1, t.2, fields32 [w.lastSeq, w.seqLimit]⟩ : AlmRecord)]
    let early := if d.alm.staging.isEmpty then [] else loss ++ d.alm.staging
    let staged := early.zipIdx.map fun p => { p.1 with seq := w.seqLimit + p.2 }
    let d := d.onAlm fun x =>
      { x with image := w.recs, next := w.seqLimit + staged.length, staging := staged, copyA := if ok ga then w else x.copyA
               copyB := if ok gb then w else x.copyB
               powerLoss := if w.closed || !d.alm.staging.isEmpty then none else some w.lastSeq }
    let first := ((w.recs ++ staged).head?.map AlmRecord.seq).getD w.seqLimit
    (((d.set ALM_SEQ_FIRST.SEQ first).set ALM_SEQ_LAST.SEQ (d.alm.next - 1)).almStaged)

/-! ### The journal (R376, R377) -/

/-- The sectors of a log that follow a checkpoint without a gap: each is valid and carries the successor epoch. -/
def ringFrom (valid : Nat → Bool) : Nat → Nat → List LogSector → List LogSector
  | _, _, [] => []
  | k, e, s :: t => if s.epoch = (e + 1) % 2 ^ 32 && valid k then s :: ringFrom valid (k + 1) s.epoch t else []

/-- The sectors of a copy's ring from its checkpoint's position on. -/
def JnlCopy.tail (c : JnlCopy) : List LogSector := c.log.drop (c.log.length - (c.next - c.cp.ring))

/-- A copy as a reader finds it (R370, R376 step 2): the checkpoint of higher generation of those whose region is valid, the newer on
a tie, and the ring read forward from its position. None where neither region is valid. What reads back is a free value. -/
def JnlCopy.found (c : JnlCopy) (i : Nat) : Option JnlCopy :=
  let cps := (if Config.readsBack i 0 then [c.cp] else []) ++ (if Config.readsBack i 1 then c.old.toList else [])
  let best := cps.foldl (fun (b : Option Checkpoint) x => match b with
    | some y => if epochLe x.gen y.gen then b else some x
    | none => some x) none
  best.map fun p =>
    let c := { c with cp := p, old := cps.find? fun x => x != p }
    let before := c.log.take (c.log.length - (c.next - p.ring))
    let ring := ringFrom (fun k => Config.readsBack i (k + 2)) 0 p.epoch c.tail
    { c with log := before ++ ring, next := p.ring + ring.length }

/-- The last epoch of a copy, and its generation. -/
def JnlCopy.lastEpoch (c : JnlCopy) : Nat := (c.tail.getLast?.map LogSector.epoch).getD c.cp.epoch
def JnlCopy.lastGen (c : JnlCopy) : Nat := (c.tail.getLast?.map LogSector.gen).getD c.cp.gen

/-- A copy can be read: its group is loaded and its format is the image's. -/
def Dev.copyReadable (d : Dev) (c : JnlCopy) : Bool :=
  c.readable && (List.finRange 4).any fun g => g.val == c.grp && d.digestOk g && d.loaded g

/-- A map after a BAND record (R371): the entry that owns the band names it; an entry that the band leaves becomes
a hole, or goes with its namespace. -/
def mapsAfter (ns : List Ns) (maps : List (Nat × Nat × Option Nat)) (b : Nat) (e : BandEntry) :
    List (Nat × Nat × Option Nat) :=
  let owned := e.state == bsUser || e.state == bsTag
  let left := maps.filterMap fun m =>
    if m.2.2 = some b && !(owned && m.1 == e.nsid && m.2.1 == e.nsIndex) then
      (if ns.any fun n => n.nsid == m.1 then some (m.1, m.2.1, none) else none)
    else some m
  if owned then putMap left (e.nsid, e.nsIndex, some b) else left

/-- Put one log record into the tables. -/
def Dev.replay (r : LogRec) (d : Dev) : Dev :=
  match r with
  | .open_ i => d.onBand fun b => { b with intents := b.intents.filter (fun (x : Intent) => x != i) ++ [i] }
  | .retire i => d.onBand fun b => { b with intents := b.intents.filter fun x =>
      !(x.grp == i.grp && x.first == i.first && x.count == i.count && x.epoch == i.epoch) }
  | .resync i => d.onBand fun b => { b with marked := b.marked ++ [(i.grp, i.first, i.count)] }
  | .band n e =>
    let gone := e.state == bsFree && e.members == 0
    d.onBand fun b =>
      { b with dir := (if gone then b.dir.filter (fun x => x.1 != n) else putEntry b.dir n e), maps := mapsAfter d.media.ns b.maps n e }
  | .lost true l => d.onBand fun b => { b with lost := b.lost ++ [l] }
  | .lost false l => d.onBand fun b => { b with lost := b.lost.filter fun x => x != l }
  | .cursor g op b _ =>
    (d.onBand fun x => { x with cursor := x.cursor.set g (if op = 0 then none else some (op, b)) }).ksWrite
      ⟨10 + g.val, by omega⟩ (BitVec.ofNat 32 b)

/-- The records of a copy's log. -/
def JnlCopy.records (c : JnlCopy) : List LogRec := c.tail.flatMap LogSector.recs

/-- Load a checkpoint into HBM. -/
def Dev.loadCheckpoint (d : Dev) (c : Checkpoint) : Dev :=
  let d := d.onBand fun b => { b with dir := c.dir, maps := c.maps, lost := c.lost, intents := [], marked := []
                                      cursor := Vector.ofFn fun g => (c.cursors[g.val]?).join }
  d.each (List.finRange 4) fun g d =>
    d.ksWrite ⟨10 + g.val, by omega⟩ (BitVec.ofNat 32 ((d.band.cursor[g].map Prod.snd).getD 0))

/-- The records that one copy's sectors hold beyond those of the other's sectors of the same epochs (R377). -/
def recsBeyond (x y : List LogSector) : List LogRec :=
  y.flatMap fun s => match x.find? fun t => t.epoch == s.epoch with
    | some t => s.recs.filter fun r => !t.recs.contains r
    | none => s.recs

/-- Build the HBM journal and band table from the copies that can be read (R377); with none, the groups whose
format matches have their default areas, and every welt of a band that holds data is marked. -/
def Dev.loadJournal (d : Dev) : Dev :=
  let (i, d) := d.draw
  let (j, d) := d.draw
  let a := if d.copyReadable d.media.jnlA then d.media.jnlA.found i else none
  let b := if d.copyReadable d.media.jnlB then d.media.jnlB.found j else none
  let d := { d with media := { d.media with jnlA := a.getD d.media.jnlA, jnlB := b.getD d.media.jnlB } }
  let one := fun (c : JnlCopy) (d : Dev) =>
    let d := (d.loadCheckpoint c.cp).each c.records Dev.replay
    ((d.onBand fun x => { x with gen := c.lastGen, ring := c.next, log := c.log }).set CBL_EPOCH.EPOCH c.lastEpoch).set
      CBL_JNL.COPY_A c.grp
  match a, b with
  | some x, some y =>
    if x.lastEpoch = y.lastEpoch then
      -- the sectors since the checkpoint that both copies have passed
      let common := if epochLe x.cp.epoch y.cp.epoch then y.cp.epoch else x.cp.epoch
      let since := fun (c : JnlCopy) => c.tail.filter fun s => s.epoch != common && epochLe common s.epoch
      if since x = since y then one x d
      else
        -- equal ends, different sectors: what one retired is open in the other (R377)
        let d := (one x d).each (recsBeyond (since x) (since y)) Dev.replay
        let opened := (x.records ++ y.records).filterMap fun r => match r with | .open_ i => some i | _ => none
        let retired := fun (l : List LogRec) (i : Intent) => l.any fun r => match r with
          | .retire j => j.grp == i.grp && j.first == i.first && j.count == i.count && j.epoch == i.epoch
          | _ => false
        let both := fun (i : Intent) => retired x.records i && retired y.records i
        d.onBand fun t => { t with marked := t.marked ++ (opened.filter fun i => !both i).map fun i => (i.grp, i.first, i.count) }
    else if epochLe x.lastEpoch y.lastEpoch then one y d else one x d
  | some x, none => one x d
  | none, some y => one y d
  | none, none =>
    let d := d.each (List.finRange 4) fun g d =>
      if d.digestOk g && (d.bandsOf g).isEmpty then
        d.onBand fun t => { t with dir := (d.defaultLayout g).foldl (fun l p => putEntry l p.1 p.2) t.dir } else d
    let data := d.band.dir.filter fun p => p.2.state == bsUser || p.2.state == bsTag
    let d := d.onBand fun t => { t with marked := data.map fun p => (p.2.group, p.2.startWelt, weltCount p.2.data) }
    d.event 0x05 51 []

/-! ### States after recovery (R336, R352, R358 to R361, R384) -/

/-- Heads that some areas of the group have been moved away from. -/
def Dev.movedFrom (d : Dev) (g : Grp) : Nat :=
  let ms := ((d.bandsOf g).filter fun p => p.2.state != bsRetired && p.2.state != bsStaged).map fun p => p.2.members
  (ms.foldl (· ||| ·) 0) &&& (255 ^^^ ms.foldl (· &&& ·) 255)

/-- What the table and the cursor show of a copy that a power loss or reset interrupted (R384). -/
structure Resumed where
  /-- heads that it moves the areas away from -/
  heads : Nat
  /-- the FLUSH or JOURNAL area that it was re-creating -/
  again : Option Nat
  /-- of a relocation: the band, and the area that takes it -/
  moves : Option (Nat × Nat)

/-- Find it: a staged copy names the members of its new extent; without one, areas already moved differ from the others; and with
every area moved the last CURSOR record names the one that is re-created. -/
def Dev.resumed (d : Dev) (g : Grp) : Resumed :=
  let areas := (d.bandsOf g).filter fun p => p.2.state != bsRetired && p.2.state != bsStaged
  let named := areas.foldl (fun m p => m ||| p.2.members) 0
  let staged := d.bandAt (stagingOf g)
  let heads := match staged with
    | some s => named &&& (255 ^^^ s.members)
    | none => d.movedFrom g
  let cur := d.band.cursor[g]
  let again := match cur with
    | some (_, b) => (areas.find? fun p => p.1 == b && (p.2.state == bsFlush || p.2.state == bsJournal) &&
        p.2.members &&& heads == 0).map Prod.fst
    | none => none
  let moves := match staged with
    | some s =>
      let dest := (d.bandsOf g).find? fun p => p.2.state == bsRetired && p.2.startWelt == s.startWelt
      let byCursor := match cur with | some (7, b) => some b | _ => none
      let byOwner := (areas.find? fun p => holdsData p.2.state && p.2.nsid == s.nsid && p.2.nsIndex == s.nsIndex).map Prod.fst
      if heads = 0 then (byCursor.or byOwner).bind fun b => dest.map fun p => (b, p.1) else none
    | none => none
  ⟨heads, again, moves⟩

/-- A copy that a power loss or reset interrupted resumes (R384): with the areas not yet moved in descending order, the first of
them the band in hand, whose staged copy is restarted; a relocation with its band; and an area that was re-created from its first
welt. A retirement of which no area has been moved or staged leaves no trace in the journal (log entry 147). -/
def Dev.resumeCopy (d : Dev) (g : Grp) : Dev :=
  let x := d.resumed g
  let d := if (d.bandAt (stagingOf g)).isSome then d.writeTable ⟨[(stagingOf g, noBand g)], []⟩ else d
  match x.moves with
  | some (b, a) => d.onBand fun t => { t with ops := t.ops ++ [{ kind := .relocate g a, todo := [b], total := 1 }] }
  | none =>
    if x.heads = 0 && x.again.isNone then d
    else
      let areas := (d.bandsOf g).filter fun p => p.2.state != bsRetired
      let gone := if x.heads != 0 then x.heads
        else areas.foldl (fun m p => m &&& (255 ^^^ p.2.members)) (((d.band.layout[g]).map ImgGroup.members).getD 0)
      let retired := if x.heads = 0 && d.band.cursor[g].map Prod.fst != some 4 then 0 else gone &&& (255 ^^^ d.failedMask g)
      let kind := match (headsOf retired).head? with
        | some h => OpKind.reshape g h
        | none => .rebuild g x.heads
      let todo := x.again.toList ++ ((areas.filter fun p => p.2.members &&& x.heads != 0).map Prod.fst).reverse
      let op : LongOp := { kind := kind, todo := todo, total := todo.length, phase := if x.again.isSome then 3 else 0
                           progress := x.again.toList.map fun b => (b, 0) }
      let d := d.onBand fun b => { b with ops := b.ops ++ [op] }
      let d := (d.set CBL_PROGRESS.DONE 0 0 g).setSat CBL_PROGRESS.TOTAL todo.length 0 g
      d.setGrpState g (match kind with
        | .reshape _ _ => if d.anyMissing g then gsRebuilding else gsReshaping
        | _ => gsRebuilding)

/-- The record of a group whose format does not match the image; a group that has never been formatted holds no digest to
compare, and makes none (DESIGN CHOICE, log entry 133). -/
def Dev.mismatchRecord (d : Dev) (g : Grp) : Dev := d.when (d.media.digest[g]).isSome (·.event 0x05 52 [g])

/-- The state of a group after recovery. A group without a digest is OFFLINE too (DESIGN CHOICE, log entry 133). -/
def Dev.settleGroup (g : Grp) (d : Dev) : Dev :=
  if !d.hasHeads g then d
  else
    let d := d.ksWrite (ksFailed g) (BitVec.ofNat 32 (d.failedMask g))
    if !d.digestOk g then
      let d := d.setGrpState g gsOffline
      d.mismatchRecord g
    else if !d.extentsOk d.band.dir g then (d.setGrpState g gsOffline).event 0x05 53 [g]
    else if d.beyond g then d.setGrpState g gsOffline
    else
      let d := (d.setGrpState g (if d.anyMissing g then gsDegraded else gsOnline)).showWidth g
      let d := d.resumeCopy g
      if d.grpState g = gsDegraded && d.on CBL_CTRL.AUTO_REBUILD then d.startRebuild g else d

/-- A namespace's map keeps R352: its entries and no others, each a hole or naming a band that names it, and each of its bands
named by the one entry that the band names. -/
def Dev.mapOk (d : Dev) (n : Ns) : Bool :=
  let mine := d.band.maps.filter fun m => m.1 == n.nsid
  decide (mine.length = n.entries) && mine.all (fun m => decide (m.2.1 < n.entries)) &&
  ((List.range n.entries).all fun ix => match d.mapOf n.nsid ix with
    | none => false
    | some none => true
    | some (some b) => match d.bandAt b with
      | some e => e.state == n.entryState ix && e.nsid == n.nsid && e.nsIndex == ix
      | none => false) &&
  d.band.dir.all fun p => !((p.2.state == bsUser || p.2.state == bsTag) && p.2.nsid == n.nsid) ||
    (d.band.maps.filter fun m => m.2.2 == some p.1).map (fun m => (m.1, m.2.1)) == [(n.nsid, p.2.nsIndex)]

/-- Namespaces whose map breaks R352 stay inaccessible. -/
def Dev.checkMaps (d : Dev) : Dev :=
  let d := d.onBand fun b => { b with ns := d.media.ns }
  let bad := (d.band.ns.filter fun n => !d.mapOk n).map Ns.nsid
  let d := d.onBand fun b => { b with ns := b.ns.map fun n => { n with inaccessible := bad.contains n.nsid } }
  d.each bad fun n d => d.event 0x05 54 [n]

/-! ### The flush image (R330) -/

/-- Restore one extent into the held portion, in a mirrored buffer of QUE (requester 71), which no quota keeps back; one that is
not whole is lost. DESIGN CHOICE (log entry 146): so is one for which the pool has no pair left. -/
def Dev.restoreExt (e : FlushExt) (d : Dev) : Dev :=
  match if e.whole then d.takeBuf 71 true else (none, d) with
  | (some b, d) =>
    (d.showUse 71).each e.sectors fun x d =>
      (d.fillBuf b x.1 x.2.2).hold
        { nsid := e.nsid, lba := x.1, kind := e.kind, zero := x.2.1, data := x.2.2, f := 0, buf := b, restored := true }
  | (none, _) =>
    let d := d.each e.sectors fun x d => d.loseSector e.nsid x.1 e.kind 4
    d.event 0x05 57 [e.nsid, ((e.sectors.head?).map Prod.fst).getD 0, e.sectors.length]

/-- Restore the flush image: keystone word 15 takes its epoch. -/
def Dev.restoreFlush (d : Dev) : Dev :=
  match d.media.flush with
  | none => d
  | some img =>
    let d := d.ksWrite ksFlush (BitVec.ofNat 32 img.epoch)
    (d.each img.exts Dev.restoreExt).showHeld

/-- Open intents that restored data covers wholly are left for destage; the others are marked (R376 step 5). -/
def Dev.markIntents (d : Dev) : Dev :=
  let open_ := d.band.intents
  let bare := open_.filter fun i => !d.anyHeld i.grp i.first i.count ||
    (List.range i.count).any fun k => d.uncoveredMask i.grp (i.first + k) != 0
  d.onBand fun b => { b with intents := [], marked := b.marked ++ bare.map fun i => (i.grp, i.first, i.count) }

/-- The whole recovery (R376), in SAFE without its last step (R605). A later HEAD_LOAD compares the digests
again, makes the record of each group that still mismatches (R67), and keeps what HBM holds. -/
def Dev.recover (d : Dev) : Dev :=
  if d.seq.recovered then
    d.each (List.finRange 4) fun g d =>
      if d.hasHeads g && !d.digestOk g then (d.when (d.grpState g != gsOffline) (·.goOffline g)).mismatchRecord g else d
  else
    let d := d.recoverAlm.loadJournal
    let d := d.each (List.finRange 4) fun g d => d.set CBL_GRP.FAILED (d.failedMask g ||| d.media.failed[g]) 0 g
    let d := d.each (List.finRange 4) Dev.settleGroup
    let d := (d.ksWrite 0 (BitVec.ofNat 32 d.band.gen)).ksWrite 1 (BitVec.ofNat 32 d.epoch)
    let d := (d.set CBL_LBT.ENTRIES d.band.lost.length).checkMaps
    -- restored data of an OFFLINE group is discarded (R365)
    let off := (List.finRange 4).filter fun (g : Grp) => d.hasHeads g && d.grpState g == gsOffline
    let d := (d.restoreFlush.each off fun g d => d.dropHeldOf g).imageUsed
    let d := d.markIntents.placeCopies.showAlm
    let d := d.onSeq fun s => { s with recovered := true }
    if d.mode == .safe then d else d.checkpoint

end Sys2Proof.Machine
end

