-- ==== Sys2Proof/Machine/Bands.lean ====
section
/-! DEFINITION. Commands of the band table, the mapping helper, the group states and the cobbler (chapters 10 and
11). -/

namespace Sys2Proof.Machine

/-! ### Band-table changes -/

/-- The group whose band switches over with a change. -/
def switchGroup (c : BandChange) : Option Grp := (List.finRange 4).find? fun g => c.dir.any fun p => p.1 == stagingOf g

/-- What a switch-over waits for beside its locks: no dirty part, no step, and no intent over the old extent
(R383). -/
def Dev.switchReady (d : Dev) (c : BandChange) : Bool :=
  match switchGroup c with
  | none => true
  | some g => match d.copying g with
    | none => true
    | some (o, _, e, _) => o.dirty.isEmpty && o.phase == 2 && o.running == 0 &&
        !d.band.intents.any fun i => i.grp == g && overlaps i.first i.count e.startWelt (weltCount e.data)

/-- BAND_TABLE_CHANGE (R336, R355, R434). -/
def execBandTableChange (c : BandChange) (s : State) : Out :=
  s.runIn 7 fun d => d.requestChange { change := c, waits := [], ranges := [] }

/-- BAND_TABLE_COMMIT (R355, R373, R383, R633): no granted lock of the changed LBAs is left; the table and the root
change in one step; for a group formatted again, with the end of its format. -/
def execBandTableCommit (s : State) : Out :=
  s.runIn 7 fun d =>
    match d.band.change with
    | none => d
    | some t =>
      if !t.waits.isEmpty || !d.switchReady t.change then d
      else
        let sw := (switchGroup t.change).bind fun g => (d.copying g).map fun x => (g, x.1, x.2.1)
        let d := d.onBand fun b => { b with change := none }
        let d := match t.format with
          | some g => d.groupFormatted g
          | none => d.commitChange t.change t.fills
        let d := match sw with
          | some (g, o, b) => (d.areaDone g o.kind b).finishOps
          | none => d
        let d := match t.client with
          | some c => d.afterCommit c
          | none => d
        d.nextChange

/-! ### The mapping helper -/

/-- The result of the helper (R356): the fields after STATUS read 0 where STATUS is not 0. -/
def Dev.xlateResult (d : Dev) (status : Nat) (p : Option (Place × BandEntry)) : Dev :=
  let d := d.set WLT_XLATE_RES0.STATUS status
  let (g, head, ph, qh, q, j, cyl, sect, band) := match p with
    | some (p, e) =>
      let hs := headsOf e.members
      let at_ := fun (n : Nat) => ((hs[n]?).map Fin.val).getD 0
      (p.grp.val, p.head.val, at_ (e.pPos p.cyl), if e.pq then at_ (e.qPos p.cyl) else 0, e.pq.toNat, p.j, p.cyl, p.sect, p.band)
    | none => (0, 0, 0, 0, 0, 0, 0, 0, 0)
  let d := ((d.set WLT_XLATE_RES0.GROUP g).set WLT_XLATE_RES0.HEAD head).set WLT_XLATE_RES0.P_HEAD ph
  let d := ((d.set WLT_XLATE_RES0.Q_HEAD qh).set WLT_XLATE_RES0.HAS_Q q).set WLT_XLATE_RES0.DATA_INDEX j
  let d := ((d.set WLT_XLATE_RES1.CYL cyl).set WLT_XLATE_RES1.SECT sect).set WLT_XLATE_RES2.BAND band
  d.stamp WLT_XLATE_RES0.VALID WLT_XLATE_RES0.SEQ

/-- Map the LBA of the helper's registers with the table as it stands. -/
def Dev.xlate (d : Dev) : Dev :=
  let nsid := d.get WLT_XLATE_CTRL.NSID
  let lba := d.get WLT_XLATE_LBA_LO.LBA + 2 ^ 32 * d.get WLT_XLATE_LBA_HI.LBA
  match d.nsOf nsid with
  | none => d.xlateResult 1 none
  | some n =>
    if n.nsze ≤ lba then d.xlateResult 2 none
    else match d.mapOf nsid (lba / 2 ^ 18) with
      | some (some b) => match d.bandAt b with
        | some e => if e.state = bsUser || e.state = bsTag then d.xlateResult 0 (some (d.placeIn b e (lba % 2 ^ 18), e))
            else d.xlateResult 4 none
        | none => d.xlateResult 4 none
      | _ => d.xlateResult 3 none

/-- A write of WLT_XLATE_CTRL. GO reads 0 again when the result is valid. -/
def Dev.xlateWrite (d : Dev) (who : Who) (v : Word) : Write :=
  if d.on WLT_XLATE_CTRL.GO then .error .locked
  else .ok <|
    let d := d.plainWrite who WLT_XLATE_CTRL 0 0 v
    if d.on WLT_XLATE_CTRL.GO then d.xlate.set WLT_XLATE_CTRL.GO 0 else d

/-- XLATE_GO (R356). -/
def execXlateGo (who : Who) (v : Word) (s : State) : Out :=
  s.run fun d => d.tryWriteOr who WLT_XLATE_CTRL.at fun d => d.xlateWrite who (withField v 31 1 1)

/-! ### Members and CBL_CMD -/

/-- LANE_OFF_TIMEOUT (R70, R357): EN of a lane with a head has been 0, or both its readers off, for more than 1 s while its
group is not OFF. -/
def execLaneOffTimeout (n : LaneId) (s : State) : Out :=
  s.runIn 7 fun d =>
    if d.hasHead n && !d.laneOn n && d.srvState n.grp != stOff then d.memberFailed n.grp n.ix else d

/-- REBUILD (R361). -/
def Dev.cmdRebuild (d : Dev) (g : Grp) : Dev :=
  if d.grpState g = gsOffline then d.cblResult 0 2 g
  else if d.grpState g != gsDegraded then d.cblResult 0 3 g
  else if (d.reserveCheck g (popcount8 (d.namedFailed g))).1 != 0 then (d.startRebuild g).cblResult 0 1 g
  else (d.set CBL_RESULT.VALID 0).startRebuild g true

/-- A head is a member of every band of the group (R360). -/
def Dev.inEveryBand (d : Dev) (g : Grp) (i : HeadIx) : Bool :=
  let l := (d.bandsOf g).filter fun p => p.2.state != bsRetired
  !l.isEmpty && l.all fun p => bit p.2.members i

/-- RETIRE_HEAD (R359, R360). -/
def Dev.cmdRetire (d : Dev) (g : Grp) (i : HeadIx) : Dev :=
  if d.grpState g != gsOnline || !d.inEveryBand g i || bit (d.failedMask g) i then d.cblResult 1 3 g
  else
    let why := (d.reserveCheck g).1
    if why != 0 then (d.reserveShort g why).cblResult 1 1 g
    else ((d.set CBL_RESULT.VALID 0).beginCopy g (.reshape g i) true).setGrpState g gsReshaping

/-- Operations that a group takes part in. -/
def LongOp.inGroup (g : Grp) (o : LongOp) : Bool :=
  match o.kind.grp? with
  | some x => x == g
  | none => o.todo.any fun b => b / 32768 == g.val

/-- PAUSE and RESUME of a group's operations. -/
def Dev.cmdPause (d : Dev) (g : Grp) (pause : Bool) : Dev :=
  let has := d.band.ops.any fun o => o.inGroup g && o.paused != pause
  let op := if pause then 2 else 3
  if !has then d.cblResult op 3 g
  else
    let mine := fun (o : LongOp) => o.inGroup g
    (d.onBand fun b => { b with ops := b.ops.map fun o => if mine o then { o with paused := pause } else o }).cblResult op
      (if pause then 4 else 0) g

/-- A write of CBL_CMD: GO is cleared when the command is accepted or refused. -/
def Dev.cblWrite (d : Dev) (who : Who) (v : Word) : Dev :=
  let d := d.plainWrite who CBL_CMD 0 0 v
  if !d.on CBL_CMD.GO then d
  else
    let d := d.set CBL_CMD.GO 0
    let g : Grp := ⟨d.get CBL_CMD.GROUP % 4, by omega⟩
    match d.get CBL_CMD.OP with
    | 0 => d.cmdRebuild g
    | 1 => d.cmdRetire g ⟨d.get CBL_CMD.HEAD % 8, by omega⟩
    | 2 => d.cmdPause g true
    | 3 => d.cmdPause g false
    | o => d.cblResult o 3 g

/-- CBL_REBUILD (R361). -/
def execCblRebuild (who : Who) (v : Word) (s : State) : Out :=
  s.run fun d => d.tryWrite who CBL_CMD.at fun d => d.cblWrite who (withField (withField v 31 1 1) 28 3 0)

/-- CBL_RETIRE_HEAD (R360). -/
def execCblRetireHead (who : Who) (v : Word) (s : State) : Out :=
  s.run fun d => d.tryWrite who CBL_CMD.at fun d => d.cblWrite who (withField (withField v 31 1 1) 28 3 1)

/-- CBL_PAUSE. -/
def execCblPause (who : Who) (v : Word) (s : State) : Out :=
  s.run fun d => d.tryWrite who CBL_CMD.at fun d => d.cblWrite who (withField (withField v 31 1 1) 28 3 2)

/-- CBL_RESUME. -/
def execCblResume (who : Who) (v : Word) (s : State) : Out :=
  s.run fun d => d.tryWrite who CBL_CMD.at fun d => d.cblWrite who (withField (withField v 31 1 1) 28 3 3)

/-! ### Journal and cobbler -/

/-- JOURNAL_COMMIT (R372, R373 step 2): PERIOD has elapsed since the last commit, and a record is pending. -/
def execJournalCommit (s : State) : Out :=
  s.runIn 7 fun d => if d.band.pending.isEmpty || d.band.commit.isSome || !d.periodOver then d else d.commitLog

/-- JOURNAL_RECOVERY (R67, R330, R376, R556, R596): step 11 of a start, with the heads loaded and calibrated. -/
def execJournalRecovery (s : State) : Out :=
  s.runIn 7 fun d =>
    let due := d.mode == .headLoad || (d.mode == .safe && d.seq.safeStart == 2)
    let loading := (List.finRange 4).any fun g => d.srvState g == stLoading
    if due && !loading && d.seq.cal then (d.onSeq fun s => { s with step11 := true }).recover else d

/-- Cobbler work is due beside patrol (R609). -/
def Dev.workDue (d : Dev) : Bool := !d.band.ops.isEmpty || !d.band.marked.isEmpty || d.on CBL_JNL.BUILDING

/-- COBBLER_STEP (R451, R609): the cobbler starts the next step of a group whose heads are loaded; work that is due
ends an idle mode, and in HEAD_LOAD only resync writes (R599). -/
def execCobblerStep (g : Grp) (s : State) : Out :=
  s.runIn 7 fun d =>
    let d := if d.workDue then d.idleExit else d
    if !d.on CBL_CTRL.EN || (d.grpq[g].step).isSome || !d.loaded g || d.grpFenced g || d.pwrfail ||
        !d.inMode [.active, .glide, .headLoad] || d.seq.spinDown != 0 || d.seq.prep != 0 then d
    else if d.mode == .headLoad then
      if !d.seq.step11 then d
      else match d.nextMarked g with
      | some (w, n) => d.resyncStep g w n
      | none => d
    else d.startStep g

/-- STEP_END (R453, R67, R633). -/
def execStepEnd (g : Grp) (s : State) : Out := s.runIn 7 fun d => d.endStep g

end Sys2Proof.Machine
end

