-- ==== Sys2Proof/Machine/Buffers.lean ====
section
/-! DEFINITION. The buffer pool manager's and the shuttle's commands (chapter 15). An operation on a
port comes from a block, any other from BPM_CMD. -/

namespace Sys2Proof.Machine

/-- The record of a buffer after an operation, in BPM_RESULT1. -/
def Dev.showRec (d : Dev) (b : Nat) : Dev :=
  match d.bufRec b with
  | none => d.setWord BPM_RESULT1 0
  | some r => (((d.set BPM_RESULT1.ALLOCATED 1).set BPM_RESULT1.MIRROR (r.mirror && !r.odd).toNat).set
      BPM_RESULT1.OWNER r.owner).set BPM_RESULT1.SHARES r.shares

/-- A result of BPM_CMD, or the answer on a port. -/
def Dev.bpmAnswer (d : Dev) (port : Bool) (st b : Nat) (l : List Nat) : Dev :=
  if port then d.onBpm fun p => { p with answer := (st, l) }
  else
    let d := ((d.set BPM_RESULT0.STATUS st).set BPM_RESULT0.BUF b).showRec b
    ((d.set BPM_CMD.GO 0).stamp BPM_RESULT0.VALID BPM_RESULT0.SEQ).raise BPM_INT_STATUS.CMD_DONE

/-- A rejected FREE or RELEASE: its UC record and capture record (R491). -/
def Dev.bpmReject (d : Dev) (st r b : Nat) : Dev :=
  ((((d.set BPM_ERR_INFO.STATUS st).set BPM_ERR_INFO.REQ r).set BPM_ERR_INFO.BUF b).set
    BPM_ERR_INFO.VALID 1 |>.raise BPM_INT_STATUS.ERR).uc 240 9 r b st

/-- ALLOC (R486 to R489): a port request that cannot be granted yet waits. -/
def Dev.bpmAlloc (d : Dev) (port : Bool) (r n : Nat) (mirror : Bool) : Dev :=
  if !d.on BPM_CTRL.EN then d
  else
    let n := if port then n else 1
    if n = 0 ∨ 64 < n then d.bpmAnswer port bpmRange 0 []
    else
      let st := d.allocStatus r (if mirror then 2 * n else n)
      let behind := port && d.bpm.waiting.any fun w => w.1 == r
      if port && (st == bpmQuota || st == bpmEmpty || (st == bpmOk && behind)) then
        (d.onBpm fun p => { p with waiting := p.waiting ++ [(r, n, mirror)] }).showUse r
      else
        let (st, l, d) := d.alloc r n mirror
        -- no pairs are left though buffers are
        if port && st == bpmEmpty then (d.onBpm fun p => { p with waiting := p.waiting ++ [(r, n, mirror)] }).showUse r
        else d.bpmAnswer port st (l.head?.getD 0) l

/-- SHARE (R490). -/
def Dev.bpmShare (d : Dev) (port : Bool) (r b k last : Nat) : Dev :=
  if !d.on BPM_CTRL.EN then d
  else
    let st := d.shareStatus r b k last
    let d := if st = bpmOk then
        ((d.setRec b fun x => { x with shares := x.shares + k, owner := last }).showUse r).showUse last
      else d
    d.bpmAnswer port st b []

/-- RELEASE (R491). -/
def Dev.bpmRelease (d : Dev) (port : Bool) (r b : Nat) : Dev :=
  if !d.on BPM_CTRL.EN then d
  else
    let st := d.releaseStatus r b
    let d := if st = bpmOk then
        d.onBpm fun p => { p with recs := p.recs.map fun x => if x.buf = b then { x with shares := x.shares - 1 } else x }
      else d.bpmReject st r b
    d.bpmAnswer port st b []

/-- FREE (R491, R493). -/
def Dev.bpmFree (d : Dev) (port : Bool) (r b : Nat) : Dev :=
  if !d.on BPM_CTRL.EN then d
  else
    let st := d.freeStatus r b
    let d := if st = bpmOk then d.freeBuf r b else d.bpmReject st r b
    d.bpmAnswer port st b []

/-- QUERY (R484); the odd member of a pair is not to be named (R488). -/
def Dev.bpmQuery (d : Dev) (port : Bool) (r b : Nat) : Dev :=
  if !d.on BPM_CTRL.EN then d
  else
    let odd := ((d.bufRec b).map BufRec.odd).getD false
    d.bpmAnswer port (if 82 ≤ r || bufTotal ≤ b + d.bpm.cmb then bpmRange else if odd then bpmNotOwner else bpmOk) b []

/-- A write of BPM_CMD: dropped with LOCKED while GO is 1; with GO it issues an operation, for ALLOC of
one buffer or pair. -/
def Dev.bpmCmd (d : Dev) (who : Who) (v : Word) : Write :=
  if d.on BPM_CMD.GO then .error .locked
  else .ok <|
    let d := d.plainWrite who BPM_CMD 0 0 v
    let r := BPM_CMD.REQ.of v
    let b := BPM_CMD.BUF.of v
    if !v.getLsbD 31 then d
    else
      let d := d.set BPM_RESULT0.VALID 0   -- an operation runs (R37)
      match BPM_CMD.OP.of v with
      | 0 => d.bpmAlloc false r 1 (v.getLsbD 27)
      | 1 => d.bpmFree false r b
      | 2 => d.bpmShare false r b (d.get BPM_ARG.K) (d.get BPM_ARG.LAST)
      | 3 => d.bpmRelease false r b
      | 4 => d.bpmQuery false r b
      | _ => d.bpmAnswer false bpmRange b []

def execBpmAlloc (port : Bool) (r n : Nat) (mirror : Bool) (s : State) : Out :=
  s.runIn 5 fun d => d.bpmAlloc port r n mirror

/-- Freed room grants one waiting request, in the order of R487. -/
def execBpmAllocGrant (s : State) : Out := s.runIn 5 fun d => d.serveAllocs 1

def execBpmShare (port : Bool) (r b k last : Nat) (s : State) : Out :=
  s.runIn 5 fun d => d.bpmShare port r b k last

def execBpmRelease (port : Bool) (r b : Nat) (s : State) : Out := s.runIn 5 fun d => d.bpmRelease port r b

def execBpmFree (port : Bool) (r b : Nat) (s : State) : Out := s.runIn 5 fun d => d.bpmFree port r b

def execBpmQuery (port : Bool) (r b : Nat) (s : State) : Out := s.runIn 5 fun d => d.bpmQuery port r b

/-! ### Shuttle -/

def execShuStart (who : Who) (c : Chan) (v : Word) (s : State) : Out :=
  s.run fun d => d.busWrite who (SHU_CH_CTRL.at 0 c) fun d => d.shuCtrl who c (withField v 31 1 1)

def execShuAbort (who : Who) (c : Chan) (v : Word) (s : State) : Out :=
  s.run fun d => d.busWrite who (SHU_CH_CTRL.at 0 c) fun d => d.shuCtrl who c (withField v 30 1 1)

def execShuJobEnd (c : Chan) (moved : Nat) (poison : Bool) (s : State) : Out :=
  s.runIn 5 fun d => d.jobEnd c moved poison

def execShuDisable (who : Who) (v : Word) (s : State) : Out :=
  s.run fun d => d.busWrite who SHU_CTRL.at fun d => d.shuEnable (withField v 0 1 0)

end Sys2Proof.Machine
end

