-- ==== Sys2Proof/Machine/Faults.lean ====
section
/-! DEFINITION. Commands of the fault collector and the almanac (chapter 18). -/

namespace Sys2Proof.Machine

/-- FAULT_REPORT (R536). -/
def execFaultReport (r : Report) (s : State) : Out := s.runIn 7 fun d => d.report r

/-! ### Fences -/

/-- The next waiting fence, if any, begins (R545). -/
def Dev.nextFence (d : Dev) : Dev :=
  match d.flt.queue with
  | [] => d
  | j :: t =>
    let d := d.onFlt fun f => { f with queue := t }
    (d.set FLT_STATUS.QUEUED t.length).startFence j

/-- FENCE_COMPLETE (R543, R544): steps 2 to 5 of the running fence end: the effects of R541, PAUSE clears, the
record becomes valid or the FENCE_CMD record is made, and the next waiting fence begins. -/
def execFenceComplete (s : State) : Out :=
  s.runIn 7 fun d =>
    match d.flt.running with
    | none => d
    | some j =>
      let d := d.onFlt fun f => { f with running := none }
      let d := d.bump FLT_DELAYED.COUNT 0 0 (d.worksThrough j.kind j.index).length
      let d := (d.applyFence j.kind j.index).set FLT_STATUS.PAUSE 0
      -- the lanes of the group go on without the fenced one (R117)
      let d := if j.kind = 1 then (if h : j.index < 32 then d.serve (LaneId.grp ⟨j.index, h⟩) 64 else d) else d
      let d := if j.kind = 3 then d.pcPairFatal j.index else d
      let d := if d.mode == .coastFlush then d else d.resumePosting
      let delayed := d.get FLT_DELAYED.COUNT - j.delayed0
      let d := match j.report with
        | some (r, ce) =>
          let d := d.record 0x0101 (faultPayload r true delayed ce)
          -- the record of a later fence, if one waits, is not this one's
        let later := d.flt.queue.any fun x => x.report.isSome
        (d.when (!later) (·.set FLT_REC0.VALID 1)).raise FLT_INT_STATUS.FENCE
        | none =>
          let d := d.record 0x0103 (fields32 [j.kind, j.index, 0, whoCode j.who, delayed])
          ((d.set FLT_FENCE_CMD.GO 0).raise FLT_INT_STATUS.FENCE)
      d.nextFence

/-- The index of a FLT_FENCE_CMD names a unit that exists (R542). -/
def Dev.unitExists (d : Dev) (kind ix : Nat) : Bool :=
  match kind with
  | 1 => decide (ix < 32) && d.hasHead ix
  | 2 => decide (ix < 4) && d.hasHeads ix
  | 3 => decide (ix < 64)
  | 4 => decide (ix < 16)
  | 5 => decide (ix < 64)
  | 6 => decide (0 < ix) && decide (ix < 64) && d.on HST_FN_STATUS.PRESENT 0 ix
  | 7 => decide (ix < 2)
  | 9 => decide (ix < 82)
  | _ => false

/-- The tests of a FLT_FENCE_CMD write with GO: the cause of its refusal (R542). -/
def Dev.fenceRefusal (d : Dev) (v : Word) (lift : Bool) : Option BusCause :=
  if d.on FLT_FENCE_CMD.GO then some .locked
  else if !d.unitExists (bits v 16 4) (bits v 0 16) then some .range
  else if lift && !(bits v 16 4 == 5 || bits v 16 4 == 6 || bits v 16 4 == 9) then some .locked
  else none

/-- FENCE_CMD (R542, R543): a commanded fence starts; it waits behind a fence from a report that
runs. Fencing the second core as well is an FA (R541). -/
def execFenceCmd (who : Who) (v : Word) (s : State) : Out :=
  s.run fun d => d.busWriteOr who FLT_FENCE_CMD.at fun d =>
    match d.fenceRefusal v false with
    | some c => .error c
    | none =>
      let d := d.plainWrite who FLT_FENCE_CMD 0 0 (withField v 30 2 2)
      let k := bits v 16 4
      let ix := bits v 0 16
      .ok (if k == 7 && d.unitFenced 7 (1 - ix) then ((d.set FLT_FENCE_CMD.GO 0).fa (440 + ix) 7 ix)
        else d.fenceReport ⟨k, ix, none, who, 0⟩)

/-- FENCE_LIFT (R542): GO clears at once; the FENCE_CMD record carries 1 for a lift. -/
def execFenceLift (who : Who) (v : Word) (s : State) : Out :=
  s.run fun d => d.busWriteOr who FLT_FENCE_CMD.at fun d =>
    match d.fenceRefusal v true with
    | some c => .error c
    | none =>
      let d := (d.plainWrite who FLT_FENCE_CMD 0 0 (withField v 30 2 3)).set FLT_FENCE_CMD.GO 0
      .ok ((d.lift (bits v 16 4) (bits v 0 16)).record 0x0103
        (fields32 [bits v 16 4, bits v 0 16, 1, whoCode who]))

/-- CE_WINDOW_END (R538): the count of every site restarts at 0. -/
def execCeWindowEnd (s : State) : Out := s.runIn 7 fun d => d.onFlt fun f => { f with win := [] }

/-- FAULT_INJECT (R548): a write of FLT_INJ_CTRL with GO; LOCKED outside MAKER_SERVICE. -/
def execFaultInject (who : Who) (v : Word) (s : State) : Out :=
  s.run fun d => d.busWriteOr who FLT_INJ_CTRL.at fun d =>
    let b := bits v 28 2
    if d.mode != .makerService then .error .locked
    else if !(b == 1 || b == 2) || 464 ≤ bits v 0 9 then .error .range
    else
      let d := d.plainWrite who FLT_INJ_CTRL 0 0 (withField v 31 1 1)
      .ok ((d.set FLT_INJ_STATUS.ACTIVE 1).set FLT_INJ_STATUS.REMAIN (atLeast1 (bits v 16 8)))

/-! ### Almanac -/

/-- ALMANAC_RECORD (R551, R552): a maker offers a record. -/
def execAlmanacRecord (r : AlmRec) (s : State) : Out := s.runIn 7 fun d => d.record r.type r.payload

/-- Staging is due at the media copies: 64 KiB or more, or 1 s after its oldest record was accepted (R554). -/
def Dev.appendDue (d : Dev) : Bool := decide (0x1_0000 ≤ d.alm.used) || decide (d.alm.since + 1000000 ≤ d.now)

/-- ALMANAC_APPEND (R554): staging goes to the media copies once it is due, after the writes of the append before; LIGHT_IDLE and DEEP_IDLE write no
media. -/
def execAlmanacAppend (s : State) : Out :=
  s.runIn 7 fun d =>
    if d.alm.staging.isEmpty || !d.appendDue || !(d.inMode [.active, .glide, .coastFlush, .makerService] || (d.mode == .headLoad && d.seq.step11)) then d
    else d.almStart

/-- The almanac is erased: staging, both copies and the image are emptied, and the ERASED record of a
role becomes the first record; SEQ goes on (R551, R557). -/
def Dev.almErase (d : Dev) (role : Nat) : Dev :=
  let d := d.onAlm fun a =>
    { a with staging := [], image := [], drops := 0,
             toA := none, toB := none, copyA := { a.copyA with recs := [], lastSeq := 0 },
             copyB := { a.copyB with recs := [], lastSeq := 0 } }
  let d := ((d.set ALM_STATUS.FULL 0).set ALM_STATUS.RESERVE_FULL 0).set ALM_DROPPED.COUNT 0
  d.record 0x0003 (fields32 [role])

/-- ALM_ERASE (R557): ALM_CTRL.ERASE, in MAKER_SERVICE with a maker session; hardware clears the
bit. -/
def execAlmErase (who : Who) (v : Word) (s : State) : Out :=
  s.run fun d => d.busWriteOr who ALM_CTRL.at fun d =>
    if d.mode == .makerService && d.makerOpen then
      .ok (((d.plainWrite who ALM_CTRL 0 0 (withField v 1 1 1)).set ALM_CTRL.ERASE 0).almErase 3)
    else .error .locked

def Dev.onView (d : Dev) (who : Who) (f : AlmView → AlmView) : Dev :=
  d.onAlm fun a => { a with views := upd a.views (whoIx who) f }

/-- A load of a record into an initiator's view starts (R558). -/
def Dev.almLoad (d : Dev) (who : Who) (seq : Nat) : Dev :=
  (d.set ALM_CUR_INFO.VALID 0 0 (whoIx who)).onView who fun w => { w with loading := some seq }

/-- ALMANAC_CURSOR (R558): a write of ALM_CURSOR in the initiator's own set. -/
def execAlmanacCursor (who : Who) (v : Word) (s : State) : Out :=
  s.run fun d => d.busWrite who ALM_CURSOR.at fun d =>
    (d.setWord ALM_CURSOR v 0 (whoIx who)).almLoad who v.toNat

/-- ALMANAC_NEXT (R558): a write of 1 to NEXT: SEQ + 1, and load; PAGE is written with it. -/
def execAlmanacNext (who : Who) (v : Word) (s : State) : Out :=
  s.run fun d => d.busWrite who ALM_CUR_OFS.at fun d =>
    let seq := (d.get ALM_CURSOR.SEQ 0 (whoIx who) + 1) % 2 ^ 32
    ((d.set ALM_CUR_OFS.PAGE (bits v 0 4) 0 (whoIx who)).set ALM_CURSOR.SEQ seq 0 (whoIx who)).almLoad
      who seq

/-- ALMANAC_LOAD_DONE (R558): the window shows the record, or FOUND is 0. -/
def execAlmanacLoadDone (who : Who) (s : State) : Out :=
  s.runIn 7 fun d =>
    let k := whoIx who
    match d.alm.views[k].loading with
    | none => d
    | some seq =>
      let r := (d.alm.image ++ d.alm.staging).find? fun r => r.seq % 2 ^ 32 == seq
      let d := d.onView who fun w => { loading := none, shown := if r.isSome then r else w.shown }
      let d := (d.set ALM_CUR_INFO.FOUND r.isSome.toNat 0 k).set ALM_CUR_INFO.PLEN
        ((r.map fun r => r.payload.length).getD 0) 0 k
      d.stamp ALM_CUR_INFO.VALID ALM_CUR_INFO.SEQ 0 k

/-- ALMANAC_POST (R559): a write of ALM_POST_CTRL with GO; the payload comes from the buffer address. -/
def execAlmanacPost (who : Who) (v : Word) (s : State) : Out :=
  s.run fun d => d.busWriteOr who ALM_POST_CTRL.at fun d =>
    if d.on ALM_POST_CTRL.GO then .error .locked
    else .ok <|
      let d := (d.plainWrite who ALM_POST_CTRL 0 0 (withField v 31 1 1)).set ALM_POST_CTRL.GO 0
      let type := bits v 0 16
      let plen := bits v 16 12
      let a := d.get ALM_POST_ADDR_LO.ADDR + 2 ^ 32 * d.get ALM_POST_ADDR_HI.ADDR
      if type / 256 != 9 || 4080 < plen || a % 16 != 0 then d.set ALM_POST_CTRL.ERR 1
      else
        let payload := d.memBytes a plen
        ((d.set ALM_POST_CTRL.ERR 0).record type payload).raise ALM_INT_STATUS.POSTED

/-- TRC_CLEAR (R577): the counters whose bits are 1 clear; hardware clears the bits. A BAR2 write by a
session makes its record (R568). -/
def execTrcClear (who : Who) (w : Fin 8) (v : Word) (s : State) : Out :=
  s.run fun d => d.busWrite who (TRC_CLEAR.at 0 w) fun d =>
    d.each (List.range 32) fun i d =>
      if v.getLsbD i then
        (d.set TRC_CNT_LO.CNT 0 0 (32 * w.val + i)).set TRC_CNT_HI.CNT 0 0 (32 * w.val + i)
      else d

end Sys2Proof.Machine
end

