-- ==== Sys2Proof/Machine/WritePath.lean ====
section
/-! DEFINITION. Commands of the write path and the wedge-locked clocking (chapter 04). -/

namespace Sys2Proof.Machine

/-! ### The synthesizer -/

abbrev wsOff : Nat := 0
abbrev wsAcquire : Nat := 1
abbrev wsLock : Nat := 2
abbrev wsHold : Nat := 3
abbrev wsLost : Nat := 4

def Dev.wlsState (d : Dev) (g : Grp) : Nat := d.get WLS_STATUS.STATE g

/-- The 40-bit ratio f_bit / 25 MHz, with 32 fraction bits (R124). -/
def Dev.ratio (d : Dev) (g : Grp) : Nat := d.get WLS_RATIO_LO.FRAC g + 2 ^ 32 * d.get WLS_RATIO_HI.INT g

/-- Set the ratio, held within its 40 bits, and with it the speed that R137 judges: f_bit / CPR in
1/16 rpm. -/
def Dev.setRatio (d : Dev) (g : Grp) (r : Int) : Dev :=
  let r := (clamp 0 (2 ^ 40 - 1) r).toNat
  let cpr := (d.zone g d.wls[g].zone).cpr
  ((d.set WLS_RATIO_LO.FRAC r g).set WLS_RATIO_HI.INT (r / 2 ^ 32) g).onWls g fun w =>
    { w with speed := if cpr = 0 then 0 else r * 24_000_000_000 / (cpr * 2 ^ 32) }

/-- f_bit · 2^k compared with a frequency in MHz: f_bit is ratio · 25 MHz / 2^32 (R132). -/
def dcoBelow (r k mhz : Nat) : Bool := decide (r * 25 * 2 ^ k < mhz * 2 ^ 32)
def dcoAbove (r k mhz : Nat) : Bool := decide (mhz * 2 ^ 32 < r * 25 * 2 ^ k)

/-- k at an entry to ACQUIRE: the smallest for which the preset reaches 4.2 GHz, else 4 (R132). -/
def presetDiv (r : Nat) : Nat := ([0, 1, 2, 3].find? fun k => !dcoBelow r k 4200).getD 4

/-- k in a servo field: raised below 4.2 GHz, lowered above 9.4 GHz (R132). -/
def nextDiv (r k : Nat) : Nat :=
  if dcoBelow r k 4200 && decide (k < 4) then k + 1
  else if dcoAbove r k 9400 && decide (0 < k) then k - 1
  else k

/-- The ratio at the spindle's speed estimate (R131): CPR · speed / 60 over 25 MHz, with SPN_SPEED in
1/16 rpm. -/
def Dev.presetRatio (d : Dev) (g : Grp) : Int :=
  freeDiv ((d.zone g d.wls[g].zone).cpr * d.get SPN_SPEED.SPEED * 2 ^ 32 : Nat) 24_000_000_000

/-- Writes of heads stop with a cause (R152). -/
def Dev.stopWrites (d : Dev) (g : Grp) (mask cause : Nat) : Dev := d.abortHeads g mask cause

/-- The state changes: writes stop with cause 0 where LOCK is left, and the spindle's source follows
(R131, R150, R152, R288). -/
def Dev.wlsEnter (d : Dev) (g : Grp) (st : Nat) : Dev :=
  let was := d.wlsState g
  let d := d.set WLS_STATUS.STATE st g
  let d := if was == wsLock && st != wsLock then d.stopWrites g 255 0 else d
  (d.refreshInh g).resource

/-- ACQUIRE with a ratio (R131, R132). -/
def Dev.acquire (d : Dev) (g : Grp) (r : Int) : Dev :=
  let d := (d.setRatio g r).onWls g fun w => { w with lockCnt := 0, missCnt := 0 }
  (d.set WLS_STATUS.DIV (presetDiv (d.ratio g)) g).wlsEnter g wsAcquire

/-- LOST: LOCK_LOST, and the slots that have not begun are dropped (R131, R173). -/
def Dev.wlsLost (d : Dev) (g : Grp) : Dev :=
  ((d.wlsEnter g wsLost).missArms g).raise WLS_INT_STATUS.LOCK_LOST g

/-- A head's offset in 1/256 cell (R134). -/
def Dev.laneOfs (d : Dev) (g : Grp) (i : HeadIx) : Int :=
  sext 12 (d.get WLS_LANE_OFS.CELLS g i) * 256 + d.get WLS_LANE_OFS.FINE g i

def Dev.setLaneOfs (d : Dev) (g : Grp) (i : HeadIx) (x : Int) : Dev :=
  (d.set WLS_LANE_OFS.CELLS (twos 12 (x / 256)) g i).set WLS_LANE_OFS.FINE (twos 8 x) g i

/-- theta of a member head that is not fenced: its arrival, corrected by its offset (R125, R128). -/
def Dev.thetaOf (d : Dev) (g : Grp) (w : WedgeIn) (i : HeadIx) : Option Int :=
  let n := laneOf g i
  if d.hasHead n && !bit (d.get FLT_FENCED_LANE.LANE) n then ((w.arrivals[i.val]?).getD none).map fun a => a - d.laneOfs g i else none

/-- The wedge source and its theta: the lowest member head, not fenced, whose mark is found (R125). -/
def Dev.wedgeSource (d : Dev) (g : Grp) (w : WedgeIn) : Option (HeadIx × Int) :=
  (List.finRange 8).findSome? fun i => (d.thetaOf g w i).map fun t => (i, t)

/-- Fine tracking of the offsets with TRACK (R134). DESIGN CHOICE (log entry 130): the part of an update below 1/256 cell is
kept for the next wedge; a zone change and a calibration clear it, a firmware write of the register does not. -/
def Dev.trackOfs (d : Dev) (g : Grp) (w : WedgeIn) (theta : Int) : Dev :=
  d.each (List.finRange 8) fun i d =>
    match d.thetaOf g w i with
    | some t =>
      if d.on WLS_LANE_OFS.TRACK g i then
        let x := d.laneOfs g i * 64 + d.wls[g].frac[i] + (t - theta)
        (d.setLaneOfs g i (x / 64)).onWls g fun w => { w with frac := w.frac.set i (x % 64).toNat }
      else d
    | none => d

/-- In REGEN the spindle publishes as acceleration the speed change over the last wedge interval of its source, in rpm/s
(R323). -/
def Dev.publishRegen (d : Dev) (g : Grp) (speed : Nat) : Dev :=
  if d.get SPN_STATUS.SRC == 2 && d.get SPN_STATUS.WGRP == g.val then
    let was := d.spn.wedgeSpeed
    let regen := d.spnState == spStop && d.get SPN_STOP_STATUS.PHASE == 2 && was != 0
    let d := if regen then
        d.onSpn fun s => { s with accel := freeDiv (((speed : Int) - was) * speed * d.nw) 15360 }
      else d
    d.onSpn fun s => { s with wedgeSpeed := speed }
  else d

/-- The feed-forward of a glide (R135) and of REGEN (R323): the ratio times 1 + a · T_w / Ω, with
T_w = 60 / (speed · N_w), and a and Ω as published (R292). -/
def Dev.feedForward (d : Dev) (g : Grp) (speed : Nat) : Dev :=
  let om := d.spn.omega
  let den := speed * om * d.nw
  let regen := d.spnState == spStop && d.get SPN_STOP_STATUS.PHASE == 2
  if d.on WLS_CTRL.FF_EN g && (d.on SPN_STATUS.GLIDING || regen) && den != 0 then
    d.setRatio g (freeDiv (d.ratio g * (den + d.spn.accelPub * 15360)) den)
  else d

/-- The step of R129. -/
def Dev.loopStep (d : Dev) (g : Grp) (theta : Int) : Dev :=
  let k := 256 * d.cpw g d.wls[g].zone * 2 ^ d.get WLS_CTRL.KF g
  if k = 0 then d else d.setRatio g (freeDiv (d.ratio g * (k - theta)) k)

/-- The root of the mean square of the last 256 wedges in LOCK (R130). DESIGN CHOICE (log entry 130): before 256 wedges have
been spent in LOCK the mean is over those there have been. -/
def Dev.showRms (d : Dev) (g : Grp) (theta : Int) : Dev :=
  let l := ((theta * theta).toNat :: d.wls[g].squares).take 256
  let r := isqrt (l.sum / l.length)
  let rms := if r * r * l.length = l.sum then r
    else r + (if Config.roundUp l.sum l.length then 1 else 0)
  (d.onWls g fun w => { w with squares := l }).setSat WLS_STATUS.THETA_RMS rms g

/-- The cell grid shifts by theta, so that the reference cell falls at E (R129): at 1/16 cell per island cycle in LOCK and
HOLD, at once in ACQUIRE (R131). -/
def Dev.shiftGrid (d : Dev) (g : Grp) (theta : Int) (slewed : Bool) : Dev :=
  d.onWls g fun w => { w with grid := w.grid + theta, slew := if slewed then (theta.natAbs + 15) / 16 else 0 }

/-- theta exceeds a threshold. -/
def thetaOver (theta : Int) (thr : Nat) : Bool := decide (thr < theta.natAbs)

/-- A found wedge in LOCK or HOLD (R129, R131). -/
def Dev.wedgeLocked (d : Dev) (g : Grp) (theta : Int) : Dev :=
  if thetaOver theta (d.get WLS_CTRL.LOSS_THR g) then d.wlsLost g
  else
    let d := ((d.loopStep g theta).shiftGrid g theta true).showRms g theta
    let d := d.onWls g fun w => { w with missCnt := 0 }
    let d := if d.wlsState g == wsLock then d else d.wlsEnter g wsLock
    if d.wls[g].thetaBad then d.stopWrites g 255 1 else d

/-- A found wedge in ACQUIRE (R131). -/
def Dev.wedgeAcquire (d : Dev) (g : Grp) (theta : Int) : Dev :=
  let ok := !thetaOver theta (d.get WLS_CTRL.LOCK_THR g)
  let d := (d.shiftGrid g theta false).onWls g fun w => { w with lockCnt := if ok then w.lockCnt + 1 else 0, missCnt := 0 }
  if ok && decide (atLeast1 (d.get WLS_CTRL.LOCK_CNT g) ≤ d.wls[g].lockCnt) then d.wlsEnter g wsLock else d

/-- A missed wedge (R131). -/
def Dev.wedgeMissed (d : Dev) (g : Grp) : Dev :=
  let st := d.wlsState g
  if st == wsLost then d
  else
    let d := d.onWls g fun w => { w with missCnt := w.missCnt + 1, lockCnt := 0 }
    if atLeast1 (d.get WLS_CTRL.MISS_MAX g) ≤ d.wls[g].missCnt then d.wlsLost g
    else if st == wsLock then d.wlsEnter g wsHold
    else d

/-- WLS_WEDGE (R125 to R137): one wedge of a running WLS. -/
def execWlsWedge (g : Grp) (w : WedgeIn) (s : State) : Out :=
  s.runIn (14 + g) fun d =>
    let st := d.wlsState g
    if st == wsOff then d
    else
      let src := d.wedgeSource g w
      let d := if st == wsHold && src.isNone then d
        else (d.publishRegen g w.speed).feedForward g w.speed
      let d := match src with
        | none => d.wedgeMissed g
        | some (i, theta) =>
          let d := (d.set WLS_STATUS.SOURCE i g).set WLS_STATUS.THETA_LAST
            (twos 8 (clamp (-128) 127 theta)) g
          -- the theta input of R150 is judged at every found wedge
          let d := d.onWls g fun w => { w with thetaBad := thetaOver theta (d.get WLS_CTRL.WR_THR g) }
          let d := if st == wsLost then (d.acquire g (d.presetRatio g)).shiftGrid g theta false
            else if st == wsAcquire then d.wedgeAcquire g theta
            else d.wedgeLocked g theta
          d.trackOfs g w theta
      let d := d.set WLS_STATUS.DIV (nextDiv (d.ratio g) (d.get WLS_STATUS.DIV g)) g
      ((d.offsetsWedge g).refreshInh g).resource

/-- EN clears (R131): OFF, with the group's lanes and formatter stopped. -/
def Dev.wlsStop (d : Dev) (g : Grp) : Dev :=
  let d := (d.wlsEnter g wsOff).onWls g fun w =>
    { w with lockCnt := 0, missCnt := 0, thetaBad := false }
  d.each (List.finRange 8) fun i d => d.set LANE_STATUS.TRACKING 0 (laneOf g i)

/-- A write of WLS_CTRL (R131): RANGE unless WR_THR is below LOSS_THR. -/
def Dev.wlsCtrlWrite (d : Dev) (who : Who) (g : Grp) (v : Word) : Write :=
  if bits v 24 8 ≤ bits v 16 8 then .error .range
  else .ok <|
    let was := d.on WLS_CTRL.EN g
    let d := d.plainWrite who WLS_CTRL g 0 v
    let now := d.on WLS_CTRL.EN g
    if now && !was then d.acquire g (d.presetRatio g)
    else if was && !now then d.wlsStop g
    else d

/-- WLS_ENABLE (R131). -/
def execWlsEnable (who : Who) (g : Grp) (v : Word) (s : State) : Out :=
  s.run fun d => d.tryWriteOr who (WLS_CTRL.at g) fun d => d.wlsCtrlWrite who g (withField v 0 1 1)

/-- WLS_DISABLE (R131). -/
def execWlsDisable (who : Who) (g : Grp) (v : Word) (s : State) : Out :=
  s.run fun d => d.tryWriteOr who (WLS_CTRL.at g) fun d => d.wlsCtrlWrite who g (withField v 0 1 0)

/-- WLS_ZONE_CHANGE (R133, R134): a seek has arrived in zone z. The ratio and the offsets are rescaled by
CPR_new / CPR_old; the offsets to the nearest 1/256 cell. -/
def execWlsZoneChange (g : Grp) (z : Nat) (s : State) : Out :=
  s.runIn (14 + g) fun d =>
    let old := (d.zone g d.wls[g].zone).cpr
    let new := (d.zone g z).cpr
    if d.wls[g].zone = z ∨ d.zones[g].length ≤ z then d
    else
      let r := if old = 0 then d.presetRatio g else freeDiv (d.ratio g * new) old
      let d := d.each (List.finRange 8) fun i d =>
        if old = 0 then d else d.setLaneOfs g i (roundDiv (d.laneOfs g i * new) old)
      let d := d.onWls g fun w => { w with zone := z, frac := Vector.replicate 8 0 }
      let d := if d.wlsState g == wsOff then d else d.acquire g r
      d.each (headsOf (d.get FMT_LANES.PRESENT g)) fun i d => d.orderHeater g i 4

/-- A write of WLS_WRITE_CFG (R141). -/
def Dev.wlsWriteCfg (d : Dev) (who : Who) (g : Grp) (v : Word) : Write :=
  -- the limits are judged on the word that the write would leave (R30)
  let w := WLS_WRITE_CFG.written (d.word WLS_WRITE_CFG g) v d.locked 0
  let lead := bits w 8 8
  let tail := bits w 0 8
  let grp := bits w 28 4
  let ok := decide (8 ≤ lead) && decide (lead ≤ 48) && decide (tail ≤ 32) && decide (lead + tail ≤ 64) &&
    decide (1 ≤ grp) && decide (grp ≤ 8)
  if ok then .ok (d.plainWrite who WLS_WRITE_CFG g 0 v) else .error .range

/-- WLS_WRITE_CFG_WRITE (R141). -/
def execWlsWriteCfgWrite (who : Who) (g : Grp) (v : Word) (s : State) : Out :=
  s.run fun d => d.tryWriteOr who (WLS_WRITE_CFG.at g) fun d => d.wlsWriteCfg who g v

/-! ### Write slots -/

/-- The next arm of the lane writes the next sector of the track: the gate stays up (R139). -/
def nextAdjacent (a : Arm) (rest : List Arm) : Bool :=
  match rest with
  | b :: _ => b.wg && b.cyl == a.cyl && b.sect == a.sect + 1
  | [] => false

/-- The heater has settled (R148, R149): no heater frame for the head is on the wire, no safety or write frame for it waits,
and HTR_SETTLE µs have passed since the last one ended. -/
def Dev.heaterReady (d : Dev) (g : Grp) (i : HeadIx) : Bool :=
  let w := d.wls[g]
  !(w.wire.toList.any fun f => f.head == some i) && !(w.frames.any fun f => f.head == some i && decide (f.cls ≤ 2)) &&
    match w.heaterAt[i] with
    | some t => decide (t + d.get WLS_WRITE_CFG.HTR_SETTLE g ≤ d.now)
    | none => true

/-- The members of the welt at a cylinder and sector: those of a staged band (R381), of the band, else, and while the group is
formatted, the group's of the image, as every area of the new layout has them (R353). -/
def Dev.weltBand (d : Dev) (g : Grp) (cyl sect : Nat) : BandEntry :=
  let w := d.weltAt g cyl sect
  let staged := (d.bandsOf g).find? fun p => p.2.state == bsStaged && decide (p.2.startWelt ≤ w) &&
    decide (w < p.2.startWelt + weltCount p.2.data)
  match if d.formatting g then none else staged.or (d.bandOver g w) with
  | some (_, e) => e
  | none => match d.band.layout[g] with
    | some l => ⟨g, 0, bsFree, l.pq, l.members, 0, 0⟩
    | none => ⟨g, 0, bsFree, false, d.get FMT_LANES.PRESENT g, 0, 0⟩

/-- The sectors of a flush image in the order its group writes them: namespace, LBA, kind, zero mark,
plaintext (R327). -/
def Dev.flushSectors (d : Dev) (g : Grp) : List (Nat × Nat × Nat × Bool × List Byte) :=
  match d.que.flush with
  | none => []
  | some r => (r.exts.filter fun p => p.1 == g && p.2.whole).flatMap fun p =>
      p.2.sectors.map fun x => (p.2.nsid, x.1, p.2.kind, x.2.1, x.2.2)

/-- A user or tag-store sector as the welt engine writes it (R341, R570). -/
def Dev.userField (d : Dev) (nsid addr kind : Nat) (flush zero : Bool) (epoch : Nat) (data : List Byte) :
    List Byte × BitVec 128 :=
  let p := if zero then zeroSector else Config.xts (d.keyOf nsid) (addr + 2 ^ 48 * kind) data
  (p, mkTag addr nsid flush zero kind epoch (crc32c p))

/-- A sector that is written again carries the epoch of its welt's intent; a format tag is written anew
(R341, R389). -/
def retag (g : Grp) (cyl sect : Nat) (i : HeadIx) (epoch : Nat) (t : BitVec 128) : BitVec 128 :=
  if tagFormat t then formatTag g cyl sect i zeroSector
  else (t &&& ~~~(0xFFFFFFFF#128 <<< 32)) ||| (BitVec.ofNat 32 epoch).setWidth 128 <<< 32

/-- A member that a write of a welt does not change: what the read-ahead found there, with the welt's epoch, else a format tag
(R341, R363). -/
def Dev.filledField (d : Dev) (g : Grp) (cyl sect : Nat) (i : HeadIx) : List Byte × BitVec 128 :=
  match d.grpq[g].fills.find? fun f => f.cyl == cyl && f.sect == sect && f.ix == i with
  | some f =>
    let epoch := ((d.intentFor g (d.weltAt g cyl sect)).map Intent.epoch).getD d.epoch
    (f.payload, retag g cyl sect i epoch f.tag)
  | none => (zeroSector, formatTag g cyl sect i zeroSector)

/-- The field that data index j of a welt takes in a write of some purpose (R341, R363, R327). -/
def Dev.dataField (d : Dev) (g : Grp) (cyl sect : Nat) (e : BandEntry) (why : Option Purpose) (j : Nat)
    (i : HeadIx) : List Byte × BitVec 128 :=
  let w := d.weltAt g cyl sect
  match why with
  | some (.welts _ _) =>
    match d.expect g cyl sect i with
    | some x =>
      match d.heldAt x.nsid x.addr x.kind with
      | some h =>
        let epoch := ((d.intentFor g w).map Intent.epoch).getD d.epoch
        d.userField x.nsid x.addr x.kind false h.zero epoch h.data
      | none => d.filledField g cyl sect i
    -- a position with no LBA keeps its format tag (R334)
    | none => d.filledField g cyl sect i
  | some (.cobbler cls) =>
    -- class 1 builds a journal copy (R367)
    let filled := d.grpq[g].fills.any fun f => f.cyl == cyl && f.sect == sect && f.ix == i
    if cls = 1 && e.state = bsJournal && !filled then d.metaField g w e j else d.filledField g cyl sect i
  | some (.pattern v) =>
    match d.expect g cyl sect i with
    | some x => d.userField x.nsid x.addr x.kind false false (((d.intentFor g w).map Intent.epoch).getD d.epoch)
        ((List.range 1024).flatMap fun _ => leBytes 4 v.toNat)
    | none => (zeroSector, formatTag g cyl sect i zeroSector)
  | some (.flush 1) =>
    -- the data follows the directory's welts
    match (d.flushSectors g)[d.flushPos g w e j - d.flushDir g * max e.data 1]? with
    | some x => d.userField x.1 x.2.1 x.2.2.1 true x.2.2.2.1 ((d.que.flush.map FlushRun.epoch).getD 0) x.2.2.2.2
    | none => d.flushField zeroSector
  | some (.flush 0) => d.flushField (d.flushDirSector (d.flushPos g w e j))
  | some (.flush _) => d.flushField (d.flushTrailer g)
  | _ => d.metaField g w e j

/-- The field written on a head: the data member's, or the parity of the welt's data fields (R337, R341,
R343); a raw pattern holds no sector. -/
def Dev.writtenField (d : Dev) (g : Grp) (i : HeadIx) (a : Arm) : List Byte × BitVec 128 :=
  if a.dataSel = 2 then
    ((tagBytes (BitVec.ofNat 128 (d.get FMT_PATTERN.PATTERN g))).drop 12, 0)
  else
    let e := d.weltBand g a.cyl a.sect
    let heads := e.dataHeads a.cyl
    let why := (d.grpq[g].posted.head?).map MediaReq.why
    let one := fun (j : Nat) (h : HeadIx) =>
      if a.dataSel = 1 then (zeroSector, formatTag g a.cyl a.sect h zeroSector)
      else d.dataField g a.cyl a.sect e why j h
    match heads.idxOf? i with
    | some j => one j i
    | none =>
      let fields := heads.zipIdx.map fun p => let f := one p.2 p.1; fieldOf f.1 f.2
      let all := headsOf e.members
      let f := if all[e.pPos a.cyl]? == some i then parityP fields else parityQ fields
      (f.take 4096, tagOf (f.drop 4096))

/-- The guard that came with a held sector is not that of its plaintext: SEC's check just before encryption fails (R347). -/
def Dev.guardBad (d : Dev) (g : Grp) (i : HeadIx) (a : Arm) : Bool :=
  a.dataSel == 0 && (d.expect g a.cyl a.sect i).any fun x => (d.heldAt x.nsid x.addr x.kind).any fun h =>
    h.guard.any fun v => v != Config.piGuard (((d.nsOf x.nsid).map Ns.lbaf).getD 0) h.data

/-- A write slot is deferred (R153): WRITE_DEFERRED, its count, WR_FAIL, and its arm goes. -/
def Dev.deferSlot (d : Dev) (n : LaneId) (a : Arm) : Dev :=
  let g := n.grp
  let d := ((d.onArms n fun l => l.erase a).raise WLS_INT_STATUS.WRITE_DEFERRED g).count 0x404 (some g)
  (d.onFmt g fun f => { f with wrFail := true, deferred := true }).raise FMT_INT_STATUS.WR_FAIL g

/-- A head's write slot has ended or gone, and the slot armed next does not follow it on the track: its token comes back;
without a write armed every token of the head does, and its heater returns to the read value (R147, R157, R171). -/
def Dev.endWrites (d : Dev) (n : LaneId) : Dev :=
  if d.writeArmed n.grp n.ix then d.returnTokens n.grp (1 <<< n.ix.val)
  else (d.clearTokens n.grp (1 <<< n.ix.val)).orderHeater n.grp n.ix 4

/-- 600 ms have passed since the power loss was detected (R328). -/
def Dev.flushLate (d : Dev) : Bool := d.que.flush.any fun r => decide (r.since + 600000 ≤ d.now)

/-- WRITE_SLOT (R58, R63 to R66, R99, R138 to R140, R142, R143, R148, R153, R157): the write slot armed first at a lane
begins. -/
def execWriteSlot (w : WriteIn) (s : State) : Out :=
  s.runGroup w.lane.grp fun d =>
    let n := w.lane
    let g := n.grp
    match d.arms[n] with
    | [] => d
    | a :: rest =>
      let stays := nextAdjacent a rest
      if !a.wg then d
      -- no flush slot begins late or slow, and the group stops (R328)
      else if a.flush && (d.flushLate || decide (d.wls[g].speed < 2400 * 16)) then
        (((d.onArms n fun _ => []).gateDown n).endWrites n).abandon g |>.flushOver
      else if d.inhibited g n.ix a.metaMark a.flush || !d.heaterReady g n.ix || !bit d.tok.held[g] n.ix then
        -- a request that still waits for the slot is withdrawn, and a token that it holds comes back (R155, R157)
        let d := match (d.tok.waiting ++ d.tok.arriving).find? fun r =>
            r.grp == g && bit r.mask n.ix && r.cyl == a.cyl && r.sect == a.sect with
          | some r => d.withdrawToken r
          | none => d
        let d := (d.deferSlot n a).gateDown n
        -- the sample capture of the slot takes place all the same (R99)
        let d := if a.cap then (d.captureSlot n (d.slotFor n a w.x d.lanes[n].work 0)).2 else d
        if stays then d else d.endWrites n
      else
        let f := d.writtenField g n.ix a
        -- the first site of SEC (DESIGN CHOICE, log entry 147)
        let d := if d.guardBad g n.ix a then d.uc 424 else d
        let up := bit d.wls[g].gates n.ix
        let wr : Written := ⟨n, a.cyl, a.sect, f.1, f.2, d.bursts n a.cyl a.sect up stays (writtenCells n a.cyl a.sect f), up⟩
        let d := { d with out := d.out ++ [wr] }
        let d := (d.onArms n fun _ => rest).count 0x405 (some g)
        let d := d.onLane n fun l => { l with busyTill := d.now + d.slotTime g }
        let d := if a.cap then (d.captureSlot n (d.slotFor n a w.x d.lanes[n].work 0)).2 else d
        if stays then d.onWls g fun w => { w with gates := setBit w.gates n.ix }
        else (d.gatesFall g (1 <<< n.ix.val)).endWrites n

/-- CAUSE codes of WLS_ABORT_INFO0, none for the inputs of the sector-end class (R150). -/
def InhCause.code : InhCause → Option Nat
  | .notLock => some 0 | .theta => some 1 | .preamp => some 2 | .link => some 3
  | .servo => some 8 | .firmware => some 9 | .lane => some 10
  | .pwrfail | .speed | .mode => none

/-- The lowest of a list of codes. -/
def lowest : List Nat → Option Nat
  | [] => none
  | c :: t => match lowest t with
    | some x => some (min c x)
    | none => some c

/-- WRITE_INHIBIT (R150 to R152): the inputs active in this cycle and the heads whose open gates they stop.
PAg_FLT_L is low while the preamp input is among them. -/
def execWriteInhibit (g : Grp) (mask : Nat) (causes : List InhCause) (s : State) : Out :=
  s.runIn (14 + g) fun d =>
    let low := causes.contains .preamp
    let d := d.when (low && !d.wls[g].preampFault) (·.raise WLS_INT_STATUS.PREAMP_FAULT g)
    let d := d.onWls g fun w => { w with preampFault := low }
    let d := match lowest (causes.filterMap InhCause.code) with
      | none => d
      | some c =>
        d.each (headsOf mask) fun i d =>
          let open_ : Bool := match d.arms[laneOf g i] with
            | a :: _ => a.wg && bit d.tok.held[g] i
            | [] => false
          d.when open_ fun d => (d.onWls g fun w => { w with gates := setBit w.gates i }).stopWrites g (1 <<< i.val) c
    d.refreshInh g

/-! ### Write tokens -/

/-- TOKEN_REQUEST (R155, R158, R171): the formatter's request for the present sector slot reaches the arbiter; a refused one
is a programming error that traps the sequencer. -/
def execTokenRequest (g : Grp) (mask : Nat) (s : State) : Out :=
  s.runGroup g fun d => if d.tokensRefused g mask then d.fmtTrap g 8 else d.askTokens (d.tokenReq g mask)

/-- TOKEN_GRANT (R156): one cycle of the arbiter. -/
def execTokenGrant (s : State) : Out := s.runIn 7 fun d => d.tokenCycle

/-- TOKEN_WITHDRAW (R155): the group's oldest waiting request is withdrawn, and its slot is deferred on each of its heads. -/
def execTokenWithdraw (g : Grp) (s : State) : Out :=
  s.runGroup g fun d =>
    match (d.tok.waiting ++ d.tok.arriving).find? fun r => r.grp == g with
    | none => d
    | some r =>
      (d.withdrawToken r).each (headsOf r.mask) fun i d =>
        let n := laneOf g i
        match d.arms[n].find? fun a => a.wg && a.cyl == r.cyl && a.sect == r.sect with
        | some a =>
          let first := (d.arms[n].find? Arm.wg) == some a
          let d := d.deferSlot n a
          -- a gate that was kept up for the slot falls
          let d := if first then d.gateDown n else d
          if d.writeArmed g i then d else d.endWrites n
        | none => d

/-! ### The preamp port -/

/-- The head that a firmware frame's write reaches as a heater frame: its address is a head's heater register (R144, R148). -/
def Dev.heaterHead (d : Dev) (g : Grp) (read : Bool) (addr : Nat) : Option HeadIx :=
  if read then none
  else (headsOf (d.get FMT_LANES.PRESENT g)).find? fun i => d.get WLS_HTR_CFG.ADDR g i == addr

/-- A write of WLS_PA_CMD (R37, R144, R146): a read begins with VALID of its answer cleared. -/
def Dev.paCmdWrite (d : Dev) (who : Who) (g : Grp) (v : Word) : Write :=
  if d.on WLS_PA_CMD.GO g then .error .locked
  else .ok <|
    let d := d.plainWrite who WLS_PA_CMD g 0 v
    let rd := v.getLsbD 30
    let d := d.when (v.getLsbD 31 && rd) (·.set WLS_PA_RESP.VALID 0 g)
    if v.getLsbD 31 then d.sendFrame g ⟨5, d.heaterHead g rd (bits v 16 7), rd, bits v 16 7, bits v 0 16, false⟩ else d

/-- PA_CMD (R144). -/
def execPaCmd (who : Who) (g : Grp) (v : Word) (s : State) : Out :=
  s.run fun d => d.tryWriteOr who (WLS_PA_CMD.at g) fun d => d.paCmdWrite who g (withField v 31 1 1)

/-- The site at which a group's preamp port reports (R145, R536). -/
def paSite (g : Grp) : Nat := 168 + 8 * g.val + 6

/-- A read answer ends the firmware's frame (WLS_PA_RESP). -/
def Dev.paAnswer (d : Dev) (g : Grp) (data : BitVec 16) (perr : Bool) : Dev :=
  (((d.set WLS_PA_RESP.DATA data.toNat g).set WLS_PA_RESP.PERR perr.toNat g).stamp WLS_PA_RESP.VALID
    WLS_PA_RESP.SEQ g).set WLS_PA_CMD.GO 0 g

/-- PREAMP_FRAME_END (R144 to R146, R148): the frame on the wire ends, with the data and the parity bit that a
read answer carried; its parity is odd over the 16 data bits. -/
def execPreampFrameEnd (g : Grp) (data : BitVec 16) (parity : Bool) (s : State) : Out :=
  s.runIn (14 + g) fun d =>
    match d.wls[g].wire with
    | none => d
    | some f =>
      let ok := oddParity (bitsMsb 16 data.toNat) == parity
      if f.read && !ok && !f.retried then
        d.onWls g fun w => { w with wire := some { f with retried := true } }
      else
        let d := d.onWls g fun w => { w with wire := none, driven := [] }
        let d := match f.head with
          | some i => d.onWls g fun w =>
              { w with heater := w.heater.set i f.data, heaterAt := w.heaterAt.set i (some d.now) }
          | none => d
        let d :=
          if f.cls != 5 then d
          else if !f.read then d.set WLS_PA_CMD.GO 0 g
          else if ok then d.paAnswer g data false
          else ((d.paAnswer g data true).raise WLS_INT_STATUS.PA_ERR g).uc (paSite g)
        d.nextFrame g

end Sys2Proof.Machine
end

