-- ==== Sys2Proof/Machine/Shipped.lean ====
section
/-! DEFINITION. The shipped sequences of the Walrix region (R182 to R188, R632). The manual gives their entries and what they
do, and keeps their code to itself: the model runs what the rules say, one sequencer step at a time, through the same
issue, wait and completion as any microword. -/

namespace Sys2Proof.Machine

/-- A microword from the fields that the shipped sequences use (R163). -/
def mwOf (wait arg seq next cond sp cntSel cntOp imm evt : Nat) : MicroWord :=
  BitVec.ofNat 128 (evt * 2 ^ 24 + cntSel * 2 ^ 28 + cntOp * 2 ^ 30 + imm * 2 ^ 32 + arg * 2 ^ 48 + wait * 2 ^ 64 +
    cond * 2 ^ 67 + seq * 2 ^ 73 + next * 2 ^ 75 + sp * 2 ^ 89)

/-- A word that only goes on to the next. -/
def mwNop : MicroWord := mwOf 0 0 0 0 0 0 0 0 0 0

/-- A call, when its hook is enabled (R189). -/
def mwCall (a : Nat) : MicroWord := mwOf 0 0 1 a 1 0 0 0 0 0

/-- A wait in SLOT_START that leaves more than 96 cells after the step that follows (R183). -/
def mwSlotStart (evt : Nat) : MicroWord := mwOf 2 256 0 0 0 0 0 0 0 evt

/-- Slots of a track that pass while a heater settles (R148), and three more: a write run arms its first slot so many slots
ahead, which also puts its token request before the wedge boundary of R155 (DESIGN CHOICE, log entry 145). -/
def Dev.leadSlots (d : Dev) (g : Grp) (spt : Nat) : Nat :=
  let cells := d.get WLS_WRITE_CFG.HTR_SETTLE g * 25 * (d.get WLS_RATIO_LO.FRAC g + 2 ^ 32 * d.get WLS_RATIO_HI.INT g) / 2 ^ 32
  min (cells / 37104 + 3) (spt - 1)

/-- The slot that a run waits for before its first arm: a write run's lies so many slots before its first sector. -/
def Dev.firstWait (d : Dev) (g : Grp) (write : Bool) (k : Nat) : Nat :=
  let spt := d.sptAt g (d.fmtCyl g)
  if write && spt != 0 then (k + spt - d.leadSlots g spt) % spt else k

/-- The idle loop (chapter 05, Shipped sequences): REQUEST, then dispatch to 0x0000. -/
def mwIdle : MicroWord := mwOf 7 0 3 0 1 0 0 0 0 0

/-- Word address a of the Walrix region is the boot ROM's, loaded and not overwritten. -/
def ControlStore.shipped (c : ControlStore) (a : Nat) : Bool := c.loaded && !(c.words.any fun p => p.1 == a)

/-- The number of a place in a shipped sequence. -/
def ShipAt.no : ShipAt → Nat
  | .start1 => 0 | .start2 => 1 | .start3 => 2 | .first => 3 | .arm => 4 | .slot => 5 | .armsDone => 6 | .verdict => 7
  | .hook0 => 8 | .ladders => 9 | .hook3 => 10 | .passEnd => 11 | .custom => 12 | .abortReport => 13
  | .hook2 _ => 14 | .end_ _ => 15 | .done => 16

/-- The word address of a place, which is internal to Walrix (R632). -/
def ShipAt.addr (p : ShipAt) : Nat := 0x11 + Config.shipPc p.no % 0x3000

def Dev.onShip (d : Dev) (g : Grp) (f : Ship → Ship) : Dev := d.onFmt g fun x => { x with ship := x.ship.map f }

/-- The kind of the current request. -/
def Dev.rqKind (d : Dev) (g : Grp) : Nat := (d.fmt[g].cur.map Request.kind).getD 0

/-- The sectors of the current request, in order: RQ_COUNT from RQ_SECT on, round the track (R180); a FORMAT pass writes the
whole track from sector 0 (R187). -/
def Dev.rqSectors (d : Dev) (g : Grp) : List Nat :=
  match d.fmt[g].cur with
  | none => []
  | some r =>
    let spt := d.sptAt g r.cyl
    if r.kind = 3 then List.range spt
    else (List.range r.count).map fun j => if spt = 0 then r.sect + j else (r.sect + j) % spt

/-- The surfaces of RQ_WMASK in rank order: data surfaces in ascending head order, then P, then Q (R185). -/
def Dev.ranked (d : Dev) (g : Grp) (r : Request) : List HeadIx :=
  let e := d.weltBand g r.cyl r.sect
  let all := headsOf e.members
  let data := e.dataHeads r.cyl
  let par := (all[e.pPos r.cyl]?).toList ++ (if e.pq then (all[e.qPos r.cyl]?).toList else [])
  let first := (headsOf r.wmask).filter fun (i : HeadIx) => data.contains i || !par.contains i
  first ++ par.filter fun (i : HeadIx) => bit r.wmask i.val && !first.contains i

def maskOfHeads (l : List HeadIx) : Nat := l.foldl (fun m i => setBit m i.val) 0

/-- WL_GRP, at least 1. -/
def Dev.wlGrp (d : Dev) (g : Grp) : Nat := max 1 (d.get WLS_WRITE_CFG.WL_GRP g)

/-- The surfaces of a write pass (R185); a FORMAT request is one pass over all of its surfaces (R187). -/
def Dev.passMask (d : Dev) (g : Grp) (pass : Nat) : Nat :=
  match d.fmt[g].cur with
  | none => 0
  | some r =>
    if r.kind = 3 then r.wmask else maskOfHeads (((d.ranked g r).drop (pass * d.wlGrp g)).take (d.wlGrp g))

/-- Another write pass follows. -/
def Dev.morePasses (d : Dev) (g : Grp) (pass : Nat) : Bool :=
  match d.fmt[g].cur with
  | none => false
  | some r => r.kind != 3 && decide ((pass + 1) * d.wlGrp g < (d.ranked g r).length)

/-- Ladders of the current request's sectors, with their heads (R184). -/
def Dev.rqLadders (d : Dev) (g : Grp) : List (HeadIx × Ladder) :=
  let cyl := (d.fmt[g].cur.map Request.cyl).getD 0
  let ks := d.rqSectors g
  (List.finRange 8).flatMap fun i =>
    (d.lanes[laneOf g i].ladders.filter fun l => l.cyl == cyl && ks.contains l.sect).map fun l => (i, l)

/-- The run of a reread revolution: every slot with a waiting ladder, read on the heads whose ladders wait and captured on
every present member (R184). -/
def Dev.rereadRun (d : Dev) (g : Grp) : List (Nat × Nat × Nat) :=
  let ls := (d.rqLadders g).filter fun p => p.2.waits
  ((d.rqSectors g).filter fun k => ls.any fun p => p.2.sect == k).map fun k =>
    (k, maskOfHeads ((ls.filter fun p => p.2.sect == k).map Prod.fst), d.get FMT_LANES.PRESENT g)

/-- The run of a request's first pass, and of each write pass: its sectors with their masks. -/
def Dev.firstRun (d : Dev) (g : Grp) (pass : Nat) : List (Nat × Nat × Nat) :=
  let r := d.fmt[g].cur.getD ⟨0, 0, 0, 0, 0, 0, 0, 0, false⟩
  (d.rqSectors g).map fun k =>
    match r.kind with
    | 1 | 3 | 4 => (k, 0, d.passMask g pass)
    | 6 => (k, 0, r.cmask)
    | _ => (k, r.rmask, r.cmask)

def isWrite (kind : Nat) : Bool := kind == 1 || kind == 3 || kind == 4

/-! ### One step of a shipped sequence -/

/-- The tag check of a read run (R183, R342): PATROL and salvage reads check the CRC and the flags only. -/
def Dev.runTagMode (d : Dev) (g : Grp) : Nat :=
  if d.rqKind g = 5 then 2
  else match (d.grpq[g].posted.head?).map MediaReq.why with
    | some (.salvage _) => 2
    | _ => 1

/-- The slot of a read or capture run is armed: RG, SYNC_ARM, ECC_START and a tag check on the heads read, none on P and Q
(R343), and in the same step CAPTURE on the heads captured (R183). -/
def Dev.armPair (d : Dev) (g : Grp) (rd cp : Nat) (late : Bool) : Dev :=
  let present := d.get FMT_LANES.PRESENT g
  let base := d.newArm g mwNop
  d.each ((headsOf ((rd ||| cp) &&& present))) fun i d =>
    let r := bit rd i
    let mode := if !r || d.parityHead g base.cyl base.sect i then 0 else d.runTagMode g
    let a := { base with rg := r, sync := r, ecc := r, cap := bit cp i, tagMode := mode }
    let d := d.onArms (laneOf g i) fun l => l ++ [a]
    let d := if r then d.onFmt g fun f => { f with verdicts := f.verdicts + 1 } else d
    if late then d.dropArm (laneOf g i) a else d

/-- A write word of the shipped sequences: WG on a mask, DATA_SEL by the kind, SP and C0 step. -/
def mwWrite (mask sel : Nat) : MicroWord := BitVec.ofNat 128 (mask + 2 ^ 11 + sel * 2 ^ 18) ||| mwOf 0 0 0 0 0 1 0 2 0 0

/-- The step at a place: the place that follows, and the word that the step issues. -/
def Dev.shipWord (d : Dev) (g : Grp) (s : Ship) : MicroWord × ShipAt :=
  match s.place with
  | .start1 => (mwOf 0 0 0 0 0 2 0 3 0 0, .start2)
  | .start2 => (mwOf 0 0 0 0 0 0 1 3 0 0, .start3)
  | .start3 => (mwCall 0x3801, .first)
  | .first => (mwSlotStart 0, .arm)
  | .arm => (mwNop, if s.run.length ≤ 1 then .armsDone else .slot)
  -- a write run keeps two slots armed at its lanes, a read run arms a slot as it comes up
  | .slot => if isWrite (d.rqKind g) then (mwOf 0 0 0 0 0 0 0 0 0 (decide (4 ≤ s.open_)).toNat, .arm)
      else (mwSlotStart (decide (2 ≤ s.open_)).toNat, .arm)
  | .armsDone => (mwOf 3 0 0 0 0 0 0 0 0 (decide (1 ≤ s.open_)).toNat, .done)
  | .done => if s.open_ = 0 then
      (mwNop, if isWrite (d.rqKind g) then .hook3 else if d.rqKind g = 6 then .hook2 none else .verdict)
    else (mwOf 0 0 0 0 0 0 0 0 0 1, .done)
  | .verdict => (mwOf 4 0 0 0 0 0 0 0 0 0, .hook0)
  | .hook0 => (if d.fmt[g].verdictFail then mwCall 0x3800 else mwNop, .ladders)
  | .ladders => (mwOf 0 0 0 0 0 0 1 2 0 4, .first)
  | .hook3 => (mwCall 0x3803, .passEnd)
  | .passEnd => (mwNop, .first)
  | .custom => (mwCall 0x3808, .hook2 none)
  | .abortReport => (mwOf 0 0 0 0 0 0 0 0 0 6, .hook2 (some 5))
  | .hook2 c => (mwCall 0x3802, .end_ c)
  | .end_ none => (mwOf 0 0 0 0x10 1 0 0 0 0 2, .end_ none)
  | .end_ (some c) => (mwOf 0 0 0 0x10 1 0 0 0 c 3, .end_ (some c))

/-- Where a sequence goes on from a place whose step has a condition: TRACK_LOST after each slot (R188), the end of a run, the
ladders, the outcome of a write pass (R184 to R186). None where it still waits for its ladders. -/
def Dev.shipTurn (d : Dev) (g : Grp) (s : Ship) : Option Ship :=
  let lost := d.srv[g].trackLost
  let ended : Ship := { s with place := .hook2 (some 2) }
  match s.place with
  | .arm => if lost then some { ended with open_ := 0 } else if s.run.isEmpty then some { s with place := .armsDone } else some s
  | .verdict => if lost then some ended else some s
  | .done => if lost then some { ended with open_ := 0 } else some s
  -- a body of the customer's that has ended its request returns to the idle loop
  | .hook2 c => if d.rqKind g = 7 && d.fmt[g].ended then some { s with place := .end_ c } else some s
  | .hook3 => if lost then some ended else some s
  | .ladders =>
    let ls := d.rqLadders g
    if lost then some ended
    else if ls.any fun p => !p.2.waits then none
    else if !ls.isEmpty && d.get FMT_CNT01.C1 g != 0 then some { s with run := d.rereadRun g }
    else some { s with place := .hook2 none }
  | .passEnd =>
    if d.fmt[g].aborted then some { s with place := .abortReport }
    else if d.fmt[g].deferred then
      if s.repeats < d.get FMT_CFG.DEFER_MAX g then
        some { s with place := .first, repeats := s.repeats + 1, run := d.firstRun g s.pass }
      else some { s with place := .hook2 (some 4) }
    else if d.morePasses g s.pass then
      some { s with place := .first, pass := s.pass + 1, repeats := 0, run := d.firstRun g (s.pass + 1) }
    else some { s with place := .hook2 none }
  | _ => some s

/-- The events of a step have reported the end of one slot (R181). -/
def Ship.reported (s : Ship) (w : MicroWord) : Ship := if mwEvt w = 1 then { s with open_ := s.open_ - 1 } else s

/-- Issue of a shipped step: at `arm` the slot of the run's next sector is armed, else the place's word is issued. The first
arm of a run is never late (R183). -/
def Dev.shipIssue (d : Dev) (g : Grp) (s : Ship) (late : Bool) : Dev :=
  let (w, next) := d.shipWord g s
  let go := fun (d : Dev) (s' : Ship) => (d.set FMT_STATUS.PC s.place.addr g).onFmt g fun f => { f with ship := some s' }
  match s.place, s.run with
  | .first, (k, _, _) :: _ =>
    let d := (d.set FMT_CNT2.SP (d.firstWait g (isWrite (d.rqKind g)) k) g).onFmt g fun f =>
      { f with deferred := false, aborted := false }
    (go d { s with place := next }).issue g w false
  | .arm, (k, rd, cp) :: rest =>
    let write := isWrite (d.rqKind g)
    let mask := if write then cp &&& d.get FMT_LANES.PRESENT g else (rd ||| cp) &&& d.get FMT_LANES.PRESENT g
    if d.armStall g mask then d
    else
      let d := go (d.set FMT_CNT2.SP k g) { s with place := next, run := rest, open_ := s.open_ + 1 }
      if write then d.issue g (mwWrite mask (if d.rqKind g = 3 then 1 else 0)) false
      else (d.armPair g rd cp (late && s.open_ != 0)).issue g (mwOf 0 0 0 0 0 1 0 2 0 0) false
  | .slot, (k, _, _) :: _ => (go (d.set FMT_CNT2.SP k g) ({ s with place := next }.reported w)).issue g w false
  | .end_ _, _ => ((d.set FMT_STATUS.PC s.place.addr g).onFmt g fun f => { f with ship := none }).issue g w false
  | _, _ => (go d ({ s with place := next }.reported w)).issue g w false

/-- One step of the shipped sequence that runs. -/
def Dev.shipStep (d : Dev) (g : Grp) (s : Ship) (late : Bool) : Dev :=
  match d.shipTurn g s with
  | none => d
  | some s => d.shipIssue g s late

/-- The sequence that a dispatch table entry begins (R182, R187): CUSTOM outside MAKER_SERVICE and the reserved kinds end with
cause KIND (R447); CUSTOM calls the body at 0x3808. -/
def Dev.shipEntry (d : Dev) (g : Grp) (kind : Nat) : Ship :=
  if kind = 7 then { place := if d.mode == .makerService then .custom else .hook2 (some 6) }
  else if 8 ≤ kind then { place := .hook2 (some 6) }
  else { place := .start1, run := d.firstRun g 0 }

/-- The step of the sequencer at a word of the Walrix region that is shipped: a sequence goes on, a dispatch table entry
begins one, and the idle loop waits for a request (R632). None at any other word. -/
def Dev.shippedStep (d : Dev) (g : Grp) (late : Bool) : Option Dev :=
  let pc := d.fmtPc g
  if 0x3800 ≤ pc then none
  else match d.fmt[g].ship with
    | some s => some (d.shipStep g s late)
    | none =>
      if !d.cs.shipped pc then none
      else if pc = 0x10 then some (d.issue g mwIdle false)
      else if pc < 0x10 then some (d.shipStep g (d.shipEntry g pc) late)
      else none

end Sys2Proof.Machine
end

