-- ==== Sys2Proof/Machine/Formatter.lean ====
section
/-! DEFINITION. Commands of the formatter sequencers and the control store (chapter 05). -/

namespace Sys2Proof.Machine

/-! ### The control-store window -/

/-- The window address of part k of a word (R25). -/
def storeAt (word k : Nat) : Nat := 0x4040_0000 + 16 * word + 4 * k

/-- CS_STAGE_WRITE (R159, R160). -/
def execCsStageWrite (who : Who) (word : Nat) (part : Fin 3) (v : Word) (s : State) : Out :=
  s.run fun d => d.tryWriteOr who (storeAt word part) fun d => d.storeWrite who word part v

/-- CS_COMMIT_WRITE (R159, R160). -/
def execCsCommitWrite (who : Who) (word : Nat) (v : Word) (s : State) : Out :=
  s.run fun d => d.tryWriteOr who (storeAt word 3) fun d => d.storeWrite who word 3 v

/-! ### Steps -/

/-- FMT_STEP (R162, R165, R166, R191): the sequencer fetches the word at PC, `ecc` being the outcome of the
fetch's check, to which an injection adds its own (R548), and `late` whether its arms miss their slots (R170). A shipped word takes its step of its sequence (R183 to
R188). A word whose arms find two slots armed stalls (R169): nothing happens, and the step comes
again. -/
def execFmtStep (g : Grp) (ecc : EccIn) (late : Bool) (s : State) : Out :=
  s.runGroup g fun d =>
    if d.fmtState g != fsRun then d
    else
      let pc := d.fmtPc g
      let w := d.cs.word pc
      let ecc := d.checkedAs 200 ecc
      let maker := d.mode == .makerService
      let ce := if ecc = .ce then d.report ⟨200, 0, 0, 0, storeAt pc 0, 0⟩ else d
      if ecc = .uc then (d.uc 200 0 0 (storeAt pc 0)).fmtTrap g 7
      else match ce.shippedStep g late with
        | some d => d
        | none =>
          if mwIllegal w maker then ce.fmtTrap g 1
          else if mwArms w && d.armStall g (d.fmtMask g w) then d
          else if 0x3800 ≤ pc ∧ !maker ∧ mwCustRule w then ce.fmtTrap g 3
          else ce.issue g w late

/-- WAIT_END (R166, R173, R177): the wait of the present step ends; a wait on a state ends only once it holds, or with a halt
request that still waits, without its branch. -/
def execWaitEnd (g : Grp) (s : State) : Out :=
  s.runGroup g fun d =>
    match d.fmt[g].waiting with
    | none => d
    | some w => if d.fmtState g == fsWait && (d.fmt[g].halting || d.waitOver g (mwWait w)) then d.complete g w (!d.fmt[g].halting)
      else d

/-- WAIT_TIMEOUT (R174): WAIT_LIMIT wedge boundaries have passed; a wait in REQUEST is exempt. -/
def execWaitTimeout (g : Grp) (s : State) : Out :=
  s.runGroup g fun d =>
    match d.fmt[g].waiting with
    | none => d
    | some w => if d.fmtState g == fsWait && mwWait w != 7 then d.fmtTrap g 5 else d

/-- HOOK_BUDGET_EXPIRY (R192). -/
def execHookBudgetExpiry (g : Grp) (s : State) : Out :=
  s.runGroup g fun d =>
    if d.fmt[g].hook.isSome && d.mode != .makerService &&
        (d.fmtState g == fsRun || d.fmtState g == fsWait) then d.fmtTrap g 6 else d

/-! ### FMT_CTRL -/

/-- HALT_REQ (R177). -/
def execHaltReq (who : Who) (g : Grp) (v : Word) (s : State) : Out :=
  s.run fun d => d.tryWrite who (FMT_CTRL.at g) fun d => d.fmtCtrlWrite who g (withField v 2 1 1)

/-- FMT_START (R178). -/
def execFmtStart (who : Who) (g : Grp) (v : Word) (s : State) : Out :=
  s.run fun d => d.tryWrite who (FMT_CTRL.at g) fun d => d.fmtCtrlWrite who g (withField v 1 1 1)

/-- FMT_SINGLE_STEP: a write of STEP. -/
def execFmtSingleStep (who : Who) (g : Grp) (v : Word) (s : State) : Out :=
  s.run fun d => d.tryWrite who (FMT_CTRL.at g) fun d => d.fmtCtrlWrite who g (withField v 3 1 1)

/-- FMT_ENABLE (R178). -/
def execFmtEnable (who : Who) (g : Grp) (v : Word) (s : State) : Out :=
  s.run fun d => d.tryWrite who (FMT_CTRL.at g) fun d => d.fmtCtrlWrite who g (withField v 0 1 1)

/-- FMT_DISABLE (R179). -/
def execFmtDisable (who : Who) (g : Grp) (v : Word) (s : State) : Out :=
  s.run fun d => d.tryWrite who (FMT_CTRL.at g) fun d => d.fmtCtrlWrite who g (withField v 0 1 0)

end Sys2Proof.Machine
end

