-- ==== Sys2Proof/Machine/Interrupts.lean ====
section
/-! DEFINITION. Commands of the interrupt controller and the vigil (chapter 17). -/

namespace Sys2Proof.Machine

/-! ### Assertion and trace -/

/-- The bytes of a trace record (R575). -/
def TrcRec.bytes (r : TrcRec) : List Byte :=
  leBytes 8 r.cycle ++ leBytes 2 r.source ++ leBytes 2 0 ++ leBytes 4 r.status.toNat ++ leBytes 16 0

/-- A record is written into the ring, or dropped and counted where the ring has no size (R576). -/
def Dev.ringWrite (d : Dev) (r : TrcRec) : Dev :=
  let log := d.get TRC_RING_SIZE.LOG2
  if log < 12 then d.bump TRC_STATUS.DROPPED
  else
    let base := d.get TRC_RING_BASE_LO.ADDR + 2 ^ 32 * d.get TRC_RING_BASE_HI.ADDR
    let p := d.get TRC_RING_WPTR.OFS
    (d.memWrite (base + p) r.bytes).set TRC_RING_WPTR.OFS ((p + 32) % 2 ^ log)

/-- TRACE_RECORD (R575, R576): of a hardware set of the status bit behind a source; island 20 runs at
400 MHz. Software-triggered sources are set by no hardware. -/
def Dev.trace (d : Dev) (s : Nat) : Dev :=
  if !d.islandUp 20 || 960 ≤ s || !bit (d.get TRC_CTRL.RANGES) (sourceRow s) then d
  else
    let r : TrcRec := ⟨d.now * 400 % 2 ^ 64, s, d.statusWord s⟩
    let d := d.when (d.on TRC_CTRL.TRACE_EN) (·.ringWrite r)
    if d.on TRC_CTRL.PORT_EN then { d with trc := ⟨d.trc.sent ++ [r]⟩ } else d

/-- SOURCE_ASSERT (R517, R523, R575, R577): the status bit behind a source has been set, or a software source;
where its line is asserted, the ICT moves the source. -/
def execSourceAssert (s : Fin 1024) (st : State) : Out :=
  st.run fun d =>
    if !d.statusSet s then d
    else
      let d := (d.trace s).count s (sourceGrp s)
      if d.islandUp 7 && d.line s then d.judge s else d

/-! ### Claim and end-of-interrupt -/

/-- The site at which the ICT reports its errors (R526, R527, R536). -/
def ictSite : Nat := 442

/-- The answer of ICT_CLAIM and ICT_HPP. -/
def Dev.claimWord (d : Dev) (s : Option Nat) : Word :=
  match s with
  | some s => BitVec.ofNat 32 (2 ^ 31 + d.srcPrio s * 2 ^ 16 + s)
  | none => 0

/-- Answer a register read (MODEL). -/
def Dev.answer (d : Dev) (w : Word) : Dev := { d with bus := { d.bus with rdata := w } }

/-- Source s is claimed by core k (R518, R524). -/
def Dev.claim (d : Dev) (k s : Nat) : Dev :=
  let e := (s, d.srcPrio s)
  let d := d.onIct fun t => { t with stack := upd t.stack (coreIx k) (e :: ·), low := t.low.filter (· != s) }
  let d := d.setSrc s icActive
  let d := if 992 ≤ s then d.clrBit ICT_SWI_HI.SET (s - 992)
    else if 960 ≤ s then d.clrBit ICT_SWI_LO.SET (s - 960) else d
  d.judge s

/-- The core as an initiator. -/
def coreWho (k : CoreId) : Who := if k = 0 then .control else .management

/-- ICT_CLAIM (R524, R527): a read of ICT_CLAIM[k] by core k. -/
def execIctClaim (k : CoreId) (s : State) : Out :=
  s.run fun d =>
    match d.refusal ⟨coreWho k, ICT_CLAIM.at 0 k, false, 4⟩ with
    | some c => (d.capture (coreWho k) (ICT_CLAIM.at 0 k) false c).answer 0
    | none =>
      let d := d.endSnaps (coreWho k) (ICT_CLAIM.at 0 k)
      match d.deliverable k with
      | none => d.answer 0
      | some x =>
        if 16 ≤ (d.stackOf k).length then
          ((d.ictError 2 k x).answer 0).fa ictSite 7 k
        else (d.answer (d.claimWord (some x))).claim k x

/-- A write of ICT_EOI[k] (R526). -/
def Dev.eoiWrite (d : Dev) (k : CoreId) (v : Word) : Dev :=
  let s := bits v 0 10
  match d.stackOf k with
  | [] => (((d.ictError 1 k s).raise ICT_INT_STATUS.EOI_ERR).uc ictSite 7 k)
  | e :: t =>
    if e.1 = s then
      (d.onIct fun x => { x with stack := x.stack.set (coreIx k) t }).endSource s
    else ((d.ictError 0 k s).raise ICT_INT_STATUS.EOI_ERR).uc ictSite 7 k

/-- ICT_EOI (R526). -/
def execIctEoi (k : CoreId) (v : Word) (s : State) : Out :=
  s.run fun d => d.tryWrite (coreWho k) (ICT_EOI.at 0 k) fun d => d.eoiWrite k v

/-- A write of ICT_SRC_CFG[s] (R519, R522): it takes effect at the next arbitration. -/
def Dev.srcCfgSet (d : Dev) (who : Who) (s : Nat) (v : Word) : Dev :=
  (d.plainWrite who ICT_SRC_CFG 0 s v).judge s

/-- SRC_CFG_WRITE (R522). -/
def execSrcCfgWrite (who : Who) (s : Fin 1024) (v : Word) (st : State) : Out :=
  st.run fun d => d.tryWrite who (ICT_SRC_CFG.at 0 s) fun d => d.srcCfgSet who s v

/-- SWI_SET (R518): a write of ICT_SWI_LO or ICT_SWI_HI. -/
def Dev.swiWrite (d : Dev) (who : Who) (hi : Bool) (v : Word) : Dev :=
  let d := d.plainWrite who (if hi then ICT_SWI_HI else ICT_SWI_LO) 0 0 v
  d.each (List.range 32) fun i d =>
    if v.getLsbD i then d.judge ((if hi then 992 else 960) + i) else d

def execSwiSet (who : Who) (hi : Bool) (v : Word) (s : State) : Out :=
  s.run fun d => d.tryWrite who ((if hi then ICT_SWI_HI else ICT_SWI_LO).at) fun d => d.swiWrite who hi v

/-! ### The vigil -/

/-- Entry e watches a source of nonzero priority whose effective target is core k (R530). -/
def Dev.watches (d : Dev) (k e : Nat) : Bool :=
  let s := d.get VGL_WATCH.SOURCE 0 e
  d.on VGL_WATCH.EN 0 e && d.srcPrio s != 0 && d.effTarget s == some k

/-- A write of VGL_SLEEP (R529, R531): each core whose bit becomes 1 goes to sleep. -/
def Dev.sleepWrite (d : Dev) (who : Who) (v : Word) : Dev :=
  let old := d.get VGL_SLEEP.CORE
  let d := d.plainWrite who VGL_SLEEP 0 0 v
  let now := d.get VGL_SLEEP.CORE
  let d := d.set VGL_STATUS.ASLEEP now
  d.each [0, 1] fun k d =>
    let orphan := bit now k && !bit old k && !((List.range 64).any fun e => d.watches k e)
    d.when orphan (·.raise VGL_INT_STATUS.ORPHAN)

/-- CORE_SLEEP (R529): core k writes 1 to its bit. -/
def execCoreSleep (k : CoreId) (v : Word) (s : State) : Out :=
  s.run fun d => d.tryWrite (coreWho k) VGL_SLEEP.at fun d => d.sleepWrite (coreWho k) (withField v k 1 1)

/-- Island 7 runs again, and every line is judged again (R533). -/
def Dev.wakeIsland7 (d : Dev) : Dev :=
  if d.islandUp 7 then d
  else
    let d := d.setWord SYS_ISLAND_EN (d.word SYS_ISLAND_EN ||| 0x40)
    ((d.orBits SYS_ISLAND_STATUS.RUN 0x40).set VGL_STATUS.ISL7_DOWN 0).judgeAll

/-- A wake by an entry: its record (R532). -/
def Dev.wakeRecord (d : Dev) (e s k : Nat) (device : Bool) : Dev :=
  ((((d.set VGL_WAKE_INFO.ENTRY e).set VGL_WAKE_INFO.DEVICE device.toNat).set VGL_WAKE_INFO.CORE k).set
    VGL_WAKE_INFO.SOURCE s).stamp VGL_WAKE_INFO.VALID VGL_WAKE_INFO.SEQ |>.raise VGL_INT_STATUS.WAKE

/-- One entry on a vigil clock (R532, R533). -/
def Dev.watchEntry (d : Dev) (e : Nat) : Dev :=
  let s := d.get VGL_WATCH.SOURCE 0 e
  if !d.on VGL_WATCH.EN 0 e || !d.line s then d
  else
    let k := d.vigilTarget s
    let wakes := bit (d.get VGL_SLEEP.CORE) k
    let device := d.on VGL_WATCH.DEVICE 0 e && d.inMode [.lightIdle, .deepIdle]
    let d := if wakes then
        ((d.clrBit VGL_SLEEP.CORE k).clrBit VGL_STATUS.ASLEEP k).wakeIsland7
      else d
    let d := if wakes || device then d.wakeRecord e s k (d.on VGL_WATCH.DEVICE 0 e) else d
    d.when device (·.idleExit)

/-- VIGIL_CLOCK (R532, R535): the timer counts, and the entries are judged in ascending order. -/
def execVigilClock (s : State) : Out :=
  s.run fun d =>
    let d := d.set VGL_TIMER.TICKS ((d.get VGL_TIMER.TICKS + 1) % 2 ^ 32)
    d.each (List.range 64) fun e d => d.watchEntry e

/-- VIGIL_TIMER_MATCH (R535). -/
def execVigilTimerMatch (s : State) : Out :=
  s.run fun d =>
    if d.on VGL_CTRL.CMP_EN && d.get VGL_TIMER.TICKS == d.get VGL_TIMER_CMP.TICKS then
      d.raise VGL_INT_STATUS.TIMER
    else d

/-- VIGIL_CLOCK_LOSS (R534). -/
def execVigilClockLoss (s : State) : Out := s.run fun d => d.set VGL_STATUS.EXT_OK 0

/-- VIGIL_CLOCK_RESTORE (R534). -/
def execVigilClockRestore (s : State) : Out := s.run fun d => d.set VGL_STATUS.EXT_OK 1

end Sys2Proof.Machine
end

