-- ==== Sys2Proof/Machine/Roles.lean ====
section
/-! DEFINITION. Sessions and role operations of protocol 0xF1 (chapters 12 and 19), and the entropy source. -/

namespace Sys2Proof.Machine

/-! ### Buffers and records -/

/-- The 16-byte header of a buffer of protocol 0xF1 (R415): version, payload length, session number. -/
def roleHeader (len session : Nat) : List Byte :=
  leBytes 2 1 ++ leBytes 2 len ++ leBytes 4 session ++ List.replicate 8 0

def Dev.sessionOf (d : Dev) (fn : Fn) : Option Session := d.hst.fns[fn].session

/-- The role open on a function, 0 for none, and its session number. -/
def Dev.roleOf (d : Dev) (fn : Fn) : Nat := ((d.sessionOf fn).map Session.role).getD 0
def Dev.numberOf (d : Dev) (fn : Fn) : Nat := ((d.sessionOf fn).map Session.number).getD 0

/-- The result field of a role's record (R568): 0 for success. -/
def resultOf (ok : Bool) (spsp : Nat) : Nat := if ok then 0 else Config.resultCode spsp

/-- A record of class 0x06 (R568): function, role, session number, SPSP, result. -/
def Dev.roleRecord (d : Dev) (type : Nat) (fn : Fn) (role number spsp result : Nat) : Dev :=
  d.record type (fields32 [fn, role, number, spsp, result])

/-- A role operation (R566): it needs a rank of `rank`, and makes its record with its result. -/
def Dev.roleOp (d : Dev) (q : QRef) (cid rank spsp : Nat) (f : Dev → Dev × Status) : Dev :=
  d.adminCmd q fun d =>
    let role := d.roleOf q.fn
    let number := d.numberOf q.fn
    let r := if role < rank then (d, Status.accessDenied) else f d
    (r.1.roleRecord 0x0603 q.fn role number spsp (resultOf (r.2 == .success) spsp)).post q cid r.2

/-! ### Sessions (R415, R416, R562 to R565) -/

/-- CHALLENGE (R562, R578): a nonce, in place of an earlier one. -/
def execChallenge (q : QRef) (cid : Nat) (s : State) : Out :=
  s.run fun d => d.adminCmd q fun d =>
    if !d.on SEC_STATUS.ENTROPY_OK then d.post q cid .internalError
    else
      let (i, d) := d.draw
      let n := Config.drbg i
      let d := d.onFn q.fn fun f => { f with nonce := some (n, d.now) }
      (d.toHost q cid (roleHeader 32 (d.numberOf q.fn) ++ n)).post q cid .success

/-- First keystone word of a role's hash (R563). -/
def roleWord (role : Nat) : Nat := 24 + 4 * role

/-- The four words of a hash's first 16 bytes, the first byte in bits 31:24 of the lowest word (R563). -/
def hashWords (h : List Byte) : List Word := (List.range 4).map fun k => BitVec.ofNat 32 (beAt h (4 * k) 4)

/-- A role's hash in the keystone store. -/
def Dev.roleHash (d : Dev) (role : Nat) : List Word :=
  (List.range 4).map fun k => if h : roleWord role + k < 64 then d.ks ⟨roleWord role + k, h⟩ else 0

/-- Write a role's hash to the keystone store. -/
def Dev.putHash (d : Dev) (role : Nat) (ws : List Word) : Dev :=
  d.each (List.range 4) fun k d =>
    if h : roleWord role + k < 64 then d.ksWrite ⟨roleWord role + k, h⟩ (ws.getD k 0) else d

/-- The checks of R563, in order: none where the OPEN passes. -/
def Dev.openCheck (d : Dev) (fn : Fn) (p : List Byte) : Option Status :=
  match d.hst.fns[fn].nonce with
  | none => some .sequenceError
  | some (nonce, at_) =>
    let role := ((p.getD 16 0).toNat)
    let key := cut p 20 97
    let sig := cut p 120 96
    let hash := d.roleHash role
    if at_ + 60000000 < d.now then some .sequenceError
    else if role = 0 || 3 < role then some .invalidField
    else if hash.all (fun w => w == 0) || hashWords (Config.sha384 key) != hash then some .accessDenied
    else if !Config.ecdsa key sig (nonce ++ leBytes 1 role ++ beBytes 2 fn.val) then some .accessDenied
    else none

/-- A failed OPEN is counted; the eighth in a row begins a lockout (R564). -/
def Dev.openFailed (d : Dev) : Dev :=
  let n := min 8 (d.get SEC_STATUS.FAIL_COUNT + 1)
  let d := (d.set SEC_STATUS.FAIL_COUNT n).raise SEC_INT_STATUS.OPEN_FAIL
  if n < 8 then d
  else (({ d with sec := { d.sec with lockSince := d.now } }).set SEC_STATUS.LOCKOUT 1).raise SEC_INT_STATUS.LOCKOUT

/-- OPEN (R416, R562 to R564): the nonce is used up whatever the outcome. -/
def execOpen (q : QRef) (cid : Nat) (payload : List Byte) (s : State) : Out :=
  s.run fun d => d.adminCmd q fun d =>
    let role := (payload.getD 16 0).toNat
    let early := if d.on SEC_STATUS.LOCKOUT then some Status.accessDenied
      else if (d.sessionOf q.fn).isSome then some .sequenceError
      else none
    let r := early.or (d.openCheck q.fn payload)
    let d := d.onFn q.fn fun f => { f with nonce := none }
    match r with
    | some st =>
      let d := if d.on SEC_STATUS.LOCKOUT then d.raise SEC_INT_STATUS.OPEN_FAIL else d.openFailed
      (d.roleRecord 0x0601 q.fn role (d.numberOf q.fn) 2 (resultOf false 2)).post q cid st
    | none =>
      let n := (d.sec.number + 1) % 2 ^ 32
      let d := { d with sec := { d.sec with number := n } }
      let d := d.onFn q.fn fun f => { f with session := some ⟨role, n, d.now⟩ }
      let d := (((d.set SEC_SESSION.OPEN 1 0 q.fn).set SEC_SESSION.ROLE role 0 q.fn).set SEC_SESSION.LIFE 900 0 q.fn).set
        HST_FN_STATUS.SESSION 1 0 q.fn
      let d := ((d.set SEC_STATUS.FAIL_COUNT 0).raise SEC_INT_STATUS.SESSION).raise HST_INT_STATUS.SESSION
      (d.roleRecord 0x0600 q.fn role n 2 0).post q cid .success

/-- CLOSE (R416, R565). -/
def execClose (q : QRef) (cid : Nat) (s : State) : Out :=
  s.run fun d => d.adminCmd q fun d =>
    if (d.sessionOf q.fn).isNone then d.post q cid .sequenceError
    else (d.endSession q.fn 0).post q cid .success

/-- Seconds of life left to a session (R562). -/
def Dev.lifeLeft (d : Dev) (fn : Fn) : Nat :=
  match d.sessionOf fn with
  | none => 0
  | some s => 900 - (d.now - s.opened) / 1000000

/-- STATUS (R415): the layout of its payload is the implementation's. -/
def execSessionStatus (q : QRef) (cid : Nat) (s : State) : Out :=
  s.run fun d => d.adminCmd q fun d =>
    let p := Config.statusBytes (d.roleOf q.fn) (d.numberOf q.fn) (d.lifeLeft q.fn)
    (d.toHost q cid (roleHeader p.length (d.numberOf q.fn) ++ p)).post q cid .success

/-- Protocol 0x00 (R416): the list of protocols 0x00 and 0xF1. -/
def execSecurityProtocolList (q : QRef) (cid : Nat) (s : State) : Out :=
  s.run fun d => d.adminCmd q fun d =>
    (d.toHost q cid (List.replicate 6 0 ++ beBytes 2 2 ++ [0x00, 0xF1])).post q cid .success

/-- SESSION_EXPIRY (R565): the session's life has ended. -/
def execSessionExpiry (f : Fn) (s : State) : Out := s.runIn 18 fun d => d.endSession f 1

/-- NONCE_EXPIRY (R562): 60 s after its CHALLENGE. -/
def execNonceExpiry (f : Fn) (s : State) : Out := s.runIn 18 fun d => d.onFn f fun x => { x with nonce := none }

/-- LOCKOUT_END (R564): 60 s after it began. -/
def execLockoutEnd (s : State) : Out :=
  s.runIn 18 fun d => (d.set SEC_STATUS.LOCKOUT 0).set SEC_STATUS.LOCK_REMAIN 0

/-! ### Salvage (R388, R415, R416) -/

/-- The places of a salvage read, per run of sectors on one track. -/
def Dev.salvageRuns (d : Dev) (band : Nat) (e : BandEntry) (first count : Nat) : List (List Place) :=
  trackRuns ((List.range count).map fun k => d.placeIn band e (first + k))

/-- SALVAGE (R388): only an installer's session; the command completes when its sectors have been read, with the
CRC-and-flags check of R342. -/
def execSalvage (q : QRef) (cid band first count : Nat) (s : State) : Out :=
  s.run fun d => d.adminCmd q fun d =>
    if d.roleOf q.fn != 2 then d.post q cid .accessDenied
    else if d.hst.fns[q.fn].salvaging.isSome then d.post q cid .sequenceError
    else
      match d.bandAt band with
      | none => d.post q cid .invalidField
      | some e =>
        if count = 0 || 512 < count || e.data = 0 || weltCount e.data * e.data < first + count then d.post q cid .invalidField
        else
          let runs := (d.salvageRuns band e first count).filterMap (d.runReq 0 0 false)
          let r : SalvageRun := ⟨cid, d.numberOf q.fn, band, first, count, runs.length, []⟩
          let d := d.onFn q.fn fun f => { f with salvage := none, salvaging := some r }
          d.each runs fun p d => d.addReq p.1 p.2 (.salvage q.fn)

/-- SALVAGE_STATUS (R388, R416): one status byte per sector. -/
def execSalvageStatus (q : QRef) (cid : Nat) (s : State) : Out :=
  s.run fun d => d.adminCmd q fun d =>
    if d.roleOf q.fn != 2 then d.post q cid .accessDenied
    else match d.hst.fns[q.fn].salvage with
      | none => d.post q cid .sequenceError
      | some r =>
        (d.toHost q cid (roleHeader r.status.length (d.numberOf q.fn) ++ r.status.flatMap (leBytes 1))).post q cid .success

/-- SALVAGE_DATA (R388, R416): count × 4,096 bytes. -/
def execSalvageData (q : QRef) (cid : Nat) (s : State) : Out :=
  s.run fun d => d.adminCmd q fun d =>
    if d.roleOf q.fn != 2 then d.post q cid .accessDenied
    else match d.hst.fns[q.fn].salvage with
      | none => d.post q cid .sequenceError
      | some r =>
        (d.toHost q cid (roleHeader (4096 * r.data.length) (d.numberOf q.fn) ++ r.data.flatten)).post q cid .success

/-! ### Role operations (R566, R567) -/

/-- SET_KEY (R567): a role of equal or lower rank; the hash goes to the keystone words and to the flash key store. -/
def execSetKey (q : QRef) (cid role : Nat) (key : List Byte) (s : State) : Out :=
  s.run fun d => d.roleOp q cid 1 0x0100 fun d =>
    if role = 0 || 3 < role || key.length != 97 then (d, .invalidField)
    else if d.roleOf q.fn < role then (d, .accessDenied)
    else
      let ws := hashWords (Config.sha384 key)
      let hs := (d.sec.store.hashes.filter fun h => h.1 != role) ++ [(role, ws)]
      let d := { d with sec := { d.sec with store := { d.sec.store with hashes := hs } } }
      (d.writeStore.putHash role ws, .success)

/-- RETIRE_HEAD (R359, R360, R566): CBL_CMD RETIRE_HEAD. -/
def execRoleRetireHead (q : QRef) (cid group head : Nat) (s : State) : Out :=
  s.run fun d => d.roleOp q cid 2 0x0101 fun d =>
    if h : group < 4 ∧ head < 8 then (d.cmdRetire ⟨group, h.1⟩ ⟨head, h.2⟩, .success) else (d, .invalidField)

/-- COUNTERS_CLEAR (R566). -/
def execCountersClear (q : QRef) (cid : Nat) (mask : BitVec 256) (s : State) : Out :=
  s.run fun d => d.roleOp q cid 2 0x0102 fun d =>
    (d.each (List.range 256) fun i d =>
      if mask.getLsbD i then (d.set TRC_CNT_LO.CNT 0 0 i).set TRC_CNT_HI.CNT 0 0 i else d, .success)

/-- MAKER_SERVICE is entered (R600, R604). -/
def Dev.enterService (d : Dev) : Dev :=
  let d := if d.mode == .active then d.set RMT_CTRL.EN 0 else d
  (d.setMode .makerService).onSeq fun s => { s with spinDown := 0, spinHeld := none, safeStart := 0 }

/-- SERVICE enter (R604): from ACTIVE, STANDBY or SAFE. -/
def execServiceEnter (q : QRef) (cid : Nat) (s : State) : Out :=
  s.run fun d => d.roleOp q cid 3 0x0103 fun d =>
    if d.inMode [.active, .standby, .safe] then (d.enterService, .success) else (d, .sequenceError)

/-- SERVICE leave (R581, R604): a warm reset is prepared. -/
def execServiceLeave (q : QRef) (cid : Nat) (s : State) : Out :=
  s.run fun d => d.roleOp q cid 3 0x0103 fun d =>
    if d.mode == .makerService then ((d.onSeq fun s => { s with prep := 1 }).spinAdvance, .success)
    else (d, .sequenceError)

/-- ALMANAC_ERASE (R557, R566): a maker session, in MAKER_SERVICE. -/
def execRoleAlmanacErase (q : QRef) (cid : Nat) (s : State) : Out :=
  s.run fun d => d.roleOp q cid 3 0x0104 fun d =>
    if d.mode == .makerService then (d.almErase 3, .success) else (d, .sequenceError)

/-- KEY_STATUS (R566): generation and state of every namespace's key. -/
def execKeyStatus (q : QRef) (cid : Nat) (s : State) : Out :=
  s.run fun d => d.roleOp q cid 1 0x0105 fun d =>
    let bytes := (List.range 4095).flatMap fun k =>
      match d.sec.keys.find? fun x => x.1 == k + 1 with
      | some x => leBytes 4 x.2.1 ++ [1, 0, 0, 0]
      | none => List.replicate 8 0
    (d.toHost q cid (roleHeader 32760 (d.numberOf q.fn) ++ bytes), .success)

/-! ### Entropy (R578) -/

/-- ENTROPY_FAIL. -/
def execEntropyFail (s : State) : Out :=
  s.runIn 18 fun d => (d.set SEC_STATUS.ENTROPY_OK 0).raise SEC_INT_STATUS.ENTROPY_FAIL

/-- ENTROPY_RECOVERED. -/
def execEntropyRecovered (s : State) : Out := s.runIn 18 fun d => d.set SEC_STATUS.ENTROPY_OK 1

end Sys2Proof.Machine
end

