-- ==== Sys2Proof/Machine/Servo.lean ====
section
/-! DEFINITION. Commands of the servo engine and its supervision (chapters 06 and 07). -/

namespace Sys2Proof.Machine

/-! ### The sample and its parts -/

/-- SERVO_RECORD (R198): the record joins the wedge's records; in OFF the engine takes none, and a lane
whose island has no clock makes none (R629). A head gives one record per wedge. -/
def execServoRecord (g : Grp) (i : HeadIx) (r : ServoRec) (s : State) : Out :=
  s.runIn (9 + g) fun d =>
    if d.srvState g == stOff || !d.groupRuns g then d
    else d.onSrv g fun t => { t with recs := t.recs.filter (fun p => p.1 != i) ++ [(i, r)] }

/-- SERVO_SAMPLE (R204). -/
def execServoSample (g : Grp) (s : State) : Out := s.runIn (9 + g) fun d => (d.sample g).drainStream g

/-- HEAD_LOST (R201): a member head with MISS_LIMIT missed samples becomes lost. -/
def execHeadLost (g : Grp) (i : HeadIx) (s : State) : Out :=
  s.runIn (9 + g) fun d => if d.member g i && d.missed g i && !d.lost g i then d.headLost g i else d

/-- ON_TRACK (R222): ONTRACK_CNT samples within ONTRACK_THR in SETTLE. -/
def execOnTrack (g : Grp) (s : State) : Out :=
  s.runIn (9 + g) fun d =>
    if d.srvState g == stSettle &&
        decide (atLeast1 (d.get SRV_ONTRACK.ONTRACK_CNT g) ≤ d.srv[g].ontrack)
    then d.onTrack g else d

/-- SETTLE_SLOW (R222): SETTLE_MAX samples in SETTLE; the engine goes on settling. -/
def execSettleSlow (g : Grp) (s : State) : Out :=
  s.runIn (9 + g) fun d =>
    if d.srvState g == stSettle && decide (atLeast1 (d.get SRV_ONTRACK.SETTLE_MAX g) ≤ d.srv[g].settle)
    then d.raise SRV_INT_STATUS.SETTLE_SLOW g else d

/-- FOLLOWING_ERROR (R239): the lowest head whose counter has reached FE_CNT. -/
def execFollowingError (g : Grp) (s : State) : Out :=
  s.runIn (9 + g) fun d =>
    match d.feReached g with
    | some i => if (d.feLimit g).isSome then d.followError g i else d
    | none => d

/-- INHIBIT_RELEASE (R237): WI_REL clean samples have passed for the head. -/
def execInhibitRelease (g : Grp) (i : HeadIx) (s : State) : Out :=
  s.runIn (9 + g) fun d =>
    if d.inhibitOver g i && !d.inhibitCond g i then d.releaseInhibit g i else d

/-- COEF_WRITE (R215): a write in the coefficient window at offset ofs, 0x4000 to 0x6FFF, to the set
SRV_COEF_SEL selects; refused with LOCKED outside LAST_LOAD and MAKER_SERVICE, and for a set in
use. -/
def execCoefWrite (who : Who) (g : Grp) (ofs : Nat) (v : Word) (s : State) : Out :=
  s.run fun d =>
    let k := (ofs - 0x4000) / 4
    d.tryWriteOr who (SRV_COEF.at g k) fun d =>
      let set := d.get SRV_COEF_SEL.SET g
      if d.coefLocked g set then .error .locked else .ok (d.setWord SRV_COEF v g (set * 3072 + k))

/-! ### Positioning -/

/-- POSITIONING_REQUEST (R220): the scheduler hands a request to the servo, which latches it at a
t0 while FW_OWN is 0; while another request is issued it joins the group's queue. -/
def execPositioningRequest (g : Grp) (r : Request) (s : State) : Out :=
  s.runIn 2 fun d => d.handRequest g (d.newReq r (.host []))

/-- The state accepts a SRV_CMD operation (R220, R224, R245, R247). -/
def Dev.cmdAccepted (d : Dev) (g : Grp) (op : Nat) : Bool :=
  let st := d.srvState g
  d.on SRV_CTRL.FW_OWN g &&
  match op with
  | 0 => st == stSeek || st == stSettle || st == stTrack
  | 1 => d.loadOk g
  | 2 => st == stSeek || st == stSettle || st == stTrack
  | _ => false

/-- A write of SRV_CMD with GO and an operation: issued, or dropped with CMD_ERR (R220). -/
def Dev.srvCmdWrite (d : Dev) (who : Who) (g : Grp) (v : Word) (op : Nat) : Dev :=
  d.tryWrite who (SRV_CMD.at g) fun d =>
    if d.cmdAccepted g op then
      d.plainWrite who SRV_CMD g 0 (withField (withField v 28 2 op) 31 1 1)
    else d.raise SRV_INT_STATUS.CMD_ERR g

/-- SEEK (R221): issued here, latched at the next t0. -/
def execSeek (who : Who) (g : Grp) (v : Word) (s : State) : Out :=
  s.run fun d => d.srvCmdWrite who g v 0

/-- LOAD (R224). -/
def execLoad (who : Who) (g : Grp) (v : Word) (s : State) : Out :=
  s.run fun d => d.srvCmdWrite who g v 1

/-- UNLOAD (R225). -/
def execUnload (who : Who) (g : Grp) (v : Word) (s : State) : Out :=
  s.run fun d => d.srvCmdWrite who g v 2

/-- LOAD_TIMEOUT (R224): LOAD_FAIL where step 3 has not been reached, and the unload velocity phase runs. -/
def execLoadTimeout (g : Grp) (s : State) : Out :=
  s.runIn (9 + g) fun d =>
    if d.srvState g == stLoading && !d.srv[g].loadFailed && (d.srv[g].transfer).isNone then
      (d.raise SRV_INT_STATUS.LOAD_FAIL g).onSrv g fun t =>
        { t with loadFailed := true, loadCyl := none }
    else d

/-- The velocity phase toward the ramp runs: in UNLOADING after its seek, in LOADING after its
timeout (R224, R225). -/
def Dev.onRamp (d : Dev) (g : Grp) : Bool :=
  (d.srvState g == stUnloading && d.srv[g].ramp) ||
    (d.srvState g == stLoading && d.srv[g].loadFailed)

/-- The back-EMF shows the coarse actuator at rest: |back-EMF| is at or below PARK_VEL (R225, R244). -/
def Dev.atRest (d : Dev) (g : Grp) : Bool :=
  decide ((sext 16 (d.get SRV_AMP_MEAS.BEMF g)).natAbs ≤ 256 * d.get SRV_UNLOAD_CFG.PARK_VEL g)

/-- PARKED (R225): the back-EMF has stayed at or below PARK_VEL for PARK_MS. -/
def execParked (g : Grp) (s : State) : Out :=
  s.runIn (9 + g) fun d =>
    if d.onRamp g && d.atRest g then (d.park g |>.raise SRV_INT_STATUS.PARKED g).afterPark else d

/-- UNLOAD_TIMEOUT (R225). -/
def execUnloadTimeout (g : Grp) (s : State) : Out :=
  s.runIn (9 + g) fun d => if d.srvState g == stUnloading then d.retract g 7 else d

/-! ### The actuator link -/

/-- A frame failed (R229): the first failure is repeated, the second is a link fault. -/
def Dev.linkFailed (d : Dev) (g : Grp) : Dev :=
  if d.srv[g].repeated || d.on SRV_LINK_STATUS.FAULT g then
    let d := d.when (!d.on SRV_LINK_STATUS.FAULT g) fun d =>
      (d.set SRV_LINK_STATUS.FAULT 1 g).raise SRV_INT_STATUS.LINK_FAULT g
    (d.onSrv g fun t => { t with repeated := false }).retract g 5
  else (d.raise SRV_INT_STATUS.LINK_RETRY g).sendDown g true

/-- Faults in the amplifier status (R231). -/
def Dev.ampFaults (d : Dev) (g : Grp) (st : Nat) : Dev :=
  let d := if st / 8 % 8 != 0 then (d.raise SRV_INT_STATUS.AMP_FAULT g).retract g 6 else d
  d.each (List.finRange 8) fun i d =>
    if bit (st / 256) i && !bit d.srv[g].fineFault i then
      let d := (d.raise SRV_INT_STATUS.AMP_FAULT g).onSrv g fun t =>
        { t with fineFault := setBit t.fineFault i, fine := t.fine.set i 0 }
      (((d.dropLane (laneOf g i)).memberFailed g i).serve g 64).event 0x04 2 []
    else d

/-- The bytes of an upstream frame that its CRC covers (R228). -/
def upBytes (f : UpFrame) : List Byte :=
  f.head :: (beBytes 2 f.ivcm.toNat ++ beBytes 2 f.status.toNat ++ beBytes 2 f.bemf.toNat ++ [f.temp])

/-- The frame's CRC-16 is that of its bytes (R226, R228). -/
def upCrcOk (f : UpFrame) : Bool := f.crc == BitVec.ofNat 16 (crc16 (upBytes f)).toNat

/-- UPSTREAM_FRAME (R228, R229, R231): no frame arrives in OFF, where the link idles; a frame whose header is not of type 0x8 is
no upstream frame, and its time runs out (DEDUCED, log entry 145). -/
def execUpstreamFrame (g : Grp) (f : UpFrame) (s : State) : Out :=
  s.runIn (9 + g) fun d =>
    if d.srvState g == stOff then d
    else if !upCrcOk f then (d.bump SRV_LINK_STATUS.UP_ERR g).linkFailed g
    else if f.head.toNat / 16 != 8 then d
    else
      let d := ((((d.set SRV_AMP_STATUS.STATUS f.status.toNat g).set SRV_AMP_STATUS.TEMP
        f.temp.toNat g).set SRV_AMP_MEAS.IVCM f.ivcm.toNat g).set SRV_AMP_MEAS.BEMF f.bemf.toNat g)
      let d := d.onSrv g fun t => { t with echo := f.head.toNat % 16 }
      let d := if f.status.getLsbD 7 then (d.bump SRV_LINK_STATUS.DN_ERR g).linkFailed g
        else d.onSrv g fun t => { t with repeated := false }
      d.ampFaults g f.status.toNat

/-- UPSTREAM_TIMEOUT (R229). -/
def execUpstreamTimeout (g : Grp) (s : State) : Out :=
  s.runIn (9 + g) fun d =>
    if d.srvState g == stOff then d else (d.bump SRV_LINK_STATUS.UP_MISS g).linkFailed g

/-! ### Enable and retract -/

/-- SRV_ENABLE (R196): OFF becomes PARKED; the change from 0 to 1 clears SRV_LINK_STATUS. -/
def execSrvEnable (who : Who) (g : Grp) (v : Word) (s : State) : Out :=
  s.run fun d => d.tryWrite who (SRV_CTRL.at g) fun d =>
    let was := d.on SRV_CTRL.EN g
    let d := d.srvCtrlWrite who g (withField v 0 1 1)
    if was then d
    else
      let d := d.setWord SRV_LINK_STATUS 0 g
      if d.srvState g == stOff then d.enter g stParked else d

/-- SRV_DISABLE (R240): OFF from PARKED, else a retract with cause FW_DISABLE; a capture ends
(R260). -/
def execSrvDisable (who : Who) (g : Grp) (v : Word) (s : State) : Out :=
  s.run fun d => d.tryWrite who (SRV_CTRL.at g) fun d =>
    let was := d.on SRV_CTRL.EN g
    let d := d.srvCtrlWrite who g (withField v 0 1 0)
    if !was then d
    else
      let d := d.when (d.on SRV_CAP_CTRL.ARM g) (·.capEnd g false true)
      if d.srvState g == stOff then d
      else if d.srvState g == stParked then (d.enter g stOff).afterPark else d.retract g 2

/-- RETRACT_REQUEST (R241), with a cause code of R240. -/
def execRetractRequest (g : Grp) (cause : Nat) (s : State) : Out :=
  s.runIn (9 + g) fun d => if 1 ≤ cause ∧ cause ≤ 10 then d.retract g cause else d

/-- RETRACT is left for PARKED, or for OFF where its cause was FW_DISABLE (R244). -/
def Dev.leaveRetract (d : Dev) (g : Grp) (unconfirmed : Bool) : Dev :=
  let t := d.srv[g]
  let d := ((d.set SRV_RET_INFO.CAUSE t.retCause g).set SRV_RET_INFO.UNCONFIRMED unconfirmed.toNat g).set
    SRV_RET_INFO.MASK t.retMask g
  let d := (d.stamp SRV_RET_INFO.VALID SRV_RET_INFO.SEQ g).raise SRV_INT_STATUS.RETRACT g
  let d := (d.event 0x04 1 []).park g
  let d := if t.retCause = 2 then d.enter g stOff else d
  (d.refreshInh g).afterPark

/-- RETRACT_EXIT (R244): the status no longer shows RETRACTING, and the back-EMF has stayed at or below PARK_VEL; with a
failed link there is no status to read (R246). -/
def execRetractExit (g : Grp) (s : State) : Out :=
  s.runIn (9 + g) fun d =>
    if d.srvState g == stRetract && !d.on SRV_LINK_STATUS.FAULT g &&
        !bit (d.get SRV_AMP_STATUS.STATUS g) 6 && d.atRest g
    then d.leaveRetract g false else d

/-- RETRACT_TIMEOUT (R244). -/
def execRetractTimeout (g : Grp) (s : State) : Out :=
  s.runIn (9 + g) fun d => if d.srvState g == stRetract then d.leaveRetract g true else d

/-! ### Mode commands -/

/-- A write of SRV_MODE_CMD with GO and an operation that is accepted, else CMD_ERR (R247, R250). -/
def Dev.modeCmdWrite (d : Dev) (who : Who) (g : Grp) (v : Word) (op : Nat) (ok : Bool) : Dev :=
  if ok then d.plainWrite who SRV_MODE_CMD g 0 (withField (withField v 28 2 op) 31 1 1)
  else d.raise SRV_INT_STATUS.CMD_ERR g

/-- MANUAL (R247): only with FW_OWN, in SEEK, SETTLE or TRACK; latched at the next t0. -/
def execManual (who : Who) (g : Grp) (v : Word) (s : State) : Out :=
  s.run fun d => d.tryWrite who (SRV_MODE_CMD.at g) fun d =>
    let st := d.srvState g
    d.modeCmdWrite who g v 0
      (d.on SRV_CTRL.FW_OWN g && (st == stSeek || st == stSettle || st == stTrack))

/-- AUTO (R250): only in MANUAL; latched at a t0 with a valid measurement and no blend. -/
def execAuto (who : Who) (g : Grp) (v : Word) (s : State) : Out :=
  s.run fun d => d.tryWrite who (SRV_MODE_CMD.at g) fun d =>
    d.modeCmdWrite who g v 1 (d.srvState g == stManual)

/-- FW_RETRACT (R240): GO clears at once, cause FW. -/
def execFwRetract (who : Who) (g : Grp) (v : Word) (s : State) : Out :=
  s.run fun d => d.tryWrite who (SRV_MODE_CMD.at g) fun d =>
    -- a mode command that waits for its t0 is dropped (R241)
    let d := d.when (d.on SRV_MODE_CMD.GO g) (·.raise SRV_INT_STATUS.CMD_ERR g)
    let d := d.modeCmdWrite who g v 2 true
    (d.set SRV_MODE_CMD.GO 0 g).retract g 1

/-! ### Injection and capture -/

/-- Bits 10:0 of SRV_ICU_CTRL are locked while RUN is 1. -/
def Dev.icuKeep (d : Dev) (g : Grp) : Word := if d.on SRV_ICU_CTRL.RUN g then 0x7FF else 0

/-- ICU_GO (R255): accepted in MAKER_SERVICE or HEAD_LOAD, in SETTLE, TRACK or MANUAL; else dropped
with LOCKED; a reserved TYPE is dropped with RANGE (R256). -/
def execIcuGo (who : Who) (g : Grp) (v : Word) (s : State) : Out :=
  s.run fun d => d.tryWriteOr who (SRV_ICU_CTRL.at g) fun d =>
    let st := d.srvState g
    if !(d.inMode [.makerService, .headLoad] && (st == stSettle || st == stTrack || st == stManual))
    then .error .locked
    else if !d.on SRV_ICU_CTRL.RUN g && bits v 4 2 == 3 then .error .range
    else .ok <|
      (d.plainWrite who SRV_ICU_CTRL g 0 (withField v 30 2 2) (d.icuKeep g)).onSrv g fun t =>
        { t with icu := { t.icu with armed := true } }

/-- ICU_STOP (R255): the generator stops at the next sample; a start that waits is withdrawn. -/
def execIcuStop (who : Who) (g : Grp) (v : Word) (s : State) : Out :=
  s.run fun d => d.tryWrite who (SRV_ICU_CTRL.at g) fun d =>
    ((d.plainWrite who SRV_ICU_CTRL g 0 (withField v 30 2 1) (d.icuKeep g)).set SRV_ICU_CTRL.GO 0 g).onSrv g fun t =>
      { t with icu := { t.icu with stop := true, armed := false } }

/-- ICU_PROGRAM_END (R256): the program has reached COUNT and ends, or restarts with LOOP. -/
def execIcuProgramEnd (g : Grp) (s : State) : Out :=
  s.runIn (9 + g) fun d => if d.icuDone g then d.icuEnd g else d

/-- CAP_ARM (R260, R261): a reserved TRIG drops the arm with RANGE. -/
def execCapArm (who : Who) (g : Grp) (v : Word) (s : State) : Out :=
  s.run fun d => d.tryWriteOr who (SRV_CAP_CTRL.at g) fun d =>
    if 5 < bits v 8 4 then .error .range
    else .ok <|
      let d := d.plainWrite who SRV_CAP_CTRL g 0 (withField v 29 3 4)
      let d := (d.set SRV_CAP_RESULT.VALID 0 g).setWord SRV_CAP_STATUS 0 g
      d.onSrv g fun t => { t with cap := { trigNow := bits v 8 4 == 0 } }

/-- CAP_ABORT (R260): the capture ends with ABORTED. -/
def execCapAbort (who : Who) (g : Grp) (v : Word) (s : State) : Out :=
  s.run fun d => d.tryWrite who (SRV_CAP_CTRL.at g) fun d =>
    let d := d.plainWrite who SRV_CAP_CTRL g 0 (withField v 29 3 0)
    if d.on SRV_CAP_CTRL.ARM g then d.capEnd g false true else d

/-- TRIG_NOW (R260): trigger 0x5. -/
def execTrigNow (who : Who) (g : Grp) (v : Word) (s : State) : Out :=
  s.run fun d => d.tryWrite who (SRV_CAP_CTRL.at g) fun d =>
    (d.plainWrite who SRV_CAP_CTRL g 0 (withField v 29 3 0)).trigger g 5

/-- CAPTURE_END (R260): the last record after the trigger has been written. -/
def execCaptureEnd (g : Grp) (s : State) : Out :=
  s.runIn (9 + g) fun d => if d.capDone g then d.capEnd g false false else d

end Sys2Proof.Machine
end

