-- ==== Sys2Proof/Machine/RegisterOps.lean ====
section
/-! DEFINITION. What the register space answers: reads, the groups of R35, and writes to registers that have no
row of their own (R23 to R42, R627 to R629). -/

namespace Sys2Proof.Machine

/-! ### Reads -/

/-- Lane n runs: it is alive, and its group's WLS gives it a clock (R629). -/
def Dev.laneRuns (d : Dev) (n : LaneId) : Bool := d.laneAlive n && d.wlsState n.grp != wsOff

/-- A slot shown by LANE_SBUF_SEL. -/
def Dev.shownSlot (d : Dev) (n : LaneId) : Option Slot := d.lanes[n].slots[d.selSlot n]

/-- Four bytes of a list as a word, the first in bits 7:0; a byte that is not there reads 0. -/
def word4 (l : List Byte) (k : Nat) : Word :=
  BitVec.ofNat 32 (ofLe ((List.range 4).map fun b => l.getD (4 * k + b) 0))

/-- Word k of the sample window (R121): the selected reader and page, while HOLD is 1. -/
def Dev.sampleWord (d : Dev) (n : LaneId) (k : Nat) : Word :=
  if !d.on LANE_SBUF_SEL.HOLD n then 0
  else match d.shownSlot n with
    | none => 0
    | some x =>
      word4 (if d.on LANE_SBUF_SEL.READER n then x.samplesB else x.samplesA) (1024 * d.get LANE_SBUF_SEL.PAGE n + k)

/-- Word k of an initiator's almanac window (R558). -/
def Dev.almWord (d : Dev) (who : Who) (k : Nat) : Word :=
  match d.alm.views[whoIx who].shown with
  | none => 0
  | some r => word4 r.bytes (64 * d.get ALM_CUR_OFS.PAGE 0 (whoIx who) + k)

/-- A word with bit b of each of 32 sources from s on. -/
def sourceBits (f : Nat → Bool) (s : Nat) : Word := BitVec.ofNat 32 (maskOf ((List.range 32).map fun b => f (s + b)))

/-- A source is PENDING or ACTIVE_PENDING. -/
def Dev.srcPends (d : Dev) (s : Nat) : Bool := d.srcState s == icPending || d.srcState s == icActivePending

/-- A source is ACTIVE or ACTIVE_PENDING. -/
def Dev.srcActs (d : Dev) (s : Nat) : Bool := d.srcState s == icActive || d.srcState s == icActivePending

/-- Seconds of the lockout that remain (R564). -/
def Dev.lockLeft (d : Dev) : Nat :=
  if d.on SEC_STATUS.LOCKOUT then 60 - (d.now - d.sec.lockSince) / 1000000 else 0

/-- The registers whose value is formed at the read: windows, selected sets, and shown state. -/
def Dev.formed (d : Dev) (who : Who) (h : Hit) : Option Word :=
  let k := h.reg.key
  let n : LaneId := ⟨h.inst % 32, by omega⟩
  let w := d.word h.reg h.inst h.idx
  match h.reg.blk with
  | .lane =>
    if k = LANE_SBUF_WIN.key then some (d.sampleWord n h.idx)
    else if k = LANE_STATUS.key then some (LANE_STATUS.RUN.put w (d.laneRuns n).toNat)
    else if k = LANE_SBUF_META.key then
      some (match d.shownSlot n with
        | none => 0
        | some x => LANE_SBUF_META.SECTOR.put (LANE_SBUF_META.RESUMES.put (LANE_SBUF_META.VALID.put 0 (x.filled d.now).toNat)
            x.resumeAt.length) x.sect)
    else if k = LANE_SBUF_SAMPLES.key then
      some (LANE_SBUF_SAMPLES.SAMPLES.put 0 (((d.shownSlot n).map fun x => x.samplesA.length).getD 0))
    else if LANE_SET_FIR_A.key ≤ k ∧ k < LANE_SET_FIR_A.key + 0x9C then
      some (d.word h.reg h.inst (d.setIndex n h.reg h.idx))
    else none
  | .fmt =>
    if k = FMT_LANES.key then
      let g : Grp := ⟨h.inst % 4, by omega⟩
      some (FMT_LANES.ALIVE.put w (maskOf ((List.finRange 8).map fun i => d.laneAlive (laneOf g i))))
    else none
  | .srv =>
    if k = SRV_COEF.key then some (d.word SRV_COEF h.inst (d.get SRV_COEF_SEL.SET h.inst * 3072 + h.idx)) else none
  | .alm =>
    if k = ALM_WIN.key then some (d.almWord who h.idx)
    else if k = ALM_CURSOR.key ∨ k = ALM_CUR_OFS.key ∨ k = ALM_CUR_INFO.key then
      some (d.word h.reg 0 (whoIx who))
    else none
  | .mem => if k = MEM_KS.key then some (d.ks ⟨h.idx % 64, by omega⟩) else none
  | .ict =>
    if k = ICT_CLAIM.key ∨ k = ICT_HPP.key then some (d.claimWord (d.deliverable h.idx))
    else if k = ICT_RUNNING.key then
      some (ICT_RUNNING.TOP.put (ICT_RUNNING.DEPTH.put (ICT_RUNNING.PRIO.put 0 (d.running h.idx))
        (d.stackOf h.idx).length) (((d.stackOf h.idx).head?.map Prod.fst).getD 0))
    else if k = ICT_PEND.key then some (sourceBits d.srcPends (32 * h.idx))
    else if k = ICT_ACTIVE.key then some (sourceBits d.srcActs (32 * h.idx))
    else if k = ICT_SRC_CFG.key then
      some (ICT_SRC_CFG.CORE.put (ICT_SRC_CFG.LINE.put w (d.line h.idx).toNat) (d.coreOf h.idx))
    else none
  | .sec =>
    if k = SEC_SESSION.key then
      some (if SEC_SESSION.OPEN.of w = 1 then SEC_SESSION.LIFE.put w (d.lifeLeft ⟨h.idx % 64, by omega⟩) else w)
    else if k = SEC_STATUS.key then some (SEC_STATUS.LOCK_REMAIN.put w d.lockLeft)
    else none
  | .hst =>
    if k = HST_FN_STATUS.key ∧ !d.on HST_CTRL.EN then some (HST_FN_STATUS.RDY.put w 0) else none
  | _ => none

/-- The bits of a register that a read shows: those of its fields that are not WO (R29, R32). -/
def Reg.readable (r : Reg) : Word := r.fields.foldl (fun m f => if f.acc == .wo then m else m ||| f.mask) 0

/-- The value that a read of a register answers, snapshots apart. -/
def Dev.readReg (d : Dev) (who : Who) (h : Hit) : Word :=
  ((d.formed who h).getD (d.word h.reg h.inst h.idx)) &&& h.reg.readable

/-- Word p of control-store word k (R25). -/
def Dev.storeRead (d : Dev) (a : Nat) : Word :=
  let o := a - 0x4040_0000
  (d.cs.word (o / 16)).extractLsb' (32 * (o / 4 % 4)) 32

/-! ### Snapshots (R35) -/

/-- The pairs of _LO and _HI registers, whose _LO is the leading register, and the capture records whose text names
R35: the leading register and those it captures. -/
def snapGroups : List (Reg × List Reg) :=
  [(HST_ERR_INFO, [HST_ERR_CMD, HST_ERR_ADDR_LO, HST_ERR_ADDR_HI]), (HST_ERR_ADDR_LO, [HST_ERR_ADDR_HI]),
   (QUE_FAIL_INFO0, [QUE_FAIL_INFO1]), (BPM_RESULT0, [BPM_RESULT1]), (SHU_CH_RESULT, [SHU_CH_DONE]),
   (SHU_BUSY_LO, [SHU_BUSY_HI]), (SHU_SRC_LO, [SHU_SRC_HI]), (SHU_DST_LO, [SHU_DST_HI]),
   (CCH_MAINT_ADDR_LO, [CCH_MAINT_ADDR_HI]), (MEM_ECC_INFO0, [MEM_ECC_INFO1]),
   (MEM_KS_FENCE_LO, [MEM_KS_FENCE_HI]), (ICT_SWI_LO, [ICT_SWI_HI]), (FLT_REC0, [FLT_REC1, FLT_REC2]),
   (FLT_FENCED_SHU_LO, [FLT_FENCED_SHU_HI]), (FLT_FENCED_FN_LO, [FLT_FENCED_FN_HI]),
   (ALM_POST_ADDR_LO, [ALM_POST_ADDR_HI]), (TRC_RING_BASE_LO, [TRC_RING_BASE_HI]), (TRC_CNT_LO, [TRC_CNT_HI]),
   (WLT_XLATE_LBA_LO, [WLT_XLATE_LBA_HI]), (WLT_XLATE_RES0, [WLT_XLATE_RES1, WLT_XLATE_RES2]),
   (WLS_RATIO_LO, [WLS_RATIO_HI]), (WLS_ABORT_INFO0, [WLS_ABORT_INFO1]),
   (LANE_REC_INFO0, [LANE_REC_INFO1, LANE_REC_INFO2])]

/-- The registers that a read of a leading register captures. -/
def capturedBy (r : Reg) : Option (List Reg) :=
  (snapGroups.find? fun p => p.1.key == r.key).map Prod.snd

/-- A read answered from the initiator's live snapshot. -/
def Dev.snapValue (d : Dev) (who : Who) (a : Nat) : Option Word :=
  d.bus.snaps.findSome? fun s =>
    if s.who == who && s.lead != a then (s.vals.find? fun p => p.1 == a).map Prod.snd else none

/-- Take a snapshot: it replaces the one that the block instance keeps for the initiator. Its own leading
register counts as part of the group. -/
def Dev.takeSnap (d : Dev) (who : Who) (h : Hit) (l : List Reg) : Dev :=
  let a := h.reg.addr h.inst h.idx
  let vals := (a, d.readReg who h) :: l.map fun r =>
    (r.addr h.inst h.idx, d.readReg who ⟨r, h.inst, h.idx⟩)
  let s : Snap := ⟨who, h.reg.blk, h.inst, a, vals⟩
  { d with bus := { d.bus with snaps := s :: d.bus.snaps.filter fun x =>
      !(x.who == who && x.blk == h.reg.blk && x.inst == h.inst) } }

/-! ### Memory regions of R23 -/

/-- The requester of a core (R485). -/
def coreReq : Who → Nat
  | .management => 81 | _ => 80

/-- The buffer address behind an aperture address (R38, R39). -/
def Dev.apertureAt (d : Dev) (a : Nat) : Nat := d.get SYS_APERTURE_BASE.BASE * 2 ^ 30 + a % 2 ^ 30

/-- A read outside the register space: boot ROM, memories and scratch, aperture. -/
def Dev.readRegion (d : Dev) (who : Who) (a size : Nat) : Dev :=
  let n := min size 4
  if a < 0x8_0000 then d.answer (BitVec.ofNat 32 (ofLe ((List.range n).map fun k => Config.bootRom (a + k))))
  else if a < 0x4000_0000 then
    d.answer (BitVec.ofNat 32 (ofLe ((List.range n).map fun k => Cells.read d.mem.core (a + k))))
  else
    let b := d.apertureAt a
    let d := d.memRead (coreReq who) b .ok .ok
    d.answer (BitVec.ofNat 32 (ofLe ((d.mem.answer.drop (b % 32)).take n)))

/-- A write outside the register space; the boot ROM is read-only. -/
def Dev.writeRegion (d : Dev) (who : Who) (a size : Nat) (v : Word) : Dev :=
  let bs := (leBytes 4 v.toNat).take (min size 4)
  if a < 0x8_0000 then d
  else if a < 0x4000_0000 then d.onMem fun m => { m with core := Cells.writeAll m.core (cellsAt a bs) }
  else d.reqWrite (coreReq who) (d.apertureAt a) bs

/-! ### Writes by access type, with the limits of the field tables -/

/-- The RANGE limits of the field tables, judged on the word that the write would leave. -/
def outOfRange (h : Hit) (w : Word) : Bool :=
  let k := h.reg.key
  match h.reg.blk with
  | .sys =>
    (k == SYS_APERTURE_BASE.key && decide (48 ≤ SYS_APERTURE_BASE.BASE.of w)) ||
    (k == WTA_CFG.key && !(decide (1 ≤ WTA_CFG.WL_DEV.of w) && decide (WTA_CFG.WL_DEV.of w ≤ 16))) ||
    (k == RMT_HELD_LIMIT.key && decide (4096 < RMT_HELD_LIMIT.LIMIT.of w))
  | .que => k == QUE_DESTAGE_CFG.key && decide (QUE_DESTAGE_CFG.HI.of w ≤ QUE_DESTAGE_CFG.LO.of w)
  | .flt =>
    (k == FLT_SITE_CFG.key && FLT_SITE_CFG.ACTION.of w == 3) ||
    (k == FLT_INJ_CTRL.key && (!(FLT_INJ_CTRL.BITS.of w == 1 || FLT_INJ_CTRL.BITS.of w == 2) ||
      decide (464 ≤ FLT_INJ_CTRL.SITE.of w)))
  | .trc => k == TRC_RING_SIZE.key && !(decide (12 ≤ TRC_RING_SIZE.LOG2.of w) && decide (TRC_RING_SIZE.LOG2.of w ≤ 30))
  | .spn =>
    (k == SPN_PWM_CFG.key && !(decide (40 ≤ SPN_PWM_CFG.SETTLE.of w) && decide (SPN_PWM_CFG.SETTLE.of w ≤ 400) &&
      decide (20 ≤ SPN_PWM_CFG.DEAD.of w) && decide (SPN_PWM_CFG.DEAD.of w ≤ 400))) ||
    (k == SPN_MODEL.key && !(decide (2 ≤ SPN_MODEL.POLE_PAIRS.of w) && decide (SPN_MODEL.POLE_PAIRS.of w ≤ 8))) ||
    (k == SPN_LINK_CFG.key && (decide (SPN_LINK_CFG.REGEN_V.of w ≤ SPN_LINK_CFG.PF_VLINK.of w) ||
      decide (13500 ≤ SPN_LINK_CFG.REGEN_V.of w)))
  | .srv =>
    (k == SRV_DIM.key && !(decide (1 ≤ SRV_DIM.N_OUT.of w) && decide (SRV_DIM.N_OUT.of w ≤ 16) &&
      decide (1 ≤ SRV_DIM.N_STATES.of w) && decide (SRV_DIM.N_STATES.of w ≤ 32))) ||
    (k == SRV_COEF_SEL.key && decide (23 < SRV_COEF_SEL.SET.of w)) ||
    (k == SRV_CAP_LEN.key && decide (SRV_CAP_LEN.LEN.of w < SRV_CAP_LEN.PRE.of w))
  | .lane => k == LANE_SET_SEL.key && decide (68 ≤ LANE_SET_SEL.SET.of w)
  | _ => false

/-- The rules that drop a whole write with LOCKED: a job runs on the channel (R504), a trace ring in use, a
translation or a post under way. -/
def Dev.dropsWrite (d : Dev) (h : Hit) : Bool :=
  let k := h.reg.key
  match h.reg.blk with
  | .shu =>
    (k == SHU_SRC_LO.key || k == SHU_SRC_HI.key || k == SHU_DST_LO.key || k == SHU_DST_HI.key ||
      k == SHU_COUNT.key || k == SHU_CH_CFG.key || k == SHU_SPAN.key) && (d.jobs[h.idx]?.join).isSome
  | .trc =>
    (k == TRC_RING_BASE_LO.key || k == TRC_RING_BASE_HI.key || k == TRC_RING_SIZE.key || k == TRC_RING_WPTR.key) &&
      d.on TRC_CTRL.TRACE_EN
  | .wlt => (k == WLT_XLATE_LBA_LO.key || k == WLT_XLATE_LBA_HI.key) && d.on WLT_XLATE_CTRL.GO
  | _ => false

/-- The fields that a rule locks beside the RWL fields: FORCE_EN outside MAKER_SERVICE. -/
def Dev.lockedBits (d : Dev) (h : Hit) : Word :=
  if h.reg.key = SRV_BAND_SEL.key ∧ d.mode != .makerService then SRV_BAND_SEL.FORCE_EN.put 0 1 else 0

/-- A write by access types, with the block's own rules (R29, R30, R628 test 5). -/
def Dev.fieldWrite (d : Dev) (who : Who) (h : Hit) (v : Word) : Write :=
  let keep := d.lockedBits h
  if d.dropsWrite h then .error .locked
  else if outOfRange h (h.reg.written (d.word h.reg h.inst h.idx) v d.locked keep) then .error .range
  else .ok (d.plainWrite who h.reg h.inst h.idx v keep)

/-- A write of ICT_PEND: pending sources whose bits are 1 lose their pending state, unless their line is
asserted (R33, R523). -/
def Dev.pendClear (d : Dev) (w : Nat) (v : Word) : Dev :=
  d.each (List.range 32) fun b d =>
    let s := 32 * w + b
    if !v.getLsbD b || d.line s then d
    else if d.srcState s == icPending then d.setSrc s icIdle
    else if d.srcState s == icActivePending then d.setSrc s icActive
    else d

/-! ### Islands (R17) -/

/-- A write of SYS_ISLAND_EN. An island whose bit is cleared refuses new accesses from now on. -/
def Dev.islandWrite (d : Dev) (who : Who) (v : Word) : Dev :=
  (d.plainWrite who SYS_ISLAND_EN 0 0 v).judgeActive

/-- The site of the crossing timeouts into an island (R630). -/
def crossSite (i : Nat) : Nat :=
  if i ≤ 2 then 449 else if i ≤ 6 then 450 else if i ≤ 8 then 451 else if i ≤ 13 then 452
  else if i ≤ 17 then 453 else 454

/-- The island that serves a register-space address (R627). -/
def islandAt (a : Nat) : Nat :=
  match blockAt a with
  | some (b, i) => b.island i
  | none => 7

/-- An access that ends with cause TIMEOUT: the capture and the UC record (R19, R28). -/
def Dev.timeOut (d : Dev) (who : Who) (a : Nat) (write : Bool) : Dev :=
  (d.capture who a write .timeout).uc (crossSite (islandAt a)) 0 0 a

/-! ### Pairs (R34) -/

/-- The writable 64-bit pairs. -/
def pairs : List (Reg × Reg) :=
  [(SHU_SRC_LO, SHU_SRC_HI), (SHU_DST_LO, SHU_DST_HI), (CCH_MAINT_ADDR_LO, CCH_MAINT_ADDR_HI),
   (ALM_POST_ADDR_LO, ALM_POST_ADDR_HI), (TRC_RING_BASE_LO, TRC_RING_BASE_HI),
   (WLT_XLATE_LBA_LO, WLT_XLATE_LBA_HI)]

/-- A write of a _LO half goes to the initiator's staging. -/
def Dev.stageLo (d : Dev) (who : Who) (h : Hit) (v : Word) : Write :=
  if d.dropsWrite h then .error .locked
  else
    let a := h.reg.addr h.inst h.idx
    .ok { d with bus := { d.bus with stage := (who, a, v) :: d.bus.stage.filter fun p => !(p.1 == who && p.2.1 == a) } }

/-- A write of a _HI half commits both. -/
def Dev.commitHi (d : Dev) (who : Who) (lo : Reg) (h : Hit) (v : Word) : Write :=
  if d.dropsWrite h then .error .locked
  else
    let a := lo.addr h.inst h.idx
    let staged := d.bus.stage.find? fun p => p.1 == who && p.2.1 == a
    let d := { d with bus := { d.bus with stage := d.bus.stage.filter fun p => !(p.1 == who && p.2.1 == a) } }
    let d := match staged with
      | some p => d.plainWrite who lo h.inst h.idx p.2.2
      | none => d
    .ok (d.plainWrite who h.reg h.inst h.idx v)

/-- The pair that a register is the _LO half of. -/
def isLo (r : Reg) : Bool := pairs.any fun p => p.1.key == r.key

/-- The _LO half of the pair that a register is the _HI half of. -/
def loOf (r : Reg) : Option Reg := (pairs.find? fun p => p.2.key == r.key).map Prod.fst

end Sys2Proof.Machine
end

