-- ==== Sys2Proof/Machine/Resets.lean ====
section
/-! DEFINITION. Cold and warm reset, and ROM_BOOT up to LAST_LOAD (R31, R466, R579 to R583, R596, R612). -/

namespace Sys2Proof.Machine

/-! ### What a reset keeps -/

/-- The register that a key names. -/
def regByKey (k : Nat) : Option Reg := (blockAt k).bind fun p => p.1.regs.find? fun r => r.key == k

/-- The RWS fields of a register (R29). -/
def Reg.rwsMask (r : Reg) : Word := r.fields.foldl (fun m f => if f.acc == .rws then m ||| f.mask else m) 0

/-- Registers that hold fences, and the link's status, beside the RWS fields (R580). -/
def keptWhole : List Reg :=
  [FLT_FENCED_LANE, FLT_FENCED_MISC, FLT_FENCED_SHU_LO, FLT_FENCED_SHU_HI, FLT_FENCED_FN_LO, FLT_FENCED_FN_HI,
   MEM_PC_FENCE, MEM_KS_FENCE_LO, MEM_KS_FENCE_HI, HST_LINK]

/-- The bits of a register that a warm reset keeps: RWS fields, fences, the link's status, and of a function its
presence and its fence. -/
def Reg.warmMask (r : Reg) : Word :=
  if keptWhole.any fun x => x.key == r.key then BitVec.allOnes 32
  else if r.key = HST_FN_STATUS.key then HST_FN_STATUS.PRESENT.put (HST_FN_STATUS.FENCED.put 0 1) 1
  else r.rwsMask

/-- The register file after a warm reset: the kept bits over the reset words (R31). -/
def warmRegs (l : RegFile) : RegFile :=
  l.filterMap fun p => match regByKey p.1.key with
    | none => none
    | some r =>
      let m := r.warmMask
      let w := (r.reset p.1.j &&& ~~~m) ||| (p.2 &&& m)
      if w = r.reset p.1.j then none else some (p.1, w)

/-- The device as a cold reset leaves it: every field at its reset value, every fence lifted, the keystone store empty.
The pack's media, the flash, the pins' levels, and what the world outside has received stay. The held portion is lost, in whatever mode
the reset falls (R583). -/
def Dev.cold (d : Dev) : Dev :=
  { now := d.now, fresh := d.fresh, media := d.media, out := d.out, pwrfail := d.pwrfail, flash := d.flash, trc := d.trc,
    alm := { copyA := d.alm.copyA, copyB := d.alm.copyB },
    hst := { cqes := d.hst.cqes, data := d.hst.data, irqs := d.hst.irqs, perst := d.hst.perst,
             fwNext := d.hst.fwNext, fwActive := d.hst.fwActive } }

/-- The keystone words after a warm reset: a fenced word keeps its copies; the others are set again by the start. -/
def Dev.warmKs (d : Dev) : Vector KsWord 64 :=
  Vector.ofFn fun k => if d.ksFenced k then d.mem.ks[k] else {}

/-- The device as a warm reset leaves it (R538, R580): as a cold one, but for RWS fields, fences, and the PCIe link with its
configuration space. -/
def Dev.warm (d : Dev) : Dev :=
  { d.cold with
      regs := warmRegs d.regs
      -- the CE windows of R538 go on
      flt := { requesters := d.flt.requesters, win := d.flt.win }
      mem := { ks := d.warmKs }
      hst := { d.cold.hst with fns := d.hst.fns.map fun f =>
                 { vq := f.vq, vi := f.vi, online := f.online, msix := f.msix, masked := f.masked } }
      seq := { turning := d.get SPN_SPEED.SPEED != 0 } }

/-! ### ROM_BOOT (R596 steps 1 to 6) -/

/-- Start an island: enabled and running. -/
def Dev.startIsland (d : Dev) (i : Nat) : Dev :=
  (d.setWord SYS_ISLAND_EN (d.word SYS_ISLAND_EN ||| (1#32 <<< (i - 1)))).orBits SYS_ISLAND_STATUS.RUN (1 <<< (i - 1))

/-- Pseudo-channel q fails training: it is fenced (R466); no buffer pool exists yet. -/
def Dev.failTraining (d : Dev) (q : Nat) : Dev :=
  if d.pcFenced q then d
  else (d.orBits MEM_PC_FENCE.FENCED (1 <<< (q % 32)) 0 (q / 32)).raise MEM_INT_STATUS.PC_FENCE

/-- A stack of which a pseudo-channel has trained. -/
def Dev.stackOk (d : Dev) (s : Nat) : Bool := d.get MEM_PC_FENCE.FENCED 0 s != 0xFFFF_FFFF

/-- ROM_BOOT runs up to LAST_LOAD: islands 1, 3, 4 and 6 are started, the stacks are trained (bit q of pcOk: q passes)
and written with zeros, the control store is loaded, the streaming requesters lose ALLOC (R470), the firmware of the
slot chosen at the last Firmware Commit becomes active. -/
def Dev.boot (d : Dev) (pcOk : BitVec 64) : Dev :=
  let d := d.each [1, 3, 4, 6] fun i d => d.startIsland i
  let d := d.each (List.range 64) fun q d => if pcOk.getLsbD q then d else d.failTraining q
  let d := (d.set MEM_STATUS.STACK0_OK (d.stackOk 0).toNat).set MEM_STATUS.STACK1_OK (d.stackOk 1).toNat
  let d := d.each [64, 65, 66, 67, 70] fun r d => d.set CCH_REQ_ATTR.ALLOC 0 0 r
  -- a fenced way stays OFF (R541)
  let d := d.each ((List.range 16).filter fun w => bit (d.get FLT_FENCED_MISC.WAY) w) fun w d =>
    (d.setWay w 2).orBits CCH_WAY_CTRL.OFF (1 <<< w)
  let d := d.onHst fun h => { h with fwActive := h.fwNext }
  let d := { d with cs := { d.cs with loaded := true } }
  (d.set SEC_STATUS.ENTROPY_OK 1).setMode .lastLoad

/-! ### Rows -/

/-- COLD_RESET (R579, R583, R585), accepted in every mode: held data is lost. The device is in OFF while the reset is held; a programmer may write the flash then. -/
def execColdReset (programmed : Option (Slots × Flash)) (s : State) : Out :=
  match programmed with
  | some p => { s with slots := p.1 }.run fun d => { d.cold.set SYS_MODE.MODE Mode.off.code with flash := p.2 }
  | none => s.run fun d => d.cold.set SYS_MODE.MODE Mode.off.code

/-- SUPPLY_UNDERVOLTAGE (R612): a monitor holds the controller in cold reset. -/
def execSupplyUndervoltage (s : State) : Out := s.run fun d => d.cold.set SYS_MODE.MODE Mode.off.code

/-- COLD_RESET_RELEASE (R579, R596): from OFF, or from ROM_BOOT as State.reset gives it. -/
def execColdResetRelease (pcOk : BitVec 64) (s : State) : Out :=
  s.run fun d =>
    if d.inMode [.off, .romBoot] then
      let d := if d.mode == .off then d.set SYS_MODE.MODE Mode.romBoot.code else d
      d.boot pcOk
    else d

/-- WARM_RESET_REQUEST (R580, R581): a write of SYS_RESET_CMD with WARM starts the preparation. -/
def execWarmResetRequest (who : Who) (v : Word) (s : State) : Out :=
  s.run fun d => d.busWrite who SYS_RESET_CMD.at fun d =>
    let d := d.plainWrite who SYS_RESET_CMD 0 0 (withField v 31 1 1)
    if d.seq.prep = 0 then (d.onSeq fun s => { s with prep := 1 }).spinAdvance else d

/-- WARM_RESET (R580): once its preparation, or the event in its place, has run its course; training passes again. -/
def execWarmReset (s : State) : Out :=
  s.run fun d => if d.seq.prep = 5 then d.warm.boot (BitVec.allOnes 64) else d

end Sys2Proof.Machine
end

