-- ==== Sys2Proof/Machine/Registers.lean ====
section
/-! DEFINITION. Register accesses as commands (R17 to R42): writes to registers without a row of their own, islands, the
aperture, the capture, pairs and snapshots. -/

namespace Sys2Proof.Machine

/-- What a meaning does to the device. -/
def Dev.via (d : Dev) (f : State → Out) : Dev :=
  match f ⟨[], d, Slots.empty⟩ with
  | .next s => s.dev
  | _ => d

/-- A write of SRV_ICU_CTRL: GO, then STOP. -/
def Dev.icuWrite (d : Dev) (who : Who) (g : Grp) (v : Word) : Dev :=
  let d := if v.getLsbD 31 then d.via (execIcuGo who g v) else d
  let d := if v.getLsbD 30 then d.via (execIcuStop who g v) else d
  if bits v 30 2 = 0 then d.busWrite who (SRV_ICU_CTRL.at g) fun d => d.plainWrite who SRV_ICU_CTRL g 0 v (d.icuKeep g)
  else d

/-- A write of SRV_CAP_CTRL: ABORT, then ARM, then TRIG_NOW. -/
def Dev.capWrite (d : Dev) (who : Who) (g : Grp) (v : Word) : Dev :=
  let d := if v.getLsbD 30 then d.via (execCapAbort who g v) else d
  let d := if v.getLsbD 31 then d.via (execCapArm who g v) else d
  let d := if v.getLsbD 29 then d.via (execTrigNow who g v) else d
  if bits v 29 3 = 0 then d.busWrite who (SRV_CAP_CTRL.at g) fun d => d.plainWrite who SRV_CAP_CTRL g 0 v else d

/-- A write of FLT_FENCE_CMD without GO (R542). -/
def Dev.fenceFields (d : Dev) (who : Who) (v : Word) : Write :=
  if d.on FLT_FENCE_CMD.GO then .error .locked
  else if !d.unitExists (bits v 16 4) (bits v 0 16) then .error .range
  else .ok (d.plainWrite who FLT_FENCE_CMD 0 0 v)

/-- The effect of a write that has passed the tests of R628 up to ISLAND_OFF, for a register whose write does more
than its access types say; none for the others. -/
def Dev.specialWrite (d : Dev) (who : Who) (h : Hit) (v : Word) : Option Dev :=
  let k := h.reg.key
  let a := h.reg.addr h.inst h.idx
  let g : Grp := ⟨h.inst % 4, by omega⟩
  let n : LaneId := ⟨h.inst % 32, by omega⟩
  let go := v.getLsbD 31
  let via := fun f => some (d.via f)
  let bus := fun f => some (d.busWrite who a f)
  let busOr := fun f => some (d.busWriteOr who a f)
  match h.reg.blk with
  | .sys =>
    if k = SYS_ISLAND_EN.key then bus fun d => d.islandWrite who v
    else if k = RMT_HOST.key then via (execRmtHostWrite who v)
    else if k = SYS_RESET_CMD.key ∧ go then via (execWarmResetRequest who v)
    else if k = SYS_BUS_ERR_INFO.key ∧ go then
      bus fun d => (d.plainWrite who SYS_BUS_ERR_INFO 0 0 v).set SYS_BUS_ERR_INFO.OVERFLOW 0
    else none
  | .bpm => if k = BPM_CMD.key then busOr fun d => d.bpmCmd who v else none
  | .shu =>
    if k = SHU_CTRL.key then bus fun d => d.shuEnable v
    else if k = SHU_CH_CTRL.key then bus fun d => d.shuCtrl who ⟨h.idx % 64, by omega⟩ v
    else none
  | .cch =>
    if k = CCH_CTRL.key then bus fun d => d.cacheCtrl v
    else if k = CCH_WAY_CTRL.key then bus fun d => d.wayWrite who v
    else if k = CCH_SCRATCH.key then busOr fun d => d.scratchWrite v
    else if k = CCH_MAINT_CMD.key then busOr fun d => d.maintWrite who v
    else none
  | .mem => if k = MEM_KS.key then busOr fun d => d.ksFirmware ⟨h.idx % 64, by omega⟩ v else none
  | .ict =>
    if k = ICT_EOI.key then bus fun d => d.eoiWrite (if h.idx = 0 then 0 else 1) v
    else if k = ICT_SRC_CFG.key then bus fun d => d.srcCfgSet who h.idx v
    else if k = ICT_SWI_LO.key then bus fun d => d.swiWrite who false v
    else if k = ICT_SWI_HI.key then bus fun d => d.swiWrite who true v
    else if k = ICT_CTRL.key then bus fun d => d.keepTargets.plainWrite who ICT_CTRL 0 0 v
    else if k = ICT_PEND.key then bus fun d => d.pendClear h.idx v
    else none
  | .vgl => if k = VGL_SLEEP.key then bus fun d => d.sleepWrite who v else none
  | .flt =>
    if k = FLT_FENCE_CMD.key then
      if !go then busOr fun d => d.fenceFields who v
      else if v.getLsbD 30 then via (execFenceLift who v) else via (execFenceCmd who v)
    else if k = FLT_INJ_CTRL.key ∧ go then via (execFaultInject who v)
    else none
  | .alm =>
    if k = ALM_CTRL.key ∧ v.getLsbD 1 then via (execAlmErase who v)
    else if k = ALM_CURSOR.key then via (execAlmanacCursor who v)
    else if k = ALM_CUR_OFS.key then
      if go then via (execAlmanacNext who v)
      else bus fun d => d.set ALM_CUR_OFS.PAGE (bits v 0 4) 0 (whoIx who)
    else if k = ALM_POST_CTRL.key ∧ go then via (execAlmanacPost who v)
    else none
  | .trc => if k = TRC_CLEAR.key then via (execTrcClear who ⟨h.idx % 8, by omega⟩ v) else none
  | .spn =>
    if k = SPN_CMD.key then
      if go then some (d.spnCmdWrite who v (bits v 0 2))
      else busOr fun d => if d.mode != .makerService then .error .locked else .ok (d.plainWrite who SPN_CMD 0 0 v)
    else if k = SPN_CTRL.key then via (if v.getLsbD 0 then execSpnEnable who v else execSpnDisable who v)
    else if k = SPN_TARGET.key then via (execSpnTargetWrite who v)
    else none
  | .wlt => if k = WLT_XLATE_CTRL.key then busOr fun d => d.xlateWrite who v else none
  | .cbl => if k = CBL_CMD.key then bus fun d => d.cblWrite who v else none
  | .srv =>
    if k = SRV_CTRL.key then via (if v.getLsbD 0 then execSrvEnable who g v else execSrvDisable who g v)
    else if k = SRV_CMD.key ∧ go then some (d.srvCmdWrite who g v (bits v 28 2))
    else if k = SRV_MODE_CMD.key ∧ go then
      match bits v 28 2 with
      | 0 => via (execManual who g v)
      | 1 => via (execAuto who g v)
      | 2 => via (execFwRetract who g v)
      | _ => bus fun d => d.modeCmdWrite who g v 3 false
    else if k = SRV_ICU_CTRL.key then some (d.icuWrite who g v)
    else if k = SRV_CAP_CTRL.key then some (d.capWrite who g v)
    else if k = SRV_COEF.key then via (execCoefWrite who g (0x4000 + 4 * h.idx) v)
    else none
  | .fmt =>
    if k = FMT_CTRL.key then bus fun d => d.fmtCtrlWrite who g v
    else if k = WLS_CTRL.key then busOr fun d => d.wlsCtrlWrite who g v
    else if k = WLS_WRITE_CFG.key then busOr fun d => d.wlsWriteCfg who g v
    else if k = WLS_PA_CMD.key then busOr fun d => d.paCmdWrite who g v
    else if k = WLS_INHIBIT.key then busOr fun d => (d.fieldWrite who h v).map fun d =>
        -- a head that firmware inhibits stops writing at once (R150)
        (if d.groupRuns g then d.stopWrites g (d.get WLS_INHIBIT.FW_MASK g) 9 else d).refreshInh g
    else none
  | .lane =>
    if k = LANE_CTRL.key then bus fun d => d.laneCtrlWrite who n v
    else if k = LANE_PREAMBLE.key then via (execLanePreambleWrite who n v)
    else if k = LANE_SBUF_SEL.key then bus fun d => d.sbufWrite who n v
    else if LANE_SET_FIR_A.key ≤ k ∧ k < LANE_SET_FIR_A.key + 0x9C then bus fun d => d.setWrite who n h v
    else none
  | _ => none

/-- A write of one initiator to an address of R23, with the tests of R628: a register, the control-store window, or a
memory region. -/
def Dev.write (d : Dev) (who : Who) (addr size : Nat) (v : Word) : Dev :=
  if (d.refusal ⟨who, addr, true, size⟩).isSome then d.tryWrite who addr id size
  else
    match regAt addr with
    | none =>
      d.busWriteOr who addr (fun d =>
        if inControlStore addr then
          let o := addr - 0x4040_0000
          d.storeWrite who (o / 16) (o / 4 % 4) v
        else .ok (d.writeRegion who addr size v)) size
    | some h =>
      if isLo h.reg then d.busWriteOr who addr fun d => d.stageLo who h v
      else match loOf h.reg with
        | some lo => d.busWriteOr who addr fun d => d.commitHi who lo h v
        | none =>
          match d.specialWrite who h v with
          | some d => d
          | none => d.busWriteOr who addr fun d => d.fieldWrite who h v

/-- REGISTER_WRITE (R27 to R32, R40, R628): a write that may have cleared a status bit, or set an enable, lets the ICT see the
line again. -/
def execRegisterWrite (who : Who) (addr size : Nat) (v : Word) (s : State) : Out :=
  s.run fun d =>
    if d.mode == .off then d
    else if (d.refusal ⟨who, addr, true, size⟩).isSome then d.write who addr size v
    else
      let d := (d.write who addr size v).judgeActive
      match regAt addr with
      | some h => d.judgeEnabled h.reg (if h.reg.key = SHU_CH_INT.key then h.idx else h.inst)
      | none => d

/-- CROSSING_TIMEOUT (R19, R28, R630): an access that has passed every other test is not answered. -/
def execCrossingTimeout (who : Who) (addr : Nat) (write : Bool) (s : State) : Out :=
  s.run fun d =>
    if d.mode == .off || !inRegSpace addr then d
    else match d.refusal ⟨who, addr, write, 4⟩ with
      | some c => (d.capture who addr write c).answer 0
      | none => (d.timeOut who addr write).answer 0

/-! ### Islands -/

/-- ISLAND_STOP (R17): a write of SYS_ISLAND_EN that clears bits. -/
def execIslandStop (who : Who) (v : Word) (s : State) : Out :=
  s.run fun d => d.busWrite who SYS_ISLAND_EN.at fun d => d.islandWrite who v

/-- ISLAND_STOPPED (R17): the clock of a disabled island has stopped. Island 8 never stops; the vigil shows
island 7's stop. -/
def execIslandStopped (i : Fin 22) (s : State) : Out :=
  s.run fun d =>
    if bit (d.word SYS_ISLAND_EN).toNat i || i.val = 7 then d
    else
      let d := if i.val = 6 then d.keepTargets else d
      let d := d.stopIsland (i.val + 1)
      let d := if i.val = 12 then d.gatesOff else d
      (if i.val = 6 then d.set VGL_STATUS.ISL7_DOWN 1 else d).judgeActive

/-- ISLAND_START (R17): a write of SYS_ISLAND_EN that sets bits. -/
def execIslandStart (who : Who) (v : Word) (s : State) : Out :=
  s.run fun d => d.busWrite who SYS_ISLAND_EN.at fun d => d.islandWrite who v

/-- ISLAND_RUNNING (R17): an enabled island's source is locked and its crossings are open. -/
def execIslandRunning (i : Fin 22) (s : State) : Out :=
  s.run fun d =>
    if d.mode == .off then d
    else
      let d := d.runIsland (i.val + 1)
      if i.val = 6 ∧ d.islandUp 7 then (d.set VGL_STATUS.ISL7_DOWN 0).judgeAll else d.judgeActive

/-! ### Aperture and capture -/

/-- APERTURE_BASE_WRITE (R38, R39): later accesses go through the new base. -/
def execApertureBaseWrite (who : Who) (v : Word) (s : State) : Out :=
  s.run fun d => d.busWriteOr who SYS_APERTURE_BASE.at fun d => d.fieldWrite who ⟨SYS_APERTURE_BASE, 0, 0⟩ v

/-- An access that the block or the crossing itself refuses; the tests before it pass. -/
def lateCause : BusCause → Bool
  | .locked | .range | .timeout => true
  | _ => false

/-- BUS_ERR_CLEAR (R40, R41): a write of SYS_BUS_ERR_INFO; a refused access of the same cycle is captured. -/
def execBusErrClear (who : Who) (v : Word) (same : Option (Access × BusCause)) (s : State) : Out :=
  s.run fun d =>
    -- the access beside the clear, as it is judged: its cause, none where it is not refused
    let other := same.bind fun p => match d.refusal p.1 with
      | some c => some (p.1, c)
      | none => if lateCause p.2 then some p else none
    let d := d.busWrite who SYS_BUS_ERR_INFO.at fun d =>
      let d := d.plainWrite who SYS_BUS_ERR_INFO 0 0 v
      if v.getLsbD 31 then d.set SYS_BUS_ERR_INFO.OVERFLOW 0 else d
    let d := match other with
      | some (x, c) => if d.mode == Mode.off then d
          else if c == BusCause.timeout then d.timeOut x.who x.addr x.write else d.capture x.who x.addr x.write c
      | none => d
    d.judgeActive

/-! ### Pairs and snapshots -/

/-- PAIR_LO_STAGE (R34). -/
def execPairLoStage (who : Who) (addr : Nat) (v : Word) (s : State) : Out :=
  s.run fun d => match regAt addr with
    | some h => if isLo h.reg then d.busWriteOr who addr fun d => d.stageLo who h v else d
    | none => d

/-- PAIR_HI_COMMIT (R34). -/
def execPairHiCommit (who : Who) (addr : Nat) (v : Word) (s : State) : Out :=
  s.run fun d => match regAt addr with
    | some h => match loOf h.reg with
      | some lo => d.busWriteOr who addr fun d => d.commitHi who lo h v
      | none => d
    | none => d

/-- A read that has passed the tests of R628. -/
def Dev.readAt (d : Dev) (who : Who) (addr size : Nat) : Dev :=
  match regAt addr with
  | none => if inControlStore addr then d.answer (d.storeRead addr) else d.readRegion who addr size
  | some h =>
    if h.reg.key = ICT_CLAIM.key ∧ who = coreWho (if h.idx = 0 then 0 else 1) then
      d.via (execIctClaim (if h.idx = 0 then 0 else 1))
    else match d.snapValue who addr with
      | some w => d.answer w
      | none =>
        let d := d.endSnaps who addr
        let w := d.readReg who h
        let d := match capturedBy h.reg with
          | some l => d.takeSnap who h l
          | none => d
        d.answer w

/-- SNAPSHOT_READ (R29, R35, R36): a read; of a leading register it takes a snapshot. A refused read returns 0. -/
def execSnapshotRead (who : Who) (addr size : Nat) (s : State) : Out :=
  s.run fun d =>
    if d.mode == .off then d
    else match d.refusal ⟨who, addr, false, size⟩ with
      | some c => (d.capture who addr false c).answer 0
      | none => d.readAt who addr size

end Sys2Proof.Machine
end

