-- ==== Sys2Proof/Machine/ImageOps.lean ====
section
/-! DEFINITION. The last image: the checks of R589 on its bytes and contents (R3 to R5, R49 to R62, R97, R127, R216,
R313, R315, R353), the REGS records (R588), and the fields set from its sections (R587). -/

namespace Sys2Proof.Machine

/-! ### Reading an image (R586 to R588) -/

/-- A little-endian field of n bytes at offset o. -/
def leAt (b : List Byte) (o n : Nat) : Nat := ofLe (cut b o n)

/-- A REGS record (R588). -/
inductive RegsRec where
  | masked (addr : Nat) (mask value : Word)
  | words (addr : Nat) (vs : List Word)
  deriving DecidableEq, Repr

/-- A last image as its bytes read (R586, R587). -/
structure Image extends ImageContent where
  magic : Nat
  version : Nat
  length : Nat
  seq : Nat
  stepping : Nat
  anyStepping : Bool
  /-- section table: type, offset, length, stored CRC, CRC of the section's bytes -/
  sections : List (Nat × Nat × Nat × Nat × Nat)
  keyBytes : List Byte
  signature : List Byte
  /-- bytes 0 to L - 97, over which the signature is made -/
  signed : List Byte
  ke : Nat
  roleHashes : List (List Word)
  regs : List RegsRec
  micro : List (Nat × MicroWord)
  deriving DecidableEq, Repr

/-- A record that is cut short: one of an address that no record may name (R588). DEDUCED (log entry 120). -/
def cutRecord : RegsRec := .masked SYS_ID.key 0 0

/-- The records of a REGS section (R588). -/
def readRegs : Nat → List Byte → List RegsRec
  | 0, _ => []
  | fuel + 1, b =>
    if b.isEmpty then []
    else
      let a := leAt b 0 4
      let n := leAt b 4 4
      let len := if n = 0 then 16 else 8 + 4 * n
      if b.length < len then [cutRecord]
      else
        (if n = 0 then .masked a (BitVec.ofNat 32 (leAt b 8 4)) (BitVec.ofNat 32 (leAt b 12 4))
          else .words a ((List.range n).map fun k => BitVec.ofNat 32 (leAt b (8 + 4 * k) 4))) :: readRegs fuel (b.drop len)

/-- The words of a MICRO section (R587); one that is cut short or whose 14 bytes are not zero takes address 0, which lies
outside the customer region. -/
def readMicro (b : List Byte) : List (Nat × MicroWord) :=
  (List.range ((b.length + 31) / 32)).map fun k =>
    let whole := 32 * k + 32 ≤ b.length ∧ leAt b (32 * k + 2) 14 = 0
    (if whole then leAt b (32 * k) 2 else 0, BitVec.ofNat 128 (leAt b (32 * k + 16) 16))

/-- The section table's rows: type, offset, length, CRC, and the CRC of the section's bytes (R586). More than nine rows fail
check 4 whatever they hold, so ten are read. -/
def readTable (b : List Byte) : List (Nat × Nat × Nat × Nat × Nat) :=
  (List.range (min 10 (leAt b 6 2))).map fun k =>
    let r := 0x20 + 16 * k
    let (ofs, len) := (leAt b (r + 4) 4, leAt b (r + 8) 4)
    (leAt b r 2, ofs, len, leAt b (r + 12) 4, (crc32c (cut b ofs (min len 0x100_0000))).toNat)

/-- Read an image from the bytes of its slot. -/
def readImage (b : List Byte) : Image :=
  let table := readTable b
  let len := leAt b 8 4
  let sec := fun (type : Nat) => match table.find? fun s => s.1 == type with
    | some s => cut b s.2.1 (min s.2.2.1 0x100_0000)
    | none => []
  { Config.imageContent ([1, 2, 3, 5, 6].map sec) with
    magic := leAt b 0 4, version := leAt b 4 2, length := len, seq := leAt b 12 4, stepping := leAt b 16 1,
    anyStepping := bit (leAt b 17 1) 0, sections := table, keyBytes := cut b (len - 193) 97,
    signature := cut b (len - 96) 96, signed := b.take (len - 96), ke := leAt (sec 4) 0 4,
    roleHashes := (List.range ((sec 7).length / 16)).map fun k => hashWords (cut (sec 7) (16 * k) 16),
    regs := readRegs (sec 8).length (sec 8), micro := readMicro (sec 9) }

/-! ### Contents (check 5) -/

/-- Member masks of R4: none, or W heads from index 0 on. -/
def memberMask (m : Nat) : Bool := [0, 0xF, 0x1F, 0x3F, 0x7F, 0xFF].contains m

/-- A group of the image; none for one without heads. -/
def Image.group (x : Image) (g : Grp) : Option ImgGroup :=
  match x.groups[g.val]? with
  | some l => if l.members = 0 then none else some l
  | none => none

/-- The groups with heads. -/
def Image.used (x : Image) : List ImgGroup := (List.finRange 4).filterMap fun (g : Grp) => Image.group x g

/-- The PACK section: R3, R4, R49, and the limits of WL_GRP and WL_DEV. -/
def Image.packOk (x : Image) : Bool :=
  decide (x.groups.length ≤ 4) && (x.groups.all fun l => memberMask l.members) && !(Image.used x).isEmpty &&
    x.nw % 32 == 0 && decide (512 ≤ x.nw) && decide (x.nw ≤ 1024) &&
    decide (1 ≤ x.wlDev) && decide (x.wlDev ≤ 16) &&
    (Image.used x).all fun l => decide (1 ≤ l.wlGrp) && decide (l.wlGrp ≤ 8)

/-- Cells of the servo pattern of a zone, P (R126). -/
def Zone.pattern (z : Zone) (nw : Nat) : Nat := (z.cpr / nw * z.srvFrac + 4095) / 4096

/-- Cells of a zone's data stream per wedge interval, D (R56). -/
def Zone.stream (z : Zone) (nw : Nat) : Nat := z.cpr / nw - z.srvCells - 64

/-- A zone record: R53, R55, R57, R97. -/
def Zone.ok (z : Zone) (nw : Nat) : Bool :=
  z.cpr % nw == 0 && decide (6250000 ≤ z.cpr) && decide (z.cpr ≤ 30000000) && decide (1 ≤ z.spt) &&
    decide (z.spt ≤ 762) && decide (1 ≤ z.srvFrac) && decide (z.srvFrac ≤ 409) && decide (z.skewW < nw) &&
    decide (2400 ≤ z.pitch) && decide (z.pitch ≤ 4000) && decide (Zone.pattern z nw + 128 ≤ z.srvCells) &&
    decide (z.spt * 37104 ≤ nw * Zone.stream z nw) && decide (1100 ≤ Zone.stream z nw)

/-- Zones sorted by first cylinder, from 0 on (R52). -/
def rising : List Zone → Bool
  | [] => true
  | [_] => true
  | a :: b :: t => decide (a.firstCyl < b.firstCyl) && rising (b :: t)

/-- A group's zone table (R52). -/
def ImgGroup.zonesOk (l : ImgGroup) (nw : Nat) : Bool :=
  decide (1 ≤ l.zones.length) && decide (l.zones.length ≤ 64) && (l.zones.all fun z => Zone.ok z nw) && rising l.zones &&
    (match l.zones.head? with | some z => z.firstCyl == 0 | none => false) &&
    (match l.zones.getLast? with | some z => decide (z.firstCyl < l.cyls) | none => false) &&
    decide (l.cyls ≤ 1048576)

/-- Welts of a group in the image: sectors of one surface. -/
def ImgGroup.welts (l : ImgGroup) : Nat :=
  match (weltBases 0 l.zones).getLast?, l.zones.getLast? with
  | some b, some z => b + (l.cyls - z.firstCyl) * z.spt
  | _, _ => 0

/-- The ZONES section: every table, and R62. -/
def Image.zonesOk (x : Image) : Bool :=
  ((Image.used x).all fun l => ImgGroup.zonesOk l x.nw) &&
    decide (((Image.used x).map fun l => popcount8 l.members * ImgGroup.welts l).sum ≤ 2 ^ 35)

/-- The SERVO_PATTERN section: R127, R216. -/
def Image.servoOk (x : Image) : Bool :=
  (Image.used x).all fun l => l.validSets % 2 ^ 24 != 0 &&
    l.zones.all fun z => decide (z.cpr / x.nw * x.refFrac / 4096 + 129 ≤ Zone.pattern z x.nw)

/-- (60 / 2 pi)^2, with pi^2 to fifteen digits. -/
def rpmSquare : Rat := 900 * 1000000000000000 / 9869604401089358

/-- The fall of the square of the speed under full drain, rpm^2 per second (R313); J in g cm^2 is 10^-7 kg m^2. -/
def Image.fall (x : Image) : Rat := 2 * x.pDrain * rpmSquare * 10000000 / x.inertia

/-- S_b in rpm (R303). -/
def bandRpm (b : Nat) : Rat := (bandSpeed b : Rat) / 16

/-- A held-portion limit of band b, MiB, is no larger than R313 computes: v MiB against the three bounds, the last of
them h squared on both sides. -/
def Image.limitOk (x : Image) (b v : Nat) : Bool :=
  let s2 := bandRpm b * bandRpm b
  let whole : Rat := 6 / 10
  let room := s2 - 2400 * 2400
  let T := if room < whole * Image.fall x then room / Image.fall x else whole
  let t := T - (x.flushSetup : Rat) / 1000
  let end2 := s2 - Image.fall x * T
  let need := (v : Rat) * 1048576 / 1000000 * 9600
  let rate := (x.flushRate : Rat) * t
  v == 0 || (decide (v ≤ 4096) && decide (v ≤ (Image.used x).length * 2047) && decide (0 < t) &&
    decide (need * need ≤ rate * rate * end2))

/-- The FLUSH section: R313, R315 (10^4 rpm/s bounds in the units of the image). -/
def Image.flushOk (x : Image) : Bool :=
  x.inertia != 0 && x.heldLimits.length == 24 &&
    decide ((9119 / 100 : Rat) * x.pDrain * 10000000 / (x.inertia * 2400) ≤ 4000) &&
    x.heldLimits.zipIdx.all fun p => Image.limitOk x p.2 p.1

/-- The LAYOUT section: the flush areas of every group lie wholly in zone 0 (R353); BAR4 of at most 16 GiB. -/
def Image.layoutOk (x : Image) : Bool :=
  decide (x.cmbGib ≤ 16) && (Image.used x).all fun l =>
    let nbw := weltCount (popcount8 l.members - (if l.pq then 2 else 1))
    let end0 := match l.zones with
      | _ :: z :: _ => z.firstCyl
      | _ => l.cyls
    match l.zones.head? with
    | some z => decide (2 * nbw ≤ end0 * z.spt)
    | none => false

/-- The section type whose contents break a rule of check 5. -/
def Image.badContent (x : Image) : Option Nat :=
  if !Image.packOk x then some 1
  else if !Image.zonesOk x then some 2
  else if !Image.servoOk x then some 3
  else if !Image.flushOk x then some 5
  else if !Image.layoutOk x then some 6
  else if x.roleHashes.length != 3 then some 7
  else if !(x.micro.all fun p => decide (0x3800 ≤ p.1) && decide (p.1 < 0x4000)) then some 9
  else none

/-! ### Checks 1 to 4 -/

/-- A section's place in the table, by type. -/
def Image.sectionOf (x : Image) (type : Nat) : Nat := (x.sections.findIdx? fun s => s.1 == type).getD 0

/-- A row of the section table is sound: alignment, place within the image, CRC (type, offset, length, CRC, and the CRC
of its bytes). -/
def Image.rowOk (x : Image) (s : Nat × Nat × Nat × Nat × Nat) : Bool :=
  decide (1 ≤ s.1) && decide (s.1 ≤ 9) && s.2.1 % 16 == 0 && decide (s.2.1 + s.2.2.1 ≤ x.length) &&
    s.2.2.2.1 == s.2.2.2.2

/-- The section table as a whole: S of 8, or 9 with MICRO, each type at most once, every type but MICRO present. -/
def Image.tableOk (x : Image) : Bool :=
  let ts := x.sections.map Prod.fst
  decide (ts.length = ts.dedup.length) && ((List.range 8).all fun k => ts.contains (k + 1)) &&
    ts.length == (if ts.contains 9 then 9 else 8)

/-- The first of the checks 1 to 5 that an image fails, with the section's index (R589). -/
def Dev.imageFails (d : Dev) (x : Image) : Option (Nat × Nat) :=
  if x.magic ≠ 0x47484C49 ∨ x.version ≠ 1 ∨ 16777216 < x.length then some (1, 0)
  else if Config.sha384 x.keyBytes ≠ Config.otpImageKey ∨ !Config.ecdsa x.keyBytes x.signature x.signed then some (2, 0)
  else if !x.anyStepping && x.stepping != d.get SYS_ID.STEPPING then some (3, 0)
  else match x.sections.findIdx? fun s => !Image.rowOk x s with
    | some k => some (4, k)
    | none =>
      if !Image.tableOk x then some (4, 0)
      else (Image.badContent x).map fun t => (5, Image.sectionOf x t)

/-! ### REGS records (R588) -/

/-- Addresses that a record may name. -/
def regsAllowed (a : Nat) : Bool :=
  match blockAt a with
  | some (.lane, _) | some (.fmt, _) | some (.srv, _) | some (.spn, _) | some (.que, _) | some (.cch, _)
  | some (.bpm, _) | some (.cbl, _) => true
  | some (.mem, _) => !(decide (MEM_KS.key ≤ a) && decide (a < MEM_KS.key + 256))
  | some (.flt, _) => decide (0x400A_1000 ≤ a)
  | some (.sys, _) => decide (0x4000_0400 ≤ a) && decide (a ≤ 0x4000_05FF)
  | _ => false

/-- The bits of a register that a structured section sets (R587). -/
def Reg.structured (r : Reg) : Word :=
  if r.key = FMT_LANES.key then FMT_LANES.PRESENT.put 0 0xFF
  else if r.key = WLS_WRITE_CFG.key then WLS_WRITE_CFG.WL_GRP.put 0 0xF
  else if r.key = WTA_CFG.key then WTA_CFG.WL_DEV.put 0 0x1F
  else if r.key = SRV_BAND_VALID.key then SRV_BAND_VALID.VALID.put 0 0xFF_FFFF
  else if r.key = RMT_HELD_LIMIT.key then BitVec.allOnes 32
  else 0

/-- One write of a record, over the bits of mask: the device, and whether it was taken. A refused one is captured. -/
def Dev.regsWrite (d : Dev) (a : Nat) (mask v : Word) : Dev × Bool :=
  match regAt a with
  | none => (d.write .control a 4 v, false)
  | some h =>
    if !regsAllowed a || h.reg.structured &&& mask != 0 then (d, false)
    else
      let info := d.word SYS_BUS_ERR_INFO
      let addr := d.word SYS_BUS_ERR_ADDR
      let old := d.readReg .control h
      let d1 := (d.setWord SYS_BUS_ERR_INFO 0).write .control a 4 ((old &&& ~~~mask) ||| (v &&& mask))
      let ok := !d1.on SYS_BUS_ERR_INFO.VALID
      let back := (d1.setWord SYS_BUS_ERR_INFO info).setWord SYS_BUS_ERR_ADDR addr
      (if ok then back else if SYS_BUS_ERR_INFO.VALID.of info = 1 then back.bump SYS_BUS_ERR_INFO.OVERFLOW else d1, ok)

/-- The words of a record, from an address on. -/
def Dev.regsWords (d : Dev) : Nat → List Word → Dev × Bool
  | _, [] => (d, true)
  | a, v :: t =>
    let (d, ok) := d.regsWrite a (BitVec.allOnes 32) v
    if ok then d.regsWords (a + 4) t else (d, false)

/-- The records in order: the index of the first that fails (check 6). -/
def Dev.regsAll (d : Dev) : Nat → List RegsRec → Dev × Option Nat
  | _, [] => (d, none)
  | k, r :: t =>
    let (d, ok) := match r with
      | .masked a m v => d.regsWrite a m v
      | .words a vs => d.regsWords a vs
    if ok then d.regsAll (k + 1) t else (d, some k)

/-! ### Structured fields (R587) -/

/-- PACK: lanes and write limits. They stand before the REGS records are checked, which name lanes. -/
def Dev.loadPack (d : Dev) (x : Image) : Dev :=
  let d := { d with nw := x.nw }
  let d := d.each (List.finRange 4) fun g d =>
    match Image.group x g with
    | some l => (d.set FMT_LANES.PRESENT l.members g).set WLS_WRITE_CFG.WL_GRP l.wlGrp g
    | none => d.set FMT_LANES.PRESENT 0 g
  d.set WTA_CFG.WL_DEV x.wlDev

/-- Keystone words from a list. -/
def Dev.putKs (d : Dev) (first : Nat) (ws : List Word) : Dev :=
  d.each ws.zipIdx fun p d => if h : first + p.2 < 64 then d.ksWrite ⟨first + p.2, h⟩ p.1 else d

/-- The other sections: zone tables and layout, coefficient sets, Ke, held limits, BAR4, digest and role hashes. -/
def Dev.loadFields (d : Dev) (x : Image) : Dev :=
  let d := { d with zones := Vector.ofFn fun g => ((Image.group x g).map ImgGroup.zones).getD [] }
  let d := d.onBand fun b => { b with layout := Vector.ofFn fun g => Image.group x g }
  let d := d.each (List.finRange 4) fun g d =>
    match Image.group x g with
    | none => d
    | some l =>
      let d := d.set SRV_BAND_VALID.VALID l.validSets g
      d.each (l.coefs.filter fun c => bit l.validSets c.1) fun c d =>
        if c.1 < 24 ∧ c.2.1 < 3072 then d.setWord SRV_COEF c.2.2 g (c.1 * 3072 + c.2.1) else d
  let d := (d.putKs 14 [BitVec.ofNat 32 x.ke]).set SPN_KE_REF.KE x.ke
  let d := d.each x.heldLimits.zipIdx fun p d => d.set RMT_HELD_LIMIT.LIMIT p.1 0 p.2
  let d := d.onBpm fun b => { b with cmb := 16384 * x.cmbGib }
  let h := Config.sha384 x.signed
  let d := d.putKs 16 ((List.range 12).map fun k => BitVec.ofNat 32 (beAt h (4 * k) 4))
  d.each x.roleHashes.zipIdx fun p d => d.putHash (p.2 + 1) p.1

end Sys2Proof.Machine
end

