-- ==== Sys2Proof/Machine/LastLoad.lean ====
section
/-! DEFINITION. LAST_LOAD (R594): the choice of an image, patches, the key store, the overlay, the pool, the lock, and
the mode that follows (R193 to R195, R547, R571, R584, R589 to R598, R605). -/

namespace Sys2Proof.Machine

/-! ### The image (R589, R590) -/

/-- A slot is rejected: LST_REJ_INFO, IMG_REJECT, and a record of slot, check and section. -/
def Dev.rejectImage (d : Dev) (slot check section_ record : Nat) : Dev :=
  let d := (d.set LST_REJ_INFO.SLOT slot).set LST_REJ_INFO.CHECK check
  let d := (d.setSat LST_REJ_INFO.SECTION section_).setSat LST_REJ_INFO.RECORD record
  let d := d.stamp LST_REJ_INFO.VALID LST_REJ_INFO.SEQ
  (d.raise SYS_INT_STATUS.IMG_REJECT).event 0x07 40 [slot, check, section_]

/-- The slots in the order of their trial. -/
def Slots.order (f : Slots) : List (Nat × Image) :=
  let key := fun (x : Image) => if x.magic = 0x47484C49 then x.seq + 1 else 0
  let (a, b) := (readImage f.slot0, readImage f.slot1)
  if key a < key b then [(1, b), (0, a)] else [(0, a), (1, b)]

/-- Try the slots: the first that passes every check is loaded. -/
def Dev.trySlots (d : Dev) : List (Nat × Image) → Dev × Option Image
  | [] => (d, none)
  | (k, x) :: t =>
    match d.imageFails x with
    | some (c, s) => (d.rejectImage k c s 0).trySlots t
    | none =>
      match (d.loadPack x).regsAll 0 x.regs with
      | (d, some r) => (d.rejectImage k 6 (Image.sectionOf x 8) r).trySlots t
      | (d, none) =>
        let d := d.loadFields x
        (((d.set LST_STATUS.LOADED 1).set LST_STATUS.SLOT k).set LST_IMG_SEQ.SEQ x.seq, some x)

/-! ### Patches (R193 to R195) -/

/-- The fields of a patch, read from its bytes by the layout of R193. -/
structure PatchIn where
  seq : Nat
  stepping : Nat
  anyStepping : Bool
  /-- every byte before the signature -/
  signed : List Byte
  signature : List Byte
  nonce : List Byte
  cipher : List Byte
  gcmTag : List Byte
  /-- the records that the ciphertext decrypts to: word address and word -/
  records : List (Nat × MicroWord)
  deriving DecidableEq, Repr

/-- Read a patch of N records, its fields little-endian as the last image's are (PRESUMED, log entry 136): none for bytes that are no patch, by the magic, N, the reserved bytes or the length (R193). -/
def readPatch (b : List Byte) : Option PatchIn :=
  let n := leAt b 8 2
  if leAt b 0 4 = 0x47485054 ∧ 1 ≤ n ∧ n ≤ 4096 ∧ leAt b 10 6 = 0 ∧ b.length = 0x8C + 32 * n then
    let nonce := cut b 0x10 12
    let cipher := cut b 0x1C (32 * n)
    let plain := Config.gcmPlain nonce cipher
    some { seq := leAt b 4 2, stepping := leAt b 6 1, anyStepping := bit (leAt b 7 1) 0,
           signed := b.take (0x2C + 32 * n), signature := cut b (0x2C + 32 * n) 96, nonce := nonce, cipher := cipher,
           gcmTag := cut b (0x1C + 32 * n) 16,
           records := (List.range n).map fun k =>
             (leAt plain (32 * k) 2, BitVec.ofNat 128 (leAt plain (32 * k + 16) 16)) }
  else none

/-- The check of R194 that a patch fails. -/
def patchFails (p : PatchIn) : Option Nat :=
  if !Config.ecdsa Config.walrixKey p.signature p.signed then some 1
  else if p.seq < Config.patchFloor then some 2
  else if !Config.gcmOk p.nonce [] p.cipher p.gcmTag then some 3
  else if p.records.any fun r => decide (0x3800 ≤ r.1) then some 4
  else none

/-- A status field in every instance of FMT_PATCH_STATUS. -/
def Dev.setPatch (d : Dev) (f : Fld) (v : Nat) : Dev := d.each (List.finRange 4) fun g d => d.setSat f v g

/-- Apply patches in ascending order, up to the first that fails: whether one failed. -/
def Dev.patchAll (d : Dev) : List PatchIn → Dev × Bool
  | [] => (d, false)
  | p :: t =>
    match patchFails p with
    | some c => ((d.setPatch FMT_PATCH_STATUS.FAILED 1).event 0x07 41 [p.seq, c], true)
    | none =>
      let d := d.each p.records fun r d => d.putStore r.1 r.2
      ((d.setPatch FMT_PATCH_STATUS.APPLIED (d.get FMT_PATCH_STATUS.APPLIED + 1)).setPatch FMT_PATCH_STATUS.LAST_SEQ
        p.seq).patchAll t

/-- Patches that apply: of this stepping or of every one, in ascending sequence. -/
def Dev.patchList (d : Dev) : List PatchIn :=
  sortBy (fun a b => decide (a.seq ≤ b.seq)) ((d.flash.patches.filterMap readPatch).filter fun p =>
    p.anyStepping || p.stepping == d.get SYS_ID.STEPPING)

/-! ### The key store (R567, R571) -/

/-- The copy of the key store in use: it, and whether it is copy 0. -/
def Flash.store (f : Flash) : Option (KeyStore × Bool) :=
  let ok := fun (o : Option KeyStore) => match o with
    | some k => if k.tagOk then some k else none
    | none => none
  match ok f.store0, ok f.store1 with
  | some a, some b => if a.gen < b.gen then some (b, false) else some (a, true)
  | some a, none => some (a, true)
  | none, some b => some (b, false)
  | none, none => none

/-- Read the key store: whether a copy passed. -/
def Dev.readStore (d : Dev) : Dev × Bool :=
  match Flash.store d.flash with
  | none => (d.event 0x06 43 [], false)
  | some (k, zero) =>
    let d := { d with sec := { d.sec with store := k, keys := k.keys, older := zero } }
    let d := ((d.set SEC_STATUS.KEYSTORE_OK 1).set SEC_STATUS.KEYS k.keys.length).set SEC_KS_GEN.GEN k.gen
    (d.each (k.hashes.filter fun h => decide (1 ≤ h.1) && decide (h.1 ≤ 3)) fun h d => d.putHash h.1 h.2, true)

/-! ### The overlay (R591 to R593) -/

/-- An installer overlay copy (R591). -/
structure Overlay where
  magic : Nat
  seq : Nat
  items : List (Nat × Nat)
  keyBytes : List Byte
  signature : List Byte
  signed : List Byte
  deriving DecidableEq, Repr

/-- Read an overlay copy: none where the copy is erased (R591). More than 32 items fail their check whatever they hold. -/
def readOverlay (b : List Byte) : Option Overlay :=
  let n := leAt b 8 2
  if b.isEmpty then none
  else some
    { magic := leAt b 0 4, seq := leAt b 4 4, items := (List.range (min n 33)).map fun k =>
        (leAt b (16 + 8 * k) 2, leAt b (20 + 8 * k) 4)
      keyBytes := cut b (0x10 + 8 * n) 97, signature := cut b (0x71 + 8 * n) 96, signed := b.take (0x71 + 8 * n) }

/-- An item's value, where the overlay carries it. -/
def ovlItem (o : Overlay) (code : Nat) : Option Nat := (o.items.find? fun i => i.1 == code).map Prod.snd

/-- Items lie within their limits; codes are known and stand once (R592). -/
def Dev.ovlItemsOk (d : Dev) (x : Image) (o : Overlay) : Bool :=
  let codes := o.items.map Prod.fst
  let floor0 := d.get RMT_HOST.FLOOR
  let ceil0 := d.get RMT_HOST.CEIL
  let floor := (ovlItem o 2).getD floor0
  decide (1 ≤ codes.length) && decide (codes.length ≤ 32) && decide (codes.dedup.length = codes.length) &&
    o.items.all fun i => match i.1 with
      | 1 | 7 => decide (i.2 ≤ 1)
      | 2 => decide (floor0 ≤ i.2) && decide (i.2 ≤ 23) && decide (i.2 ≤ (ovlItem o 3).getD ceil0)
      | 3 => decide (i.2 ≤ ceil0) && decide (floor ≤ i.2)
      | 4 => decide (1 ≤ i.2) && decide (i.2 ≤ x.wlDev)
      | 5 => decide (i.2 ≤ x.cmbGib)
      | 6 => decide (1 ≤ i.2) && decide (i.2 ≤ 120)
      | 8 => decide (i.2 ≤ 2)
      | 9 => decide (1 ≤ i.2) && decide (i.2 ≤ 60000)
      | 10 => decide (100 ≤ i.2) && decide (i.2 ≤ 16000000)
      | _ => false

/-- A copy passes the checks of R593. -/
def Dev.ovlOk (d : Dev) (x : Image) (o : Overlay) : Bool :=
  o.magic == 0x47484F56 && hashWords (Config.sha384 o.keyBytes) == d.roleHash 2 &&
    Config.ecdsa o.keyBytes o.signature o.signed && d.ovlItemsOk x o

/-- The overlay copies in the order of their trial. -/
def Slots.overlays (f : Slots) : List Overlay :=
  match readOverlay f.ovl0, readOverlay f.ovl1 with
  | some a, some b => if a.seq < b.seq then [b, a] else [a, b]
  | some a, none => [a]
  | none, some b => [b]
  | none, none => []

/-- Set a field to an item's value. -/
def Dev.setItem (d : Dev) (o : Overlay) (code : Nat) (f : Fld) : Dev :=
  match ovlItem o code with
  | some v => d.set f v
  | none => d

/-- Apply an overlay: the items that are register fields, and the controller memory buffer. -/
def Dev.applyOvl (d : Dev) (o : Overlay) : Dev :=
  let d := ((d.setItem o 2 RMT_HOST.FLOOR).setItem o 3 RMT_HOST.CEIL).setItem o 4 WTA_CFG.WL_DEV
  let d := (d.setItem o 6 CBL_PATROL.LAP_DAYS).setItem o 7 CBL_CTRL.AUTO_REBUILD
  let d := match ovlItem o 5 with
    | some v => d.onBpm fun b => { b with cmb := 16384 * v }
    | none => d
  (d.set LST_STATUS.OVL 1).set LST_OVL_SEQ.SEQ o.seq

/-- The overlay: the copy applied, if one is. -/
def Dev.loadOvl (d : Dev) (f : Slots) (x : Image) : Dev × Option Overlay :=
  match Slots.overlays f with
  | [] => (d, none)
  | l =>
    match l.find? fun o => d.ovlOk x o with
    | some o => (d.applyOvl o, some o)
    | none => ((d.set LST_STATUS.OVL 2).event 0x07 42 [], none)

/-! ### The end (R178, R594 steps 7 and 8, R608, R609) -/

/-- The pool without the controller memory buffer and the fenced pseudo-channels (R483). -/
def Dev.buildPool (d : Dev) : Dev :=
  let up := ((List.range 64).filter fun q => !d.pcFenced q).length
  let n := (bufTotal - d.bpm.cmb) / 64 * up
  (((d.onBpm fun b => { b with recs := [], unusable := [] }).set BPM_POOL.COUNT n).set BPM_FREE.COUNT n).set BPM_CTRL.EN 1

/-- Defaults that an overlay may give: feature 0x1A, the APST table, the power state at start. -/
def Dev.loadDefaults (d : Dev) (o : Option Overlay) : Dev :=
  let item := fun (c dflt : Nat) => (o.bind fun o => ovlItem o c).getD dflt
  let up := match d.flash.savedSpinup with
    | some b => b.toNat
    | none => item 1 1
  let t3 := item 9 50
  let d := (d.setDevFeat 0x1A up).onHst fun h => { h with apst := [(3, t3), (3, t3), (3, t3), (4, item 10 30000)] }
  ((d.setDevFeat 0x0C 1).set SYS_MODE.PS (item 8 0)).onSeq fun s => { s with opPs := item 8 0 }

/-- Every sequencer whose group has heads runs its idle loop (R178). -/
def Dev.startSequencers (d : Dev) : Dev :=
  d.each (List.finRange 4) fun g d => if d.hasHeads g then d.fmtCtrlWrite .control g 0x0010_0003#32 else d

/-- Lock, ready, and the engines that LAST_LOAD enables. -/
def Dev.ready (d : Dev) : Dev :=
  let d := ((d.showCeil.followWays).startSequencers).set LST_LOCK.LOCK 1
  let d := ((d.set HST_CTRL.EN 1).set QUE_CTRL.EN 1).set HST_FN_STATUS.PRESENT 1
  (d.onSeq fun s => { s with loaded := true }).raise SYS_INT_STATUS.READY

/-- The mode after LAST_LOAD (R596 step 7, R605). -/
def Dev.afterLoad (d : Dev) (cause : Option Nat) : Dev :=
  let up := featAt d.hst.feats 0x1A 1 == 1 || d.seq.turning
  let d := match cause with
    | some c =>
      let d := d.enterSafe c
      if up && d.safeReads then d.startInSafe else d
    | none => if up then d.enterSpinUp else d.setMode .standby
  d.onSeq fun s => { s with turning := false }

/-- LAST_LOAD (R594). -/
def execLastLoad (s : State) : Out :=
  s.run fun d =>
    if d.mode != .lastLoad then d
    else
      let d := d.each [2, 5, 9, 10, 11, 12, 13, 14, 15, 16, 17, 19, 20] fun i d => d.startIsland i
      let (d, img) := if s.slots.size < 0x400_0000 then (d, none) else d.trySlots (Slots.order s.slots)
      let (d, bad) := d.patchAll d.patchList
      let d := match img with
        | some x => d.each x.micro fun p d => d.putStore p.1 p.2
        | none => d
      let (d, keys) := d.readStore
      let (d, ovl) := match img with
        | some x => d.loadOvl s.slots x
        | none => (d, none)
      let d := ((d.buildPool).loadDefaults ovl).ready
      let cause :=
        if img.isNone then some 5
        else if !(d.stackOk 0 && d.stackOk 1) then some 4
        else if !keys then some 3
        else if d.on FLT_FA0.VALID then some 1
        else if bad then some 2
        else none
      d.afterLoad cause

end Sys2Proof.Machine
end

