-- ==== Sys2Proof/Machine/Starts.lean ====
section
/-! DEFINITION. Head-load calibration and the end of HEAD_LOAD (R48 to R51, R134, R596), retries of a start (R597), the
idle timer and patrol's part in it (R609, R610), and thermal throttling (R625). -/

namespace Sys2Proof.Machine

/-! ### Calibration (R48, R50, R51) -/

/-- Heads of a group that are failed when calibration starts: the mask that the machine holds, with the one on the media
while the journal has not been recovered. -/
def Dev.knownFailed (d : Dev) (g : Grp) : Nat :=
  if d.seq.recovered then d.failedMask g else d.failedMask g ||| d.media.failed[g]

/-- Arrivals of a head, by cylinder, at the calibration cylinders where it gives a mark. -/
def arrivalsOf (angular : List (LaneId × Nat × Option Int)) (n : LaneId) : List (Nat × Int) :=
  angular.filterMap fun e => if e.1 = n then e.2.2.map fun a => (e.2.1, a) else none

/-- Offsets of a head against a reference, by calibration cylinder. -/
def offsetsOf (mine ref : List (Nat × Int)) : List (Nat × Int) :=
  mine.filterMap fun p => (ref.find? fun q => q.1 == p.1).map fun q => (p.1, p.2 - q.2)

/-- The largest magnitude of a list. -/
def largest (l : List Int) : Nat := l.foldl (fun m x => max m x.natAbs) 0

/-- Some offset exceeds 1 % of a wedge interval (R50). -/
def Dev.beyondOne (d : Dev) (g : Grp) (l : List (Nat × Int)) : Bool :=
  l.any fun p => decide (256 * d.cpw g (d.zoneIx g p.1) < 100 * p.2.natAbs)

/-- The reference heads tried in turn: those that are excluded with the largest offset measured against them, then the
reference that stands. -/
def Dev.pickRef (d : Dev) (g : Grp) (at_ : HeadIx → List (Nat × Int)) : List HeadIx → List (HeadIx × Nat) × Option HeadIx
  | [] => ([], none)
  | r :: t =>
    let ofs := t.map fun i => offsetsOf (at_ i) (at_ r)
    let bad := (ofs.filter fun l => d.beyondOne g l).length
    if t.length < 2 * bad then
      let (gone, ref) := d.pickRef g at_ t
      ((r, largest ((ofs.flatMap id).map Prod.snd)) :: gone, ref)
    else ([], some r)

/-- A head is excluded, with the record of R51: head, rule, measured value. -/
def Dev.exclude (d : Dev) (g : Grp) (i : HeadIx) (rule value : Nat) : Dev :=
  (d.onSeq fun s => { s with excluded := setBit s.excluded (laneOf g i) }).event 0x03 1 [laneOf g i, rule, value]

/-- Calibrate one group. -/
def Dev.calibrateGroup (radial : List (LaneId × Int)) (angular : List (LaneId × Nat × Option Int)) (g : Grp) (d : Dev) : Dev :=
  let known := d.knownFailed g
  let mem := (List.finRange 8).filter fun (i : HeadIx) => bit (d.get FMT_LANES.PRESENT g) i && !bit known i
  let at_ := fun (i : HeadIx) => arrivalsOf angular (laneOf g i)
  let marked := mem.filter fun i => !(at_ i).isEmpty
  let (gone, ref) := d.pickRef g at_ marked
  let rad := fun (i : HeadIx) => largest ((radial.filter fun p => p.1 == laneOf g i).map Prod.snd)
  let d := d.each (mem.filter fun i => decide (3500 < rad i)) fun i d => d.exclude g i 48 (rad i)
  let d := d.each (mem.filter fun i => (at_ i).isEmpty) fun i d => d.exclude g i 50 0xFFFF_FFFF
  let d := d.each gone fun p d => d.exclude g p.1 50 p.2
  match ref with
  | none => d
  | some r =>
    let others := marked.filter fun i => !(gone.any fun p => p.1 == i)
    d.each others fun i d =>
      let ofs := offsetsOf (at_ i) (at_ r)
      -- the gates are shifted by the offset of the zone in use, at its first calibration cylinder (log entry 132)
      let d := match ofs.find? fun p => d.zoneIx g p.1 == d.wls[g].zone with
        | some p => (d.setLaneOfs g i p.2).onWls g fun w => { w with frac := w.frac.set i 0 }
        | none => d
      if d.beyondOne g ofs then d.exclude g i 50 (largest (ofs.map Prod.snd)) else d

/-- HEAD_LOAD, or its phase of a start in SAFE (R596, R605). -/
def Dev.headLoads (d : Dev) : Bool := d.mode == .headLoad || (d.mode == .safe && d.seq.safeStart == 2)

/-- Some group still loads its heads. -/
def Dev.loading (d : Dev) : Bool := (List.finRange 4).any fun g => d.srvState g == stLoading || d.srv[g].loadDue

/-- HEAD_LOAD_CALIBRATION (R596 step 10): the measured radial offsets, in nm, and the arrivals of the wedge marks by
zone, in 1/256 cell of that zone on one scale for the group, none where a head gives no mark. -/
def execHeadLoadCalibration (radial : List (LaneId × Int)) (angular : List (LaneId × Nat × Option Int)) (s : State) : Out :=
  s.runIn 7 fun d =>
    if !d.headLoads || d.loading || d.seq.cal then d
    else
      let d := d.onSeq fun s => { s with cal := true, excluded := 0 }
      d.each ((List.finRange 4).filter fun (g : Grp) => d.hasHeads g && d.loaded g) fun g d =>
        d.calibrateGroup radial angular g

/-- HEAD_LOAD_END (R51, R596 step 12, R600, R605). -/
def execHeadLoadEnd (s : State) : Out :=
  s.runIn 7 fun d =>
    if !d.headLoads || d.loading || !d.seq.cal || !d.seq.step11 then d
    else
      let out := d.seq.excluded
      let lanes := (List.finRange 32).filter fun (n : LaneId) => bit out n
      let d := d.each lanes fun n d => d.memberFailed n.grp n.ix
      let d := d.onSeq fun s => { s with excluded := 0, loads := false }
      if d.mode == .safe then
        let d := d.onSeq fun s => { s with safeStart := 3 }
        if d.seq.spinHeld = some false then (d.onSeq fun s => { s with spinHeld := none }).startSpinDown else d
      else ((d.set RMT_CTRL.EN 1).set CBL_CTRL.EN 1).enterActive

/-! ### Starts (R597) -/

/-- START_RETRY (R597): 10 s after a FAULT, with the gates off. -/
def execStartRetry (s : State) : Out :=
  s.runIn 7 fun d => if d.startRuns && d.spnState == spFault then d.issueStart else d

/-- SPIN_UP_TIMEOUT (R597): 25 s without REGULATED. -/
def execSpinUpTimeout (s : State) : Out :=
  s.runIn 7 fun d => if d.startRuns && !d.on SPN_STATUS.REGULATED then d.enterSafe 6 else d

/-! ### Idle (R609) -/

/-- No function has an outstanding command: none in a queue, none at work, none that waits for a record or a long
operation; Asynchronous Event Requests do not count. -/
def Dev.noCommands (d : Dev) : Bool :=
  d.que.cmds.isEmpty && d.band.clients.isEmpty && d.band.deletes.isEmpty &&
    d.hst.fns.toList.all fun f => f.sqs.all fun q => q.entries.isEmpty

/-- The conditions under which the idle timer counts (R609). -/
def Dev.idleCounts (d : Dev) : Bool :=
  d.inMode [.active, .lightIdle] && d.noCommands && d.heldEmpty && !d.workDue && !d.seq.patrolDue &&
    d.seq.spinDown == 0 && d.seq.prep == 0 && (List.finRange 4).all fun (g : Grp) => (d.grpq[g].step).isNone

/-- IDLE_TIMER (R600, R609): the time of the present state's APST entry has run out. -/
def execIdleTimer (s : State) : Out :=
  s.runIn 7 fun d =>
    match d.hst.apst[d.get SYS_MODE.PS]? with
    | some (t, ms) =>
      if !d.idleCounts || featAt d.hst.feats 0x0C 1 != 1 || ms == 0 then d
      else if t = 3 ∧ d.mode = .active then d.enterIdle .lightIdle 3
      else if t = 4 then d.enterIdle .deepIdle 4
      else d
    | none => d

/-- PATROL_DUE (R609): patrol's lap progress trails the elapsed fraction of LAP_DAYS; it ends an idle mode. -/
def execPatrolDue (s : State) : Out :=
  s.runIn 7 fun d =>
    if d.on CBL_CTRL.PATROL_EN then (d.onSeq fun s => { s with patrolDue := true }).idleExit else d

/-! ### Temperature (R625) -/

/-- A reading of the sensors: the junction temperature in 0.25 °C and the sensor that gives it. -/
def Dev.temperature (d : Dev) (quarters : Int) (sensor : Nat) : Dev :=
  let d := (d.set SYS_TEMP.TJ (twos 12 quarters)).set SYS_TEMP.SENSOR sensor
  if sext 8 (d.get SYS_TEMP.MAX_SEEN) < quarters / 4 then d.set SYS_TEMP.MAX_SEEN (twos 8 (quarters / 4)) else d

/-- THERMAL_THROTTLE (R625): a reading; at the maximum less 3 °C the limits of PS2 apply, at the maximum plus 10 °C
site 448 reports an FA. -/
def execThermalThrottle (quarters : Int) (sensor : Fin 16) (s : State) : Out :=
  s.run fun d =>
    let d := d.temperature quarters sensor
    let max : Int := Config.tjMax
    let d := if 4 * (max - 3) ≤ quarters ∧ !d.on SYS_TEMP.THROTTLE then
        ((d.set SYS_TEMP.THROTTLE 1).followWays).event 0x02 44 [twos 32 quarters, sensor]
      else d
    if 4 * (max + 10) ≤ quarters then d.report ⟨448, 2, 0, 0, 0, 0⟩ else d

/-- THROTTLE_RELEASE (R625): the junction has stayed below the maximum less 6 °C for 1 s. -/
def execThrottleRelease (quarters : Int) (sensor : Fin 16) (s : State) : Out :=
  s.run fun d =>
    let d := d.temperature quarters sensor
    if quarters < 4 * ((Config.tjMax : Int) - 6) then (d.set SYS_TEMP.THROTTLE 0).followWays else d

end Sys2Proof.Machine
end

