-- ==== Sys2Proof/Machine/Dispatch.lean ====
section
/-! DEFINITION. The dispatch: one arm per row of the table, each one call of the row's meaning. -/

namespace Sys2Proof.Machine

def exec (i : Instr) (s : State) : Host.Outcome State Fault Refusal :=
  match i with
  | .registerWrite who addr size v => Sys2Proof.Machine.execRegisterWrite who addr size v s
  | .crossingTimeout who addr write => Sys2Proof.Machine.execCrossingTimeout who addr write s
  | .islandStop who v => Sys2Proof.Machine.execIslandStop who v s
  | .islandStopped k => Sys2Proof.Machine.execIslandStopped k s
  | .islandStart who v => Sys2Proof.Machine.execIslandStart who v s
  | .islandRunning k => Sys2Proof.Machine.execIslandRunning k s
  | .apertureBaseWrite who v => Sys2Proof.Machine.execApertureBaseWrite who v s
  | .busErrClear who v same => Sys2Proof.Machine.execBusErrClear who v same s
  | .pairLoStage who addr v => Sys2Proof.Machine.execPairLoStage who addr v s
  | .pairHiCommit who addr v => Sys2Proof.Machine.execPairHiCommit who addr v s
  | .snapshotRead who addr size => Sys2Proof.Machine.execSnapshotRead who addr size s
  | .laneSectorStart n x => Sys2Proof.Machine.execLaneSectorStart n x s
  | .thermalAsperity n first last => Sys2Proof.Machine.execThermalAsperity n first last s
  | .mainPassEnd n p => Sys2Proof.Machine.execMainPassEnd n p s
  | .recoveryPassEnd n p => Sys2Proof.Machine.execRecoveryPassEnd n p s
  | .bufBudgetExpiry n cyl sect => Sys2Proof.Machine.execBufBudgetExpiry n cyl sect s
  | .reconstructionDelivered n cyl sect => Sys2Proof.Machine.execReconstructionDelivered n cyl sect s
  | .peerPin n from_ cyl sect => Sys2Proof.Machine.execPeerPin n from_ cyl sect s
  | .peerMemberRequest n from_ cyl sect => Sys2Proof.Machine.execPeerMemberRequest n from_ cyl sect s
  | .laneDisable who n v => Sys2Proof.Machine.execLaneDisable who n v s
  | .calGo who n v => Sys2Proof.Machine.execCalGo who n v s
  | .calibrationEnd g k => Sys2Proof.Machine.execCalibrationEnd g k s
  | .adaptReset who n v => Sys2Proof.Machine.execAdaptReset who n v s
  | .lanePreambleWrite who n v => Sys2Proof.Machine.execLanePreambleWrite who n v s
  | .sbufHold who n v => Sys2Proof.Machine.execSbufHold who n v s
  | .holdPin n => Sys2Proof.Machine.execHoldPin n s
  | .setWindowWrite who n ofs v => Sys2Proof.Machine.execSetWindowWrite who n ofs v s
  | .wlsWedge g w => Sys2Proof.Machine.execWlsWedge g w s
  | .wlsEnable who g v => Sys2Proof.Machine.execWlsEnable who g v s
  | .wlsDisable who g v => Sys2Proof.Machine.execWlsDisable who g v s
  | .wlsZoneChange g z => Sys2Proof.Machine.execWlsZoneChange g z s
  | .wlsWriteCfgWrite who g v => Sys2Proof.Machine.execWlsWriteCfgWrite who g v s
  | .writeSlot w => Sys2Proof.Machine.execWriteSlot w s
  | .writeInhibit g mask causes => Sys2Proof.Machine.execWriteInhibit g mask causes s
  | .tokenRequest g mask => Sys2Proof.Machine.execTokenRequest g mask s
  | .tokenGrant => Sys2Proof.Machine.execTokenGrant s
  | .tokenWithdraw g => Sys2Proof.Machine.execTokenWithdraw g s
  | .paCmd who g v => Sys2Proof.Machine.execPaCmd who g v s
  | .preampFrameEnd g data parity => Sys2Proof.Machine.execPreampFrameEnd g data parity s
  | .csStageWrite who word part v => Sys2Proof.Machine.execCsStageWrite who word part v s
  | .csCommitWrite who word v => Sys2Proof.Machine.execCsCommitWrite who word v s
  | .fmtStep g ecc late => Sys2Proof.Machine.execFmtStep g ecc late s
  | .waitEnd g => Sys2Proof.Machine.execWaitEnd g s
  | .waitTimeout g => Sys2Proof.Machine.execWaitTimeout g s
  | .hookBudgetExpiry g => Sys2Proof.Machine.execHookBudgetExpiry g s
  | .haltReq who g v => Sys2Proof.Machine.execHaltReq who g v s
  | .fmtStart who g v => Sys2Proof.Machine.execFmtStart who g v s
  | .fmtSingleStep who g v => Sys2Proof.Machine.execFmtSingleStep who g v s
  | .fmtEnable who g v => Sys2Proof.Machine.execFmtEnable who g v s
  | .fmtDisable who g v => Sys2Proof.Machine.execFmtDisable who g v s
  | .requestPost g => Sys2Proof.Machine.execRequestPost g s
  | .slotDone g => Sys2Proof.Machine.execSlotDone g s
  | .reqDone g => Sys2Proof.Machine.execReqDone g s
  | .reqFailed g cause => Sys2Proof.Machine.execReqFailed g cause s
  | .needRev g => Sys2Proof.Machine.execNeedRev g s
  | .release g => Sys2Proof.Machine.execRelease g s
  | .abortReport g => Sys2Proof.Machine.execAbortReport g s
  | .servoRecord g k r => Sys2Proof.Machine.execServoRecord g k r s
  | .servoSample g => Sys2Proof.Machine.execServoSample g s
  | .headLost g k => Sys2Proof.Machine.execHeadLost g k s
  | .onTrack g => Sys2Proof.Machine.execOnTrack g s
  | .settleSlow g => Sys2Proof.Machine.execSettleSlow g s
  | .followingError g => Sys2Proof.Machine.execFollowingError g s
  | .inhibitRelease g k => Sys2Proof.Machine.execInhibitRelease g k s
  | .coefWrite who g ofs v => Sys2Proof.Machine.execCoefWrite who g ofs v s
  | .positioningRequest g r => Sys2Proof.Machine.execPositioningRequest g r s
  | .seek who g v => Sys2Proof.Machine.execSeek who g v s
  | .load who g v => Sys2Proof.Machine.execLoad who g v s
  | .unload who g v => Sys2Proof.Machine.execUnload who g v s
  | .loadTimeout g => Sys2Proof.Machine.execLoadTimeout g s
  | .parked g => Sys2Proof.Machine.execParked g s
  | .unloadTimeout g => Sys2Proof.Machine.execUnloadTimeout g s
  | .upstreamFrame g f => Sys2Proof.Machine.execUpstreamFrame g f s
  | .upstreamTimeout g => Sys2Proof.Machine.execUpstreamTimeout g s
  | .srvEnable who g v => Sys2Proof.Machine.execSrvEnable who g v s
  | .srvDisable who g v => Sys2Proof.Machine.execSrvDisable who g v s
  | .retractRequest g cause => Sys2Proof.Machine.execRetractRequest g cause s
  | .retractExit g => Sys2Proof.Machine.execRetractExit g s
  | .retractTimeout g => Sys2Proof.Machine.execRetractTimeout g s
  | .manual who g v => Sys2Proof.Machine.execManual who g v s
  | .auto who g v => Sys2Proof.Machine.execAuto who g v s
  | .fwRetract who g v => Sys2Proof.Machine.execFwRetract who g v s
  | .icuGo who g v => Sys2Proof.Machine.execIcuGo who g v s
  | .icuStop who g v => Sys2Proof.Machine.execIcuStop who g v s
  | .icuProgramEnd g => Sys2Proof.Machine.execIcuProgramEnd g s
  | .capArm who g v => Sys2Proof.Machine.execCapArm who g v s
  | .capAbort who g v => Sys2Proof.Machine.execCapAbort who g v s
  | .trigNow who g v => Sys2Proof.Machine.execTrigNow who g v s
  | .captureEnd g => Sys2Proof.Machine.execCaptureEnd g s
  | .pwmPeriod p => Sys2Proof.Machine.execPwmPeriod p s
  | .spnStart who v => Sys2Proof.Machine.execSpnStart who v s
  | .spnStop who v => Sys2Proof.Machine.execSpnStop who v s
  | .spnCoast who v => Sys2Proof.Machine.execSpnCoast who v s
  | .keRecheck who v => Sys2Proof.Machine.execKeRecheck who v s
  | .spnEnable who v => Sys2Proof.Machine.execSpnEnable who v s
  | .spnDisable who v => Sys2Proof.Machine.execSpnDisable who v s
  | .spnTargetWrite who v => Sys2Proof.Machine.execSpnTargetWrite who v s
  | .zeroCrossing ph us => Sys2Proof.Machine.execZeroCrossing ph us s
  | .coastCheckTimeout => Sys2Proof.Machine.execCoastCheckTimeout s
  | .revBrakeRest => Sys2Proof.Machine.execRevBrakeRest s
  | .revBrakeTimeout => Sys2Proof.Machine.execRevBrakeTimeout s
  | .hfiConverged => Sys2Proof.Machine.execHfiConverged s
  | .hfiTimeout => Sys2Proof.Machine.execHfiTimeout s
  | .polarityTestEnd posPeak negPeak => Sys2Proof.Machine.execPolarityTestEnd posPeak negPeak s
  | .obsHandover => Sys2Proof.Machine.execObsHandover s
  | .handoverTimeout => Sys2Proof.Machine.execHandoverTimeout s
  | .keCheckEnd crossings peak speed => Sys2Proof.Machine.execKeCheckEnd crossings peak speed s
  | .obsLost mismatch => Sys2Proof.Machine.execObsLost mismatch s
  | .obsReacq => Sys2Proof.Machine.execObsReacq s
  | .zcMissed => Sys2Proof.Machine.execZcMissed s
  | .zcLost => Sys2Proof.Machine.execZcLost s
  | .wedgeRegulation time => Sys2Proof.Machine.execWedgeRegulation time s
  | .regulated errs => Sys2Proof.Machine.execRegulated errs s
  | .rateMatchWindow => Sys2Proof.Machine.execRateMatchWindow s
  | .rmtHostWrite who v => Sys2Proof.Machine.execRmtHostWrite who v s
  | .chopFault => Sys2Proof.Machine.execChopFault s
  | .ovRecover => Sys2Proof.Machine.execOvRecover s
  | .powerLoss link => Sys2Proof.Machine.execPowerLoss link s
  | .pfRelease => Sys2Proof.Machine.execPfRelease s
  | .flushTimeLimit => Sys2Proof.Machine.execFlushTimeLimit s
  | .spinDownDestaged => Sys2Proof.Machine.execSpinDownDestaged s
  | .stopDone => Sys2Proof.Machine.execStopDone s
  | .bandTableChange c => Sys2Proof.Machine.execBandTableChange c s
  | .bandTableCommit => Sys2Proof.Machine.execBandTableCommit s
  | .xlateGo who v => Sys2Proof.Machine.execXlateGo who v s
  | .laneOffTimeout n => Sys2Proof.Machine.execLaneOffTimeout n s
  | .cblRebuild who v => Sys2Proof.Machine.execCblRebuild who v s
  | .cblRetireHead who v => Sys2Proof.Machine.execCblRetireHead who v s
  | .cblPause who v => Sys2Proof.Machine.execCblPause who v s
  | .cblResume who v => Sys2Proof.Machine.execCblResume who v s
  | .journalCommit => Sys2Proof.Machine.execJournalCommit s
  | .journalRecovery => Sys2Proof.Machine.execJournalRecovery s
  | .cobblerStep g => Sys2Proof.Machine.execCobblerStep g s
  | .stepEnd g => Sys2Proof.Machine.execStepEnd g s
  | .perst low => Sys2Proof.Machine.execPerst low s
  | .linkUp speed width => Sys2Proof.Machine.execLinkUp speed width s
  | .linkDown => Sys2Proof.Machine.execLinkDown s
  | .functionLevelReset f => Sys2Proof.Machine.execFunctionLevelReset f s
  | .submissionDoorbell q entries => Sys2Proof.Machine.execSubmissionDoorbell q entries s
  | .commandFetch => Sys2Proof.Machine.execCommandFetch s
  | .fetchError q cid cause object addr => Sys2Proof.Machine.execFetchError q cid cause object addr s
  | .lockGrant f => Sys2Proof.Machine.execLockGrant f s
  | .bufferGrant f => Sys2Proof.Machine.execBufferGrant f s
  | .writeDataHeld f => Sys2Proof.Machine.execWriteDataHeld f s
  | .transferDone f => Sys2Proof.Machine.execTransferDone f s
  | .scheduleChoice g => Sys2Proof.Machine.execScheduleChoice g s
  | .positioningDeadline g => Sys2Proof.Machine.execPositioningDeadline g s
  | .namespaceDeleteDrained nsid => Sys2Proof.Machine.execNamespaceDeleteDrained nsid s
  | .memoryRead req addr e mirror => Sys2Proof.Machine.execMemoryRead req addr e mirror s
  | .bufferWrite req addr data => Sys2Proof.Machine.execBufferWrite req addr data s
  | .mergeWriteOut => Sys2Proof.Machine.execMergeWriteOut s
  | .cacheFill line => Sys2Proof.Machine.execCacheFill line s
  | .wayOff who v => Sys2Proof.Machine.execWayOff who v s
  | .wayOn who v => Sys2Proof.Machine.execWayOn who v s
  | .wayCleaned w => Sys2Proof.Machine.execWayCleaned w s
  | .scratchCountWrite who v => Sys2Proof.Machine.execScratchCountWrite who v s
  | .cacheDisable who v => Sys2Proof.Machine.execCacheDisable who v s
  | .cacheEnable who v => Sys2Proof.Machine.execCacheEnable who v s
  | .cacheDrained => Sys2Proof.Machine.execCacheDrained s
  | .maintClean who v => Sys2Proof.Machine.execMaintClean who v s
  | .maintInvalidate who v => Sys2Proof.Machine.execMaintInvalidate who v s
  | .maintCleanInv who v => Sys2Proof.Machine.execMaintCleanInv who v s
  | .maintDone => Sys2Proof.Machine.execMaintDone s
  | .keystoneRead k => Sys2Proof.Machine.execKeystoneRead k s
  | .keystoneSweep => Sys2Proof.Machine.execKeystoneSweep s
  | .keystoneWrite who k v => Sys2Proof.Machine.execKeystoneWrite who k v s
  | .scrubRead m e mirror writeBetween => Sys2Proof.Machine.execScrubRead m e mirror writeBetween s
  | .scrubSlow m => Sys2Proof.Machine.execScrubSlow m s
  | .bpmAlloc port r n mirror => Sys2Proof.Machine.execBpmAlloc port r n mirror s
  | .bpmAllocGrant => Sys2Proof.Machine.execBpmAllocGrant s
  | .bpmShare port r b k last => Sys2Proof.Machine.execBpmShare port r b k last s
  | .bpmRelease port r b => Sys2Proof.Machine.execBpmRelease port r b s
  | .bpmFree port r b => Sys2Proof.Machine.execBpmFree port r b s
  | .bpmQuery port r b => Sys2Proof.Machine.execBpmQuery port r b s
  | .shuStart who c v => Sys2Proof.Machine.execShuStart who c v s
  | .shuAbort who c v => Sys2Proof.Machine.execShuAbort who c v s
  | .shuJobEnd c moved poison => Sys2Proof.Machine.execShuJobEnd c moved poison s
  | .shuDisable who v => Sys2Proof.Machine.execShuDisable who v s
  | .scanContextGrant => Sys2Proof.Machine.execScanContextGrant s
  | .sourceAssert src => Sys2Proof.Machine.execSourceAssert src s
  | .ictClaim k => Sys2Proof.Machine.execIctClaim k s
  | .ictEoi k v => Sys2Proof.Machine.execIctEoi k v s
  | .srcCfgWrite who src v => Sys2Proof.Machine.execSrcCfgWrite who src v s
  | .swiSet who hi v => Sys2Proof.Machine.execSwiSet who hi v s
  | .coreSleep k v => Sys2Proof.Machine.execCoreSleep k v s
  | .vigilClock => Sys2Proof.Machine.execVigilClock s
  | .vigilTimerMatch => Sys2Proof.Machine.execVigilTimerMatch s
  | .vigilClockLoss => Sys2Proof.Machine.execVigilClockLoss s
  | .vigilClockRestore => Sys2Proof.Machine.execVigilClockRestore s
  | .faultReport r => Sys2Proof.Machine.execFaultReport r s
  | .fenceComplete => Sys2Proof.Machine.execFenceComplete s
  | .fenceCmd who v => Sys2Proof.Machine.execFenceCmd who v s
  | .fenceLift who v => Sys2Proof.Machine.execFenceLift who v s
  | .ceWindowEnd => Sys2Proof.Machine.execCeWindowEnd s
  | .faultInject who v => Sys2Proof.Machine.execFaultInject who v s
  | .almanacRecord r => Sys2Proof.Machine.execAlmanacRecord r s
  | .almanacAppend => Sys2Proof.Machine.execAlmanacAppend s
  | .almErase who v => Sys2Proof.Machine.execAlmErase who v s
  | .almanacCursor who v => Sys2Proof.Machine.execAlmanacCursor who v s
  | .almanacNext who v => Sys2Proof.Machine.execAlmanacNext who v s
  | .almanacLoadDone who => Sys2Proof.Machine.execAlmanacLoadDone who s
  | .almanacPost who v => Sys2Proof.Machine.execAlmanacPost who v s
  | .trcClear who w v => Sys2Proof.Machine.execTrcClear who w v s
  | .entropyFail => Sys2Proof.Machine.execEntropyFail s
  | .entropyRecovered => Sys2Proof.Machine.execEntropyRecovered s
  | .coldReset programmed => Sys2Proof.Machine.execColdReset programmed s
  | .supplyUndervoltage => Sys2Proof.Machine.execSupplyUndervoltage s
  | .coldResetRelease pcOk => Sys2Proof.Machine.execColdResetRelease pcOk s
  | .warmResetRequest who v => Sys2Proof.Machine.execWarmResetRequest who v s
  | .warmReset => Sys2Proof.Machine.execWarmReset s
  | .lastLoad => Sys2Proof.Machine.execLastLoad s
  | .headLoadCalibration radial angular => Sys2Proof.Machine.execHeadLoadCalibration radial angular s
  | .headLoadEnd => Sys2Proof.Machine.execHeadLoadEnd s
  | .startRetry => Sys2Proof.Machine.execStartRetry s
  | .spinUpTimeout => Sys2Proof.Machine.execSpinUpTimeout s
  | .idleTimer => Sys2Proof.Machine.execIdleTimer s
  | .thermalThrottle quarters sensor => Sys2Proof.Machine.execThermalThrottle quarters sensor s
  | .throttleRelease quarters sensor => Sys2Proof.Machine.execThrottleRelease quarters sensor s
  | .createIoSq q cid qid size u => Sys2Proof.Machine.execCreateIoSq q cid qid size u s
  | .deleteIoSq q cid qid => Sys2Proof.Machine.execDeleteIoSq q cid qid s
  | .createIoCq q cid qid size vector => Sys2Proof.Machine.execCreateIoCq q cid qid size vector s
  | .deleteIoCq q cid qid => Sys2Proof.Machine.execDeleteIoCq q cid qid s
  | .getLogPage q cid lid nsid ofs len => Sys2Proof.Machine.execGetLogPage q cid lid nsid ofs len s
  | .identify q cid cns nsid => Sys2Proof.Machine.execIdentify q cid cns nsid s
  | .abort q cid sqid target => Sys2Proof.Machine.execAbort q cid sqid target s
  | .setFeatures q cid fid nsid cdw11 save => Sys2Proof.Machine.execSetFeatures q cid fid nsid cdw11 save s
  | .getFeatures q cid fid nsid => Sys2Proof.Machine.execGetFeatures q cid fid nsid s
  | .powerManagement q cid ps => Sys2Proof.Machine.execPowerManagement q cid ps s
  | .volatileWriteCache q cid enable => Sys2Proof.Machine.execVolatileWriteCache q cid enable s
  | .autonomousPowerStateTransition q cid apste table => Sys2Proof.Machine.execAutonomousPowerStateTransition q cid apste table s
  | .spinupControl q cid up save => Sys2Proof.Machine.execSpinupControl q cid up save s
  | .spindleBandLimits q cid floor ceil => Sys2Proof.Machine.execSpindleBandLimits q cid floor ceil s
  | .spinDown q cid => Sys2Proof.Machine.execSpinDown q cid s
  | .spinUp q cid => Sys2Proof.Machine.execSpinUp q cid s
  | .asyncEventRequest q cid => Sys2Proof.Machine.execAsyncEventRequest q cid s
  | .namespaceCreate q cid nsze ncap fmt => Sys2Proof.Machine.execNamespaceCreate q cid nsze ncap fmt s
  | .namespaceDelete q cid nsid => Sys2Proof.Machine.execNamespaceDelete q cid nsid s
  | .namespaceAttachment q cid nsid attach ctrls => Sys2Proof.Machine.execNamespaceAttachment q cid nsid attach ctrls s
  | .firmwareImageDownload q cid ofs data => Sys2Proof.Machine.execFirmwareImageDownload q cid ofs data s
  | .firmwareCommit q cid slot action => Sys2Proof.Machine.execFirmwareCommit q cid slot action s
  | .deviceSelfTest q cid code => Sys2Proof.Machine.execDeviceSelfTest q cid code s
  | .virtualizationManagement q cid act cntlid vq n => Sys2Proof.Machine.execVirtualizationManagement q cid act cntlid vq n s
  | .formatNvm q cid nsid fmt ses extended => Sys2Proof.Machine.execFormatNvm q cid nsid fmt ses extended s
  | .sanitizeExitFailure q cid => Sys2Proof.Machine.execSanitizeExitFailure q cid s
  | .sanitizeOverwrite q cid owpass pattern => Sys2Proof.Machine.execSanitizeOverwrite q cid owpass pattern s
  | .sanitizeCryptoErase q cid => Sys2Proof.Machine.execSanitizeCryptoErase q cid s
  | .invalidOpcode q cid opcode => Sys2Proof.Machine.execInvalidOpcode q cid opcode s
  | .flush q a => Sys2Proof.Machine.execFlush q a s
  | .write q a data => Sys2Proof.Machine.execWrite q a data s
  | .read q a => Sys2Proof.Machine.execRead q a s
  | .compare q a data => Sys2Proof.Machine.execCompare q a data s
  | .writeZeroes q a => Sys2Proof.Machine.execWriteZeroes q a s
  | .datasetManagement q a => Sys2Proof.Machine.execDatasetManagement q a s
  | .verify q a => Sys2Proof.Machine.execVerify q a s
  | .copy q a fmt src => Sys2Proof.Machine.execCopy q a fmt src s
  | .scanRead q a desc bufLen => Sys2Proof.Machine.execScanRead q a desc bufLen s
  | .challenge q cid => Sys2Proof.Machine.execChallenge q cid s
  | .open q cid payload => Sys2Proof.Machine.execOpen q cid payload s
  | .close q cid => Sys2Proof.Machine.execClose q cid s
  | .sessionStatus q cid => Sys2Proof.Machine.execSessionStatus q cid s
  | .securityProtocolList q cid => Sys2Proof.Machine.execSecurityProtocolList q cid s
  | .salvage q cid band first count => Sys2Proof.Machine.execSalvage q cid band first count s
  | .salvageStatus q cid => Sys2Proof.Machine.execSalvageStatus q cid s
  | .salvageData q cid => Sys2Proof.Machine.execSalvageData q cid s
  | .setKey q cid role key => Sys2Proof.Machine.execSetKey q cid role key s
  | .roleRetireHead q cid group head => Sys2Proof.Machine.execRoleRetireHead q cid group head s
  | .countersClear q cid mask => Sys2Proof.Machine.execCountersClear q cid mask s
  | .serviceEnter q cid => Sys2Proof.Machine.execServiceEnter q cid s
  | .serviceLeave q cid => Sys2Proof.Machine.execServiceLeave q cid s
  | .roleAlmanacErase q cid => Sys2Proof.Machine.execRoleAlmanacErase q cid s
  | .keyStatus q cid => Sys2Proof.Machine.execKeyStatus q cid s
  | .sessionExpiry f => Sys2Proof.Machine.execSessionExpiry f s
  | .nonceExpiry f => Sys2Proof.Machine.execNonceExpiry f s
  | .lockoutEnd => Sys2Proof.Machine.execLockoutEnd s
  | .controllerReset c => Sys2Proof.Machine.execControllerReset c s
  | .patrolDue => Sys2Proof.Machine.execPatrolDue s

end Sys2Proof.Machine
end

