-- ==== Sys2Proof/Safety.lean ====
section
/-! DEFINITION. The terms that claims are stated in: what it is for a command to complete, the forms of the state that every
command keeps, and runs. -/

namespace Sys2Proof.Machine

/-- The command completes: exec answers a next state, with the queue as it was, of which P holds. -/
def Completes (i : Instr) (s : State) (P : Dev → Prop) : Prop :=
  ∃ t, exec i s = .next t ∧ t.pending = s.pending ∧ P t.dev

/-- A write of an aligned word passes the tests of R628 up to ISLAND_OFF, and no cold reset is held. -/
def Dev.takes (d : Dev) (who : Who) (a : Nat) : Bool :=
  d.get SYS_MODE.MODE != 1 && (d.refusal ⟨who, a, true, 4⟩).isNone

/-- The value of event counter j, both halves of TRC_CNT. -/
def Dev.counter (d : Dev) (j : Nat) : Nat := d.get TRC_CNT_LO.CNT 0 j + 2 ^ 32 * d.get TRC_CNT_HI.CNT 0 j

/-- Nothing but the register file differs, and there only the registers of the keys listed. -/
def Dev.sameBut (d t : Dev) (keys : List Nat) : Prop :=
  { t with regs := d.regs } = d ∧ ∀ r i j, r.key ∉ keys → t.word r i j = d.word r i j

/-- The lane has no ladder in its buffered steps, so that its recovery decoder takes up none. -/
def Dev.quiet (d : Dev) (n : LaneId) : Prop := ∀ y ∈ d.lanes[n].ladders, y.waits = true

/-- No lane of the group has a ladder in its buffered steps. -/
def Dev.groupQuiet (d : Dev) (g : Grp) : Prop := ∀ i : HeadIx, d.quiet (laneOf g i)

/-- No recovery decoder of the group has work that it could take up now. -/
def Dev.calm (d : Dev) (g : Grp) : Prop := ∀ i : HeadIx, d.wantsDec (laneOf g i) = false

/-- The request that the group's formatter runs is no VERIFY, whose outcomes carry no payload. -/
def Dev.noVerify (d : Dev) (g : Grp) : Prop := ∀ r, d.fmt[g].cur = some r → r.kind ≠ 2

/-- Register elements stand in strictly rising order. -/
def RegFile.rising : RegFile → Bool
  | [] => true
  | [_] => true
  | a :: b :: t => RKey.lt a.1 b.1 && RegFile.rising (b :: t)

/-- Cache lines and miss registers are of different lines, and each holds bytes of its own line. -/
def Dev.coherent (d : Dev) : Prop :=
  (d.mem.lines.map Line.line ++ d.mem.misses.map Miss.line).Nodup ∧
  (∀ x ∈ d.mem.lines, ∀ p ∈ x.dirty, p.1 / 128 = x.line) ∧ ∀ x ∈ d.mem.misses, ∀ p ∈ x.writes, p.1 / 128 = x.line

/-- Memory in plain use: no merge buffer, maintenance, poison, mirrored pair or fenced pseudo-channel, and canonical cells. -/
def Dev.plainMem (d : Dev) : Prop :=
  d.merging = false ∧ d.mem.merge = [] ∧ d.mem.maint = none ∧ d.mem.poison = [] ∧
  (∀ r ∈ d.bpm.recs, r.mirror = false) ∧ (∀ q, q < 64 → d.pcFenced q = false) ∧ Cells.wf d.mem.hbm = true ∧ d.coherent

/-- k steps from a state; none where one stops. -/
def runSteps : Nat → State → Option State
  | 0, s => some s
  | k + 1, s => match step s with
    | .next t => runSteps k t
    | _ => none

end Sys2Proof.Machine
end

