-- ==== Sys2Proof/Certificates/Slice0/Obligations.lean ====
section
/-! DEFINITION. The statements for the provers. Each docstring names the rule that a statement formalises. `Completes i s P`
says that exec answers a next state for i at s, of which P holds. -/

open Sys2Proof Sys2Proof.Machine

/-! ### The queue -/

/-- A step with a command at the front of the queue is exec of that command on the state with the queue's rest. -/
def Obligations.StepTakesFront : Prop :=
  ∀ (c : Instr) (s : State), step { s with pending := c :: s.pending } = exec c s

/-- An empty queue: one microsecond passes (the model's choice, log entry 2). Each counter of TRC_CNT that selects the cycles of
island 20 gains the 400 of them (R577) while counting is enabled and the island runs; nothing else changes. -/
def Obligations.EmptyQueueTicks : Prop :=
  ∀ s : State, s.pending = [] →
    ∃ t, step s = .next t ∧ t.dev.now = s.dev.now + 1 ∧ t.pending = [] ∧ t.slots = s.slots ∧
      { t.dev with now := s.dev.now, regs := s.dev.regs } = s.dev ∧
      (∀ r i j, r.key ∉ [TRC_CNT_LO.key, TRC_CNT_HI.key] → t.dev.word r i j = s.dev.word r i j) ∧
      ∀ j : Fin 256, t.dev.counter j =
        if s.dev.on TRC_CTRL.CNT_EN && s.dev.islandUp 20 && s.dev.get TRC_CNT_SEL.CODE 0 j == 0x40B
        then (s.dev.counter j + 400) % 2 ^ 64 else s.dev.counter j

/-- From every state the machine runs for any number of steps without a stop, and takes the waiting commands first in,
first out, each once. -/
def Obligations.RunsDrainTheQueue : Prop :=
  ∀ (s : State) (n : Nat), ∃ t, runSteps n s = some t ∧ t.pending = s.pending.drop n

/-- R585: a programmer's write under COLD_RESET sets every region; no run without one writes a last-image slot or an overlay
copy. -/
def Obligations.SlotsOnlyByProgrammer : Prop :=
  (∀ (s : State) p, ∃ t, exec (.coldReset (some p)) s = .next t ∧ t.slots = p.1 ∧ t.dev.flash = p.2) ∧
  (∀ (n : Nat) (s t : State), (∀ p, Instr.coldReset (some p) ∉ s.pending) → runSteps n s = some t → t.slots = s.slots)

/-! ### Registers and islands (chapter 01) -/

/-- R40: a refused write is captured while VALID is 0; while it is 1, OVERFLOW counts up to 0xFFFF and nothing else
changes; clearing VALID clears OVERFLOW. -/
def Obligations.RefusedWriteIsCaptured : Prop :=
  (∀ s who a n v c, s.dev.mode ≠ .off → s.dev.refusal ⟨who, a, true, n⟩ = some c → s.dev.get SYS_BUS_ERR_INFO.VALID = 0 →
    Completes (.registerWrite who a n v) s fun t =>
      t.get SYS_BUS_ERR_INFO.VALID = 1 ∧ t.get SYS_BUS_ERR_INFO.WRITE = 1 ∧
      t.get SYS_BUS_ERR_INFO.INITIATOR = whoCode who ∧ t.get SYS_BUS_ERR_INFO.CAUSE = causeCode c ∧
      t.get SYS_BUS_ERR_ADDR.ADDR = a % 2 ^ 32 ∧ t.get SYS_BUS_ERR_INFO.OVERFLOW = 0 ∧
      s.dev.sameBut t [SYS_BUS_ERR_ADDR.key, SYS_BUS_ERR_INFO.key]) ∧
  (∀ s who a n v, s.dev.mode ≠ .off → (s.dev.refusal ⟨who, a, true, n⟩).isSome → s.dev.get SYS_BUS_ERR_INFO.VALID = 1 →
    Completes (.registerWrite who a n v) s fun t =>
      t.get SYS_BUS_ERR_INFO.OVERFLOW = min (s.dev.get SYS_BUS_ERR_INFO.OVERFLOW + 1) 0xFFFF ∧
      t.get SYS_BUS_ERR_INFO.VALID = 1 ∧
      t.get SYS_BUS_ERR_INFO.WRITE = s.dev.get SYS_BUS_ERR_INFO.WRITE ∧
      t.get SYS_BUS_ERR_INFO.INITIATOR = s.dev.get SYS_BUS_ERR_INFO.INITIATOR ∧
      t.get SYS_BUS_ERR_INFO.CAUSE = s.dev.get SYS_BUS_ERR_INFO.CAUSE ∧
      s.dev.sameBut t [SYS_BUS_ERR_INFO.key]) ∧
  (∀ s who v, s.dev.takes who SYS_BUS_ERR_INFO.at → v.getLsbD 31 = true →
    Completes (.busErrClear who v none) s fun t =>
      t.get SYS_BUS_ERR_INFO.VALID = 0 ∧ t.get SYS_BUS_ERR_INFO.OVERFLOW = 0)

/-- R41: a refused access in the cycle of the clear is captured anew. -/
def Obligations.CaptureBesideClear : Prop :=
  ∀ s who v x c, s.dev.takes who SYS_BUS_ERR_INFO.at → v.getLsbD 31 = true → s.dev.refusal x = some c →
    Completes (.busErrClear who v (some (x, c))) s fun t =>
      t.get SYS_BUS_ERR_INFO.VALID = 1 ∧ t.get SYS_BUS_ERR_INFO.OVERFLOW = 0 ∧
      t.get SYS_BUS_ERR_ADDR.ADDR = x.addr % 2 ^ 32 ∧ t.get SYS_BUS_ERR_INFO.WRITE = x.write.toNat ∧
      t.get SYS_BUS_ERR_INFO.INITIATOR = whoCode x.who ∧ t.get SYS_BUS_ERR_INFO.CAUSE = causeCode c

/-- R628: the causes in their order. An access outside every mapped region is UNMAPPED whatever else is wrong with it; a
mapped BAR2 access above the open role is ROLE; a narrow or unaligned access of a core to the register space is SIZE, even
where the island is stopped; an aligned word to a stopped island is ISLAND_OFF. -/
def Obligations.AccessTestsInOrder : Prop :=
  (∀ (d : Dev) x, d.mapped x.addr = false → d.refusal x = some .unmapped) ∧
  (∀ (d : Dev) x k, x.who = .bar2 → d.mapped x.addr = true → bar2Rank x.addr x.write = some k → d.pfRank < k →
    d.refusal x = some .role) ∧
  (∀ (d : Dev) x, x.who ≠ .bar2 → d.mapped x.addr = true → inRegSpace x.addr = true → (x.size ≠ 4 ∨ x.addr % 4 ≠ 0) →
    d.refusal x = some .size) ∧
  (∀ (d : Dev) x b i, x.who ≠ .bar2 → d.mapped x.addr = true → x.size = 4 → x.addr % 4 = 0 → blockAt x.addr = some (b, i) →
    d.islandUp (b.island i) = false → d.refusal x = some .islandOff)

/-- R29, R30, R32: a write of an aligned word to a register that has no row or rule of its own takes effect by the access
type of each field; the fields of WO and reserved bits keep their bits; nothing else changes but the interrupt controller's
view of its lines, the capture of a locked field, snapshots, and for a BAR2 write the almanac. -/
def Obligations.PlainRegisterWrite : Prop :=
  ∀ s who a v h, s.dev.takes who a → regAt a = some h → isLo h.reg = false → loOf h.reg = none →
    (∀ d : Dev, d.specialWrite who h v = none) → s.dev.dropsWrite h = false →
    outOfRange h (h.reg.written (s.dev.word h.reg h.inst h.idx) v s.dev.locked (s.dev.lockedBits h)) = false →
    h.reg.blk ≠ .alm → h.reg.key ≠ SYS_BUS_ERR_INFO.key → h.reg.key ≠ SYS_BUS_ERR_ADDR.key → h.reg.key ≠ ICT_SRC_CFG.key →
    Completes (.registerWrite who a 4 v) s fun t =>
      t.word h.reg h.inst h.idx = h.reg.written (s.dev.word h.reg h.inst h.idx) v s.dev.locked (s.dev.lockedBits h) ∧
      ∀ r i j, (⟨r.key, i, j⟩ : RKey) ≠ ⟨h.reg.key, h.inst, h.idx⟩ → r.blk ≠ .alm → r.key ≠ SYS_BUS_ERR_INFO.key →
        r.key ≠ SYS_BUS_ERR_ADDR.key → r.key ≠ ICT_SRC_CFG.key → t.word r i j = s.dev.word r i j

/-- R17: clearing and setting bits of SYS_ISLAND_EN, the clock that stops and the clock that starts. Island 8 stays
enabled. -/
def Obligations.IslandsStopAndStart : Prop :=
  (∀ s who v, s.dev.takes who SYS_ISLAND_EN.at → Completes (.islandStop who v) s fun t =>
    t.get SYS_ISLAND_EN.EN_HI = SYS_ISLAND_EN.EN_HI.of v ∧ t.get SYS_ISLAND_EN.EN_LO = SYS_ISLAND_EN.EN_LO.of v ∧
    t.get SYS_ISLAND_EN.EN_VIGIL = s.dev.get SYS_ISLAND_EN.EN_VIGIL ∧ t.get SYS_ISLAND_STATUS.RUN = s.dev.get SYS_ISLAND_STATUS.RUN) ∧
  (∀ s who v, s.dev.takes who SYS_ISLAND_EN.at → Completes (.islandStart who v) s fun t =>
    t.get SYS_ISLAND_EN.EN_HI = SYS_ISLAND_EN.EN_HI.of v ∧ t.get SYS_ISLAND_EN.EN_LO = SYS_ISLAND_EN.EN_LO.of v ∧
    t.get SYS_ISLAND_EN.EN_VIGIL = s.dev.get SYS_ISLAND_EN.EN_VIGIL ∧ t.get SYS_ISLAND_STATUS.RUN = s.dev.get SYS_ISLAND_STATUS.RUN) ∧
  (∀ s (k : Fin 22), bit (s.dev.word SYS_ISLAND_EN).toNat k = false → k.val ≠ 7 → Completes (.islandStopped k) s fun t =>
    bit (t.get SYS_ISLAND_STATUS.RUN) k = false ∧
    ∀ m : Fin 22, m ≠ k → bit (t.get SYS_ISLAND_STATUS.RUN) m = bit (s.dev.get SYS_ISLAND_STATUS.RUN) m) ∧
  (∀ s (k : Fin 22), s.dev.mode ≠ .off → bit (s.dev.word SYS_ISLAND_EN).toNat k = true → Completes (.islandRunning k) s fun t =>
    bit (t.get SYS_ISLAND_STATUS.RUN) k = true ∧
    ∀ m : Fin 22, m ≠ k → bit (t.get SYS_ISLAND_STATUS.RUN) m = bit (s.dev.get SYS_ISLAND_STATUS.RUN) m)

/-- R38: a base below 48 is taken; one of 48 or more is refused with RANGE and the field keeps its value. -/
def Obligations.ApertureBase : Prop :=
  (∀ s who v, s.dev.takes who SYS_APERTURE_BASE.at → SYS_APERTURE_BASE.BASE.of v < 48 →
    Completes (.apertureBaseWrite who v) s fun t => t.get SYS_APERTURE_BASE.BASE = SYS_APERTURE_BASE.BASE.of v) ∧
  (∀ s who v, s.dev.takes who SYS_APERTURE_BASE.at → 48 ≤ SYS_APERTURE_BASE.BASE.of v →
    s.dev.get SYS_BUS_ERR_INFO.VALID = 0 → Completes (.apertureBaseWrite who v) s fun t =>
      t.get SYS_APERTURE_BASE.BASE = s.dev.get SYS_APERTURE_BASE.BASE ∧ t.get SYS_BUS_ERR_INFO.VALID = 1 ∧
      t.get SYS_BUS_ERR_INFO.CAUSE = 7)

/-- R34: a _LO write is held in the initiator's staging and leaves the pair alone; the _HI write of the same initiator
commits both halves, a _LO write of another initiator in between notwithstanding. -/
def Obligations.PairStagesAndCommits : Prop :=
  ∀ s who who' v v' w (c : Chan), who ≠ .bar2 → who' ≠ .bar2 → who ≠ who' → s.dev.takes who (SHU_SRC_LO.at 0 c) → s.dev.jobs[c] = none →
    Completes (.pairLoStage who (SHU_SRC_LO.at 0 c) v) s fun t =>
      t.word SHU_SRC_LO 0 c = s.dev.word SHU_SRC_LO 0 c ∧ t.word SHU_SRC_HI 0 c = s.dev.word SHU_SRC_HI 0 c ∧
      Completes (.pairLoStage who' (SHU_SRC_LO.at 0 c) v') { s with dev := t } fun u =>
        Completes (.pairHiCommit who (SHU_SRC_HI.at 0 c) w) { s with dev := u } fun x =>
          x.word SHU_SRC_LO 0 c = SHU_SRC_LO.written (s.dev.word SHU_SRC_LO 0 c) v s.dev.locked 0 ∧
          x.word SHU_SRC_HI 0 c = SHU_SRC_HI.written (s.dev.word SHU_SRC_HI 0 c) w s.dev.locked 0

/-- R35, R36: a read answers the register's value and changes no register; after a read of TRC_CNT_LO by an initiator, its
read of TRC_CNT_HI answers the value of that moment, whatever the counter holds since. -/
def Obligations.ReadsAndSnapshots : Prop :=
  (∀ s who a h, s.dev.mode ≠ .off → s.dev.refusal ⟨who, a, false, 4⟩ = none → regAt a = some h → h.reg.key ≠ ICT_CLAIM.key →
    s.dev.snapValue who a = none → Completes (.snapshotRead who a 4) s fun t =>
      t.bus.rdata = s.dev.readReg who h ∧ t.regs = s.dev.regs) ∧
  (∀ s who (n : Fin 64) w, s.dev.mode ≠ .off → s.dev.refusal ⟨who, TRC_CNT_LO.at 0 n, false, 4⟩ = none →
    Completes (.snapshotRead who (TRC_CNT_LO.at 0 n) 4) s fun t =>
      Completes (.snapshotRead who (TRC_CNT_HI.at 0 n) 4) { s with dev := t.setWord TRC_CNT_HI w 0 n } fun u =>
        u.bus.rdata = s.dev.readReg who ⟨TRC_CNT_HI, 0, n⟩)

/-- R19, R28: an access that passes every test and is not answered reads 0, is captured with TIMEOUT, and leaves no other
bus register changed. -/
def Obligations.CrossingTimeoutCaptured : Prop :=
  ∀ s who a w, s.dev.mode ≠ .off → inRegSpace a = true → s.dev.refusal ⟨who, a, w, 4⟩ = none →
    s.dev.get SYS_BUS_ERR_INFO.VALID = 0 → Completes (.crossingTimeout who a w) s fun t =>
      t.bus.rdata = 0 ∧ t.get SYS_BUS_ERR_INFO.VALID = 1 ∧ t.get SYS_BUS_ERR_INFO.CAUSE = 4 ∧
      t.get SYS_BUS_ERR_ADDR.ADDR = a % 2 ^ 32 ∧ t.get SYS_BUS_ERR_INFO.WRITE = w.toNat

/-! ### Read channel lanes (chapter 03) -/

/-- R69 to R84, R89, R117: a gated sector whose mark is found begins at a lane that runs: it goes through the lane's chain
from the loop values of R77, the values at its end are the lane's working values, the lane tracks in the sector's zone where
the chain passed its high-gain segment, and the sector is the newest whose main pass runs. A lane that does not run answers as
a missing member, whose ladder goes to welt reconstruction where enough members may be decoded. A thermal asperity marks its region, from 8 cells before the
excess to TA_EXT cells after it. -/
def Obligations.LaneSectorBegins : Prop :=
  (∀ s (n : LaneId) x a l, s.dev.groupRuns n.grp = true → s.dev.arms[n] = a :: l → a.wg = false → a.rg = true →
    a.sync = true → a.srvGate = false → s.dev.get WLS_STATUS.STATE n.grp ≠ 4 → s.dev.laneReads n = true →
    s.dev.get LANE_CTRL.MODE n ≠ 1 → s.dev.quiet n →
    (flyCandidates (min 8 (s.dev.get LANE_SYNC.MAX_DIST n)) (syncDists x.decs)).1.isSome = true →
    Completes (.laneSectorStart n x) s fun t =>
      let c := s.dev.chainCfg n (s.dev.splits n.grp a.cyl a.sect)
      let r := runChain c x (Config.freeValue s.dev.fresh) (s.dev.startLoops n a.cyl)
      t.get LANE_STATUS.TRACKING n = (r.tracking c).toNat ∧ t.get LANE_STATUS.ZONE n = s.dev.zoneIx n.grp a.cyl % 64 ∧
      t.arms[n] = l ∧ t.lanes[n].last = some (s.dev.zoneIx n.grp a.cyl, a.cyl) ∧ t.lanes[n].work = r.l ∧
      ((t.lanes[n].sects.getLast?).map fun y => (y.arm, y.primary)) =
        some (a, (flyCandidates (min 8 (s.dev.get LANE_SYNC.MAX_DIST n)) (syncDists x.decs)).1)) ∧
  (∀ s (n : LaneId) x a l, s.dev.groupRuns n.grp = true → s.dev.arms[n] = a :: l → a.wg = false → a.ecc = false →
    s.dev.get WLS_STATUS.STATE n.grp ≠ 4 → s.dev.laneReads n = false →
    Completes (.laneSectorStart n x) s fun t => t.arms[n] = l ∧ t.lanes = s.dev.lanes ∧ t.regs = s.dev.regs) ∧
  (∀ s (n : LaneId) x a l, s.dev.groupRuns n.grp = true → s.dev.arms[n] = a :: l → a.wg = false → a.ecc = true →
    s.dev.get WLS_STATUS.STATE n.grp ≠ 4 → s.dev.laneReads n = false → s.dev.groupQuiet n.grp → s.dev.lanes[n].dec = none →
    s.dev.canWelt n (missingLadder a) = true →
    Completes (.laneSectorStart n x) s fun t =>
      t.arms[n] = l ∧ t.fmt[n.grp].verdicts = s.dev.fmt[n.grp].verdicts - 1 ∧ t.fmt[n.grp].newVerdictFail = true ∧
      ∃ z ∈ t.lanes[n].ladders, z.cyl = a.cyl ∧ z.sect = a.sect ∧ z.slot = none ∧ z.welt = true) ∧
  (∀ s (n : LaneId) y l e, s.dev.groupRuns n.grp = true → s.dev.lanes[n].sects = l ++ [y] → e ∈ y.found →
    s.dev.quiet n →
    Completes (.thermalAsperity n e.1 e.2) s fun t =>
      t.lanes[n].sects =
        l ++ [{ y with found := y.found.erase e, tas := y.tas ++ [(e.1 - 8, e.2 + s.dev.get LANE_SPEC_TA.TA_EXT n)] }])

/-- R66, R92, R93, R94, R104, R109, R116: the one outcome of a sector. The main pass that succeeds delivers its verdict and the
sector; a ladder pass that succeeds, a reconstruction that is consistent, and the end of the buffered budget without a
reread left each end the sector's ladder with their outcome and interrupt. -/
def Obligations.OneOutcomePerSector : Prop :=
  (∀ s (n : LaneId) p y l, s.dev.groupRuns n.grp = true → s.dev.lanes[n].sects = y :: l → y.arm.ecc = true → tooLong y.tas = false →
    s.dev.groupQuiet n.grp → s.dev.noVerify n.grp →
    (∀ z ∈ s.dev.lanes[n].ladders, ¬(z.cyl = y.arm.cyl ∧ z.sect = y.arm.sect)) →
    converged (passCounts (countField (s.dev.get LANE_ITER.GLOBAL_OTF n) 8) (s.dev.on LANE_ITER.STALL_STOP n) p) = true →
    s.dev.tagPasses y.arm.tagMode n.grp y.arm.cyl y.arm.sect n.ix (scrambleAt y.arm.cyl y.arm.sect n p.payload) p.tag = true →
    Completes (.mainPassEnd n p) s fun t =>
      t.grpq[n.grp].results =
        s.dev.grpq[n.grp].results ++
          [⟨y.arm.cyl, y.arm.sect, n.ix, 0, scrambleAt y.arm.cyl y.arm.sect n p.payload, p.tag, false⟩] ∧
      t.lanes[n].sects = l ∧ t.fmt[n.grp].verdicts = s.dev.fmt[n.grp].verdicts - 1 ∧
      t.fmt[n.grp].newVerdictFail = s.dev.fmt[n.grp].newVerdictFail) ∧
  (∀ s (n : LaneId) p c k q m y, s.dev.groupRuns n.grp = true → s.dev.lanes[n].dec = some (.ladder c k q m) → y ∈ s.dev.lanes[n].ladders → y.cyl = c → y.sect = k →
    (∀ z ∈ s.dev.lanes[n].ladders, z ≠ y → z.waits = true ∧ ¬(z.cyl = c ∧ z.sect = k)) →
    (∀ i : HeadIx, i ≠ n.ix → s.dev.quiet (laneOf n.grp i)) → s.dev.noVerify n.grp →
    converged (passCounts m false p) = true →
    s.dev.tagPasses y.arm.tagMode n.grp c k n.ix (scrambleAt c k n p.payload) p.tag = true →
    Completes (.recoveryPassEnd n p) s fun t =>
      t.grpq[n.grp].results = s.dev.grpq[n.grp].results ++ [⟨c, k, n.ix, 1, scrambleAt c k n p.payload, p.tag, y.tagFailed⟩] ∧
      t.get LANE_INT_STATUS.RECOVERED n = 1 ∧ t.get LANE_REC_INFO0.VALID n = 1 ∧ t.get LANE_REC_INFO0.OUTCOME n = 0 ∧
      t.get LANE_REC_INFO0.STEP n = q.step % 16 ∧ t.get LANE_REC_INFO0.SECTOR n = k % 1024 ∧
      t.get LANE_REC_INFO0.SEQ n = (s.dev.get LANE_REC_INFO0.SEQ n + 1) % 128) ∧
  (∀ s (n : LaneId) c k y, s.dev.groupRuns n.grp = true → y ∈ s.dev.lanes[n].ladders → y.cyl = c → y.sect = k → y.waits = false → y.tagFailed = false →
    (∀ z ∈ s.dev.lanes[n].ladders, z ≠ y → z.waits = true ∧ ¬(z.cyl = c ∧ z.sect = k)) →
    s.dev.rereadsAllowed n y = false →
    Completes (.bufBudgetExpiry n c k) s fun t =>
      (∃ o ∈ t.grpq[n.grp].results, o.cyl = c ∧ o.sect = k ∧ o.ix = n.ix ∧ o.status = 2) ∧
      t.get LANE_INT_STATUS.UNRECOVERED n = 1 ∧ t.get LANE_REC_INFO0.OUTCOME n = 2 ∧
      ∀ z ∈ t.lanes[n].ladders, ¬(z.cyl = c ∧ z.sect = k)) ∧
  (∀ s (n : LaneId) c k y, s.dev.groupRuns n.grp = true → y ∈ s.dev.lanes[n].ladders → y.cyl = c → y.sect = k → y.waits = false →
    (∀ z ∈ s.dev.lanes[n].ladders, z ≠ y → z.waits = true ∧ ¬(z.cyl = c ∧ z.sect = k)) →
    s.dev.rereadsAllowed n y = true →
    Completes (.bufBudgetExpiry n c k) s fun t => ∃ z ∈ t.lanes[n].ladders, z.cyl = c ∧ z.sect = k ∧ z.waits = true) ∧
  (∀ s (n : LaneId) c k y e m f, s.dev.groupRuns n.grp = true → y ∈ s.dev.lanes[n].ladders → y.cyl = c → y.sect = k → y.waits = false → y.welt = true →
    (∀ z ∈ s.dev.lanes[n].ladders, z ≠ y → z.waits = true ∧ ¬(z.cyl = c ∧ z.sect = k)) →
    (∀ i : HeadIx, i ≠ n.ix → s.dev.quiet (laneOf n.grp i)) → s.dev.noVerify n.grp →
    s.dev.weltNeeds n.grp c k = some (e, m) → s.dev.enough n y = true → weltRebuild e c n.ix y.members = some f →
    s.dev.tagPasses y.arm.tagMode n.grp c k n.ix (f.take 4096) (tagOf (f.drop 4096)) = true →
    Completes (.reconstructionDelivered n c k) s fun t =>
      t.grpq[n.grp].results =
        s.dev.grpq[n.grp].results ++ [⟨c, k, n.ix, 1, f.take 4096, tagOf (f.drop 4096), y.tagFailed⟩] ∧
      t.get LANE_INT_STATUS.RECOVERED n = 1 ∧ t.get LANE_REC_INFO0.OUTCOME n = 1 ∧ t.get LANE_REC_INFO0.STEP n = 4)

/-- R100, R101, R121, R631: pins. A peer pins its slot for a ladder of its group unless two of its slots are pinned, where it is
unavailable for that ladder; it hands a sector that it has read over to the ladder that pins its slot and asks; HOLD pins the selected slot, reads back 0 where two are
pinned already, and pins a slot that is being filled once the fill ends. -/
def Obligations.SlotPins : Prop :=
  (∀ s (n m : LaneId) c k i, s.dev.groupRuns n.grp = true → n ≠ m → n.grp = m.grp → s.dev.laneReads n = true → s.dev.hasLadder m c k = true →
    s.dev.lanes[n].slotOf c k = some i → s.dev.lanes[n].pins < 2 →
    Completes (.peerPin n m c k) s fun t => (t.lanes[n].slots[i]).map (fun x => x.peers.contains m && x.pinned) = some true) ∧
  (∀ s (n m : LaneId) c k i x q u, s.dev.groupRuns n.grp = true → n ≠ m → n.grp = m.grp → s.dev.laneReads n = true →
    s.dev.hasLadder m c k = true → s.dev.lanes[n].slotOf c k = some i → s.dev.lanes[n].slots[i] = some x → x.pinned = false →
    2 ≤ s.dev.lanes[n].pins → s.dev.calm n.grp → s.dev.lanes[m].dec = some (.ladder c k q u) →
    Completes (.peerPin n m c k) s fun t => t.lanes[n] = s.dev.lanes[n] ∧
      ∀ z ∈ t.lanes[m].ladders, z.cyl = c → z.sect = k → n.ix ∈ z.refused) ∧
  (∀ s (n m : LaneId) c k y f i x, s.dev.lanes[n].slotOf c k = some i → s.dev.lanes[n].slots[i] = some x → m ∈ x.peers → s.dev.groupRuns n.grp = true → n ≠ m → n.grp = m.grp → s.dev.laneReads n = true → y ∈ s.dev.lanes[m].ladders → y.cyl = c →
    y.sect = k → y.welt = true → y.waits = false → (∀ z ∈ s.dev.lanes[m].ladders, z.cyl = c → z.sect = k → z = y) →
    (∀ w ∈ s.dev.lanes[n].won, w.1 = c → w.2.1 = k → w.2.2 = f) → (c, k, f) ∈ s.dev.lanes[n].won →
    Completes (.peerMemberRequest n m c k) s fun t =>
      ∃ z ∈ t.lanes[m].ladders, z.cyl = c ∧ z.sect = k ∧ (n.ix, f) ∈ z.members) ∧
  (∀ s who (n : LaneId) v (i : Fin 3), s.dev.takes who (LANE_SBUF_SEL.at n) = true → s.dev.get LANE_SBUF_SEL.HOLD n = 0 →
    v.getLsbD 31 = true → min (LANE_SBUF_SEL.SLOT.of v) 2 = i.val → s.dev.lanes[n].pins < 2 →
    (∀ x, s.dev.lanes[n].slots[i] = some x → x.filled s.dev.now = true ∨ x.empty = true) →
    Completes (.sbufHold who n v) s fun t =>
      t.get LANE_SBUF_SEL.HOLD n = 1 ∧ (t.lanes[n].slots[i]).map Slot.hold = some true) ∧
  (∀ s who (n : LaneId) v, s.dev.takes who (LANE_SBUF_SEL.at n) = true → s.dev.get LANE_SBUF_SEL.HOLD n = 0 →
    v.getLsbD 31 = true → 2 ≤ s.dev.lanes[n].pins →
    Completes (.sbufHold who n v) s fun t => t.get LANE_SBUF_SEL.HOLD n = 0 ∧ t.lanes = s.dev.lanes) ∧
  (∀ s (n : LaneId) x, s.dev.groupRuns n.grp = true → s.dev.get LANE_SBUF_SEL.HOLD n = 1 →
    s.dev.lanes[n].slots[s.dev.selSlot n] = some x → x.hold = false → s.dev.lanes[n].pins < 2 →
    Completes (.holdPin n) s fun t =>
      t.lanes[n].slots[s.dev.selSlot n] = some { x with full := !x.empty, hold := true }) ∧
  (∀ s (n : LaneId) x, s.dev.groupRuns n.grp = true → s.dev.get LANE_SBUF_SEL.HOLD n = 1 →
    s.dev.lanes[n].slots[s.dev.selSlot n] = some x → x.hold = false → 2 ≤ s.dev.lanes[n].pins →
    Completes (.holdPin n) s fun t => t.get LANE_SBUF_SEL.HOLD n = 0)

/-- R81: the limits of LANE_PREAMBLE. -/
def Obligations.PreambleLimits : Prop :=
  ∀ s who (n : LaneId) v, s.dev.takes who (LANE_PREAMBLE.at n) = true →
    ((LANE_PREAMBLE.ZPS_LEN.of v % 4 = 0 ∧ 8 ≤ LANE_PREAMBLE.ZPS_LEN.of v ∧ LANE_PREAMBLE.ZPS_LEN.of v ≤ 32 ∧
      LANE_PREAMBLE.ZPS_START.of v + LANE_PREAMBLE.ZPS_LEN.of v + LANE_PREAMBLE.ACQ_LEN.of v ≤ 120) →
      Completes (.lanePreambleWrite who n v) s fun t => t.word LANE_PREAMBLE n = v) ∧
    (¬(LANE_PREAMBLE.ZPS_LEN.of v % 4 = 0 ∧ 8 ≤ LANE_PREAMBLE.ZPS_LEN.of v ∧ LANE_PREAMBLE.ZPS_LEN.of v ≤ 32 ∧
      LANE_PREAMBLE.ZPS_START.of v + LANE_PREAMBLE.ZPS_LEN.of v + LANE_PREAMBLE.ACQ_LEN.of v ≤ 120) →
      s.dev.get SYS_BUS_ERR_INFO.VALID = 0 → Completes (.lanePreambleWrite who n v) s fun t =>
        t.word LANE_PREAMBLE n = s.dev.word LANE_PREAMBLE n ∧ t.get SYS_BUS_ERR_INFO.VALID = 1 ∧
        t.get SYS_BUS_ERR_INFO.CAUSE = 7)

/-- R117, R119, R122: a lane disabled by EN or by both reader enables holds only ladders that wait for
welt reconstruction or a reread, without a slot or a pass, and no pin; a calibration run starts with
its sector count and ends with CAL_DONE; ADAPT_RESET waits for the next sector; a write to the set window reaches the set
that SET_SEL shows and not the working state. -/
def Obligations.LaneControl : Prop :=
  (∀ s who (n : LaneId) v, s.dev.takes who (LANE_CTRL.at n) = true → (bits v 1 2 = 0 ∨ v.getLsbD 0 = false) →
    Completes (.laneDisable who n v) s fun t =>
      t.laneReads n = false ∧ (∀ z ∈ t.lanes[n].ladders, z.slot = none ∧ z.todo = []) ∧ t.lanes[n].dec = none ∧
      t.lanes[n].specs = [] ∧ ∀ (i : Fin 3) x, t.lanes[n].slots[i] = some x → x.pinned = false) ∧
  (∀ s who (n : LaneId) v, s.dev.takes who (LANE_CTRL.at n) = true → s.dev.calibrating n = false → bits v 4 2 = 2 →
    v.getLsbD 0 = true → bits v 1 2 ≠ 0 → bit (s.dev.get FLT_FENCED_LANE.LANE) n = false →
    Completes (.calGo who n v) s fun t =>
      t.get LANE_CTRL.CAL_GO n = 1 ∧ t.get LANE_CTRL.MODE n = 2 ∧
      t.lanes[n].cal = atLeast1 (LANE_CTRL.CAL_SECTORS.of v)) ∧
  (∀ s (g : Grp) (i : HeadIx), s.dev.groupRuns g = true → s.dev.calibrating (laneOf g i) = true →
    s.dev.lanes[laneOf g i].cal = 0 → Completes (.calibrationEnd g i) s fun t =>
      t.get LANE_CTRL.CAL_GO (laneOf g i) = 0 ∧ t.get LANE_INT_STATUS.CAL_DONE (laneOf g i) = 1) ∧
  (∀ s who (n : LaneId) v, s.dev.takes who (LANE_CTRL.at n) = true → v.getLsbD 0 = true → bits v 1 2 ≠ 0 →
    bit (s.dev.get FLT_FENCED_LANE.LANE) n = false →
    Completes (.adaptReset who n v) s fun t => t.lanes[n].adapt = true) ∧
  (∀ s who (n : LaneId) ofs v h, s.dev.takes who (LANE_CTRL.at n + (0x100 + ofs % 0x9C)) = true →
    regAt (LANE_CTRL.at n + (0x100 + ofs % 0x9C)) = some h →
    Completes (.setWindowWrite who n ofs v) s fun t =>
      t.word h.reg n (s.dev.setIndex n h.reg h.idx) =
        h.reg.written (s.dev.word h.reg n (s.dev.setIndex n h.reg h.idx)) v s.dev.locked 0 ∧
      s.dev.get LANE_SET_SEL.SET n ∈ t.lanes[n].dirty ∧ t.lanes[n].work = s.dev.lanes[n].work ∧
      ∀ y ∈ t.lanes[n].sects, s.dev.zoneIx n.grp y.arm.cyl = s.dev.get LANE_SET_SEL.SET n → y.dirty = true)

/-- R84: on the fly the primary candidate is the first position from -8 to +8, in time order, whose distance is at most
MAX_DIST, and there is none exactly where every position's distance is above it. -/
def Obligations.PrimaryIsFirstWithin : Prop :=
  ∀ (m : Nat) (l : List Nat), l.length = 65 →
    (∀ p : Int, (flyCandidates m l).1 = some p ↔
      (-8 ≤ p ∧ p ≤ 8 ∧ distAt l p ≤ m ∧ ∀ q : Int, -8 ≤ q → q < p → m < distAt l q)) ∧
    ((flyCandidates m l).1 = none ↔ ∀ q : Int, -8 ≤ q → q ≤ 8 → m < distAt l q)

/-! ### Write path and clocking (chapter 04) -/

/-- R131: the states of a wedge-locked synthesizer. EN set enters ACQUIRE, with k by R132; EN cleared enters OFF; in ACQUIRE
LOCK_CNT found wedges within LOCK_THR lead to LOCK, and one outside it restarts the count; a found wedge shifts the cell grid by theta; a missed wedge in LOCK leads to
HOLD, one found within LOSS_THR back to LOCK; a theta above LOSS_THR and MISS_MAX missed wedges lead to LOST with LOCK_LOST; a
found wedge leads from LOST to ACQUIRE. R133, R134: a new zone rescales the ratio and the offsets and leads to ACQUIRE. -/
def Obligations.WlsStates : Prop :=
  (∀ s who (g : Grp) v, s.dev.takes who (WLS_CTRL.at g) = true → WLS_CTRL.WR_THR.of v < WLS_CTRL.LOSS_THR.of v →
    s.dev.get WLS_CTRL.EN g = 0 → Completes (.wlsEnable who g v) s fun t =>
      t.get WLS_CTRL.EN g = 1 ∧ t.get WLS_STATUS.STATE g = 1 ∧ t.get WLS_STATUS.DIV g = presetDiv (t.ratio g)) ∧
  (∀ s who (g : Grp) v, s.dev.takes who (WLS_CTRL.at g) = true → WLS_CTRL.WR_THR.of v < WLS_CTRL.LOSS_THR.of v →
    s.dev.get WLS_CTRL.EN g = 1 → Completes (.wlsDisable who g v) s fun t =>
      t.get WLS_CTRL.EN g = 0 ∧ t.get WLS_STATUS.STATE g = 0 ∧
      ∀ i : HeadIx, t.get LANE_STATUS.TRACKING (laneOf g i) = 0) ∧
  (∀ s (g : Grp) w, s.dev.clocked (14 + g) = true → s.dev.get WLS_STATUS.STATE g = 1 → Completes (.wlsWedge g w) s fun t =>
    ∀ i θ, s.dev.wedgeSource g w = some (i, θ) → t.get WLS_STATUS.SOURCE g = i.val ∧ t.wls[g].grid = s.dev.wls[g].grid + θ ∧
      (θ.natAbs ≤ s.dev.get WLS_CTRL.LOCK_THR g → atLeast1 (s.dev.get WLS_CTRL.LOCK_CNT g) ≤ s.dev.wls[g].lockCnt + 1 →
        t.get WLS_STATUS.STATE g = 2) ∧
      (s.dev.get WLS_CTRL.LOCK_THR g < θ.natAbs → t.get WLS_STATUS.STATE g = 1 ∧ t.wls[g].lockCnt = 0)) ∧
  (∀ s (g : Grp) w st, s.dev.clocked (14 + g) = true → s.dev.get WLS_STATUS.STATE g = st → (st = 2 ∨ st = 3) → Completes (.wlsWedge g w) s fun t =>
    (∀ i θ, s.dev.wedgeSource g w = some (i, θ) →
      (s.dev.get WLS_CTRL.LOSS_THR g < θ.natAbs → t.get WLS_STATUS.STATE g = 4 ∧ t.get WLS_INT_STATUS.LOCK_LOST g = 1) ∧
      (θ.natAbs ≤ s.dev.get WLS_CTRL.LOSS_THR g →
        t.get WLS_STATUS.STATE g = 2 ∧ t.wls[g].grid = s.dev.wls[g].grid + θ)) ∧
    (s.dev.wedgeSource g w = none → s.dev.wls[g].missCnt + 1 < atLeast1 (s.dev.get WLS_CTRL.MISS_MAX g) →
      t.get WLS_STATUS.STATE g = 3)) ∧
  (∀ s (g : Grp) w st, s.dev.clocked (14 + g) = true → s.dev.get WLS_STATUS.STATE g = st → (st = 1 ∨ st = 2 ∨ st = 3) → s.dev.wedgeSource g w = none →
    atLeast1 (s.dev.get WLS_CTRL.MISS_MAX g) ≤ s.dev.wls[g].missCnt + 1 → Completes (.wlsWedge g w) s fun t =>
      t.get WLS_STATUS.STATE g = 4 ∧ t.get WLS_INT_STATUS.LOCK_LOST g = 1) ∧
  (∀ s (g : Grp) w, s.dev.clocked (14 + g) = true → s.dev.get WLS_STATUS.STATE g = 4 → Completes (.wlsWedge g w) s fun t =>
    t.get WLS_STATUS.STATE g = if (s.dev.wedgeSource g w).isSome then 1 else 4) ∧
  (∀ s (g : Grp) z old new, s.dev.clocked (14 + g) = true → s.dev.wls[g].zone ≠ z → z < s.dev.zones[g].length → (s.dev.zone g s.dev.wls[g].zone).cpr = old →
    (s.dev.zone g z).cpr = new → old ≠ 0 → s.dev.get WLS_STATUS.STATE g ≠ 0 → Completes (.wlsZoneChange g z) s fun t =>
      t.get WLS_STATUS.STATE g = 1 ∧ t.wls[g].zone = z ∧
      (t.ratio g : Int) = clamp 0 (2 ^ 40 - 1) (freeDiv (s.dev.ratio g * new) old) ∧
      ∀ i : HeadIx, t.get WLS_LANE_OFS.FINE g i = twos 8 (roundDiv (s.dev.laneOfs g i * new) old) ∧
        t.get WLS_LANE_OFS.CELLS g i = twos 12 (roundDiv (s.dev.laneOfs g i * new) old / 256))

/-- R141: the limits of WG_LEAD and WG_TAIL. -/
def Obligations.WriteConfigLimits : Prop :=
  (∀ s who (g : Grp) v, s.dev.takes who (WLS_WRITE_CFG.at g) = true → s.dev.locked = false →
    8 ≤ WLS_WRITE_CFG.WG_LEAD.of v → WLS_WRITE_CFG.WG_LEAD.of v ≤ 48 → WLS_WRITE_CFG.WG_TAIL.of v ≤ 32 →
    WLS_WRITE_CFG.WG_LEAD.of v + WLS_WRITE_CFG.WG_TAIL.of v ≤ 64 → 1 ≤ WLS_WRITE_CFG.WL_GRP.of v →
    WLS_WRITE_CFG.WL_GRP.of v ≤ 8 → Completes (.wlsWriteCfgWrite who g v) s fun t => t.word WLS_WRITE_CFG g = v) ∧
  (∀ s who (g : Grp) v, s.dev.takes who (WLS_WRITE_CFG.at g) = true → s.dev.get SYS_BUS_ERR_INFO.VALID = 0 →
    (WLS_WRITE_CFG.WG_LEAD.of v < 8 ∨ 48 < WLS_WRITE_CFG.WG_LEAD.of v ∨ 32 < WLS_WRITE_CFG.WG_TAIL.of v ∨
      64 < WLS_WRITE_CFG.WG_LEAD.of v + WLS_WRITE_CFG.WG_TAIL.of v) →
    Completes (.wlsWriteCfgWrite who g v) s fun t =>
      t.word WLS_WRITE_CFG g = s.dev.word WLS_WRITE_CFG g ∧ t.get SYS_BUS_ERR_INFO.VALID = 1 ∧
      t.get SYS_BUS_ERR_INFO.CAUSE = 7)

/-- R58, R63 to R66, R139, R140, R148, R151 to R153, R155 to R157, R328: a write slot that nothing inhibits, with its heater settled
and its token held, writes the cells of its sector in their runs of the gate, keeps the gate up only where the next sector of
the track follows, and returns one token after the last one, every token where no write is armed any more; any other is
deferred, and a gate that was kept up for it falls. No slot of a flush begins 600 ms after the power loss or below 2,400 rpm,
and the group's part of the flush ends (R328). An immediate input stops every open write
of its heads, with a token each, and makes the abort record. A request waits for the arbiter, which grants the first that
fits and lets none overtake; the oldest request of a group is withdrawn alone, and its slot is deferred. -/
def Obligations.WriteSlotsAndTokens : Prop :=
  (∀ s (n : LaneId) x a l, s.dev.groupRuns n.grp = true → s.dev.arms[n] = a :: l → a.wg = true →
    s.dev.inhibited n.grp n.ix a.metaMark a.flush = false → s.dev.heaterReady n.grp n.ix = true →
    bit s.dev.tok.held[n.grp] n.ix = true → (a.flush = true → s.dev.flushLate = false) →
    Completes (.writeSlot ⟨n, x⟩) s fun t =>
      let f := s.dev.writtenField n.grp n.ix a
      let up := bit s.dev.wls[n.grp].gates n.ix
      t.out = s.dev.out ++ [⟨n, a.cyl, a.sect, f.1, f.2,
        s.dev.bursts n a.cyl a.sect up (nextAdjacent a l) (writtenCells n a.cyl a.sect f), up⟩] ∧
      t.arms[n] = l ∧ bit t.wls[n.grp].gates n.ix = nextAdjacent a l ∧
      bit t.tok.held[n.grp] n.ix = (nextAdjacent a l || (bit s.dev.tok.extra[n.grp] n.ix && l.any Arm.wg))) ∧
  (∀ s (n : LaneId) x a l, s.dev.groupRuns n.grp = true → s.dev.arms[n] = a :: l → a.wg = true →
    (s.dev.inhibited n.grp n.ix a.metaMark a.flush = true ∨ s.dev.heaterReady n.grp n.ix = false ∨
      bit s.dev.tok.held[n.grp] n.ix = false) →
    (a.flush = true → s.dev.flushLate = false ∧ 2400 * 16 ≤ s.dev.wls[n.grp].speed) → Completes (.writeSlot ⟨n, x⟩) s fun t =>
      t.out = (if bit s.dev.wls[n.grp].gates n.ix = true then (s.dev.endBurst n).out else s.dev.out) ∧
      bit t.wls[n.grp].gates n.ix = false ∧ t.arms[n] = l ∧ t.get WLS_INT_STATUS.WRITE_DEFERRED n.grp = 1 ∧
      t.get FMT_INT_STATUS.WR_FAIL n.grp = 1) ∧
  (∀ s (n : LaneId) x a l (h : Grp), s.dev.groupRuns n.grp = true → s.dev.arms[n] = a :: l → a.wg = true → a.flush = true →
    (s.dev.flushLate = true ∨ s.dev.wls[n.grp].speed < 2400 * 16) → h ≠ n.grp → s.dev.grpq[h].list.any MediaReq.isFlush = true →
    s.dev.allParked = false → Completes (.writeSlot ⟨n, x⟩) s fun t =>
      t.out = (if bit s.dev.wls[n.grp].gates n.ix = true then (s.dev.endBurst n).out else s.dev.out) ∧
      t.arms[n] = [] ∧ t.grpq[n.grp].posted = [] ∧ ∀ m ∈ t.grpq[n.grp].list, m.isFlush = false) ∧
  (∀ s (g : Grp) mask causes c, s.dev.clocked (14 + g) = true → lowest (causes.filterMap InhCause.code) = some c →
    Completes (.writeInhibit g mask causes) s fun t =>
      ∀ (i : HeadIx) a l, bit mask i = true → s.dev.arms[laneOf g i] = a :: l → a.wg = true →
        bit s.dev.tok.held[g] i = true →
        t.arms[laneOf g i] = l ∧ bit t.wls[g].gates i = false ∧ bit t.tok.held[g] i = (bit s.dev.tok.extra[g] i && l.any Arm.wg) ∧
        t.get WLS_INT_STATUS.WRITE_ABORT g = 1 ∧ t.get FMT_INT_STATUS.WR_FAIL g = 1 ∧
        (mask = 1 <<< i.val → t.get WLS_ABORT_INFO0.VALID g = 1 ∧ t.get WLS_ABORT_INFO0.CAUSE g = c ∧
          t.get WLS_ABORT_INFO0.HEAD g = i.val ∧ t.get WLS_ABORT_INFO0.SECTOR g = a.sect % 1024 ∧
          t.get WLS_ABORT_INFO1.CYL g = a.cyl % 2 ^ 20 ∧
          t.get WLS_ABORT_INFO0.SEQ g = (s.dev.get WLS_ABORT_INFO0.SEQ g + 1) % 128)) ∧
  (∀ s (g : Grp) mask, s.dev.groupRuns g = true → s.dev.tokensRefused g mask = false → mask ≠ 0 →
    s.dev.tokenReq g mask ∉ s.dev.tok.waiting ++ s.dev.tok.arriving → Completes (.tokenRequest g mask) s fun t =>
      t.tok.arriving = s.dev.tok.arriving ++ [s.dev.tokenReq g mask] ∧ t.tok.held = s.dev.tok.held ∧
      t.fmt[g].tokensWait = true) ∧
  (∀ s (r : TokReq), s.dev.clocked 7 = true → s.dev.tok.waiting = [] → s.dev.tok.arriving = [r] → s.dev.tokensFit r = true →
    Completes .tokenGrant s fun t =>
      t.tok.held[r.grp] = s.dev.tok.held[r.grp] ||| r.mask ∧
      t.tok.extra[r.grp] = s.dev.tok.extra[r.grp] ||| (r.mask &&& s.dev.tok.held[r.grp]) ∧
      t.tok.waiting = [] ∧ t.tok.arriving = [] ∧ t.tok.last = r.grp ∧
      t.fmt[r.grp].tokensWait = false ∧ t.get WTA_CFG.IN_USE = t.tok.count % 32) ∧
  (∀ s r l, s.dev.clocked 7 = true → s.dev.tok.waiting = r :: l → s.dev.tokensFit r = false → Completes .tokenGrant s fun t =>
      t.tok.held = s.dev.tok.held ∧
      t.tok.waiting = s.dev.tok.waiting ++ robinOrder s.dev.tok.last s.dev.tok.arriving) ∧
  (∀ s (g : Grp) r, s.dev.groupRuns g = true → (s.dev.tok.waiting ++ s.dev.tok.arriving).find? (·.grp == g) = some r →
    Completes (.tokenWithdraw g) s fun t =>
      t.tok.waiting = s.dev.tok.waiting.erase r ∧ t.tok.arriving = s.dev.tok.arriving.erase r ∧
      ∀ (i : HeadIx) a, bit r.mask i = true →
        s.dev.arms[laneOf g i].find? (fun a => a.wg && a.cyl == r.cyl && a.sect == r.sect) = some a →
        t.arms[laneOf g i] = s.dev.arms[laneOf g i].erase a ∧ t.get WLS_INT_STATUS.WRITE_DEFERRED g = 1)

/-- R37, R144 to R146, R148: a firmware frame is handed to the preamp port, a read with VALID of its answer cleared; a frame
that ends gives the answer, the heater's code and the time it settles from, or GO back; a read answer with bad parity is
retried once. The parity of an answer is odd over its 16 data bits. -/
def Obligations.PreampPort : Prop :=
  (∀ s who (g : Grp) v, s.dev.takes who (WLS_PA_CMD.at g) = true → s.dev.get WLS_PA_CMD.GO g = 0 →
    Completes (.paCmd who g v) s fun t =>
      t.get WLS_PA_CMD.GO g = 1 ∧ (v.getLsbD 30 = true → t.get WLS_PA_RESP.VALID g = 0) ∧
      ⟨5, s.dev.heaterHead g (v.getLsbD 30) (bits v 16 7), v.getLsbD 30, bits v 16 7, bits v 0 16, false⟩ ∈
        t.wls[g].wire.toList ++ t.wls[g].frames) ∧
  (∀ s (g : Grp) f data p, s.dev.clocked (14 + g) = true → s.dev.wls[g].wire = some f → f.cls = 5 → f.read = true →
    oddParity (bitsMsb 16 data.toNat) = p → Completes (.preampFrameEnd g data p) s fun t =>
      t.get WLS_PA_RESP.VALID g = 1 ∧ t.get WLS_PA_RESP.DATA g = data.toNat ∧ t.get WLS_PA_RESP.PERR g = 0 ∧
      t.get WLS_PA_RESP.SEQ g = (s.dev.get WLS_PA_RESP.SEQ g + 1) % 128 ∧ t.get WLS_PA_CMD.GO g = 0) ∧
  (∀ s (g : Grp) f data p, s.dev.clocked (14 + g) = true → s.dev.wls[g].wire = some f → f.read = true → f.retried = false →
    oddParity (bitsMsb 16 data.toNat) ≠ p →
    Completes (.preampFrameEnd g data p) s fun t => t.wls[g].wire = some { f with retried := true } ∧ t.regs = s.dev.regs) ∧
  (∀ s (g : Grp) f data p (i : HeadIx), s.dev.clocked (14 + g) = true → s.dev.wls[g].wire = some f → f.read = false →
    f.head = some i → Completes (.preampFrameEnd g data p) s fun t =>
      t.wls[g].heater[i] = f.data ∧ t.wls[g].heaterAt[i] = some s.dev.now ∧ (f.cls ≠ 5 → t.regs = s.dev.regs)) ∧
  (∀ s (g : Grp) f data p, s.dev.clocked (14 + g) = true → s.dev.wls[g].wire = some f → f.cls = 5 → f.read = false →
    Completes (.preampFrameEnd g data p) s fun t => t.get WLS_PA_CMD.GO g = 0)

/-! ### Formatter sequencers and the control store (chapter 05) -/

/-- R159, R160: a window write outside the modes of its region, or to the customer region in
MAKER_SERVICE without a maker session (R560), is refused with LOCKED; inside them a lower part waits in its
initiator's staging, whatever another initiator stages, and the highest part commits it with the parts staged before and the
stored value of every other part. -/
def Obligations.ControlStoreWindow : Prop :=
  (∀ s who word (k : Fin 3) v, s.dev.takes who (storeAt word k) = true → s.dev.get SYS_BUS_ERR_INFO.VALID = 0 →
    ((word < 0x3800 ∧ s.dev.mode ≠ .romBoot ∧ s.dev.mode ≠ .lastLoad) ∨
      (0x3800 ≤ word ∧ s.dev.mode ≠ .lastLoad ∧ ¬(s.dev.mode = .makerService ∧ s.dev.makerOpen = true))) →
    (Completes (.csStageWrite who word k v) s fun t => t.cs = s.dev.cs ∧ t.get SYS_BUS_ERR_INFO.CAUSE = 5) ∧
    (Completes (.csCommitWrite who word v) s fun t => t.cs = s.dev.cs ∧ t.get SYS_BUS_ERR_INFO.CAUSE = 5)) ∧
  (∀ s who who' word (k j m : Fin 3) word' v v' w, who ≠ who' → j ≠ k → s.dev.takes who (storeAt word k) = true →
    s.dev.takes who' (storeAt word' m) = true → s.dev.storeOpen word = true → s.dev.storeOpen word' = true →
    Completes (.csStageWrite who word k v) s fun t => t.cs.words = s.dev.cs.words ∧
      Completes (.csStageWrite who' word' m v') { s with dev := t } fun u => u.cs.words = s.dev.cs.words ∧
        Completes (.csCommitWrite who word w) { s with dev := u } fun x =>
          partOf (x.cs.word word) 3 = w ∧ partOf (x.cs.word word) k = v ∧
          partOf (x.cs.word word) j = partOf (s.dev.commitWord who word w) j ∧
          ∀ a, a ≠ word → x.cs.word a = s.dev.cs.word a)

/-- R164 to R166, R175: a step of a running sequencer with a legal word that is not shipped, no wait, a branch and no halt: its slot is armed on
every lane of the effective mask and on no other, its counter and its sector pointer move, and the next word is NEXT_ADDR
where the condition holds after the step, else the word after this one. A wait that is over ends in the same way. -/
def Obligations.SequencerSteps : Prop :=
  (∀ s (g : Grp) w, s.dev.groupRuns g = true → s.dev.get FMT_STATUS.STATE g = 2 → s.dev.injecting 200 = none →
    s.dev.shippedStep g false = none → s.dev.cs.word (s.dev.get FMT_STATUS.PC g) = w → s.dev.get FMT_STATUS.PC g < 0x3800 →
    mwIllegal w (s.dev.mode == .makerService) = false → mwWait w = 0 → mwSeq w = 0 → mwHalt w = false →
    s.dev.fmt[g].halting = false → s.dev.fmt[g].single = false → s.dev.armStall g (s.dev.fmtMask g w) = false →
    (mwWg w = true → s.dev.tokensRefused g (s.dev.fmtMask g w) = false) →
    Completes (.fmtStep g .ok false) s fun t =>
      t.get FMT_STATUS.STATE g = 2 ∧
      t.get FMT_STATUS.PC g = (if (t.fmtCond g (mwCond w) != mwInv w) = true then mwNext w
        else (s.dev.get FMT_STATUS.PC g + 1) % 0x4000) ∧
      (mwCntOp w = 1 → t.get (cntFld (mwCntSel w)) g = mwImm w) ∧
      (mwCntOp w = 2 → t.get (cntFld (mwCntSel w)) g = s.dev.get (cntFld (mwCntSel w)) g - 1) ∧
      (mwCntOp w = 0 → t.get (cntFld (mwCntSel w)) g = s.dev.get (cntFld (mwCntSel w)) g) ∧
      (mwSp w = 0 → t.get FMT_CNT2.SP g = s.dev.get FMT_CNT2.SP g) ∧
      (mwSp w = 3 → t.get FMT_CNT2.SP g = s.dev.get FMT_CNT2.C2 g % 1024) ∧
      ∀ i : HeadIx, t.arms[laneOf g i] = (if mwArms w = true ∧ bit (s.dev.fmtMask g w) i = true
        then s.dev.arms[laneOf g i] ++ [s.dev.newArm g w] else s.dev.arms[laneOf g i])) ∧
  (∀ s (g : Grp) w, s.dev.groupRuns g = true → s.dev.get FMT_STATUS.STATE g = 3 → s.dev.fmt[g].waiting = some w → s.dev.waitOver g (mwWait w) = true →
    s.dev.get FMT_STATUS.PC g < 0x3800 → mwSeq w = 0 → mwHalt w = false → s.dev.fmt[g].halting = false →
    s.dev.fmt[g].single = false → Completes (.waitEnd g) s fun t =>
      t.get FMT_STATUS.STATE g = 2 ∧ t.fmt[g].waiting = none ∧
      t.get FMT_STATUS.PC g = (if (t.fmtCond g (mwCond w) != mwInv w) = true then mwNext w
        else (s.dev.get FMT_STATUS.PC g + 1) % 0x4000))

/-- R165, R174, R176, R192: traps. An illegal word, a wait past WAIT_LIMIT and a hook past its budget stop the sequencer at
its word with their cause; the record gets the next sequence tag, the tokens of the group come back, and the request that
ran ends as failed, once. -/
def Obligations.SequencerTraps : Prop :=
  ∀ s (g : Grp),
    let P := fun (cause : Nat) (t : Dev) =>
      t.get FMT_STATUS.STATE g = 4 ∧ t.get FMT_STATUS.PC g = s.dev.get FMT_STATUS.PC g ∧ t.get FMT_TRAP.VALID g = 1 ∧
      t.get FMT_TRAP.CAUSE g = cause ∧ t.get FMT_TRAP.PC g = s.dev.get FMT_STATUS.PC g ∧
      t.get FMT_TRAP.SEQ g = (s.dev.get FMT_TRAP.SEQ g + 1) % 128 ∧ t.get FMT_INT_STATUS.TRAP g = 1 ∧
      t.tok.held[g] = 0 ∧ t.tok.extra[g] = 0 ∧ (∀ i : HeadIx, t.arms[laneOf g i] = []) ∧
      t.fmt[g].evts = s.dev.fmt[g].evts ++
        (if s.dev.fmt[g].ended = true ∨ s.dev.fmt[g].cur = none then [] else [.reqFailed 1])
    s.dev.groupRuns g = true →
    (s.dev.get FMT_STATUS.STATE g = 2 → s.dev.injecting 200 = none → s.dev.shippedStep g false = none →
      mwIllegal (s.dev.cs.word (s.dev.get FMT_STATUS.PC g)) (s.dev.mode == .makerService) = true →
      ∀ late, Completes (.fmtStep g .ok late) s (P 1)) ∧
    (∀ w, s.dev.get FMT_STATUS.STATE g = 3 → s.dev.fmt[g].waiting = some w → mwWait w ≠ 7 →
      Completes (.waitTimeout g) s (P 5)) ∧
    (s.dev.fmt[g].hook.isSome = true → s.dev.mode ≠ .makerService →
      (s.dev.get FMT_STATUS.STATE g = 2 ∨ s.dev.get FMT_STATUS.STATE g = 3) → Completes (.hookBudgetExpiry g) s (P 6))

/-- R177 to R179, R632: FMT_CTRL. EN moves an OFF sequencer to HALTED without a fetch; START starts one that does not run at
START_ADDR, and is refused with LOCKED while it runs or waits, or outside MAKER_SERVICE at another address than 0x0010; a
halt request ends a wait at its word, or waits itself while the group has no bit clock (R629), and stops a running sequencer at the end of its step; STEP runs one step; clearing EN
stops it. -/
def Obligations.SequencerControl : Prop :=
  (∀ s who (g : Grp) v, s.dev.takes who (FMT_CTRL.at g) = true → s.dev.get FMT_CTRL.EN g = 0 → bits v 1 3 = 0 →
    Completes (.fmtEnable who g v) s fun t =>
      t.get FMT_CTRL.EN g = 1 ∧ t.get FMT_STATUS.STATE g = 1 ∧ t.get FMT_STATUS.PC g = s.dev.get FMT_STATUS.PC g) ∧
  (∀ s who (g : Grp) v, s.dev.takes who (FMT_CTRL.at g) = true → v.getLsbD 0 = true → bits v 2 2 = 0 →
    (FMT_CTRL.START_ADDR.of v = 0x10 ∨ s.dev.mode = .makerService) →
    (s.dev.get FMT_CTRL.EN g = 0 ∨ (s.dev.get FMT_STATUS.STATE g ≠ 2 ∧ s.dev.get FMT_STATUS.STATE g ≠ 3)) →
    Completes (.fmtStart who g v) s fun t =>
      t.get FMT_STATUS.STATE g = 2 ∧ t.get FMT_STATUS.PC g = FMT_CTRL.START_ADDR.of v ∧ t.fmt[g].stack = [] ∧
      t.get FMT_TRAP.VALID g = 0) ∧
  (∀ s who (g : Grp) v, s.dev.takes who (FMT_CTRL.at g) = true → v.getLsbD 0 = true → bits v 2 2 = 0 →
    s.dev.get FMT_CTRL.EN g = 1 → s.dev.get SYS_BUS_ERR_INFO.VALID = 0 →
    ((FMT_CTRL.START_ADDR.of v ≠ 0x10 ∧ s.dev.mode ≠ .makerService) ∨ s.dev.get FMT_STATUS.STATE g = 2 ∨
      s.dev.get FMT_STATUS.STATE g = 3) →
    Completes (.fmtStart who g v) s fun t => t.word FMT_STATUS g = s.dev.word FMT_STATUS g ∧
      t.get SYS_BUS_ERR_INFO.CAUSE = 5) ∧
  (∀ s who (g : Grp) v, s.dev.takes who (FMT_CTRL.at g) = true → v.getLsbD 0 = true → v.getLsbD 1 = false →
    v.getLsbD 3 = false → s.dev.get FMT_CTRL.EN g = 1 →
    (s.dev.get FMT_STATUS.STATE g = 2 → s.dev.fmt[g].waiting = none →
      Completes (.haltReq who g v) s fun t => t.fmt[g].halting = true ∧ t.get FMT_STATUS.STATE g = 2) ∧
    (∀ w, s.dev.get FMT_STATUS.STATE g = 3 → s.dev.fmt[g].waiting = some w → s.dev.groupRuns g = true →
      Completes (.haltReq who g v) s fun t =>
        t.get FMT_STATUS.STATE g = 1 ∧ t.get FMT_STATUS.PC g = s.dev.get FMT_STATUS.PC g ∧
        t.get FMT_INT_STATUS.HALTED g = 1) ∧
    (∀ w, s.dev.get FMT_STATUS.STATE g = 3 → s.dev.fmt[g].waiting = some w → s.dev.groupRuns g = false →
      Completes (.haltReq who g v) s fun t => t.get FMT_STATUS.STATE g = 3 ∧ t.fmt[g].halting = true ∧ t.fmt[g].waiting = some w)) ∧
  (∀ s who (g : Grp) v, s.dev.takes who (FMT_CTRL.at g) = true → v.getLsbD 0 = true → bits v 1 2 = 0 →
    s.dev.get FMT_CTRL.EN g = 1 → s.dev.mode = .makerService → s.dev.get FMT_STATUS.STATE g = 1 →
    Completes (.fmtSingleStep who g v) s fun t => t.get FMT_STATUS.STATE g = 2 ∧ t.fmt[g].single = true) ∧
  (∀ s who (g : Grp) v, s.dev.takes who (FMT_CTRL.at g) = true → bits v 1 3 = 0 → s.dev.get FMT_CTRL.EN g = 1 →
    Completes (.fmtDisable who g v) s fun t =>
      t.get FMT_CTRL.EN g = 0 ∧ t.get FMT_STATUS.STATE g = 0 ∧ t.word FMT_TRAP g = s.dev.word FMT_TRAP g ∧
      t.tok.held[g] = 0 ∧ ∀ i : HeadIx, t.arms[laneOf g i] = [])

/-! ### Servo engine, supervision and tuning (chapters 06 and 07) -/

/-- R198, R204, R226, R243: a record joins its wedge's records, one for each head, while the group has a bit clock (R629). Outside OFF a sample ends the wedge and
sends one new frame: the next sequence number, and a CRC over its other bytes; in RETRACT the frame holds ENABLE, RETRACT and
codes of 0. -/
def Obligations.ServoSampleFrame : Prop :=
  (∀ s (g : Grp) (i : HeadIx) r, s.dev.clocked (9 + g) = true → s.dev.get SRV_STATUS.STATE g ≠ 0 → s.dev.groupRuns g = true →
    Completes (.servoRecord g i r) s fun t =>
      t.srv[g].recs = s.dev.srv[g].recs.filter (fun p => p.1 != i) ++ [(i, r)] ∧ t.regs = s.dev.regs) ∧
  (∀ s (g : Grp) (i : HeadIx) r, s.dev.groupRuns g = false → Completes (.servoRecord g i r) s fun t => t = s.dev) ∧
  (∀ s (g : Grp), s.dev.clocked (9 + g) = true → s.dev.get SRV_STATUS.STATE g ≠ 0 → s.dev.get SRV_CAP_CTRL.ARM g = 0 →
    s.dev.srv[g].cap.fifo = [] →
    Completes (.servoSample g) s fun t =>
      t.srv[g].seq = (s.dev.srv[g].seq + 1) % 16 ∧ t.srv[g].recs = [] ∧
      t.srv[g].sampleNo = (s.dev.srv[g].sampleNo + 1) % 2 ^ 16 ∧
      t.srv[g].frame[0]? = some (BitVec.ofNat 8 (16 + t.srv[g].seq)) ∧
      t.srv[g].frame.drop 25 = beBytes 2 (crc16 (t.srv[g].frame.take 25)).toNat ∧
      (t.get SRV_STATUS.STATE g = 7 →
        t.srv[g].frame.take 25 = BitVec.ofNat 8 (16 + t.srv[g].seq) :: 3 :: List.replicate 23 0))

/-- R207, R208: where no addition and no result of a row of the control law saturates, the row is the exact sum of its
products, rounded to 30 fractional bits fewer, a half upward. -/
def Obligations.RowIsExactUnlessSaturated : Prop :=
  ∀ (d : Dev) (g : Grp) (set row : Nat) (z : List (Nat × Int)), (d.row g set row z).2 = false →
    (d.row g set row z).1 = ((z.map fun p => d.coef g set row p.1 * p.2).sum + 2 ^ 29) / 2 ^ 30

/-- R252 to R254: the state that a transfer solves gives row 0 the applied value A again: where no addition and no result
saturates and no blend runs, the VCM code that row 0 gives is A's code. -/
def Obligations.IntegratorSolvesTransfer : Prop :=
  ∀ (d : Dev) (g : Grp) (j : Fin 32) (A : Int), j.val < d.get SRV_DIM.N_STATES g → (32 : Int) ∣ A →
    d.coef g (d.get SRV_BAND_SEL.CUR g) 0 j ≠ 0 →
    (d.rowAcc g (d.get SRV_BAND_SEL.CUR g) 0 ((d.vectorLow g).filter fun p => p.1 != j.val)).2 = false →
    let x := roundDiv (A * 2 ^ 30 - (d.rowAcc g (d.get SRV_BAND_SEL.CUR g) 0
      ((d.vectorLow g).filter fun p => p.1 != j.val)).1) (d.coef g (d.get SRV_BAND_SEL.CUR g) 0 j)
    sat32 x = x →
    let t := (d.solveInt g j A).1
    (t.row g (t.get SRV_BAND_SEL.CUR g) 0 (t.vectorLow g)).2 = false →
    asr ((t.row g (t.get SRV_BAND_SEL.CUR g) 0 (t.vectorLow g)).1 + 16) 5 = A / 32

/-- R201, R222, R235, R237, R239: supervision. A member head with MISS_LIMIT missed samples is lost; ONTRACK_CNT samples in
SETTLE lead to TRACK; SETTLE_MAX samples are reported (a SETTLE_MAX of 0 acts as 1, the model's choice, log entry 145); a following error writes its record and leads from TRACK to SETTLE with every head
inhibited, or with FE_ACT to RETRACT; WI_REL clean samples end an inhibit. -/
def Obligations.ServoSupervision : Prop :=
  (∀ s (g : Grp) (i : HeadIx), s.dev.clocked (9 + g) = true → s.dev.laneAlive (laneOf g i) = true → bit (s.dev.get SRV_STATUS.LOST g) i = false →
    atLeast1 (s.dev.get SRV_PES_CFG.MISS_LIMIT g) ≤ s.dev.srv[g].miss[i] → Completes (.headLost g i) s fun t =>
      t.get SRV_STATUS.LOST g = s.dev.get SRV_STATUS.LOST g ||| (1 <<< i.val) ∧ t.get SRV_INT_STATUS.PES_LOST g = 1) ∧
  (∀ s (g : Grp), s.dev.clocked (9 + g) = true → s.dev.get SRV_STATUS.STATE g = 4 →
    atLeast1 (s.dev.get SRV_ONTRACK.ONTRACK_CNT g) ≤ s.dev.srv[g].ontrack → Completes (.onTrack g) s fun t =>
      t.get SRV_STATUS.STATE g = 5 ∧ t.get SRV_INT_STATUS.ON_TRACK g = 1 ∧
      t.srv[g].trackLost = s.dev.srv[g].trackLost) ∧
  (∀ s (g : Grp), s.dev.clocked (9 + g) = true → s.dev.get SRV_STATUS.STATE g = 4 → atLeast1 (s.dev.get SRV_ONTRACK.SETTLE_MAX g) ≤ s.dev.srv[g].settle →
    Completes (.settleSlow g) s fun t => t.get SRV_INT_STATUS.SETTLE_SLOW g = 1 ∧ t.get SRV_STATUS.STATE g = 4) ∧
  (∀ s (g : Grp) i st, s.dev.clocked (9 + g) = true → s.dev.get SRV_STATUS.STATE g = st → (st = 3 ∨ st = 4 ∨ st = 5) → s.dev.feReached g = some i →
    s.dev.get SRV_SUP_CFG.FE_ACT g = 0 → Completes (.followingError g) s fun t =>
      t.get SRV_FE_INFO.VALID g = 1 ∧ t.get SRV_FE_INFO.HEAD g = i.val ∧ t.get SRV_FE_INFO.STATE g = st ∧
      t.get SRV_FE_INFO.SEQ g = (s.dev.get SRV_FE_INFO.SEQ g + 1) % 128 ∧ t.get SRV_INT_STATUS.FOLLOW_ERR g = 1 ∧
      (st = 5 → t.get SRV_SUP_STATUS.WI g = 255) ∧ t.get SRV_STATUS.STATE g = if st = 5 then 4 else st) ∧
  (∀ s (g : Grp) i st, s.dev.clocked (9 + g) = true → s.dev.get SRV_STATUS.STATE g = st → (st = 3 ∨ st = 4 ∨ st = 5) → s.dev.feReached g = some i →
    s.dev.get SRV_SUP_CFG.FE_ACT g = 1 → Completes (.followingError g) s fun t =>
      t.get SRV_STATUS.STATE g = 7 ∧ t.srv[g].retCause = 4 ∧ t.get SRV_FE_INFO.VALID g = 1) ∧
  (∀ s (g : Grp) (i : HeadIx), s.dev.clocked (9 + g) = true → atLeast1 (s.dev.get SRV_SUP_CFG.WI_REL g) ≤ s.dev.srv[g].clean[i] →
    s.dev.inhibitCond g i = false → Completes (.inhibitRelease g i) s fun t =>
      bit (t.get SRV_SUP_STATUS.WI g) i = false ∧
      ∀ j : HeadIx, j ≠ i → bit (t.get SRV_SUP_STATUS.WI g) j = bit (s.dev.get SRV_SUP_STATUS.WI g) j)

/-- R215, R220, R224, R225: coefficients and positioning. The window takes a coefficient for the selected set in LAST_LOAD or
MAKER_SERVICE while no blend uses the set, and refuses it with LOCKED else. An operation that its state accepts stands in
SRV_CMD with GO; any other raises CMD_ERR and leaves SRV_CMD as it was. A scheduler's request reaches the servo, or waits
behind the one that is issued. A load that takes too long before its third step ends fails; an unload ends PARKED with the back-EMF at rest or, too late, retracts. -/
def Obligations.ServoPositioning : Prop :=
  (∀ s who (g : Grp) ofs v, s.dev.takes who (SRV_COEF.at g ((ofs - 0x4000) / 4)) = true →
    (s.dev.coefLocked g (s.dev.get SRV_COEF_SEL.SET g) = false → Completes (.coefWrite who g ofs v) s fun t =>
      t.word SRV_COEF g (s.dev.get SRV_COEF_SEL.SET g * 3072 + (ofs - 0x4000) / 4) = v) ∧
    (s.dev.coefLocked g (s.dev.get SRV_COEF_SEL.SET g) = true → s.dev.get SYS_BUS_ERR_INFO.VALID = 0 →
      Completes (.coefWrite who g ofs v) s fun t =>
        (∀ k, t.word SRV_COEF g k = s.dev.word SRV_COEF g k) ∧ t.get SYS_BUS_ERR_INFO.CAUSE = 5)) ∧
  (∀ s (g : Grp) (r : Request), s.dev.clocked 2 = true →
    (s.dev.grpq[g].active = none → Completes (.positioningRequest g r) s fun t =>
      t.srv[g].request = some r.cyl ∧ (t.grpq[g].active.map MediaReq.req) = some r ∧ t.grpq[g].list = s.dev.grpq[g].list) ∧
    (s.dev.grpq[g].active ≠ none → Completes (.positioningRequest g r) s fun t =>
      t.srv[g].request = s.dev.srv[g].request ∧ t.grpq[g].active = s.dev.grpq[g].active ∧
      t.grpq[g].list.map MediaReq.req = s.dev.grpq[g].list.map MediaReq.req ++ [r])) ∧
  (∀ s who (g : Grp) v st, s.dev.takes who (SRV_CMD.at g) = true → s.dev.get SRV_STATUS.STATE g = st →
    let ok := s.dev.get SRV_CTRL.FW_OWN g = 1 ∧ (st = 3 ∨ st = 4 ∨ st = 5)
    let park := s.dev.get SRV_CTRL.FW_OWN g = 1 ∧ st = 1 ∧ s.dev.get SRV_SUP_STATUS.RET_LATCH g = 0 ∧
      bit (s.dev.get SRV_BAND_VALID.VALID g) (s.dev.get SRV_BAND_SEL.MEAS g) = true ∧
      s.dev.get SRV_LOAD_CFG.MIN_BAND g ≤ s.dev.get SRV_BAND_SEL.MEAS g ∧ s.dev.get SPN_STATUS.REGULATED = 1
    let issued := fun (op : Nat) (t : Dev) =>
      t.get SRV_CMD.GO g = 1 ∧ t.get SRV_CMD.OP g = op ∧ t.get SRV_CMD.CYL g = SRV_CMD.CYL.of v
    let dropped := fun (t : Dev) => t.word SRV_CMD g = s.dev.word SRV_CMD g ∧ t.get SRV_INT_STATUS.CMD_ERR g = 1
    (ok → Completes (.seek who g v) s (issued 0)) ∧ (¬ok → Completes (.seek who g v) s dropped) ∧
    (ok → Completes (.unload who g v) s (issued 2)) ∧ (¬ok → Completes (.unload who g v) s dropped) ∧
    (park → Completes (.load who g v) s (issued 1)) ∧ (¬park → Completes (.load who g v) s dropped)) ∧
  (∀ s (g : Grp), s.dev.clocked (9 + g) = true → s.dev.get SRV_STATUS.STATE g = 2 → s.dev.srv[g].loadFailed = false →
    s.dev.srv[g].transfer = none → Completes (.loadTimeout g) s fun t =>
      t.get SRV_INT_STATUS.LOAD_FAIL g = 1 ∧ t.srv[g].loadFailed = true ∧ t.srv[g].loadCyl = none) ∧
  (∀ s (g : Grp), s.dev.clocked (9 + g) = true → s.dev.onRamp g = true → s.dev.atRest g = true → s.dev.mode ≠ .retract → s.dev.mode ≠ .coastFlush →
    Completes (.parked g) s fun t =>
      t.get SRV_STATUS.STATE g = 1 ∧ t.get SRV_INT_STATUS.PARKED g = 1 ∧ t.get SRV_SUP_STATUS.WI g = 255 ∧
      t.srv[g].vcm = 0) ∧
  (∀ s (g : Grp), s.dev.clocked (9 + g) = true → s.dev.get SRV_STATUS.STATE g = 6 → Completes (.unloadTimeout g) s fun t =>
    t.get SRV_STATUS.STATE g = 7 ∧ t.srv[g].retCause = 7)

/-- R196, R228, R229, R231, R240 to R245: the actuator link, enable and retract. A good frame fills the amplifier's registers;
the first failure of a frame repeats it with its sequence number, the second is a link fault and retracts. Setting EN parks,
clearing it retracts a group that is not parked. An entry into RETRACT inhibits every head, zeroes the codes, drops what waits
for a t0, returns the tokens and gives its requests back, those of a flush apart (R328); a request in RETRACT adds its cause, and one in OFF or PARKED
latches it alone. The exit writes the record. -/
def Obligations.ServoLinkAndRetract : Prop :=
  (∀ s (g : Grp) (f : UpFrame), s.dev.clocked (9 + g) = true → s.dev.get SRV_STATUS.STATE g ≠ 0 → upCrcOk f = true → f.head.toNat / 16 = 8 →
    f.status.toNat / 8 % 8 = 0 → f.status.getLsbD 7 = false → f.status.toNat / 256 = 0 → Completes (.upstreamFrame g f) s fun t =>
      t.get SRV_AMP_STATUS.STATUS g = f.status.toNat ∧ t.get SRV_AMP_STATUS.TEMP g = f.temp.toNat ∧
      t.get SRV_AMP_MEAS.IVCM g = f.ivcm.toNat ∧ t.get SRV_AMP_MEAS.BEMF g = f.bemf.toNat ∧
      t.srv[g].echo = f.head.toNat % 16 ∧ t.srv[g].repeated = false ∧
      t.get SRV_STATUS.STATE g = s.dev.get SRV_STATUS.STATE g) ∧
  (∀ s (g : Grp) (f : UpFrame) st, s.dev.clocked (9 + g) = true → s.dev.get SRV_STATUS.STATE g = st → st ≠ 0 → upCrcOk f = false →
    s.dev.get SRV_LINK_STATUS.FAULT g = 0 →
    let once := fun (t : Dev) => t.get SRV_INT_STATUS.LINK_RETRY g = 1 ∧ t.srv[g].repeated = true ∧
      t.srv[g].seq = s.dev.srv[g].seq ∧ t.get SRV_STATUS.STATE g = st
    let twice := fun (t : Dev) => t.get SRV_LINK_STATUS.FAULT g = 1 ∧ t.get SRV_INT_STATUS.LINK_FAULT g = 1 ∧
      (t.get SRV_STATUS.STATE g = if st = 1 then 1 else 7) ∧ t.get SRV_SUP_STATUS.RET_LATCH g = 1
    (s.dev.srv[g].repeated = false → Completes (.upstreamFrame g f) s fun t => once t ∧
      t.get SRV_LINK_STATUS.UP_ERR g = min 255 (s.dev.get SRV_LINK_STATUS.UP_ERR g + 1)) ∧
    (s.dev.srv[g].repeated = true → Completes (.upstreamFrame g f) s twice) ∧
    (s.dev.srv[g].repeated = false → Completes (.upstreamTimeout g) s fun t => once t ∧
      t.get SRV_LINK_STATUS.UP_MISS g = min 255 (s.dev.get SRV_LINK_STATUS.UP_MISS g + 1)) ∧
    (s.dev.srv[g].repeated = true → Completes (.upstreamTimeout g) s twice)) ∧
  (∀ s who (g : Grp) v, s.dev.takes who (SRV_CTRL.at g) = true → s.dev.get SRV_CTRL.EN g = 0 →
    s.dev.get SRV_STATUS.STATE g = 0 → Completes (.srvEnable who g v) s fun t =>
      t.get SRV_CTRL.EN g = 1 ∧ t.get SRV_STATUS.STATE g = 1 ∧ t.word SRV_LINK_STATUS g = 0) ∧
  (∀ s who (g : Grp) v st, s.dev.takes who (SRV_CTRL.at g) = true → s.dev.get SRV_CTRL.EN g = 1 →
    s.dev.get SRV_CAP_CTRL.ARM g = 0 → s.dev.mode ≠ .retract → s.dev.mode ≠ .coastFlush →
    s.dev.get SRV_STATUS.STATE g = st → st ≠ 0 → st ≠ 7 → Completes (.srvDisable who g v) s fun t =>
      t.get SRV_CTRL.EN g = 0 ∧ t.get SRV_STATUS.STATE g = (if st = 1 then 0 else 7) ∧ (st ≠ 1 → t.srv[g].retCause = 2)) ∧
  (∀ s (g : Grp) cause st, s.dev.clocked (9 + g) = true → 1 ≤ cause → cause ≤ 10 → s.dev.get SRV_STATUS.STATE g = st →
    (st ≠ 0 → st ≠ 1 → st ≠ 7 → Completes (.retractRequest g cause) s fun t =>
      t.get SRV_STATUS.STATE g = 7 ∧ t.srv[g].retCause = cause ∧ t.srv[g].retMask = 1 <<< (cause - 1) ∧
      t.get SRV_SUP_STATUS.WI g = 255 ∧ t.get SRV_SUP_STATUS.RET_LATCH g = 1 ∧ t.get SRV_RET_INFO.VALID g = 0 ∧
      t.get SRV_INT_STATUS.RETRACT g = 1 ∧ t.srv[g].vcm = 0 ∧ t.tok.held[g] = 0 ∧
      (∀ i : HeadIx, bit t.wls[g].gates i = false) ∧
      t.get SRV_CMD.GO g = 0 ∧ t.get SRV_MODE_CMD.GO g = 0 ∧ t.srv[g].request = none ∧
      (s.dev.get SRV_CMD.GO g = 1 ∨ s.dev.get SRV_MODE_CMD.GO g = 1 ∨ s.dev.srv[g].request ≠ none →
        t.get SRV_INT_STATUS.CMD_ERR g = 1) ∧
      t.grpq[g].list = (s.dev.grpq[g].posted ++ s.dev.grpq[g].active.toList ++ s.dev.grpq[g].list).filter
        (fun m => !m.isFlush) ∧
      t.grpq[g].active = none ∧ t.grpq[g].posted = []) ∧
    (st = 7 → Completes (.retractRequest g cause) s fun t =>
      t.srv[g].retCause = s.dev.srv[g].retCause ∧ bit t.srv[g].retMask (cause - 1) = true ∧
      t.get SRV_STATUS.STATE g = 7) ∧
    (st = 0 ∨ st = 1 → Completes (.retractRequest g cause) s fun t =>
      t.get SRV_STATUS.STATE g = st ∧ t.get SRV_SUP_STATUS.RET_LATCH g = 1 ∧
      bit (t.get SRV_RET_INFO.MASK g) (cause - 1) = true)) ∧
  (∀ s (g : Grp), s.dev.clocked (9 + g) = true → s.dev.get SRV_STATUS.STATE g = 7 → s.dev.srv[g].retCause < 16 → s.dev.srv[g].retMask < 1024 →
    s.dev.mode ≠ .retract → s.dev.mode ≠ .coastFlush →
    let out := fun (un : Nat) (t : Dev) =>
      t.get SRV_STATUS.STATE g = (if s.dev.srv[g].retCause = 2 then 0 else 1) ∧ t.get SRV_RET_INFO.VALID g = 1 ∧
      t.get SRV_RET_INFO.CAUSE g = s.dev.srv[g].retCause ∧ t.get SRV_RET_INFO.MASK g = s.dev.srv[g].retMask ∧
      t.get SRV_RET_INFO.UNCONFIRMED g = un ∧ t.get SRV_INT_STATUS.RETRACT g = 1
    Completes (.retractTimeout g) s (out 1) ∧
    (s.dev.get SRV_LINK_STATUS.FAULT g = 0 → bit (s.dev.get SRV_AMP_STATUS.STATUS g) 6 = false → s.dev.atRest g = true →
      Completes (.retractExit g) s (out 0))) ∧
  (∀ s who (g : Grp) v st, s.dev.takes who (SRV_MODE_CMD.at g) = true → s.dev.get SRV_STATUS.STATE g = st → st ≠ 0 → st ≠ 1 →
    st ≠ 7 → Completes (.fwRetract who g v) s fun t =>
      t.get SRV_STATUS.STATE g = 7 ∧ t.srv[g].retCause = 1 ∧ t.get SRV_MODE_CMD.GO g = 0)

/-- R247, R250, R255, R256, R260, R261: mode commands, injection and capture. MANUAL is accepted under FW_OWN in SEEK, SETTLE
or TRACK, AUTO in MANUAL, else CMD_ERR. GO arms the generator in HEAD_LOAD or MAKER_SERVICE in SETTLE, TRACK or MANUAL, else it
is refused with LOCKED; STOP and the end of COUNT end it. An arm clears the result and status; an abort or the last record
writes the result. -/
def Obligations.ServoTuning : Prop :=
  (∀ s who (g : Grp) v st, s.dev.takes who (SRV_MODE_CMD.at g) = true → s.dev.get SRV_STATUS.STATE g = st →
    let issued := fun (op : Nat) (t : Dev) =>
      t.get SRV_MODE_CMD.GO g = 1 ∧ t.get SRV_MODE_CMD.OP g = op ∧ t.get SRV_MODE_CMD.CYL g = SRV_MODE_CMD.CYL.of v
    let dropped := fun (t : Dev) => t.word SRV_MODE_CMD g = s.dev.word SRV_MODE_CMD g ∧ t.get SRV_INT_STATUS.CMD_ERR g = 1
    let free := s.dev.get SRV_CTRL.FW_OWN g = 1 ∧ (st = 3 ∨ st = 4 ∨ st = 5)
    (free → Completes (.manual who g v) s (issued 0)) ∧ (¬free → Completes (.manual who g v) s dropped) ∧
    (st = 8 → Completes (.auto who g v) s (issued 1)) ∧ (st ≠ 8 → Completes (.auto who g v) s dropped)) ∧
  (∀ s who (g : Grp) v st, s.dev.takes who (SRV_ICU_CTRL.at g) = true → s.dev.get SRV_STATUS.STATE g = st →
    let allowed := (s.dev.mode = .makerService ∨ s.dev.mode = .headLoad) ∧ (st = 4 ∨ st = 5 ∨ st = 8)
    (allowed → s.dev.get SRV_ICU_CTRL.RUN g = 0 → SRV_ICU_CTRL.TYPE.of v ≠ 3 → Completes (.icuGo who g v) s fun t =>
      t.get SRV_ICU_CTRL.GO g = 1 ∧ t.srv[g].icu.armed = true ∧ t.get SRV_ICU_CTRL.TYPE g = SRV_ICU_CTRL.TYPE.of v) ∧
    (¬allowed → s.dev.get SYS_BUS_ERR_INFO.VALID = 0 → Completes (.icuGo who g v) s fun t =>
      t.word SRV_ICU_CTRL g = s.dev.word SRV_ICU_CTRL g ∧ t.srv = s.dev.srv ∧ t.get SYS_BUS_ERR_INFO.CAUSE = 5) ∧
    Completes (.icuStop who g v) s fun t => t.srv[g].icu.stop = true ∧ t.get SRV_ICU_CTRL.STOP g = 1 ∧
      t.get SRV_ICU_CTRL.GO g = 0 ∧ t.srv[g].icu.armed = false) ∧
  (∀ s (g : Grp), s.dev.clocked (9 + g) = true → s.dev.get SRV_ICU_CTRL.RUN g = 1 → s.dev.icuCount g ≤ s.dev.srv[g].icu.step →
    (s.dev.get SRV_ICU_CTRL.LOOP g = 0 → Completes (.icuProgramEnd g) s fun t =>
      t.get SRV_ICU_CTRL.RUN g = 0 ∧ t.srv[g].icu.inj = 0) ∧
    (s.dev.get SRV_ICU_CTRL.LOOP g = 1 → Completes (.icuProgramEnd g) s fun t =>
      t.get SRV_ICU_CTRL.RUN g = 1 ∧ t.srv[g].icu.step = 0 ∧ t.srv[g].icu.phi = 0 ∧ t.srv[g].icu.lfsr = 1)) ∧
  (∀ s who (g : Grp) v, s.dev.takes who (SRV_CAP_CTRL.at g) = true →
    (SRV_CAP_CTRL.TRIG.of v ≤ 5 → Completes (.capArm who g v) s fun t =>
      t.get SRV_CAP_CTRL.ARM g = 1 ∧ t.get SRV_CAP_CTRL.TRIG g = SRV_CAP_CTRL.TRIG.of v ∧ t.get SRV_CAP_RESULT.VALID g = 0 ∧
      t.word SRV_CAP_STATUS g = 0 ∧ t.srv[g].cap.trigged = false) ∧
    (5 < SRV_CAP_CTRL.TRIG.of v → s.dev.get SYS_BUS_ERR_INFO.VALID = 0 → Completes (.capArm who g v) s fun t =>
      t.word SRV_CAP_CTRL g = s.dev.word SRV_CAP_CTRL g ∧ t.get SYS_BUS_ERR_INFO.CAUSE = 7) ∧
    (s.dev.get SRV_CAP_CTRL.ARM g = 1 → Completes (.capAbort who g v) s fun t =>
      t.get SRV_CAP_CTRL.ARM g = 0 ∧ t.get SRV_CAP_RESULT.VALID g = 1 ∧ t.get SRV_CAP_RESULT.ABORTED g = 1 ∧
      t.get SRV_CAP_RESULT.SEQ g = (s.dev.get SRV_CAP_RESULT.SEQ g + 1) % 128 ∧ t.get SRV_INT_STATUS.CAPTURE g = 1) ∧
    (s.dev.get SRV_CAP_CTRL.ARM g = 1 → SRV_CAP_CTRL.TRIG.of v = 5 → s.dev.srv[g].cap.trigged = false →
      Completes (.trigNow who g v) s fun t => t.srv[g].cap.trigNow = true ∧ t.get SRV_CAP_CTRL.ARM g = 1)) ∧
  (∀ s (g : Grp), s.dev.clocked (9 + g) = true → s.dev.get SRV_CAP_CTRL.ARM g = 1 → s.dev.srv[g].cap.trigged = true → s.dev.srv[g].cap.left = 0 →
    Completes (.captureEnd g) s fun t =>
      t.get SRV_CAP_CTRL.ARM g = 0 ∧ t.get SRV_CAP_RESULT.VALID g = 1 ∧ t.get SRV_CAP_RESULT.ABORTED g = 0 ∧
      t.get SRV_CAP_RESULT.OVERRUN g = 0 ∧ t.get SRV_CAP_RESULT.TRIGGERED g = 1 ∧ t.get SRV_INT_STATUS.CAPTURE g = 1)

/-! ### Spindle, rate matching and power loss (chapters 08 and 09) -/

/-- R266 to R269: minimum-pulse insertion. For switching times that the duty limit allows every pulse keeps its width and its
period, and both shunt windows last at least T_MIN. -/
def Obligations.PulsesKeepWidth : Prop :=
  ∀ (tmin : Nat) (T : Fin 3 → Nat), (∀ x, tmin ≤ T x ∧ T x ≤ 3125) → ∃ on off : Fin 3 → Nat,
    pulses tmin (T 0) (T 1) (T 2) = [(on 0, off 0), (on 1, off 1), (on 2, off 2)] ∧
    (∀ x, off x = on x + (6250 - 2 * T x) ∧ off x ≤ 6250) ∧
    ∃ a b c : Fin 3, a ≠ b ∧ b ≠ c ∧ a ≠ c ∧ T a ≤ T b ∧ T b ≤ T c ∧ on a + tmin ≤ on b ∧ on b + tmin ≤ on c

/-- R294, R300 to R302: firmware reaches the spindle's command and target in MAKER_SERVICE alone; the operation waits with GO
for the next PWM period, which takes it where the state accepts it and drops it with CMD_ERR else (a period without a fault
reaction: R301; in which no revolution ends); KE_RECHECK waits in KE_HOLD for 1,000 rpm. EN leads from OFF to
COAST, clearing it to OFF, from a turning spindle after a retract of every loaded group. A chopper judged faulty is switched off (R318), and the end of
an overvoltage leads to COAST (R319). -/
def Obligations.SpindleCommands : Prop :=
  (∀ s who v, s.dev.takes who SPN_CMD.at = true →
    (s.dev.mode = .makerService → ∀ op row, (op, row) ∈
        [(0, Instr.spnStart who v), (1, .spnStop who v), (2, .spnCoast who v), (3, .keRecheck who v)] →
      Completes row s fun t => t.get SPN_CMD.GO = 1 ∧ t.get SPN_CMD.OP = op) ∧
    (s.dev.mode ≠ .makerService → s.dev.get SYS_BUS_ERR_INFO.VALID = 0 → ∀ row, row ∈
        [Instr.spnStart who v, .spnStop who v, .spnCoast who v, .keRecheck who v] →
      Completes row s fun t => t.word SPN_CMD = s.dev.word SPN_CMD ∧ t.get SYS_BUS_ERR_INFO.CAUSE = 5)) ∧
  (∀ s who v, s.dev.takes who SPN_TARGET.at = true →
    (s.dev.mode = .makerService → Completes (.spnTargetWrite who v) s fun t =>
      t.get SPN_TARGET.TARGET = SPN_TARGET.TARGET.of v) ∧
    (s.dev.mode ≠ .makerService → s.dev.get SYS_BUS_ERR_INFO.VALID = 0 → Completes (.spnTargetWrite who v) s fun t =>
      t.word SPN_TARGET = s.dev.word SPN_TARGET ∧ t.get SYS_BUS_ERR_INFO.CAUSE = 5)) ∧
  (∀ s p op st, s.dev.islandUp 13 = true → s.dev.get SPN_LINK_CFG.PF_VLINK ≤ linkMv p.vlink → linkHigh (linkMv p.vlink) = false →
    p.resid ≤ s.dev.get SPN_OBS_CFG.RES_THR →
    (s.dev.get SPN_STATUS.SRC = 2 → ((p.obsSpeed : Int) - s.dev.spn.wedgeSpeed).natAbs * 100 ≤ s.dev.spn.wedgeSpeed) →
    s.dev.spn.revAcc + s.dev.speedOf p < 30720000 → s.dev.get SPN_STOP_STATUS.CHOP_ON = 0 → s.dev.spn.ovStage = 0 →
    s.dev.get SPN_STATUS.STATE = st → s.dev.get SPN_CMD.GO = 1 → s.dev.get SPN_CMD.OP = op →
    (st = 8 → s.dev.spn.zcRetract = true ∧ s.dev.get SPN_OBS_CFG.REACQ_CNT ≠ 0 ∧ s.dev.get SPN_OBS_CFG.RES_THR < 2 * p.resid) →
    (st = 11 → s.dev.spn.restart = false) →
    (op = 0 → (st = 9 ∨ st = 10) → s.dev.ksFenced 14 = false → Completes (.pwmPeriod p) s fun t =>
      t.get SPN_STATUS.STATE = 1 ∧ t.get SPN_CMD.GO = 0 ∧ t.get SPN_COAST_INFO.VALID = 0) ∧
    (op = 1 → (st = 1 ∨ st = 2 ∨ st = 3) → Completes (.pwmPeriod p) s fun t =>
      t.get SPN_STATUS.STATE = 9 ∧ t.get SPN_CMD.GO = 0) ∧
    (op = 1 → 4 ≤ st → st ≤ 8 → Completes (.pwmPeriod p) s fun t =>
      t.get SPN_STATUS.STATE = 11 ∧ t.get SPN_CMD.GO = 0 ∧ t.get SPN_STATUS.REGULATED = 0) ∧
    (op = 2 → st ≠ 0 → st ≠ 11 → s.dev.allParked = true → Completes (.pwmPeriod p) s fun t =>
      t.get SPN_STATUS.STATE = 9 ∧ t.get SPN_CMD.GO = 0) ∧
    (op = 3 → st = 7 → s.dev.mode = .makerService → s.dev.spn.fine = 16000 * 2000 → 16000 ≤ s.dev.speedOf p →
      Completes (.pwmPeriod p) s fun t =>
        t.get SPN_STATUS.STATE = 6 ∧ t.get SPN_CMD.GO = 0 ∧ t.get SPN_KE_MEAS.VALID = 0) ∧
    (op = 3 → st = 7 → s.dev.mode = .makerService → s.dev.speedOf p < 16000 → Completes (.pwmPeriod p) s fun t =>
      t.get SPN_STATUS.STATE = 7 ∧ t.get SPN_CMD.GO = 0 ∧ t.spn.recheck = true) ∧
    ((op = 0 ∧ st ≠ 9 ∧ st ≠ 10) ∨ (op = 1 ∧ (st = 0 ∨ st = 9 ∨ st = 10)) ∨ (op = 2 ∧ s.dev.allParked = false) ∨
        (op = 3 ∧ (s.dev.mode ≠ .makerService ∨ st ≠ 7)) ∨ s.dev.floating = true → Completes (.pwmPeriod p) s fun t =>
      t.get SPN_CMD.GO = 0 ∧ t.get SPN_INT_STATUS.CMD_ERR = 1)) ∧
  (∀ s who v, s.dev.takes who SPN_CTRL.at = true → s.dev.get SPN_STATUS.STATE = 0 → Completes (.spnEnable who v) s fun t =>
    t.get SPN_CTRL.EN = 1 ∧ t.get SPN_STATUS.STATE = 9) ∧
  (∀ s who v, s.dev.takes who SPN_CTRL.at = true → Completes (.spnDisable who v) s fun t =>
    t.get SPN_CTRL.EN = 0 ∧ t.get SPN_STATUS.STATE = 0 ∧
    ∀ g : Grp, s.dev.get SPN_STATUS.STATE ≠ 0 → s.dev.get SPN_STATUS.STATE ≠ 9 → s.dev.get SRV_STATUS.STATE g ≠ 0 →
      s.dev.get SRV_STATUS.STATE g ≠ 1 → t.get SRV_STATUS.STATE g = 7) ∧
  (∀ s, s.dev.clocked 13 = true → s.dev.get SPN_STOP_STATUS.CHOP_ON = 1 → s.dev.chopWhy (s.dev.get SPN_MEAS.VLINK) ≠ 0 →
    Completes .chopFault s fun t => t.get SPN_STOP_STATUS.CHOP_ON = 0 ∧ t.get SPN_STOP_STATUS.CHOP_BAD = 1) ∧
  (∀ s, s.dev.clocked 13 = true → s.dev.spn.ovStage = 2 → s.dev.spn.under ≠ 0 → Completes .ovRecover s fun t =>
    t.get SPN_STATUS.STATE = 9 ∧ t.spn.ovStage = 0)

/-- R273, R276 to R280, R283 to R286: a start. The third crossing on at least two phases or COAST_MS ends the coast check by
the table of R276; REV_BRAKE leads to ALIGN or FAULT; an injection that has converged begins the polarity test, ALIGN leads to HFI_RUN by a polarity
that is decided within three tests, else to FAULT; HFI_RUN to OBS_RUN at 600 rpm with the angles agreed, else to FAULT; a Ke
window with fewer than two crossings on a phase is repeated once; a measured Ke within 8 % of the reference leads to OBS_RUN. The site of
the spindle records its faults (ACTION 0). -/
def Obligations.SpindleStart : Prop :=
  (∀ s fwd v, s.dev.clocked 13 = true → s.dev.get SPN_STATUS.STATE = 1 → coastFinding (s.dev.get SPN_MODEL.POLE_PAIRS) s.dev.spn.cross = (fwd, v) →
    Completes .coastCheckTimeout s fun t =>
      t.get SPN_COAST_INFO.VALID = 1 ∧ t.get SPN_COAST_INFO.SEQ = (s.dev.get SPN_COAST_INFO.SEQ + 1) % 128 ∧
      (v < 480 → t.get SPN_COAST_INFO.RESULT = 0 ∧ t.get SPN_STATUS.STATE = 3) ∧
      (480 ≤ v → fwd = false → t.get SPN_COAST_INFO.RESULT = 1 ∧ t.get SPN_STATUS.STATE = 2 ∧
        t.get SPN_INT_STATUS.REVERSE = 1) ∧
      (480 ≤ v → fwd = true → v < 9600 → t.get SPN_COAST_INFO.RESULT = 2 ∧ t.get SPN_STATUS.STATE = 3) ∧
      (9600 ≤ v → fwd = true → t.get SPN_COAST_INFO.RESULT = 3 ∧ t.get SPN_STATUS.STATE = 6 ∧
        t.get SPN_INT_STATUS.CATCH = 1)) ∧
  (∀ s ph us, s.dev.clocked 13 = true → s.dev.get SPN_STATUS.STATE = 1 →
    (s.dev.spn.cross.length < 2 ∨ phasesOf (s.dev.spn.cross ++ [(ph, us)]) < 2 → Completes (.zeroCrossing ph us) s fun t =>
      t.get SPN_STATUS.STATE = 1 ∧ t.spn.cross = s.dev.spn.cross ++ [(ph, us)]) ∧
    (2 ≤ s.dev.spn.cross.length → 2 ≤ phasesOf (s.dev.spn.cross ++ [(ph, us)]) → Completes (.zeroCrossing ph us) s fun t =>
      t.get SPN_STATUS.STATE ≠ 1 ∧ t.get SPN_COAST_INFO.VALID = 1)) ∧
  (∀ s, s.dev.clocked 13 = true → s.dev.get SPN_STATUS.STATE = 2 → Completes .revBrakeRest s fun t => t.get SPN_STATUS.STATE = 3) ∧
  (∀ s, s.dev.clocked 13 = true → s.dev.get FLT_SITE_CFG.ACTION 0 160 = 0 →
    let fault := fun (c : Nat) (t : Dev) =>
      t.get SPN_STATUS.STATE = 10 ∧ t.get SPN_STATUS.FCAUSE = c ∧ t.get SPN_INT_STATUS.FAULT = 1
    (s.dev.get SPN_STATUS.STATE = 2 → Completes .revBrakeTimeout s (fault 1)) ∧
    (s.dev.get SPN_STATUS.STATE = 3 → s.dev.spn.polAt = none → Completes .hfiTimeout s (fault 2)) ∧
    (s.dev.get SPN_STATUS.STATE = 4 → 9600 ≤ s.dev.get SPN_SPEED.SPEED → s.dev.spn.agreed < 32 →
      Completes .handoverTimeout s (fault 4)) ∧
    (∀ (a b : Nat), s.dev.get SPN_STATUS.STATE = 3 → s.dev.spn.polAt.isSome = true →
      (((a : Int) - b).natAbs * 100 < 3 * max a b ∨ a = b) →
      (s.dev.spn.polTries < 2 → Completes (.polarityTestEnd a b) s fun t =>
        t.get SPN_STATUS.STATE = 3 ∧ t.spn.polTries = s.dev.spn.polTries + 1) ∧
      (2 ≤ s.dev.spn.polTries → Completes (.polarityTestEnd a b) s (fault 3))) ∧
    (∀ l w (t0 : Nat) (ph : Sys2Proof.Phase), s.dev.get SPN_STATUS.STATE = 6 → s.dev.spn.abnormal = false →
      ((s.dev.spn.cross ++ l).filter fun x => decide (t0 ≤ x.2) && x.1 == ph).length < 2 →
      (s.dev.spn.keTries = 0 → Completes (.keCheckEnd l w t0) s fun t => t.get SPN_STATUS.STATE = 6) ∧
      (1 ≤ s.dev.spn.keTries → Completes (.keCheckEnd l w t0) s (fault 5)))) ∧
  (∀ s, s.dev.clocked 13 = true → s.dev.get SPN_STATUS.STATE = 3 → s.dev.spn.polAt = none → 64 ≤ s.dev.spn.hfiRun →
    Completes .hfiConverged s fun t => t.spn.polTries = 0 ∧ t.spn.flip = false ∧ t.spn.polAt = some 0) ∧
  (∀ s (a b : Nat), s.dev.clocked 13 = true → s.dev.get SPN_STATUS.STATE = 3 → s.dev.spn.polAt.isSome = true → 3 * max a b ≤ ((a : Int) - b).natAbs * 100 → a ≠ b →
    Completes (.polarityTestEnd a b) s fun t => t.get SPN_STATUS.STATE = 4 ∧ t.spn.flip = decide (a < b)) ∧
  (∀ s, s.dev.clocked 13 = true → s.dev.get SPN_STATUS.STATE = 4 → 9600 ≤ s.dev.get SPN_SPEED.SPEED → 32 ≤ s.dev.spn.agreed →
    Completes .obsHandover s fun t =>
    t.get SPN_STATUS.STATE = 5) ∧
  (∀ s l w (t0 pk v ke : Nat), s.dev.clocked 13 = true → s.dev.get SPN_STATUS.STATE = 6 → s.dev.spn.abnormal = false →
    s.dev.keWindow l w t0 = (some v, pk) → v ≠ 0 → (freeDiv (pk * 160000 : Nat) v).toNat = ke → ke < 65536 →
    (((ke : Int) - s.dev.get SPN_KE_REF.KE).natAbs * 100 ≤ 8 * s.dev.get SPN_KE_REF.KE →
      Completes (.keCheckEnd l w t0) s fun t =>
        t.get SPN_STATUS.STATE = 5 ∧ t.get SPN_STATUS.KE_OK = 1 ∧ t.get SPN_KE_MEAS.VALID = 1 ∧ t.get SPN_KE_MEAS.KE = ke ∧
        t.get SPN_KE_MEAS.PASS = 1 ∧ t.get SPN_INT_STATUS.KE_DONE = 1) ∧
    (8 * s.dev.get SPN_KE_REF.KE < ((ke : Int) - s.dev.get SPN_KE_REF.KE).natAbs * 100 → v ≤ 16000 →
      Completes (.keCheckEnd l w t0) s fun t =>
        t.get SPN_STATUS.STATE = 7 ∧ t.get SPN_STATUS.KE_OK = 0 ∧ t.get SPN_KE_MEAS.PASS = 0 ∧
        t.get SPN_INT_STATUS.ABNORMAL_KE = 1))

/-- R289, R291, R295, R296, R298, R299: at speed. A lost observer leads to ZC_FALLBACK with a record not valid, the rotor
acquired again back to the state before, with the record; a missed crossing is commutated now; a lost crossing coasts
and ends the loads. The first wedge of the source anchors the grid, each later one advances it; a phase error beyond half a
wedge re-anchors without a step of the current; a revolution of wedges outside the tolerance clears REGULATED. REG_REVS
revolutions within the tolerance set REGULATED,
one outside clears it. -/
def Obligations.SpindleAtSpeed : Prop :=
  (∀ s m st, s.dev.clocked 13 = true → s.dev.get SPN_STATUS.STATE = st → (st = 5 ∨ st = 7) →
    (m = true → s.dev.get SPN_STATUS.SRC = 2) → Completes (.obsLost m) s fun t =>
    t.get SPN_STATUS.STATE = 8 ∧ t.spn.before = st ∧ t.get SPN_INT_STATUS.OBS_LOST = 1 ∧ t.get SPN_LOSS_INFO.VALID = 0 ∧
    t.get SPN_LOSS_INFO.CAUSE = m.toNat ∧ t.get SPN_LOSS_INFO.SPEED = s.dev.get SPN_SPEED.SPEED) ∧
  (∀ s st, s.dev.clocked 13 = true → s.dev.get SPN_STATUS.STATE = 8 → s.dev.spn.before = st → (st = 5 ∨ st = 7) →
    s.dev.mayReacquire = true → Completes .obsReacq s fun t =>
    t.get SPN_STATUS.STATE = st ∧ t.get SPN_LOSS_INFO.VALID = 1 ∧ t.get SPN_LOSS_INFO.REACQ = 1 ∧
    t.get SPN_LOSS_INFO.SEQ = (s.dev.get SPN_LOSS_INFO.SEQ + 1) % 128 ∧ t.get SPN_INT_STATUS.OBS_REACQ = 1) ∧
  (∀ s, s.dev.clocked 13 = true → s.dev.get SPN_STATUS.STATE = 8 → s.dev.spn.commAt = none → Completes .zcMissed s fun t =>
    t.spn.comms = s.dev.spn.comms + 1 ∧ t.spn.lastComm = s.dev.spn.clk ∧ t.spn.zcMiss = s.dev.spn.zcMiss + 1 ∧
    t.regs = s.dev.regs) ∧
  (∀ s, s.dev.clocked 13 = true → s.dev.get SPN_STATUS.STATE = 8 → s.dev.get FLT_SITE_CFG.ACTION 0 160 = 0 →
    Completes .zcLost s fun t =>
    t.get SPN_STATUS.STATE = 9 ∧ t.get SPN_LOSS_INFO.ZC_LOST = 1 ∧ t.get SPN_LOSS_INFO.VALID = 1 ∧
    t.get SPN_INT_STATUS.ZC_LOST = 1 ∧
    ∀ g : Grp, s.dev.get SRV_STATUS.STATE g ≠ 0 → s.dev.get SRV_STATUS.STATE g ≠ 1 → t.get SRV_STATUS.STATE g = 7) ∧
  (∀ s (time : Nat), s.dev.clocked 13 = true → s.dev.get SPN_STATUS.SRC = 2 →
    (s.dev.spn.grid = none → Completes (.wedgeRegulation time) s fun t =>
      t.spn.grid = some (time : Rat) ∧ t.spn.revStart = time ∧ t.spn.phInt = s.dev.spn.phInt ∧ t.regs = s.dev.regs) ∧
    ∀ e, s.dev.phaseError time = some e →
      (s.dev.wedgeEighths < 2 * e ∨ s.dev.wedgeEighths < -(2 * e) → Completes (.wedgeRegulation time) s fun t =>
        t.get SPN_STATUS.REGULATED = 0 ∧ t.spn.grid = some (time : Rat) ∧ t.spn.phInt = 0 ∧
        t.spn.iqAdd = s.dev.spn.iqAdd ∧ t.spn.iqBase = s.dev.spn.iqAdd) ∧
      (2 * e ≤ s.dev.wedgeEighths → -(2 * e) ≤ s.dev.wedgeEighths → s.dev.spn.revWedges + 1 < s.dev.nw →
        Completes (.wedgeRegulation time) s fun t =>
          t.spn.phInt = s.dev.spn.phInt + freeDiv e.num e.den ∧ t.spn.phLast = freeDiv e.num e.den ∧
          t.spn.grid = s.dev.spn.grid.map (· + s.dev.wedgeEighths) ∧ t.spn.revWedges = s.dev.spn.revWedges + 1 ∧
          t.regs = s.dev.regs) ∧
      (2 * e ≤ s.dev.wedgeEighths → -(2 * e) ≤ s.dev.wedgeEighths → s.dev.nw ≤ s.dev.spn.revWedges + 1 →
        s.dev.driven = true → s.dev.outOfTol (s.dev.wedgeEighths * s.dev.nw) (((time : Int) - s.dev.spn.revStart : Int) : Rat) = true →
        Completes (.wedgeRegulation time) s fun t =>
          t.get SPN_STATUS.REGULATED = 0 ∧ t.spn.revStart = time ∧ t.spn.revWedges = 0 ∧
          t.spn.phInt = s.dev.spn.phInt + freeDiv e.num e.den)) ∧
  (∀ s l, s.dev.clocked 13 = true → s.dev.driven = true →
    (atLeast1 (s.dev.get SPN_REG_CFG.REG_REVS) ≤ l.length → s.dev.get SPN_STATUS.REGULATED = 0 →
      (∀ e ∈ l.reverse.take (atLeast1 (s.dev.get SPN_REG_CFG.REG_REVS)), Int.natAbs e ≤ s.dev.get SPN_REG_CFG.REG_TOL * 10) →
      Completes (.regulated l) s fun t => t.get SPN_STATUS.REGULATED = 1 ∧ t.get SPN_INT_STATUS.REG_CHANGE = 1 ∧
        (s.dev.spn.started = false → t.get SPN_INT_STATUS.STARTED = 1 ∧ t.spn.started = true)) ∧
    ((∃ e ∈ l.reverse.take (atLeast1 (s.dev.get SPN_REG_CFG.REG_REVS)), s.dev.get SPN_REG_CFG.REG_TOL * 10 < Int.natAbs e) →
      Completes (.regulated l) s fun t => t.get SPN_STATUS.REGULATED = 0))

/-- R303 to R308: rate matching writes SPN_TARGET only with the speed of a band, an upward one at once; a target above the ceiling
moves to it, or waits, with its band's limit in force, until the held portion fits; the host's limits are
taken or refused with RANGE. -/
def Obligations.RateMatching : Prop :=
  (∀ s, s.dev.get RMT_HOST.FLOOR ≤ 23 → Completes .rateMatchWindow s fun t =>
    t.get SPN_TARGET.TARGET = s.dev.get SPN_TARGET.TARGET ∨ ∃ b, b ≤ 23 ∧ t.get SPN_TARGET.TARGET = bandSpeed b) ∧
  (∀ s b, s.dev.clocked 13 = true → s.dev.get RMT_CTRL.EN = 1 → s.dev.inMode [.active, .glide, .lightIdle, .deepIdle] = true →
    s.dev.get RMT_HOST.FLOOR ≤ s.dev.tgtBand → s.dev.tgtBand < s.dev.ceilEff →
    s.dev.bNeed (s.dev.rateNeed (s.dev.rmt.dbar +
      ((s.dev.rmt.bytes : Rat) / 10000 - s.dev.rmt.dbar) / 2 ^ s.dev.get RMT_CTRL.AVG_SHIFT)) = b → s.dev.tgtBand < b →
    b ≤ s.dev.ceilEff → Completes .rateMatchWindow s fun t =>
      t.get SPN_TARGET.TARGET = bandSpeed b ∧ t.get RMT_STATUS.B_NEED = b ∧ t.get RMT_STATUS.B_TGT = b ∧ t.rmt.bytes = 0) ∧
  (∀ s, s.dev.clocked 13 = true → s.dev.rmtRuns = true → s.dev.get RMT_HOST.FLOOR ≤ s.dev.tgtBand → s.dev.ceilEff < s.dev.tgtBand →
    Completes .rateMatchWindow s fun t =>
      (s.dev.heldBufs ≤ s.dev.limitOf s.dev.ceilEff → t.get SPN_TARGET.TARGET = bandSpeed s.dev.ceilEff) ∧
      (s.dev.limitOf s.dev.ceilEff < s.dev.heldBufs →
        t.get SPN_TARGET.TARGET = s.dev.get SPN_TARGET.TARGET ∧ t.rmt.waits = some s.dev.ceilEff)) ∧
  (∀ s who v, s.dev.takes who RMT_HOST.at = true →
    (s.dev.rmtRefused (RMT_HOST.FLOOR.of v) (RMT_HOST.CEIL.of v) = false → Completes (.rmtHostWrite who v) s fun t =>
      t.get RMT_HOST.FLOOR = RMT_HOST.FLOOR.of v ∧ t.get RMT_HOST.CEIL = RMT_HOST.CEIL.of v) ∧
    (23 < RMT_HOST.FLOOR.of v ∨ 23 < RMT_HOST.CEIL.of v ∨ RMT_HOST.CEIL.of v < RMT_HOST.FLOOR.of v →
      s.dev.get SYS_BUS_ERR_INFO.VALID = 0 → Completes (.rmtHostWrite who v) s fun t =>
        t.word RMT_HOST = s.dev.word RMT_HOST ∧ t.get SYS_BUS_ERR_INFO.CAUSE = 7))

/-- R310, R317 to R321, R324, R325, R328: braking and power loss. The chopper engages at 14.0 V unless it is faulty, and is
switched off where it is; the end of an overvoltage coasts with its record. A power loss is recorded with REGEN from the
driven states, leads to COAST_FLUSH with a held portion and to RETRACT without one; its release issues START in SPIN_UP where one was held back or
REGEN had taken the spindle. The
time limit ends a flush and retracts. A spin-down unloads once its data is down and ends at rest. -/
def Obligations.BrakingAndPowerLoss : Prop :=
  (∀ s p, s.dev.islandUp 13 = true → s.dev.get SPN_STOP_STATUS.CHOP_ON = 0 → s.dev.get SPN_STOP_STATUS.CHOP_BAD = 0 →
    s.dev.spn.ovStage = 0 → linkHigh (linkMv p.vlink) = true → linkMv p.vlink < 15000 → s.dev.get SPN_CMD.GO = 0 →
    Completes (.pwmPeriod p) s fun t =>
      t.get SPN_STOP_STATUS.CHOP_ON = 1 ∧ t.get SPN_INT_STATUS.CHOP_ON = 1 ∧ t.get SPN_OV_INFO.VALID = 0 ∧
      t.get SPN_MEAS.VLINK = linkMv p.vlink) ∧
  (∀ s, s.dev.clocked 13 = true → s.dev.get SPN_STOP_STATUS.CHOP_ON = 1 →
    (2 ≤ s.dev.spn.lowBrk ∨ (s.dev.spn.brkFor = 8 ∧
      s.dev.spn.engage + s.dev.get SPN_CHOP_CFG.BRK_DV * 10 < s.dev.get SPN_MEAS.VLINK)) → Completes .chopFault s fun t =>
    t.get SPN_STOP_STATUS.CHOP_BAD = 1 ∧ t.get SPN_STOP_STATUS.CHOP_ON = 0 ∧ t.get SPN_INT_STATUS.CHOP_FAULT = 1) ∧
  (∀ s, s.dev.clocked 13 = true → s.dev.spn.ovStage = 2 → s.dev.spn.under ≠ 0 → Completes .ovRecover s fun t =>
    t.get SPN_STATUS.STATE = 9 ∧ t.get SPN_OV_INFO.VALID = 1 ∧ t.get SPN_OV_INFO.STAGE = 1 ∧
    t.get SPN_OV_INFO.SEQ = (s.dev.get SPN_OV_INFO.SEQ + 1) % 128) ∧
  (∀ s st, s.dev.spn.pf = false → s.dev.get SPN_STATUS.STATE = st → Completes (.powerLoss false) s fun t =>
    t.spn.pf = true ∧ t.pwrfail = true ∧ t.get SPN_PF_INFO.VALID = 1 ∧ t.get SPN_PF_INFO.SRC = 0 ∧
    t.get SPN_INT_STATUS.PF_DETECT = 1 ∧ t.get SPN_PF_INFO.SPEED = s.dev.get SPN_SPEED.SPEED ∧
    (s.dev.islandUp 13 = true → (st = 5 ∨ st = 7 ∨ st = 8) →
      t.get SPN_PF_INFO.REGEN = 1 ∧ t.get SPN_INT_STATUS.REGEN = 1 ∧
      (s.dev.get SPN_REGEN_CFG.MIN_SPEED * 1600 ≤ s.dev.get SPN_SPEED.SPEED →
        t.get SPN_STATUS.STATE = 11 ∧ t.get SPN_STOP_STATUS.PHASE = 2)) ∧
    (st ≠ 5 → st ≠ 7 → st ≠ 8 → t.get SPN_PF_INFO.REGEN = 0 ∧ t.get SPN_STATUS.STATE = st) ∧
    (s.dev.heldEmpty = false → s.dev.inMode [.safe, .off] = false → t.mode = .coastFlush) ∧
    (s.dev.heldEmpty = true → s.dev.inMode [.active, .glide, .lightIdle, .deepIdle, .headLoad, .makerService] = true →
      t.mode = .retract ∧
      ∀ g : Grp, s.dev.get SRV_STATUS.STATE g ≠ 0 → s.dev.get SRV_STATUS.STATE g ≠ 1 → t.get SRV_STATUS.STATE g = 7)) ∧
  (∀ s, s.dev.spn.pf = true → s.dev.mode = .spinUp → Completes .pfRelease s fun t =>
    let again := s.dev.spn.restart = true ∨ s.dev.get SPN_PF_INFO.REGEN = 1
    let regen := s.dev.get SPN_STATUS.STATE = 11 ∧ s.dev.get SPN_STOP_STATUS.PHASE = 2
    t.spn.pf = false ∧ t.pwrfail = false ∧
      (again → ¬regen → t.get SPN_CMD.GO = 1 ∧ t.get SPN_CMD.OP = 0 ∧ t.spn.restart = false) ∧
      (again → regen → t.spn.restart = true ∧ t.word SPN_CMD = s.dev.word SPN_CMD) ∧
      (¬again → t.word SPN_CMD = s.dev.word SPN_CMD)) ∧
  (∀ s, s.dev.mode = .coastFlush → s.dev.que.flush.isSome = true → s.dev.pwrfail = true → Completes .flushTimeLimit s fun t =>
    t.que.flush = none ∧ t.mode = .coastFlush ∧
    ∀ g : Grp, s.dev.get SRV_STATUS.STATE g ≠ 0 → s.dev.get SRV_STATUS.STATE g ≠ 1 → t.get SRV_STATUS.STATE g = 7) ∧
  (∀ s, s.dev.seq.spinDown = 2 → s.dev.seq.prep = 0 → s.dev.drained = true → Completes .spinDownDestaged s fun t =>
    (t.seq.spinDown = 3 ∨ (s.dev.allParked = true ∧ t.seq.spinDown = 4 ∧ t.get SPN_CMD.GO = 1 ∧ t.get SPN_CMD.OP = 1)) ∧
    ∀ g : Grp, (s.dev.get SRV_STATUS.STATE g = 3 ∨ s.dev.get SRV_STATUS.STATE g = 4 ∨ s.dev.get SRV_STATUS.STATE g = 5) →
      t.get SRV_STATUS.STATE g = 6) ∧
  (∀ s, s.dev.clocked 13 = true → s.dev.get SPN_STATUS.STATE = 11 → s.dev.get SPN_STOP_STATUS.PHASE = 3 →
    s.dev.spn.ovStage = 0 →
    Completes .stopDone s fun t =>
      t.get SPN_STATUS.STATE = 9 ∧ t.get SPN_STOP_STATUS.PHASE = 0 ∧ t.get SPN_INT_STATUS.STOP_DONE = 1 ∧
      t.get SPN_SETPOINT.SPEED = 0 ∧
      (s.dev.seq.spinDown = 4 → s.dev.mode ≠ .safe → s.dev.seq.spinHeld ≠ some true → t.mode = .standby))

/-! ### Bands, groups and the journal (chapters 10 and 11) -/

/-- R332: over any W consecutive cylinders every member of a band carries P once; Q stands beside P on another member; the
data members are the others, in ascending head index. R333, R335: in a zone table that begins at cylinder 0, rises and has
sectors in every zone, the cylinder and sector index of a welt have its number. -/
def Obligations.WeltGeometry : Prop :=
  (∀ (e : BandEntry) (c : Nat), e.members < 256 → 3 ≤ popcount8 e.members →
    (∀ m, m < popcount8 e.members → ∃ k, k < popcount8 e.members ∧ e.pPos (c + k) = m ∧
      ∀ k', k' < popcount8 e.members → e.pPos (c + k') = m → k' = k) ∧
    e.pPos c ≠ e.qPos c ∧ e.pPos (c + 1) = (e.pPos c + popcount8 e.members - 1) % popcount8 e.members ∧
    (e.dataHeads c).length = e.data ∧ (e.dataHeads c).Pairwise (fun i j => i.val < j.val) ∧
    ∀ i ∈ e.dataHeads c, bit e.members i = true ∧ (headsOf e.members)[e.pPos c]? ≠ some i ∧
      (e.pq = true → (headsOf e.members)[e.qPos c]? ≠ some i)) ∧
  (∀ (d : Dev) (g : Grp) (w : Nat), (d.zones[g].map Zone.firstCyl).Pairwise (fun a b : Nat => a < b) →
    d.zones[g].head?.map Zone.firstCyl = some 0 → (∀ z ∈ d.zones[g], 0 < z.spt) →
    d.weltAt g (d.locate g w).1 (d.locate g w).2 = w ∧
    (d.locate g w).2 < (d.zone g (d.zoneIx g (d.locate g w).1)).spt)

/-- R337, R338: from P and Q over at most seven data fields the welt engine rebuilds any one field with P, any one with Q
alone, and any two with both. -/
def Obligations.RebuildRestores : Prop :=
  ∀ (D : List (List Byte)) (n : Nat), (∀ f ∈ D, f.length = n) → D.length ≤ 7 →
    let rest := fun (lost : List Nat) => (D.zipIdx.filter fun p => !lost.contains p.2).map fun p => (p.2, p.1)
    (∀ x, x < D.length → ∀ q, rebuild (rest [x]) (some (parityP D)) q [x] = some [D.getD x []]) ∧
    (∀ x, x < D.length → rebuild (rest [x]) none (some (parityQ D)) [x] = some [D.getD x []]) ∧
    (∀ x y, x < y → y < D.length →
      rebuild (rest [x, y]) (some (parityP D)) (some (parityQ D)) [x, y] = some [D.getD x [], D.getD y []])

/-- R336, R354 to R356, R358, R434: a change that keeps the extents apart is taken, behind those requested before it, and waits for
the granted locks of its LBAs; one that does not is refused, and a taken one keeps a directory that was right. It commits in one step
of the table, the maps, the generation and its keystone word, and a group that it leaves beyond tolerance goes OFFLINE. The mapping
helper answers with the table as it stands, by the status of the first test that fails. -/
def Obligations.BandTable : Prop :=
  (∀ s (c : BandChange), s.dev.clocked 7 = true →
    let asked : TableChange :=
      { change := c, waits := s.dev.lockHolders (s.dev.changeRanges c), ranges := s.dev.changeRanges c }
    (s.dev.changeOk c = true → Completes (.bandTableChange c) s fun t =>
      (s.dev.band.change = none → t.band.change = some asked ∧ t.band.changes = s.dev.band.changes) ∧
      (s.dev.band.change.isSome = true → t.band.change = s.dev.band.change ∧
        t.band.changes = s.dev.band.changes ++ [asked]) ∧
      t.band.dir = s.dev.band.dir ∧ t.band.maps = s.dev.band.maps ∧ t.band.gen = s.dev.band.gen) ∧
    (s.dev.changeOk c = false → Completes (.bandTableChange c) s fun t => t = s.dev) ∧
    ((∀ g : Grp, s.dev.extentsOk (s.dev.dirAfter c) g = true) → s.dev.changeOk c = true) ∧
    ((s.dev.band.dir.map Prod.fst).Pairwise (fun m n : Nat => m < n) → s.dev.changeOk c = true →
      ∀ g : Grp, s.dev.extentsOk s.dev.band.dir g = true → s.dev.extentsOk (s.dev.dirAfter c) g = true)) ∧
  (∀ s (x : TableChange), s.dev.clocked 7 = true → s.dev.band.change = some x →
    (x.waits ≠ [] → Completes .bandTableCommit s fun t => t = s.dev) ∧
    (x.waits = [] → x.client = none → x.format = none → x.fills = [] → (x.change.dir ≠ [] ∨ x.change.maps ≠ []) →
      (∀ p ∈ x.change.dir, (∀ g : Grp, p.1 ≠ stagingOf g) ∧ p.2.state ≠ bsFree) →
      let after := s.dev.onBand fun b => { b with dir := s.dev.dirAfter x.change }
      Completes .bandTableCommit s fun t =>
        (s.dev.band.changes = [] → t.band.change = none) ∧ t.band.dir = s.dev.dirAfter x.change ∧
        t.band.maps = x.change.maps.foldl putMap s.dev.band.maps ∧ t.band.gen = (s.dev.band.gen + 1) % 2 ^ 32 ∧
        (∀ p ∈ x.change.dir, after.beyond p.2.group = true → t.grpState p.2.group = gsOffline) ∧
        ((∀ g : Grp, after.beyond g = false) →
          t.band.pending = s.dev.band.pending ++ x.change.dir.map fun p => .band p.1 p.2))) ∧
  (∀ s who v nsid lba, s.dev.takes who WLT_XLATE_CTRL.at = true → s.dev.get WLT_XLATE_CTRL.GO = 0 →
    WLT_XLATE_CTRL.NSID.of v = nsid → s.dev.get WLT_XLATE_LBA_LO.LBA + 2 ^ 32 * s.dev.get WLT_XLATE_LBA_HI.LBA = lba →
    Completes (.xlateGo who v) s fun t =>
      t.get WLT_XLATE_CTRL.GO = 0 ∧ t.get WLT_XLATE_RES0.VALID = 1 ∧
      t.get WLT_XLATE_RES0.SEQ = (s.dev.get WLT_XLATE_RES0.SEQ + 1) % 128 ∧
      (s.dev.nsOf nsid = none → t.get WLT_XLATE_RES0.STATUS = 1 ∧ t.get WLT_XLATE_RES1.CYL = 0 ∧
        t.get WLT_XLATE_RES1.SECT = 0 ∧ t.get WLT_XLATE_RES2.BAND = 0) ∧
      ∀ n, s.dev.nsOf nsid = some n →
        (n.nsze ≤ lba → t.get WLT_XLATE_RES0.STATUS = 2) ∧
        (lba < n.nsze → (∀ b, s.dev.mapOf nsid (lba / 2 ^ 18) ≠ some (some b)) → t.get WLT_XLATE_RES0.STATUS = 3) ∧
        ∀ b e, lba < n.nsze → s.dev.mapOf nsid (lba / 2 ^ 18) = some (some b) → s.dev.bandAt b = some e →
          (e.state ≠ bsUser → e.state ≠ bsTag → t.get WLT_XLATE_RES0.STATUS = 4) ∧
          (e.state = bsUser → t.get WLT_XLATE_RES0.STATUS = 0 ∧ t.get WLT_XLATE_RES0.GROUP = e.group.val ∧
            t.get WLT_XLATE_RES0.HEAD = (s.dev.placeIn b e (lba % 2 ^ 18)).head.val ∧
            t.get WLT_XLATE_RES0.DATA_INDEX = (s.dev.placeIn b e (lba % 2 ^ 18)).j % 8 ∧
            t.get WLT_XLATE_RES1.CYL = (s.dev.placeIn b e (lba % 2 ^ 18)).cyl % 2 ^ 20 ∧
            t.get WLT_XLATE_RES1.SECT = (s.dev.placeIn b e (lba % 2 ^ 18)).sect % 1024 ∧
            t.get WLT_XLATE_RES2.BAND = b % 2 ^ 17))

/-- R357 to R361: a lane held off, or another failure, makes its head a failed member; a group beyond the tolerance of a band
goes OFFLINE, one within it DEGRADED while rebuilds are not automatic. REBUILD and RETIRE_HEAD answer by the group's state and
the reserve check, PAUSE and RESUME by the operations that run. -/
def Obligations.GroupCommands : Prop :=
  (∀ s (n : LaneId), s.dev.clocked 7 = true → s.dev.hasHead n = true → s.dev.laneOn n = false → s.dev.get SRV_STATUS.STATE n.grp ≠ 0 →
    bit (s.dev.failedMask n.grp) n.ix = false → s.dev.grpState n.grp = gsOnline → s.dev.get CBL_CTRL.AUTO_REBUILD = 0 →
    (s.dev.bandsOf n.grp).any (fun p => bit p.2.members n.ix && p.2.state != bsRetired) = true →
    Completes (.laneOffTimeout n) s fun t =>
      t.get CBL_GRP.FAILED 0 n.grp = s.dev.get CBL_GRP.FAILED 0 n.grp + 2 ^ n.ix.val ∧
      t.get CBL_INT_STATUS.STATE_CHANGE = 1 ∧
      t.grpState n.grp = if (s.dev.bandsOf n.grp).any (fun p => holdsData p.2.state &&
        decide (p.2.tolerance < p.2.missing (setBit (s.dev.failedMask n.grp) n.ix))) then gsOffline else gsDegraded) ∧
  (∀ s who v (g : Grp), s.dev.takes who CBL_CMD.at = true → CBL_CMD.GROUP.of v = g.val →
    let answer := fun (op outcome : Nat) (t : Dev) =>
      t.get CBL_RESULT.VALID = 1 ∧ t.get CBL_RESULT.OP = op ∧ t.get CBL_RESULT.GROUP = g.val ∧
      t.get CBL_RESULT.OUTCOME = outcome ∧ t.get CBL_RESULT.SEQ = (s.dev.get CBL_RESULT.SEQ + 1) % 128 ∧
      t.get CBL_INT_STATUS.OP_DONE = 1 ∧ t.get CBL_CMD.GO = 0
    (s.dev.grpState g = gsOffline → Completes (.cblRebuild who v) s (answer 0 2)) ∧
    (s.dev.grpState g ≠ gsOffline → s.dev.grpState g ≠ gsDegraded → Completes (.cblRebuild who v) s (answer 0 3)) ∧
    (s.dev.grpState g = gsDegraded → (s.dev.reserveCheck g (popcount8 (s.dev.namedFailed g))).1 ≠ 0 →
      Completes (.cblRebuild who v) s fun t => answer 0 1 t ∧ t.get CBL_GRP.RESERVE_SHORT 0 g = 1 ∧
        t.grpState g = gsDegraded) ∧
    (s.dev.grpState g = gsDegraded → (s.dev.reserveCheck g (popcount8 (s.dev.namedFailed g))).1 = 0 →
      Completes (.cblRebuild who v) s fun t => t.grpState g = gsRebuilding ∧ t.get CBL_CMD.GO = 0 ∧
        ∃ o ∈ t.band.ops, o.kind = .rebuild g (s.dev.namedFailed g) ∧ o.byCmd = true) ∧
    (∀ i : HeadIx, CBL_CMD.HEAD.of v = i.val →
      (s.dev.grpState g ≠ gsOnline ∨ bit (s.dev.failedMask g) i = true → Completes (.cblRetireHead who v) s (answer 1 3)) ∧
      (s.dev.grpState g = gsOnline → bit (s.dev.failedMask g) i = false → s.dev.bandsOf g ≠ [] →
        (∀ p ∈ s.dev.bandsOf g, p.2.state ≠ bsRetired ∧ bit p.2.members i = true) →
        ((s.dev.reserveCheck g).1 ≠ 0 → Completes (.cblRetireHead who v) s fun t =>
          answer 1 1 t ∧ t.get CBL_GRP.RESERVE_SHORT 0 g = 1 ∧ t.band.dir = s.dev.band.dir) ∧
        ((s.dev.reserveCheck g).1 = 0 → Completes (.cblRetireHead who v) s fun t =>
          t.grpState g = gsReshaping ∧ t.get CBL_CMD.GO = 0 ∧
          ∃ o ∈ t.band.ops, o.kind = .reshape g i ∧ o.byCmd = true))) ∧
    (s.dev.band.ops = [] → Completes (.cblPause who v) s (answer 2 3) ∧ Completes (.cblResume who v) s (answer 3 3)) ∧
    ((∃ o ∈ s.dev.band.ops, o.inGroup g = true ∧ o.paused = false) → Completes (.cblPause who v) s fun t =>
      answer 2 4 t ∧ ∀ o ∈ t.band.ops, o.inGroup g = true → o.paused = true) ∧
    ((∃ o ∈ s.dev.band.ops, o.inGroup g = true ∧ o.paused = true) → Completes (.cblResume who v) s fun t =>
      answer 3 0 t ∧ ∀ o ∈ t.band.ops, o.inGroup g = true → o.paused = false))

/-- R368, R371 to R373, R376, R378, R389, R451, R453: once PERIOD has gone by a commit takes up to 127 pending records under
the next epoch to every usable copy, and there is none without a copy. Recovery runs once, after the heads are loaded and calibrated. The cobbler
starts the step of the highest class that has work and a share of the window, resync before patrol, and a step ends once its requests and intent
have. -/
def Obligations.JournalAndCobbler : Prop :=
  (∀ s, s.dev.clocked 7 = true → s.dev.band.pending ≠ [] → s.dev.band.commit = none → s.dev.band.intents = [] →
    (∀ at_, s.dev.band.lastCommit = some at_ → at_ + 1000 * max 20 (s.dev.get CBL_JNL.PERIOD) ≤ s.dev.now) →
    (s.dev.jnlCopies ≠ [] → Completes .journalCommit s fun t =>
      (t.band.commit.map fun c => (c.1.epoch, c.1.recs.length, c.2)) =
        some ((s.dev.epoch + 1) % 2 ^ 32, min 127 s.dev.band.pending.length, s.dev.jnlCopies.length) ∧
      t.band.pending = s.dev.band.pending.drop 127 ∧ t.band.ring = s.dev.band.ring + 1 ∧
      t.band.lastCommit = some s.dev.now ∧
      t.get CBL_EPOCH.EPOCH = s.dev.get CBL_EPOCH.EPOCH) ∧
    (s.dev.jnlCopies = [] → Completes .journalCommit s fun t =>
      t.band.commit = none ∧ t.band.pending = s.dev.band.pending)) ∧
  (∀ s, s.dev.clocked 7 = true → s.dev.mode = .headLoad → s.dev.seq.cal = true → s.dev.seq.recovered = false →
    (∀ g : Grp, s.dev.get SRV_STATUS.STATE g ≠ 2) → Completes .journalRecovery s fun t =>
      t.seq.recovered = true ∧ t.seq.step11 = true ∧ t.band.intents = [] ∧
      t.get CBL_LBT.ENTRIES = t.band.lost.length % 2 ^ 18) ∧
  (∀ s (g : Grp), s.dev.clocked 7 = true → s.dev.get CBL_CTRL.EN = 1 → s.dev.mode = .active → s.dev.grpq[g].step = none → s.dev.loaded g = true →
    s.dev.grpFenced g = false → s.dev.pwrfail = false → s.dev.seq.spinDown = 0 → s.dev.seq.prep = 0 → s.dev.band.ops = [] →
    s.dev.get CBL_JNL.BUILDING = 0 → s.dev.virginGroup g = false →
    (∀ w n b e, s.dev.shareOpen g false = true → s.dev.nextMarked g = some (w, n) → s.dev.bandOver g w = some (b, e) → 0 < e.missing (s.dev.failedMask g) →
      Completes (.cobblerStep g) s fun t =>
        t.grpq[g].step = some (2, w, n) ∧ t.get QUE_GRP_STATUS.STEP 0 g = 1 ∧
        t.band.intents = s.dev.band.intents ++ [⟨g, w, n, 0, e.members &&& s.dev.presentMask g, false⟩]) ∧
    (s.dev.nextMarked g = none → s.dev.shareOpen g true = true → s.dev.get CBL_CTRL.PATROL_EN = 1 → s.dev.grpState g ≠ gsOffline →
      s.dev.trackSpans g 1 s.dev.band.patrol[g] (s.dev.welts g - s.dev.band.patrol[g]) ≠ [] →
      Completes (.cobblerStep g) s fun t =>
        t.grpq[g].step = some (5, s.dev.band.patrol[g], 0) ∧ t.get QUE_GRP_STATUS.STEP 0 g = 1 ∧
        t.grpq[g].list.length = s.dev.grpq[g].list.length + 1)) ∧
  (∀ s (g : Grp) w n, s.dev.clocked 7 = true → s.dev.grpq[g].step = some (2, w, n) → s.dev.band.ops = [] → s.dev.seq.spinDown = 0 →
    s.dev.seq.prep = 0 →
    (s.dev.stepBusy g = true → Completes (.stepEnd g) s fun t => t = s.dev) ∧
    (s.dev.stepBusy g = false → Completes (.stepEnd g) s fun t =>
      t.grpq[g].step = none ∧ t.get QUE_GRP_STATUS.STEP 0 g = 0 ∧ t.band = s.dev.band))

/-! ### Host attachment and queueing (chapters 12 and 13) -/

/-- R395, R422, R424 to R426: the link's events and the function resets complete; a Function Level Reset ends the function's
commands without a completion and leaves the other functions. A doorbell makes entries visible; the arbiter takes the oldest
entry of the first function in turn, under the next fetch number. A failed fetch ends its command with Data Transfer Error. -/
def Obligations.HostLinkAndFetch : Prop :=
  (∀ s, Completes (.perst false) s fun t => t.hst.perst = false ∧ t.regs = s.dev.regs ∧ t.que = s.dev.que) ∧
  (∀ s, Completes (.perst true) s fun t => t.hst.perst = true ∧ t.word HST_LINK = 0 ∧
    (∀ f : Fn, t.get HST_FN_STATUS.CC_EN 0 f = 0 ∧ t.get HST_FN_STATUS.RDY 0 f = 0 ∧ t.hst.fns[f].session = none) ∧
    t.que.cmds = [] ∧ t.que.held = s.dev.que.held ∧ t.hst.cqes = s.dev.hst.cqes) ∧
  (∀ s speed width, s.dev.hst.perst = false → s.dev.islandUp 1 = true → 1 ≤ speed → speed ≤ 4 → 1 ≤ width → width ≤ 16 →
    Completes (.linkUp speed width) s fun t =>
      t.get HST_LINK.DL_UP = 1 ∧ t.get HST_LINK.SPEED = speed ∧ t.get HST_LINK.WIDTH = width ∧ t.get HST_LINK.L1 = 0 ∧
      ((s.dev.get HST_LINK.DL_UP = 0 ∨ s.dev.get HST_LINK.SPEED ≠ speed ∨ s.dev.get HST_LINK.WIDTH ≠ width) →
        t.get HST_INT_STATUS.LINK_UP = 1)) ∧
  (∀ s, s.dev.get HST_LINK.DL_UP = 1 → Completes .linkDown s fun t =>
    t.get HST_LINK.DL_UP = 0 ∧ t.get HST_LINK.L1 = 0 ∧ t.get HST_INT_STATUS.LINK_DOWN = 1) ∧
  (∀ s (f : Fn), s.dev.get HST_FN_STATUS.PRESENT 0 f = 1 → (s.dev.que.cmds.map Cmd.f).Nodup →
    Completes (.functionLevelReset f) s fun t =>
      t.get HST_INT_STATUS.FLR = 1 ∧ t.hst.cqes = s.dev.hst.cqes ∧
      (∀ h : Fn, h = f ∨ f = 0 → t.get HST_FN_STATUS.CC_EN 0 h = 0 ∧ t.get HST_FN_STATUS.RDY 0 h = 0 ∧
        t.hst.fns[h].session = none ∧ t.hst.fns[h].sqs = [] ∧ ∀ c ∈ t.que.cmds, c.q.fn ≠ h) ∧
      (∀ h : Fn, h ≠ f → f ≠ 0 → t.hst.fns[h] = s.dev.hst.fns[h] ∧ ∀ c ∈ s.dev.que.cmds, c.q.fn = h → c ∈ t.que.cmds)) ∧
  (∀ s (f : Fn) w, s.dev.get HST_FN_STATUS.CC_EN 0 f = 1 → Completes (.controllerReset ⟨f, w⟩) s fun t =>
    t.get HST_INT_STATUS.CC_CHANGE = 1 ∧ t.get HST_FN_STATUS.CC_EN 0 f = 0 ∧ t.get HST_FN_STATUS.RDY 0 f = 0 ∧
    t.hst.fns[f].session = none ∧ t.hst.fns[f].weighted = w ∧ t.hst.cqes = s.dev.hst.cqes) ∧
  (∀ s q es x, s.dev.clocked 2 = true → s.dev.mode = .active → s.dev.hst.perst = false → q.sqid ≠ 0 → s.dev.sqOf q = some x →
    Completes (.submissionDoorbell q es) s fun t =>
      t.sqOf q = some { x with entries := x.entries ++ es.take (x.size - 1 - x.entries.length) } ∧ t.que = s.dev.que) ∧
  (∀ s q x e rest, s.dev.nextQueue = some q → s.dev.sqOf q = some x → x.entries = e :: rest →
    s.dev.que.locks.length + s.dev.band.barriers +
      (lockEntries 0 e.io e.cmd).length ≤ 8192 →
    Completes .commandFetch s fun t =>
      t.word QUE_FETCH_NUM = s.dev.word QUE_FETCH_NUM + 1 ∧ t.hst.last = q.fn ∧ t.hst.fns[q.fn].lastSq = q.sqid ∧
      t.sqOf q = some { x with entries := rest }) ∧
  (∀ (d : Dev) q, d.nextQueue = some q → d.fetching q.fn = true ∧
    (∃ x ∈ d.hst.fns[q.fn].sqs, x.qid = q.sqid ∧ x.entries ≠ []) ∧
    ∀ f : Fn, d.fetching f = true → (∃ x ∈ d.hst.fns[f].sqs, x.entries ≠ []) →
      (q.fn.val + 63 - d.hst.last.val) % 64 ≤ (f.val + 63 - d.hst.last.val) % 64) ∧
  (∀ s q cid cause addr, s.dev.admits q.fn = true → 1 ≤ cause → cause ≤ 4 → cid < 2 ^ 16 → q.sqid < 2 ^ 16 →
    s.dev.get FLT_SITE_CFG.ACTION 0 208 = 0 →
    Completes (.fetchError q cid cause 0 addr) s fun t =>
      t.hst.cqes = s.dev.hst.cqes ++ [⟨q.fn, q.sqid, cid, .dataTransferError, 0, 0⟩] ∧
      t.get HST_INT_STATUS.WALK_ERR = 1 ∧ t.get HST_ERR_INFO.VALID = 1 ∧ t.get HST_ERR_INFO.CAUSE = cause ∧
      t.get HST_ERR_INFO.OBJECT = 0 ∧ t.get HST_ERR_INFO.FUNC = q.fn.val ∧ t.get HST_ERR_CMD.SQID = q.sqid ∧
      t.get HST_ERR_CMD.CID = cid ∧ t.get HST_FN_STATUS.FENCED 0 q.fn = s.dev.get HST_FN_STATUS.FENCED 0 q.fn)

/-- R425, R426, R428 to R430: where the arbiter runs and the mode and the namespace serve the command, each I/O command is
fetched under the next number with the lock entries of R430, within the limits of R396 and R400; a Flush with nothing older and a Dataset Management complete at
once; a fused command takes no lock. -/
def Obligations.IoCommands : Prop :=
  ∀ s q (a : IoArgs) x n, s.dev.fetching q.fn = true → q.sqid ≠ 0 → s.dev.sqOf q = some x → x.entries = [] → 2 ≤ x.size →
    s.dev.mode = .active → s.dev.seq.spinDown = 0 → s.dev.sanitizing = false →
    s.dev.nsOf a.nsid = some n → n.attached.contains q.fn = true → n.deleting = false → n.formatting = false →
    n.inaccessible = false → s.dev.ksFenced 0 = false → s.dev.ksFenced 1 = false → a.nsid ≠ 0xFFFF_FFFF →
    s.dev.que.locks.length + s.dev.band.barriers + 256 ≤ 8192 →
    let f := s.dev.word QUE_FETCH_NUM + 1
    let fetched := fun (cmd : IoCmd) (ls : List Lock) (t : Dev) =>
      t.word QUE_FETCH_NUM = f ∧ t.que.locks = s.dev.que.locks ++ ls ∧ t.hst.cqes = s.dev.hst.cqes ∧
      t.que.cmds = s.dev.que.cmds ++ [{ f := f, q := q, io := a, cmd := cmd, stage := .lock, issued := s.dev.now }]
    let ended := fun (st : Status) (t : Dev) =>
      t.word QUE_FETCH_NUM = f ∧ t.que.locks = s.dev.que.locks ∧
      t.hst.cqes = s.dev.hst.cqes ++ [⟨q.fn, q.sqid, a.cid, st, 0, 0⟩]
    let shared : Lock := ⟨f, a.nsid, a.slba, a.count, false, false⟩
    let excl : Lock := ⟨f, a.nsid, a.slba, a.count, true, false⟩
    (a.fuse = 0 → a.slba + a.count ≤ n.nsze →
      (a.count ≤ 512 → Completes (.verify q a) s (fetched .verify [shared])) ∧
      (a.count * (4096 + n.metaBytes a.pi) ≤ 2 ^ 21 → Completes (.read q a) s (fetched .read [shared]) ∧
        (∀ data, Completes (.compare q a data) s (fetched (.compare data) [shared]) ∧
          Completes (.write q a data) s (fetched (.write data) [excl]))) ∧
      (a.count ≤ 2 ^ 18 → Completes (.writeZeroes q a) s (fetched .writeZeroes [excl])) ∧
      (∀ desc len, 1 ≤ a.count → a.count ≤ 2 ^ 18 → len % 4096 = 0 → len ≤ 2 ^ 21 → s.dev.get SCN_CTRL.EN = 1 →
        s.dev.islandUp 19 = true → n.lbaf = 0 → scnReject desc = none →
        Completes (.scanRead q a desc len) s (fetched (.scanRead desc len) [shared]))) ∧
    (∀ fmt src, a.fuse = 0 → fmt ≤ 1 → src.length ≤ 128 → (∀ y ∈ src, y.2 ≤ 512 ∧ y.1 + y.2 ≤ n.nsze) →
      (src.map Prod.snd).sum ≤ 512 → a.slba + (src.map Prod.snd).sum ≤ n.nsze →
      Completes (.copy q a fmt src) s (fetched (.copy fmt src)
        (src.map (fun y => ⟨f, a.nsid, y.1, y.2, false, false⟩) ++
          [⟨f, a.nsid, a.slba, (src.map Prod.snd).sum, true, false⟩]))) ∧
    (a.fuse = 0 → Completes (.datasetManagement q a) s fun t => ended .success t ∧ t.que.cmds = s.dev.que.cmds) ∧
    (a.fuse = 0 → s.dev.que.cmds = [] → s.dev.que.locks = [] → s.dev.que.held = [] → Completes (.flush q a) s fun t =>
      ended .success t ∧ t.que.cmds = []) ∧
    (a.fuse = 0 → s.dev.que.cmds = [] → (∃ h ∈ s.dev.que.held, h.nsid = a.nsid ∧ ∃ w ∈ h.writes, fLt w f = true) →
      Completes (.flush q a) s fun t => (t.cmdOf f).map Cmd.stage = some .settle ∧ t.hst.cqes = s.dev.hst.cqes) ∧
    (a.fuse ≠ 0 → Completes (.read q a) s (ended .invalidField) ∧ Completes (.flush q a) s (ended .invalidField) ∧
      ∀ data, Completes (.write q a data) s (ended .invalidField))

/-- R431, R433, R435, R436, R440, R409, R423, R513, R459: a waiting entry meets a conflicting entry of a lower F and stays; else
a command's entries are granted together. A read whose sectors are held takes their data. A write is granted buffers in its
turn, and not in a spin-down; its data is held before it completes; a bad PRP adds nothing. A read's data reaches the host
with its completion. A free scan context goes to the oldest Scan Read that waits; a deleted namespace goes once its locks
have. -/
def Obligations.LocksBuffersData : Prop :=
  (∀ s f c, s.dev.clocked 2 = true → s.dev.cmdOf f = some c → c.stage = .lock →
    ((∃ l ∈ s.dev.que.locks, l.f = f ∧ ∃ o ∈ s.dev.que.locks, fLt o.f f = true ∧ o.nsid = l.nsid ∧
        o.lba < l.lba + l.count ∧ l.lba < o.lba + o.count ∧ (o.excl = true ∨ l.excl = true)) →
      Completes (.lockGrant f) s fun t => t = s.dev) ∧
    (∀ data, s.dev.grantable f = true → c.cmd = .write data → s.dev.writeCheck c = none → c.err = none →
      (s.dev.lookUp { c with turn := s.dev.que.turn }).err = none →
      Completes (.lockGrant f) s fun t => (t.cmdOf f).map Cmd.stage = some .buffer ∧
        t.que.locks = s.dev.que.locks.map fun l => if l.f = f then { l with granted := true } else l) ∧
    (s.dev.grantable f = true → c.cmd = .read → s.dev.lbafOf c.io.nsid = 0 → c.err = none → c.need = [] → c.got = [] →
      (∀ k, k < c.io.count → (s.dev.heldAt c.io.nsid (c.io.slba + k) 0).isSome = true) →
      (s.dev.alloc c.q.fn ((c.io.count + 15) / 16) false).1 = bpmOk →
      Completes (.lockGrant f) s fun t => ∃ c', t.cmdOf f = some c' ∧ c'.stage = .transfer ∧
        ∀ k h, k < c.io.count → s.dev.heldAt c.io.nsid (c.io.slba + k) 0 = some h →
          c'.dataAt k = if h.zero then zeroSector else h.data)) ∧
  (∀ s f c data, s.dev.clocked 2 = true → s.dev.cmdOf f = some c → c.stage = .buffer → c.cmd = .write data → c.need = [] → c.err = none →
    (s.dev.seq.spinDown ≠ 0 → Completes (.bufferGrant f) s fun t => t = s.dev) ∧
    (s.dev.writesHeld = false → (s.dev.nextWrite.map Cmd.f) = some f → Completes (.bufferGrant f) s fun t =>
      (t.cmdOf f).map Cmd.stage = some .data ∧ t.que.servedFn = c.q.fn ∧ t.que.locks = s.dev.que.locks)) ∧
  (∀ s f c data, s.dev.clocked 2 = true → s.dev.cmdOf f = some c → c.stage = .data → c.cmd = .write data → c.need = [] →
    s.dev.lbafOf c.io.nsid = 0 → s.dev.seq.spinDown = 0 → s.dev.seq.prep = 0 → s.dev.mode = .active →
    s.dev.get HST_CTRL.PAUSED = 0 →
    (c.io.ptr = .prp 0 (List.replicate 512 0) → s.dev.bpm.cmb = 0 → c.io.fua = false → s.dev.hst.feats = [] →
      Completes (.writeDataHeld f) s fun t =>
        t.hst.cqes = s.dev.hst.cqes ++ [⟨c.q.fn, c.q.sqid, c.io.cid, .success, 0, 0⟩] ∧
        t.que.locks = s.dev.que.locks.filter (fun l => l.f != f) ∧
        ∀ k, k < c.io.count → ∃ h, t.heldAt c.io.nsid (c.io.slba + k) 0 = some h ∧ h.f = c.f ∧ h.zero = false ∧
          h.data = cut (data.getD k []) 0 4096) ∧
    (c.io.ptr = .prp 2 [] → Completes (.writeDataHeld f) s fun t =>
        t.hst.cqes = s.dev.hst.cqes ++ [⟨c.q.fn, c.q.sqid, c.io.cid, .prpOffset, 0, 0⟩] ∧ t.que.held = s.dev.que.held ∧
        t.get HST_ERR_INFO.CAUSE = 6 ∧ t.get HST_ERR_INFO.VALID = 1 ∧
        t.que.locks = s.dev.que.locks.filter (fun l => l.f != f))) ∧
  (∀ s f c, s.dev.clocked 2 = true → s.dev.cmdOf f = some c → c.stage = .transfer → c.cmd = .read → s.dev.lbafOf c.io.nsid = 0 →
    c.io.ptr = .prp 0 (List.replicate 512 0) → s.dev.bpm.cmb = 0 → s.dev.poisoned c = [] →
    ((List.range c.io.count).flatMap c.dataAt).length ≤ 2 ^ 21 → s.dev.mode = .active → s.dev.get HST_CTRL.PAUSED = 0 →
    Completes (.transferDone f) s fun t =>
      t.hst.cqes = s.dev.hst.cqes ++ [⟨c.q.fn, c.q.sqid, c.io.cid, .success, 0, 0⟩] ∧
      t.hst.data = s.dev.hst.data ++ [(c.q.fn, c.q.sqid, c.io.cid, (List.range c.io.count).flatMap c.dataAt)] ∧
      t.que.locks = s.dev.que.locks.filter (fun l => l.f != f)) ∧
  (∀ s c, s.dev.clocked 19 = true → s.dev.que.cmds.find? (fun c => c.stage == .context) = some c → s.dev.cmdOf c.f = some c →
    (64 ≤ s.dev.contexts → Completes .scanContextGrant s fun t => (t.cmdOf c.f).map Cmd.stage = some .context) ∧
    (s.dev.contexts < 64 → c.need ≠ [] → (s.dev.alloc c.requester (s.dev.bufsWanted c) false).1 = bpmOk →
      Completes .scanContextGrant s fun t => (t.cmdOf c.f).map Cmd.stage = some .media) ∧
    (s.dev.contexts < 64 → (s.dev.alloc c.requester (s.dev.bufsWanted c) false).1 ≠ bpmOk →
      Completes .scanContextGrant s fun t => (t.cmdOf c.f).map Cmd.stage = some .buffer)) ∧
  (∀ s nsid x, s.dev.clocked 2 = true → s.dev.band.deletes.find? (fun x => x.1 == nsid) = some x → s.dev.seq.spinDown = 0 → s.dev.seq.prep = 0 →
    ((∃ l ∈ s.dev.que.locks, l.nsid = nsid) → Completes (.namespaceDeleteDrained nsid) s fun t => t = s.dev) ∧
    ((∀ l ∈ s.dev.que.locks, l.nsid ≠ nsid) → Completes (.namespaceDeleteDrained nsid) s fun t =>
      t.get QUE_INT_STATUS.NS_CHANGE = 1 ∧ t.nsOf nsid = none ∧ (∀ h ∈ t.que.held, h.nsid ≠ nsid) ∧
      (∀ k ∈ t.sec.keys, k.1 ≠ nsid) ∧ t.band.deletes = s.dev.band.deletes.filter fun y => y.1 != nsid))

/-- R443 to R449, R180, R181, R187, R327: the scheduler issues a pending journal commit first, else the request of lowest cost in its
window, and in COAST_FLUSH a flush request, of the directory before the data and of that before the trailer; a deadline issues the
request again; a posted request, latched by the servo, is the formatter's next. Each event of the formatter is taken in
its order; a failed request is recorded and goes back to the head of the list, for a try one revolution later. -/
def Obligations.SchedulerAndFormatter : Prop :=
  (∀ s (g : Grp), s.dev.get QUE_CTRL.EN = 1 → s.dev.islandUp 2 = true → s.dev.grpq[g].active = none →
    s.dev.loaded g = true → s.dev.grpFenced g = false → s.dev.groupAllowed g = true → s.dev.grpq[g].posted = [] →
    s.dev.pwrfail = false → s.dev.mode = .active → s.dev.que.held = [] → s.dev.heldBufs = 0 →
    (∀ m ∈ s.dev.grpq[g].list, m.after ≤ s.dev.now) →
    (∀ m, (s.dev.grpq[g].list.take 32).find? (fun m => match m.why with | .journal _ => true | _ => false) = some m →
      Completes (.scheduleChoice g) s fun t => t.grpq[g].active = some m ∧ t.srv[g].request = some m.req.cyl ∧
        t.grpq[g].list = s.dev.grpq[g].list.filter fun x => x.no != m.no) ∧
    (s.dev.grpq[g].list ≠ [] → (∀ m ∈ s.dev.grpq[g].list, m.isDestage = false ∧ m.isFlush = false ∧ (∀ b, m.why ≠ .journal b) ∧
        s.dev.now ≤ m.since + 1000) →
      Completes (.scheduleChoice g) s fun t => ∃ m, t.grpq[g].active = some m ∧ t.srv[g].request = some m.req.cyl ∧
        m ∈ (s.dev.grpq[g].list.take 32).take (min 32 (atLeast1 (s.dev.get QUE_SCHED_CFG.WINDOW))) ∧
        ∀ x ∈ (s.dev.grpq[g].list.take 32).take (min 32 (atLeast1 (s.dev.get QUE_SCHED_CFG.WINDOW))),
          s.dev.cost g m.req.cyl m.req.sect ≤ s.dev.cost g x.req.cyl x.req.sect)) ∧
  (∀ s (g : Grp), s.dev.get QUE_CTRL.EN = 1 → s.dev.islandUp 2 = true → s.dev.grpq[g].active = none →
    s.dev.loaded g = true → s.dev.grpFenced g = false → s.dev.grpq[g].posted = [] → s.dev.mode = .coastFlush →
    s.dev.grpq[g].list.length ≤ 32 → (∀ m ∈ s.dev.grpq[g].list, m.after ≤ s.dev.now) →
    (∃ m ∈ s.dev.grpq[g].list, m.isFlush = true ∧ m.part ≤ 2) →
    Completes (.scheduleChoice g) s fun t => ∃ m ∈ s.dev.grpq[g].list, t.grpq[g].active = some m ∧
      t.srv[g].request = some m.req.cyl ∧ m.isFlush = true ∧ ∀ x ∈ s.dev.grpq[g].list, m.part ≤ x.part) ∧
  (∀ s (g : Grp) m, s.dev.clocked 2 = true → s.dev.grpq[g].active = some m →
    (s.dev.onCyl g m.req.cyl = false → Completes (.positioningDeadline g) s fun t =>
      t.grpq[g].active = some m ∧ t.srv[g].request = some m.req.cyl ∧ t.grpq[g].posted = s.dev.grpq[g].posted) ∧
    (s.dev.fmt[g].next = none → s.dev.srv[g].request = none → s.dev.onCyl g m.req.cyl = true → s.dev.fmtState g ≠ fsOff → s.dev.pwrfail = false →
      Completes (.requestPost g) s fun t =>
        t.grpq[g].active = none ∧ t.grpq[g].posted = s.dev.grpq[g].posted ++ [m] ∧ t.fmt[g].next = some m.req)) ∧
  (∀ s (g : Grp) rest, s.dev.clocked 2 = true → s.dev.fmt[g].evts = .slotDone :: rest → s.dev.hostPosted g = false →
    Completes (.slotDone g) s fun t => t.fmt[g].evts = rest ∧ t.que = s.dev.que ∧ t.regs = s.dev.regs) ∧
  (∀ s (g : Grp) rest m ps k, s.dev.clocked 2 = true → s.dev.fmt[g].evts = .reqDone :: rest → s.dev.grpq[g].posted = m :: ps →
    m.why = .cobbler k → m.req.kind ≠ 1 → (∀ i : HeadIx, ∀ l ∈ s.dev.lanes[laneOf g i].ladders, l.waits = false) → s.dev.calm g →
    Completes (.reqDone g) s fun t => t.fmt[g].evts = rest ∧ t.grpq[g].posted = ps ∧ t.grpq[g].reread = false ∧
      t.get QUE_GRP_STATUS.REREAD 0 g = 0) ∧
  (∀ s (g : Grp) rest m ps k cause, s.dev.clocked 2 = true → s.dev.fmt[g].evts = .reqFailed cause :: rest → s.dev.grpq[g].posted = m :: ps →
    m.why = .cobbler k → cause < 0x80 → cause ≠ 6 →
    (m.req.kind = 1 → s.dev.intentFor g (s.dev.weltAt g m.req.cyl m.req.sect) = none) →
    (∀ i : HeadIx, ∀ l ∈ s.dev.lanes[laneOf g i].ladders, l.waits = false) → s.dev.calm g →
    Completes (.reqFailed g cause) s fun t => t.grpq[g].posted = ps ∧
      t.grpq[g].list = { m with attempts := m.attempts + 1, after := s.dev.now + 960000000 / s.dev.get SPN_SPEED.SPEED } ::
        s.dev.grpq[g].list ∧
      t.get QUE_INT_STATUS.REQ_FAILED = 1 ∧ t.get QUE_FAIL_INFO0.VALID = 1 ∧ t.get QUE_FAIL_INFO0.CAUSE = cause ∧
      t.get QUE_FAIL_INFO0.KIND = m.req.kind % 16 ∧ t.get QUE_FAIL_INFO0.GROUP = g.val ∧
      t.get QUE_FAIL_INFO0.ATTEMPT = min (m.attempts + 1) 63 ∧ t.get QUE_FAIL_INFO1.SECT = m.req.sect % 1024 ∧
      t.get QUE_FAIL_INFO1.CYL = m.req.cyl % 2 ^ 20 ∧
      ((m.attempts + 1) % atLeast1 (s.dev.get QUE_SCHED_CFG.RETRY_MAX) = 0 → t.get QUE_INT_STATUS.RETRY_EXHAUSTED = 1)) ∧
  (∀ s (g : Grp) rest, s.dev.clocked 2 = true → s.dev.fmt[g].evts = .needRev :: rest →
    (∀ i : HeadIx, ∀ l ∈ s.dev.lanes[laneOf g i].ladders, l.waits = false) →
    Completes (.needRev g) s fun t => t.fmt[g].evts = rest ∧ t.grpq[g].reread = true ∧
      t.get QUE_GRP_STATUS.REREAD 0 g = 1) ∧
  (∀ s (g : Grp) rest, s.dev.clocked 2 = true → s.dev.fmt[g].evts = .release :: rest → Completes (.release g) s fun t =>
    t.fmt[g].evts = rest ∧ t.grpq[g].released = true ∧ t.regs = s.dev.regs) ∧
  (∀ s (g : Grp) rest, s.dev.clocked 2 = true → s.dev.fmt[g].evts = .abortReport :: rest → Completes (.abortReport g) s fun t =>
    t.fmt[g].evts = rest ∧ t.band.intents = s.dev.band.intents ∧ t.grpq = s.dev.grpq)

/-! ### Admin commands (chapters 12, 13 and 20) -/

/-- R393, R396 to R398, R401, R404 to R406, R408, R410 to R412, R426, R454 to R457, R608, R609: each admin command that the
arbiter takes has one completion (an event request none until its event) and the effect of its rule; a command or a feature of
the PF alone is refused to a VF. -/
def Obligations.AdminCommands : Prop :=
  ∀ s q cid, s.dev.fetching q.fn = true → q.sqid = 0 → s.dev.mode = .active →
    let fn := s.dev.hst.fns[q.fn]
    let posted := fun (st : Status) (dw0 : Nat) (t : Dev) =>
      t.hst.cqes = s.dev.hst.cqes ++ [⟨q.fn, 0, cid, st, dw0, 0⟩] ∧ t.word QUE_FETCH_NUM = s.dev.word QUE_FETCH_NUM + 1
    (∀ qid size other, 1 ≤ qid → qid ≤ s.dev.queueLimit q.fn → 2 ≤ size → size ≤ 16384 →
      ((∀ x ∈ fn.sqs, x.qid ≠ qid) → (∃ x ∈ fn.cqs, x.qid = other) → ∀ prio, Completes (.createIoSq q cid qid size ⟨other, prio⟩) s
        fun t => posted .success 0 t ∧
          t.hst.fns[q.fn].sqs = fn.sqs ++ [{ qid := qid, size := size, cqid := other, prio := prio }]) ∧
      ((∀ x ∈ fn.cqs, x.qid ≠ qid) → other ≤ s.dev.vectorLimit q.fn → Completes (.createIoCq q cid qid size other) s fun t =>
        posted .success 0 t ∧ t.hst.fns[q.fn].cqs = fn.cqs ++ [{ qid := qid, size := size, vector := other }])) ∧
    (∀ qid, ((∃ x ∈ fn.sqs, x.qid = qid) → (∀ c ∈ s.dev.que.cmds, c.q ≠ ⟨q.fn, qid⟩) →
        Completes (.deleteIoSq q cid qid) s fun t => posted .success 0 t ∧
          t.hst.fns[q.fn].sqs = fn.sqs.filter fun x => x.qid != qid) ∧
      ((∃ x ∈ fn.cqs, x.qid = qid) → (∀ x ∈ fn.sqs, x.cqid ≠ qid) → Completes (.deleteIoCq q cid qid) s fun t =>
        posted .success 0 t ∧ t.hst.fns[q.fn].cqs = fn.cqs.filter fun x => x.qid != qid) ∧
      ((∃ x ∈ fn.cqs, x.qid = qid) → (∃ x ∈ fn.sqs, x.cqid = qid) →
        Completes (.deleteIoCq q cid qid) s (posted .invalidQueueDeletion 0))) ∧
    Completes (.getLogPage q cid 0xC0 0 0 132) s (fun t => posted .success 0 t ∧
      ∃ bs, t.hst.data = s.dev.hst.data ++ [(q.fn, 0, cid, bs)] ∧ bs.length = 132 ∧
        bs.drop 128 = leBytes 4 (s.dev.get CBL_EPOCH.EPOCH) ∧
        ∀ g : Grp, bs[32 * g.val]? = some (BitVec.ofNat 8 (s.dev.grpState g)) ∧
          bs[32 * g.val + 1]? = some (BitVec.ofNat 8 (s.dev.failedMask g))) ∧
    (∀ nsid ofs len, Completes (.getLogPage q cid 0x77 nsid ofs len) s (posted .invalidLogPage 0)) ∧
    Completes (.identify q cid 1 0) s (fun t => posted .success 0 t ∧
      ∃ bs, t.hst.data = s.dev.hst.data ++ [(q.fn, 0, cid, bs)] ∧ bs.take 2 = [0x3E, 0x1F] ∧
        (bs.drop 80).take 4 = [0, 0, 2, 0] ∧ (bs.drop 512).take 2 = [0x66, 0x44] ∧
        (bs.drop 516).take 4 = leBytes 4 4095) ∧
    (∀ nsid, Completes (.identify q cid 7 nsid) s (posted .invalidField 0)) ∧
    (∀ sqid target, ((∀ c ∈ s.dev.que.cmds, c.q ≠ ⟨q.fn, sqid⟩ ∨ c.io.cid ≠ target) →
        Completes (.abort q cid sqid target) s (posted .success 1)) ∧
      ∀ c, s.dev.que.cmds = [c] → c.q = ⟨q.fn, sqid⟩ → c.io.cid = target → c.stage = .lock →
        Completes (.abort q cid sqid target) s fun t => t.que.cmds = [] ∧
          t.hst.cqes = s.dev.hst.cqes ++
            [⟨q.fn, sqid, target, .abortRequested, 0, 0⟩, ⟨q.fn, 0, cid, .success, 0, 0⟩]) ∧
    (∀ fid v nsid, fid = 0x01 ∨ fid = 0x08 ∨ fid = 0x0B → Completes (.setFeatures q cid fid nsid v false) s fun t =>
        posted .success 0 t ∧ featAt t.hst.fns[q.fn].feats fid 0 = v) ∧
    (∀ fid v nsid, q.fn ≠ 0 → fid ∈ [0x02, 0x06, 0x0C, 0x1A, 0xC0, 0xC1] →
      Completes (.setFeatures q cid fid nsid v false) s (posted .invalidField 0)) ∧
    (∀ nsid, Completes (.getFeatures q cid 0xC1 nsid) s (posted .success (s.dev.get SYS_MODE.MODE)) ∧
      Completes (.getFeatures q cid 0x02 nsid) s (posted .success (s.dev.get SYS_MODE.PS)) ∧
      Completes (.getFeatures q cid 0xC0 nsid) s
        (posted .success (s.dev.get RMT_HOST.FLOOR + 256 * s.dev.get RMT_HOST.CEIL)) ∧
      Completes (.getFeatures q cid 0x10 nsid) s (posted .invalidField 0)) ∧
    (fn.aers.length < 8 → Completes (.asyncEventRequest q cid) s fun t =>
      t.hst.fns[q.fn].aers = fn.aers ++ [cid] ∧ t.hst.cqes = s.dev.hst.cqes) ∧
    (8 ≤ fn.aers.length → Completes (.asyncEventRequest q cid) s (posted .asyncLimit 0)) ∧
    (s.dev.hst.selfTest = none → Completes (.deviceSelfTest q cid 1) s fun t =>
      posted .success 0 t ∧ t.hst.selfTest = some (1, q.fn, 0, cid) ∧ ∃ o ∈ t.band.ops, o.kind = .selfTest) ∧
    (s.dev.hst.selfTest.isSome = true → Completes (.deviceSelfTest q cid 1) s (posted .selfTestRuns 0)) ∧
    (∀ op, op ∉ [0x00, 0x01, 0x02, 0x04, 0x05, 0x06, 0x08, 0x09, 0x0A, 0x0C, 0x0D, 0x10, 0x11, 0x14, 0x15, 0x1C, 0x80, 0x81,
        0x82, 0x84] → Completes (.invalidOpcode q cid op) s (posted .invalidOpcode 0)) ∧
    (q.fn = 0 →
      (∀ ps, (ps ≤ 2 → s.dev.get RMT_HOST.FLOOR ≤ psCeil ps → Completes (.powerManagement q cid ps) s fun t =>
          posted .success 0 t ∧ t.get SYS_MODE.PS = ps ∧ t.seq.opPs = ps) ∧
        (2 < ps → Completes (.powerManagement q cid ps) s (posted .invalidField 0))) ∧
      (∀ b, Completes (.volatileWriteCache q cid b) s fun t => posted .success 0 t ∧ featAt t.hst.feats 6 1 = b.toNat) ∧
      (∀ table, (∀ e ∈ table, e.2 = 0 ∨ e.1 = 3 ∨ e.1 = 4) → Completes (.autonomousPowerStateTransition q cid true table) s
        fun t => posted .success 0 t ∧ t.hst.apst = table ∧ featAt t.hst.feats 0x0C 1 = 1) ∧
      (∀ up, Completes (.spinupControl q cid up true) s fun t => posted .success 0 t ∧ t.flash.savedSpinup = some up) ∧
      (∀ up, Completes (.spinupControl q cid up false) s fun t => posted .success 0 t ∧ t.flash = s.dev.flash) ∧
      (∀ floor ceil, (floor ≤ ceil → ceil ≤ 23 → floor ≤ psCeil s.dev.seq.opPs →
          Completes (.spindleBandLimits q cid floor ceil) s fun t => posted .success 0 t ∧
            t.get RMT_HOST.FLOOR = floor ∧ t.get RMT_HOST.CEIL = ceil) ∧
        (ceil < floor → Completes (.spindleBandLimits q cid floor ceil) s (posted .invalidField 0))) ∧
      (s.dev.que.held ≠ [] → s.dev.seq.spinDown = 0 → s.dev.seq.prep = 0 → Completes (.spinDown q cid) s fun t =>
        posted .success 0 t ∧ t.seq.spinDown = 1) ∧
      (s.dev.seq.spinDown ≠ 0 → Completes (.spinUp q cid) s fun t => posted .success 0 t ∧ t.seq.spinHeld = some true) ∧
      (∀ ofs data, ofs % 4 = 0 → data.length % 4 = 0 → ofs + data.length ≤ 2 ^ 22 → s.dev.hst.download = [] →
        Completes (.firmwareImageDownload q cid ofs data) s fun t => posted .success 0 t ∧
          t.hst.download = [(ofs, data)]) ∧
      (s.dev.flash.fwSlot2 ≠ [] → Completes (.firmwareCommit q cid 2 2) s fun t =>
        posted .success 0 t ∧ t.hst.fwNext = 2 ∧ t.flash = s.dev.flash) ∧
      (∀ img, s.dev.hst.download = [(0, img)] → img ≠ [] → Completes (.firmwareCommit q cid 2 1) s fun t =>
        if Config.packageSigned img then posted .success 0 t ∧ t.flash.fwSlot2 = img ∧ t.hst.fwNext = 2 ∧ t.hst.download = []
        else posted .firmwareImage 0 t ∧ t.flash = s.dev.flash) ∧
      (s.dev.hst.download = [] → Completes (.firmwareCommit q cid 2 1) s (posted .firmwareImage 0)) ∧
      (∀ vf : Fn, vf ≠ 0 → ∀ n vq,
        (s.dev.hst.fns[vf].online = true →
          Completes (.virtualizationManagement q cid 8 vf vq n) s (posted .invalidSecondaryState 0)) ∧
        (s.dev.hst.fns[vf].vq ≠ 0 → s.dev.hst.fns[vf].vi ≠ 0 → Completes (.virtualizationManagement q cid 9 vf vq n) s fun t =>
          posted .success 0 t ∧ t.hst.fns[vf].online = true ∧ t.get HST_FN_STATUS.PRESENT 0 vf = 1) ∧
        (s.dev.hst.fns[vf].online = false → n ≤ 256 → s.dev.flexUsed.1 + n ≤ 960 →
          Completes (.virtualizationManagement q cid 8 vf true n) s fun t =>
            posted .success n t ∧ t.hst.fns[vf].vq = n))) ∧
    (q.fn ≠ 0 →
      (∀ ofs data, Completes (.firmwareImageDownload q cid ofs data) s (posted .invalidOpcode 0)) ∧
      (∀ a n, Completes (.namespaceCreate q cid n n a) s (posted .invalidOpcode 0)) ∧
      (∀ ps, Completes (.powerManagement q cid ps) s (posted .invalidField 0)) ∧
      Completes (.spinDown q cid) s (posted .invalidField 0))

/-- R402 to R404, R458, R459, R572, R573, R600: namespaces. A create takes the lowest free NSID and the bands of one table
change; a delete detaches it and waits for its locks; a format and a sanitize replace keys and run over every band, while I/O
commands are turned away. A spin-up in STANDBY enters SPIN_UP. -/
def Obligations.NamespaceCommands : Prop :=
  ∀ s (q : QRef) cid, s.dev.fetching 0 = true → q = ⟨0, 0⟩ →
    let posted := fun (st : Status) (dw0 : Nat) (t : Dev) =>
      t.hst.cqes = s.dev.hst.cqes ++ [⟨0, 0, cid, st, dw0, 0⟩]
    (s.dev.mode = .standby → Completes (.spinUp q cid) s fun t => posted .success 0 t ∧ t.mode = .spinUp ∧
      t.get SPN_TARGET.TARGET = s.dev.startTarget % 2 ^ 18) ∧
    (s.dev.mode = .active →
      (∀ nsze fmt id, s.dev.createRefused nsze nsze fmt = none → s.dev.freeNsid = some id →
        let n : Ns := { nsid := id, nsze := nsze, lbaf := fmtLbaf fmt, extended := fmtExt fmt, piType := fmtPi fmt }
        ((∀ m ∈ (takeBands s.dev.giving n.wanted s.dev.band.dir ⟨[], []⟩).maps, m.2.2 ≠ none) →
          Completes (.namespaceCreate q cid nsze nsze fmt) s fun t =>
            t.get QUE_INT_STATUS.NS_CHANGE = 1 ∧ t.nsOf id = some n ∧ t.band.gen = (s.dev.band.gen + 1) % 2 ^ 32 ∧
            ∃ k ∈ t.sec.keys, k.1 = id) ∧
        ((∃ m ∈ (takeBands s.dev.giving n.wanted s.dev.band.dir ⟨[], []⟩).maps, m.2.2 = none) →
          Completes (.namespaceCreate q cid nsze nsze fmt) s (posted .insufficientCapacity 0))) ∧
      (∀ nsze ncap fmt, s.dev.get SEC_STATUS.ENTROPY_OK = 1 → s.dev.sanitizing = false →
        (nsze = 0 ∨ nsze % 2 ^ 18 ≠ 0 ∨ nsze ≠ ncap) →
        Completes (.namespaceCreate q cid nsze ncap fmt) s (posted .invalidField 0)) ∧
      (∀ nsid n, s.dev.band.ns = [n] → n.nsid = nsid → nsid < 4096 → n.deleting = false → n.formatting = false →
        s.dev.sanitizing = false →
        Completes (.namespaceDelete q cid nsid) s fun t =>
          t.nsOf nsid = some { n with deleting := true, attached := [] } ∧
          t.band.deletes = s.dev.band.deletes ++ [(nsid, 0, 0, cid)] ∧ ∀ c ∈ t.que.cmds, c.io.nsid ≠ nsid ∨ c.stage ≠ .lock) ∧
      (∀ nsid n (f : Fn), s.dev.nsOf nsid = some n → n.deleting = false →
        (f ∉ n.attached → Completes (.namespaceAttachment q cid nsid true [f]) s fun t =>
          (t.nsOf nsid).map Ns.attached = some (n.attached ++ [f])) ∧
        (f ∈ n.attached → Completes (.namespaceAttachment q cid nsid false [f]) s fun t =>
          (t.nsOf nsid).map Ns.attached = some (n.attached.filter fun x => x != f)) ∧
        (f ∈ n.attached → Completes (.namespaceAttachment q cid nsid true [f]) s (posted .alreadyAttached 0))) ∧
      (∀ nsid fmt ses ext n, s.dev.nsOf nsid = some n → nsid < 4096 → s.dev.formatRefused nsid fmt ses = none →
        fmtLbaf fmt = n.lbaf →
        s.dev.que.cmds = [] → s.dev.holes = [] → s.dev.nsBands [nsid] ≠ [] → s.dev.band.ops = [] →
        (∀ g : Grp, s.dev.hasHeads g = true → s.dev.grpState g ≠ gsOffline) →
        Completes (.formatNvm q cid nsid fmt ses ext) s fun t =>
          t.nsOf nsid = some { n with extended := ext, piType := fmtPi fmt, formatting := true } ∧ (∀ h ∈ t.que.held, h.nsid ≠ nsid) ∧
          t.band.ops.map (fun o => (o.kind, o.todo, o.client)) =
            [(.formatNs nsid, s.dev.nsBands [nsid], some (0, 0, cid))] ∧
          t.hst.cqes = s.dev.hst.cqes) ∧
      (∀ pass pattern, 1 ≤ pass → pass ≤ 15 → s.dev.get SEC_STATUS.ENTROPY_OK = 1 → s.dev.sanitizing = false →
        (∀ n ∈ s.dev.band.ns, n.formatting = false) → s.dev.que.cmds = [] → s.dev.band.ops = [] →
        s.dev.nsBands (s.dev.band.ns.map Ns.nsid) ≠ [] →
        (∀ g : Grp, s.dev.hasHeads g = true → s.dev.grpState g ≠ gsOffline) →
        let begun := fun (k : OpKind) (t : Dev) => posted .success 0 t ∧ t.band.sanitize = 2 ∧ t.sanitizing = true ∧
          t.band.ops.map (fun o => (o.kind, o.todo)) = [(k, s.dev.nsBands (s.dev.band.ns.map Ns.nsid))]
        Completes (.sanitizeOverwrite q cid pass pattern) s (begun (.sanitize pass pattern)) ∧
        Completes (.sanitizeCryptoErase q cid) s (begun (.sanitize 0 0))) ∧
      (s.dev.sanitizing = false → Completes (.sanitizeExitFailure q cid) s fun t => posted .success 0 t ∧
        (s.dev.band.sanitize = 3 → t.band.sanitize = 0)) ∧
      (s.dev.sanitizing = true → Completes (.sanitizeExitFailure q cid) s (posted .sanitizeInProgress 0)))

/-! ### Memory (chapter 14) -/

/-- R463, R467, R469 to R472, R475: what a requester reads is what was last written, through the cache, its miss registers
and their fills. A write makes its own bytes and no other; a read with good ECC, and no injected error, delivers the granule's bytes and changes
none; a fill, an evicted line and a drained cache change none. -/
def Obligations.MemoryReadsWhatWasWritten : Prop :=
  (∀ s req a data, s.dev.clocked 5 = true → s.dev.plainMem → a + data.length ≤ hbmBytes → Completes (.bufferWrite req a data) s fun t =>
    t.plainMem ∧ ∀ x, t.memByte x = if a ≤ x ∧ x < a + data.length then data.getD (x - a) 0 else s.dev.memByte x) ∧
  (∀ s req a, s.dev.clocked 5 = true → s.dev.plainMem → a < hbmBytes → s.dev.injecting (256 + bufPc (a / 65536)) = none →
    Completes (.memoryRead req a .ok .ok) s fun t =>
    t.mem.answer = (List.range 32).map (fun k => s.dev.memByte (a / 32 * 32 + k)) ∧ t.mem.answerPoison = false ∧
    ∀ x, t.memByte x = s.dev.memByte x) ∧
  (∀ s n, s.dev.clocked 6 = true → s.dev.plainMem → (s.dev.missOf n).isSome = true → (∃ w, w < 16 ∧ s.dev.wayState w = 0) →
    Completes (.cacheFill n) s fun t => t.missOf n = none ∧ (s.dev.cacheState = 0 → (t.mem.lineOf n).isSome = true) ∧
      ∀ x, t.memByte x = s.dev.memByte x) ∧
  (∀ s, s.dev.clocked 6 = true → s.dev.plainMem → s.dev.cacheState = 1 → s.dev.mem.misses = [] → Completes .cacheDrained s fun t =>
    t.cacheState = 2 ∧ t.mem.lines = [] ∧ t.get CCH_INT_STATUS.DRAINED = 1 ∧ ∀ x, t.memByte x = s.dev.memByte x)

/-- R468, R473 to R476, R478, R480 to R482: the merge buffer's write-out, the ways, disabling and enabling, maintenance, the
keystone vote and the scrubber. -/
def Obligations.CacheKeystonesScrubber : Prop :=
  (∀ s e rest, s.dev.clocked 5 = true → s.dev.mem.merge = e :: rest → (∀ x ∈ rest, x.granule ≠ e.granule) → Completes .mergeWriteOut s fun t =>
    t.mem.merge = rest ∧ t.get MEM_STATUS.MERGE = rest.length % 64) ∧
  (∀ s who v, s.dev.takes who CCH_WAY_CTRL.at = true →
    Completes (.wayOff who v) s (fun t => ∀ w, w < 16 → bit (s.dev.get CCH_WAY_CTRL.OFF) w = false →
      bit (CCH_WAY_CTRL.OFF.of v) w = true →
      (s.dev.wayState w ≠ 3 → t.wayState w = 1 ∧ bit (t.get CCH_WAY_CTRL.OFF) w = true) ∧
      (s.dev.wayState w = 3 → t.wayState w = 3 ∧ bit (t.get CCH_WAY_CTRL.OFF) w = false)) ∧
    Completes (.wayOn who v) s (fun t => ∀ w, w < 16 → bit (s.dev.get CCH_WAY_CTRL.OFF) w = true →
      bit (CCH_WAY_CTRL.OFF.of v) w = false → bit (s.dev.get FLT_FENCED_MISC.WAY) w = false →
      w + s.dev.get CCH_SCRATCH.COUNT < 16 → t.wayState w = 0 ∧ bit (t.get CCH_WAY_CTRL.OFF) w = false ∧
        ∀ l ∈ t.mem.lines, l.way ≠ w)) ∧
  (∀ s (w : Fin 16), s.dev.clocked 6 = true → s.dev.wayState w = 1 → bit (s.dev.get CCH_WAY_CTRL.OFF) w = true → Completes (.wayCleaned w) s fun t =>
    t.wayState w = 2 ∧ t.get CCH_INT_STATUS.WAY_DONE = 1 ∧ ∀ l ∈ t.mem.lines, l.way ≠ w.val) ∧
  (∀ s who v, s.dev.takes who CCH_SCRATCH.at = true →
    (CCH_SCRATCH.COUNT.of v ≤ 8 → Completes (.scratchCountWrite who v) s fun t =>
      t.get CCH_SCRATCH.COUNT = CCH_SCRATCH.COUNT.of v ∧ ∀ w, 16 - CCH_SCRATCH.COUNT.of v ≤ w →
        w < 16 - s.dev.get CCH_SCRATCH.COUNT → s.dev.wayState w = 0 → t.wayState w = 1) ∧
    (8 < CCH_SCRATCH.COUNT.of v → s.dev.get SYS_BUS_ERR_INFO.VALID = 0 → Completes (.scratchCountWrite who v) s fun t =>
      t.get CCH_SCRATCH.COUNT = s.dev.get CCH_SCRATCH.COUNT ∧ t.get SYS_BUS_ERR_INFO.CAUSE = 7)) ∧
  (∀ s who v, s.dev.takes who CCH_CTRL.at = true →
    (s.dev.cacheState = 0 → Completes (.cacheDisable who v) s fun t =>
      t.get CCH_CTRL.EN = 0 ∧ t.cacheState = 1 ∧ t.mem.lines = s.dev.mem.lines) ∧
    (s.dev.cacheState = 1 → Completes (.cacheEnable who v) s fun t =>
      t.get CCH_CTRL.EN = 1 ∧ t.cacheState = 0 ∧ t.mem.lines = s.dev.mem.lines) ∧
    (s.dev.cacheState = 2 → Completes (.cacheEnable who v) s fun t =>
      t.get CCH_CTRL.EN = 1 ∧ t.cacheState = 0 ∧ t.mem.lines = [])) ∧
  (∀ s who v, s.dev.takes who CCH_MAINT_CMD.at = true → s.dev.get CCH_MAINT_CMD.GO = 0 → s.dev.mem.misses = [] →
    let first := (s.dev.get CCH_MAINT_ADDR_LO.ADDR + 2 ^ 32 * (s.dev.get CCH_MAINT_ADDR_HI.ADDR % 256)) / 128
    let count := atLeast1 (CCH_MAINT_CMD.COUNT.of v)
    let runs := fun (t : Dev) => t.get CCH_MAINT_CMD.GO = 1 ∧ t.mem.maint.map Maint.count = some 0
    let hit := fun (n : Nat) => first ≤ n ∧ n < first + count
    Completes (.maintInvalidate who v) s (fun t => runs t ∧ ∀ l, l ∈ t.mem.lines ↔ l ∈ s.dev.mem.lines ∧ ¬ hit l.line) ∧
    Completes (.maintCleanInv who v) s (fun t => runs t ∧ ∀ l, l ∈ t.mem.lines ↔ l ∈ s.dev.mem.lines ∧ ¬ hit l.line) ∧
    Completes (.maintClean who v) s (fun t => runs t ∧ t.mem.lines.map Line.line = s.dev.mem.lines.map Line.line ∧
      ∀ l ∈ t.mem.lines, hit l.line → l.dirty = [])) ∧
  (∀ s who v, s.dev.takes who CCH_MAINT_CMD.at = true → s.dev.get CCH_MAINT_CMD.GO = 1 →
    s.dev.get SYS_BUS_ERR_INFO.VALID = 0 → Completes (.maintClean who v) s fun t =>
      t.get SYS_BUS_ERR_INFO.CAUSE = 5 ∧ t.mem = s.dev.mem) ∧
  (∀ s x, s.dev.clocked 6 = true → s.dev.mem.maint = some x → x.count = 0 → Completes .maintDone s fun t =>
    t.mem.maint = none ∧ t.get CCH_MAINT_CMD.GO = 0 ∧ t.get CCH_MAINT_RESULT.VALID = 1 ∧
    t.get CCH_MAINT_RESULT.WRITTEN = min x.written (2 ^ 20 - 1) ∧ t.get CCH_INT_STATUS.MAINT_DONE = 1) ∧
  (∀ (w : KsWord) v, (w.okA = true → w.okB = true → w.a = v → w.b = v → w.vote.1 = v) ∧
    (w.okA = true → w.okC = true → w.a = v → w.c = v → w.vote.1 = v) ∧
    (w.okB = true → w.okC = true → w.b = v → w.c = v → w.vote.1 = v)) ∧
  (∀ s (k : Fin 64) v, s.dev.clocked 7 = true → s.dev.injecting 400 = none → s.dev.ksFenced k = false →
    s.dev.mem.ks[k].vote = (v, .agree) → Completes (.keystoneRead k) s fun t =>
    t.bus.rdata = v ∧ t.mem.ks = s.dev.mem.ks ∧ t.regs = s.dev.regs) ∧
  (∀ s, s.dev.clocked 7 = true → s.dev.injecting 400 = none → (∀ k : Fin 64, s.dev.ksFenced k = false ∧ (s.dev.mem.ks[k].vote).2 ≠ .uc ∧ (s.dev.mem.ks[k].vote).2 ≠ .fence ∧
      ((s.dev.mem.ks[k].vote).2 = .ce → s.dev.mem.ks[k].reported = true)) →
    Completes .keystoneSweep s fun t => ∀ k : Fin 64, (t.mem.ks[k].vote) = ((s.dev.mem.ks[k].vote).1, .agree)) ∧
  (∀ s who (k : Fin 64) v, s.dev.takes who (MEM_KS.at 0 k) = true →
    (s.dev.merging = true → s.dev.ksFenced k = false → Completes (.keystoneWrite who k v) s fun t =>
      t.mem.ks[k].a = v ∧ t.mem.ks[k].b = v ∧ t.mem.ks[k].c = v ∧ t.ks k = v) ∧
    (s.dev.merging = false → s.dev.get SYS_BUS_ERR_INFO.VALID = 0 → Completes (.keystoneWrite who k v) s fun t =>
      t.mem.ks = s.dev.mem.ks ∧ t.get SYS_BUS_ERR_INFO.CAUSE = 5)) ∧
  (∀ s (m : Fin 8), s.dev.get MEM_SCRUB_CFG.EN = 1 → s.dev.mode ≠ .deepIdle → 3 ≤ m.val →
    s.dev.clocked (scrubIsland m) = true → s.dev.injecting (if m.val = 3 then 200 else 128 + 8 * (m.val - 4)) = none →
    (s.dev.mem.next[m] + 1 < scrubSize m → Completes (.scrubRead m .ok .ok false) s fun t =>
      t.mem.next[m] = s.dev.mem.next[m] + 1 ∧
      t.get MEM_SCRUB_LAP.PROGRESS 0 m = (s.dev.mem.next[m] + 1) * 128 / scrubSize m % 128) ∧
    (s.dev.mem.next[m] + 1 = scrubSize m → Completes (.scrubRead m .ok .ok false) s fun t =>
      t.mem.next[m] = 0 ∧ t.mem.lapAt[m] = s.dev.now ∧ t.get MEM_INT_STATUS.SCRUB_LAP = 1 ∧
      t.get MEM_SCRUB_LAP.LAP 0 m = min ((s.dev.now - s.dev.mem.lapAt[m]) / 1000) (2 ^ 24 - 1))) ∧
  (∀ s (m : Fin 8), Completes (.scrubSlow m) s fun t => bit (t.get MEM_INT_STATUS.SCRUB_SLOW) m = true)

/-! ### The buffer pool and the shuttle (chapter 15) -/

/-- R483 to R491, R493, R495 to R497, R500, R503: the pool's operations with their answers, a COPY whose every destination byte
receives what its source byte held though the ranges overlap, and the end of a job. -/
def Obligations.BufferPoolAndShuttle : Prop :=
  (∀ s, s.dev.clocked 5 = true → s.dev.get BPM_CTRL.EN = 1 →
    (∀ r, r < 82 → r ∉ s.dev.flt.requesters → (∀ w ∈ s.dev.bpm.waiting, w.1 ≠ r) →
      (s.dev.bufsOf r + 1 ≤ s.dev.get BPM_QUOTA.MAX 0 r * 16 → 1 + s.dev.reserved r ≤ s.dev.get BPM_FREE.COUNT →
        (∃ b, b < bufTotal ∧ s.dev.bufFree b = true) → Completes (.bpmAlloc true r 1 false) s fun t =>
          ∃ b, s.dev.bufFree b = true ∧ t.bpm.answer = (0, [b]) ∧ t.bufRec b = some ⟨b, r, 0, false, false⟩ ∧
            t.get BPM_FREE.COUNT = s.dev.get BPM_FREE.COUNT - 1) ∧
      (s.dev.get BPM_QUOTA.MAX 0 r * 16 < s.dev.bufsOf r + 1 →
        Completes (.bpmAlloc true r 1 false) s (fun t => t.bpm.waiting = s.dev.bpm.waiting ++ [(r, 1, false)] ∧
          t.bpm.recs = s.dev.bpm.recs ∧ t.get BPM_USE.WAITING 0 r = 1) ∧
        Completes (.bpmAlloc false r 1 false) s fun t => t.bpm = s.dev.bpm ∧ t.get BPM_RESULT0.STATUS = 5 ∧
          t.get BPM_CMD.GO = 0 ∧ t.get BPM_INT_STATUS.CMD_DONE = 1)) ∧
    (∀ b x, s.dev.bufRec b = some x → b + s.dev.bpm.cmb < bufTotal → x.odd = false →
      (∀ k last, x.owner < 82 → last < 82 → 1 ≤ k → x.shares + k ≤ 255 → Completes (.bpmShare true x.owner b k last) s fun t =>
        t.bpm.answer = (0, []) ∧ t.bufRec b = some { x with shares := x.shares + k, owner := last }) ∧
      (∀ r, r < 82 → r ≠ x.owner → x.shares ≠ 0 → Completes (.bpmRelease true r b) s fun t =>
        t.bpm.answer = (0, []) ∧ t.bufRec b = some { x with shares := x.shares - 1 }) ∧
      (x.owner < 82 → x.shares = 0 → x.mirror = false → s.dev.pcFenced (bufPc b) = false →
        s.dev.get BPM_FREE.COUNT < bufTotal → Completes (.bpmFree true x.owner b) s fun t =>
          t.bpm.answer = (0, []) ∧ t.bufRec b = none ∧ t.get BPM_FREE.COUNT = s.dev.get BPM_FREE.COUNT + 1) ∧
      (∀ r, r < 82 → r ≠ x.owner → Completes (.bpmFree true r b) s fun t => t.bpm.answer = (2, [])) ∧
      (∀ r, r < 82 → x.owner < 82 → Completes (.bpmQuery false r b) s fun t => t.bpm = s.dev.bpm ∧
        t.get BPM_RESULT0.STATUS = 0 ∧ t.get BPM_RESULT0.BUF = b ∧ t.get BPM_RESULT1.ALLOCATED = 1 ∧
        t.get BPM_RESULT1.OWNER = x.owner ∧ t.get BPM_INT_STATUS.CMD_DONE = 1))) ∧
  (∀ s r, s.dev.clocked 5 = true → s.dev.bpm.waiting = [(r, 1, false)] → r < 82 → r ∉ s.dev.flt.requesters →
    s.dev.bufsOf r + 1 ≤ s.dev.get BPM_QUOTA.MAX 0 r * 16 → 1 + s.dev.reserved r ≤ s.dev.get BPM_FREE.COUNT →
    (∃ b, b < bufTotal ∧ s.dev.bufFree b = true) → Completes .bpmAllocGrant s fun t => t.bpm.waiting = [] ∧
      t.bpm.served = r ∧ ∃ b, t.bpm.answer = (0, [b]) ∧ s.dev.bufFree b = true ∧
        t.bufRec b = some ⟨b, r, 0, false, false⟩) ∧
  (∀ s who (c : Chan) v, s.dev.takes who (SHU_CH_CTRL.at 0 c) = true → v.getLsbD 30 = false → s.dev.jobs[c] = none →
    let j := s.dev.jobOf c
    (s.dev.jobCheck c j = none → s.dev.injecting (336 + c.val) = none → j.stream = false → (j.mode = 0 → j.src ≠ j.dst) → Completes (.shuStart who c v) s fun t =>
      t.jobs[c] = some j ∧ t.get SHU_CH_CTRL.START 0 c = 1 ∧ t.get SHU_CH_POS.BYTES 0 c = 0 ∧
      t.get SHU_CH_RESULT.VALID 0 c = 0 ∧ t.mem = s.dev.mem) ∧
    (∀ e, s.dev.jobCheck c j = some e → e ≠ 2 → Completes (.shuStart who c v) s fun t => t.jobs[c] = none ∧
      t.get SHU_CH_RESULT.VALID 0 c = 1 ∧ t.get SHU_CH_RESULT.STATUS 0 c = e ∧ t.get SHU_CH_INT.ERR 0 c = 1 ∧
      t.mem = s.dev.mem)) ∧
  (∀ s who (c : Chan) v j, s.dev.takes who (SHU_CH_CTRL.at 0 c) = true → v.getLsbD 31 = false → s.dev.jobs[c] = some j →
    Completes (.shuAbort who c v) s fun t => t.jobs[c] = some { j with abort := true } ∧ t.get SHU_CH_CTRL.ABORT 0 c = 1) ∧
  (∀ s who v, s.dev.takes who SHU_CTRL.at = true → Completes (.shuDisable who v) s fun t => t.get SHU_CTRL.EN = 0 ∧
    ∀ (c : Chan) j, s.dev.jobs[c] = some j → t.jobs[c] = some { j with abort := true } ∧ t.get SHU_CH_CTRL.ABORT 0 c = 1) ∧
  (∀ s (c : Chan) j moved, s.dev.clocked 5 = true → s.dev.jobs[c] = some j → s.dev.plainMem → j.mode = 0 → j.stream = false → j.legal = true →
    j.aligned = true → j.mapped = true → j.count < 2 ^ 32 →
    (j.abort = false → Completes (.shuJobEnd c moved false) s fun t => t.jobs[c] = none ∧
      t.get SHU_CH_RESULT.STATUS 0 c = 0 ∧ t.get SHU_CH_DONE.BYTES 0 c = j.count ∧ t.get SHU_CH_INT.DONE 0 c = 1 ∧
      ∀ a, t.memByte a = if j.dst ≤ a ∧ a < j.dst + j.count then s.dev.memByte (j.src + (a - j.dst)) else s.dev.memByte a) ∧
    (j.abort = true → moved / 64 < j.count / 64 → Completes (.shuJobEnd c moved false) s fun t => t.jobs[c] = none ∧
      t.get SHU_CH_RESULT.STATUS 0 c = 1 ∧ t.get SHU_CH_DONE.BYTES 0 c = moved / 64 * 64 ∧
      ∀ a, ¬ (j.dst ≤ a ∧ a < j.dst + j.count) → t.memByte a = s.dev.memByte a))

/-! ### The interrupt controller and the vigil (chapter 17) -/

/-- R517 to R519, R521 to R524, R526, R529, R531, R532, R534, R535, R575: assertion, the choice of a core's source, claim and
end-of-interrupt with their stack, sleep and wake. -/
def Obligations.InterruptsAndVigil : Prop :=
  (∀ s (x : Fin 1024), s.dev.statusSet x = true → bit (s.dev.get TRC_CTRL.RANGES) (sourceRow x) = false →
    s.dev.islandUp 7 = true → s.dev.line x = true → Completes (.sourceAssert x) s fun t =>
      (s.dev.srcState x = 0 → s.dev.srcPrio x ≠ 0 → t.srcState x = 1) ∧
      (s.dev.srcState x = 0 → s.dev.srcPrio x = 0 → t.srcState x = 0) ∧
      (s.dev.srcState x = 2 → x.val ∈ s.dev.ict.low → t.srcState x = 3) ∧
      (s.dev.srcState x = 2 → x.val ∉ s.dev.ict.low → t.srcState x = 2) ∧
      (∀ y, y ≠ x.val → t.srcState y = s.dev.srcState y) ∧ t.ict.stack = s.dev.ict.stack) ∧
  (∀ s (x : Fin 1024), s.dev.statusSet x = true → x.val < 960 → s.dev.islandUp 20 = true →
    bit (s.dev.get TRC_CTRL.RANGES) (sourceRow x) = true → s.dev.get TRC_CTRL.TRACE_EN = 0 →
    s.dev.get TRC_CTRL.PORT_EN = 1 → Completes (.sourceAssert x) s fun t =>
      t.trc.sent = s.dev.trc.sent ++ [⟨s.dev.now * 400 % 2 ^ 64, x, s.dev.statusWord x⟩]) ∧
  (∀ (d : Dev) k x, d.deliverable k = some x → x < 1024 ∧ d.get ICT_CTRL.EN = 1 ∧ d.srcState x = 1 ∧
    d.effTarget x = some k ∧ d.running k < d.srcPrio x ∧ d.get ICT_CPU_CTRL.PMR 0 k < d.srcPrio x ∧
    ∀ y, y < 1024 → d.srcState y = 1 → d.srcPrio y ≠ 0 → d.effTarget y = some k →
      d.srcPrio y < d.srcPrio x ∨ (d.srcPrio y = d.srcPrio x ∧ x ≤ y)) ∧
  (∀ s (k : CoreId), s.dev.refusal ⟨coreWho k, ICT_CLAIM.at 0 k, false, 4⟩ = none →
    (s.dev.deliverable k = none → Completes (.ictClaim k) s fun t =>
      t.bus.rdata = 0 ∧ t.ict = s.dev.ict ∧ t.regs = s.dev.regs) ∧
    (∀ x, s.dev.deliverable k = some x → (s.dev.stackOf k).length < 16 → Completes (.ictClaim k) s fun t =>
      t.bus.rdata = BitVec.ofNat 32 (2 ^ 31 + s.dev.srcPrio x * 2 ^ 16 + x) ∧
      t.stackOf k = (x, s.dev.srcPrio x) :: s.dev.stackOf k ∧ t.srcState x = 2 ∧
      (960 ≤ x → t.line x = false) ∧ ∀ y, y ≠ x → t.srcState y = s.dev.srcState y)) ∧
  (∀ s (k : CoreId) v x p rest, s.dev.takes (coreWho k) (ICT_EOI.at 0 k) = true → s.dev.stackOf k = (x, p) :: rest →
    bits v 0 10 = x → Completes (.ictEoi k v) s fun t => t.stackOf k = rest ∧ x ∉ t.ict.low ∧
      ((s.dev.srcState x = 3 ∨ (s.dev.line x = true ∧ s.dev.srcPrio x ≠ 0)) → t.srcState x = 1) ∧
      (s.dev.srcState x ≠ 3 → s.dev.line x = false → t.srcState x = 0) ∧
      ∀ y, y ≠ x → t.srcState y = s.dev.srcState y) ∧
  (∀ s who (x : Fin 1024) v, s.dev.takes who (ICT_SRC_CFG.at 0 x) = true → Completes (.srcCfgWrite who x v) s fun t =>
    t.srcPrio x = ICT_SRC_CFG.PRIO.of v ∧ t.get ICT_SRC_CFG.TARGET 0 x = ICT_SRC_CFG.TARGET.of v ∧
    t.get ICT_SRC_CFG.FALLBACK 0 x = ICT_SRC_CFG.FALLBACK.of v ∧ t.ict.stack = s.dev.ict.stack ∧
    (s.dev.srcState x = 1 → t.srcState x = 1)) ∧
  (∀ s who v i, s.dev.takes who ICT_SWI_LO.at = true → i < 32 → v.getLsbD i = true → Completes (.swiSet who false v) s fun t =>
    bit (t.get ICT_SWI_LO.SET) i = true ∧
    (s.dev.srcState (960 + i) = 0 → s.dev.srcPrio (960 + i) ≠ 0 → t.srcState (960 + i) = 1)) ∧
  (∀ s (k : CoreId) v, s.dev.takes (coreWho k) VGL_SLEEP.at = true → Completes (.coreSleep k v) s fun t =>
    bit (t.get VGL_SLEEP.CORE) k = true ∧ bit (t.get VGL_STATUS.ASLEEP) k = true ∧ t.coreLine k = false ∧
    (bit (s.dev.get VGL_SLEEP.CORE) k = false → (∀ e, e < 64 → s.dev.watches k e = false) →
      t.get VGL_INT_STATUS.ORPHAN = 1)) ∧
  (∀ s, s.dev.mode ≠ .lightIdle → s.dev.mode ≠ .deepIdle →
    Completes .vigilClock s fun t => t.get VGL_TIMER.TICKS = (s.dev.get VGL_TIMER.TICKS + 1) % 2 ^ 32) ∧
  (∀ s e, e < 64 → (∀ y, y < 64 → (s.dev.get VGL_WATCH.EN 0 y = 1 ↔ y = e)) →
    let x := s.dev.get VGL_WATCH.SOURCE 0 e
    let k := s.dev.vigilTarget x
    k < 2 → s.dev.line x = true → bit (s.dev.get VGL_SLEEP.CORE) k = true → s.dev.mode = .active →
    Completes .vigilClock s fun t => bit (t.get VGL_SLEEP.CORE) k = false ∧ bit (t.get VGL_STATUS.ASLEEP) k = false ∧
      t.islandUp 7 = true ∧ t.get VGL_WAKE_INFO.VALID = 1 ∧ t.get VGL_WAKE_INFO.ENTRY = e ∧
      t.get VGL_WAKE_INFO.SOURCE = x ∧ t.get VGL_WAKE_INFO.CORE = k ∧ t.get VGL_INT_STATUS.WAKE = 1) ∧
  (∀ s, s.dev.get VGL_CTRL.CMP_EN = 1 → s.dev.get VGL_TIMER.TICKS = s.dev.get VGL_TIMER_CMP.TICKS →
    Completes .vigilTimerMatch s fun t => t.get VGL_INT_STATUS.TIMER = 1) ∧
  (∀ s, Completes .vigilClockLoss s (fun t => t.get VGL_STATUS.EXT_OK = 0) ∧
    Completes .vigilClockRestore s fun t => t.get VGL_STATUS.EXT_OK = 1)

/-! ### Faults, fences and the almanac (chapter 18), and the counters (chapter 19) -/

/-- R536 to R538, R540 to R545, R548: a corrected error is counted, an uncorrected one recorded or its unit fenced; fences begin,
end, with the delayed commands counted, and are lifted; the windows and the injections. -/
def Obligations.FaultsAndFences : Prop :=
  (∀ s x, s.dev.clocked 7 = true → siteSilent x.site = false → s.dev.get FLT_INJ_STATUS.ACTIVE = 0 →
    let act := s.dev.get FLT_SITE_CFG.ACTION 0 x.site
    let lim := s.dev.get FLT_SITE_CFG.CE_LIM 0 x.site * 16
    let r : FaultRec := ⟨x.site, 1, x.kind, x.index, x.addr, x.detail, false, false⟩
    (x.cls = 0 → 0 < s.dev.ceCount x.site → lim = 0 ∨ s.dev.ceCount x.site < lim → Completes (.faultReport x) s fun t =>
      t.ceCount x.site = s.dev.ceCount x.site + 1 ∧
      t.get FLT_SITE_CFG.CE_CNT 0 x.site = min (s.dev.get FLT_SITE_CFG.CE_CNT 0 x.site + 1) 65535 ∧
      t.get FLT_INT_STATUS.CE = 1 ∧ t.alm = s.dev.alm ∧ t.flt.running = s.dev.flt.running) ∧
    (x.cls = 0 → 0 < lim → lim ≤ s.dev.ceCount x.site → act = 0 → Completes (.faultReport x) s fun t =>
      t.ceCount x.site = 0 ∧ t.get FLT_INT_STATUS.ESCALATE = 1 ∧ t.get FLT_INT_STATUS.UC = 1 ∧
      t.get FLT_REC0.CLASS = 1 ∧ t.get FLT_REC0.SITE = x.site) ∧
    (x.cls = 1 → act = 0 → x.site < 512 → x.kind < 16 → x.index < 65536 → x.addr < 2 ^ 40 →
      Completes (.faultReport x) s fun t => t.get FLT_REC0.VALID = 1 ∧ t.get FLT_REC0.CLASS = 1 ∧
        t.get FLT_REC0.FENCED = 0 ∧ t.get FLT_REC0.SITE = x.site ∧ t.get FLT_REC0.KIND = x.kind ∧
        t.get FLT_REC2.UNIT = x.index ∧ t.get FLT_REC1.ADDR_LO = x.addr % 2 ^ 32 ∧
        t.get FLT_REC2.ADDR_HI = x.addr / 2 ^ 32 ∧ t.flt.running = s.dev.flt.running ∧
        t.get FLT_SITE_CFG.UC_CNT 0 x.site = min (s.dev.get FLT_SITE_CFG.UC_CNT 0 x.site + 1) 15) ∧
    (x.cls = 1 → act = 1 → r.unit.1 ∈ [1, 2, 4, 5] → s.dev.flt.running = none → Completes (.faultReport x) s fun t =>
      t.get FLT_STATUS.PAUSE = 1 ∧ t.get HST_CTRL.PAUSED = 1 ∧ t.get FLT_REC0.VALID = 0 ∧ t.get FLT_REC0.FENCED = 1 ∧
      t.flt.running.map (fun j => (j.kind, j.index)) = some r.unit ∧ t.flt.queue = s.dev.flt.queue)) ∧
  (∀ s j, s.dev.clocked 7 = true → s.dev.flt.running = some j → j.report = none → s.dev.flt.queue = [] → s.dev.hst.deferred = [] →
    s.dev.mode = .active →
    let over_ := fun (t : Dev) => t.flt.running = none ∧ t.get FLT_STATUS.PAUSE = 0 ∧ t.get HST_CTRL.PAUSED = 0 ∧
      t.get FLT_FENCE_CMD.GO = 0 ∧ t.get FLT_INT_STATUS.FENCE = 1 ∧
      t.get FLT_DELAYED.COUNT = min (s.dev.get FLT_DELAYED.COUNT + (s.dev.worksThrough j.kind j.index).length)
        (2 ^ FLT_DELAYED.COUNT.width - 1)
    (j.kind = 9 → Completes .fenceComplete s fun t => over_ t ∧ j.index ∈ t.flt.requesters) ∧
    (∀ c : Chan, j.kind = 5 → j.index = c.val → s.dev.jobs[c].isSome = true → Completes .fenceComplete s fun t =>
      over_ t ∧ t.chanFenced c = true ∧ t.jobs[c] = none ∧ t.get SHU_CH_RESULT.STATUS 0 c = 6 ∧
      t.get SHU_CH_DONE.BYTES 0 c = s.dev.get SHU_CH_POS.BYTES 0 c) ∧
    (∀ k : CoreId, j.kind = 7 → j.index = k.val → Completes .fenceComplete s fun t =>
      over_ t ∧ bit (t.get FLT_FENCED_MISC.CORE) k = true ∧ t.stackOf k = [] ∧ ∀ x, t.effTarget x ≠ some k.val)) ∧
  (∀ s who v, s.dev.takes who FLT_FENCE_CMD.at = true → s.dev.get FLT_FENCE_CMD.GO = 0 →
    let k := bits v 16 4
    let ix := bits v 0 16
    (s.dev.unitExists k ix = true → k ≠ 7 → s.dev.flt.running = none → Completes (.fenceCmd who v) s fun t =>
      t.get FLT_FENCE_CMD.GO = 1 ∧ t.get FLT_STATUS.PAUSE = 1 ∧ t.get HST_CTRL.PAUSED = 1 ∧
      t.flt.running.map (fun j => (j.kind, j.index, j.report)) = some (k, ix, none)) ∧
    (s.dev.unitExists k ix = false → s.dev.get SYS_BUS_ERR_INFO.VALID = 0 → Completes (.fenceCmd who v) s fun t =>
      t.flt = s.dev.flt ∧ t.get SYS_BUS_ERR_INFO.CAUSE = 7) ∧
    (∀ c : Chan, k = 5 → ix = c.val → Completes (.fenceLift who v) s fun t =>
      t.chanFenced c = false ∧ t.get FLT_FENCE_CMD.GO = 0) ∧
    (k = 9 → ix < 82 → Completes (.fenceLift who v) s fun t => ix ∉ t.flt.requesters ∧ t.get FLT_FENCE_CMD.GO = 0) ∧
    (s.dev.unitExists k ix = true → k ∉ [5, 6, 9] → s.dev.get SYS_BUS_ERR_INFO.VALID = 0 →
      Completes (.fenceLift who v) s fun t => t.flt = s.dev.flt ∧ t.get SYS_BUS_ERR_INFO.CAUSE = 5)) ∧
  (∀ s, s.dev.clocked 7 = true → Completes .ceWindowEnd s fun t => (∀ x, t.ceCount x = 0) ∧ t.regs = s.dev.regs) ∧
  (∀ s who v, s.dev.takes who FLT_INJ_CTRL.at = true →
    (s.dev.mode = .makerService → (bits v 28 2 = 1 ∨ bits v 28 2 = 2) → bits v 0 9 < 464 →
      Completes (.faultInject who v) s fun t => t.get FLT_INJ_STATUS.ACTIVE = 1 ∧ t.get FLT_INJ_CTRL.GO = 1 ∧
        t.get FLT_INJ_CTRL.SITE = bits v 0 9 ∧ t.get FLT_INJ_STATUS.REMAIN = max 1 (bits v 16 8)) ∧
    (s.dev.mode ≠ .makerService → s.dev.get SYS_BUS_ERR_INFO.VALID = 0 → Completes (.faultInject who v) s fun t =>
      t.get FLT_INJ_STATUS.ACTIVE = s.dev.get FLT_INJ_STATUS.ACTIVE ∧ t.get SYS_BUS_ERR_INFO.CAUSE = 5))

/-- R551 to R554, R556 to R559, R577: records and their SEQ, dropped records and their announcement, the append's intents in both copies and
what the copies hold once their writes have ended,
the erase, each initiator's cursor and window, firmware's records, and the clearing of counters. -/
def Obligations.AlmanacAndCounters : Prop :=
  let accepts := fun (d : Dev) (n : Nat) => d.get ALM_CTRL.EN = 1 ∧ d.get ALM_STATUS.FULL = 0 ∧
    d.get ALM_STATUS.RESERVE_FULL = 0 ∧ d.alm.powerLoss = none ∧ n ≤ 4080 ∧ d.alm.used + 48 + (n + 15) / 16 * 16 ≤ 0x80000
  let entry := fun (d : Dev) (type : Nat) (p : List Byte) => (⟨d.alm.next, type, d.almTime.1, d.almTime.2, p⟩ : AlmRecord)
  (∀ s (r : AlmRec), s.dev.clocked 7 = true →
    (accepts s.dev r.payload.length → s.dev.alm.drops = 0 → Completes (.almanacRecord r) s fun t =>
      t.alm.staging = s.dev.alm.staging ++ [entry s.dev r.type r.payload] ∧ t.alm.next = s.dev.alm.next + 1 ∧
      t.get ALM_SEQ_LAST.SEQ = s.dev.alm.next % 2 ^ 32) ∧
    (accepts s.dev r.payload.length → 0 < s.dev.alm.drops → Completes (.almanacRecord r) s fun t =>
      t.alm.staging = s.dev.alm.staging ++ [entry s.dev 1 s.dev.droppedPayload,
        { entry s.dev r.type r.payload with seq := s.dev.alm.next + 1 }] ∧ t.alm.drops = 0 ∧ t.get ALM_DROPPED.COUNT = 0) ∧
    (s.dev.get ALM_CTRL.EN = 0 ∨ 0x80000 < s.dev.alm.used + 16 + (min 4080 r.payload.length + 15) / 16 * 16 →
      Completes (.almanacRecord r) s fun t => t.alm.staging = s.dev.alm.staging ∧ t.alm.next = s.dev.alm.next ∧
        t.alm.drops = s.dev.alm.drops + 1 ∧ t.get ALM_INT_STATUS.DROPPED = 1)) ∧
  (∀ s, s.dev.clocked 7 = true → s.dev.alm.staging ≠ [] → s.dev.appendDue = true → s.dev.mode = .active → s.dev.get ALM_STATUS.COPY_A_OK = 1 →
    s.dev.get ALM_STATUS.COPY_B_OK = 1 → s.dev.get ALM_STATUS.FULL = 0 → s.dev.alm.toA = none → s.dev.alm.toB = none →
    almBytes s.dev.alm.image + almBytes s.dev.alm.staging ≤ almSpace - almReserve → Completes .almanacAppend s fun t =>
      let copy : AlmCopy := ⟨(s.dev.alm.staging.getLast?.map AlmRecord.seq).getD 0, s.dev.alm.next + 65536, false,
        s.dev.alm.image ++ s.dev.alm.staging⟩
      t.alm.staging = [] ∧ t.alm.image = s.dev.alm.image ++ s.dev.alm.staging ∧ t.alm.next = s.dev.alm.next ∧
      t.alm.toA = some copy ∧ t.alm.toB = some copy ∧ t.alm.copyA = s.dev.alm.copyA ∧ t.alm.copyB = s.dev.alm.copyB ∧
      t.get ALM_STATUS.STAGED = 0 ∧
      ∀ b g e base, s.dev.almArea b = some (g, e, base) → ∃ i ∈ t.band.intents, i.grp = g ∧
        i.first = e.startWelt + base / max 1 e.data ∧ i.count = 1) ∧
  (∀ (d : Dev) (g : Grp), (∀ i ∈ d.band.intents, i.grp ≠ g) → (∀ b, (d.almArea b).map (fun x => x.1) = some g) →
    (d.almWritten g).alm.copyA = d.alm.toA.getD d.alm.copyA ∧ (d.almWritten g).alm.copyB = d.alm.toB.getD d.alm.copyB ∧
    (d.almWritten g).alm.toA = none ∧ (d.almWritten g).alm.toB = none) ∧
  (∀ s who v, s.dev.takes who ALM_CTRL.at = true → who ≠ .bar2 →
    (s.dev.mode = .makerService → s.dev.makerOpen = true → s.dev.get ALM_CTRL.EN = 1 → v.getLsbD 0 = true →
      s.dev.alm.powerLoss = none → Completes (.almErase who v) s fun t =>
        t.alm.staging = [entry s.dev 3 (fields32 [3])] ∧ t.alm.image = [] ∧ t.alm.copyA.recs = [] ∧
        t.alm.copyB.recs = [] ∧ t.alm.next = s.dev.alm.next + 1) ∧
    ((s.dev.mode ≠ .makerService ∨ s.dev.makerOpen = false) → s.dev.get SYS_BUS_ERR_INFO.VALID = 0 →
      Completes (.almErase who v) s fun t => t.alm = s.dev.alm ∧ t.get SYS_BUS_ERR_INFO.CAUSE = 5)) ∧
  (∀ s who v, s.dev.takes who ALM_CURSOR.at = true → Completes (.almanacCursor who v) s fun t =>
    t.get ALM_CURSOR.SEQ 0 (whoIx who) = v.toNat ∧ t.alm.views[whoIx who].loading = some v.toNat ∧
    t.alm.views[whoIx who].shown = s.dev.alm.views[whoIx who].shown ∧ t.get ALM_CUR_INFO.VALID 0 (whoIx who) = 0 ∧
    ∀ o, whoIx o ≠ whoIx who → t.alm.views[whoIx o] = s.dev.alm.views[whoIx o] ∧
      t.get ALM_CURSOR.SEQ 0 (whoIx o) = s.dev.get ALM_CURSOR.SEQ 0 (whoIx o)) ∧
  (∀ s who v, s.dev.takes who ALM_CUR_OFS.at = true → Completes (.almanacNext who v) s fun t =>
    let seq := (s.dev.get ALM_CURSOR.SEQ 0 (whoIx who) + 1) % 2 ^ 32
    t.get ALM_CURSOR.SEQ 0 (whoIx who) = seq ∧ t.alm.views[whoIx who].loading = some seq ∧
    t.get ALM_CUR_OFS.PAGE 0 (whoIx who) = bits v 0 4 ∧ t.get ALM_CUR_INFO.VALID 0 (whoIx who) = 0) ∧
  (∀ s who seq, s.dev.clocked 7 = true → s.dev.alm.views[whoIx who].loading = some seq →
    (∀ r, (s.dev.alm.image ++ s.dev.alm.staging).find? (fun r => r.seq % 2 ^ 32 == seq) = some r →
      r.payload.length ≤ 4080 → Completes (.almanacLoadDone who) s fun t =>
        t.alm.views[whoIx who] = ⟨none, some r⟩ ∧ t.get ALM_CUR_INFO.VALID 0 (whoIx who) = 1 ∧
        t.get ALM_CUR_INFO.FOUND 0 (whoIx who) = 1 ∧ t.get ALM_CUR_INFO.PLEN 0 (whoIx who) = r.payload.length) ∧
    ((∀ r ∈ s.dev.alm.image ++ s.dev.alm.staging, r.seq % 2 ^ 32 ≠ seq) → Completes (.almanacLoadDone who) s fun t =>
      t.alm.views[whoIx who] = ⟨none, s.dev.alm.views[whoIx who].shown⟩ ∧ t.get ALM_CUR_INFO.VALID 0 (whoIx who) = 1 ∧
      t.get ALM_CUR_INFO.FOUND 0 (whoIx who) = 0)) ∧
  (∀ s who v, s.dev.takes who ALM_POST_CTRL.at = true → s.dev.get ALM_POST_CTRL.GO = 0 → who ≠ .bar2 →
    let a := s.dev.get ALM_POST_ADDR_LO.ADDR + 2 ^ 32 * s.dev.get ALM_POST_ADDR_HI.ADDR
    (bits v 0 16 / 256 = 9 → a % 16 = 0 → accepts s.dev (bits v 16 12) → s.dev.alm.drops = 0 →
      Completes (.almanacPost who v) s fun t => t.get ALM_POST_CTRL.ERR = 0 ∧ t.get ALM_INT_STATUS.POSTED = 1 ∧
        t.alm.staging = s.dev.alm.staging ++ [entry s.dev (bits v 0 16) (s.dev.memBytes a (bits v 16 12))]) ∧
    (bits v 0 16 / 256 ≠ 9 ∨ 4080 < bits v 16 12 ∨ a % 16 ≠ 0 → Completes (.almanacPost who v) s fun t =>
      t.get ALM_POST_CTRL.ERR = 1 ∧ t.alm = s.dev.alm)) ∧
  (∀ s who (w : Fin 8) v i, s.dev.takes who (TRC_CLEAR.at 0 w) = true → i < 256 → Completes (.trcClear who w v) s fun t =>
    let counter := fun (d : Dev) => d.get TRC_CNT_LO.CNT 0 i + 2 ^ 32 * d.get TRC_CNT_HI.CNT 0 i
    counter t = if i / 32 = w.val ∧ v.getLsbD (i % 32) = true then 0 else counter s.dev)

/-! ### Sessions and roles (chapters 12 and 19) -/

/-- R359, R388, R415, R416, R557, R562 to R568, R572, R578, R600: sessions are opened by the checks of R563 and ended; what each
role's operations do, and that a role of too low a rank is denied. -/
def Obligations.SessionsAndRoles : Prop :=
  (∀ (d : Dev) (fn : Fn) p, let role := (p.getD 16 0).toNat
    (d.hst.fns[fn].nonce = none → d.openCheck fn p = some .sequenceError) ∧
    ∀ nonce at_, d.hst.fns[fn].nonce = some (nonce, at_) →
      (at_ + 60000000 < d.now → d.openCheck fn p = some .sequenceError) ∧
      (d.now ≤ at_ + 60000000 → role = 0 ∨ 3 < role → d.openCheck fn p = some .invalidField) ∧
      (d.now ≤ at_ + 60000000 → 1 ≤ role → role ≤ 3 →
        let good := (∃ w ∈ d.roleHash role, w ≠ 0) ∧ hashWords (Config.sha384 (cut p 20 97)) = d.roleHash role ∧
          Config.ecdsa (cut p 20 97) (cut p 120 96) (nonce ++ leBytes 1 role ++ beBytes 2 fn.val) = true
        (good → d.openCheck fn p = none) ∧ (¬ good → d.openCheck fn p = some .accessDenied))) ∧
  (∀ s (q : QRef) cid, s.dev.fetching q.fn = true → q.sqid = 0 → s.dev.mode ≠ .lightIdle → s.dev.mode ≠ .deepIdle →
    let fn := s.dev.hst.fns[q.fn]
    let number := (fn.session.map Session.number).getD 0
    let posted := fun (st : Status) (t : Dev) => t.hst.cqes = s.dev.hst.cqes ++ [⟨q.fn, 0, cid, st, 0, 0⟩]
    let sent := fun (bs : List Byte) (t : Dev) => t.hst.data = s.dev.hst.data ++ [(q.fn, 0, cid, bs)]
    (s.dev.get SEC_STATUS.ENTROPY_OK = 1 → Completes (.challenge q cid) s fun t => posted .success t ∧ ∃ i,
      t.hst.fns[q.fn].nonce = some (Config.drbg i, s.dev.now) ∧ sent (roleHeader 32 number ++ Config.drbg i) t) ∧
    (s.dev.get SEC_STATUS.ENTROPY_OK = 0 → Completes (.challenge q cid) s fun t => posted .internalError t ∧
      t.hst.fns[q.fn].nonce = fn.nonce) ∧
    (∀ p, s.dev.get SEC_STATUS.LOCKOUT = 0 → fn.session = none → Completes (.open q cid p) s fun t =>
      t.hst.fns[q.fn].nonce = none ∧
      match s.dev.openCheck q.fn p with
      | none => posted .success t ∧ t.sec.number = (s.dev.sec.number + 1) % 2 ^ 32 ∧
          t.hst.fns[q.fn].session = some ⟨(p.getD 16 0).toNat, (s.dev.sec.number + 1) % 2 ^ 32, s.dev.now⟩ ∧
          t.get SEC_SESSION.OPEN 0 q.fn = 1 ∧ t.get SEC_SESSION.LIFE 0 q.fn = 900 ∧
          t.get SEC_STATUS.FAIL_COUNT = 0 ∧ t.get SEC_INT_STATUS.SESSION = 1
      | some st => posted st t ∧ t.hst.fns[q.fn].session = none ∧
          t.get SEC_STATUS.FAIL_COUNT = min 8 (s.dev.get SEC_STATUS.FAIL_COUNT + 1) ∧
          t.get SEC_INT_STATUS.OPEN_FAIL = 1 ∧ (7 ≤ s.dev.get SEC_STATUS.FAIL_COUNT → t.get SEC_STATUS.LOCKOUT = 1)) ∧
    (∀ p, s.dev.get SEC_STATUS.LOCKOUT = 1 → Completes (.open q cid p) s fun t => posted .accessDenied t ∧
      t.hst.fns[q.fn].nonce = none ∧ t.hst.fns[q.fn].session = fn.session) ∧
    (fn.session = none → Completes (.close q cid) s (posted .sequenceError)) ∧
    Completes (.sessionStatus q cid) s (fun t => posted .success t ∧ ∃ p, sent (roleHeader p.length number ++ p) t) ∧
    Completes (.securityProtocolList q cid) s (fun t => posted .success t ∧ sent [0, 0, 0, 0, 0, 0, 0, 2, 0x00, 0xF1] t) ∧
    ∀ ss, fn.session = some ss →
      Completes (.close q cid) s (fun t => posted .success t ∧ t.hst.fns[q.fn].session = none ∧
        t.hst.fns[q.fn].salvage = none ∧ t.get SEC_SESSION.OPEN 0 q.fn = 0) ∧
      (ss.role = 2 →
        (∀ b e first count, fn.salvaging = none → s.dev.bandAt b = some e → 1 ≤ count → count ≤ 512 → e.data ≠ 0 →
          first + count ≤ weltCount e.data * e.data → Completes (.salvage q cid b first count) s fun t =>
            t.hst.cqes = s.dev.hst.cqes ∧ t.hst.fns[q.fn].salvage = none ∧
            (t.hst.fns[q.fn].salvaging.map fun r => (r.cid, r.band, r.first, r.count)) = some (cid, b, first, count)) ∧
        (∀ r, fn.salvage = some r →
          Completes (.salvageStatus q cid) s (fun t => posted .success t ∧
            sent (roleHeader r.status.length ss.number ++ r.status.flatMap (leBytes 1)) t) ∧
          Completes (.salvageData q cid) s (fun t => posted .success t ∧
            sent (roleHeader (4096 * r.data.length) ss.number ++ r.data.flatten) t)) ∧
        (fn.salvage = none → Completes (.salvageStatus q cid) s (posted .sequenceError) ∧
          Completes (.salvageData q cid) s (posted .sequenceError))) ∧
      (ss.role ≠ 2 → ∀ b first count, Completes (.salvage q cid b first count) s (posted .accessDenied)) ∧
      (1 ≤ ss.role →
        (∀ r key, 1 ≤ r → r ≤ 3 → r ≤ ss.role → key.length = 97 → (∀ k : Fin 64, s.dev.ksFenced k = false) →
          Completes (.setKey q cid r key) s fun t => posted .success t ∧
            t.roleHash r = hashWords (Config.sha384 key) ∧ t.get SEC_INT_STATUS.KEYSTORE = 1 ∧
            (r, hashWords (Config.sha384 key)) ∈ t.sec.store.hashes ∧ t.hst.fns[q.fn].session = some ss) ∧
        Completes (.keyStatus q cid) s (fun t => posted .success t ∧ ∃ p, p.length = 32760 ∧
          sent (roleHeader 32760 ss.number ++ p) t ∧ ∀ n, 1 ≤ n → n ≤ 4095 →
            ((p.drop (8 * (n - 1))).take 8 = match s.dev.sec.keys.find? fun x => x.1 == n with
              | some x => leBytes 4 x.2.1 ++ [1, 0, 0, 0]
              | none => List.replicate 8 0))) ∧
      (∀ r key, ss.role < r → r ≤ 3 → key.length = 97 → Completes (.setKey q cid r key) s fun t =>
        posted .accessDenied t ∧ t.mem.ks = s.dev.mem.ks) ∧
      (2 ≤ ss.role →
        (∀ (g : Grp) (i : HeadIx), s.dev.grpState g = gsOnline → bit (s.dev.failedMask g) i = false → s.dev.bandsOf g ≠ [] →
          (∀ p ∈ s.dev.bandsOf g, p.2.state ≠ bsRetired ∧ bit p.2.members i = true) → (s.dev.reserveCheck g).1 = 0 →
          Completes (.roleRetireHead q cid g i) s fun t => posted .success t ∧ t.grpState g = gsReshaping) ∧
        (∀ mask : BitVec 256, Completes (.countersClear q cid mask) s fun t => posted .success t ∧
          ∀ i, i < 256 → s.dev.get TRC_CNT_SEL.CODE 0 i ≠ 0x408 →
            t.get TRC_CNT_LO.CNT 0 i = (if mask.getLsbD i then 0 else s.dev.get TRC_CNT_LO.CNT 0 i) ∧
            t.get TRC_CNT_HI.CNT 0 i = if mask.getLsbD i then 0 else s.dev.get TRC_CNT_HI.CNT 0 i)) ∧
      (ss.role < 2 → ∀ mask, Completes (.countersClear q cid mask) s (posted .accessDenied)) ∧
      (3 ≤ ss.role →
        (s.dev.mode = .active ∨ s.dev.mode = .standby ∨ s.dev.mode = .safe → Completes (.serviceEnter q cid) s fun t =>
          posted .success t ∧ t.mode = .makerService ∧ t.get SYS_INT_STATUS.MODE_CHANGE = 1) ∧
        (s.dev.mode = .glide → Completes (.serviceEnter q cid) s (posted .sequenceError)) ∧
        (s.dev.mode = .makerService → s.dev.que.held ≠ [] → s.dev.allParked = false → s.dev.seq.spinDown = 0 →
          Completes (.serviceLeave q cid) s fun t => posted .success t ∧ t.seq.prep = 1) ∧
        (s.dev.mode = .active → Completes (.serviceLeave q cid) s (posted .sequenceError)) ∧
        (s.dev.mode = .makerService → Completes (.roleAlmanacErase q cid) s fun t => posted .success t ∧
          t.alm.image = [] ∧ t.alm.copyA.recs = [] ∧ t.alm.copyB.recs = []) ∧
        (s.dev.mode = .active → Completes (.roleAlmanacErase q cid) s (posted .sequenceError))) ∧
      (ss.role < 3 → Completes (.serviceEnter q cid) s fun t => posted .accessDenied t ∧ t.mode = s.dev.mode)) ∧
  (∀ s (f : Fn) ss, s.dev.clocked 18 = true → s.dev.hst.fns[f].session = some ss → Completes (.sessionExpiry f) s fun t =>
    t.hst.fns[f].session = none ∧ t.get SEC_SESSION.OPEN 0 f = 0 ∧ t.get HST_FN_STATUS.SESSION 0 f = 0 ∧
    ∀ o : Fn, o ≠ f → t.hst.fns[o] = s.dev.hst.fns[o]) ∧
  (∀ s (f : Fn), s.dev.clocked 18 = true → Completes (.nonceExpiry f) s fun t => t.hst.fns[f].nonce = none ∧
    t.hst.fns[f].session = s.dev.hst.fns[f].session) ∧
  (∀ s, s.dev.clocked 18 = true → Completes .lockoutEnd s (fun t => t.get SEC_STATUS.LOCKOUT = 0 ∧ t.get SEC_STATUS.LOCK_REMAIN = 0) ∧
    Completes .entropyFail s (fun t => t.get SEC_STATUS.ENTROPY_OK = 0 ∧ t.get SEC_INT_STATUS.ENTROPY_FAIL = 1) ∧
    Completes .entropyRecovered s fun t => t.get SEC_STATUS.ENTROPY_OK = 1 ∧ t.sec = s.dev.sec)

/-! ### Resets, the last image, starts and modes (chapters 20 and 21) -/

/-- R31, R466, R478, R547, R579 to R581, R585, R589, R590, R594 to R596, R598, R605, R612: what a cold and a warm reset leave, how
ROM_BOOT and LAST_LOAD go on, and that LAST_LOAD ends in SAFE with cause IMAGE exactly where no slot of a large enough flash
passes. -/
def Obligations.ResetsAndLastLoad : Prop :=
  (State.reset.pending = [] ∧ State.reset.dev.mode = .romBoot ∧ ∀ r i j, State.reset.dev.word r i j = r.reset j) ∧
  (∀ s, let fresh_ := fun (t : Dev) => t.mode = .off ∧ (∀ r i j, r.key ≠ SYS_MODE.key → t.word r i j = r.reset j) ∧
      t.flt = {} ∧ t.mem = {} ∧ t.bpm = {} ∧ t.que = {} ∧ t.band = {} ∧ t.media = s.dev.media ∧
      t.alm.copyA = s.dev.alm.copyA ∧ t.alm.copyB = s.dev.alm.copyB
    (∀ p, Completes (.coldReset (some p)) s fun t => fresh_ t ∧ t.flash = p.2) ∧
    Completes (.coldReset none) s (fun t => fresh_ t ∧ t.flash = s.dev.flash) ∧
    Completes .supplyUndervoltage s (fun t => fresh_ t ∧ t.flash = s.dev.flash)) ∧
  (∀ s pcOk, s.dev.mode = .off ∨ s.dev.mode = .romBoot → Completes (.coldResetRelease pcOk) s fun t =>
    t.mode = .lastLoad ∧ t.get SYS_MODE.PREV = 2 ∧ t.get SYS_INT_STATUS.MODE_CHANGE = 1 ∧
    t.get SEC_STATUS.ENTROPY_OK = 1 ∧ t.cs.loaded = true ∧ (∀ i ∈ [1, 3, 4, 6], t.islandUp i = true) ∧
    ∀ q, q < 64 → t.pcFenced q = (s.dev.pcFenced q || !pcOk.getLsbD q)) ∧
  (∀ s pcOk, s.dev.mode = .active → Completes (.coldResetRelease pcOk) s fun t => t = s.dev) ∧
  (∀ s who v, s.dev.takes who SYS_RESET_CMD.at = true → s.dev.seq.prep = 0 → s.dev.seq.spinDown = 0 → s.dev.mode = .active →
    s.dev.que.held ≠ [] → s.dev.allParked = false → Completes (.warmResetRequest who v) s fun t =>
      t.seq.prep = 1 ∧ t.mode = .active ∧ t.que = s.dev.que) ∧
  (∀ s, s.dev.seq.prep = 5 → s.dev.regs.rising = true → Completes .warmReset s fun t =>
    t.mode = .lastLoad ∧ t.get SYS_MODE.PREV = 2 ∧ t.que = {} ∧ t.mem.hbm = [] ∧ t.seq.prep = 0 ∧
    t.seq.turning = decide (s.dev.get SPN_SPEED.SPEED ≠ 0) ∧ t.media = s.dev.media ∧ t.flash = s.dev.flash ∧
    t.hst.cqes = s.dev.hst.cqes ∧ (∀ q, q < 64 → t.pcFenced q = s.dev.pcFenced q) ∧
    (∀ k, t.ksFenced k = s.dev.ksFenced k ∧ (s.dev.ksFenced k = true → t.mem.ks[k] = s.dev.mem.ks[k])) ∧
    (∀ r ∈ [FLT_FENCED_LANE, FLT_FENCED_MISC, FLT_FENCED_SHU_LO, FLT_FENCED_SHU_HI, FLT_FENCED_FN_LO, FLT_FENCED_FN_HI,
      HST_LINK], t.word r = s.dev.word r) ∧ t.flt.requesters = s.dev.flt.requesters ∧
    (∀ x, x < 512 → t.get FLT_SITE_CFG.FA_CNT 0 x = s.dev.get FLT_SITE_CFG.FA_CNT 0 x ∧
      t.get FLT_SITE_CFG.UC_CNT 0 x = 0) ∧ t.get FLT_FA0.VALID = s.dev.get FLT_FA0.VALID ∧ t.get LST_LOCK.LOCK = 0 ∧
    ∀ f : Fn, t.get HST_FN_STATUS.CC_EN 0 f = 0 ∧ t.get HST_FN_STATUS.FENCED 0 f = s.dev.get HST_FN_STATUS.FENCED 0 f ∧
      t.hst.fns[f].session = none) ∧
  (∀ s, s.dev.mode = .lastLoad →
    let d0 := s.dev.each [2, 5, 9, 10, 11, 12, 13, 14, 15, 16, 17, 19, 20] fun i d => d.startIsland i
    Completes .lastLoad s fun t => t.get LST_LOCK.LOCK = 1 ∧ t.get SYS_INT_STATUS.READY = 1 ∧ t.get HST_CTRL.EN = 1 ∧
      t.get QUE_CTRL.EN = 1 ∧ t.get HST_FN_STATUS.PRESENT = 1 ∧ t.seq.loaded = true ∧
      (t.mode = .safe ∨ t.mode = .standby ∨ t.mode = .spinUp) ∧
      ((t.mode = .safe ∧ t.get SYS_MODE.SAFE_CAUSE = 5) ↔
        (s.slots.size < 2 ^ 26 ∨ (d0.trySlots (Slots.order s.slots)).2 = none))) ∧
  (∀ (d : Dev) k x rest, k < 2 → match d.imageFails x with
    | none => x.regs = [] → (d.trySlots ((k, x) :: rest)).2 = some x ∧
        ((d.trySlots ((k, x) :: rest)).1).get LST_STATUS.LOADED = 1 ∧
        ((d.trySlots ((k, x) :: rest)).1).get LST_STATUS.SLOT = k ∧
        ((d.trySlots ((k, x) :: rest)).1).get LST_IMG_SEQ.SEQ = x.seq % 2 ^ 32
    | some (c, section_) => d.trySlots ((k, x) :: rest) = (d.rejectImage k c section_ 0).trySlots rest ∧
        (d.rejectImage k c section_ 0).get LST_REJ_INFO.SLOT = k ∧
        (d.rejectImage k c section_ 0).get SYS_INT_STATUS.IMG_REJECT = 1)

/-- R48, R50, R51, R310, R311, R320, R324, R325, R328, R329, R596, R597, R600, R605, R608 to R610, R625: calibration excludes the heads of R48 and R50, a start goes on
or ends in SAFE, the idle modes begin and end, the junction's throttling, and the ends of a stop, of a power loss and of a flush. -/
def Obligations.StartsAndModes : Prop :=
  (∀ s radial angular, s.dev.clocked 7 = true → s.dev.headLoads = true → s.dev.loading = false → s.dev.seq.cal = false →
    Completes (.headLoadCalibration radial angular) s fun t => t.seq.cal = true ∧ t.mode = s.dev.mode ∧
      ∀ (g : Grp) (i : HeadIx), s.dev.hasHeads g = true → s.dev.loaded g = true → s.dev.hasHead (laneOf g i) = true →
        bit (s.dev.knownFailed g) i = false →
        ((∃ p ∈ radial, p.1 = laneOf g i ∧ 3500 < p.2.natAbs) → bit t.seq.excluded (laneOf g i) = true) ∧
        ((∀ e ∈ angular, e.1 = laneOf g i → e.2.2 = none) → bit t.seq.excluded (laneOf g i) = true)) ∧
  (∀ s, s.dev.clocked 7 = true → s.dev.mode = .headLoad → s.dev.loading = false → s.dev.seq.cal = true → s.dev.seq.step11 = true →
    s.dev.seq.excluded = 0 → s.dev.seq.spinHeld = none → s.dev.get SPN_STATUS.GLIDING = 0 → Completes .headLoadEnd s fun t =>
      t.mode = .active ∧ t.get SYS_MODE.PREV = 5 ∧ t.get RMT_CTRL.EN = 1 ∧ t.get CBL_CTRL.EN = 1 ∧
      t.seq.loads = false ∧ t.band = s.dev.band) ∧
  (∀ s, s.dev.clocked 7 = true → s.dev.startRuns = true →
    (s.dev.spnState = spFault → s.dev.spn.pf = false → Completes .startRetry s fun t => t.get SPN_CMD.GO = 1 ∧
      t.get SPN_CMD.OP = 0 ∧ t.get SPN_TARGET.TARGET = s.dev.startTarget % 2 ^ 18 ∧ t.mode = s.dev.mode) ∧
    (s.dev.get SPN_STATUS.REGULATED = 0 → Completes .spinUpTimeout s fun t =>
      t.mode = .safe ∧ t.get SYS_MODE.SAFE_CAUSE = 6 ∧ t.seq.safeStart = 0) ∧
    (s.dev.get SPN_STATUS.REGULATED = 1 → Completes .spinUpTimeout s fun t => t = s.dev)) ∧
  (∀ s ms, s.dev.clocked 7 = true → s.dev.idleCounts = true → featAt s.dev.hst.feats 0x0C 1 = 1 → ms ≠ 0 →
    (s.dev.hst.apst[s.dev.get SYS_MODE.PS]? = some (3, ms) → s.dev.mode = .active → Completes .idleTimer s fun t =>
      t.mode = .lightIdle ∧ t.get SYS_MODE.PS = 3 ∧ t.islandUp 19 = false) ∧
    (s.dev.hst.apst[s.dev.get SYS_MODE.PS]? = some (4, ms) → Completes .idleTimer s fun t =>
      t.mode = .deepIdle ∧ t.get SYS_MODE.PS = 4 ∧ t.seq.deepAt = s.dev.now ∧
      ∀ i ∈ [5, 6, 18, 19, 20], t.islandUp i = false)) ∧
  (∀ s, s.dev.clocked 7 = true → s.dev.get CBL_CTRL.PATROL_EN = 1 →
    (s.dev.mode = .active → Completes .patrolDue s fun t => t.seq.patrolDue = true ∧ t.mode = .active) ∧
    (s.dev.mode = .lightIdle ∨ s.dev.mode = .deepIdle → s.dev.seq.spinHeld = none → s.dev.get SPN_STATUS.GLIDING = 0 →
      s.dev.seq.opPs ≤ 2 → Completes .patrolDue s fun t => t.seq.patrolDue = true ∧ t.mode = .active ∧
        t.get SYS_MODE.PS = s.dev.seq.opPs ∧ t.get SYS_INT_STATUS.IDLE_EXIT = 1)) ∧
  (∀ s (quarters : Int) (sensor : Fin 16), -2048 ≤ quarters → quarters < 2048 → let hot : Int := Config.tjMax
    (4 * (hot - 3) ≤ quarters → quarters < 4 * (hot + 10) → Completes (.thermalThrottle quarters sensor) s fun t =>
      t.get SYS_TEMP.THROTTLE = 1 ∧ sext 12 (t.get SYS_TEMP.TJ) = quarters ∧ t.get SYS_TEMP.SENSOR = sensor) ∧
    (quarters < 4 * (hot - 3) → Completes (.thermalThrottle quarters sensor) s fun t =>
      t.get SYS_TEMP.THROTTLE = s.dev.get SYS_TEMP.THROTTLE ∧ sext 12 (t.get SYS_TEMP.TJ) = quarters) ∧
    (quarters < 4 * (hot - 6) → Completes (.throttleRelease quarters sensor) s fun t =>
      t.get SYS_TEMP.THROTTLE = 0 ∧ sext 12 (t.get SYS_TEMP.TJ) = quarters) ∧
    (4 * (hot - 6) ≤ quarters → Completes (.throttleRelease quarters sensor) s fun t =>
      t.get SYS_TEMP.THROTTLE = s.dev.get SYS_TEMP.THROTTLE)) ∧
  -- the ends of a stop, of a power loss and of a flush, each as a completion of its own
  (∀ s, s.dev.clocked 13 = true → s.dev.get SPN_STATUS.STATE = 11 → s.dev.get SPN_STOP_STATUS.PHASE = 3 →
    s.dev.spn.ovStage = 0 → Completes .stopDone s fun t => t.get SPN_STATUS.STATE = 9 ∧ t.get SPN_STOP_STATUS.PHASE = 0) ∧
  (∀ s, s.dev.seq.spinDown = 2 → s.dev.seq.prep = 0 → s.dev.drained = true → Completes .spinDownDestaged s fun t =>
    t.seq.spinDown = 3 ∨ t.seq.spinDown = 4) ∧
  (∀ s l, s.dev.spn.pf = false → Completes (.powerLoss l) s fun t => t.get SPN_PF_INFO.VALID = 1 ∧
    (l = false → t.spn.pf = true)) ∧
  (∀ s, s.dev.spn.pf = true → s.dev.mode = .spinUp → Completes .pfRelease s fun t => t.spn.pf = false ∧
    ((s.dev.spn.restart = true ∨ s.dev.get SPN_PF_INFO.REGEN = 1) → s.dev.spnState ≠ spStop →
      t.get SPN_CMD.GO = 1 ∧ t.get SPN_CMD.OP = 0)) ∧
  (∀ s, s.dev.mode = .coastFlush → s.dev.que.flush.isSome = true → s.dev.pwrfail = true → Completes .flushTimeLimit s fun t =>
    t.que.flush = none ∧ t.mode = .coastFlush)
end

