-- ==== Sys2Proof/Laws/Registers.lean ====
section
/-! SUPPORT. Laws of the register file: a read after a write gives the value written, a write leaves every other element
alone, and the file's order and canonical form are kept. -/

namespace Sys2Proof.Machine

/-! ### The file -/

theorem RegFile.find_put_self (l : RegFile) (k : RKey) (w : Word) : (RegFile.put l k w).find k = some w := by
  induction l with
  | nil => simp [RegFile.put, RegFile.find]
  | cons p t ih =>
    obtain ⟨k', w'⟩ := p
    simp only [RegFile.put]
    split
    · simp [RegFile.find]
    · split
      · simp [RegFile.find]
      · rename_i h _; simp [RegFile.find, h, ih]

theorem RegFile.find_put_ne (l : RegFile) {k k' : RKey} (w : Word) (h : k ≠ k') :
    (RegFile.put l k w).find k' = RegFile.find l k' := by
  induction l with
  | nil => simp [RegFile.put, RegFile.find, h]
  | cons p t ih =>
    obtain ⟨a, b⟩ := p
    simp only [RegFile.put]
    split
    · rename_i e; subst e; simp [RegFile.find, h]
    · split
      · simp [RegFile.find, h]
      · simp only [RegFile.find, ih]

theorem RegFile.find_del_self (l : RegFile) (k : RKey) : (RegFile.del l k).find k = none := by
  induction l with
  | nil => rfl
  | cons p t ih =>
    obtain ⟨k', w'⟩ := p
    simp only [RegFile.del]
    split
    · exact ih
    · rename_i h; simp [RegFile.find, h, ih]

theorem RegFile.find_del_ne (l : RegFile) {k k' : RKey} (h : k ≠ k') : (RegFile.del l k).find k' = RegFile.find l k' := by
  induction l with
  | nil => rfl
  | cons p t ih =>
    obtain ⟨a, b⟩ := p
    simp only [RegFile.del]
    split
    · rename_i e; subst e; simp [RegFile.find, h, ih]
    · simp only [RegFile.find, ih]

/-! ### Words -/

@[simp] theorem Dev.word_setWord (d : Dev) (r : Reg) (w : Word) (i j : Nat) : (d.setWord r w i j).word r i j = w := by
  unfold Dev.setWord Dev.word
  dsimp only
  split
  · rename_i h; simp [RegFile.find_del_self, h]
  · simp [RegFile.find_put_self]

theorem Dev.word_setWord_of_ne (d : Dev) {r r' : Reg} (w : Word) {i j i' j' : Nat}
    (h : (⟨r.key, i, j⟩ : RKey) ≠ ⟨r'.key, i', j'⟩) : (d.setWord r w i j).word r' i' j' = d.word r' i' j' := by
  unfold Dev.setWord Dev.word
  dsimp only
  split
  · simp [RegFile.find_del_ne _ h]
  · simp [RegFile.find_put_ne _ _ h]

theorem RKey.ne_of_key {k k' i j i' j' : Nat} (h : k ≠ k') : (⟨k, i, j⟩ : RKey) ≠ ⟨k', i', j'⟩ := by
  intro e; injection e; contradiction

theorem RKey.ne_of_i {k i j i' j' : Nat} (h : i ≠ i') : (⟨k, i, j⟩ : RKey) ≠ ⟨k, i', j'⟩ := by
  intro e; injection e; contradiction

theorem RKey.ne_of_j {k i j j' : Nat} (h : j ≠ j') : (⟨k, i, j⟩ : RKey) ≠ ⟨k, i, j'⟩ := by
  intro e; injection e; contradiction

/-- A write of a register of another address leaves a word alone. -/
theorem Dev.word_setWord_of_key (d : Dev) {r r' : Reg} (w : Word) (i j i' j' : Nat) (h : r.key ≠ r'.key) :
    (d.setWord r w i j).word r' i' j' = d.word r' i' j' := d.word_setWord_of_ne w (RKey.ne_of_key h)

/-! ### Fields -/

/-- Bit k of a word whose field was replaced. -/
theorem Fld.getLsbD_put (f : Fld) (w : Word) (v k : Nat) (hw : f.lo + f.width ≤ 32) (hk : k < 32) :
    (f.put w v).getLsbD k =
      if f.lo ≤ k ∧ k < f.lo + f.width then v.testBit (k - f.lo) else w.getLsbD k := by
  unfold Fld.put
  simp only [BitVec.getLsbD_or, BitVec.getLsbD_and, BitVec.getLsbD_not, BitVec.getLsbD_shiftLeft,
    BitVec.getLsbD_setWidth, BitVec.getLsbD_allOnes, BitVec.getLsbD_ofNat]
  by_cases h : f.lo ≤ k ∧ k < f.lo + f.width
  · obtain ⟨h1, h2⟩ := h
    have h3 : k - f.lo < f.width := by omega
    have h4 : ¬ k < f.lo := by omega
    have h5 : k - f.lo < 32 := by omega
    simp [h1, h2, h3, h4, h5, hk]
  · rw [if_neg h]
    by_cases h1 : k < f.lo
    · simp [h1, hk]
    · have h3 : ¬ k - f.lo < f.width := by omega
      simp [h1, h3, hk]

/-- A field read after it was replaced. -/
theorem Fld.of_put (f : Fld) (w : Word) (v : Nat) (hw : f.lo + f.width ≤ 32) : f.of (f.put w v) = v % 2 ^ f.width := by
  unfold Fld.of
  apply Nat.eq_of_testBit_eq
  intro k
  rw [Nat.testBit_mod_two_pow, BitVec.testBit_toNat, BitVec.getLsbD_extractLsb']
  by_cases h : k < f.width
  · rw [Fld.getLsbD_put f w v (f.lo + k) hw (by omega)]
    have : f.lo ≤ f.lo + k ∧ f.lo + k < f.lo + f.width := by omega
    simp [h]
  · simp [h]

/-- A field read after another field of its register was replaced. -/
theorem Fld.of_put_disjoint (f f' : Fld) (w : Word) (v : Nat) (hw : f.lo + f.width ≤ 32) (hw' : f'.lo + f'.width ≤ 32)
    (h : f'.lo + f'.width ≤ f.lo ∨ f.lo + f.width ≤ f'.lo) : f'.of (f.put w v) = f'.of w := by
  unfold Fld.of
  congr 1
  apply BitVec.eq_of_getLsbD_eq
  intro k hk
  rw [BitVec.getLsbD_extractLsb', BitVec.getLsbD_extractLsb', Fld.getLsbD_put f w v (f'.lo + k) hw (by omega)]
  have : ¬ (f.lo ≤ f'.lo + k ∧ f'.lo + k < f.lo + f.width) := by omega
  rw [if_neg this]

/-- A field read after it was set. -/
theorem Dev.get_set (d : Dev) (f : Fld) (v i j : Nat) (hw : f.lo + f.width ≤ 32) :
    (d.set f v i j).get f i j = v % 2 ^ f.width := by
  unfold Dev.set Dev.get
  rw [Dev.word_setWord, Fld.of_put f _ v hw]

/-- A field read after a field of another element was set. -/
theorem Dev.get_set_of_ne (d : Dev) (f f' : Fld) (v i j i' j' : Nat)
    (h : (⟨f.reg.key, i, j⟩ : RKey) ≠ ⟨f'.reg.key, i', j'⟩) : (d.set f v i j).get f' i' j' = d.get f' i' j' := by
  unfold Dev.set Dev.get
  rw [Dev.word_setWord_of_ne d _ h]

/-- A field read after a field of another register was set. -/
theorem Dev.get_set_of_key (d : Dev) (f f' : Fld) (v i j i' j' : Nat) (h : f.reg.key ≠ f'.reg.key) :
    (d.set f v i j).get f' i' j' = d.get f' i' j' := d.get_set_of_ne f f' v i j i' j' (RKey.ne_of_key h)

/-- A field read after another field of its element was set. -/
theorem Dev.get_set_disjoint (d : Dev) (f f' : Fld) (v i j : Nat) (hr : f.reg = f'.reg) (hw : f.lo + f.width ≤ 32)
    (hw' : f'.lo + f'.width ≤ 32) (h : f'.lo + f'.width ≤ f.lo ∨ f.lo + f.width ≤ f'.lo) :
    (d.set f v i j).get f' i j = d.get f' i j := by
  obtain ⟨r, lo, w⟩ := f
  obtain ⟨r', lo', w'⟩ := f'
  cases hr
  unfold Dev.set Dev.get
  rw [Dev.word_setWord]
  exact Fld.of_put_disjoint ⟨r, lo, w⟩ ⟨r, lo', w'⟩ _ v hw hw' h

/-! ### What a register write leaves alone -/

@[simp] theorem Dev.setWord_regs_only (d : Dev) (r : Reg) (w : Word) (i j : Nat) :
    { d.setWord r w i j with regs := d.regs } = d := rfl

@[simp] theorem Dev.set_regs_only (d : Dev) (f : Fld) (v i j : Nat) : { d.set f v i j with regs := d.regs } = d := rfl

/-! ### Order -/

theorem RKey.lt_irrefl (a : RKey) : RKey.lt a a = false := by simp [RKey.lt]

theorem RKey.lt_trans {a b c : RKey} (h1 : RKey.lt a b = true) (h2 : RKey.lt b c = true) : RKey.lt a c = true := by
  simp only [RKey.lt, Bool.or_eq_true, Bool.and_eq_true, decide_eq_true_eq] at *
  omega

theorem RKey.lt_total {a b : RKey} (h : a ≠ b) (h' : ¬ RKey.lt b a = true) : RKey.lt a b = true := by
  have : ¬ (a.key = b.key ∧ a.i = b.i ∧ a.j = b.j) := by
    rintro ⟨h1, h2, h3⟩; cases a; cases b; simp_all
  simp only [RKey.lt, Bool.or_eq_true, Bool.and_eq_true, decide_eq_true_eq] at *
  omega

end Sys2Proof.Machine
end

