-- ==== Sys2Proof/Laws/Canonical.lean ====
section
/-! SUPPORT. The canonical forms of the register file and of HBM's cells are kept by every write, and a byte read after a
write is the byte written. -/

namespace Sys2Proof.Machine

/-! ### The register file -/

theorem RegFile.rising_cons (p q : RKey × Word) (t : RegFile) :
    RegFile.rising (p :: q :: t) = (RKey.lt p.1 q.1 && RegFile.rising (q :: t)) := rfl

theorem RegFile.rising_tail {p : RKey × Word} {t : RegFile} (h : RegFile.rising (p :: t) = true) :
    RegFile.rising t = true := by
  cases t with
  | nil => rfl
  | cons q t => rw [RegFile.rising_cons, Bool.and_eq_true] at h; exact h.2

/-- Every key after the first is greater. -/
theorem RegFile.lt_of_mem {p q : RKey × Word} {t : RegFile} (h : RegFile.rising (p :: t) = true) (hq : q ∈ t) :
    RKey.lt p.1 q.1 = true := by
  induction t generalizing p with
  | nil => cases hq
  | cons a t ih =>
    rw [RegFile.rising_cons, Bool.and_eq_true] at h
    cases hq with
    | head => exact h.1
    | tail _ hm => exact RKey.lt_trans h.1 (ih h.2 hm)

theorem RegFile.rising_cons_of {p : RKey × Word} {t : RegFile} (ht : RegFile.rising t = true)
    (h : ∀ q ∈ t, RKey.lt p.1 q.1 = true) : RegFile.rising (p :: t) = true := by
  cases t with
  | nil => rfl
  | cons q t => rw [RegFile.rising_cons, Bool.and_eq_true]; exact ⟨h q (List.mem_cons_self ..), ht⟩

theorem RegFile.mem_put {l : RegFile} {k : RKey} {w : Word} {q : RKey × Word} (h : q ∈ RegFile.put l k w) :
    q = (k, w) ∨ q ∈ l := by
  induction l with
  | nil => simpa [RegFile.put] using h
  | cons p t ih =>
    obtain ⟨k', w'⟩ := p
    simp only [RegFile.put] at h
    split at h
    · rcases List.mem_cons.mp h with h | h
      · exact .inl h
      · exact .inr (List.mem_cons_of_mem _ h)
    · split at h
      · rcases List.mem_cons.mp h with h | h
        · exact .inl h
        · exact .inr h
      · rcases List.mem_cons.mp h with h | h
        · exact .inr (h ▸ List.mem_cons_self ..)
        · rcases ih h with h | h
          · exact .inl h
          · exact .inr (List.mem_cons_of_mem _ h)

theorem RegFile.mem_del {l : RegFile} {k : RKey} {q : RKey × Word} (h : q ∈ RegFile.del l k) : q ∈ l := by
  induction l with
  | nil => exact h
  | cons p t ih =>
    obtain ⟨k', w'⟩ := p
    simp only [RegFile.del] at h
    split at h
    · exact List.mem_cons_of_mem _ (ih h)
    · rcases List.mem_cons.mp h with h | h
      · exact h ▸ List.mem_cons_self ..
      · exact List.mem_cons_of_mem _ (ih h)

theorem RegFile.rising_put {l : RegFile} (h : RegFile.rising l = true) (k : RKey) (w : Word) :
    RegFile.rising (RegFile.put l k w) = true := by
  induction l with
  | nil => rfl
  | cons p t ih =>
    obtain ⟨k', w'⟩ := p
    have ht := RegFile.rising_tail h
    have hm := fun (q : RKey × Word) (hq : q ∈ t) => RegFile.lt_of_mem h hq
    simp only [RegFile.put]
    split
    · rename_i e; subst e
      exact RegFile.rising_cons_of ht hm
    · rename_i hne
      split
      · rename_i hlt
        exact RegFile.rising_cons_of h fun q hq => by
          rcases List.mem_cons.mp hq with e | hq
          · exact e ▸ hlt
          · exact RKey.lt_trans hlt (hm q hq)
      · rename_i hlt
        refine RegFile.rising_cons_of (ih ht) fun q hq => ?_
        rcases RegFile.mem_put hq with e | hq
        · exact e ▸ RKey.lt_total hne hlt
        · exact hm q hq

theorem RegFile.rising_del {l : RegFile} (h : RegFile.rising l = true) (k : RKey) :
    RegFile.rising (RegFile.del l k) = true := by
  induction l with
  | nil => rfl
  | cons p t ih =>
    obtain ⟨k', w'⟩ := p
    have ht := RegFile.rising_tail h
    simp only [RegFile.del]
    split
    · exact ih ht
    · exact RegFile.rising_cons_of (ih ht) fun q hq => RegFile.lt_of_mem h (RegFile.mem_del hq)

/-- A register write keeps the file's order. -/
theorem Dev.setWord_rising {d : Dev} (h : RegFile.rising d.regs = true) (r : Reg) (w : Word) (i j : Nat) :
    RegFile.rising (d.setWord r w i j).regs = true := by
  unfold Dev.setWord
  dsimp only
  split
  · exact RegFile.rising_del h _
  · exact RegFile.rising_put h _ _

/-! ### Cells -/

theorem Cells.wf_cons (p q : Nat × Byte) (t : Cells) :
    Cells.wf (p :: q :: t) = (p.2 != 0 && decide (p.1 < q.1) && Cells.wf (q :: t)) := rfl

theorem Cells.wf_tail {p : Nat × Byte} {t : Cells} (h : Cells.wf (p :: t) = true) : Cells.wf t = true := by
  cases t with
  | nil => rfl
  | cons q t => rw [Cells.wf_cons, Bool.and_eq_true] at h; exact h.2

theorem Cells.wf_head {p : Nat × Byte} {t : Cells} (h : Cells.wf (p :: t) = true) : p.2 ≠ 0 := by
  cases t with
  | nil => simpa [Cells.wf] using h
  | cons q t => simp only [Cells.wf_cons, Bool.and_eq_true, bne_iff_ne] at h; exact h.1.1

theorem Cells.lt_of_mem {p q : Nat × Byte} {t : Cells} (h : Cells.wf (p :: t) = true) (hq : q ∈ t) : p.1 < q.1 := by
  induction t generalizing p with
  | nil => cases hq
  | cons a t ih =>
    simp only [Cells.wf_cons, Bool.and_eq_true, decide_eq_true_eq] at h
    cases hq with
    | head => exact h.1.2
    | tail _ hm => exact Nat.lt_trans h.1.2 (ih h.2 hm)

theorem Cells.wf_cons_of {p : Nat × Byte} {t : Cells} (ht : Cells.wf t = true) (h0 : p.2 ≠ 0)
    (h : ∀ q ∈ t, p.1 < q.1) : Cells.wf (p :: t) = true := by
  cases t with
  | nil => simpa [Cells.wf] using h0
  | cons q t =>
    simp only [Cells.wf_cons, Bool.and_eq_true, decide_eq_true_eq, bne_iff_ne]
    exact ⟨⟨h0, h q (List.mem_cons_self ..)⟩, ht⟩

theorem Cells.mem_put {l : Cells} {a : Nat} {b : Byte} {q : Nat × Byte} (h : q ∈ Cells.put l a b) :
    q = (a, b) ∨ q ∈ l := by
  induction l with
  | nil => simpa [Cells.put] using h
  | cons p t ih =>
    obtain ⟨k', w'⟩ := p
    simp only [Cells.put] at h
    split at h
    · rcases List.mem_cons.mp h with h | h
      · exact .inl h
      · exact .inr h
    · split at h
      · rcases List.mem_cons.mp h with h | h
        · exact .inl h
        · exact .inr (List.mem_cons_of_mem _ h)
      · rcases List.mem_cons.mp h with h | h
        · exact .inr (h ▸ List.mem_cons_self ..)
        · rcases ih h with h | h
          · exact .inl h
          · exact .inr (List.mem_cons_of_mem _ h)

theorem Cells.mem_del {l : Cells} {a : Nat} {q : Nat × Byte} (h : q ∈ Cells.del l a) : q ∈ l := by
  induction l with
  | nil => exact h
  | cons p t ih =>
    obtain ⟨k', w'⟩ := p
    simp only [Cells.del] at h
    split at h
    · exact List.mem_cons_of_mem _ (ih h)
    · rcases List.mem_cons.mp h with h | h
      · exact h ▸ List.mem_cons_self ..
      · exact List.mem_cons_of_mem _ (ih h)

theorem Cells.wf_put {l : Cells} (h : Cells.wf l = true) (a : Nat) {b : Byte} (hb : b ≠ 0) :
    Cells.wf (Cells.put l a b) = true := by
  induction l with
  | nil => simpa [Cells.put, Cells.wf] using hb
  | cons p t ih =>
    obtain ⟨k', w'⟩ := p
    have ht := Cells.wf_tail h
    have hm := fun (q : Nat × Byte) (hq : q ∈ t) => Cells.lt_of_mem h hq
    simp only [Cells.put]
    split
    · rename_i hlt
      exact Cells.wf_cons_of h hb fun q hq => by
        rcases List.mem_cons.mp hq with e | hq
        · exact e ▸ hlt
        · exact Nat.lt_trans hlt (hm q hq)
    · rename_i hlt
      split
      · rename_i e; subst e
        exact Cells.wf_cons_of ht hb hm
      · rename_i hne
        refine Cells.wf_cons_of (ih ht) (Cells.wf_head h) fun q hq => ?_
        rcases Cells.mem_put hq with e | hq
        · subst e; show k' < a; omega
        · exact hm q hq

theorem Cells.wf_del {l : Cells} (h : Cells.wf l = true) (a : Nat) : Cells.wf (Cells.del l a) = true := by
  induction l with
  | nil => rfl
  | cons p t ih =>
    obtain ⟨k', w'⟩ := p
    have ht := Cells.wf_tail h
    simp only [Cells.del]
    split
    · exact ih ht
    · exact Cells.wf_cons_of (ih ht) (Cells.wf_head h) fun q hq => Cells.lt_of_mem h (Cells.mem_del hq)

/-- Writing a byte keeps the canonical form. -/
theorem Cells.wf_write {l : Cells} (h : Cells.wf l = true) (a : Nat) (b : Byte) : Cells.wf (Cells.write l a b) = true := by
  unfold Cells.write
  split
  · exact Cells.wf_del h a
  · rename_i hb; exact Cells.wf_put h a hb

/-- Writing several bytes keeps the canonical form. -/
theorem Cells.wf_writeAll {l : Cells} (h : Cells.wf l = true) (bs : List (Nat × Byte)) :
    Cells.wf (Cells.writeAll l bs) = true := by
  induction bs generalizing l with
  | nil => exact h
  | cons p t ih => exact ih (Cells.wf_write h p.1 p.2)

theorem Cells.read_del_self (l : Cells) (a : Nat) : Cells.read (Cells.del l a) a = 0 := by
  induction l with
  | nil => rfl
  | cons p t ih =>
    obtain ⟨k', w'⟩ := p
    simp only [Cells.del]
    split
    · exact ih
    · rename_i h; simp [Cells.read, h, ih]

theorem Cells.read_del_ne (l : Cells) {a a' : Nat} (h : a' ≠ a) : Cells.read (Cells.del l a) a' = Cells.read l a' := by
  induction l with
  | nil => rfl
  | cons p t ih =>
    obtain ⟨k', w'⟩ := p
    simp only [Cells.del]
    split
    · rename_i e; subst e; simp [Cells.read, h, ih]
    · simp only [Cells.read, ih]

theorem Cells.read_put_self (l : Cells) (a : Nat) (b : Byte) : Cells.read (Cells.put l a b) a = b := by
  induction l with
  | nil => simp [Cells.put, Cells.read]
  | cons p t ih =>
    obtain ⟨k', w'⟩ := p
    simp only [Cells.put]
    split
    · simp [Cells.read]
    · split
      · simp [Cells.read]
      · rename_i h; simp [Cells.read, h, ih]

theorem Cells.read_put_ne (l : Cells) {a a' : Nat} (b : Byte) (h : a' ≠ a) :
    Cells.read (Cells.put l a b) a' = Cells.read l a' := by
  induction l with
  | nil => simp [Cells.put, Cells.read, h]
  | cons p t ih =>
    obtain ⟨k', w'⟩ := p
    simp only [Cells.put]
    split
    · simp [Cells.read, h]
    · split
      · rename_i e; subst e; simp [Cells.read, h]
      · simp only [Cells.read, ih]

end Sys2Proof.Machine
end

