-- ==== Sys2Proof/Laws/Ops.lean ====
section
/-! SUPPORT. What the shared operations on registers do: the fields that a write of one element leaves alone, the capture of
a refused access, the tests of a register write, a record's making, and the interrupt controller's judging of lines. -/

namespace Sys2Proof.Machine

/-! ### Fields from words -/

theorem Dev.get_of_word {d d' : Dev} {f : Fld} {i j : Nat} (h : d'.word f.reg i j = d.word f.reg i j) :
    d'.get f i j = d.get f i j := by unfold Dev.get; rw [h]

theorem Dev.word_set_of_ne (d : Dev) (f : Fld) (r : Reg) (v i j i' j' : Nat)
    (h : (⟨f.reg.key, i, j⟩ : RKey) ≠ ⟨r.key, i', j'⟩) : (d.set f v i j).word r i' j' = d.word r i' j' :=
  d.word_setWord_of_ne _ h

theorem Dev.word_set_of_key (d : Dev) (f : Fld) (r : Reg) (v i j i' j' : Nat) (h : f.reg.key ≠ r.key) :
    (d.set f v i j).word r i' j' = d.word r i' j' := d.word_set_of_ne f r v i j i' j' (RKey.ne_of_key h)

theorem Dev.on_eq (d : Dev) (f : Fld) (i j : Nat) : d.on f i j = (d.get f i j != 0) := rfl

/-! ### The key of a register tells its block -/

theorem Blk.key_lt (b b' : Blk) (h : b ≠ b') (o o' : Nat) (ho : o < 0x1_0000) (ho' : o' < 0x1_0000) :
    b.base + o ≠ b'.base + o' := by
  cases b <;> cases b' <;> first | exact absurd rfl h | (simp only [Blk.base]; omega)

/-! ### Updates that write no register -/

@[simp] theorem Dev.word_onAlm (d : Dev) (f : AlmSt → AlmSt) (r : Reg) (i j : Nat) : (d.onAlm f).word r i j = d.word r i j := rfl
@[simp] theorem Dev.word_onIct (d : Dev) (f : IctSt → IctSt) (r : Reg) (i j : Nat) : (d.onIct f).word r i j = d.word r i j := rfl
@[simp] theorem Dev.word_onLane (d : Dev) (n : LaneId) (f : LaneSt → LaneSt) (r : Reg) (i j : Nat) :
    (d.onLane n f).word r i j = d.word r i j := rfl
@[simp] theorem Dev.word_onSrv (d : Dev) (g : Grp) (f : Srv → Srv) (r : Reg) (i j : Nat) :
    (d.onSrv g f).word r i j = d.word r i j := rfl

@[simp] theorem Dev.word_endSnaps (d : Dev) (who : Who) (a : Nat) (r : Reg) (i j : Nat) :
    (d.endSnaps who a).word r i j = d.word r i j := by
  unfold Dev.endSnaps
  split <;> rfl

@[simp] theorem Dev.word_draw (d : Dev) (r : Reg) (i j : Nat) : d.draw.2.word r i j = d.word r i j := rfl

/-! ### Counters and flags -/

theorem Dev.word_raise_of_key (d : Dev) (f : Fld) (r : Reg) (i j i' j' : Nat) (h : f.reg.key ≠ r.key) :
    (d.raise f i j).word r i' j' = d.word r i' j' := d.word_set_of_key f r 1 i j i' j' h

theorem Dev.word_bump_of_key (d : Dev) (f : Fld) (r : Reg) (i j n i' j' : Nat) (h : f.reg.key ≠ r.key) :
    (d.bump f i j n).word r i' j' = d.word r i' j' := d.word_set_of_key f r _ i j i' j' h

theorem Dev.word_stamp_of_key (d : Dev) (v q : Fld) (r : Reg) (i j i' j' : Nat) (h : v.reg.key ≠ r.key)
    (h' : q.reg.key ≠ r.key) : (d.stamp v q i j).word r i' j' = d.word r i' j' := by
  unfold Dev.stamp
  rw [Dev.word_set_of_key _ _ _ _ _ _ _ _ h, Dev.word_set_of_key _ _ _ _ _ _ _ _ h']

theorem Dev.word_when (d : Dev) (c : Bool) (f : Dev → Dev) (r : Reg) (i j : Nat) (h : (f d).word r i j = d.word r i j) :
    (d.when c f).word r i j = d.word r i j := by
  unfold Dev.when
  split
  · exact h
  · rfl

/-- A fold leaves a word alone where each of its steps does. -/
theorem Dev.word_each {α : Type} (l : List α) (f : α → Dev → Dev) (r : Reg) (i j : Nat)
    (h : ∀ a d, (f a d).word r i j = d.word r i j) (d : Dev) : (d.each l f).word r i j = d.word r i j := by
  unfold Dev.each
  induction l generalizing d with
  | nil => rfl
  | cons a t ih => rw [List.foldl_cons, ih, h]

/-! ### The capture of a refused access -/

/-- A capture changes the two capture registers alone. -/
theorem Dev.word_capture_of_key (d : Dev) (who : Who) (a : Nat) (w : Bool) (c : BusCause) (r : Reg) (i j : Nat)
    (h : SYS_BUS_ERR_ADDR.key ≠ r.key) (h' : SYS_BUS_ERR_INFO.key ≠ r.key) :
    (d.capture who a w c).word r i j = d.word r i j := by
  unfold Dev.capture
  split
  · exact Dev.word_bump_of_key _ _ _ _ _ _ _ _ h'
  · rw [Dev.word_set_of_key _ _ _ _ _ _ _ _ h', Dev.word_set_of_key _ _ _ _ _ _ _ _ h',
      Dev.word_set_of_key _ _ _ _ _ _ _ _ h', Dev.word_set_of_key _ _ _ _ _ _ _ _ h',
      Dev.word_set_of_key _ _ _ _ _ _ _ _ h', Dev.word_set_of_key _ _ _ _ _ _ _ _ h]

/-- A capture changes no state beside the register file. -/
theorem Dev.capture_regs (d : Dev) (who : Who) (a : Nat) (w : Bool) (c : BusCause) :
    { d.capture who a w c with regs := d.regs } = d := by
  unfold Dev.capture
  split <;> rfl

/-! ### Register writes -/

/-- A register write that passes the tests up to ISLAND_OFF is what its block makes of it: its effect, the initiator's other
snapshots of the block ended, or the capture alone. -/
theorem Dev.tryWriteOr_takes (d : Dev) (who : Who) (a : Nat) (f : Dev → Write) (h : d.takes who a = true) :
    d.tryWriteOr who a f = match f (d.endSnaps who a) with
      | .error c => d.capture who a true c
      | .ok t => t := by
  simp only [Dev.takes, Bool.and_eq_true, bne_iff_ne, Option.isNone_iff_eq_none] at h
  unfold Dev.tryWriteOr Dev.judgeWrite
  cases f (d.endSnaps who a) <;> simp only [if_neg h.1, h.2]

/-- A register write that its block refuses changes nothing but the capture (R28). -/
theorem Dev.tryWriteOr_refused (d : Dev) (who : Who) (a : Nat) (f : Dev → Write) (c : BusCause) (h : d.takes who a = true)
    (hf : f (d.endSnaps who a) = .error c) : d.tryWriteOr who a f = d.capture who a true c := by
  rw [Dev.tryWriteOr_takes d who a f h, hf]

/-- A register write that its block takes is its effect. -/
theorem Dev.tryWriteOr_taken (d t : Dev) (who : Who) (a : Nat) (f : Dev → Write) (h : d.takes who a = true)
    (hf : f (d.endSnaps who a) = .ok t) : d.tryWriteOr who a f = t := by
  rw [Dev.tryWriteOr_takes d who a f h, hf]

/-- A register write that passes the tests is its effect, the initiator's other snapshots of the block ended. -/
theorem Dev.tryWrite_takes (d : Dev) (who : Who) (a : Nat) (f : Dev → Dev) (h : d.takes who a = true) :
    d.tryWrite who a f = f (d.endSnaps who a) := d.tryWriteOr_taken _ who a _ h rfl

/-- A core's register write that its block takes is its effect; no record is made. -/
theorem Dev.busWriteOr_taken (d t : Dev) (who : Who) (a : Nat) (f : Dev → Write) (h : d.takes who a = true) (hw : who ≠ .bar2)
    (hf : f (d.endSnaps who a) = .ok t) : d.busWriteOr who a f = t := by
  unfold Dev.busWriteOr
  refine d.tryWriteOr_taken t who a _ h ?_
  rw [hf]
  show Except.ok (if (who == .bar2) = true then _ else t) = _
  rw [if_neg (by simp [hw])]

/-- A register write that its block refuses makes no record (R28, R568). -/
theorem Dev.busWriteOr_refused (d : Dev) (who : Who) (a : Nat) (f : Dev → Write) (c : BusCause) (h : d.takes who a = true)
    (hf : f (d.endSnaps who a) = .error c) : d.busWriteOr who a f = d.capture who a true c :=
  d.tryWriteOr_refused who a _ c h (by rw [hf]; rfl)

/-- A core's register write that passes the tests is its effect; no record is made. -/
theorem Dev.busWrite_takes (d : Dev) (who : Who) (a : Nat) (f : Dev → Dev) (h : d.takes who a = true) (hw : who ≠ .bar2) :
    d.busWrite who a f = f (d.endSnaps who a) := d.busWriteOr_taken _ who a _ h hw rfl

/-- Where BAR2 reaches a block at all, the access is to TRC, ALM, FLT or CBL. -/
theorem bar2_blocks {a : Nat} {w : Bool} {k : Nat} (h : bar2Rank a w = some k) :
    ∃ i, blockAt a = some (.trc, i) ∨ blockAt a = some (.alm, i) ∨ blockAt a = some (.flt, i) ∨ blockAt a = some (.cbl, i) := by
  unfold bar2Rank at h
  split at h
  · rename_i i e; exact ⟨i, .inl e⟩
  · rename_i i e; exact ⟨i, .inr (.inl e)⟩
  · rename_i i e; exact ⟨i, .inr (.inr (.inl e))⟩
  · rename_i i e; exact ⟨i, .inr (.inr (.inr e))⟩
  · cases h

/-! ### A record (R550 to R552) -/

/-- The registers that making a record can change. -/
def recordKeys : List Nat :=
  [ALM_SEQ_FIRST.key, ALM_SEQ_LAST.key, ALM_STATUS.key, ALM_DROPPED.key, ALM_INT_STATUS.key]

theorem Dev.word_almPush (d : Dev) (t : Nat) (p : List Byte) (r : Reg) (i j : Nat) (h : r.key ∉ recordKeys) :
    (d.almPush t p).word r i j = d.word r i j := by
  simp only [recordKeys, List.mem_cons, not_or] at h
  obtain ⟨h1, h2, h3, h4, h5, -⟩ := h
  unfold Dev.almPush Dev.almStaged
  dsimp only
  rw [Dev.word_set_of_key _ _ _ _ _ _ _ _ (Ne.symm h3), Dev.word_set_of_key _ _ _ _ _ _ _ _ (Ne.symm h2)]
  unfold Dev.when
  split
  · rw [Dev.word_set_of_key _ _ _ _ _ _ _ _ (Ne.symm h1)]; rfl
  · rfl

theorem Dev.word_almDrop (d : Dev) (r : Reg) (i j : Nat) (h : r.key ∉ recordKeys) :
    d.almDrop.word r i j = d.word r i j := by
  simp only [recordKeys, List.mem_cons, not_or] at h
  obtain ⟨h1, h2, h3, h4, h5, -⟩ := h
  unfold Dev.almDrop
  dsimp only
  rw [Dev.word_raise_of_key _ _ _ _ _ _ _ (Ne.symm h5), Dev.word_bump_of_key _ _ _ _ _ _ _ _ (Ne.symm h4), Dev.word_onAlm]

theorem Dev.word_almPowerLoss (d : Dev) (r : Reg) (i j : Nat) (h : r.key ∉ recordKeys) :
    d.almPowerLoss.word r i j = d.word r i j := by
  unfold Dev.almPowerLoss
  split
  · rfl
  · rw [Dev.word_almPush _ _ _ _ _ _ h]; rfl

theorem Dev.word_almAnnounce (d : Dev) (r : Reg) (i j : Nat) (h : r.key ∉ recordKeys) :
    d.almAnnounce.word r i j = d.word r i j := by
  unfold Dev.almAnnounce
  split
  · rfl
  · have h4 : ALM_DROPPED.key ≠ r.key := by
      simp only [recordKeys, List.mem_cons, not_or] at h
      exact Ne.symm h.2.2.2.1
    rw [Dev.word_set_of_key _ _ _ _ _ _ _ _ h4, Dev.word_onAlm, Dev.word_almPush _ _ _ _ _ _ h]

/-- Making a record changes the almanac's registers alone. -/
theorem Dev.word_record (d : Dev) (t : Nat) (p : List Byte) (r : Reg) (i j : Nat) (h : r.key ∉ recordKeys) :
    (d.record t p).word r i j = d.word r i j := by
  have key : ∀ c : Bool, (if c = true then d.almDrop else (d.almPowerLoss.almAnnounce).almPush t (p.take 4080)).word r i j =
      d.word r i j := by
    intro c
    cases c with
    | true => exact Dev.word_almDrop _ _ _ _ h
    | false =>
      show (Dev.almPush _ _ _).word r i j = _
      rw [Dev.word_almPush _ _ _ _ _ _ h, Dev.word_almAnnounce _ _ _ _ h, Dev.word_almPowerLoss _ _ _ _ h]
  unfold Dev.record
  split
  · exact Dev.word_almDrop _ _ _ _ h
  split
  · exact Dev.word_almDrop _ _ _ _ h
  split
  · exact Dev.word_almDrop _ _ _ _ h
  · exact key _

/-- A register write that passes the tests leaves every word outside the almanac as its effect leaves it. -/
theorem Dev.word_busWrite_takes (d : Dev) (who : Who) (a : Nat) (f : Dev → Dev) (h : d.takes who a = true) (r : Reg)
    (i j : Nat) (hr : r.key ∉ recordKeys) : (d.busWrite who a f).word r i j = (f (d.endSnaps who a)).word r i j := by
  unfold Dev.busWrite Dev.busWriteOr
  rw [d.tryWriteOr_takes who a _ h]
  show (if (who == Who.bar2) = true then _ else _ : Dev).word r i j = _
  split
  · rw [Dev.word_record _ _ _ _ _ _ hr]
  · rfl

/-! ### Judging the lines (R523) -/

/-- Judging a source changes its state alone. -/
theorem Dev.word_judge (d : Dev) (s : Nat) (r : Reg) (i j : Nat) (h : ICT_SRC_CFG.key ≠ r.key) :
    (d.judge s).word r i j = d.word r i j := by
  unfold Dev.judge
  split
  · split <;> rfl
  split
  · exact Dev.word_set_of_key _ _ _ _ _ _ _ _ h
  split
  · rw [Dev.word_onIct]; exact Dev.word_set_of_key _ _ _ _ _ _ _ _ h
  · rfl

/-- Judging the ACTIVE sources changes their states alone. -/
theorem Dev.word_judgeActive (d : Dev) (r : Reg) (i j : Nat) (h : ICT_SRC_CFG.key ≠ r.key) :
    d.judgeActive.word r i j = d.word r i j := by
  unfold Dev.judgeActive
  exact Dev.word_each _ _ r i j (fun s d => Dev.word_judge d s r i j h) d

end Sys2Proof.Machine
end

