-- ==== Sys2Proof/Laws/State.lean ====
section
/-! SUPPORT. What each update of the device leaves in each of its fields: the field that it is for takes the new value, every
other one stays. No later proof unfolds a record update. -/

namespace Sys2Proof.Machine

/-! ### One entry of a table -/

@[simp] theorem getElem_upd {α : Type} {n : Nat} (v : Vector α n) (i : Fin n) (f : α → α) : (upd v i f)[i] = f v[i] := by
  simp [upd]

theorem getElem_upd_of_ne {α : Type} {n : Nat} (v : Vector α n) (i k : Fin n) (f : α → α) (h : k ≠ i) :
    (upd v i f)[k] = v[k] := by
  simp only [upd, Fin.getElem_fin]
  exact Vector.getElem_set_ne _ _ fun e => h (Fin.ext e.symm)

/-! ### The machine's state -/

@[simp] theorem State.pending_onDev (s : State) (f : Dev → Dev) : (s.onDev f).pending = s.pending := rfl
@[simp] theorem State.dev_onDev (s : State) (f : Dev → Dev) : (s.onDev f).dev = f s.dev := rfl
@[simp] theorem State.slots_onDev (s : State) (f : Dev → Dev) : (s.onDev f).slots = s.slots := rfl

/-! ### regs: Dev.setWord -/

@[simp] theorem Dev.now_setWord (d : Dev) (r : Reg) (w : Word) (i j : Nat) : (d.setWord r w i j).now = d.now := rfl
@[simp] theorem Dev.fresh_setWord (d : Dev) (r : Reg) (w : Word) (i j : Nat) : (d.setWord r w i j).fresh = d.fresh := rfl
@[simp] theorem Dev.bus_setWord (d : Dev) (r : Reg) (w : Word) (i j : Nat) : (d.setWord r w i j).bus = d.bus := rfl
@[simp] theorem Dev.ict_setWord (d : Dev) (r : Reg) (w : Word) (i j : Nat) : (d.setWord r w i j).ict = d.ict := rfl
@[simp] theorem Dev.flt_setWord (d : Dev) (r : Reg) (w : Word) (i j : Nat) : (d.setWord r w i j).flt = d.flt := rfl
@[simp] theorem Dev.alm_setWord (d : Dev) (r : Reg) (w : Word) (i j : Nat) : (d.setWord r w i j).alm = d.alm := rfl
@[simp] theorem Dev.timestamp_setWord (d : Dev) (r : Reg) (w : Word) (i j : Nat) : (d.setWord r w i j).timestamp = d.timestamp := rfl
@[simp] theorem Dev.srv_setWord (d : Dev) (r : Reg) (w : Word) (i j : Nat) : (d.setWord r w i j).srv = d.srv := rfl
@[simp] theorem Dev.wls_setWord (d : Dev) (r : Reg) (w : Word) (i j : Nat) : (d.setWord r w i j).wls = d.wls := rfl
@[simp] theorem Dev.fmt_setWord (d : Dev) (r : Reg) (w : Word) (i j : Nat) : (d.setWord r w i j).fmt = d.fmt := rfl
@[simp] theorem Dev.tok_setWord (d : Dev) (r : Reg) (w : Word) (i j : Nat) : (d.setWord r w i j).tok = d.tok := rfl
@[simp] theorem Dev.arms_setWord (d : Dev) (r : Reg) (w : Word) (i j : Nat) : (d.setWord r w i j).arms = d.arms := rfl
@[simp] theorem Dev.lanes_setWord (d : Dev) (r : Reg) (w : Word) (i j : Nat) : (d.setWord r w i j).lanes = d.lanes := rfl
@[simp] theorem Dev.out_setWord (d : Dev) (r : Reg) (w : Word) (i j : Nat) : (d.setWord r w i j).out = d.out := rfl
@[simp] theorem Dev.grpq_setWord (d : Dev) (r : Reg) (w : Word) (i j : Nat) : (d.setWord r w i j).grpq = d.grpq := rfl
@[simp] theorem Dev.cs_setWord (d : Dev) (r : Reg) (w : Word) (i j : Nat) : (d.setWord r w i j).cs = d.cs := rfl
@[simp] theorem Dev.zones_setWord (d : Dev) (r : Reg) (w : Word) (i j : Nat) : (d.setWord r w i j).zones = d.zones := rfl
@[simp] theorem Dev.nw_setWord (d : Dev) (r : Reg) (w : Word) (i j : Nat) : (d.setWord r w i j).nw = d.nw := rfl
@[simp] theorem Dev.pwrfail_setWord (d : Dev) (r : Reg) (w : Word) (i j : Nat) : (d.setWord r w i j).pwrfail = d.pwrfail := rfl
@[simp] theorem Dev.mem_setWord (d : Dev) (r : Reg) (w : Word) (i j : Nat) : (d.setWord r w i j).mem = d.mem := rfl
@[simp] theorem Dev.bpm_setWord (d : Dev) (r : Reg) (w : Word) (i j : Nat) : (d.setWord r w i j).bpm = d.bpm := rfl
@[simp] theorem Dev.jobs_setWord (d : Dev) (r : Reg) (w : Word) (i j : Nat) : (d.setWord r w i j).jobs = d.jobs := rfl
@[simp] theorem Dev.hst_setWord (d : Dev) (r : Reg) (w : Word) (i j : Nat) : (d.setWord r w i j).hst = d.hst := rfl
@[simp] theorem Dev.band_setWord (d : Dev) (r : Reg) (w : Word) (i j : Nat) : (d.setWord r w i j).band = d.band := rfl
@[simp] theorem Dev.media_setWord (d : Dev) (r : Reg) (w : Word) (i j : Nat) : (d.setWord r w i j).media = d.media := rfl
@[simp] theorem Dev.que_setWord (d : Dev) (r : Reg) (w : Word) (i j : Nat) : (d.setWord r w i j).que = d.que := rfl
@[simp] theorem Dev.spn_setWord (d : Dev) (r : Reg) (w : Word) (i j : Nat) : (d.setWord r w i j).spn = d.spn := rfl
@[simp] theorem Dev.rmt_setWord (d : Dev) (r : Reg) (w : Word) (i j : Nat) : (d.setWord r w i j).rmt = d.rmt := rfl
@[simp] theorem Dev.seq_setWord (d : Dev) (r : Reg) (w : Word) (i j : Nat) : (d.setWord r w i j).seq = d.seq := rfl
@[simp] theorem Dev.sec_setWord (d : Dev) (r : Reg) (w : Word) (i j : Nat) : (d.setWord r w i j).sec = d.sec := rfl
@[simp] theorem Dev.trc_setWord (d : Dev) (r : Reg) (w : Word) (i j : Nat) : (d.setWord r w i j).trc = d.trc := rfl
@[simp] theorem Dev.flash_setWord (d : Dev) (r : Reg) (w : Word) (i j : Nat) : (d.setWord r w i j).flash = d.flash := rfl

/-! ### regs: Dev.set -/

@[simp] theorem Dev.now_set (d : Dev) (f : Fld) (v i j : Nat) : (d.set f v i j).now = d.now := rfl
@[simp] theorem Dev.fresh_set (d : Dev) (f : Fld) (v i j : Nat) : (d.set f v i j).fresh = d.fresh := rfl
@[simp] theorem Dev.bus_set (d : Dev) (f : Fld) (v i j : Nat) : (d.set f v i j).bus = d.bus := rfl
@[simp] theorem Dev.ict_set (d : Dev) (f : Fld) (v i j : Nat) : (d.set f v i j).ict = d.ict := rfl
@[simp] theorem Dev.flt_set (d : Dev) (f : Fld) (v i j : Nat) : (d.set f v i j).flt = d.flt := rfl
@[simp] theorem Dev.alm_set (d : Dev) (f : Fld) (v i j : Nat) : (d.set f v i j).alm = d.alm := rfl
@[simp] theorem Dev.timestamp_set (d : Dev) (f : Fld) (v i j : Nat) : (d.set f v i j).timestamp = d.timestamp := rfl
@[simp] theorem Dev.srv_set (d : Dev) (f : Fld) (v i j : Nat) : (d.set f v i j).srv = d.srv := rfl
@[simp] theorem Dev.wls_set (d : Dev) (f : Fld) (v i j : Nat) : (d.set f v i j).wls = d.wls := rfl
@[simp] theorem Dev.fmt_set (d : Dev) (f : Fld) (v i j : Nat) : (d.set f v i j).fmt = d.fmt := rfl
@[simp] theorem Dev.tok_set (d : Dev) (f : Fld) (v i j : Nat) : (d.set f v i j).tok = d.tok := rfl
@[simp] theorem Dev.arms_set (d : Dev) (f : Fld) (v i j : Nat) : (d.set f v i j).arms = d.arms := rfl
@[simp] theorem Dev.lanes_set (d : Dev) (f : Fld) (v i j : Nat) : (d.set f v i j).lanes = d.lanes := rfl
@[simp] theorem Dev.out_set (d : Dev) (f : Fld) (v i j : Nat) : (d.set f v i j).out = d.out := rfl
@[simp] theorem Dev.grpq_set (d : Dev) (f : Fld) (v i j : Nat) : (d.set f v i j).grpq = d.grpq := rfl
@[simp] theorem Dev.cs_set (d : Dev) (f : Fld) (v i j : Nat) : (d.set f v i j).cs = d.cs := rfl
@[simp] theorem Dev.zones_set (d : Dev) (f : Fld) (v i j : Nat) : (d.set f v i j).zones = d.zones := rfl
@[simp] theorem Dev.nw_set (d : Dev) (f : Fld) (v i j : Nat) : (d.set f v i j).nw = d.nw := rfl
@[simp] theorem Dev.pwrfail_set (d : Dev) (f : Fld) (v i j : Nat) : (d.set f v i j).pwrfail = d.pwrfail := rfl
@[simp] theorem Dev.mem_set (d : Dev) (f : Fld) (v i j : Nat) : (d.set f v i j).mem = d.mem := rfl
@[simp] theorem Dev.bpm_set (d : Dev) (f : Fld) (v i j : Nat) : (d.set f v i j).bpm = d.bpm := rfl
@[simp] theorem Dev.jobs_set (d : Dev) (f : Fld) (v i j : Nat) : (d.set f v i j).jobs = d.jobs := rfl
@[simp] theorem Dev.hst_set (d : Dev) (f : Fld) (v i j : Nat) : (d.set f v i j).hst = d.hst := rfl
@[simp] theorem Dev.band_set (d : Dev) (f : Fld) (v i j : Nat) : (d.set f v i j).band = d.band := rfl
@[simp] theorem Dev.media_set (d : Dev) (f : Fld) (v i j : Nat) : (d.set f v i j).media = d.media := rfl
@[simp] theorem Dev.que_set (d : Dev) (f : Fld) (v i j : Nat) : (d.set f v i j).que = d.que := rfl
@[simp] theorem Dev.spn_set (d : Dev) (f : Fld) (v i j : Nat) : (d.set f v i j).spn = d.spn := rfl
@[simp] theorem Dev.rmt_set (d : Dev) (f : Fld) (v i j : Nat) : (d.set f v i j).rmt = d.rmt := rfl
@[simp] theorem Dev.seq_set (d : Dev) (f : Fld) (v i j : Nat) : (d.set f v i j).seq = d.seq := rfl
@[simp] theorem Dev.sec_set (d : Dev) (f : Fld) (v i j : Nat) : (d.set f v i j).sec = d.sec := rfl
@[simp] theorem Dev.trc_set (d : Dev) (f : Fld) (v i j : Nat) : (d.set f v i j).trc = d.trc := rfl
@[simp] theorem Dev.flash_set (d : Dev) (f : Fld) (v i j : Nat) : (d.set f v i j).flash = d.flash := rfl

/-! ### ict: Dev.onIct -/

@[simp] theorem Dev.regs_onIct (d : Dev) (f : IctSt → IctSt) : (d.onIct f).regs = d.regs := rfl
@[simp] theorem Dev.now_onIct (d : Dev) (f : IctSt → IctSt) : (d.onIct f).now = d.now := rfl
@[simp] theorem Dev.fresh_onIct (d : Dev) (f : IctSt → IctSt) : (d.onIct f).fresh = d.fresh := rfl
@[simp] theorem Dev.bus_onIct (d : Dev) (f : IctSt → IctSt) : (d.onIct f).bus = d.bus := rfl
@[simp] theorem Dev.ict_onIct (d : Dev) (f : IctSt → IctSt) : (d.onIct f).ict = f d.ict := rfl
@[simp] theorem Dev.flt_onIct (d : Dev) (f : IctSt → IctSt) : (d.onIct f).flt = d.flt := rfl
@[simp] theorem Dev.alm_onIct (d : Dev) (f : IctSt → IctSt) : (d.onIct f).alm = d.alm := rfl
@[simp] theorem Dev.timestamp_onIct (d : Dev) (f : IctSt → IctSt) : (d.onIct f).timestamp = d.timestamp := rfl
@[simp] theorem Dev.srv_onIct (d : Dev) (f : IctSt → IctSt) : (d.onIct f).srv = d.srv := rfl
@[simp] theorem Dev.wls_onIct (d : Dev) (f : IctSt → IctSt) : (d.onIct f).wls = d.wls := rfl
@[simp] theorem Dev.fmt_onIct (d : Dev) (f : IctSt → IctSt) : (d.onIct f).fmt = d.fmt := rfl
@[simp] theorem Dev.tok_onIct (d : Dev) (f : IctSt → IctSt) : (d.onIct f).tok = d.tok := rfl
@[simp] theorem Dev.arms_onIct (d : Dev) (f : IctSt → IctSt) : (d.onIct f).arms = d.arms := rfl
@[simp] theorem Dev.lanes_onIct (d : Dev) (f : IctSt → IctSt) : (d.onIct f).lanes = d.lanes := rfl
@[simp] theorem Dev.out_onIct (d : Dev) (f : IctSt → IctSt) : (d.onIct f).out = d.out := rfl
@[simp] theorem Dev.grpq_onIct (d : Dev) (f : IctSt → IctSt) : (d.onIct f).grpq = d.grpq := rfl
@[simp] theorem Dev.cs_onIct (d : Dev) (f : IctSt → IctSt) : (d.onIct f).cs = d.cs := rfl
@[simp] theorem Dev.zones_onIct (d : Dev) (f : IctSt → IctSt) : (d.onIct f).zones = d.zones := rfl
@[simp] theorem Dev.nw_onIct (d : Dev) (f : IctSt → IctSt) : (d.onIct f).nw = d.nw := rfl
@[simp] theorem Dev.pwrfail_onIct (d : Dev) (f : IctSt → IctSt) : (d.onIct f).pwrfail = d.pwrfail := rfl
@[simp] theorem Dev.mem_onIct (d : Dev) (f : IctSt → IctSt) : (d.onIct f).mem = d.mem := rfl
@[simp] theorem Dev.bpm_onIct (d : Dev) (f : IctSt → IctSt) : (d.onIct f).bpm = d.bpm := rfl
@[simp] theorem Dev.jobs_onIct (d : Dev) (f : IctSt → IctSt) : (d.onIct f).jobs = d.jobs := rfl
@[simp] theorem Dev.hst_onIct (d : Dev) (f : IctSt → IctSt) : (d.onIct f).hst = d.hst := rfl
@[simp] theorem Dev.band_onIct (d : Dev) (f : IctSt → IctSt) : (d.onIct f).band = d.band := rfl
@[simp] theorem Dev.media_onIct (d : Dev) (f : IctSt → IctSt) : (d.onIct f).media = d.media := rfl
@[simp] theorem Dev.que_onIct (d : Dev) (f : IctSt → IctSt) : (d.onIct f).que = d.que := rfl
@[simp] theorem Dev.spn_onIct (d : Dev) (f : IctSt → IctSt) : (d.onIct f).spn = d.spn := rfl
@[simp] theorem Dev.rmt_onIct (d : Dev) (f : IctSt → IctSt) : (d.onIct f).rmt = d.rmt := rfl
@[simp] theorem Dev.seq_onIct (d : Dev) (f : IctSt → IctSt) : (d.onIct f).seq = d.seq := rfl
@[simp] theorem Dev.sec_onIct (d : Dev) (f : IctSt → IctSt) : (d.onIct f).sec = d.sec := rfl
@[simp] theorem Dev.trc_onIct (d : Dev) (f : IctSt → IctSt) : (d.onIct f).trc = d.trc := rfl
@[simp] theorem Dev.flash_onIct (d : Dev) (f : IctSt → IctSt) : (d.onIct f).flash = d.flash := rfl

/-! ### flt: Dev.onFlt -/

@[simp] theorem Dev.regs_onFlt (d : Dev) (f : FltSt → FltSt) : (d.onFlt f).regs = d.regs := rfl
@[simp] theorem Dev.now_onFlt (d : Dev) (f : FltSt → FltSt) : (d.onFlt f).now = d.now := rfl
@[simp] theorem Dev.fresh_onFlt (d : Dev) (f : FltSt → FltSt) : (d.onFlt f).fresh = d.fresh := rfl
@[simp] theorem Dev.bus_onFlt (d : Dev) (f : FltSt → FltSt) : (d.onFlt f).bus = d.bus := rfl
@[simp] theorem Dev.ict_onFlt (d : Dev) (f : FltSt → FltSt) : (d.onFlt f).ict = d.ict := rfl
@[simp] theorem Dev.flt_onFlt (d : Dev) (f : FltSt → FltSt) : (d.onFlt f).flt = f d.flt := rfl
@[simp] theorem Dev.alm_onFlt (d : Dev) (f : FltSt → FltSt) : (d.onFlt f).alm = d.alm := rfl
@[simp] theorem Dev.timestamp_onFlt (d : Dev) (f : FltSt → FltSt) : (d.onFlt f).timestamp = d.timestamp := rfl
@[simp] theorem Dev.srv_onFlt (d : Dev) (f : FltSt → FltSt) : (d.onFlt f).srv = d.srv := rfl
@[simp] theorem Dev.wls_onFlt (d : Dev) (f : FltSt → FltSt) : (d.onFlt f).wls = d.wls := rfl
@[simp] theorem Dev.fmt_onFlt (d : Dev) (f : FltSt → FltSt) : (d.onFlt f).fmt = d.fmt := rfl
@[simp] theorem Dev.tok_onFlt (d : Dev) (f : FltSt → FltSt) : (d.onFlt f).tok = d.tok := rfl
@[simp] theorem Dev.arms_onFlt (d : Dev) (f : FltSt → FltSt) : (d.onFlt f).arms = d.arms := rfl
@[simp] theorem Dev.lanes_onFlt (d : Dev) (f : FltSt → FltSt) : (d.onFlt f).lanes = d.lanes := rfl
@[simp] theorem Dev.out_onFlt (d : Dev) (f : FltSt → FltSt) : (d.onFlt f).out = d.out := rfl
@[simp] theorem Dev.grpq_onFlt (d : Dev) (f : FltSt → FltSt) : (d.onFlt f).grpq = d.grpq := rfl
@[simp] theorem Dev.cs_onFlt (d : Dev) (f : FltSt → FltSt) : (d.onFlt f).cs = d.cs := rfl
@[simp] theorem Dev.zones_onFlt (d : Dev) (f : FltSt → FltSt) : (d.onFlt f).zones = d.zones := rfl
@[simp] theorem Dev.nw_onFlt (d : Dev) (f : FltSt → FltSt) : (d.onFlt f).nw = d.nw := rfl
@[simp] theorem Dev.pwrfail_onFlt (d : Dev) (f : FltSt → FltSt) : (d.onFlt f).pwrfail = d.pwrfail := rfl
@[simp] theorem Dev.mem_onFlt (d : Dev) (f : FltSt → FltSt) : (d.onFlt f).mem = d.mem := rfl
@[simp] theorem Dev.bpm_onFlt (d : Dev) (f : FltSt → FltSt) : (d.onFlt f).bpm = d.bpm := rfl
@[simp] theorem Dev.jobs_onFlt (d : Dev) (f : FltSt → FltSt) : (d.onFlt f).jobs = d.jobs := rfl
@[simp] theorem Dev.hst_onFlt (d : Dev) (f : FltSt → FltSt) : (d.onFlt f).hst = d.hst := rfl
@[simp] theorem Dev.band_onFlt (d : Dev) (f : FltSt → FltSt) : (d.onFlt f).band = d.band := rfl
@[simp] theorem Dev.media_onFlt (d : Dev) (f : FltSt → FltSt) : (d.onFlt f).media = d.media := rfl
@[simp] theorem Dev.que_onFlt (d : Dev) (f : FltSt → FltSt) : (d.onFlt f).que = d.que := rfl
@[simp] theorem Dev.spn_onFlt (d : Dev) (f : FltSt → FltSt) : (d.onFlt f).spn = d.spn := rfl
@[simp] theorem Dev.rmt_onFlt (d : Dev) (f : FltSt → FltSt) : (d.onFlt f).rmt = d.rmt := rfl
@[simp] theorem Dev.seq_onFlt (d : Dev) (f : FltSt → FltSt) : (d.onFlt f).seq = d.seq := rfl
@[simp] theorem Dev.sec_onFlt (d : Dev) (f : FltSt → FltSt) : (d.onFlt f).sec = d.sec := rfl
@[simp] theorem Dev.trc_onFlt (d : Dev) (f : FltSt → FltSt) : (d.onFlt f).trc = d.trc := rfl
@[simp] theorem Dev.flash_onFlt (d : Dev) (f : FltSt → FltSt) : (d.onFlt f).flash = d.flash := rfl

/-! ### alm: Dev.onAlm -/

@[simp] theorem Dev.regs_onAlm (d : Dev) (f : AlmSt → AlmSt) : (d.onAlm f).regs = d.regs := rfl
@[simp] theorem Dev.now_onAlm (d : Dev) (f : AlmSt → AlmSt) : (d.onAlm f).now = d.now := rfl
@[simp] theorem Dev.fresh_onAlm (d : Dev) (f : AlmSt → AlmSt) : (d.onAlm f).fresh = d.fresh := rfl
@[simp] theorem Dev.bus_onAlm (d : Dev) (f : AlmSt → AlmSt) : (d.onAlm f).bus = d.bus := rfl
@[simp] theorem Dev.ict_onAlm (d : Dev) (f : AlmSt → AlmSt) : (d.onAlm f).ict = d.ict := rfl
@[simp] theorem Dev.flt_onAlm (d : Dev) (f : AlmSt → AlmSt) : (d.onAlm f).flt = d.flt := rfl
@[simp] theorem Dev.alm_onAlm (d : Dev) (f : AlmSt → AlmSt) : (d.onAlm f).alm = f d.alm := rfl
@[simp] theorem Dev.timestamp_onAlm (d : Dev) (f : AlmSt → AlmSt) : (d.onAlm f).timestamp = d.timestamp := rfl
@[simp] theorem Dev.srv_onAlm (d : Dev) (f : AlmSt → AlmSt) : (d.onAlm f).srv = d.srv := rfl
@[simp] theorem Dev.wls_onAlm (d : Dev) (f : AlmSt → AlmSt) : (d.onAlm f).wls = d.wls := rfl
@[simp] theorem Dev.fmt_onAlm (d : Dev) (f : AlmSt → AlmSt) : (d.onAlm f).fmt = d.fmt := rfl
@[simp] theorem Dev.tok_onAlm (d : Dev) (f : AlmSt → AlmSt) : (d.onAlm f).tok = d.tok := rfl
@[simp] theorem Dev.arms_onAlm (d : Dev) (f : AlmSt → AlmSt) : (d.onAlm f).arms = d.arms := rfl
@[simp] theorem Dev.lanes_onAlm (d : Dev) (f : AlmSt → AlmSt) : (d.onAlm f).lanes = d.lanes := rfl
@[simp] theorem Dev.out_onAlm (d : Dev) (f : AlmSt → AlmSt) : (d.onAlm f).out = d.out := rfl
@[simp] theorem Dev.grpq_onAlm (d : Dev) (f : AlmSt → AlmSt) : (d.onAlm f).grpq = d.grpq := rfl
@[simp] theorem Dev.cs_onAlm (d : Dev) (f : AlmSt → AlmSt) : (d.onAlm f).cs = d.cs := rfl
@[simp] theorem Dev.zones_onAlm (d : Dev) (f : AlmSt → AlmSt) : (d.onAlm f).zones = d.zones := rfl
@[simp] theorem Dev.nw_onAlm (d : Dev) (f : AlmSt → AlmSt) : (d.onAlm f).nw = d.nw := rfl
@[simp] theorem Dev.pwrfail_onAlm (d : Dev) (f : AlmSt → AlmSt) : (d.onAlm f).pwrfail = d.pwrfail := rfl
@[simp] theorem Dev.mem_onAlm (d : Dev) (f : AlmSt → AlmSt) : (d.onAlm f).mem = d.mem := rfl
@[simp] theorem Dev.bpm_onAlm (d : Dev) (f : AlmSt → AlmSt) : (d.onAlm f).bpm = d.bpm := rfl
@[simp] theorem Dev.jobs_onAlm (d : Dev) (f : AlmSt → AlmSt) : (d.onAlm f).jobs = d.jobs := rfl
@[simp] theorem Dev.hst_onAlm (d : Dev) (f : AlmSt → AlmSt) : (d.onAlm f).hst = d.hst := rfl
@[simp] theorem Dev.band_onAlm (d : Dev) (f : AlmSt → AlmSt) : (d.onAlm f).band = d.band := rfl
@[simp] theorem Dev.media_onAlm (d : Dev) (f : AlmSt → AlmSt) : (d.onAlm f).media = d.media := rfl
@[simp] theorem Dev.que_onAlm (d : Dev) (f : AlmSt → AlmSt) : (d.onAlm f).que = d.que := rfl
@[simp] theorem Dev.spn_onAlm (d : Dev) (f : AlmSt → AlmSt) : (d.onAlm f).spn = d.spn := rfl
@[simp] theorem Dev.rmt_onAlm (d : Dev) (f : AlmSt → AlmSt) : (d.onAlm f).rmt = d.rmt := rfl
@[simp] theorem Dev.seq_onAlm (d : Dev) (f : AlmSt → AlmSt) : (d.onAlm f).seq = d.seq := rfl
@[simp] theorem Dev.sec_onAlm (d : Dev) (f : AlmSt → AlmSt) : (d.onAlm f).sec = d.sec := rfl
@[simp] theorem Dev.trc_onAlm (d : Dev) (f : AlmSt → AlmSt) : (d.onAlm f).trc = d.trc := rfl
@[simp] theorem Dev.flash_onAlm (d : Dev) (f : AlmSt → AlmSt) : (d.onAlm f).flash = d.flash := rfl

/-! ### tok: Dev.onTok -/

@[simp] theorem Dev.regs_onTok (d : Dev) (f : Tokens → Tokens) : (d.onTok f).regs = d.regs := rfl
@[simp] theorem Dev.now_onTok (d : Dev) (f : Tokens → Tokens) : (d.onTok f).now = d.now := rfl
@[simp] theorem Dev.fresh_onTok (d : Dev) (f : Tokens → Tokens) : (d.onTok f).fresh = d.fresh := rfl
@[simp] theorem Dev.bus_onTok (d : Dev) (f : Tokens → Tokens) : (d.onTok f).bus = d.bus := rfl
@[simp] theorem Dev.ict_onTok (d : Dev) (f : Tokens → Tokens) : (d.onTok f).ict = d.ict := rfl
@[simp] theorem Dev.flt_onTok (d : Dev) (f : Tokens → Tokens) : (d.onTok f).flt = d.flt := rfl
@[simp] theorem Dev.alm_onTok (d : Dev) (f : Tokens → Tokens) : (d.onTok f).alm = d.alm := rfl
@[simp] theorem Dev.timestamp_onTok (d : Dev) (f : Tokens → Tokens) : (d.onTok f).timestamp = d.timestamp := rfl
@[simp] theorem Dev.srv_onTok (d : Dev) (f : Tokens → Tokens) : (d.onTok f).srv = d.srv := rfl
@[simp] theorem Dev.wls_onTok (d : Dev) (f : Tokens → Tokens) : (d.onTok f).wls = d.wls := rfl
@[simp] theorem Dev.fmt_onTok (d : Dev) (f : Tokens → Tokens) : (d.onTok f).fmt = d.fmt := rfl
@[simp] theorem Dev.tok_onTok (d : Dev) (f : Tokens → Tokens) : (d.onTok f).tok = f d.tok := rfl
@[simp] theorem Dev.arms_onTok (d : Dev) (f : Tokens → Tokens) : (d.onTok f).arms = d.arms := rfl
@[simp] theorem Dev.lanes_onTok (d : Dev) (f : Tokens → Tokens) : (d.onTok f).lanes = d.lanes := rfl
@[simp] theorem Dev.out_onTok (d : Dev) (f : Tokens → Tokens) : (d.onTok f).out = d.out := rfl
@[simp] theorem Dev.grpq_onTok (d : Dev) (f : Tokens → Tokens) : (d.onTok f).grpq = d.grpq := rfl
@[simp] theorem Dev.cs_onTok (d : Dev) (f : Tokens → Tokens) : (d.onTok f).cs = d.cs := rfl
@[simp] theorem Dev.zones_onTok (d : Dev) (f : Tokens → Tokens) : (d.onTok f).zones = d.zones := rfl
@[simp] theorem Dev.nw_onTok (d : Dev) (f : Tokens → Tokens) : (d.onTok f).nw = d.nw := rfl
@[simp] theorem Dev.pwrfail_onTok (d : Dev) (f : Tokens → Tokens) : (d.onTok f).pwrfail = d.pwrfail := rfl
@[simp] theorem Dev.mem_onTok (d : Dev) (f : Tokens → Tokens) : (d.onTok f).mem = d.mem := rfl
@[simp] theorem Dev.bpm_onTok (d : Dev) (f : Tokens → Tokens) : (d.onTok f).bpm = d.bpm := rfl
@[simp] theorem Dev.jobs_onTok (d : Dev) (f : Tokens → Tokens) : (d.onTok f).jobs = d.jobs := rfl
@[simp] theorem Dev.hst_onTok (d : Dev) (f : Tokens → Tokens) : (d.onTok f).hst = d.hst := rfl
@[simp] theorem Dev.band_onTok (d : Dev) (f : Tokens → Tokens) : (d.onTok f).band = d.band := rfl
@[simp] theorem Dev.media_onTok (d : Dev) (f : Tokens → Tokens) : (d.onTok f).media = d.media := rfl
@[simp] theorem Dev.que_onTok (d : Dev) (f : Tokens → Tokens) : (d.onTok f).que = d.que := rfl
@[simp] theorem Dev.spn_onTok (d : Dev) (f : Tokens → Tokens) : (d.onTok f).spn = d.spn := rfl
@[simp] theorem Dev.rmt_onTok (d : Dev) (f : Tokens → Tokens) : (d.onTok f).rmt = d.rmt := rfl
@[simp] theorem Dev.seq_onTok (d : Dev) (f : Tokens → Tokens) : (d.onTok f).seq = d.seq := rfl
@[simp] theorem Dev.sec_onTok (d : Dev) (f : Tokens → Tokens) : (d.onTok f).sec = d.sec := rfl
@[simp] theorem Dev.trc_onTok (d : Dev) (f : Tokens → Tokens) : (d.onTok f).trc = d.trc := rfl
@[simp] theorem Dev.flash_onTok (d : Dev) (f : Tokens → Tokens) : (d.onTok f).flash = d.flash := rfl

/-! ### cs: Dev.onCs -/

@[simp] theorem Dev.regs_onCs (d : Dev) (f : ControlStore → ControlStore) : (d.onCs f).regs = d.regs := rfl
@[simp] theorem Dev.now_onCs (d : Dev) (f : ControlStore → ControlStore) : (d.onCs f).now = d.now := rfl
@[simp] theorem Dev.fresh_onCs (d : Dev) (f : ControlStore → ControlStore) : (d.onCs f).fresh = d.fresh := rfl
@[simp] theorem Dev.bus_onCs (d : Dev) (f : ControlStore → ControlStore) : (d.onCs f).bus = d.bus := rfl
@[simp] theorem Dev.ict_onCs (d : Dev) (f : ControlStore → ControlStore) : (d.onCs f).ict = d.ict := rfl
@[simp] theorem Dev.flt_onCs (d : Dev) (f : ControlStore → ControlStore) : (d.onCs f).flt = d.flt := rfl
@[simp] theorem Dev.alm_onCs (d : Dev) (f : ControlStore → ControlStore) : (d.onCs f).alm = d.alm := rfl
@[simp] theorem Dev.timestamp_onCs (d : Dev) (f : ControlStore → ControlStore) : (d.onCs f).timestamp = d.timestamp := rfl
@[simp] theorem Dev.srv_onCs (d : Dev) (f : ControlStore → ControlStore) : (d.onCs f).srv = d.srv := rfl
@[simp] theorem Dev.wls_onCs (d : Dev) (f : ControlStore → ControlStore) : (d.onCs f).wls = d.wls := rfl
@[simp] theorem Dev.fmt_onCs (d : Dev) (f : ControlStore → ControlStore) : (d.onCs f).fmt = d.fmt := rfl
@[simp] theorem Dev.tok_onCs (d : Dev) (f : ControlStore → ControlStore) : (d.onCs f).tok = d.tok := rfl
@[simp] theorem Dev.arms_onCs (d : Dev) (f : ControlStore → ControlStore) : (d.onCs f).arms = d.arms := rfl
@[simp] theorem Dev.lanes_onCs (d : Dev) (f : ControlStore → ControlStore) : (d.onCs f).lanes = d.lanes := rfl
@[simp] theorem Dev.out_onCs (d : Dev) (f : ControlStore → ControlStore) : (d.onCs f).out = d.out := rfl
@[simp] theorem Dev.grpq_onCs (d : Dev) (f : ControlStore → ControlStore) : (d.onCs f).grpq = d.grpq := rfl
@[simp] theorem Dev.cs_onCs (d : Dev) (f : ControlStore → ControlStore) : (d.onCs f).cs = f d.cs := rfl
@[simp] theorem Dev.zones_onCs (d : Dev) (f : ControlStore → ControlStore) : (d.onCs f).zones = d.zones := rfl
@[simp] theorem Dev.nw_onCs (d : Dev) (f : ControlStore → ControlStore) : (d.onCs f).nw = d.nw := rfl
@[simp] theorem Dev.pwrfail_onCs (d : Dev) (f : ControlStore → ControlStore) : (d.onCs f).pwrfail = d.pwrfail := rfl
@[simp] theorem Dev.mem_onCs (d : Dev) (f : ControlStore → ControlStore) : (d.onCs f).mem = d.mem := rfl
@[simp] theorem Dev.bpm_onCs (d : Dev) (f : ControlStore → ControlStore) : (d.onCs f).bpm = d.bpm := rfl
@[simp] theorem Dev.jobs_onCs (d : Dev) (f : ControlStore → ControlStore) : (d.onCs f).jobs = d.jobs := rfl
@[simp] theorem Dev.hst_onCs (d : Dev) (f : ControlStore → ControlStore) : (d.onCs f).hst = d.hst := rfl
@[simp] theorem Dev.band_onCs (d : Dev) (f : ControlStore → ControlStore) : (d.onCs f).band = d.band := rfl
@[simp] theorem Dev.media_onCs (d : Dev) (f : ControlStore → ControlStore) : (d.onCs f).media = d.media := rfl
@[simp] theorem Dev.que_onCs (d : Dev) (f : ControlStore → ControlStore) : (d.onCs f).que = d.que := rfl
@[simp] theorem Dev.spn_onCs (d : Dev) (f : ControlStore → ControlStore) : (d.onCs f).spn = d.spn := rfl
@[simp] theorem Dev.rmt_onCs (d : Dev) (f : ControlStore → ControlStore) : (d.onCs f).rmt = d.rmt := rfl
@[simp] theorem Dev.seq_onCs (d : Dev) (f : ControlStore → ControlStore) : (d.onCs f).seq = d.seq := rfl
@[simp] theorem Dev.sec_onCs (d : Dev) (f : ControlStore → ControlStore) : (d.onCs f).sec = d.sec := rfl
@[simp] theorem Dev.trc_onCs (d : Dev) (f : ControlStore → ControlStore) : (d.onCs f).trc = d.trc := rfl
@[simp] theorem Dev.flash_onCs (d : Dev) (f : ControlStore → ControlStore) : (d.onCs f).flash = d.flash := rfl

/-! ### mem: Dev.onMem -/

@[simp] theorem Dev.regs_onMem (d : Dev) (f : MemSt → MemSt) : (d.onMem f).regs = d.regs := rfl
@[simp] theorem Dev.now_onMem (d : Dev) (f : MemSt → MemSt) : (d.onMem f).now = d.now := rfl
@[simp] theorem Dev.fresh_onMem (d : Dev) (f : MemSt → MemSt) : (d.onMem f).fresh = d.fresh := rfl
@[simp] theorem Dev.bus_onMem (d : Dev) (f : MemSt → MemSt) : (d.onMem f).bus = d.bus := rfl
@[simp] theorem Dev.ict_onMem (d : Dev) (f : MemSt → MemSt) : (d.onMem f).ict = d.ict := rfl
@[simp] theorem Dev.flt_onMem (d : Dev) (f : MemSt → MemSt) : (d.onMem f).flt = d.flt := rfl
@[simp] theorem Dev.alm_onMem (d : Dev) (f : MemSt → MemSt) : (d.onMem f).alm = d.alm := rfl
@[simp] theorem Dev.timestamp_onMem (d : Dev) (f : MemSt → MemSt) : (d.onMem f).timestamp = d.timestamp := rfl
@[simp] theorem Dev.srv_onMem (d : Dev) (f : MemSt → MemSt) : (d.onMem f).srv = d.srv := rfl
@[simp] theorem Dev.wls_onMem (d : Dev) (f : MemSt → MemSt) : (d.onMem f).wls = d.wls := rfl
@[simp] theorem Dev.fmt_onMem (d : Dev) (f : MemSt → MemSt) : (d.onMem f).fmt = d.fmt := rfl
@[simp] theorem Dev.tok_onMem (d : Dev) (f : MemSt → MemSt) : (d.onMem f).tok = d.tok := rfl
@[simp] theorem Dev.arms_onMem (d : Dev) (f : MemSt → MemSt) : (d.onMem f).arms = d.arms := rfl
@[simp] theorem Dev.lanes_onMem (d : Dev) (f : MemSt → MemSt) : (d.onMem f).lanes = d.lanes := rfl
@[simp] theorem Dev.out_onMem (d : Dev) (f : MemSt → MemSt) : (d.onMem f).out = d.out := rfl
@[simp] theorem Dev.grpq_onMem (d : Dev) (f : MemSt → MemSt) : (d.onMem f).grpq = d.grpq := rfl
@[simp] theorem Dev.cs_onMem (d : Dev) (f : MemSt → MemSt) : (d.onMem f).cs = d.cs := rfl
@[simp] theorem Dev.zones_onMem (d : Dev) (f : MemSt → MemSt) : (d.onMem f).zones = d.zones := rfl
@[simp] theorem Dev.nw_onMem (d : Dev) (f : MemSt → MemSt) : (d.onMem f).nw = d.nw := rfl
@[simp] theorem Dev.pwrfail_onMem (d : Dev) (f : MemSt → MemSt) : (d.onMem f).pwrfail = d.pwrfail := rfl
@[simp] theorem Dev.mem_onMem (d : Dev) (f : MemSt → MemSt) : (d.onMem f).mem = f d.mem := rfl
@[simp] theorem Dev.bpm_onMem (d : Dev) (f : MemSt → MemSt) : (d.onMem f).bpm = d.bpm := rfl
@[simp] theorem Dev.jobs_onMem (d : Dev) (f : MemSt → MemSt) : (d.onMem f).jobs = d.jobs := rfl
@[simp] theorem Dev.hst_onMem (d : Dev) (f : MemSt → MemSt) : (d.onMem f).hst = d.hst := rfl
@[simp] theorem Dev.band_onMem (d : Dev) (f : MemSt → MemSt) : (d.onMem f).band = d.band := rfl
@[simp] theorem Dev.media_onMem (d : Dev) (f : MemSt → MemSt) : (d.onMem f).media = d.media := rfl
@[simp] theorem Dev.que_onMem (d : Dev) (f : MemSt → MemSt) : (d.onMem f).que = d.que := rfl
@[simp] theorem Dev.spn_onMem (d : Dev) (f : MemSt → MemSt) : (d.onMem f).spn = d.spn := rfl
@[simp] theorem Dev.rmt_onMem (d : Dev) (f : MemSt → MemSt) : (d.onMem f).rmt = d.rmt := rfl
@[simp] theorem Dev.seq_onMem (d : Dev) (f : MemSt → MemSt) : (d.onMem f).seq = d.seq := rfl
@[simp] theorem Dev.sec_onMem (d : Dev) (f : MemSt → MemSt) : (d.onMem f).sec = d.sec := rfl
@[simp] theorem Dev.trc_onMem (d : Dev) (f : MemSt → MemSt) : (d.onMem f).trc = d.trc := rfl
@[simp] theorem Dev.flash_onMem (d : Dev) (f : MemSt → MemSt) : (d.onMem f).flash = d.flash := rfl

/-! ### bpm: Dev.onBpm -/

@[simp] theorem Dev.regs_onBpm (d : Dev) (f : BpmSt → BpmSt) : (d.onBpm f).regs = d.regs := rfl
@[simp] theorem Dev.now_onBpm (d : Dev) (f : BpmSt → BpmSt) : (d.onBpm f).now = d.now := rfl
@[simp] theorem Dev.fresh_onBpm (d : Dev) (f : BpmSt → BpmSt) : (d.onBpm f).fresh = d.fresh := rfl
@[simp] theorem Dev.bus_onBpm (d : Dev) (f : BpmSt → BpmSt) : (d.onBpm f).bus = d.bus := rfl
@[simp] theorem Dev.ict_onBpm (d : Dev) (f : BpmSt → BpmSt) : (d.onBpm f).ict = d.ict := rfl
@[simp] theorem Dev.flt_onBpm (d : Dev) (f : BpmSt → BpmSt) : (d.onBpm f).flt = d.flt := rfl
@[simp] theorem Dev.alm_onBpm (d : Dev) (f : BpmSt → BpmSt) : (d.onBpm f).alm = d.alm := rfl
@[simp] theorem Dev.timestamp_onBpm (d : Dev) (f : BpmSt → BpmSt) : (d.onBpm f).timestamp = d.timestamp := rfl
@[simp] theorem Dev.srv_onBpm (d : Dev) (f : BpmSt → BpmSt) : (d.onBpm f).srv = d.srv := rfl
@[simp] theorem Dev.wls_onBpm (d : Dev) (f : BpmSt → BpmSt) : (d.onBpm f).wls = d.wls := rfl
@[simp] theorem Dev.fmt_onBpm (d : Dev) (f : BpmSt → BpmSt) : (d.onBpm f).fmt = d.fmt := rfl
@[simp] theorem Dev.tok_onBpm (d : Dev) (f : BpmSt → BpmSt) : (d.onBpm f).tok = d.tok := rfl
@[simp] theorem Dev.arms_onBpm (d : Dev) (f : BpmSt → BpmSt) : (d.onBpm f).arms = d.arms := rfl
@[simp] theorem Dev.lanes_onBpm (d : Dev) (f : BpmSt → BpmSt) : (d.onBpm f).lanes = d.lanes := rfl
@[simp] theorem Dev.out_onBpm (d : Dev) (f : BpmSt → BpmSt) : (d.onBpm f).out = d.out := rfl
@[simp] theorem Dev.grpq_onBpm (d : Dev) (f : BpmSt → BpmSt) : (d.onBpm f).grpq = d.grpq := rfl
@[simp] theorem Dev.cs_onBpm (d : Dev) (f : BpmSt → BpmSt) : (d.onBpm f).cs = d.cs := rfl
@[simp] theorem Dev.zones_onBpm (d : Dev) (f : BpmSt → BpmSt) : (d.onBpm f).zones = d.zones := rfl
@[simp] theorem Dev.nw_onBpm (d : Dev) (f : BpmSt → BpmSt) : (d.onBpm f).nw = d.nw := rfl
@[simp] theorem Dev.pwrfail_onBpm (d : Dev) (f : BpmSt → BpmSt) : (d.onBpm f).pwrfail = d.pwrfail := rfl
@[simp] theorem Dev.mem_onBpm (d : Dev) (f : BpmSt → BpmSt) : (d.onBpm f).mem = d.mem := rfl
@[simp] theorem Dev.bpm_onBpm (d : Dev) (f : BpmSt → BpmSt) : (d.onBpm f).bpm = f d.bpm := rfl
@[simp] theorem Dev.jobs_onBpm (d : Dev) (f : BpmSt → BpmSt) : (d.onBpm f).jobs = d.jobs := rfl
@[simp] theorem Dev.hst_onBpm (d : Dev) (f : BpmSt → BpmSt) : (d.onBpm f).hst = d.hst := rfl
@[simp] theorem Dev.band_onBpm (d : Dev) (f : BpmSt → BpmSt) : (d.onBpm f).band = d.band := rfl
@[simp] theorem Dev.media_onBpm (d : Dev) (f : BpmSt → BpmSt) : (d.onBpm f).media = d.media := rfl
@[simp] theorem Dev.que_onBpm (d : Dev) (f : BpmSt → BpmSt) : (d.onBpm f).que = d.que := rfl
@[simp] theorem Dev.spn_onBpm (d : Dev) (f : BpmSt → BpmSt) : (d.onBpm f).spn = d.spn := rfl
@[simp] theorem Dev.rmt_onBpm (d : Dev) (f : BpmSt → BpmSt) : (d.onBpm f).rmt = d.rmt := rfl
@[simp] theorem Dev.seq_onBpm (d : Dev) (f : BpmSt → BpmSt) : (d.onBpm f).seq = d.seq := rfl
@[simp] theorem Dev.sec_onBpm (d : Dev) (f : BpmSt → BpmSt) : (d.onBpm f).sec = d.sec := rfl
@[simp] theorem Dev.trc_onBpm (d : Dev) (f : BpmSt → BpmSt) : (d.onBpm f).trc = d.trc := rfl
@[simp] theorem Dev.flash_onBpm (d : Dev) (f : BpmSt → BpmSt) : (d.onBpm f).flash = d.flash := rfl

/-! ### hst: Dev.onHst -/

@[simp] theorem Dev.regs_onHst (d : Dev) (f : HstSt → HstSt) : (d.onHst f).regs = d.regs := rfl
@[simp] theorem Dev.now_onHst (d : Dev) (f : HstSt → HstSt) : (d.onHst f).now = d.now := rfl
@[simp] theorem Dev.fresh_onHst (d : Dev) (f : HstSt → HstSt) : (d.onHst f).fresh = d.fresh := rfl
@[simp] theorem Dev.bus_onHst (d : Dev) (f : HstSt → HstSt) : (d.onHst f).bus = d.bus := rfl
@[simp] theorem Dev.ict_onHst (d : Dev) (f : HstSt → HstSt) : (d.onHst f).ict = d.ict := rfl
@[simp] theorem Dev.flt_onHst (d : Dev) (f : HstSt → HstSt) : (d.onHst f).flt = d.flt := rfl
@[simp] theorem Dev.alm_onHst (d : Dev) (f : HstSt → HstSt) : (d.onHst f).alm = d.alm := rfl
@[simp] theorem Dev.timestamp_onHst (d : Dev) (f : HstSt → HstSt) : (d.onHst f).timestamp = d.timestamp := rfl
@[simp] theorem Dev.srv_onHst (d : Dev) (f : HstSt → HstSt) : (d.onHst f).srv = d.srv := rfl
@[simp] theorem Dev.wls_onHst (d : Dev) (f : HstSt → HstSt) : (d.onHst f).wls = d.wls := rfl
@[simp] theorem Dev.fmt_onHst (d : Dev) (f : HstSt → HstSt) : (d.onHst f).fmt = d.fmt := rfl
@[simp] theorem Dev.tok_onHst (d : Dev) (f : HstSt → HstSt) : (d.onHst f).tok = d.tok := rfl
@[simp] theorem Dev.arms_onHst (d : Dev) (f : HstSt → HstSt) : (d.onHst f).arms = d.arms := rfl
@[simp] theorem Dev.lanes_onHst (d : Dev) (f : HstSt → HstSt) : (d.onHst f).lanes = d.lanes := rfl
@[simp] theorem Dev.out_onHst (d : Dev) (f : HstSt → HstSt) : (d.onHst f).out = d.out := rfl
@[simp] theorem Dev.grpq_onHst (d : Dev) (f : HstSt → HstSt) : (d.onHst f).grpq = d.grpq := rfl
@[simp] theorem Dev.cs_onHst (d : Dev) (f : HstSt → HstSt) : (d.onHst f).cs = d.cs := rfl
@[simp] theorem Dev.zones_onHst (d : Dev) (f : HstSt → HstSt) : (d.onHst f).zones = d.zones := rfl
@[simp] theorem Dev.nw_onHst (d : Dev) (f : HstSt → HstSt) : (d.onHst f).nw = d.nw := rfl
@[simp] theorem Dev.pwrfail_onHst (d : Dev) (f : HstSt → HstSt) : (d.onHst f).pwrfail = d.pwrfail := rfl
@[simp] theorem Dev.mem_onHst (d : Dev) (f : HstSt → HstSt) : (d.onHst f).mem = d.mem := rfl
@[simp] theorem Dev.bpm_onHst (d : Dev) (f : HstSt → HstSt) : (d.onHst f).bpm = d.bpm := rfl
@[simp] theorem Dev.jobs_onHst (d : Dev) (f : HstSt → HstSt) : (d.onHst f).jobs = d.jobs := rfl
@[simp] theorem Dev.hst_onHst (d : Dev) (f : HstSt → HstSt) : (d.onHst f).hst = f d.hst := rfl
@[simp] theorem Dev.band_onHst (d : Dev) (f : HstSt → HstSt) : (d.onHst f).band = d.band := rfl
@[simp] theorem Dev.media_onHst (d : Dev) (f : HstSt → HstSt) : (d.onHst f).media = d.media := rfl
@[simp] theorem Dev.que_onHst (d : Dev) (f : HstSt → HstSt) : (d.onHst f).que = d.que := rfl
@[simp] theorem Dev.spn_onHst (d : Dev) (f : HstSt → HstSt) : (d.onHst f).spn = d.spn := rfl
@[simp] theorem Dev.rmt_onHst (d : Dev) (f : HstSt → HstSt) : (d.onHst f).rmt = d.rmt := rfl
@[simp] theorem Dev.seq_onHst (d : Dev) (f : HstSt → HstSt) : (d.onHst f).seq = d.seq := rfl
@[simp] theorem Dev.sec_onHst (d : Dev) (f : HstSt → HstSt) : (d.onHst f).sec = d.sec := rfl
@[simp] theorem Dev.trc_onHst (d : Dev) (f : HstSt → HstSt) : (d.onHst f).trc = d.trc := rfl
@[simp] theorem Dev.flash_onHst (d : Dev) (f : HstSt → HstSt) : (d.onHst f).flash = d.flash := rfl

/-! ### band: Dev.onBand -/

@[simp] theorem Dev.regs_onBand (d : Dev) (f : BandSt → BandSt) : (d.onBand f).regs = d.regs := rfl
@[simp] theorem Dev.now_onBand (d : Dev) (f : BandSt → BandSt) : (d.onBand f).now = d.now := rfl
@[simp] theorem Dev.fresh_onBand (d : Dev) (f : BandSt → BandSt) : (d.onBand f).fresh = d.fresh := rfl
@[simp] theorem Dev.bus_onBand (d : Dev) (f : BandSt → BandSt) : (d.onBand f).bus = d.bus := rfl
@[simp] theorem Dev.ict_onBand (d : Dev) (f : BandSt → BandSt) : (d.onBand f).ict = d.ict := rfl
@[simp] theorem Dev.flt_onBand (d : Dev) (f : BandSt → BandSt) : (d.onBand f).flt = d.flt := rfl
@[simp] theorem Dev.alm_onBand (d : Dev) (f : BandSt → BandSt) : (d.onBand f).alm = d.alm := rfl
@[simp] theorem Dev.timestamp_onBand (d : Dev) (f : BandSt → BandSt) : (d.onBand f).timestamp = d.timestamp := rfl
@[simp] theorem Dev.srv_onBand (d : Dev) (f : BandSt → BandSt) : (d.onBand f).srv = d.srv := rfl
@[simp] theorem Dev.wls_onBand (d : Dev) (f : BandSt → BandSt) : (d.onBand f).wls = d.wls := rfl
@[simp] theorem Dev.fmt_onBand (d : Dev) (f : BandSt → BandSt) : (d.onBand f).fmt = d.fmt := rfl
@[simp] theorem Dev.tok_onBand (d : Dev) (f : BandSt → BandSt) : (d.onBand f).tok = d.tok := rfl
@[simp] theorem Dev.arms_onBand (d : Dev) (f : BandSt → BandSt) : (d.onBand f).arms = d.arms := rfl
@[simp] theorem Dev.lanes_onBand (d : Dev) (f : BandSt → BandSt) : (d.onBand f).lanes = d.lanes := rfl
@[simp] theorem Dev.out_onBand (d : Dev) (f : BandSt → BandSt) : (d.onBand f).out = d.out := rfl
@[simp] theorem Dev.grpq_onBand (d : Dev) (f : BandSt → BandSt) : (d.onBand f).grpq = d.grpq := rfl
@[simp] theorem Dev.cs_onBand (d : Dev) (f : BandSt → BandSt) : (d.onBand f).cs = d.cs := rfl
@[simp] theorem Dev.zones_onBand (d : Dev) (f : BandSt → BandSt) : (d.onBand f).zones = d.zones := rfl
@[simp] theorem Dev.nw_onBand (d : Dev) (f : BandSt → BandSt) : (d.onBand f).nw = d.nw := rfl
@[simp] theorem Dev.pwrfail_onBand (d : Dev) (f : BandSt → BandSt) : (d.onBand f).pwrfail = d.pwrfail := rfl
@[simp] theorem Dev.mem_onBand (d : Dev) (f : BandSt → BandSt) : (d.onBand f).mem = d.mem := rfl
@[simp] theorem Dev.bpm_onBand (d : Dev) (f : BandSt → BandSt) : (d.onBand f).bpm = d.bpm := rfl
@[simp] theorem Dev.jobs_onBand (d : Dev) (f : BandSt → BandSt) : (d.onBand f).jobs = d.jobs := rfl
@[simp] theorem Dev.hst_onBand (d : Dev) (f : BandSt → BandSt) : (d.onBand f).hst = d.hst := rfl
@[simp] theorem Dev.band_onBand (d : Dev) (f : BandSt → BandSt) : (d.onBand f).band = f d.band := rfl
@[simp] theorem Dev.media_onBand (d : Dev) (f : BandSt → BandSt) : (d.onBand f).media = d.media := rfl
@[simp] theorem Dev.que_onBand (d : Dev) (f : BandSt → BandSt) : (d.onBand f).que = d.que := rfl
@[simp] theorem Dev.spn_onBand (d : Dev) (f : BandSt → BandSt) : (d.onBand f).spn = d.spn := rfl
@[simp] theorem Dev.rmt_onBand (d : Dev) (f : BandSt → BandSt) : (d.onBand f).rmt = d.rmt := rfl
@[simp] theorem Dev.seq_onBand (d : Dev) (f : BandSt → BandSt) : (d.onBand f).seq = d.seq := rfl
@[simp] theorem Dev.sec_onBand (d : Dev) (f : BandSt → BandSt) : (d.onBand f).sec = d.sec := rfl
@[simp] theorem Dev.trc_onBand (d : Dev) (f : BandSt → BandSt) : (d.onBand f).trc = d.trc := rfl
@[simp] theorem Dev.flash_onBand (d : Dev) (f : BandSt → BandSt) : (d.onBand f).flash = d.flash := rfl

/-! ### que: Dev.onQue -/

@[simp] theorem Dev.regs_onQue (d : Dev) (f : QueSt → QueSt) : (d.onQue f).regs = d.regs := rfl
@[simp] theorem Dev.now_onQue (d : Dev) (f : QueSt → QueSt) : (d.onQue f).now = d.now := rfl
@[simp] theorem Dev.fresh_onQue (d : Dev) (f : QueSt → QueSt) : (d.onQue f).fresh = d.fresh := rfl
@[simp] theorem Dev.bus_onQue (d : Dev) (f : QueSt → QueSt) : (d.onQue f).bus = d.bus := rfl
@[simp] theorem Dev.ict_onQue (d : Dev) (f : QueSt → QueSt) : (d.onQue f).ict = d.ict := rfl
@[simp] theorem Dev.flt_onQue (d : Dev) (f : QueSt → QueSt) : (d.onQue f).flt = d.flt := rfl
@[simp] theorem Dev.alm_onQue (d : Dev) (f : QueSt → QueSt) : (d.onQue f).alm = d.alm := rfl
@[simp] theorem Dev.timestamp_onQue (d : Dev) (f : QueSt → QueSt) : (d.onQue f).timestamp = d.timestamp := rfl
@[simp] theorem Dev.srv_onQue (d : Dev) (f : QueSt → QueSt) : (d.onQue f).srv = d.srv := rfl
@[simp] theorem Dev.wls_onQue (d : Dev) (f : QueSt → QueSt) : (d.onQue f).wls = d.wls := rfl
@[simp] theorem Dev.fmt_onQue (d : Dev) (f : QueSt → QueSt) : (d.onQue f).fmt = d.fmt := rfl
@[simp] theorem Dev.tok_onQue (d : Dev) (f : QueSt → QueSt) : (d.onQue f).tok = d.tok := rfl
@[simp] theorem Dev.arms_onQue (d : Dev) (f : QueSt → QueSt) : (d.onQue f).arms = d.arms := rfl
@[simp] theorem Dev.lanes_onQue (d : Dev) (f : QueSt → QueSt) : (d.onQue f).lanes = d.lanes := rfl
@[simp] theorem Dev.out_onQue (d : Dev) (f : QueSt → QueSt) : (d.onQue f).out = d.out := rfl
@[simp] theorem Dev.grpq_onQue (d : Dev) (f : QueSt → QueSt) : (d.onQue f).grpq = d.grpq := rfl
@[simp] theorem Dev.cs_onQue (d : Dev) (f : QueSt → QueSt) : (d.onQue f).cs = d.cs := rfl
@[simp] theorem Dev.zones_onQue (d : Dev) (f : QueSt → QueSt) : (d.onQue f).zones = d.zones := rfl
@[simp] theorem Dev.nw_onQue (d : Dev) (f : QueSt → QueSt) : (d.onQue f).nw = d.nw := rfl
@[simp] theorem Dev.pwrfail_onQue (d : Dev) (f : QueSt → QueSt) : (d.onQue f).pwrfail = d.pwrfail := rfl
@[simp] theorem Dev.mem_onQue (d : Dev) (f : QueSt → QueSt) : (d.onQue f).mem = d.mem := rfl
@[simp] theorem Dev.bpm_onQue (d : Dev) (f : QueSt → QueSt) : (d.onQue f).bpm = d.bpm := rfl
@[simp] theorem Dev.jobs_onQue (d : Dev) (f : QueSt → QueSt) : (d.onQue f).jobs = d.jobs := rfl
@[simp] theorem Dev.hst_onQue (d : Dev) (f : QueSt → QueSt) : (d.onQue f).hst = d.hst := rfl
@[simp] theorem Dev.band_onQue (d : Dev) (f : QueSt → QueSt) : (d.onQue f).band = d.band := rfl
@[simp] theorem Dev.media_onQue (d : Dev) (f : QueSt → QueSt) : (d.onQue f).media = d.media := rfl
@[simp] theorem Dev.que_onQue (d : Dev) (f : QueSt → QueSt) : (d.onQue f).que = f d.que := rfl
@[simp] theorem Dev.spn_onQue (d : Dev) (f : QueSt → QueSt) : (d.onQue f).spn = d.spn := rfl
@[simp] theorem Dev.rmt_onQue (d : Dev) (f : QueSt → QueSt) : (d.onQue f).rmt = d.rmt := rfl
@[simp] theorem Dev.seq_onQue (d : Dev) (f : QueSt → QueSt) : (d.onQue f).seq = d.seq := rfl
@[simp] theorem Dev.sec_onQue (d : Dev) (f : QueSt → QueSt) : (d.onQue f).sec = d.sec := rfl
@[simp] theorem Dev.trc_onQue (d : Dev) (f : QueSt → QueSt) : (d.onQue f).trc = d.trc := rfl
@[simp] theorem Dev.flash_onQue (d : Dev) (f : QueSt → QueSt) : (d.onQue f).flash = d.flash := rfl

/-! ### spn: Dev.onSpn -/

@[simp] theorem Dev.regs_onSpn (d : Dev) (f : Spn → Spn) : (d.onSpn f).regs = d.regs := rfl
@[simp] theorem Dev.now_onSpn (d : Dev) (f : Spn → Spn) : (d.onSpn f).now = d.now := rfl
@[simp] theorem Dev.fresh_onSpn (d : Dev) (f : Spn → Spn) : (d.onSpn f).fresh = d.fresh := rfl
@[simp] theorem Dev.bus_onSpn (d : Dev) (f : Spn → Spn) : (d.onSpn f).bus = d.bus := rfl
@[simp] theorem Dev.ict_onSpn (d : Dev) (f : Spn → Spn) : (d.onSpn f).ict = d.ict := rfl
@[simp] theorem Dev.flt_onSpn (d : Dev) (f : Spn → Spn) : (d.onSpn f).flt = d.flt := rfl
@[simp] theorem Dev.alm_onSpn (d : Dev) (f : Spn → Spn) : (d.onSpn f).alm = d.alm := rfl
@[simp] theorem Dev.timestamp_onSpn (d : Dev) (f : Spn → Spn) : (d.onSpn f).timestamp = d.timestamp := rfl
@[simp] theorem Dev.srv_onSpn (d : Dev) (f : Spn → Spn) : (d.onSpn f).srv = d.srv := rfl
@[simp] theorem Dev.wls_onSpn (d : Dev) (f : Spn → Spn) : (d.onSpn f).wls = d.wls := rfl
@[simp] theorem Dev.fmt_onSpn (d : Dev) (f : Spn → Spn) : (d.onSpn f).fmt = d.fmt := rfl
@[simp] theorem Dev.tok_onSpn (d : Dev) (f : Spn → Spn) : (d.onSpn f).tok = d.tok := rfl
@[simp] theorem Dev.arms_onSpn (d : Dev) (f : Spn → Spn) : (d.onSpn f).arms = d.arms := rfl
@[simp] theorem Dev.lanes_onSpn (d : Dev) (f : Spn → Spn) : (d.onSpn f).lanes = d.lanes := rfl
@[simp] theorem Dev.out_onSpn (d : Dev) (f : Spn → Spn) : (d.onSpn f).out = d.out := rfl
@[simp] theorem Dev.grpq_onSpn (d : Dev) (f : Spn → Spn) : (d.onSpn f).grpq = d.grpq := rfl
@[simp] theorem Dev.cs_onSpn (d : Dev) (f : Spn → Spn) : (d.onSpn f).cs = d.cs := rfl
@[simp] theorem Dev.zones_onSpn (d : Dev) (f : Spn → Spn) : (d.onSpn f).zones = d.zones := rfl
@[simp] theorem Dev.nw_onSpn (d : Dev) (f : Spn → Spn) : (d.onSpn f).nw = d.nw := rfl
@[simp] theorem Dev.pwrfail_onSpn (d : Dev) (f : Spn → Spn) : (d.onSpn f).pwrfail = d.pwrfail := rfl
@[simp] theorem Dev.mem_onSpn (d : Dev) (f : Spn → Spn) : (d.onSpn f).mem = d.mem := rfl
@[simp] theorem Dev.bpm_onSpn (d : Dev) (f : Spn → Spn) : (d.onSpn f).bpm = d.bpm := rfl
@[simp] theorem Dev.jobs_onSpn (d : Dev) (f : Spn → Spn) : (d.onSpn f).jobs = d.jobs := rfl
@[simp] theorem Dev.hst_onSpn (d : Dev) (f : Spn → Spn) : (d.onSpn f).hst = d.hst := rfl
@[simp] theorem Dev.band_onSpn (d : Dev) (f : Spn → Spn) : (d.onSpn f).band = d.band := rfl
@[simp] theorem Dev.media_onSpn (d : Dev) (f : Spn → Spn) : (d.onSpn f).media = d.media := rfl
@[simp] theorem Dev.que_onSpn (d : Dev) (f : Spn → Spn) : (d.onSpn f).que = d.que := rfl
@[simp] theorem Dev.spn_onSpn (d : Dev) (f : Spn → Spn) : (d.onSpn f).spn = f d.spn := rfl
@[simp] theorem Dev.rmt_onSpn (d : Dev) (f : Spn → Spn) : (d.onSpn f).rmt = d.rmt := rfl
@[simp] theorem Dev.seq_onSpn (d : Dev) (f : Spn → Spn) : (d.onSpn f).seq = d.seq := rfl
@[simp] theorem Dev.sec_onSpn (d : Dev) (f : Spn → Spn) : (d.onSpn f).sec = d.sec := rfl
@[simp] theorem Dev.trc_onSpn (d : Dev) (f : Spn → Spn) : (d.onSpn f).trc = d.trc := rfl
@[simp] theorem Dev.flash_onSpn (d : Dev) (f : Spn → Spn) : (d.onSpn f).flash = d.flash := rfl

/-! ### seq: Dev.onSeq -/

@[simp] theorem Dev.regs_onSeq (d : Dev) (f : SeqSt → SeqSt) : (d.onSeq f).regs = d.regs := rfl
@[simp] theorem Dev.now_onSeq (d : Dev) (f : SeqSt → SeqSt) : (d.onSeq f).now = d.now := rfl
@[simp] theorem Dev.fresh_onSeq (d : Dev) (f : SeqSt → SeqSt) : (d.onSeq f).fresh = d.fresh := rfl
@[simp] theorem Dev.bus_onSeq (d : Dev) (f : SeqSt → SeqSt) : (d.onSeq f).bus = d.bus := rfl
@[simp] theorem Dev.ict_onSeq (d : Dev) (f : SeqSt → SeqSt) : (d.onSeq f).ict = d.ict := rfl
@[simp] theorem Dev.flt_onSeq (d : Dev) (f : SeqSt → SeqSt) : (d.onSeq f).flt = d.flt := rfl
@[simp] theorem Dev.alm_onSeq (d : Dev) (f : SeqSt → SeqSt) : (d.onSeq f).alm = d.alm := rfl
@[simp] theorem Dev.timestamp_onSeq (d : Dev) (f : SeqSt → SeqSt) : (d.onSeq f).timestamp = d.timestamp := rfl
@[simp] theorem Dev.srv_onSeq (d : Dev) (f : SeqSt → SeqSt) : (d.onSeq f).srv = d.srv := rfl
@[simp] theorem Dev.wls_onSeq (d : Dev) (f : SeqSt → SeqSt) : (d.onSeq f).wls = d.wls := rfl
@[simp] theorem Dev.fmt_onSeq (d : Dev) (f : SeqSt → SeqSt) : (d.onSeq f).fmt = d.fmt := rfl
@[simp] theorem Dev.tok_onSeq (d : Dev) (f : SeqSt → SeqSt) : (d.onSeq f).tok = d.tok := rfl
@[simp] theorem Dev.arms_onSeq (d : Dev) (f : SeqSt → SeqSt) : (d.onSeq f).arms = d.arms := rfl
@[simp] theorem Dev.lanes_onSeq (d : Dev) (f : SeqSt → SeqSt) : (d.onSeq f).lanes = d.lanes := rfl
@[simp] theorem Dev.out_onSeq (d : Dev) (f : SeqSt → SeqSt) : (d.onSeq f).out = d.out := rfl
@[simp] theorem Dev.grpq_onSeq (d : Dev) (f : SeqSt → SeqSt) : (d.onSeq f).grpq = d.grpq := rfl
@[simp] theorem Dev.cs_onSeq (d : Dev) (f : SeqSt → SeqSt) : (d.onSeq f).cs = d.cs := rfl
@[simp] theorem Dev.zones_onSeq (d : Dev) (f : SeqSt → SeqSt) : (d.onSeq f).zones = d.zones := rfl
@[simp] theorem Dev.nw_onSeq (d : Dev) (f : SeqSt → SeqSt) : (d.onSeq f).nw = d.nw := rfl
@[simp] theorem Dev.pwrfail_onSeq (d : Dev) (f : SeqSt → SeqSt) : (d.onSeq f).pwrfail = d.pwrfail := rfl
@[simp] theorem Dev.mem_onSeq (d : Dev) (f : SeqSt → SeqSt) : (d.onSeq f).mem = d.mem := rfl
@[simp] theorem Dev.bpm_onSeq (d : Dev) (f : SeqSt → SeqSt) : (d.onSeq f).bpm = d.bpm := rfl
@[simp] theorem Dev.jobs_onSeq (d : Dev) (f : SeqSt → SeqSt) : (d.onSeq f).jobs = d.jobs := rfl
@[simp] theorem Dev.hst_onSeq (d : Dev) (f : SeqSt → SeqSt) : (d.onSeq f).hst = d.hst := rfl
@[simp] theorem Dev.band_onSeq (d : Dev) (f : SeqSt → SeqSt) : (d.onSeq f).band = d.band := rfl
@[simp] theorem Dev.media_onSeq (d : Dev) (f : SeqSt → SeqSt) : (d.onSeq f).media = d.media := rfl
@[simp] theorem Dev.que_onSeq (d : Dev) (f : SeqSt → SeqSt) : (d.onSeq f).que = d.que := rfl
@[simp] theorem Dev.spn_onSeq (d : Dev) (f : SeqSt → SeqSt) : (d.onSeq f).spn = d.spn := rfl
@[simp] theorem Dev.rmt_onSeq (d : Dev) (f : SeqSt → SeqSt) : (d.onSeq f).rmt = d.rmt := rfl
@[simp] theorem Dev.seq_onSeq (d : Dev) (f : SeqSt → SeqSt) : (d.onSeq f).seq = f d.seq := rfl
@[simp] theorem Dev.sec_onSeq (d : Dev) (f : SeqSt → SeqSt) : (d.onSeq f).sec = d.sec := rfl
@[simp] theorem Dev.trc_onSeq (d : Dev) (f : SeqSt → SeqSt) : (d.onSeq f).trc = d.trc := rfl
@[simp] theorem Dev.flash_onSeq (d : Dev) (f : SeqSt → SeqSt) : (d.onSeq f).flash = d.flash := rfl

/-! ### srv: Dev.onSrv -/

@[simp] theorem Dev.regs_onSrv (d : Dev) (g : Grp) (f : Srv → Srv) : (d.onSrv g f).regs = d.regs := rfl
@[simp] theorem Dev.now_onSrv (d : Dev) (g : Grp) (f : Srv → Srv) : (d.onSrv g f).now = d.now := rfl
@[simp] theorem Dev.fresh_onSrv (d : Dev) (g : Grp) (f : Srv → Srv) : (d.onSrv g f).fresh = d.fresh := rfl
@[simp] theorem Dev.bus_onSrv (d : Dev) (g : Grp) (f : Srv → Srv) : (d.onSrv g f).bus = d.bus := rfl
@[simp] theorem Dev.ict_onSrv (d : Dev) (g : Grp) (f : Srv → Srv) : (d.onSrv g f).ict = d.ict := rfl
@[simp] theorem Dev.flt_onSrv (d : Dev) (g : Grp) (f : Srv → Srv) : (d.onSrv g f).flt = d.flt := rfl
@[simp] theorem Dev.alm_onSrv (d : Dev) (g : Grp) (f : Srv → Srv) : (d.onSrv g f).alm = d.alm := rfl
@[simp] theorem Dev.timestamp_onSrv (d : Dev) (g : Grp) (f : Srv → Srv) : (d.onSrv g f).timestamp = d.timestamp := rfl
@[simp] theorem Dev.srv_onSrv (d : Dev) (g : Grp) (f : Srv → Srv) : (d.onSrv g f).srv = upd d.srv g f := rfl
@[simp] theorem Dev.wls_onSrv (d : Dev) (g : Grp) (f : Srv → Srv) : (d.onSrv g f).wls = d.wls := rfl
@[simp] theorem Dev.fmt_onSrv (d : Dev) (g : Grp) (f : Srv → Srv) : (d.onSrv g f).fmt = d.fmt := rfl
@[simp] theorem Dev.tok_onSrv (d : Dev) (g : Grp) (f : Srv → Srv) : (d.onSrv g f).tok = d.tok := rfl
@[simp] theorem Dev.arms_onSrv (d : Dev) (g : Grp) (f : Srv → Srv) : (d.onSrv g f).arms = d.arms := rfl
@[simp] theorem Dev.lanes_onSrv (d : Dev) (g : Grp) (f : Srv → Srv) : (d.onSrv g f).lanes = d.lanes := rfl
@[simp] theorem Dev.out_onSrv (d : Dev) (g : Grp) (f : Srv → Srv) : (d.onSrv g f).out = d.out := rfl
@[simp] theorem Dev.grpq_onSrv (d : Dev) (g : Grp) (f : Srv → Srv) : (d.onSrv g f).grpq = d.grpq := rfl
@[simp] theorem Dev.cs_onSrv (d : Dev) (g : Grp) (f : Srv → Srv) : (d.onSrv g f).cs = d.cs := rfl
@[simp] theorem Dev.zones_onSrv (d : Dev) (g : Grp) (f : Srv → Srv) : (d.onSrv g f).zones = d.zones := rfl
@[simp] theorem Dev.nw_onSrv (d : Dev) (g : Grp) (f : Srv → Srv) : (d.onSrv g f).nw = d.nw := rfl
@[simp] theorem Dev.pwrfail_onSrv (d : Dev) (g : Grp) (f : Srv → Srv) : (d.onSrv g f).pwrfail = d.pwrfail := rfl
@[simp] theorem Dev.mem_onSrv (d : Dev) (g : Grp) (f : Srv → Srv) : (d.onSrv g f).mem = d.mem := rfl
@[simp] theorem Dev.bpm_onSrv (d : Dev) (g : Grp) (f : Srv → Srv) : (d.onSrv g f).bpm = d.bpm := rfl
@[simp] theorem Dev.jobs_onSrv (d : Dev) (g : Grp) (f : Srv → Srv) : (d.onSrv g f).jobs = d.jobs := rfl
@[simp] theorem Dev.hst_onSrv (d : Dev) (g : Grp) (f : Srv → Srv) : (d.onSrv g f).hst = d.hst := rfl
@[simp] theorem Dev.band_onSrv (d : Dev) (g : Grp) (f : Srv → Srv) : (d.onSrv g f).band = d.band := rfl
@[simp] theorem Dev.media_onSrv (d : Dev) (g : Grp) (f : Srv → Srv) : (d.onSrv g f).media = d.media := rfl
@[simp] theorem Dev.que_onSrv (d : Dev) (g : Grp) (f : Srv → Srv) : (d.onSrv g f).que = d.que := rfl
@[simp] theorem Dev.spn_onSrv (d : Dev) (g : Grp) (f : Srv → Srv) : (d.onSrv g f).spn = d.spn := rfl
@[simp] theorem Dev.rmt_onSrv (d : Dev) (g : Grp) (f : Srv → Srv) : (d.onSrv g f).rmt = d.rmt := rfl
@[simp] theorem Dev.seq_onSrv (d : Dev) (g : Grp) (f : Srv → Srv) : (d.onSrv g f).seq = d.seq := rfl
@[simp] theorem Dev.sec_onSrv (d : Dev) (g : Grp) (f : Srv → Srv) : (d.onSrv g f).sec = d.sec := rfl
@[simp] theorem Dev.trc_onSrv (d : Dev) (g : Grp) (f : Srv → Srv) : (d.onSrv g f).trc = d.trc := rfl
@[simp] theorem Dev.flash_onSrv (d : Dev) (g : Grp) (f : Srv → Srv) : (d.onSrv g f).flash = d.flash := rfl

/-! ### wls: Dev.onWls -/

@[simp] theorem Dev.regs_onWls (d : Dev) (g : Grp) (f : Wls → Wls) : (d.onWls g f).regs = d.regs := rfl
@[simp] theorem Dev.now_onWls (d : Dev) (g : Grp) (f : Wls → Wls) : (d.onWls g f).now = d.now := rfl
@[simp] theorem Dev.fresh_onWls (d : Dev) (g : Grp) (f : Wls → Wls) : (d.onWls g f).fresh = d.fresh := rfl
@[simp] theorem Dev.bus_onWls (d : Dev) (g : Grp) (f : Wls → Wls) : (d.onWls g f).bus = d.bus := rfl
@[simp] theorem Dev.ict_onWls (d : Dev) (g : Grp) (f : Wls → Wls) : (d.onWls g f).ict = d.ict := rfl
@[simp] theorem Dev.flt_onWls (d : Dev) (g : Grp) (f : Wls → Wls) : (d.onWls g f).flt = d.flt := rfl
@[simp] theorem Dev.alm_onWls (d : Dev) (g : Grp) (f : Wls → Wls) : (d.onWls g f).alm = d.alm := rfl
@[simp] theorem Dev.timestamp_onWls (d : Dev) (g : Grp) (f : Wls → Wls) : (d.onWls g f).timestamp = d.timestamp := rfl
@[simp] theorem Dev.srv_onWls (d : Dev) (g : Grp) (f : Wls → Wls) : (d.onWls g f).srv = d.srv := rfl
@[simp] theorem Dev.wls_onWls (d : Dev) (g : Grp) (f : Wls → Wls) : (d.onWls g f).wls = upd d.wls g f := rfl
@[simp] theorem Dev.fmt_onWls (d : Dev) (g : Grp) (f : Wls → Wls) : (d.onWls g f).fmt = d.fmt := rfl
@[simp] theorem Dev.tok_onWls (d : Dev) (g : Grp) (f : Wls → Wls) : (d.onWls g f).tok = d.tok := rfl
@[simp] theorem Dev.arms_onWls (d : Dev) (g : Grp) (f : Wls → Wls) : (d.onWls g f).arms = d.arms := rfl
@[simp] theorem Dev.lanes_onWls (d : Dev) (g : Grp) (f : Wls → Wls) : (d.onWls g f).lanes = d.lanes := rfl
@[simp] theorem Dev.out_onWls (d : Dev) (g : Grp) (f : Wls → Wls) : (d.onWls g f).out = d.out := rfl
@[simp] theorem Dev.grpq_onWls (d : Dev) (g : Grp) (f : Wls → Wls) : (d.onWls g f).grpq = d.grpq := rfl
@[simp] theorem Dev.cs_onWls (d : Dev) (g : Grp) (f : Wls → Wls) : (d.onWls g f).cs = d.cs := rfl
@[simp] theorem Dev.zones_onWls (d : Dev) (g : Grp) (f : Wls → Wls) : (d.onWls g f).zones = d.zones := rfl
@[simp] theorem Dev.nw_onWls (d : Dev) (g : Grp) (f : Wls → Wls) : (d.onWls g f).nw = d.nw := rfl
@[simp] theorem Dev.pwrfail_onWls (d : Dev) (g : Grp) (f : Wls → Wls) : (d.onWls g f).pwrfail = d.pwrfail := rfl
@[simp] theorem Dev.mem_onWls (d : Dev) (g : Grp) (f : Wls → Wls) : (d.onWls g f).mem = d.mem := rfl
@[simp] theorem Dev.bpm_onWls (d : Dev) (g : Grp) (f : Wls → Wls) : (d.onWls g f).bpm = d.bpm := rfl
@[simp] theorem Dev.jobs_onWls (d : Dev) (g : Grp) (f : Wls → Wls) : (d.onWls g f).jobs = d.jobs := rfl
@[simp] theorem Dev.hst_onWls (d : Dev) (g : Grp) (f : Wls → Wls) : (d.onWls g f).hst = d.hst := rfl
@[simp] theorem Dev.band_onWls (d : Dev) (g : Grp) (f : Wls → Wls) : (d.onWls g f).band = d.band := rfl
@[simp] theorem Dev.media_onWls (d : Dev) (g : Grp) (f : Wls → Wls) : (d.onWls g f).media = d.media := rfl
@[simp] theorem Dev.que_onWls (d : Dev) (g : Grp) (f : Wls → Wls) : (d.onWls g f).que = d.que := rfl
@[simp] theorem Dev.spn_onWls (d : Dev) (g : Grp) (f : Wls → Wls) : (d.onWls g f).spn = d.spn := rfl
@[simp] theorem Dev.rmt_onWls (d : Dev) (g : Grp) (f : Wls → Wls) : (d.onWls g f).rmt = d.rmt := rfl
@[simp] theorem Dev.seq_onWls (d : Dev) (g : Grp) (f : Wls → Wls) : (d.onWls g f).seq = d.seq := rfl
@[simp] theorem Dev.sec_onWls (d : Dev) (g : Grp) (f : Wls → Wls) : (d.onWls g f).sec = d.sec := rfl
@[simp] theorem Dev.trc_onWls (d : Dev) (g : Grp) (f : Wls → Wls) : (d.onWls g f).trc = d.trc := rfl
@[simp] theorem Dev.flash_onWls (d : Dev) (g : Grp) (f : Wls → Wls) : (d.onWls g f).flash = d.flash := rfl

/-! ### fmt: Dev.onFmt -/

@[simp] theorem Dev.regs_onFmt (d : Dev) (g : Grp) (f : Fmt → Fmt) : (d.onFmt g f).regs = d.regs := rfl
@[simp] theorem Dev.now_onFmt (d : Dev) (g : Grp) (f : Fmt → Fmt) : (d.onFmt g f).now = d.now := rfl
@[simp] theorem Dev.fresh_onFmt (d : Dev) (g : Grp) (f : Fmt → Fmt) : (d.onFmt g f).fresh = d.fresh := rfl
@[simp] theorem Dev.bus_onFmt (d : Dev) (g : Grp) (f : Fmt → Fmt) : (d.onFmt g f).bus = d.bus := rfl
@[simp] theorem Dev.ict_onFmt (d : Dev) (g : Grp) (f : Fmt → Fmt) : (d.onFmt g f).ict = d.ict := rfl
@[simp] theorem Dev.flt_onFmt (d : Dev) (g : Grp) (f : Fmt → Fmt) : (d.onFmt g f).flt = d.flt := rfl
@[simp] theorem Dev.alm_onFmt (d : Dev) (g : Grp) (f : Fmt → Fmt) : (d.onFmt g f).alm = d.alm := rfl
@[simp] theorem Dev.timestamp_onFmt (d : Dev) (g : Grp) (f : Fmt → Fmt) : (d.onFmt g f).timestamp = d.timestamp := rfl
@[simp] theorem Dev.srv_onFmt (d : Dev) (g : Grp) (f : Fmt → Fmt) : (d.onFmt g f).srv = d.srv := rfl
@[simp] theorem Dev.wls_onFmt (d : Dev) (g : Grp) (f : Fmt → Fmt) : (d.onFmt g f).wls = d.wls := rfl
@[simp] theorem Dev.fmt_onFmt (d : Dev) (g : Grp) (f : Fmt → Fmt) : (d.onFmt g f).fmt = upd d.fmt g f := rfl
@[simp] theorem Dev.tok_onFmt (d : Dev) (g : Grp) (f : Fmt → Fmt) : (d.onFmt g f).tok = d.tok := rfl
@[simp] theorem Dev.arms_onFmt (d : Dev) (g : Grp) (f : Fmt → Fmt) : (d.onFmt g f).arms = d.arms := rfl
@[simp] theorem Dev.lanes_onFmt (d : Dev) (g : Grp) (f : Fmt → Fmt) : (d.onFmt g f).lanes = d.lanes := rfl
@[simp] theorem Dev.out_onFmt (d : Dev) (g : Grp) (f : Fmt → Fmt) : (d.onFmt g f).out = d.out := rfl
@[simp] theorem Dev.grpq_onFmt (d : Dev) (g : Grp) (f : Fmt → Fmt) : (d.onFmt g f).grpq = d.grpq := rfl
@[simp] theorem Dev.cs_onFmt (d : Dev) (g : Grp) (f : Fmt → Fmt) : (d.onFmt g f).cs = d.cs := rfl
@[simp] theorem Dev.zones_onFmt (d : Dev) (g : Grp) (f : Fmt → Fmt) : (d.onFmt g f).zones = d.zones := rfl
@[simp] theorem Dev.nw_onFmt (d : Dev) (g : Grp) (f : Fmt → Fmt) : (d.onFmt g f).nw = d.nw := rfl
@[simp] theorem Dev.pwrfail_onFmt (d : Dev) (g : Grp) (f : Fmt → Fmt) : (d.onFmt g f).pwrfail = d.pwrfail := rfl
@[simp] theorem Dev.mem_onFmt (d : Dev) (g : Grp) (f : Fmt → Fmt) : (d.onFmt g f).mem = d.mem := rfl
@[simp] theorem Dev.bpm_onFmt (d : Dev) (g : Grp) (f : Fmt → Fmt) : (d.onFmt g f).bpm = d.bpm := rfl
@[simp] theorem Dev.jobs_onFmt (d : Dev) (g : Grp) (f : Fmt → Fmt) : (d.onFmt g f).jobs = d.jobs := rfl
@[simp] theorem Dev.hst_onFmt (d : Dev) (g : Grp) (f : Fmt → Fmt) : (d.onFmt g f).hst = d.hst := rfl
@[simp] theorem Dev.band_onFmt (d : Dev) (g : Grp) (f : Fmt → Fmt) : (d.onFmt g f).band = d.band := rfl
@[simp] theorem Dev.media_onFmt (d : Dev) (g : Grp) (f : Fmt → Fmt) : (d.onFmt g f).media = d.media := rfl
@[simp] theorem Dev.que_onFmt (d : Dev) (g : Grp) (f : Fmt → Fmt) : (d.onFmt g f).que = d.que := rfl
@[simp] theorem Dev.spn_onFmt (d : Dev) (g : Grp) (f : Fmt → Fmt) : (d.onFmt g f).spn = d.spn := rfl
@[simp] theorem Dev.rmt_onFmt (d : Dev) (g : Grp) (f : Fmt → Fmt) : (d.onFmt g f).rmt = d.rmt := rfl
@[simp] theorem Dev.seq_onFmt (d : Dev) (g : Grp) (f : Fmt → Fmt) : (d.onFmt g f).seq = d.seq := rfl
@[simp] theorem Dev.sec_onFmt (d : Dev) (g : Grp) (f : Fmt → Fmt) : (d.onFmt g f).sec = d.sec := rfl
@[simp] theorem Dev.trc_onFmt (d : Dev) (g : Grp) (f : Fmt → Fmt) : (d.onFmt g f).trc = d.trc := rfl
@[simp] theorem Dev.flash_onFmt (d : Dev) (g : Grp) (f : Fmt → Fmt) : (d.onFmt g f).flash = d.flash := rfl

/-! ### grpq: Dev.onGrpq -/

@[simp] theorem Dev.regs_onGrpq (d : Dev) (g : Grp) (f : GroupQ → GroupQ) : (d.onGrpq g f).regs = d.regs := rfl
@[simp] theorem Dev.now_onGrpq (d : Dev) (g : Grp) (f : GroupQ → GroupQ) : (d.onGrpq g f).now = d.now := rfl
@[simp] theorem Dev.fresh_onGrpq (d : Dev) (g : Grp) (f : GroupQ → GroupQ) : (d.onGrpq g f).fresh = d.fresh := rfl
@[simp] theorem Dev.bus_onGrpq (d : Dev) (g : Grp) (f : GroupQ → GroupQ) : (d.onGrpq g f).bus = d.bus := rfl
@[simp] theorem Dev.ict_onGrpq (d : Dev) (g : Grp) (f : GroupQ → GroupQ) : (d.onGrpq g f).ict = d.ict := rfl
@[simp] theorem Dev.flt_onGrpq (d : Dev) (g : Grp) (f : GroupQ → GroupQ) : (d.onGrpq g f).flt = d.flt := rfl
@[simp] theorem Dev.alm_onGrpq (d : Dev) (g : Grp) (f : GroupQ → GroupQ) : (d.onGrpq g f).alm = d.alm := rfl
@[simp] theorem Dev.timestamp_onGrpq (d : Dev) (g : Grp) (f : GroupQ → GroupQ) : (d.onGrpq g f).timestamp = d.timestamp := rfl
@[simp] theorem Dev.srv_onGrpq (d : Dev) (g : Grp) (f : GroupQ → GroupQ) : (d.onGrpq g f).srv = d.srv := rfl
@[simp] theorem Dev.wls_onGrpq (d : Dev) (g : Grp) (f : GroupQ → GroupQ) : (d.onGrpq g f).wls = d.wls := rfl
@[simp] theorem Dev.fmt_onGrpq (d : Dev) (g : Grp) (f : GroupQ → GroupQ) : (d.onGrpq g f).fmt = d.fmt := rfl
@[simp] theorem Dev.tok_onGrpq (d : Dev) (g : Grp) (f : GroupQ → GroupQ) : (d.onGrpq g f).tok = d.tok := rfl
@[simp] theorem Dev.arms_onGrpq (d : Dev) (g : Grp) (f : GroupQ → GroupQ) : (d.onGrpq g f).arms = d.arms := rfl
@[simp] theorem Dev.lanes_onGrpq (d : Dev) (g : Grp) (f : GroupQ → GroupQ) : (d.onGrpq g f).lanes = d.lanes := rfl
@[simp] theorem Dev.out_onGrpq (d : Dev) (g : Grp) (f : GroupQ → GroupQ) : (d.onGrpq g f).out = d.out := rfl
@[simp] theorem Dev.grpq_onGrpq (d : Dev) (g : Grp) (f : GroupQ → GroupQ) : (d.onGrpq g f).grpq = upd d.grpq g f := rfl
@[simp] theorem Dev.cs_onGrpq (d : Dev) (g : Grp) (f : GroupQ → GroupQ) : (d.onGrpq g f).cs = d.cs := rfl
@[simp] theorem Dev.zones_onGrpq (d : Dev) (g : Grp) (f : GroupQ → GroupQ) : (d.onGrpq g f).zones = d.zones := rfl
@[simp] theorem Dev.nw_onGrpq (d : Dev) (g : Grp) (f : GroupQ → GroupQ) : (d.onGrpq g f).nw = d.nw := rfl
@[simp] theorem Dev.pwrfail_onGrpq (d : Dev) (g : Grp) (f : GroupQ → GroupQ) : (d.onGrpq g f).pwrfail = d.pwrfail := rfl
@[simp] theorem Dev.mem_onGrpq (d : Dev) (g : Grp) (f : GroupQ → GroupQ) : (d.onGrpq g f).mem = d.mem := rfl
@[simp] theorem Dev.bpm_onGrpq (d : Dev) (g : Grp) (f : GroupQ → GroupQ) : (d.onGrpq g f).bpm = d.bpm := rfl
@[simp] theorem Dev.jobs_onGrpq (d : Dev) (g : Grp) (f : GroupQ → GroupQ) : (d.onGrpq g f).jobs = d.jobs := rfl
@[simp] theorem Dev.hst_onGrpq (d : Dev) (g : Grp) (f : GroupQ → GroupQ) : (d.onGrpq g f).hst = d.hst := rfl
@[simp] theorem Dev.band_onGrpq (d : Dev) (g : Grp) (f : GroupQ → GroupQ) : (d.onGrpq g f).band = d.band := rfl
@[simp] theorem Dev.media_onGrpq (d : Dev) (g : Grp) (f : GroupQ → GroupQ) : (d.onGrpq g f).media = d.media := rfl
@[simp] theorem Dev.que_onGrpq (d : Dev) (g : Grp) (f : GroupQ → GroupQ) : (d.onGrpq g f).que = d.que := rfl
@[simp] theorem Dev.spn_onGrpq (d : Dev) (g : Grp) (f : GroupQ → GroupQ) : (d.onGrpq g f).spn = d.spn := rfl
@[simp] theorem Dev.rmt_onGrpq (d : Dev) (g : Grp) (f : GroupQ → GroupQ) : (d.onGrpq g f).rmt = d.rmt := rfl
@[simp] theorem Dev.seq_onGrpq (d : Dev) (g : Grp) (f : GroupQ → GroupQ) : (d.onGrpq g f).seq = d.seq := rfl
@[simp] theorem Dev.sec_onGrpq (d : Dev) (g : Grp) (f : GroupQ → GroupQ) : (d.onGrpq g f).sec = d.sec := rfl
@[simp] theorem Dev.trc_onGrpq (d : Dev) (g : Grp) (f : GroupQ → GroupQ) : (d.onGrpq g f).trc = d.trc := rfl
@[simp] theorem Dev.flash_onGrpq (d : Dev) (g : Grp) (f : GroupQ → GroupQ) : (d.onGrpq g f).flash = d.flash := rfl

/-! ### arms: Dev.onArms -/

@[simp] theorem Dev.regs_onArms (d : Dev) (n : LaneId) (f : List Arm → List Arm) : (d.onArms n f).regs = d.regs := rfl
@[simp] theorem Dev.now_onArms (d : Dev) (n : LaneId) (f : List Arm → List Arm) : (d.onArms n f).now = d.now := rfl
@[simp] theorem Dev.fresh_onArms (d : Dev) (n : LaneId) (f : List Arm → List Arm) : (d.onArms n f).fresh = d.fresh := rfl
@[simp] theorem Dev.bus_onArms (d : Dev) (n : LaneId) (f : List Arm → List Arm) : (d.onArms n f).bus = d.bus := rfl
@[simp] theorem Dev.ict_onArms (d : Dev) (n : LaneId) (f : List Arm → List Arm) : (d.onArms n f).ict = d.ict := rfl
@[simp] theorem Dev.flt_onArms (d : Dev) (n : LaneId) (f : List Arm → List Arm) : (d.onArms n f).flt = d.flt := rfl
@[simp] theorem Dev.alm_onArms (d : Dev) (n : LaneId) (f : List Arm → List Arm) : (d.onArms n f).alm = d.alm := rfl
@[simp] theorem Dev.timestamp_onArms (d : Dev) (n : LaneId) (f : List Arm → List Arm) : (d.onArms n f).timestamp = d.timestamp := rfl
@[simp] theorem Dev.srv_onArms (d : Dev) (n : LaneId) (f : List Arm → List Arm) : (d.onArms n f).srv = d.srv := rfl
@[simp] theorem Dev.wls_onArms (d : Dev) (n : LaneId) (f : List Arm → List Arm) : (d.onArms n f).wls = d.wls := rfl
@[simp] theorem Dev.fmt_onArms (d : Dev) (n : LaneId) (f : List Arm → List Arm) : (d.onArms n f).fmt = d.fmt := rfl
@[simp] theorem Dev.tok_onArms (d : Dev) (n : LaneId) (f : List Arm → List Arm) : (d.onArms n f).tok = d.tok := rfl
@[simp] theorem Dev.arms_onArms (d : Dev) (n : LaneId) (f : List Arm → List Arm) : (d.onArms n f).arms = upd d.arms n f := rfl
@[simp] theorem Dev.lanes_onArms (d : Dev) (n : LaneId) (f : List Arm → List Arm) : (d.onArms n f).lanes = d.lanes := rfl
@[simp] theorem Dev.out_onArms (d : Dev) (n : LaneId) (f : List Arm → List Arm) : (d.onArms n f).out = d.out := rfl
@[simp] theorem Dev.grpq_onArms (d : Dev) (n : LaneId) (f : List Arm → List Arm) : (d.onArms n f).grpq = d.grpq := rfl
@[simp] theorem Dev.cs_onArms (d : Dev) (n : LaneId) (f : List Arm → List Arm) : (d.onArms n f).cs = d.cs := rfl
@[simp] theorem Dev.zones_onArms (d : Dev) (n : LaneId) (f : List Arm → List Arm) : (d.onArms n f).zones = d.zones := rfl
@[simp] theorem Dev.nw_onArms (d : Dev) (n : LaneId) (f : List Arm → List Arm) : (d.onArms n f).nw = d.nw := rfl
@[simp] theorem Dev.pwrfail_onArms (d : Dev) (n : LaneId) (f : List Arm → List Arm) : (d.onArms n f).pwrfail = d.pwrfail := rfl
@[simp] theorem Dev.mem_onArms (d : Dev) (n : LaneId) (f : List Arm → List Arm) : (d.onArms n f).mem = d.mem := rfl
@[simp] theorem Dev.bpm_onArms (d : Dev) (n : LaneId) (f : List Arm → List Arm) : (d.onArms n f).bpm = d.bpm := rfl
@[simp] theorem Dev.jobs_onArms (d : Dev) (n : LaneId) (f : List Arm → List Arm) : (d.onArms n f).jobs = d.jobs := rfl
@[simp] theorem Dev.hst_onArms (d : Dev) (n : LaneId) (f : List Arm → List Arm) : (d.onArms n f).hst = d.hst := rfl
@[simp] theorem Dev.band_onArms (d : Dev) (n : LaneId) (f : List Arm → List Arm) : (d.onArms n f).band = d.band := rfl
@[simp] theorem Dev.media_onArms (d : Dev) (n : LaneId) (f : List Arm → List Arm) : (d.onArms n f).media = d.media := rfl
@[simp] theorem Dev.que_onArms (d : Dev) (n : LaneId) (f : List Arm → List Arm) : (d.onArms n f).que = d.que := rfl
@[simp] theorem Dev.spn_onArms (d : Dev) (n : LaneId) (f : List Arm → List Arm) : (d.onArms n f).spn = d.spn := rfl
@[simp] theorem Dev.rmt_onArms (d : Dev) (n : LaneId) (f : List Arm → List Arm) : (d.onArms n f).rmt = d.rmt := rfl
@[simp] theorem Dev.seq_onArms (d : Dev) (n : LaneId) (f : List Arm → List Arm) : (d.onArms n f).seq = d.seq := rfl
@[simp] theorem Dev.sec_onArms (d : Dev) (n : LaneId) (f : List Arm → List Arm) : (d.onArms n f).sec = d.sec := rfl
@[simp] theorem Dev.trc_onArms (d : Dev) (n : LaneId) (f : List Arm → List Arm) : (d.onArms n f).trc = d.trc := rfl
@[simp] theorem Dev.flash_onArms (d : Dev) (n : LaneId) (f : List Arm → List Arm) : (d.onArms n f).flash = d.flash := rfl

/-! ### lanes: Dev.onLane -/

@[simp] theorem Dev.regs_onLane (d : Dev) (n : LaneId) (f : LaneSt → LaneSt) : (d.onLane n f).regs = d.regs := rfl
@[simp] theorem Dev.now_onLane (d : Dev) (n : LaneId) (f : LaneSt → LaneSt) : (d.onLane n f).now = d.now := rfl
@[simp] theorem Dev.fresh_onLane (d : Dev) (n : LaneId) (f : LaneSt → LaneSt) : (d.onLane n f).fresh = d.fresh := rfl
@[simp] theorem Dev.bus_onLane (d : Dev) (n : LaneId) (f : LaneSt → LaneSt) : (d.onLane n f).bus = d.bus := rfl
@[simp] theorem Dev.ict_onLane (d : Dev) (n : LaneId) (f : LaneSt → LaneSt) : (d.onLane n f).ict = d.ict := rfl
@[simp] theorem Dev.flt_onLane (d : Dev) (n : LaneId) (f : LaneSt → LaneSt) : (d.onLane n f).flt = d.flt := rfl
@[simp] theorem Dev.alm_onLane (d : Dev) (n : LaneId) (f : LaneSt → LaneSt) : (d.onLane n f).alm = d.alm := rfl
@[simp] theorem Dev.timestamp_onLane (d : Dev) (n : LaneId) (f : LaneSt → LaneSt) : (d.onLane n f).timestamp = d.timestamp := rfl
@[simp] theorem Dev.srv_onLane (d : Dev) (n : LaneId) (f : LaneSt → LaneSt) : (d.onLane n f).srv = d.srv := rfl
@[simp] theorem Dev.wls_onLane (d : Dev) (n : LaneId) (f : LaneSt → LaneSt) : (d.onLane n f).wls = d.wls := rfl
@[simp] theorem Dev.fmt_onLane (d : Dev) (n : LaneId) (f : LaneSt → LaneSt) : (d.onLane n f).fmt = d.fmt := rfl
@[simp] theorem Dev.tok_onLane (d : Dev) (n : LaneId) (f : LaneSt → LaneSt) : (d.onLane n f).tok = d.tok := rfl
@[simp] theorem Dev.arms_onLane (d : Dev) (n : LaneId) (f : LaneSt → LaneSt) : (d.onLane n f).arms = d.arms := rfl
@[simp] theorem Dev.lanes_onLane (d : Dev) (n : LaneId) (f : LaneSt → LaneSt) : (d.onLane n f).lanes = upd d.lanes n f := rfl
@[simp] theorem Dev.out_onLane (d : Dev) (n : LaneId) (f : LaneSt → LaneSt) : (d.onLane n f).out = d.out := rfl
@[simp] theorem Dev.grpq_onLane (d : Dev) (n : LaneId) (f : LaneSt → LaneSt) : (d.onLane n f).grpq = d.grpq := rfl
@[simp] theorem Dev.cs_onLane (d : Dev) (n : LaneId) (f : LaneSt → LaneSt) : (d.onLane n f).cs = d.cs := rfl
@[simp] theorem Dev.zones_onLane (d : Dev) (n : LaneId) (f : LaneSt → LaneSt) : (d.onLane n f).zones = d.zones := rfl
@[simp] theorem Dev.nw_onLane (d : Dev) (n : LaneId) (f : LaneSt → LaneSt) : (d.onLane n f).nw = d.nw := rfl
@[simp] theorem Dev.pwrfail_onLane (d : Dev) (n : LaneId) (f : LaneSt → LaneSt) : (d.onLane n f).pwrfail = d.pwrfail := rfl
@[simp] theorem Dev.mem_onLane (d : Dev) (n : LaneId) (f : LaneSt → LaneSt) : (d.onLane n f).mem = d.mem := rfl
@[simp] theorem Dev.bpm_onLane (d : Dev) (n : LaneId) (f : LaneSt → LaneSt) : (d.onLane n f).bpm = d.bpm := rfl
@[simp] theorem Dev.jobs_onLane (d : Dev) (n : LaneId) (f : LaneSt → LaneSt) : (d.onLane n f).jobs = d.jobs := rfl
@[simp] theorem Dev.hst_onLane (d : Dev) (n : LaneId) (f : LaneSt → LaneSt) : (d.onLane n f).hst = d.hst := rfl
@[simp] theorem Dev.band_onLane (d : Dev) (n : LaneId) (f : LaneSt → LaneSt) : (d.onLane n f).band = d.band := rfl
@[simp] theorem Dev.media_onLane (d : Dev) (n : LaneId) (f : LaneSt → LaneSt) : (d.onLane n f).media = d.media := rfl
@[simp] theorem Dev.que_onLane (d : Dev) (n : LaneId) (f : LaneSt → LaneSt) : (d.onLane n f).que = d.que := rfl
@[simp] theorem Dev.spn_onLane (d : Dev) (n : LaneId) (f : LaneSt → LaneSt) : (d.onLane n f).spn = d.spn := rfl
@[simp] theorem Dev.rmt_onLane (d : Dev) (n : LaneId) (f : LaneSt → LaneSt) : (d.onLane n f).rmt = d.rmt := rfl
@[simp] theorem Dev.seq_onLane (d : Dev) (n : LaneId) (f : LaneSt → LaneSt) : (d.onLane n f).seq = d.seq := rfl
@[simp] theorem Dev.sec_onLane (d : Dev) (n : LaneId) (f : LaneSt → LaneSt) : (d.onLane n f).sec = d.sec := rfl
@[simp] theorem Dev.trc_onLane (d : Dev) (n : LaneId) (f : LaneSt → LaneSt) : (d.onLane n f).trc = d.trc := rfl
@[simp] theorem Dev.flash_onLane (d : Dev) (n : LaneId) (f : LaneSt → LaneSt) : (d.onLane n f).flash = d.flash := rfl

end Sys2Proof.Machine
end

