-- ==== Sys2Proof/WellFormed.lean ====
section
/-! DEFINITION. Which commands the world outside can send: the ranges that the spec gives their operands where their types
are wider. No meaning depends on it. -/

namespace Sys2Proof

/-- Bytes of an access. -/
def sizeOk (n : Nat) : Bool := [1, 2, 4, 8].contains n

/-- An address of the internal space is 32 bits. -/
def addrOk (a : Nat) : Bool := decide (a < 2 ^ 32)

/-- A queue of a function: a function has queues 0 to 64 (R393). -/
def QRef.ok (q : QRef) : Bool := decide (q.sqid ≤ 64)

/-- Commands are named by 16 bits. -/
def cidOk (n : Nat) : Bool := decide (n < 2 ^ 16)

/-- A cylinder and a sector index (R52, R53). -/
def placeOk (cyl sect : Nat) : Bool := decide (cyl < 2 ^ 20) && decide (sect < 762)

/-- A slot holds at most 40,960 samples of each reader (R96), and a sector has 37,040 cells (R63). -/
def SlotIn.ok (x : SlotIn) : Bool :=
  decide (x.samplesA.length ≤ 40960) && decide (x.samplesB.length ≤ 40960) && decide (x.decs.length ≤ 37040)

/-- A pass decodes one 4,096-byte payload. -/
def PassIn.ok (p : PassIn) : Bool := p.payload.length == 4096

/-- Arrivals of at most eight heads. -/
def WedgeIn.ok (w : WedgeIn) : Bool := decide (w.arrivals.length ≤ 8)

/-- An I/O command's fields (R399): 64-bit LBAs, a count of at most 65,536. -/
def IoArgs.ok (a : IoArgs) : Bool :=
  cidOk a.cid && decide (a.slba < 2 ^ 64) && decide (1 ≤ a.count) && decide (a.count ≤ 65536) && decide (a.fuse < 4)

/-- A report names one of 512 sites and one of three classes (R536). -/
def Report.ok (r : Report) : Bool := decide (r.site < 512) && decide (r.cls ≤ 2)

/-- An almanac record's type and payload (R550). -/
def AlmRec.ok (r : AlmRec) : Bool := decide (r.type < 2 ^ 16) && decide (r.payload.length ≤ 4080)

/-- A media request of the scheduler, each field in its register's width (R180). -/
def Request.ok (r : Request) : Bool :=
  decide (r.kind < 16) && placeOk r.cyl r.sect && decide (1 ≤ r.count) && decide (r.count < 1024) && decide (r.revs < 256) &&
    decide (r.rmask < 256) && decide (r.wmask < 256) && decide (r.cmask < 256)

/-- The operands of a command lie in their ranges. -/
def Instr.wf : Instr → Bool
  | .registerWrite _ a n _ | .snapshotRead _ a n => addrOk a && sizeOk n
  | .crossingTimeout _ a _ | .pairLoStage _ a _ | .pairHiCommit _ a _ => addrOk a
  | .laneSectorStart _ x => x.ok
  | .writeSlot w => w.x.ok
  | .mainPassEnd _ p | .recoveryPassEnd _ p => p.ok
  | .bufBudgetExpiry _ c k | .reconstructionDelivered _ c k | .peerPin _ _ c k | .peerMemberRequest _ _ c k => placeOk c k
  | .setWindowWrite _ _ ofs _ => decide (ofs < 0x9C) && ofs % 4 == 0
  | .wlsWedge _ w => w.ok
  | .wlsZoneChange _ z => decide (z < 64)
  | .writeInhibit _ m _ | .tokenRequest _ m => decide (m < 256)
  | .csStageWrite _ w _ _ | .csCommitWrite _ w _ => decide (w < 0x4000)
  | .reqFailed _ c => decide (c < 256)
  | .retractRequest _ c => decide (c < 16)
  | .coefWrite _ _ ofs _ => decide (0x4000 ≤ ofs) && decide (ofs < 0x7000) && ofs % 4 == 0
  | .positioningRequest _ r => r.ok
  | .faultReport r => r.ok
  | .almanacRecord r => r.ok
  | .submissionDoorbell q es => q.ok && es.all fun e => e.io.ok
  | .flush q a | .write q a _ | .read q a | .compare q a _ | .writeZeroes q a | .datasetManagement q a | .verify q a
  | .copy q a _ _ | .scanRead q a _ _ => q.ok && a.ok
  | .bpmAlloc _ r n _ => decide (r < 128) && decide (1 ≤ n)
  | .createIoSq q c i n u => q.ok && cidOk c && cidOk i && cidOk n && cidOk u.cqid && decide (u.prio < 4)
  | .setFeatures q c f _ _ _ => q.ok && cidOk c && decide (f < 256)
  | .setKey q c r k => q.ok && cidOk c && decide (r < 4) && k.length == 97
  | _ => true

end Sys2Proof
end

