-- ==== Sys2Proof/Tests/Slice0.lean ====
section
/-! SUPPORT. Tests. Every statement with hypotheses has a witness here: concrete states and operands that meet them, one for
each clause. The other tests take their expected results from the spec's own examples and tables. -/

namespace Sys2Proof.Tests

open Sys2Proof.Machine

set_option Elab.async false

/-! ### Small states -/

/-- The device after reset with every island running, in ACTIVE. -/
def rig : Dev := ((State.reset.dev.setWord SYS_ISLAND_EN 0x3FFFFF).setWord SYS_ISLAND_STATUS 0x3FFFFF).set SYS_MODE.MODE 6

/-- A state with a device, and nothing waiting. -/
def st (d : Dev) : State := { pending := [], dev := d }

/-- The rig with four groups of eight heads, every lane enabled. -/
def heads : Dev :=
  rig.each (List.finRange 4) fun g d =>
    (d.set FMT_LANES.PRESENT 255 g).each (List.finRange 8) fun i d => d.set LANE_CTRL.EN 1 (laneOf g i)

/-! ### Chapter 01 -/

theorem witness_EmptyQueueTicks : State.reset.pending = [] := rfl

theorem witness_SlotsOnlyByProgrammer :
    (∀ p, Instr.coldReset (some p) ∉ (st rig).pending) ∧ runSteps 0 (st rig) = some (st rig) := by
  constructor
  · intro p h; cases h
  · rfl

theorem witness_RefusedWriteIsCaptured :
    (rig.mode ≠ .off ∧ rig.refusal ⟨.control, 0x5000_0000, true, 4⟩ = some .unmapped ∧ rig.get SYS_BUS_ERR_INFO.VALID = 0) ∧
    ((rig.set SYS_BUS_ERR_INFO.VALID 1).mode ≠ .off ∧
      ((rig.set SYS_BUS_ERR_INFO.VALID 1).refusal ⟨.control, 0x5000_0000, true, 4⟩).isSome ∧
      (rig.set SYS_BUS_ERR_INFO.VALID 1).get SYS_BUS_ERR_INFO.VALID = 1) ∧
    (rig.takes .control SYS_BUS_ERR_INFO.at ∧ (0x8000_0000#32).getLsbD 31 = true) := by decide +kernel

theorem witness_CaptureBesideClear :
    rig.takes .control SYS_BUS_ERR_INFO.at ∧ (0x8000_0000#32).getLsbD 31 = true ∧
      rig.refusal ⟨.management, 3, false, 4⟩ = none ∧ rig.refusal ⟨.management, 0x4000_0003, false, 4⟩ = some .size := by
  decide +kernel

theorem witness_AccessTestsInOrder :
    rig.mapped 0x5000_0000 = false ∧
    (rig.mapped 0x400D_0000 = true ∧ bar2Rank 0x400D_0000 true = some 2 ∧ rig.pfRank < 2) ∧
    (rig.mapped 0x4000_0000 = true ∧ inRegSpace 0x4000_0002 = true ∧ rig.mapped 0x4000_0002 = true) ∧
    (State.reset.dev.mapped 0x4003_0000 = true ∧ blockAt 0x4003_0000 = some (.que, 0) ∧ State.reset.dev.islandUp 2 = false) := by
  decide +kernel

theorem witness_IslandsStopAndStart :
    rig.takes .control SYS_ISLAND_EN.at ∧ bit (State.reset.dev.word SYS_ISLAND_EN).toNat (2 : Fin 22) = false ∧
    (rig.mode ≠ .off ∧ bit (rig.word SYS_ISLAND_EN).toNat (21 : Fin 22) = true) := by decide +kernel

theorem witness_ApertureBase :
    (rig.takes .management SYS_APERTURE_BASE.at ∧ SYS_APERTURE_BASE.BASE.of 47 < 48) ∧ 48 ≤ SYS_APERTURE_BASE.BASE.of 48 ∧
      rig.get SYS_BUS_ERR_INFO.VALID = 0 := by decide +kernel

theorem witness_PairStagesAndCommits : rig.takes .control (SHU_SRC_LO.at 0 (63 : Chan)) ∧ rig.jobs[(63 : Chan)] = none := by
  decide +kernel

theorem witness_ReadsAndSnapshots :
    (rig.refusal ⟨.control, 0x4000_0000, false, 4⟩ = none ∧ (regAt 0x4000_0000).isSome = true ∧
      rig.snapValue .control 0x4000_0000 = none) ∧
    rig.refusal ⟨.control, TRC_CNT_LO.at 0 (63 : Fin 64), false, 4⟩ = none := by decide +kernel

theorem witness_CrossingTimeoutCaptured :
    inRegSpace 0x4003_0000 = true ∧ rig.refusal ⟨.control, 0x4003_0000, true, 4⟩ = none := by decide +kernel

theorem witness_PlainRegisterWrite :
    rig.takes .control 0x4000_0084 = true ∧ regAt 0x4000_0084 = some ⟨SYS_INT_EN, 0, 0⟩ ∧ isLo SYS_INT_EN = false ∧
      (loOf SYS_INT_EN).isNone ∧ (∀ d : Dev, d.specialWrite .control ⟨SYS_INT_EN, 0, 0⟩ 5 = none) ∧
      rig.dropsWrite ⟨SYS_INT_EN, 0, 0⟩ = false ∧
      outOfRange ⟨SYS_INT_EN, 0, 0⟩ (SYS_INT_EN.written (rig.word SYS_INT_EN) 5 rig.locked (rig.lockedBits ⟨SYS_INT_EN, 0, 0⟩)) = false ∧
      SYS_INT_EN.blk ≠ .alm ∧ SYS_INT_EN.key ≠ SYS_BUS_ERR_INFO.key ∧ SYS_INT_EN.key ≠ SYS_BUS_ERR_ADDR.key ∧
      SYS_INT_EN.key ≠ ICT_SRC_CFG.key :=
  ⟨by decide +kernel, rfl, rfl, rfl, fun _ => rfl, by decide +kernel, by decide +kernel, by decide, by decide, by decide, by decide⟩

/-! ### Chapter 03 -/

/-- A gated arm with ECC, its tag check off. -/
def arm0 : Arm := ⟨1000, 5, true, false, true, true, true, false, 0, 0, false, false⟩

/-- A pass that converges at its first iteration. -/
def pass0 : PassIn := ⟨[0], [], 0⟩

/-- A slot whose mark stands at position 0. -/
def slot0 : SlotIn := ⟨[], [], List.replicate 128 false ++ syncMark⟩

/-- A ladder for cylinder 1000, sector 5. -/
def ladder0 : Ladder :=
  { cyl := 1000, sect := 5, arm := arm0, slot := some 0, missed := false, primary := some 0, second := none, welt := true }

/-- Group 0 in LOCK. -/
def locked : Dev := heads.set WLS_STATUS.STATE 2 0

/-- Slots 0 and 1 of lane 7 are pinned, slot 2 is not. -/
def pinned : Dev := locked.onLane 7 fun l => { l with slots := #v[
  some { cyl := 1000, sect := 5, full := true, ladder := true },
  some { cyl := 1000, sect := 6, full := true, peers := [3] },
  some { cyl := 1000, sect := 7, full := true }] }

/-- A band of group 0 with its P, four members, at welt 0; zone 0 begins at cylinder 0. -/
def banded : Dev :=
  { locked with
    zones := heads.zones.set 0 [⟨0, 29998080, 700, 0, 0, 0, 0⟩]
    band := { heads.band with dir := [(0, ⟨0, 0, bsUser, false, 0xF, 1, 0⟩)] } }

theorem witness_LaneSectorBegins :
    (let d := locked.onArms 7 fun _ => [arm0]
     d.groupRuns (7 : LaneId).grp = true ∧ d.arms[(7 : LaneId)] = [arm0] ∧ d.get WLS_STATUS.STATE 0 ≠ 4 ∧ d.laneReads 7 = true ∧
      d.get LANE_CTRL.MODE 7 ≠ 1 ∧ (∀ y ∈ d.lanes[(7 : LaneId)].ladders, y.waits = true) ∧
      (flyCandidates (min 8 (d.get LANE_SYNC.MAX_DIST 7)) (syncDists slot0.decs)).1.isSome = true) ∧
    (locked.set LANE_CTRL.EN 0 7).laneReads 7 = false ∧
    (let d := [0, 1, 2].foldl (fun (d : Dev) (n : LaneId) => d.onArms n fun _ => [{ arm0 with cyl := 0 }])
       ((banded.set LANE_CTRL.EN 0 7).set LANE_LADDER.WELT_EN 1 7)
     d.groupRuns (7 : LaneId).grp = true ∧ d.laneReads 7 = false ∧ (∀ i : HeadIx, ∀ y ∈ d.lanes[laneOf 0 i].ladders, y.waits = true) ∧
      d.lanes[(7 : LaneId)].dec = none ∧ d.canWelt 7 (missingLadder { arm0 with cyl := 0 }) = true) ∧
    (let d := locked.onLane 7 fun l => { l with sects := [{ arm := arm0, slot := none, found := [(400, 404)] }] }
     d.groupRuns (7 : LaneId).grp = true ∧ d.lanes[(7 : LaneId)].ladders = [] ∧
      d.lanes[(7 : LaneId)].sects = [] ++ [{ arm := arm0, slot := none, found := [(400, 404)] }]) := by decide +kernel

theorem witness_OneOutcomePerSector :
    (locked.groupRuns (7 : LaneId).grp = true ∧ tooLong [] = false ∧
      converged (passCounts (countField (locked.get LANE_ITER.GLOBAL_OTF 7) 8) true pass0) = true ∧
      locked.tagPasses 0 0 1000 5 7 (scrambleAt 1000 5 7 []) 0 = true ∧ (∀ i : HeadIx, locked.lanes[laneOf 0 i].ladders = []) ∧ locked.fmt[(0 : Grp)].cur.isNone = true) ∧
    (let d := locked.onLane 7 fun l => { l with ladders := [ladder0], dec := some (.ladder 1000 5 ⟨2, 0⟩ 64) }
     d.lanes[(7 : LaneId)].dec = some (.ladder 1000 5 ⟨2, 0⟩ 64) ∧ d.lanes[(7 : LaneId)].ladders = [ladder0] ∧
      converged (passCounts 64 false pass0) = true ∧ ladder0.waits = false ∧ d.rereadsAllowed 7 ladder0 = true ∧
      (d.set LANE_LADDER.MAX_REVS 0 7).rereadsAllowed 7 ladder0 = false) := by decide +kernel

theorem witness_reconstruction :
    let l : Ladder := { ladder0 with cyl := 0, arm := { arm0 with cyl := 0 }, members := [(1, [1]), (2, [2]), (3, [4])] }
    banded.groupRuns 0 = true ∧ ((banded.weltNeeds 0 0 5).map Prod.snd) = some 3 ∧ banded.enough 0 l = true ∧
      weltRebuild ⟨0, 0, bsUser, false, 0xF, 1, 0⟩ 0 0 l.members = some [7] ∧
      banded.tagPasses 0 0 0 5 0 [7] 0 = true := by decide +kernel

theorem witness_SlotPins :
    (let d := (pinned.onLane 7 fun l => { l with slots := l.slots.set 1 none }).onLane 6 fun l => { l with ladders := [ladder0] }
     d.groupRuns 0 = true ∧ d.laneReads 7 = true ∧ d.hasLadder 6 1000 5 = true ∧ d.lanes[(7 : LaneId)].slotOf 1000 5 = some 0 ∧
      d.lanes[(7 : LaneId)].pins < 2 ∧ ladder0.welt = true ∧ ladder0.waits = false) ∧
    (let d := pinned.onLane 6 fun l => { l with ladders := [{ ladder0 with sect := 7, todo := [⟨2, 0⟩] }], dec := some (.ladder 1000 7 ⟨2, 0⟩ 64) }
     d.lanes[(7 : LaneId)].slotOf 1000 7 = some 2 ∧ 2 ≤ d.lanes[(7 : LaneId)].pins ∧ d.laneReads 7 = true ∧ d.hasLadder 6 1000 7 = true ∧
      (d.lanes[(7 : LaneId)].slots[(2 : Fin 3)]).map Slot.pinned = some false ∧ ∀ i : HeadIx, d.wantsDec (laneOf 0 i) = false) ∧
    (let d := (locked.onLane 7 fun l => { l with won := [(1000, 5, [1])], slots := l.slots.set 0 (some { cyl := 1000, sect := 5, peers := [6] }) }).onLane 6 fun l => { l with ladders := [ladder0] }
     d.laneReads 7 = true ∧ d.lanes[(7 : LaneId)].slotOf 1000 5 = some 0 ∧ d.lanes[(6 : LaneId)].ladders = [ladder0] ∧ (1000, 5, [1]) ∈ d.lanes[(7 : LaneId)].won) ∧
    (heads.takes .control (LANE_SBUF_SEL.at 7) = true ∧ heads.get LANE_SBUF_SEL.HOLD 7 = 0 ∧
      (0x8000_0002#32).getLsbD 31 = true ∧ min (LANE_SBUF_SEL.SLOT.of 0x8000_0003) 2 = (2 : Fin 3).val ∧
      heads.lanes[(7 : LaneId)].pins < 2 ∧ heads.lanes[(7 : LaneId)].slots[(2 : Fin 3)] = none) ∧
    (pinned.takes .control (LANE_SBUF_SEL.at 7) = true ∧ pinned.get LANE_SBUF_SEL.HOLD 7 = 0) ∧
    (let d := locked.onLane 7 fun l => { l with slots := l.slots.set 2 (some { cyl := 1, sect := 1 }) }
     let d := d.setWord LANE_SBUF_SEL 0x8000_0003 7
     d.groupRuns 0 = true ∧ d.get LANE_SBUF_SEL.HOLD 7 = 1 ∧ d.selSlot 7 = 2 ∧ d.lanes[(7 : LaneId)].pins < 2) ∧
    (let d := pinned.setWord LANE_SBUF_SEL 0x8000_0003 7
     d.groupRuns 0 = true ∧ d.get LANE_SBUF_SEL.HOLD 7 = 1 ∧ d.selSlot 7 = 2 ∧ 2 ≤ d.lanes[(7 : LaneId)].pins ∧
      (d.lanes[(7 : LaneId)].slots[(2 : Fin 3)]).map Slot.hold = some false) := by decide +kernel

theorem witness_PreambleLimits :
    heads.takes .management (LANE_PREAMBLE.at 31) = true ∧
      (LANE_PREAMBLE.ZPS_LEN.of 0x3040_2018 = 32 ∧ LANE_PREAMBLE.ZPS_START.of 0x3040_2018 + 32 + LANE_PREAMBLE.ACQ_LEN.of 0x3040_2018 = 120) ∧
      (LANE_PREAMBLE.ZPS_START.of 0x3040_2019 + 32 + LANE_PREAMBLE.ACQ_LEN.of 0x3040_2019 = 121) ∧
      heads.get SYS_BUS_ERR_INFO.VALID = 0 := by decide +kernel

theorem witness_LaneControl :
    (heads.takes .control (LANE_CTRL.at 0) = true ∧ bits (1 : Word) 1 2 = 0 ∧ (6 : Word).getLsbD 0 = false) ∧
    (heads.calibrating 0 = false ∧ bits (0x0040_0027 : Word) 4 2 = 2 ∧ bits (0x0040_0027 : Word) 1 2 ≠ 0 ∧
      bit (heads.get FLT_FENCED_LANE.LANE) (0 : LaneId) = false) ∧
    ((locked.setWord LANE_CTRL 0x0040_0127 0).calibrating 0 = true ∧ locked.groupRuns 0 = true ∧ locked.lanes[(0 : LaneId)].cal = 0) ∧
    (heads.takes .control (LANE_CTRL.at 31 + (0x100 + 0x98 % 0x9C)) = true ∧
      (regAt (LANE_CTRL.at 31 + (0x100 + 0x98 % 0x9C))).isSome = true) := by decide +kernel

theorem witness_PrimaryIsFirstWithin : (syncDists slot0.decs).length = 65 := by decide +kernel

/-! ### Chapter 04 -/

/-- Group 0 with a servo mark from head 2 alone, 3/256 cell late. -/
def wedge3 : WedgeIn := ⟨[none, none, some 3], 115200⟩

/-- Group 0 in LOCK in ACTIVE, with two zones, the spindle fast, and nothing that inhibits a write. -/
def writing : Dev :=
  ((locked.set SRV_SUP_STATUS.WI 0 0).set SRV_STATUS.STATE 5 0).onWls 0 fun w => { w with speed := 115200 }

/-- A write arm. -/
def arm1 : Arm := ⟨1000, 5, false, true, false, false, false, false, 0, 1, false, false⟩

/-- The arm waits at lane 0, which holds a token. -/
def armed : Dev := (writing.onArms 0 fun _ => [arm1]).onTok fun t => { t with held := t.held.set 0 1 }

theorem witness_WlsStates :
    (heads.takes .control (WLS_CTRL.at 0) = true ∧ WLS_CTRL.WR_THR.of 0x400D4F21 < WLS_CTRL.LOSS_THR.of 0x400D4F21 ∧
      heads.get WLS_CTRL.EN 0 = 0 ∧ (heads.set WLS_CTRL.EN 1 0).takes .control (WLS_CTRL.at 0) = true) ∧
    (locked.clocked (14 + (0 : Grp)) = true ∧ locked.get WLS_STATUS.STATE 0 = 2 ∧ locked.wedgeSource 0 wedge3 = some (2, 3) ∧ (3 : Int).natAbs ≤ locked.get WLS_CTRL.LOCK_THR 0 ∧
      atLeast1 (locked.get WLS_CTRL.LOCK_CNT 0) ≤ 14 + 1 ∧ locked.get WLS_CTRL.LOCK_THR 0 < (5 : Int).natAbs ∧
      (3 : Int).natAbs ≤ locked.get WLS_CTRL.LOSS_THR 0 ∧ locked.get WLS_CTRL.LOSS_THR 0 < (65 : Int).natAbs) ∧
    (locked.wedgeSource 0 ⟨[], 0⟩ = none ∧ 0 + 1 < atLeast1 (locked.get WLS_CTRL.MISS_MAX 0) ∧
      atLeast1 (locked.get WLS_CTRL.MISS_MAX 0) ≤ 1 + 1) ∧
    (let d := { locked with zones := locked.zones.set 0 [⟨0, 29998080, 700, 0, 0, 0, 0⟩, ⟨9, 28000000, 700, 0, 0, 0, 0⟩] }
     d.wls[(0 : Grp)].zone ≠ 1 ∧ 1 < d.zones[(0 : Grp)].length ∧ (d.zone 0 d.wls[(0 : Grp)].zone).cpr ≠ 0 ∧
      d.get WLS_STATUS.STATE 0 ≠ 0) := by decide +kernel

theorem witness_WriteConfigLimits :
    heads.takes .control (WLS_WRITE_CFG.at 3) = true ∧ heads.locked = false ∧
      (WLS_WRITE_CFG.WG_LEAD.of 0x80643010 = 48 ∧ WLS_WRITE_CFG.WG_TAIL.of 0x80643010 = 16 ∧
        WLS_WRITE_CFG.WL_GRP.of 0x80643010 = 8) ∧
      64 < WLS_WRITE_CFG.WG_LEAD.of 0x80643011 + WLS_WRITE_CFG.WG_TAIL.of 0x80643011 ∧
      heads.get SYS_BUS_ERR_INFO.VALID = 0 := by decide +kernel

theorem witness_WriteSlotsAndTokens :
    (armed.groupRuns (0 : LaneId).grp = true ∧ armed.arms[(0 : LaneId)] = [arm1] ∧ armed.inhibited 0 0 false false = false ∧ armed.heaterReady 0 0 = true ∧
      bit armed.tok.held[(0 : Grp)] (0 : HeadIx) = true) ∧
    (armed.set WLS_INHIBIT.FW_MASK 1 0).inhibited 0 0 false false = true ∧
    (let d := (armed.onArms 0 fun _ => [{ arm1 with flush := true }]).onWls 0 fun w => { w with gates := 1 }
     let e : Dev := ({ d with now := 600000 } : Dev).onQue fun q => { q with flush := some { epoch := 1, since := 0, exts := [] } }
     let f := e.onGrpq 2 fun q => { q with list := [⟨4, ⟨4, 0, 0, 4, 0, 0, 1, 0, false⟩, .flush 1, 0, 0, 0, 0, []⟩] }
     d.flushLate = false ∧ 2400 * 16 ≤ d.wls[(0 : Grp)].speed ∧ (d.onWls 0 fun w => { w with speed := 9 }).wls[(0 : Grp)].speed < 2400 * 16 ∧
      bit d.wls[(0 : Grp)].gates (0 : HeadIx) = true ∧ f.flushLate = true ∧ f.groupRuns 0 = true ∧
      f.grpq[(2 : Grp)].list.any MediaReq.isFlush = true ∧ f.allParked = false) ∧
    (lowest ([InhCause.lane, .theta, .speed].filterMap InhCause.code) = some 1 ∧ bit 1 (0 : HeadIx) = true) ∧
    (armed.tokensRefused 0 3 = false ∧ armed.tokenReq 0 3 ∉ armed.tok.waiting ++ armed.tok.arriving) ∧
    (let r : TokReq := ⟨0, 3, 1000, 5⟩
     let d := armed.onTok fun t => { t with arriving := [r] }
     let e := (armed.set WTA_CFG.WL_DEV 1).onTok fun t => { t with waiting := [r] }
     d.clocked 7 = true ∧ d.tok.waiting = [] ∧ d.tokensFit r = true ∧ e.tok.waiting = r :: [] ∧ e.tokensFit r = false ∧
      e.groupRuns 0 = true ∧ (e.tok.waiting ++ e.tok.arriving).find? (·.grp == 0) = some r ∧ bit r.mask (0 : HeadIx) = true ∧
      e.arms[laneOf 0 0].find? (fun a => a.wg && a.cyl == r.cyl && a.sect == r.sect) = some arm1) := by decide +kernel

theorem witness_PreampPort :
    (heads.takes .management (WLS_PA_CMD.at 1) = true ∧ heads.get WLS_PA_CMD.GO 1 = 0) ∧
    ((heads.onWls 1 fun w => { w with wire := some ⟨5, none, true, 9, 0, false⟩ }).wls[(1 : Grp)].wire =
      some ⟨5, none, true, 9, 0, false⟩ ∧ heads.clocked (14 + (1 : Grp)) = true ∧
      oddParity (bitsMsb 16 (0x8001#16).toNat) = true ∧ oddParity (bitsMsb 16 (0x8003#16).toNat) = false) ∧
    ((heads.onWls 1 fun w => { w with wire := some ⟨2, some 4, false, 9, 0, false⟩ }).wls[(1 : Grp)].wire =
      some ⟨2, some 4, false, 9, 0, false⟩) := by decide +kernel

/-! ### Chapter 05 -/

/-- Group 0 on standby clock no more, its sequencer at word 0x0020, which stores w. -/
def running (w : MicroWord) : Dev :=
  (((locked.set FMT_CTRL.EN 1 0).set FMT_STATUS.STATE 2 0).set FMT_STATUS.PC 0x20 0).putStore 0x20 w

/-- RG, ECC_START and SYNC_ARM on lanes 0 and 1; C0 loaded with 7; branch always to 0x0030. -/
def word0 : MicroWord := ofParts 0x40003403 7 0x00018008 0

/-- Word 0x3901 of the chapter's example: C0 loaded with 3, SP from C2, a wait of 40,000 cells before the slot. -/
def word1 : MicroWord := ofParts 0x40000000 0x9C400003 0x06000002 0

theorem test_word_fields : mwCntOp word1 = 1 ∧ mwImm word1 = 3 ∧ mwSp word1 = 3 ∧ mwWait word1 = 2 ∧ mwArg word1 = 40000 ∧
    mwIllegal word1 true = false := by decide +kernel

/-- Word 0x3902 of the example arms a raw write, which R165 allows in MAKER_SERVICE alone. -/
theorem test_raw_word : mwIllegal (ofParts 0x80080808 0 0x03C81110 0) true = false ∧
    mwIllegal (ofParts 0x80080808 0 0x03C81110 0) false = true ∧ mwNext (ofParts 0x80080808 0 0x03C81110 0) = 0x3902 := by
  decide +kernel

/-- The rig in LAST_LOAD. -/
def loading : Dev := rig.set SYS_MODE.MODE 3

theorem witness_ControlStoreWindow :
    (rig.takes .control (storeAt 0x37FF (2 : Fin 3)) = true ∧ rig.mode = .active) ∧
    (rig.takes .management (storeAt 0x3FFF (0 : Fin 3)) = true ∧ rig.get SYS_BUS_ERR_INFO.VALID = 0) ∧
    (loading.takes .control (storeAt 0x3FFF (0 : Fin 3)) = true ∧ loading.takes .management (storeAt 0 (1 : Fin 3)) = true ∧
      loading.storeOpen 0x3FFF = true ∧ loading.storeOpen 0 = true) := by decide +kernel

theorem witness_SequencerSteps :
    (let d := running word0
     d.groupRuns 0 = true ∧ d.get FMT_STATUS.STATE 0 = 2 ∧ d.injecting 200 = none ∧ (d.shippedStep 0 false).isNone = true ∧
      d.cs.word (d.get FMT_STATUS.PC 0) = word0 ∧ d.get FMT_STATUS.PC 0 < 0x3800 ∧
      mwIllegal word0 (d.mode == .makerService) = false ∧ mwWait word0 = 0 ∧ mwSeq word0 = 0 ∧ mwHalt word0 = false ∧
      d.fmt[(0 : Grp)].halting = false ∧ d.fmt[(0 : Grp)].single = false ∧ d.armStall 0 (d.fmtMask 0 word0) = false ∧
      mwWg word0 = false) ∧
    (let d := ((running word1).set FMT_STATUS.STATE 3 0).onFmt 0 fun f => { f with waiting := some word1 }
     d.groupRuns 0 = true ∧ d.get FMT_STATUS.STATE 0 = 3 ∧ d.fmt[(0 : Grp)].waiting = some word1 ∧ d.get FMT_STATUS.PC 0 < 0x3800 ∧ d.waitOver 0 (mwWait word1) = true ∧
      mwSeq word1 = 0 ∧ mwHalt word1 = false) := by decide +kernel

theorem witness_SequencerTraps :
    (let d := running (1 <<< 91)
     d.groupRuns 0 = true ∧ d.get FMT_STATUS.STATE 0 = 2 ∧ d.injecting 200 = none ∧ (d.shippedStep 0 false).isNone = true ∧
      mwIllegal (d.cs.word (d.get FMT_STATUS.PC 0)) (d.mode == .makerService) = true) ∧ mwWait word1 ≠ 7 ∧
    (let d := (running word1).onFmt 0 fun f => { f with hook := some (0, 0, 0, 0, 1) }
     d.fmt[(0 : Grp)].hook.isSome = true ∧ d.mode ≠ .makerService ∧ d.get FMT_STATUS.STATE 0 = 2) := by decide +kernel

theorem witness_SequencerControl :
    (heads.takes .control (FMT_CTRL.at 3) = true ∧ heads.get FMT_CTRL.EN 3 = 0 ∧ bits (0x00100001 : Word) 1 3 = 0) ∧
    (FMT_CTRL.START_ADDR.of 0x00100003 = 0x10 ∧ (0x00100003 : Word).getLsbD 0 = true ∧ bits (0x00100003 : Word) 2 2 = 0) ∧
    ((running 0).takes .control (FMT_CTRL.at 0) = true ∧ (running 0).get SYS_BUS_ERR_INFO.VALID = 0 ∧
      (running 0).get FMT_STATUS.STATE 0 = 2 ∧ (running 0).fmt[(0 : Grp)].waiting = none ∧ (running 0).get FMT_CTRL.EN 0 = 1) ∧
    (let d := ((running word1).set FMT_STATUS.STATE 3 0).onFmt 0 fun f => { f with waiting := some word1 }
     let e := d.set WLS_STATUS.STATE 0 0
     d.groupRuns 0 = true ∧ e.groupRuns 0 = false ∧ e.get FMT_STATUS.STATE 0 = 3 ∧ e.takes .control (FMT_CTRL.at 0) = true ∧
      e.get FMT_CTRL.EN 0 = 1 ∧ e.fmt[(0 : Grp)].waiting = some word1) ∧
    (let d := ((heads.set SYS_MODE.MODE 14).set FMT_CTRL.EN 1 0).set FMT_STATUS.STATE 1 0
     d.takes .control (FMT_CTRL.at 0) = true ∧ d.mode = .makerService ∧ d.get FMT_STATUS.STATE 0 = 1) := by decide +kernel

/-! ### Chapters 06 and 07 -/

/-- Group 0 in MAKER_SERVICE and TRACK at cylinder 1000 with the four-state design of chapter 06 in set 5. -/
def four : Dev :=
  let d := ((((locked.set SYS_MODE.MODE 14).set SRV_STATUS.STATE 5 0).setWord SRV_DIM 0x00010004 0).setWord SRV_YSEL
    0x1F1F1F00 0).setWord SRV_BAND_VALID 0x20 0
  let d := d.setWord SRV_BAND_SEL 0x85401400 0
  let d := d.each ([(0, 0xE0000000), (1, 0xA0000000), (2, 0xC0000000), (3, 0xF0000000), (32, 0xF0000000),
      (1024, 0x20000000), (1025, 0x40000000), (1056, 0x20000000), (1076, 0x10000000),
      (1088, 0xF0000000), (1089, 0x40000000), (1090, 0x40000000), (1120, 0x10000000), (1140, 0x20000000),
      (1152, 0xFC000000), (1154, 0x40000000), (1184, 0x04000000), (1219, 0x40000000), (1248, 0x08000000)] :
      List (Nat × Word)) fun p d => d.setWord SRV_COEF p.2 0 (5 * 3072 + p.1)
  d.onSrv 0 fun s => { s with
    rpos := 1000 * 2 ^ 20, target := 1000, xhat := ((s.xhat.set 0 0x00400000).set 1 (-0x00100000)).set 3 0x00200000,
    recs := [(0, ⟨true, 0, 1000, 1280⟩)] }

/-- The CRC of the actuator link, checked by the string that the spec names for it. -/
theorem test_crc16 : crc16 [0x31, 0x32, 0x33, 0x34, 0x35, 0x36, 0x37, 0x38, 0x39] = 0x29B1 := by decide +kernel

/-- Chapter 06's example: the VCM code, the frame and the four states after the sample. -/
theorem test_four_states : (four.sample 0).srv[(0 : Grp)].vcm = -73728 ∧
    ((four.sample 0).srv[(0 : Grp)].frame.drop 2).take 3 = [0xEE, 0, 0] ∧
    ((four.sample 0).srv[(0 : Grp)].xhat.toList.take 4).map (BitVec.ofInt 32) =
      [0x002F0000, 0xFFE20000, 0x00010000, 0x002A0000] := by decide +kernel

/-- The design of chapter 07's example at the transfer: the observer holds −0.03125, the code is −40,960. -/
def moving : Dev :=
  let d := (((four.setWord SRV_PRESET 0x80004000 0 0).setWord SRV_PRESET 0x40000000 0 2).setWord SRV_PRESET 0xC0000000 0
    3).set SRV_STATUS.STATE 8 0
  (d.set SRV_MODE_CMD.GO 1 0 |>.setWord SRV_MODE_CMD 0x900003E8 0).onSrv 0 fun s => { s with
    rpos := 1002 * 2 ^ 20, man := -40960, vcm := -40960, applied := s.applied.set 0 (-1310720),
    xhat := s.xhat.set 1 (-0x00080000), recs := [(0, ⟨true, 0, 1002, 2000⟩)] }

/-- Chapter 07's example: the code does not change in the transfer sample. -/
theorem test_transfer : (moving.sample 0).srv[(0 : Grp)].vcm = -40960 ∧ (moving.sample 0).srvState 0 = 3 ∧
    ((moving.sample 0).srv[(0 : Grp)].frame.drop 2).take 3 = [0xF6, 0, 0] := by decide +kernel

/-- The rig with group 0 in a servo state. -/
def inState (n : Nat) : Dev := locked.set SRV_STATUS.STATE n 0

theorem witness_ServoSampleFrame :
    four.clocked (9 + (0 : Grp)) = true ∧ four.get SRV_STATUS.STATE 0 ≠ 0 ∧ four.get SRV_CAP_CTRL.ARM 0 = 0 ∧ four.srv[(0 : Grp)].cap.fifo = [] ∧
    four.groupRuns 0 = true ∧ (locked.set WLS_STATUS.STATE 0 0).groupRuns 0 = false ∧
    ((inState 7).sample 0).get SRV_STATUS.STATE 0 = 7 := by decide +kernel

theorem witness_RowIsExactUnlessSaturated : (four.row 0 5 0 (four.vectorLow 0)).2 = false := by decide +kernel

theorem witness_IntegratorSolvesTransfer :
    moving.coef 0 5 0 3 ≠ 0 ∧ moving.get SRV_BAND_SEL.CUR 0 = 5 ∧ 3 < moving.get SRV_DIM.N_STATES 0 ∧
    (32 : Int) ∣ moving.srv[(0 : Grp)].applied[0] ∧
    (moving.rowAcc 0 5 0 ((moving.vectorLow 0).filter fun p => p.1 != 3)).2 = false ∧
    ((moving.solveInt 0 3 (-1310720)).1.row 0 5 0 ((moving.solveInt 0 3 (-1310720)).1.vectorLow 0)).2 = false := by
  decide +kernel

theorem witness_ServoSupervision :
    (locked.clocked (9 + (0 : Grp)) = true ∧ locked.laneAlive (laneOf 0 2) = true ∧ bit (locked.get SRV_STATUS.LOST 0) 2 = false ∧
      atLeast1 (locked.get SRV_PES_CFG.MISS_LIMIT 0) ≤ 255) ∧
    (let d := (inState 4).onSrv 0 fun s => { s with ontrack := 255, settle := 65535, fe := s.fe.set 3 65535 }
     d.get SRV_STATUS.STATE 0 = 4 ∧ atLeast1 (d.get SRV_ONTRACK.ONTRACK_CNT 0) ≤ d.srv[(0 : Grp)].ontrack ∧
       atLeast1 (d.get SRV_ONTRACK.SETTLE_MAX 0) ≤ d.srv[(0 : Grp)].settle ∧ d.feReached 0 = some 3 ∧ d.get SRV_SUP_CFG.FE_ACT 0 = 1 ∧
       (d.set SRV_SUP_CFG.FE_ACT 0 0).get SRV_SUP_CFG.FE_ACT 0 = 0) ∧
    (let d := (inState 5).onSrv 0 fun s => { s with clean := s.clean.set 1 255 }
     atLeast1 (d.get SRV_SUP_CFG.WI_REL 0) ≤ d.srv[(0 : Grp)].clean[1] ∧ d.inhibitCond 0 1 = false) := by decide +kernel

/-- FW_OWN and a spindle that holds band 5, valid in group 0, PARKED. -/
def ready : Dev :=
  ((((inState 1).set SRV_CTRL.FW_OWN 1 0).set SRV_BAND_VALID.VALID 0x20 0).set SRV_BAND_SEL.MEAS 5 0).set
    SPN_STATUS.REGULATED 1 |>.set SRV_LOAD_CFG.MIN_BAND 5 0

theorem witness_ServoPositioning :
    (rig.takes .control (SRV_COEF.at 0 ((0x5000 - 0x4000) / 4)) = true ∧ rig.coefLocked 0 0 = true ∧
      (rig.set SYS_MODE.MODE 14).coefLocked 0 5 = false ∧ (rig.set SYS_MODE.MODE 14).takes .control (SRV_COEF.at 0 3071) = true) ∧
    (rig.clocked 2 = true ∧ rig.grpq[(0 : Grp)].active = none ∧
      (rig.handRequest 0 (rig.newReq ⟨0, 9, 0, 1, 1, 1, 0, 0, false⟩ (.host []))).grpq[(0 : Grp)].active ≠ none) ∧
    (ready.takes .control (SRV_CMD.at 0) = true ∧ ready.get SRV_CTRL.FW_OWN 0 = 1 ∧ ready.get SRV_STATUS.STATE 0 = 1 ∧
      ready.get SRV_SUP_STATUS.RET_LATCH 0 = 0 ∧
      bit (ready.get SRV_BAND_VALID.VALID 0) (ready.get SRV_BAND_SEL.MEAS 0) = true ∧
      ready.get SRV_LOAD_CFG.MIN_BAND 0 ≤ ready.get SRV_BAND_SEL.MEAS 0 ∧ ready.get SPN_STATUS.REGULATED = 1) ∧
    ((inState 2).clocked (9 + (0 : Grp)) = true ∧ (inState 2).srv[(0 : Grp)].loadFailed = false ∧
      (inState 2).srv[(0 : Grp)].transfer = none ∧
      ((inState 6).onSrv 0 fun s => { s with ramp := true }).onRamp 0 = true ∧ (inState 6).atRest 0 = true ∧
      (inState 6).mode = .active) := by decide +kernel

theorem witness_ServoLinkAndRetract :
    (let f : UpFrame := ⟨0x83, 1, 0x40, 2, 45, 0xBC5B⟩
     upCrcOk f = true ∧ upCrcOk { f with temp := 46 } = false ∧ f.head.toNat / 16 = 8 ∧ f.status.toNat / 8 % 8 = 0 ∧ f.status.getLsbD 7 = false ∧ f.status.toNat / 256 = 0) ∧
    ((inState 5).get SRV_LINK_STATUS.FAULT 0 = 0 ∧ (inState 5).srv[(0 : Grp)].repeated = false) ∧
    (rig.takes .control (SRV_CTRL.at 0) = true ∧ rig.get SRV_CTRL.EN 0 = 0 ∧ rig.get SRV_STATUS.STATE 0 = 0) ∧
    (let d := (inState 5).set SRV_CTRL.EN 1 0
     d.takes .management (SRV_CTRL.at 0) = true ∧ d.get SRV_CTRL.EN 0 = 1 ∧ d.get SRV_CAP_CTRL.ARM 0 = 0) ∧
    (let d := (inState 7).onSrv 0 fun s => { s with retCause := 10, retMask := 1023 }
     d.get SRV_STATUS.STATE 0 = 7 ∧ d.srv[(0 : Grp)].retCause < 16 ∧ d.srv[(0 : Grp)].retMask < 1024 ∧
       bit (d.get SRV_AMP_STATUS.STATUS 0) 6 = false ∧ d.get SRV_LINK_STATUS.FAULT 0 = 0 ∧ d.atRest 0 = true ∧
       d.mode ≠ .retract ∧ d.mode ≠ .coastFlush) := by decide +kernel

theorem witness_ServoTuning :
    (ready.takes .control (SRV_MODE_CMD.at 0) = true ∧ (inState 8).get SRV_STATUS.STATE 0 = 8) ∧
    (let d := (inState 4).set SYS_MODE.MODE 5
     d.takes .control (SRV_ICU_CTRL.at 0) = true ∧ d.mode = .headLoad ∧ d.get SRV_ICU_CTRL.RUN 0 = 0 ∧
       SRV_ICU_CTRL.TYPE.of 0x80000010 ≠ 3) ∧
    (let d := ((inState 5).set SRV_ICU_CTRL.RUN 1 0).onSrv 0 fun s => { s with icu := { s.icu with step := 65535 } }
     d.get SRV_ICU_CTRL.RUN 0 = 1 ∧ d.icuCount 0 ≤ d.srv[(0 : Grp)].icu.step) ∧
    (rig.takes .control (SRV_CAP_CTRL.at 0) = true ∧ SRV_CAP_CTRL.TRIG.of 0x500 = 5 ∧ 5 < SRV_CAP_CTRL.TRIG.of 0x600) ∧
    (let d := ((inState 5).set SRV_CAP_CTRL.ARM 1 0).onSrv 0 fun s => { s with cap := { s.cap with trigged := true } }
     d.get SRV_CAP_CTRL.ARM 0 = 1 ∧ d.srv[(0 : Grp)].cap.trigged = true ∧ d.srv[(0 : Grp)].cap.left = 0) := by decide +kernel

/-! ### Chapters 08 and 09 -/

/-- The rig with the spindle in a state. -/
def spin (n : Nat) : Dev := (heads.set SPN_STATUS.STATE n).set SYS_MODE.MODE 14

/-- A period at 12 V and 7,200 rpm. -/
def period0 : PwmIn :=
  { vecU := 0, vecV := 0, duty := 0, code1 := 0, code2 := 0, offCodes := [], brkCode := 0, vlink := 2560,
    volts := (1280, 1280, 1280), iq := 0, iqWant := 0, angObs := 0, resid := 0, obsSpeed := 115200 }

/-- Chapter 08's example: duties 0.52, 0.50 and 0.48. -/
theorem test_pulses : pwmT (52 / 100) = 1500 ∧ pwmT (1 / 2) = 1563 ∧ pwmT (48 / 100) = 1625 ∧
    pulses 300 1500 1563 1625 = [(1263, 4513), (1563, 4687), (1863, 4863)] := by decide +kernel

theorem witness_PulsesKeepWidth : ∀ x : Fin 3, (300 ≤ ![300, 3125, 3125] x ∧ ![300, 3125, 3125] x ≤ 3125) := by decide +kernel

theorem witness_SpindleCommands :
    ((spin 9).takes .control SPN_CMD.at = true ∧ (spin 9).mode = .makerService ∧ rig.takes .control SPN_CMD.at = true ∧
      rig.mode ≠ .makerService ∧ rig.get SYS_BUS_ERR_INFO.VALID = 0 ∧ rig.takes .management SPN_TARGET.at = true ∧
      (spin 9).takes .control SPN_TARGET.at = true) ∧
    (let d := (spin 9).set SPN_CMD.GO 1
     d.islandUp 13 = true ∧ d.get SPN_LINK_CFG.PF_VLINK ≤ linkMv period0.vlink ∧ linkHigh (linkMv period0.vlink) = false ∧
       d.spn.revAcc + d.speedOf period0 < 30720000 ∧ d.spn.restart = false ∧
       period0.resid ≤ d.get SPN_OBS_CFG.RES_THR ∧ d.get SPN_STATUS.SRC ≠ 2 ∧ d.get SPN_STOP_STATUS.CHOP_ON = 0 ∧ d.spn.ovStage = 0 ∧
       d.get SPN_STATUS.STATE = 9 ∧ d.get SPN_CMD.GO = 1 ∧ d.get SPN_CMD.OP = 0 ∧ d.ksFenced 14 = false ∧
       d.allParked = true ∧ (d.set SRV_STATUS.STATE 5 0).allParked = false) ∧
    (rig.takes .control SPN_CTRL.at = true ∧ rig.get SPN_STATUS.STATE = 0) ∧
    (let d := (spin 8).onSpn fun s => { s with zcRetract := true }
     d.get SPN_OBS_CFG.REACQ_CNT ≠ 0 ∧ d.spn.zcRetract = true ∧
       (d.set SPN_OBS_CFG.RES_THR 2).get SPN_OBS_CFG.RES_THR < 2 * { period0 with resid := 2 }.resid) ∧
    ((spin 7).onSpn fun s => { s with fine := 32000000 }).speedOf period0 = 115200 ∧
    (spin 7).speedOf { period0 with obsSpeed := 15999 } < 16000 ∧
    (let d := ((spin 5).set SPN_STOP_STATUS.CHOP_ON 1).onSpn fun s => { s with lowBrk := 2 }
     d.get SPN_STOP_STATUS.CHOP_ON = 1 ∧ d.clocked 13 = true ∧ d.chopWhy (d.get SPN_MEAS.VLINK) ≠ 0) ∧
    ((spin 11).onSpn fun s => { s with ovStage := 2, under := 1 }).spn.ovStage = 2 := by decide +kernel

theorem witness_SpindleStart :
    (coastFinding 4 [] = (true, 0) ∧ (coastFinding 4 [(.u, 0), (.v, 1000), (.w, 2000)]).1 = true ∧
      (coastFinding 4 [(.w, 0), (.v, 1000), (.u, 2000)]).1 = false ∧ phasesOf [(Sys2Proof.Phase.u, 0), (.v, 1000), (.w, 2000)] = 3) ∧
    ((spin 2).set FLT_SITE_CFG.ACTION 0 0 160).get FLT_SITE_CFG.ACTION 0 160 = 0 ∧
    ((300 : Int) - 295).natAbs * 100 < 3 * max 300 295 ∧ 3 * max 300 200 ≤ ((300 : Int) - 200).natAbs * 100 ∧
    9600 ≤ ((spin 4).set SPN_SPEED.SPEED 9600).get SPN_SPEED.SPEED ∧
    (spin 3).spn.polAt = none ∧ ((spin 3).onSpn fun s => { s with polAt := some 7, hfiRun := 64 }).spn.polAt.isSome = true ∧
    (List.filter (fun (x : Sys2Proof.Phase × Nat) => decide (5 ≤ x.2) && x.1 == Sys2Proof.Phase.v)
      ((spin 6).spn.cross ++ [(Sys2Proof.Phase.u, 5)])).length < 2 ∧
    (let d := (spin 6).set SPN_KE_REF.KE 8330
     d.spn.abnormal = false ∧ ((8610 : Int) - d.get SPN_KE_REF.KE).natAbs * 100 ≤ 8 * d.get SPN_KE_REF.KE ∧
       8 * d.get SPN_KE_REF.KE < ((9100 : Int) - d.get SPN_KE_REF.KE).natAbs * 100) := by decide +kernel

/-- Five crossings after the first in 12.5 ms: 1,000 rpm with four pole pairs. The quotients are exact, so that no free rounding
matters. -/
theorem witness_SpindleStart_ke :
    (let d := ((spin 6).set SPN_MODEL.POLE_PAIRS 4).onSpn fun s => { s with kePeak := 861, cross :=
       [(.u, 100), (.v, 2600), (.w, 5100), (.u, 7600), (.v, 10100)] }
     d.keWindow [(.w, 12600)] [] 100 = (some 16000, 861)) ∧ (freeDiv ((861 : Nat) * 160000 : Nat) (16000 : Nat)).toNat = 8610 := by
  decide +kernel

theorem witness_SpindleAtSpeed :
    ((spin 5).get SPN_STATUS.STATE = 5 ∧ (spin 8).spn.before = 5 ∧ (spin 8).spn.commAt = none ∧
      ((spin 8).onSpn fun s => { s with reacq := 8 * 255 }).mayReacquire = true) ∧
    ((spin 5).set SPN_STATUS.SRC 2).get SPN_STATUS.SRC = 2 ∧
    (spin 5).spn.grid = none ∧
    (let d := (spin 5).onSpn fun s => { s with grid := some 0, fine := 1000000 }
     let e := fun (t : Nat) => (t : Rat) - (0 + d.wedgeEighths)
     d.phaseError (2 ^ 60) = some (e (2 ^ 60)) ∧ d.wedgeEighths < 2 * e (2 ^ 60) ∧
       d.phaseError 4000000 = some (e 4000000) ∧ 2 * e 4000000 ≤ d.wedgeEighths ∧ -(2 * e 4000000) ≤ d.wedgeEighths ∧
       d.spn.revWedges + 1 < d.nw ∧ d.driven = true ∧ d.nw ≤ (d.onSpn fun s => { s with revWedges := 767 }).spn.revWedges + 1 ∧
       d.outOfTol (d.wedgeEighths * d.nw) (((4000000 : Nat) : Int) - (0 : Int) : Int) = true) ∧
    (atLeast1 ((spin 5).get SPN_REG_CFG.REG_REVS) ≤ (List.replicate 16 (-500 : Int)).length ∧
      (∀ e ∈ (List.replicate 16 (-500 : Int)).reverse.take (atLeast1 ((spin 5).get SPN_REG_CFG.REG_REVS)),
        Int.natAbs e ≤ (spin 5).get SPN_REG_CFG.REG_TOL * 10) ∧ (spin 5).driven = true) := by decide +kernel

/-- Rate matching in ACTIVE at band 13 with every band valid in group 0, and a demand that needs more. -/
def matching : Dev :=
  ((((rig.set FMT_LANES.PRESENT 255 0).set SRV_BAND_VALID.VALID 0xFFFFFF 0).set RMT_CTRL.EN 1).set RMT_RATE.MEDIA_RATE 7000).set
    SRV_BAND_VALID.VALID 0xFFFFFF 1

theorem witness_RateMatching :
    matching.get RMT_CTRL.EN = 1 ∧ matching.inMode [.active, .glide, .lightIdle, .deepIdle] = true ∧
    matching.get RMT_HOST.FLOOR ≤ matching.tgtBand ∧ matching.tgtBand = 13 ∧ matching.ceilEff = 23 ∧
    matching.bNeed 6000 = 18 ∧ matching.takes .control RMT_HOST.at = true ∧
    (let d := matching.set RMT_HOST.CEIL 9
     d.rmtRuns = true ∧ d.ceilEff = 9 ∧ d.ceilEff < d.tgtBand ∧ d.heldBufs ≤ d.limitOf 9 ∧
       (d.onQue fun q => { q with cmds := [] }).limitOf 9 < 5000) ∧
    matching.rmtRefused (RMT_HOST.FLOOR.of 0x1704) (RMT_HOST.CEIL.of 0x1704) = false ∧ 23 < RMT_HOST.FLOOR.of 0x1718 := by
  decide +kernel

/-- The rig with one sector of the held portion. -/
def holding : Dev := rig.onQue fun q => { q with held := [⟨1, 0, 0, false, [], 0, 0, false, [], none⟩] }

theorem witness_BrakingAndPowerLoss :
    ((spin 5).islandUp 13 = true ∧ (spin 5).get SPN_STOP_STATUS.CHOP_BAD = 0 ∧ (spin 5).get SPN_CMD.GO = 0 ∧
      (spin 5).spn.pf = false ∧ (spin 5).heldEmpty = true ∧
      holding.heldEmpty = false ∧ holding.inMode [.safe, .off] = false) ∧
    ((heads.set SYS_MODE.MODE 4).onSpn fun s => { s with pf := true, restart := true }).mode = .spinUp ∧
    linkHigh (linkMv 2986) = true ∧ linkMv 2986 < 15000 ∧ linkHigh (linkMv 2985) = false ∧
    (let d : Dev := ({ heads.set SYS_MODE.MODE 12 with pwrfail := true } : Dev).onQue fun q =>
       { q with flush := some { epoch := 1, since := 0, exts := [] } }
     d.mode = .coastFlush ∧ d.pwrfail = true ∧ d.que.flush.isSome = true) ∧
    (heads.onSeq fun s => { s with spinDown := 2 }).drained = true ∧
    ((spin 11).set SPN_STOP_STATUS.PHASE 3).get SPN_STOP_STATUS.PHASE = 3 ∧ (spin 11).clocked 13 = true ∧ (spin 11).spn.ovStage = 0 := by decide +kernel

/-! ### Chapters 10 and 11 -/

/-- Group 1 of the typical pack with zone 0 of 762 sectors, namespace 1 with entry 3 in band 32,778 (chapter 10's example). -/
def mapped : Dev :=
  { rig with
    zones := rig.zones.set 1 [⟨0, 29998080, 762, 0, 0, 0, 0⟩, ⟨1000, 28000000, 700, 0, 0, 0, 0⟩]
    band := { rig.band with
      dir := [(32778, ⟨1, 374500, bsUser, false, 0xFF, 1, 3⟩)], maps := [(1, 3, some 32778)],
      ns := [{ nsid := 1, nsze := 2 ^ 20, lbaf := 0 }] } }

def xlateState : Dev := (mapped.set WLT_XLATE_LBA_LO.LBA 0x000D86A0)

/-- The device after a write that is taken. -/
def taken (w : Write) : Dev := match w with
  | .ok d => d
  | .error _ => rig

/-- The three result words of chapter 10's example. -/
theorem test_xlate : (taken (xlateState.xlateWrite .control 0x80000001)).word WLT_XLATE_RES0 = 0x810710A0 ∧
    (taken (xlateState.xlateWrite .control 0x80000001)).word WLT_XLATE_RES1 = 0x0007F8A5 ∧
    (taken (xlateState.xlateWrite .control 0x80000001)).word WLT_XLATE_RES2 = 0x0000800A := by decide +kernel

/-- N_bw of R334's table. -/
theorem test_weltCount : [1, 2, 3, 4, 5, 6, 7].map weltCount = [262144, 131072, 87382, 65536, 52429, 43691, 37450] := by
  decide +kernel

/-- The powers of the generator and its inverse under 0x11D. -/
theorem test_gf : gfMul 0x80 2 = 0x1D ∧ gfInv 2 = 0x8E ∧ gfPow 8 = 0x1D := by decide +kernel

/-- A change that gives band 32,779 to the next area. -/
def change0 : BandChange := ⟨[(32779, ⟨1, 411950, bsUser, false, 0xFF, 1, 2⟩)], [(1, 2, some 32779)]⟩

/-- The group has room for the change. -/
def roomy : Dev :=
  { mapped with band := { mapped.band with layout := mapped.band.layout.set 1 (some ⟨0xFF, false, 4, 2000000, [], 0, [], 0, 0⟩) } }

/-- Group 1 of the rig is ONLINE with its heads; band 32,778 names all of them. -/
def online : Dev := (((mapped.set FMT_LANES.PRESENT 255 1).set CBL_GRP.STATE 0 0 1).set CBL_GRP.WIDTH 8 0 1).set
  SRV_STATUS.STATE 5 1

/-- ACTIVE with the cobbler on, group 1 loaded and a welt of it marked. -/
def cobbling : Dev :=
  let d := ((online.set CBL_CTRL.EN 1).set CBL_GRP.FAILED 2 0 1)
  { d with band := { roomy.band with marked := [(1, 374500, 1)] } }

theorem witness_WeltGeometry :
    (0xFD < 256 ∧ 3 ≤ popcount8 0xFD) ∧
    ((mapped.zones[(1 : Grp)].map Zone.firstCyl).Pairwise (fun a b : Nat => a < b) ∧
      mapped.zones[(1 : Grp)].head?.map Zone.firstCyl = some 0 ∧ (∀ z ∈ mapped.zones[(1 : Grp)], 0 < z.spt)) := by
  decide +kernel

theorem witness_RebuildRestores : (∀ f ∈ [[(1 : Byte), 2], [3, 4], [5, 6]], f.length = 2) ∧
    [[(1 : Byte), 2], [3, 4], [5, 6]].length ≤ 7 := by decide +kernel

theorem witness_BandTable :
    (roomy.clocked 7 = true ∧ roomy.band.change = none ∧ (∀ g : Grp, roomy.extentsOk (roomy.dirAfter change0) g = true) ∧
      roomy.changeOk ⟨[(32779, ⟨1, 374501, bsUser, false, 0xFF, 1, 2⟩)], []⟩ = false ∧
      (roomy.band.dir.map Prod.fst).Pairwise (fun m n : Nat => m < n) ∧ roomy.extentsOk roomy.band.dir 1 = true) ∧
    (({ roomy with band := { roomy.band with change := some { change := change0, waits := [], ranges := [] } } } : Dev).band.change =
        some { change := change0, waits := [], ranges := [] } ∧ change0.dir ≠ [] ∧ roomy.beyond 1 = false ∧
      ((roomy.set CBL_GRP.FAILED 3 0 1).onBand fun b => { b with dir := roomy.dirAfter change0 }).beyond 1 = true ∧
      (∀ p ∈ change0.dir, (∀ g : Grp, p.1 ≠ stagingOf g) ∧ p.2.state ≠ bsFree)) ∧
    (xlateState.takes .control WLT_XLATE_CTRL.at = true ∧ WLT_XLATE_CTRL.NSID.of 1 = 1 ∧
      (xlateState.nsOf 1).map Ns.nsze = some (2 ^ 20) ∧ xlateState.nsOf 2 = none ∧
      xlateState.mapOf 1 3 = some (some 32778) ∧ xlateState.mapOf 1 0 = none) := by decide +kernel

theorem witness_GroupCommands :
    (online.clocked 7 = true ∧ online.get SRV_STATUS.STATE 1 ≠ 0 ∧ online.hasHead 9 = true ∧ online.laneOn 9 = false ∧ bit (online.failedMask 1) 1 = false ∧
      online.grpState 1 = gsOnline ∧ (online.set CBL_CTRL.AUTO_REBUILD 0).get CBL_CTRL.AUTO_REBUILD = 0 ∧
      (online.bandsOf 1).any (fun p => bit p.2.members 1 && p.2.state != bsRetired) = true) ∧
    (online.takes .control CBL_CMD.at = true ∧ CBL_CMD.GROUP.of 0x10 = 1 ∧ rig.grpState 1 = gsOffline ∧
      (online.set CBL_GRP.STATE 1 0 1).grpState 1 = gsDegraded) ∧
    (((online.set CBL_GRP.WIDTH 3 0 1).reserveCheck 1).1 ≠ 0 ∧ (online.reserveCheck 1).1 = 0 ∧ online.bandsOf 1 ≠ [] ∧
      (∀ p ∈ online.bandsOf 1, p.2.state ≠ bsRetired ∧ bit p.2.members 1 = true)) ∧
    (let d : Dev := { online with band := { roomy.band with dir := [(32778, ⟨1, 0, bsUser, false, 0xFF, 1, 3⟩)] } }
     (d.reserveCheck 1).1 = 0 ∧ (d.reserveCheck 1 (popcount8 (d.namedFailed 1))).1 = 0) := by decide +kernel

theorem witness_JournalAndCobbler :
    (let d : Dev := { online with band := { online.band with
         pending := [.lost true ⟨0, 1, 1, 1, 0⟩]
         dir := online.band.dir ++ [(32770, ⟨1, 74900, bsJournal, false, 0xFF, 0, 0⟩)] } }
     let d := d.set CBL_JNL.COPY_A 1
     d.clocked 7 = true ∧ d.band.commit = none ∧ d.band.intents = [] ∧ d.band.lastCommit = none ∧ d.band.pending ≠ [] ∧ d.jnlCopies ≠ [] ∧ rig.jnlCopies = []) ∧
    ((rig.set SYS_MODE.MODE 5).mode = .headLoad ∧ ∀ g : Grp, rig.get SRV_STATUS.STATE g ≠ 2) ∧
    (cobbling.get CBL_CTRL.EN = 1 ∧ cobbling.mode = .active ∧ cobbling.loaded 1 = true ∧ cobbling.grpFenced 1 = false ∧
      cobbling.virginGroup 1 = false ∧ cobbling.grpq[(1 : Grp)].step = none ∧ cobbling.pwrfail = false ∧
      cobbling.band.ops = [] ∧ cobbling.shareOpen 1 false = true ∧ cobbling.get CBL_JNL.BUILDING = 0 ∧ cobbling.nextMarked 1 = some (374500, 1) ∧
      (cobbling.bandOver 1 374500).map (fun p => p.2.missing (cobbling.failedMask 1)) = some 1) ∧
    (let d : Dev := { cobbling with band := { cobbling.band with marked := [] } }
     d.nextMarked 1 = none ∧ d.shareOpen 1 true = true ∧ d.get CBL_CTRL.PATROL_EN = 1 ∧ d.grpState 1 ≠ gsOffline ∧
       d.trackSpans 1 1 d.band.patrol[(1 : Grp)] (d.welts 1 - d.band.patrol[(1 : Grp)]) ≠ []) ∧
    (let d := cobbling.beginStep 1 2 374500 1
     d.grpq[(1 : Grp)].step = some (2, 374500, 1) ∧ d.band.ops = [] ∧ d.stepBusy 1 = false) := by decide +kernel

/-! ### Chapters 12 and 13 -/

/-- A descriptor with one test, byte 0 of 64-byte records equals 0x41, and one term that uses it (R505, R506). -/
def desc0 : List Byte :=
  [0x53, 0x43, 0x4E, 0x31, 0, 64, 1, 0, 1] ++ List.replicate 55 0 ++ [1, 1, 0, 0, 0, 0, 0, 0, 0x41] ++
    List.replicate 1015 0 ++ [0, 1] ++ List.replicate 3006 0

/-- A four-LBA command of namespace 1 whose PRP list is aligned. -/
def arg0 : IoArgs :=
  ⟨7, 0, 1, 0, 4, false, false, .prp 0 (List.replicate 512 0), ⟨false, false, false, false, 0, 0, 0, 0, []⟩⟩

/-- The mapped rig with the host engine on, the PF's I/O queue 1 of 16 entries, and namespace 1 attached to the PF. -/
def served : Dev :=
  let d := ((((mapped.set HST_CTRL.EN 1).set QUE_CTRL.EN 1).set HST_FN_STATUS.PRESENT 1 0 0).set SCN_CTRL.EN 1).set
    BPM_FREE.COUNT 1000
  let d := ((d.set BPM_QUOTA.MAX 8 0 0).set HST_FN_STATUS.CC_EN 1 0 0).set HST_FN_STATUS.RDY 1 0 0
  let d := d.onFn 0 fun f => { f with sqs := [⟨1, 16, 1, 0, []⟩], cqs := [⟨1, 16, 1⟩] }
  d.onBand fun b => { b with ns := [{ nsid := 1, nsze := 2 ^ 20, lbaf := 0, attached := [0] }] }

/-- A fetched command of the PF's queue 1. -/
def cmdOf (f : Word) (c : IoCmd) (st : Stage) : Cmd := { f := f, q := ⟨0, 1⟩, io := arg0, cmd := c, stage := st, issued := 0 }

/-- A read and a write of the same LBAs, fetched in that order, and a held sector for each of them. -/
def queued : Dev :=
  served.onQue fun q =>
    { q with
      cmds := [cmdOf 1 .read .lock, cmdOf 2 (.write [[1], [2], [3], [4]]) .lock]
      locks := [⟨1, 1, 0, 4, false, false⟩, ⟨2, 1, 0, 4, true, false⟩]
      held := (List.range 4).map fun k => ⟨1, k, 0, false, List.replicate 4096 (BitVec.ofNat 8 k), 0, 0, false, [], none⟩ }

theorem witness_HostLinkAndFetch :
    (rig.hst.perst = false ∧ rig.islandUp 1 = true ∧ (rig.set HST_LINK.DL_UP 1).get HST_LINK.DL_UP = 1) ∧
    (queued.get HST_FN_STATUS.PRESENT 0 0 = 1 ∧ (queued.que.cmds.map Cmd.f).Nodup ∧ queued.get HST_FN_STATUS.CC_EN 0 0 = 1) ∧
    (served.clocked 2 = true ∧ served.mode = .active ∧ served.hst.perst = false ∧ served.sqOf ⟨0, 1⟩ = some ⟨1, 16, 1, 0, []⟩) ∧
    (let d := served.doorbell ⟨0, 1⟩ [⟨arg0, .read⟩]
     d.nextQueue = some ⟨0, 1⟩ ∧ d.sqOf ⟨0, 1⟩ = some ⟨1, 16, 1, 0, [⟨arg0, .read⟩]⟩ ∧
      d.que.locks.length + d.band.barriers + (lockEntries 0 arg0 .read).length ≤ 8192) ∧
    (served.admits 0 = true ∧ (served.set FLT_SITE_CFG.ACTION 0 0 208).get FLT_SITE_CFG.ACTION 0 208 = 0) := by
  decide +kernel

theorem witness_IoCommands :
    (served.fetching 0 = true ∧ served.sqOf ⟨0, 1⟩ = some ⟨1, 16, 1, 0, []⟩ ∧ served.mode = .active ∧
      served.seq.spinDown = 0 ∧ served.sanitizing = false ∧ (served.nsOf 1).map Ns.attached = some [0] ∧
      served.que.locks.length + served.band.barriers + 256 ≤ 8192 ∧ served.ksFenced 0 = false ∧ served.ksFenced 1 = false) ∧
    (scnReject desc0 = none ∧ desc0.length = 4096 ∧ served.islandUp 19 = true) ∧
    (served.que.cmds = [] ∧ served.que.held = [] ∧ served.que.locks = [] ∧
      (queued.que.held.any fun h => h.nsid == 1 && h.writes.any fun w => fLt w (served.word QUE_FETCH_NUM + 1)) = true) := by decide +kernel

/-- Command 1 or 2 in a stage, without the other's locks. -/
def staged (f : Word) (st : Stage) : Dev :=
  (queued.onCmd f fun c => { c with stage := st }).onQue fun q => { q with locks := q.locks.filter fun l => l.f == f }

theorem witness_LocksBuffersData :
    (queued.clocked 2 = true ∧ queued.cmdOf 2 = some (cmdOf 2 (.write [[1], [2], [3], [4]]) .lock) ∧ fLt (1 : Word) 2 = true ∧
      (staged 2 .lock).grantable 2 = true ∧
      (staged 2 .lock).writeCheck (cmdOf 2 (.write [[1], [2], [3], [4]]) .lock) = some .writeFault) ∧
    (let d := (staged 2 .lock).onBand fun b => { b with maps := [(1, 0, some 32778)] }
     let d := d.set CBL_GRP.STATE 0 0 1
     d.writeCheck (cmdOf 2 (.write [[1], [2], [3], [4]]) .lock) = none ∧
     (d.lookUp (cmdOf 2 (.write [[1], [2], [3], [4]]) .lock)).err = none ∧ d.grantable 2 = true) ∧
    (queued.grantable 1 = true ∧ queued.lbafOf 1 = 0 ∧
      (∀ k < 4, (queued.heldAt 1 (0 + k) 0).isSome = true) ∧ (queued.alloc 0 1 false).1 = bpmOk) ∧
    ((staged 2 .data).cmdOf 2 = some (cmdOf 2 (.write [[1], [2], [3], [4]]) .data) ∧ queued.hst.feats = [] ∧
      queued.get HST_CTRL.PAUSED = 0) ∧
    (let c := cmdOf 1 .read .transfer
     (staged 1 .transfer).cmdOf 1 = some c ∧ queued.bpm.cmb = 0 ∧ (staged 1 .transfer).poisoned c = [] ∧
      ((List.range c.io.count).flatMap c.dataAt).length ≤ 2 ^ 21 ∧ queued.get HST_CTRL.PAUSED = 0) ∧
    (queued.clocked 19 = true ∧ (staged 1 .context).que.cmds.find? (fun c => c.stage == .context) = some (cmdOf 1 .read .context) ∧
      (staged 1 .context).contexts < 64 ∧
      ((staged 1 .context).alloc (cmdOf 1 .read .context).requester ((staged 1 .context).bufsWanted (cmdOf 1 .read .context))
        false).1 = bpmOk ∧
      (((staged 1 .context).setFree 0).alloc 0 1 false).1 ≠ bpmOk) ∧
    (let d := queued.onBand fun b => { b with deletes := [(1, 0, 0, 9)] }
     (d.band.deletes.find? fun x => x.1 == 1) = some (1, 0, 0, 9)) := by decide +kernel

/-- The write of queued waits for its buffers, with nothing held and room under the limit. -/
def granting : Dev :=
  ((((staged 2 .buffer).onQue fun q => { q with held := [] }).set FMT_LANES.PRESENT 255 1).set CBL_GRP.STATE 0 0 1).set
    RMT_HELD_LIMIT.LIMIT 100 0 0

theorem witness_LocksBuffersData_buffers : granting.writesHeld = false ∧ granting.nextWrite.map Cmd.f = some 2 ∧
    (granting.onSeq fun s => { s with spinDown := 1 }).seq.spinDown ≠ 0 := by decide +kernel

/-- A request of group 1's list. -/
def mreq (no cyl : Nat) (why : Purpose) : MediaReq := ⟨no, ⟨0, cyl, 0, 4, 0, 1, 0, 255, false⟩, why, no, 0, 0, 0, []⟩

/-- Group 1 loaded and on track with two host requests. -/
def scheduling : Dev :=
  ((((served.set SRV_STATUS.STATE 5 1).set CBL_GRP.STATE 0 0 1).set QUE_SEEK_EST.US 10000 0 13).set
    SPN_SPEED.SPEED 115200).onGrpq 1 fun q =>
    { q with list := [mreq 0 5000 (.host [1]), mreq 1 10 (.host [2])] }

theorem witness_SchedulerAndFormatter :
    (scheduling.loaded 1 = true ∧ scheduling.grpFenced 1 = false ∧ scheduling.groupAllowed 1 = true ∧
      scheduling.pwrfail = false ∧ scheduling.mode = .active ∧ scheduling.que.held = [] ∧ scheduling.heldBufs = 0 ∧
      scheduling.now ≤ 1000) ∧
    (scheduling.get QUE_CTRL.EN = 1 ∧ scheduling.islandUp 2 = true ∧ scheduling.grpq[(1 : Grp)].active = none ∧
      scheduling.grpq[(1 : Grp)].posted = [] ∧
      ∀ m ∈ scheduling.grpq[(1 : Grp)].list, m.isDestage = false ∧ m.isFlush = false ∧ m.after ≤ scheduling.now) ∧
    (let d := scheduling.onGrpq 1 fun q => { q with active := some (mreq 2 0 (.host [3])) }
     d.clocked 2 = true ∧ d.onCyl 1 0 = true ∧ d.onCyl 1 5 = false ∧ d.fmt[(1 : Grp)].next = none ∧ d.srv[(1 : Grp)].request = none ∧
     (d.set FMT_STATUS.STATE 1 1).fmtState 1 ≠ fsOff) ∧
    (let d := (scheduling.onGrpq 1 fun q => { q with posted := [mreq 2 0 (.cobbler 5)] }).onFmt 1 fun f =>
        { f with evts := [.reqFailed 4] }
     d.hostPosted 1 = false ∧ (∀ i : HeadIx, d.lanes[laneOf 1 i].ladders = [] ∧ d.wantsDec (laneOf 1 i) = false) ∧
      d.intentFor 1 0 = none) ∧
    (let d := (scheduling.set SYS_MODE.MODE 12).onGrpq 1 fun q => { q with list := [mreq 0 0 (.flush 1), mreq 1 0 (.flush 0)] }
     d.mode = .coastFlush ∧ d.loaded 1 = true ∧ d.grpFenced 1 = false ∧
      ∃ m ∈ d.grpq[(1 : Grp)].list, m.isFlush = true ∧ m.part ≤ 2) := by decide +kernel

/-! ### Admin commands -/

/-- The served rig with one I/O queue pair whose commands are none. -/
def adm : Dev := served.set SEC_STATUS.ENTROPY_OK 1

/-- VF 3 present and served. -/
def vf3 : Dev := adm.set HST_FN_STATUS.PRESENT 1 0 3

theorem witness_AdminCommands :
    (adm.fetching 0 = true ∧ adm.mode = .active ∧ adm.queueLimit 0 = 64 ∧ adm.vectorLimit 0 = 64 ∧
      (∀ x ∈ adm.hst.fns[(0 : Fn)].sqs, x.qid ≠ 2) ∧ (∃ x ∈ adm.hst.fns[(0 : Fn)].cqs, x.qid = 1) ∧
      (∀ x ∈ adm.hst.fns[(0 : Fn)].cqs, x.qid ≠ 2) ∧ ∃ x ∈ adm.hst.fns[(0 : Fn)].sqs, x.cqid = 1) ∧
    ((∀ c ∈ adm.que.cmds, c.q ≠ ⟨0, 1⟩) ∧ adm.hst.fns[(0 : Fn)].aers.length < 8 ∧ adm.hst.selfTest = none ∧
      (adm.onFn 0 fun f => { f with aers := [1, 2, 3, 4, 5, 6, 7, 8] }).hst.fns[(0 : Fn)].aers.length = 8) ∧
    ((adm.onQue fun q => { q with cmds := [cmdOf 1 .read .lock] }).que.cmds = [cmdOf 1 .read .lock] ∧
      (cmdOf 1 .read .lock).q = ⟨0, 1⟩ ∧ (cmdOf 1 .read .lock).io.cid = 7) ∧
    (adm.get RMT_HOST.FLOOR ≤ psCeil 2 ∧ (∀ e ∈ [(3, 100), (4, 0), (7, 0)], e.2 = 0 ∨ e.1 = 3 ∨ e.1 = 4) ∧
      queued.que.held ≠ [] ∧ queued.seq.spinDown = 0 ∧ queued.fetching 0 = true ∧
      (adm.onSeq fun s => { s with spinDown := 1 }).fetching 0 = true) ∧
    (adm.hst.download = [] ∧ adm.flexUsed.1 + 2 ≤ 960 ∧ adm.hst.fns[(3 : Fn)].online = false) ∧
    vf3.fetching 3 = true := by decide +kernel

/-- A spin-down is held while the mode is SPIN_UP and refused in RETRACT (R411). -/
theorem test_askDown_held : (rig.setMode .spinUp).askDown.2 = .success ∧
    (rig.setMode .spinUp).askDown.1.seq.spinHeld = some false ∧ (rig.setMode .retract).askDown.2 = .sequenceError := by
  decide +kernel

/-- The rig with a free user area in group 1, for a namespace of one band. -/
def freeArea : Dev :=
  (adm.set CBL_GRP.STATE 0 0 1).onBand fun b =>
    { b with dir := b.dir ++ [(32779, ⟨1, 411950, bsFree, false, 0xFF, 0, 0⟩)] }

theorem witness_NamespaceCommands :
    ((adm.setMode .standby).fetching 0 = true ∧ (adm.setMode .standby).mode = .standby) ∧
    (freeArea.createRefused (2 ^ 18) (2 ^ 18) 0 = none ∧
      (∀ m ∈ (takeBands freeArea.giving ({ nsid := 2, nsze := 2 ^ 18, lbaf := 0 } : Ns).wanted freeArea.band.dir
        ⟨[], []⟩).maps, m.2.2 ≠ none) ∧
      (∃ m ∈ (takeBands adm.giving ({ nsid := 2, nsze := 2 ^ 18, lbaf := 0 } : Ns).wanted adm.band.dir
        ⟨[], []⟩).maps, m.2.2 = none) ∧ adm.createRefused (2 ^ 18) (2 ^ 18) 0 = none) ∧
    (adm.band.ns.map Ns.nsid = [1] ∧ adm.get SEC_STATUS.ENTROPY_OK = 1 ∧ adm.sanitizing = false ∧
      (adm.nsOf 1).map Ns.attached = some [0]) ∧
    (freeArea.formatRefused 1 0 1 = none ∧ fmtLbaf 0 = 0 ∧ (freeArea.nsOf 1).map Ns.lbaf = some 0 ∧ freeArea.que.cmds = [] ∧ freeArea.holes = [] ∧ freeArea.nsBands [1] ≠ [] ∧
      freeArea.band.ops = [] ∧ (∀ g : Grp, freeArea.hasHeads g = true → freeArea.grpState g ≠ gsOffline) ∧
      freeArea.nsBands (freeArea.band.ns.map Ns.nsid) ≠ [] ∧ ∀ n ∈ freeArea.band.ns, n.formatting = false) ∧
    (freeArea.onBand fun b => { b with ops := [{ kind := .sanitize 1 0, todo := [32778], total := 1 }] }).sanitizing =
      true := by decide +kernel

/-- The lowest free NSID beside namespace 1. -/
theorem test_freeNsid : freeArea.freeNsid = some 2 := by decide +kernel

/-! ### Chapter 14 -/

/-- The rig with its cache on for requester 72 and no way off. -/
def cached : Dev :=
  ((rig.set CCH_STATUS.STATE 0).set CCH_CTRL.EN 1).set CCH_REQ_ATTR.ALLOC 1 0 72

/-- A line with a byte written in the cache, and a miss register with another. -/
def dirtyLine : Dev :=
  cached.onMem fun m => { m with
    lines := [⟨4, 0, [(513, 0xAA)]⟩]
    misses := [{ line := 9, writes := [(1152, 0x55)] }] }

theorem plainMem_dirtyLine : dirtyLine.plainMem := by
  simp only [Dev.plainMem, Dev.coherent]
  decide +kernel

theorem witness_MemoryReadsWhatWasWritten :
    dirtyLine.clocked 5 = true ∧ dirtyLine.clocked 6 = true ∧ dirtyLine.injecting (256 + bufPc (0x123 / 65536)) = none ∧
      (dirtyLine.missOf 9).isSome = true ∧ dirtyLine.wayState 0 = 0 ∧ dirtyLine.cacheState = 0 := by decide +kernel

theorem plainMem_drained : (dirtyLine.onMem fun m => { m with misses := [] }).plainMem := by
  simp only [Dev.plainMem, Dev.coherent]
  decide +kernel

theorem witness_CacheKeystonesScrubber :
    (cached.takes .control CCH_WAY_CTRL.at = true ∧ cached.takes .control CCH_SCRATCH.at = true ∧
      cached.takes .control CCH_CTRL.at = true ∧ cached.takes .control CCH_MAINT_CMD.at = true ∧
      cached.takes .control (MEM_KS.at 0 5) = true ∧ CCH_SCRATCH.COUNT.of 8 = 8 ∧ CCH_SCRATCH.COUNT.of 9 = 9) ∧
    ((cached.setWay 3 3).wayState 3 = 3 ∧ cached.wayState 3 = 0 ∧ bit (CCH_WAY_CTRL.OFF.of 8) 3 = true ∧
      bit ((cached.set CCH_WAY_CTRL.OFF 8).get CCH_WAY_CTRL.OFF) 3 = true ∧ (cached.setWay 3 1).wayState 3 = 1) ∧
    ((cached.set CCH_STATUS.STATE 1).cacheState = 1 ∧ rig.cacheState = 2 ∧ cached.get CCH_MAINT_CMD.GO = 0 ∧
      cached.mem.misses = [] ∧ (cached.set CCH_MAINT_CMD.GO 1).get CCH_MAINT_CMD.GO = 1) ∧
    ((∀ k : Fin 64, cached.ksFenced k = false ∧ (cached.mem.ks[k].vote).2 = .agree) ∧ cached.merging = false ∧
      (cached.set SYS_MODE.MODE 14).merging = true) ∧
    (cached.clocked 7 = true ∧ cached.clocked (scrubIsland 3) = true ∧ cached.injecting 200 = none ∧ cached.injecting 400 = none ∧
      ((cached.onMem fun m => { m with maint := some ⟨0, 0, 0, 0⟩ }).mem.maint).isSome = true ∧
      cached.get MEM_SCRUB_CFG.EN = 1 ∧ cached.mem.next[(3 : Fin 8)] + 1 < scrubSize 3 ∧
      (cached.onMem fun m => { m with next := m.next.set 3 16383 }).mem.next[(3 : Fin 8)] + 1 = scrubSize 3) := by
  decide +kernel

/-- Chapter 14's example: buffer address 0x0_2345_6780. -/
theorem test_bufferAddress : 0x23456780 / 65536 = 0x2345 ∧ bufPc 0x2345 = 32 + 2 ∧ mirrorAddr 0x23456780 / 65536 = 9028 ∧
    0x23456780 / 128 % 32768 = 0xACF ∧ 0x23456780 / 2 ^ 22 = 0x8D := by decide +kernel

/-- Two good copies outvote the third (R478). -/
theorem test_vote : ({ a := 5, b := 7, c := 7 } : KsWord).vote = (7, .ce) ∧
    ({ a := 5, b := 7, c := 9 } : KsWord).vote.2 = .fence ∧
    ({ a := 5, b := 7, c := 9, okA := false, okC := false } : KsWord).vote = (7, .uc) := by decide +kernel

/-! ### Chapter 15 -/

/-- The rig with its pool on: buffer 5 is requester 3's, and requester 4 may have one more. -/
def pooled : Dev :=
  (((rig.set BPM_CTRL.EN 1).set BPM_FREE.COUNT 1000).set BPM_QUOTA.MAX 8 0 4).onBpm fun p =>
    { p with recs := [⟨5, 3, 0, false, false⟩], waiting := [] }

/-- Channel 2 with a COPY of 128 bytes onto itself, 64 bytes higher. -/
def copying : Dev := { dirtyLine with jobs := dirtyLine.jobs.set 2 (some ⟨0x4000, 0x4040, 128, 0, 0, false⟩) }

/-- The same job in the channel's registers. -/
def toCopy : Dev :=
  (((rig.set SHU_CTRL.EN 1).setWord SHU_SRC_LO 0x4000 0 2).setWord SHU_DST_LO 0x4040 0 2).set SHU_COUNT.BYTES 128 0 2

theorem witness_BufferPoolAndShuttle :
    (pooled.clocked 5 = true ∧ pooled.get BPM_CTRL.EN = 1 ∧ 4 ∉ pooled.flt.requesters ∧ pooled.bufsOf 4 + 1 ≤ pooled.get BPM_QUOTA.MAX 0 4 * 16 ∧
      1 + pooled.reserved 4 ≤ pooled.get BPM_FREE.COUNT ∧ 7 < bufTotal ∧ pooled.bufFree 7 = true ∧
      (pooled.set BPM_QUOTA.MAX 0 0 6).get BPM_QUOTA.MAX 0 6 * 16 < pooled.bufsOf 6 + 1) ∧
    (pooled.bufRec 5 = some ⟨5, 3, 0, false, false⟩ ∧ 5 + pooled.bpm.cmb < bufTotal ∧ pooled.pcFenced (bufPc 5) = false) ∧
    (toCopy.takes .control (SHU_CH_CTRL.at 0 2) = true ∧ toCopy.jobs[(2 : Chan)] = none ∧
      toCopy.jobCheck 2 (toCopy.jobOf 2) = none ∧ toCopy.injecting (336 + (2 : Chan).val) = none ∧ (toCopy.jobOf 2).stream = false ∧
      (toCopy.jobOf 2).src ≠ (toCopy.jobOf 2).dst ∧ rig.jobCheck 2 (rig.jobOf 2) = some 6) ∧
    (copying.clocked 5 = true ∧ copying.takes .control (SHU_CH_CTRL.at 0 2) = true ∧ copying.takes .control SHU_CTRL.at = true ∧
      copying.jobs[(2 : Chan)] = some ⟨0x4000, 0x4040, 128, 0, 0, false⟩) ∧
    (let j : Job := ⟨0x4000, 0x4040, 128, 0, 0, false⟩
     j.mode = 0 ∧ j.legal = true ∧ j.aligned = true ∧ j.mapped = true ∧ j.stream = false) := by decide +kernel

theorem plainMem_copying : copying.plainMem := by
  simp only [Dev.plainMem, Dev.coherent]
  decide +kernel

/-- A COPY upwards over itself goes backward (R500). -/
theorem test_backward : (⟨0x4000, 0x4040, 128, 0, 0, false⟩ : Job).backward = true ∧
    (⟨0x4040, 0x4000, 128, 0, 0, false⟩ : Job).backward = false := by decide +kernel

/-! ### Chapter 17 -/

/-- Source 481 asserted at priority 10 for core 1, which takes interrupts. -/
def asserted : Dev :=
  let d := (((rig.set ICT_CTRL.EN 1).set ICT_CPU_CTRL.EN 1 0 1).setWord ICT_SRC_CFG 0x10A 0 481).setWord QUE_INT_STATUS 2
  d.setWord QUE_INT_EN 2

/-- The same source pending, or active on core 1. -/
def pends : Dev := asserted.setSrc 481 1
def active481 : Dev := (asserted.setSrc 481 2).onIct fun t => { t with stack := t.stack.set 1 [(481, 10)] }

/-- Core 1 asleep, watched by entry 3 on source 481. -/
def asleep : Dev := (pends.setWord VGL_SLEEP 2).setWord VGL_WATCH 0x800001E1 0 3

theorem witness_InterruptsAndVigil :
    (asserted.statusSet 481 = true ∧ bit (asserted.get TRC_CTRL.RANGES) (sourceRow 481) = false ∧ asserted.islandUp 7 = true ∧
      asserted.line 481 = true ∧ asserted.srcState 481 = 0 ∧ asserted.srcPrio 481 = 10) ∧
    (let d := asserted.setWord TRC_CTRL 0x40000020
     d.islandUp 20 = true ∧ bit (d.get TRC_CTRL.RANGES) (sourceRow 481) = true ∧ d.get TRC_CTRL.TRACE_EN = 0 ∧
      d.get TRC_CTRL.PORT_EN = 1) ∧
    (pends.refusal ⟨coreWho 1, ICT_CLAIM.at 0 1, false, 4⟩ = none ∧ pends.deliverable 1 = some 481 ∧
      pends.deliverable 0 = none ∧ (pends.stackOf 1).length = 0 ∧
      rig.refusal ⟨coreWho 0, ICT_CLAIM.at 0 0, false, 4⟩ = none) ∧
    (active481.takes (coreWho 1) (ICT_EOI.at 0 1) = true ∧ active481.stackOf 1 = [(481, 10)] ∧ bits (481 : Word) 0 10 = 481) ∧
    (rig.takes .control (ICT_SRC_CFG.at 0 1023) = true ∧ rig.takes .control ICT_SWI_LO.at = true ∧
      rig.takes (coreWho 1) VGL_SLEEP.at = true ∧ ∀ e, e < 64 → rig.watches 1 e = false) ∧
    ((∀ y, y < 64 → (asleep.get VGL_WATCH.EN 0 y = 1 ↔ y = 3)) ∧ asleep.line 481 = true ∧
      asleep.get VGL_WATCH.SOURCE 0 3 = 481 ∧ asleep.vigilTarget 481 < 2 ∧
      bit (asleep.get VGL_SLEEP.CORE) (asleep.vigilTarget 481) = true ∧
      asleep.mode = .active) ∧
    (let d := rig.set VGL_CTRL.CMP_EN 1
     d.get VGL_CTRL.CMP_EN = 1 ∧ d.get VGL_TIMER.TICKS = d.get VGL_TIMER_CMP.TICKS) := by decide +kernel

/-- Chapter 17's example: 64 at priority 4 is not delivered under 481, 770 at priority 20 preempts. -/
theorem test_preempt :
    let d := ((active481.setWord ICT_SRC_CFG 0x40000104 0 64).setWord ICT_SRC_CFG 0x40000114 0 770)
    d.deliverable 1 = some 770 ∧ (d.setSrc 770 0).deliverable 1 = none ∧ (d.setSrc 770 0).choice 1 = some 64 := by
  decide +kernel

/-! ### Chapter 18 -/

/-- Site 341 reports: shuttle channel 5. -/
def report341 (cls : Nat) : Report := ⟨341, cls, 0, 0, 0x1234567890, 0⟩

/-- One CE of site 341 counted, its action record only. -/
def counted : Dev := (rig.setCeCount 341 1).set FLT_SITE_CFG.ACTION 0 0 341

/-- A fence of a unit runs, and channel 5 has a job at 256 bytes. -/
def fencing (kind ix : Nat) : Dev :=
  let d := ((rig.set FLT_STATUS.PAUSE 1).set HST_CTRL.PAUSED 1).set SHU_CH_POS.BYTES 256 0 5
  { d with jobs := d.jobs.set 5 (some ⟨0, 4096, 512, 0, 0, false⟩) }.onFlt fun f =>
    { f with running := some ⟨kind, ix, none, .control, 0⟩ }

def makers : Dev := rig.set SYS_MODE.MODE 14

theorem witness_FaultsAndFences :
    (counted.clocked 7 = true ∧ siteSilent 341 = false ∧ counted.get FLT_INJ_STATUS.ACTIVE = 0 ∧ counted.get FLT_SITE_CFG.ACTION 0 341 = 0 ∧
      0 < counted.ceCount 341 ∧ counted.ceCount 341 < counted.get FLT_SITE_CFG.CE_LIM 0 341 * 16 ∧
      (counted.setCeCount 341 256).get FLT_SITE_CFG.CE_LIM 0 341 * 16 ≤ (counted.setCeCount 341 256).ceCount 341) ∧
    (rig.get FLT_SITE_CFG.ACTION 0 341 = 1 ∧ (⟨341, 1, 0, 0, 0x1234567890, 0, false, false⟩ : FaultRec).unit = (5, 5) ∧
      rig.flt.running = none) ∧
    ((fencing 9 3).clocked 7 = true ∧ (fencing 9 3).flt.queue = [] ∧ (fencing 9 3).hst.deferred = [] ∧ (fencing 7 1).mode = .active ∧
      (fencing 5 5).jobs[(5 : Chan)].isSome = true) ∧
    (rig.takes .control FLT_FENCE_CMD.at = true ∧ rig.get FLT_FENCE_CMD.GO = 0 ∧ bits (0x80050005 : Word) 16 4 = 5 ∧
      rig.unitExists 5 5 = true ∧ rig.unitExists 6 0 = false ∧ rig.unitExists 4 15 = true ∧ rig.unitExists 9 81 = true) ∧
    (makers.takes .control FLT_INJ_CTRL.at = true ∧ makers.mode = .makerService ∧ bits (0xA0010155 : Word) 28 2 = 2 ∧
      bits (0xA0010155 : Word) 0 9 = 341 ∧ rig.takes .control FLT_INJ_CTRL.at = true ∧ rig.mode = .active ∧
      rig.get SYS_BUS_ERR_INFO.VALID = 0) := by decide +kernel

/-- A record staged, both copies writable, a maker's session, and the management core loading record 1. -/
def kept : Dev :=
  let d := ((rig.set ALM_STATUS.COPY_A_OK 1).set ALM_STATUS.COPY_B_OK 1).onAlm fun a =>
    { a with staging := [⟨1, 0x0900, 5, 0, [1, 2, 3]⟩], next := 2, views := a.views.set 1 ⟨some 1, none⟩ }
  d.onFn 0 fun f => { f with session := some ⟨3, 1, 0⟩ }

theorem witness_AlmanacAndCounters :
    (kept.get ALM_CTRL.EN = 1 ∧ kept.get ALM_STATUS.FULL = 0 ∧ kept.get ALM_STATUS.RESERVE_FULL = 0 ∧
      kept.alm.powerLoss = none ∧ kept.alm.used + 48 + (4080 + 15) / 16 * 16 ≤ 0x80000 ∧ kept.alm.drops = 0 ∧
      0 < (kept.onAlm fun a => { a with drops := 1 }).alm.drops) ∧
    ((kept.set ALM_CTRL.EN 0).get ALM_CTRL.EN = 0 ∧ kept.clocked 7 = true ∧ kept.alm.staging ≠ [] ∧
      ({ kept with now := 1000000 } : Dev).appendDue = true ∧ kept.mode = .active ∧
      kept.get ALM_STATUS.COPY_A_OK = 1 ∧ kept.get ALM_STATUS.COPY_B_OK = 1 ∧ kept.alm.toA = none ∧ kept.alm.toB = none ∧
      almBytes kept.alm.image + almBytes kept.alm.staging ≤ almSpace - almReserve) ∧
    (kept.takes .control ALM_CTRL.at = true ∧ kept.makerOpen = true ∧ (kept.set SYS_MODE.MODE 14).mode = .makerService ∧
      kept.takes .management ALM_CURSOR.at = true ∧ kept.takes .management ALM_CUR_OFS.at = true ∧
      kept.takes .control ALM_POST_CTRL.at = true ∧ kept.get ALM_POST_CTRL.GO = 0 ∧
      kept.takes .control (TRC_CLEAR.at 0 7) = true) ∧
    (((kept.set SEC_SESSION.OPEN 1 0 0).set SEC_SESSION.ROLE 1 0 0).takes .bar2 ALM_CURSOR.at = true ∧
      kept.alm.views[whoIx .management].loading = some 1 ∧
      ((kept.alm.image ++ kept.alm.staging).find? fun r => r.seq % 2 ^ 32 == 1) = some ⟨1, 0x0900, 5, 0, [1, 2, 3]⟩) := by
  decide +kernel

/-- A record with three payload bytes takes 32 bytes of staging (R550). -/
theorem test_almSize : kept.alm.used = 32 := by decide +kernel

/-- A pack of one group, in whose almanac area both copies lie. -/
theorem witness_AlmanacAndCounters_areas :
    let d : Dev := (rig.set FMT_LANES.PRESENT 255 1).onBand fun b =>
      { b with dir := [(32771, ⟨1, 112350, bsAlmanac, false, 0xFF, 0, 0⟩)], intents := [⟨0, 1, 1, 1, 255, true⟩] }
    (∀ i ∈ d.band.intents, i.grp ≠ 1) ∧ ∀ b, (d.almArea b).map (fun x => x.1) = some 1 := by decide +kernel

/-! ### Chapter 19 -/

/-- The PF with a session of a role. -/
def opened (role : Nat) : Dev := adm.onFn 0 fun f => { f with session := some ⟨role, 7, 0⟩, nonce := some ([1], 0) }

/-- Group 1 online with one band that has all eight heads and room to reshape. -/
def steady : Dev := { opened 2 with band := (opened 2).band }.set CBL_GRP.STATE 0 0 1

theorem witness_SessionsAndRoles :
    (adm.clocked 18 = true ∧ adm.fetching 0 = true ∧ adm.mode = .active ∧ adm.get SEC_STATUS.ENTROPY_OK = 1 ∧ served.get SEC_STATUS.ENTROPY_OK = 0 ∧
      served.fetching 0 = true ∧ adm.get SEC_STATUS.LOCKOUT = 0 ∧ (adm.hst.fns[(0 : Fn)]).session = none) ∧
    ((opened 2).fetching 0 = true ∧ ((opened 2).set SEC_STATUS.LOCKOUT 1).get SEC_STATUS.LOCKOUT = 1 ∧
      ((opened 2).hst.fns[(0 : Fn)]).session = some ⟨2, 7, 0⟩ ∧ ((opened 2).hst.fns[(0 : Fn)]).salvaging = none ∧
      (opened 2).bandAt 32778 = some ⟨1, 374500, bsUser, false, 0xFF, 1, 3⟩ ∧
      9 + 512 ≤ weltCount (⟨1, 374500, bsUser, false, 0xFF, 1, 3⟩ : BandEntry).data *
        (⟨1, 374500, bsUser, false, 0xFF, 1, 3⟩ : BandEntry).data ∧
      (⟨1, 374500, bsUser, false, 0xFF, 1, 3⟩ : BandEntry).data ≠ 0) ∧
    (((opened 2).hst.fns[(0 : Fn)]).salvage = none ∧ ∀ k : Fin 64, (opened 2).ksFenced k = false) ∧
    (((opened 3).set SYS_MODE.MODE 14).fetching 0 = true ∧ ((opened 3).set SYS_MODE.MODE 14).mode = .makerService ∧
      ((opened 3).set SYS_MODE.MODE 7).fetching 0 = true ∧ ((opened 3).set SYS_MODE.MODE 7).mode = .glide ∧
      (opened 3).seq.spinDown = 0) ∧
    (let d := (queued.onFn 0 fun f => { f with session := some ⟨3, 7, 0⟩ }).set SYS_MODE.MODE 14
     d.que.held ≠ [] ∧ d.fetching 0 = true ∧ (d.set SRV_STATUS.STATE 5 1).allParked = false) := by decide +kernel

/-- OPEN's checks in their order (R563): no nonce; one that is older than 60 s; a role 0. -/
theorem test_openCheck : adm.openCheck 0 [] = some .sequenceError ∧ (opened 1).openCheck 0 [] = some .invalidField ∧
    ({ opened 1 with now := 60000001 } : Dev).openCheck 0 [] = some .sequenceError ∧
    (opened 1).openCheck 0 (List.replicate 16 0 ++ [1]) = some .accessDenied := by decide +kernel

/-! ### Chapter 20 -/

/-- The device at LAST_LOAD after a cold reset, and in HEAD_LOAD with group 0 at SETTLE. -/
def atLoad : Dev := rig.set SYS_MODE.MODE 3
def atHeads : Dev := (heads.set SYS_MODE.MODE 5).set SRV_STATUS.STATE 5 0

/-- A slot whose bytes have a wrong magic. -/
def badImage : Image := readImage (List.replicate 64 1)

/-- A spin-up whose spindle has failed; a device that idles. -/
def faulted : Dev := (rig.set SYS_MODE.MODE 4).set SPN_STATUS.STATE 10
def idling : Dev := rig.onHst fun h => { h with apst := [(3, 50), (3, 50), (3, 50), (4, 30000)] }

theorem witness_ResetsAndLastLoad :
    (State.reset.dev.mode = .romBoot ∧ rig.mode = .active ∧ atLoad.mode = .lastLoad) ∧
    (queued.takes .control SYS_RESET_CMD.at = true ∧ queued.seq.prep = 0 ∧ queued.seq.spinDown = 0 ∧ queued.mode = .active ∧
      queued.que.held ≠ [] ∧ (queued.set SRV_STATUS.STATE 5 1).allParked = false) ∧
    ((rig.onSeq fun s => { s with prep := 5 }).seq.prep = 5 ∧ (rig.onSeq fun s => { s with prep := 5 }).regs.rising = true) ∧
    rig.imageFails badImage = some (1, 0) := by decide +kernel

theorem witness_StartsAndModes :
    (atHeads.clocked 7 = true ∧ faulted.clocked 7 = true ∧ idling.clocked 7 = true ∧ atHeads.headLoads = true ∧ atHeads.loading = false ∧ atHeads.seq.cal = false ∧ atHeads.hasHeads 0 = true ∧
      atHeads.loaded 0 = true ∧ atHeads.hasHead (laneOf 0 3) = true ∧ bit (atHeads.knownFailed 0) 3 = false) ∧
    (let d := atHeads.onSeq fun s => { s with cal := true, step11 := true }
     d.mode = .headLoad ∧ d.loading = false ∧ d.seq.excluded = 0 ∧ d.seq.spinHeld = none ∧ d.get SPN_STATUS.GLIDING = 0) ∧
    (faulted.startRuns = true ∧ faulted.spnState = spFault ∧ faulted.spn.pf = false ∧ faulted.get SPN_STATUS.REGULATED = 0 ∧
      (faulted.set SPN_STATUS.REGULATED 1).get SPN_STATUS.REGULATED = 1) ∧
    (idling.idleCounts = true ∧ featAt idling.hst.feats 0x0C 1 = 1 ∧
      idling.hst.apst[idling.get SYS_MODE.PS]? = some (3, 50) ∧ idling.mode = .active ∧
      (let d := (idling.set SYS_MODE.PS 3).set SYS_MODE.MODE 8
       d.idleCounts = true ∧ d.hst.apst[d.get SYS_MODE.PS]? = some (4, 30000))) ∧
    ((rig.set CBL_CTRL.PATROL_EN 1).get CBL_CTRL.PATROL_EN = 1 ∧ (rig.set SYS_MODE.MODE 9).mode = .deepIdle ∧
      rig.seq.opPs ≤ 2) ∧
    (let d := (rig.set SPN_STATUS.STATE 11).set SPN_STOP_STATUS.PHASE 3
     d.clocked 13 = true ∧ d.get SPN_STATUS.STATE = 11 ∧ d.get SPN_STOP_STATUS.PHASE = 3 ∧ d.spn.ovStage = 0) ∧
    (let d := rig.onSeq fun s => { s with spinDown := 2 }
     d.seq.spinDown = 2 ∧ d.seq.prep = 0 ∧ d.drained = true ∧ d.spn.pf = false) ∧
    ((faulted.onSpn fun s => { s with pf := true, restart := true }).spn.pf = true ∧ faulted.mode = .spinUp ∧ faulted.spnState ≠ spStop) ∧
    (let d : Dev := ({ rig.set SYS_MODE.MODE 12 with pwrfail := true } : Dev).onQue fun q =>
       { q with flush := some { epoch := 1, since := 0, exts := [] } }
     d.mode = .coastFlush ∧ d.pwrfail = true ∧ d.que.flush.isSome = true) := by decide +kernel

theorem witness_StartsAndModes_hot : ∃ q : Int, 4 * ((Config.tjMax : Int) - 3) ≤ q ∧ q < 4 * ((Config.tjMax : Int) + 10) :=
  ⟨4 * ((Config.tjMax : Int) - 3), by omega⟩

/-! ### Ill-formed commands, one for each check, and a well-formed one beside them -/

/-- Common fields of an I/O command on one LBA. -/
def plainIo : IoArgs :=
  { cid := 1, fuse := 0, nsid := 1, slba := 0, count := 1, fua := false, limitedRetry := false, ptr := .prp 0 [],
    pi := ⟨false, false, false, false, 0, 0, 0, 0, []⟩ }

/-- A pass that decodes no byte. -/
def emptyPass : PassIn := { uscs := [], payload := [], tag := 0 }

/-- A request to read one sector. -/
def plainRequest : Request :=
  { kind := 0, cyl := 1, sect := 1, count := 1, revs := 1, rmask := 1, wmask := 0, cmask := 0, metaMark := false }

theorem test_wf_good :
    (Instr.registerWrite .control 0x100 4 0).wf = true ∧ (Instr.read ⟨0, 64⟩ plainIo).wf = true ∧
    (Instr.positioningRequest 0 plainRequest).wf = true ∧ (Instr.coefWrite .control 0 0x6FFC 0).wf = true := by decide

theorem test_wf_address :
    (Instr.registerWrite .control (2 ^ 32) 4 0).wf = false ∧ (Instr.snapshotRead .control (2 ^ 32) 4).wf = false ∧
    (Instr.crossingTimeout .control (2 ^ 32) true).wf = false ∧ (Instr.pairLoStage .control (2 ^ 32) 0).wf = false ∧
    (Instr.pairHiCommit .control (2 ^ 32) 0).wf = false := by decide

theorem test_wf_size :
    (Instr.registerWrite .control 0x100 3 0).wf = false ∧ (Instr.snapshotRead .control 0x100 16).wf = false := by decide

theorem test_wf_slot :
    (Instr.laneSectorStart 0 ⟨List.replicate 40961 0, [], []⟩).wf = false ∧
    (Instr.laneSectorStart 0 ⟨[], List.replicate 40961 0, []⟩).wf = false ∧
    (Instr.writeSlot ⟨0, ⟨[], [], List.replicate 37041 true⟩⟩).wf = false := by
  simp only [Instr.wf, SlotIn.ok, List.length_replicate]; decide

theorem test_wf_pass :
    (Instr.mainPassEnd 0 emptyPass).wf = false ∧ (Instr.recoveryPassEnd 0 emptyPass).wf = false := by decide

theorem test_wf_place :
    (Instr.bufBudgetExpiry 0 (2 ^ 20) 0).wf = false ∧ (Instr.reconstructionDelivered 0 0 762).wf = false ∧
    (Instr.peerPin 0 1 (2 ^ 20) 0).wf = false ∧ (Instr.peerMemberRequest 0 1 0 762).wf = false := by decide

theorem test_wf_offset :
    (Instr.setWindowWrite .control 0 0x9C 0).wf = false ∧ (Instr.setWindowWrite .control 0 2 0).wf = false ∧
    (Instr.coefWrite .control 0 0x3FFC 0).wf = false ∧ (Instr.coefWrite .control 0 0x7000 0).wf = false ∧
    (Instr.coefWrite .control 0 0x4001 0).wf = false := by decide

theorem test_wf_group :
    (Instr.wlsWedge 0 ⟨List.replicate 9 none, 0⟩).wf = false ∧ (Instr.wlsZoneChange 0 64).wf = false ∧
    (Instr.writeInhibit 0 256 []).wf = false ∧ (Instr.tokenRequest 0 256).wf = false := by decide

theorem test_wf_control_store :
    (Instr.csStageWrite .control 0x4000 0 0).wf = false ∧ (Instr.csCommitWrite .control 0x4000 0).wf = false := by decide

theorem test_wf_cause :
    (Instr.reqFailed 0 256).wf = false ∧ (Instr.retractRequest 0 16).wf = false := by decide

theorem test_wf_request :
    (Instr.positioningRequest 0 { plainRequest with kind := 16 }).wf = false ∧
    (Instr.positioningRequest 0 { plainRequest with cyl := 2 ^ 20 }).wf = false ∧
    (Instr.positioningRequest 0 { plainRequest with sect := 762 }).wf = false ∧
    (Instr.positioningRequest 0 { plainRequest with count := 1024 }).wf = false ∧
    (Instr.positioningRequest 0 { plainRequest with revs := 256 }).wf = false ∧
    (Instr.positioningRequest 0 { plainRequest with cmask := 256 }).wf = false ∧
    (Instr.positioningRequest 0 { plainRequest with rmask := 256 }).wf = false ∧
    (Instr.positioningRequest 0 { plainRequest with wmask := 256 }).wf = false := by decide

theorem test_wf_report :
    (Instr.faultReport ⟨512, 0, 0, 0, 0, 0⟩).wf = false ∧ (Instr.faultReport ⟨0, 3, 0, 0, 0, 0⟩).wf = false ∧
    (Instr.almanacRecord ⟨2 ^ 16, []⟩).wf = false := by decide

theorem test_wf_record_payload : (Instr.almanacRecord ⟨0, List.replicate 4081 0⟩).wf = false := by
  simp only [Instr.wf, AlmRec.ok, List.length_replicate]; decide

theorem test_wf_queue :
    (Instr.submissionDoorbell ⟨0, 65⟩ []).wf = false ∧
    (Instr.submissionDoorbell ⟨0, 1⟩ [⟨{ plainIo with fuse := 4 }, .read⟩]).wf = false ∧
    (Instr.flush ⟨0, 65⟩ plainIo).wf = false ∧ (Instr.bpmAlloc true 128 1 false).wf = false ∧
    (Instr.bpmAlloc true 0 0 false).wf = false := by decide

theorem test_wf_io :
    (Instr.write ⟨0, 1⟩ { plainIo with cid := 2 ^ 16 } []).wf = false ∧
    (Instr.read ⟨0, 1⟩ { plainIo with slba := 2 ^ 64 }).wf = false ∧
    (Instr.compare ⟨0, 1⟩ { plainIo with count := 0 } []).wf = false ∧
    (Instr.writeZeroes ⟨0, 1⟩ { plainIo with count := 65537 }).wf = false ∧
    (Instr.datasetManagement ⟨0, 1⟩ { plainIo with fuse := 4 }).wf = false ∧ (Instr.verify ⟨0, 65⟩ plainIo).wf = false ∧
    (Instr.copy ⟨0, 65⟩ plainIo 0 []).wf = false ∧ (Instr.scanRead ⟨0, 65⟩ plainIo [] 0).wf = false := by decide

theorem test_wf_admin :
    (Instr.createIoSq ⟨0, 65⟩ 0 1 2 ⟨1, 0⟩).wf = false ∧ (Instr.createIoSq ⟨0, 0⟩ (2 ^ 16) 1 2 ⟨1, 0⟩).wf = false ∧
    (Instr.createIoSq ⟨0, 0⟩ 0 (2 ^ 16) 2 ⟨1, 0⟩).wf = false ∧ (Instr.createIoSq ⟨0, 0⟩ 0 1 (2 ^ 16) ⟨1, 0⟩).wf = false ∧
    (Instr.createIoSq ⟨0, 0⟩ 0 1 2 ⟨2 ^ 16, 0⟩).wf = false ∧ (Instr.createIoSq ⟨0, 0⟩ 0 1 2 ⟨1, 4⟩).wf = false ∧ (Instr.setFeatures ⟨0, 65⟩ 0 0 0 0 false).wf = false ∧
    (Instr.setFeatures ⟨0, 0⟩ (2 ^ 16) 0 0 0 false).wf = false ∧ (Instr.setFeatures ⟨0, 0⟩ 0 256 0 0 false).wf = false := by
  decide

theorem test_wf_key :
    (Instr.setKey ⟨0, 65⟩ 0 0 (List.replicate 97 0)).wf = false ∧ (Instr.setKey ⟨0, 0⟩ (2 ^ 16) 0 []).wf = false ∧
    (Instr.setKey ⟨0, 0⟩ 0 4 []).wf = false ∧ (Instr.setKey ⟨0, 0⟩ 0 0 []).wf = false := by decide

end Sys2Proof.Tests
end

section
/-! SUPPORT. Register accesses (chapter 01): the tests of R628, the capture of R40, and what a write that passes them does. -/

namespace Sys2Proof.Machine

/-! ### Commands as updates of the device -/

/-- A command whose meaning is an update of the device completes with what the update leaves. -/
theorem completes_of_run {i : Instr} {s : State} {f : Dev → Dev} {P : Dev → Prop} (hi : exec i s = s.run f)
    (h : P (f s.dev)) : Completes i s P := ⟨s.onDev f, hi, rfl, h⟩

/-- What a command whose meaning is an update of the device completes with. -/
theorem of_completes_run {i : Instr} {s : State} {f : Dev → Dev} {P : Dev → Prop} (hi : exec i s = s.run f)
    (h : Completes i s P) : P (f s.dev) := by
  obtain ⟨t, ht, -, hP⟩ := h
  rw [hi] at ht
  cases ht
  exact hP

/-- In a mode other than OFF no cold reset is held. -/
theorem Dev.code_of_mode {d : Dev} (h : d.mode ≠ .off) : d.get SYS_MODE.MODE ≠ 1 := by
  intro e
  exact h (by rw [Dev.mode, e]; rfl)

theorem Dev.mode_beq_off {d : Dev} (h : d.mode ≠ .off) : (d.mode == .off) = false := by
  cases hm : d.mode <;> first | exact absurd hm h | rfl

/-! ### Fields of one register -/

/-- A field read after another field of its register was set, both given by their places. -/
theorem Dev.get_set_beside (d : Dev) (r : Reg) (lo w lo' w' v i j : Nat)
    (h : lo + w ≤ 32 ∧ lo' + w' ≤ 32 ∧ (lo' + w' ≤ lo ∨ lo + w ≤ lo')) :
    (d.set ⟨r, lo, w⟩ v i j).get ⟨r, lo', w'⟩ i j = d.get ⟨r, lo', w'⟩ i j :=
  d.get_set_disjoint ⟨r, lo, w⟩ ⟨r, lo', w'⟩ v i j rfl h.1 h.2.1 h.2.2

/-! ### The tests of an access (R628) -/

/-- Settles O7: each clause is the branch of the tests that the access reaches first. -/
theorem accessTestsInOrder : Obligations.AccessTestsInOrder := by
  unfold Obligations.AccessTestsInOrder
  refine ⟨fun d x h => ?_, fun d x k hw hm hk hr => ?_, fun d x hw hm hs hz => ?_, fun d x b i hw hm hz ha hb hi => ?_⟩
  · simp [Dev.refusal, h]
  · simp [Dev.refusal, hm, hw, hk, hr]
  · have : ¬ (x.size = 4 ∧ x.addr % 4 = 0) := by omega
    simp [Dev.refusal, hm, hw, hs, or_iff_not_and_not, this]
  · have hserved : d.served x.addr = false := by simp [Dev.served, hb, hi]
    simp [Dev.refusal, hm, hw, hz, ha, hserved]

/-! ### The capture (R40) -/

/-- The record describes a refused access, with nothing refused since. -/
def Dev.records (d : Dev) (who : Who) (a : Nat) (w : Bool) (c : BusCause) : Prop :=
  d.get SYS_BUS_ERR_INFO.VALID = 1 ∧ d.get SYS_BUS_ERR_INFO.WRITE = w.toNat ∧
    d.get SYS_BUS_ERR_INFO.INITIATOR = whoCode who ∧ d.get SYS_BUS_ERR_INFO.CAUSE = causeCode c ∧
    d.get SYS_BUS_ERR_ADDR.ADDR = a % 2 ^ 32 ∧ d.get SYS_BUS_ERR_INFO.OVERFLOW = 0

theorem whoCode_lt (who : Who) : whoCode who < 4 := by cases who <;> decide

theorem causeCode_lt (c : BusCause) : causeCode c < 16 := by cases c <;> decide

/-- While VALID is 0 a capture records the access. -/
theorem Dev.records_capture {d : Dev} (h : d.get SYS_BUS_ERR_INFO.VALID = 0) (who : Who) (a : Nat) (w : Bool) (c : BusCause) :
    (d.capture who a w c).records who a w c := by
  have hw : w.toNat < 2 := Bool.toNat_lt w
  have hi := whoCode_lt who
  have hc := causeCode_lt c
  unfold Dev.capture Dev.on
  rw [h]
  refine ⟨?_, ?_, ?_, ?_, ?_, ?_⟩ <;>
    simp (disch := decide) [SYS_BUS_ERR_INFO.VALID, SYS_BUS_ERR_INFO.WRITE, SYS_BUS_ERR_INFO.INITIATOR,
      SYS_BUS_ERR_INFO.CAUSE, SYS_BUS_ERR_INFO.OVERFLOW, SYS_BUS_ERR_ADDR.ADDR, Dev.get_set, Dev.get_set_beside,
      Dev.get_set_of_key] <;> omega

/-- While VALID is 1 a capture counts in OVERFLOW. -/
theorem Dev.capture_again {d : Dev} (h : d.get SYS_BUS_ERR_INFO.VALID = 1) (who : Who) (a : Nat) (w : Bool) (c : BusCause) :
    d.capture who a w c = d.bump SYS_BUS_ERR_INFO.OVERFLOW := by
  unfold Dev.capture Dev.on
  rw [h]
  rfl

/-- A write that fails a test of R628 is its capture. -/
theorem Dev.write_refused {d : Dev} {who : Who} {a n : Nat} {c : BusCause} (v : Word) (hm : d.mode ≠ .off)
    (hr : d.refusal ⟨who, a, true, n⟩ = some c) : d.write who a n v = d.capture who a true c := by
  unfold Dev.write Dev.tryWrite Dev.tryWriteOr Dev.judgeWrite
  simp only [hr, Option.isSome_some, if_true, if_neg (Dev.code_of_mode hm)]

/-- REGISTER_WRITE of an access that fails a test of R628 is its capture. -/
theorem completes_registerWrite_refused {s : State} {who : Who} {a n : Nat} {c : BusCause} {P : Dev → Prop} (v : Word)
    (hm : s.dev.mode ≠ .off) (hr : s.dev.refusal ⟨who, a, true, n⟩ = some c) (h : P (s.dev.capture who a true c)) :
    Completes (.registerWrite who a n v) s P := by
  refine completes_of_run rfl ?_
  simpa only [Dev.mode_beq_off hm, hr, Option.isSome_some, Dev.write_refused v hm hr, if_true, if_false, Bool.false_eq_true]
    using h

/-- A counter that is bumped stays below its limit. -/
theorem Dev.get_bump (d : Dev) (f : Fld) (i j n : Nat) (hw : f.lo + f.width ≤ 32) :
    (d.bump f i j n).get f i j = min (d.get f i j + n) (2 ^ f.width - 1) := by
  unfold Dev.bump
  rw [Dev.get_set _ _ _ _ _ hw]
  exact Nat.mod_eq_of_lt (by have := Nat.two_pow_pos f.width; omega)

end Sys2Proof.Machine
end

section
/-! SUPPORT. Writes by access types, the capture beside its clear (chapter 01). -/
namespace Sys2Proof.Machine

/-! ### A write by access types (R29, R30) -/

/-- What a write leaves in a field of an access type: the field reads its bits of this word (R29, R30). -/
def Acc.after (acc : Acc) (old v : Word) (lock : Bool) : Word :=
  match acc with
  | .ro | .wo => old
  | .rw | .rws => v
  | .rwl => if lock then old else v
  | .w1c => old &&& ~~~v
  | .w1s => old ||| v

theorem FieldDesc.written_eq (f : FieldDesc) (old v : Word) (lock : Bool) :
    f.written old v lock = f.acc.after old v lock &&& f.mask := by
  unfold FieldDesc.written
  cases f.acc <;> rfl

/-- The bits of a field's mask are those of its place. -/
theorem FieldDesc.getLsbD_mask (f : FieldDesc) (k : Nat) (hk : k < 32) :
    f.mask.getLsbD k = decide (f.lo ≤ k ∧ k < f.lo + f.width) := by
  unfold FieldDesc.mask
  rw [BitVec.getLsbD_shiftLeft, BitVec.getLsbD_setWidth, BitVec.getLsbD_allOnes]
  by_cases h : f.lo ≤ k ∧ k < f.lo + f.width
  · have h1 : ¬ k < f.lo := by omega
    have h2 : k - f.lo < 32 := by omega
    have h3 : k - f.lo < f.width := by omega
    simp [h, h1, h2, h3, hk]
  · by_cases h1 : k < f.lo
    · simp [h, h1]
    · have h3 : ¬ k - f.lo < f.width := by omega
      simp [h, h3]

theorem getLsbD_foldl_or {α : Type} (l : List α) (f : α → Word) (w : Word) (k : Nat) :
    (l.foldl (fun w a => w ||| f a) w).getLsbD k = (w.getLsbD k || l.any fun a => (f a).getLsbD k) := by
  induction l generalizing w with
  | nil => simp
  | cons a t ih => rw [List.foldl_cons, ih, BitVec.getLsbD_or, List.any_cons, Bool.or_assoc]

/-- A field lies within the word and shares no bit with another field of the register. -/
def Reg.clear (r : Reg) (x : FieldDesc) : Bool :=
  r.fields.contains x && decide (x.lo + x.width ≤ 32) &&
    r.fields.all fun y => y == x || decide (y.lo + y.width ≤ x.lo) || decide (x.lo + x.width ≤ y.lo)

/-- Bit k of a register's word after a write, k within a field: the field's access type gives it. -/
theorem Reg.getLsbD_written {r : Reg} {x : FieldDesc} (hx : r.clear x = true) (old v : Word) (lock : Bool) {k : Nat}
    (h1 : x.lo ≤ k) (h2 : k < x.lo + x.width) :
    (r.written old v lock 0).getLsbD k = (x.acc.after old v lock).getLsbD k := by
  simp only [Reg.clear, Bool.and_eq_true, List.contains_iff_mem, decide_eq_true_eq, List.all_eq_true, Bool.or_eq_true,
    beq_iff_eq] at hx
  obtain ⟨⟨hmem, hw⟩, hapart⟩ := hx
  have hk : k < 32 := by omega
  have hbit : ∀ y ∈ r.fields, (y.written old v lock).getLsbD k = true → (x.acc.after old v lock).getLsbD k = true := by
    intro y hy hb
    rw [FieldDesc.written_eq, BitVec.getLsbD_and, FieldDesc.getLsbD_mask y k hk, Bool.and_eq_true, decide_eq_true_eq] at hb
    obtain (rfl | h) | h := hapart y hy
    · exact hb.1
    · omega
    · omega
  have hself : (x.written old v lock).getLsbD k = (x.acc.after old v lock).getLsbD k := by
    rw [FieldDesc.written_eq, BitVec.getLsbD_and, FieldDesc.getLsbD_mask x k hk]
    simp [h1, h2]
  unfold Reg.written
  simp only [getLsbD_foldl_or, BitVec.ofNat_eq_ofNat, BitVec.not_zero, BitVec.and_allOnes, BitVec.and_zero, BitVec.or_zero,
    BitVec.getLsbD_zero, Bool.false_or]
  refine Bool.eq_iff_iff.mpr ⟨fun h => ?_, fun h => ?_⟩
  · obtain ⟨y, hy, hb⟩ := List.any_eq_true.mp h
    exact hbit y hy hb
  · exact List.any_eq_true.mpr ⟨x, hmem, hself.trans h⟩

/-- A field of a register's word after a write is the one that its access type gives (R29, R30). -/
theorem Fld.of_written (r : Reg) (x : FieldDesc) (hx : r.clear x = true) (old v : Word) (lock : Bool) :
    (Fld.mk r x.lo x.width).of (r.written old v lock 0) = (Fld.mk r x.lo x.width).of (x.acc.after old v lock) := by
  unfold Fld.of
  congr 1
  refine BitVec.eq_of_getLsbD_eq fun k hk => ?_
  have hk' : k < x.width := hk
  rw [BitVec.getLsbD_extractLsb', BitVec.getLsbD_extractLsb',
    Reg.getLsbD_written hx old v lock (Nat.le_add_right ..) (Nat.add_lt_add_left hk' _)]

/-- No field of the register is locked by LST_LOCK. -/
def Reg.unlocked (r : Reg) : Bool := r.fields.all fun f => f.acc != .rwl

theorem Reg.hitsLock_of_unlocked {r : Reg} (h : r.unlocked = true) (old v : Word) (lock : Bool) :
    r.hitsLock old v lock 0 = false := by
  refine List.any_eq_false.mpr fun f hf => ?_
  have hacc : (f.acc == .rwl) = false := by simpa using List.all_eq_true.mp h f hf
  simp [hacc]

/-- A write by access types of a register without locked fields. -/
theorem Dev.plainWrite_unlocked {r : Reg} (h : r.unlocked = true) (d : Dev) (who : Who) (i j : Nat) (v : Word) :
    d.plainWrite who r i j v = d.setWord r (r.written (d.word r i j) v d.locked 0) i j := by
  unfold Dev.plainWrite
  simp only [Reg.hitsLock_of_unlocked h, if_false, Bool.false_eq_true]

/-- A write by access types leaves the written word, if it is no word of the capture. -/
theorem Dev.word_plainWrite_self (d : Dev) (who : Who) (r : Reg) (i j : Nat) (v keep : Word)
    (h : SYS_BUS_ERR_ADDR.key ≠ r.key) (h' : SYS_BUS_ERR_INFO.key ≠ r.key) :
    (d.plainWrite who r i j v keep).word r i j = r.written (d.word r i j) v d.locked keep := by
  unfold Dev.plainWrite
  dsimp only
  split
  · rw [Dev.word_capture_of_key _ _ _ _ _ _ _ _ h h', Dev.word_setWord]
  · rw [Dev.word_setWord]

/-- A write by access types changes no register beside the one written and the capture. -/
theorem Dev.word_plainWrite_of_ne (d : Dev) (who : Who) {r r' : Reg} {i j i' j' : Nat} (v keep : Word)
    (hne : (⟨r.key, i, j⟩ : RKey) ≠ ⟨r'.key, i', j'⟩) (h : SYS_BUS_ERR_ADDR.key ≠ r'.key) (h' : SYS_BUS_ERR_INFO.key ≠ r'.key) :
    (d.plainWrite who r i j v keep).word r' i' j' = d.word r' i' j' := by
  unfold Dev.plainWrite
  dsimp only
  split
  · rw [Dev.word_capture_of_key _ _ _ _ _ _ _ _ h h', Dev.word_setWord_of_ne _ _ hne]
  · rw [Dev.word_setWord_of_ne _ _ hne]

/-! ### The capture's clear (R40, R41) -/

/-- What a write of SYS_BUS_ERR_INFO does to the device. -/
def Dev.clearCapture (d : Dev) (who : Who) (v : Word) : Dev :=
  let d := d.plainWrite who SYS_BUS_ERR_INFO 0 0 v
  if v.getLsbD 31 then d.set SYS_BUS_ERR_INFO.OVERFLOW 0 else d

/-- A write that clears VALID clears OVERFLOW. -/
theorem Dev.clearCapture_fields (d : Dev) (who : Who) (v : Word) (hv : v.getLsbD 31 = true) :
    (d.clearCapture who v).get SYS_BUS_ERR_INFO.VALID = 0 ∧ (d.clearCapture who v).get SYS_BUS_ERR_INFO.OVERFLOW = 0 := by
  have hvalid : (d.plainWrite who SYS_BUS_ERR_INFO 0 0 v).get SYS_BUS_ERR_INFO.VALID = 0 := by
    rw [Dev.plainWrite_unlocked (by decide)]
    show SYS_BUS_ERR_INFO.VALID.of (Dev.word _ SYS_BUS_ERR_INFO 0 0) = 0
    rw [Dev.word_setWord]
    refine (Fld.of_written SYS_BUS_ERR_INFO ⟨31, 1, .w1c⟩ (by decide) _ v _).trans ?_
    unfold Fld.of
    have : (Acc.w1c.after (d.word SYS_BUS_ERR_INFO 0 0) v d.locked).extractLsb' 31 1 = 0 := by
      refine BitVec.eq_of_getLsbD_eq fun k hk => ?_
      obtain rfl : k = 0 := by omega
      simp [Acc.after, hv]
    exact congrArg BitVec.toNat this
  unfold Dev.clearCapture
  simp only [hv, if_true]
  constructor
  · exact (Dev.get_set_beside _ SYS_BUS_ERR_INFO 0 16 31 1 0 0 0 (by decide)).trans hvalid
  · rw [Dev.get_set _ _ _ _ _ (by decide)]; rfl

/-- BUS_ERR_CLEAR without another access is the write of SYS_BUS_ERR_INFO, the lines judged after it. -/
theorem completes_busErrClear_none {s : State} {who : Who} {v : Word} {P : Dev → Prop}
    (h : P (s.dev.busWrite who SYS_BUS_ERR_INFO.at fun d => d.clearCapture who v).judgeActive) :
    Completes (.busErrClear who v none) s P := completes_of_run rfl h

/-- Settles O5: the capture's two cases, and the clear by the access types of the record's fields. -/
theorem refusedWriteIsCaptured : Obligations.RefusedWriteIsCaptured := by
  unfold Obligations.RefusedWriteIsCaptured
  refine ⟨fun s who a n v c hm hr hv => ?_, fun s who a n v hm hr hv => ?_, fun s who v ht hv => ?_⟩
  · refine completes_registerWrite_refused v hm hr ?_
    obtain ⟨h1, h2, h3, h4, h5, h6⟩ := Dev.records_capture hv who a true c
    refine ⟨h1, h2, h3, h4, h5, h6, Dev.capture_regs _ _ _ _ _, fun r i j hk => ?_⟩
    simp only [List.mem_cons, List.not_mem_nil, or_false, not_or] at hk
    exact Dev.word_capture_of_key _ _ _ _ _ _ _ _ (Ne.symm hk.1) (Ne.symm hk.2)
  · obtain ⟨c, hc⟩ := Option.isSome_iff_exists.mp hr
    refine completes_registerWrite_refused v hm hc ?_
    rw [Dev.capture_again hv]
    have keep : ∀ lo w, lo + w ≤ 32 ∧ 16 ≤ lo →
        (s.dev.bump SYS_BUS_ERR_INFO.OVERFLOW).get ⟨SYS_BUS_ERR_INFO, lo, w⟩ = s.dev.get ⟨SYS_BUS_ERR_INFO, lo, w⟩ :=
      fun lo w h => Dev.get_set_beside _ _ _ _ _ _ _ _ _ ⟨by decide, h.1, .inr h.2⟩
    refine ⟨Dev.get_bump _ _ _ _ _ (by decide), (keep 31 1 (by decide)).trans hv, keep 30 1 (by decide),
      keep 28 2 (by decide), keep 24 4 (by decide), rfl, fun r i j hk => ?_⟩
    exact Dev.word_bump_of_key _ _ _ _ _ _ _ _ fun e => hk (e ▸ List.mem_cons_self ..)
  · refine completes_busErrClear_none ?_
    have hword : ∀ r : Reg, r.key = SYS_BUS_ERR_INFO.key → ∀ d : Dev, d.judgeActive.word r = d.word r :=
      fun r hr d => Dev.word_judgeActive _ _ _ _ (by rw [hr]; decide)
    have hf := Dev.clearCapture_fields (s.dev.endSnaps who SYS_BUS_ERR_INFO.at) who v hv
    have hget : ∀ f : Fld, f.reg.key = SYS_BUS_ERR_INFO.key →
        (s.dev.busWrite who SYS_BUS_ERR_INFO.at fun d => d.clearCapture who v).judgeActive.get f =
          ((s.dev.endSnaps who SYS_BUS_ERR_INFO.at).clearCapture who v).get f := fun f hk =>
      Dev.get_of_word ((hword f.reg hk _).trans (Dev.word_busWrite_takes _ _ _ _ ht _ _ _ (by rw [hk]; decide)))
    exact ⟨(hget SYS_BUS_ERR_INFO.VALID rfl).trans hf.1, (hget SYS_BUS_ERR_INFO.OVERFLOW rfl).trans hf.2⟩

end Sys2Proof.Machine
end

section
/-! SUPPORT. Statements of chapter 01 that fail in a state that no run reaches. -/
namespace Sys2Proof.Machine

/-! ### SYS_MODE codes that name no mode -/

/-- A device whose SYS_MODE.MODE holds 0, a code that names no mode and that no command writes: `Dev.mode` reads it as OFF, and
the tests of a write, which ask for OFF's own code 1, pass. -/
def codeless : State := { pending := [], dev := ({} : Dev).set SYS_MODE.MODE 0 }

/-- The write of SYS_BUS_ERR_INFO with the write bit of VALID is taken, and a narrow access to a register would be refused. -/
theorem codeless_takes_clear :
    codeless.dev.takes .control SYS_BUS_ERR_INFO.at = true ∧
      codeless.dev.refusal ⟨.control, 0x4000_0000, true, 2⟩ = some .size := by decide +kernel

/-- Refutes O6: where MODE holds 0 the clear takes effect, but the access beside it is not captured, as in OFF, and VALID
stays 0. -/
theorem not_captureBesideClear : ¬ Obligations.CaptureBesideClear := by
  unfold Obligations.CaptureBesideClear
  intro h
  have hc := of_completes_run rfl (h codeless .control 0x8000_0000 ⟨.control, 0x4000_0000, true, 2⟩ .size
    codeless_takes_clear.1 (by decide) codeless_takes_clear.2)
  exact absurd hc.1 (by decide +kernel)

/-- Refutes O8: where MODE holds 0 the write passes the tests of R628, but REGISTER_WRITE has no effect, as in OFF: SYS_INT_EN
keeps its reset word. -/
theorem not_plainRegisterWrite : ¬ Obligations.PlainRegisterWrite := by
  unfold Obligations.PlainRegisterWrite
  intro h
  have hc := of_completes_run rfl (h codeless .control 0x4000_0084 1 ⟨SYS_INT_EN, 0, 0⟩ (by decide +kernel) rfl rfl rfl
    (fun _ => rfl) (by decide +kernel) (by decide +kernel) (by decide) (by decide) (by decide) (by decide))
  exact absurd hc.1 (by decide +kernel)

/-! ### A snapshot that no read took -/

/-- A device whose control core has a snapshot of a group that is none of R35's: it holds a value of TRC_CNT_LO[0] under a leading
register of another address. -/
def strangeSnap : State :=
  { pending := []
    dev := { (({} : Dev).setWord SYS_ISLAND_EN 0x3FFFFF).setWord SYS_ISLAND_STATUS 0x3FFFFF with
      bus := { snaps := [⟨.control, .trc, 0, 0, [(TRC_CNT_LO.at 0 0, 0)]⟩] } } }

theorem strangeSnap_reads_lo :
    strangeSnap.dev.mode ≠ .off ∧ strangeSnap.dev.refusal ⟨.control, TRC_CNT_LO.at 0 (0 : Fin 64), false, 4⟩ = none := by
  decide +kernel

/-- Refutes O12: a read of TRC_CNT_LO that an initiator's snapshot of another leading register answers takes no snapshot, and
the read of TRC_CNT_HI then answers the counter of its own moment. -/
theorem not_readsAndSnapshots : ¬ Obligations.ReadsAndSnapshots := by
  unfold Obligations.ReadsAndSnapshots
  rintro ⟨-, h⟩
  have h1 := of_completes_run rfl (h strangeSnap .control 0 1 strangeSnap_reads_lo.1 strangeSnap_reads_lo.2)
  have h2 := of_completes_run rfl h1
  exact absurd h2 (by decide +kernel)

end Sys2Proof.Machine
end

section
/-! SUPPORT. The aperture base and the islands (chapter 01). -/
namespace Sys2Proof.Machine

/-! ### The aperture (R38) -/

/-- A block's write that is taken leaves every word outside the almanac as its effect leaves it. -/
theorem Dev.word_busWriteOr_takes {d t : Dev} {who : Who} {a : Nat} {f : Dev → Write} (h : d.takes who a = true)
    (hf : f (d.endSnaps who a) = .ok t) (r : Reg) (i j : Nat) (hr : r.key ∉ recordKeys) :
    (d.busWriteOr who a f).word r i j = t.word r i j := by
  unfold Dev.busWriteOr
  rw [d.tryWriteOr_takes who a _ h, hf]
  show (if (who == Who.bar2) = true then _ else _ : Dev).word r i j = _
  split
  · rw [Dev.word_record _ _ _ _ _ _ hr]
  · rfl

/-- BASE of the word that a write of SYS_APERTURE_BASE leaves. -/
theorem apertureBase_of_written (old v : Word) (lock : Bool) :
    SYS_APERTURE_BASE.BASE.of (SYS_APERTURE_BASE.written old v lock 0) = SYS_APERTURE_BASE.BASE.of v :=
  Fld.of_written SYS_APERTURE_BASE ⟨0, 10, .rw⟩ (by decide) old v lock

/-- The aperture's base is taken below 48, and refused with RANGE from 48 on. -/
theorem Dev.fieldWrite_apertureBase (d : Dev) (who : Who) (v : Word) :
    d.fieldWrite who ⟨SYS_APERTURE_BASE, 0, 0⟩ v =
      if 48 ≤ SYS_APERTURE_BASE.BASE.of v then .error .range else .ok (d.plainWrite who SYS_APERTURE_BASE 0 0 v) := by
  have hkeep : d.lockedBits ⟨SYS_APERTURE_BASE, 0, 0⟩ = 0 := if_neg fun e => absurd e.1 (by decide)
  have hrange : ∀ w, outOfRange ⟨SYS_APERTURE_BASE, 0, 0⟩ w = decide (48 ≤ SYS_APERTURE_BASE.BASE.of w) := fun w => by
    show (true && decide (48 ≤ SYS_APERTURE_BASE.BASE.of w) || false && _ || false && _) = _
    simp only [Bool.true_and, Bool.false_and, Bool.or_false]
  have hdrop : d.dropsWrite ⟨SYS_APERTURE_BASE, 0, 0⟩ = false := rfl
  unfold Dev.fieldWrite
  simp only [hkeep, hdrop, hrange, apertureBase_of_written, decide_eq_true_eq, if_false, Bool.false_eq_true]

/-- Settles O10: by the range of the written word. -/
theorem apertureBase : Obligations.ApertureBase := by
  unfold Obligations.ApertureBase
  refine ⟨fun s who v ht hv => completes_of_run rfl ?_, fun s who v ht hv h0 => completes_of_run rfl ?_⟩
  · have hf := Dev.fieldWrite_apertureBase (s.dev.endSnaps who SYS_APERTURE_BASE.at) who v
    rw [if_neg (by omega)] at hf
    refine (Dev.get_of_word (Dev.word_busWriteOr_takes ht hf _ _ _ (by decide))).trans ?_
    exact (congrArg SYS_APERTURE_BASE.BASE.of (Dev.word_plainWrite_self _ _ SYS_APERTURE_BASE 0 0 _ _ (by decide)
      (by decide))).trans (apertureBase_of_written _ v _)
  · have hf := Dev.fieldWrite_apertureBase (s.dev.endSnaps who SYS_APERTURE_BASE.at) who v
    rw [if_pos hv] at hf
    show Dev.get (Dev.busWriteOr ..) _ = _ ∧ Dev.get (Dev.busWriteOr ..) _ = _ ∧ Dev.get (Dev.busWriteOr ..) _ = _
    rw [Dev.busWriteOr_refused _ _ _ _ _ ht hf]
    obtain ⟨hvalid, -, -, hcause, -⟩ := Dev.records_capture h0 who SYS_APERTURE_BASE.at true .range
    exact ⟨Dev.get_of_word (Dev.word_capture_of_key _ _ _ _ _ _ _ _ (by decide) (by decide)), hvalid, hcause⟩

/-! ### Islands (R17) -/

/-- Bits of a number with one bit cleared. -/
theorem bit_clearBit (m i k : Nat) : bit (clearBit m i) k = (bit m k && decide (k ≠ i)) := by
  unfold bit clearBit
  split
  · rename_i h
    rw [Nat.testBit_xor, Nat.one_shiftLeft, Nat.testBit_two_pow]
    by_cases hk : i = k
    · subst hk; simp [h]
    · simp [hk, Ne.symm hk]
  · rename_i h
    by_cases hk : k = i
    · subst hk; simpa using h
    · simp [hk]

theorem bit_or_shift (m i k : Nat) : bit (m ||| 1 <<< i) k = (bit m k || decide (k = i)) := by
  unfold bit
  rw [Nat.testBit_or, Nat.one_shiftLeft, Nat.testBit_two_pow]
  simp only [eq_comm]

/-- RUN after one of its bits is cleared. -/
theorem Dev.bit_run_stopIsland (d : Dev) (i : Nat) (m : Fin 22) :
    bit ((d.stopIsland i).get SYS_ISLAND_STATUS.RUN) m = (bit (d.get SYS_ISLAND_STATUS.RUN) m && decide (m.val ≠ i - 1)) := by
  unfold Dev.stopIsland Dev.clrBit
  rw [Dev.get_set _ _ _ _ _ (by decide)]
  unfold bit
  rw [Nat.testBit_mod_two_pow]
  have hm : m.val < SYS_ISLAND_STATUS.RUN.width := m.isLt
  simp only [hm, decide_true, Bool.true_and]
  exact bit_clearBit _ _ _

/-- RUN after one of its bits is set. -/
theorem Dev.bit_run_runIsland (d : Dev) (i : Nat) (h : bit (d.word SYS_ISLAND_EN).toNat (i - 1) = true) (m : Fin 22) :
    bit ((d.runIsland i).get SYS_ISLAND_STATUS.RUN) m = (bit (d.get SYS_ISLAND_STATUS.RUN) m || decide (m.val = i - 1)) := by
  unfold Dev.runIsland Dev.orBits
  rw [if_pos h, Dev.get_set _ _ _ _ _ (by decide)]
  unfold bit
  rw [Nat.testBit_mod_two_pow]
  have hm : m.val < SYS_ISLAND_STATUS.RUN.width := m.isLt
  simp only [hm, decide_true, Bool.true_and]
  exact bit_or_shift _ _ _

/-- Judging every line changes the sources' states alone. -/
theorem Dev.word_judgeAll (d : Dev) (r : Reg) (i j : Nat) (h : ICT_SRC_CFG.key ≠ r.key) :
    d.judgeAll.word r i j = d.word r i j := by
  unfold Dev.judgeAll
  exact Dev.word_each _ _ r i j (fun s d => Dev.word_judge d s r i j h) d

@[simp] theorem Dev.word_keepTargets (d : Dev) (r : Reg) (i j : Nat) : d.keepTargets.word r i j = d.word r i j := by
  unfold Dev.keepTargets
  split
  · exact Dev.word_onIct ..
  · rfl

/-- A write of SYS_ISLAND_EN: the enables take the written bits, island 8's stays, and no clock has changed yet. -/
theorem Dev.island_write_fields {d : Dev} {who : Who} (v : Word) (h : d.takes who SYS_ISLAND_EN.at = true) :
    let t := d.busWrite who SYS_ISLAND_EN.at fun d => d.islandWrite who v
    t.get SYS_ISLAND_EN.EN_HI = SYS_ISLAND_EN.EN_HI.of v ∧ t.get SYS_ISLAND_EN.EN_LO = SYS_ISLAND_EN.EN_LO.of v ∧
      t.get SYS_ISLAND_EN.EN_VIGIL = d.get SYS_ISLAND_EN.EN_VIGIL ∧
      t.get SYS_ISLAND_STATUS.RUN = d.get SYS_ISLAND_STATUS.RUN := by
  intro t
  have hen : t.word SYS_ISLAND_EN = SYS_ISLAND_EN.written (d.word SYS_ISLAND_EN) v (d.endSnaps who SYS_ISLAND_EN.at).locked 0 := by
    refine (Dev.word_busWrite_takes _ _ _ _ h _ _ _ (by decide)).trans ?_
    refine (Dev.word_judgeActive _ _ _ _ (by decide)).trans ?_
    rw [Dev.word_plainWrite_self _ _ _ _ _ _ _ (by decide) (by decide), Dev.word_endSnaps]
  have hrun : t.word SYS_ISLAND_STATUS = d.word SYS_ISLAND_STATUS := by
    refine (Dev.word_busWrite_takes _ _ _ _ h _ _ _ (by decide)).trans ?_
    refine (Dev.word_judgeActive _ _ _ _ (by decide)).trans ?_
    rw [Dev.word_plainWrite_of_ne _ _ _ _ (RKey.ne_of_key (by decide)) (by decide) (by decide), Dev.word_endSnaps]
  refine ⟨?_, ?_, ?_, Dev.get_of_word hrun⟩
  · exact (congrArg _ hen).trans (Fld.of_written SYS_ISLAND_EN ⟨8, 14, .rw⟩ (by decide) _ _ _)
  · exact (congrArg _ hen).trans (Fld.of_written SYS_ISLAND_EN ⟨0, 7, .rw⟩ (by decide) _ _ _)
  · exact (congrArg _ hen).trans (Fld.of_written SYS_ISLAND_EN ⟨7, 1, .ro⟩ (by decide) _ _ _)

/-- What ISLAND_STOPPED does to the device for an island whose clock may stop. -/
def Dev.clockStops (d : Dev) (i : Fin 22) : Dev :=
  let d := if i.val = 6 then d.keepTargets else d
  let d := d.stopIsland (i.val + 1)
  let d := if i.val = 12 then d.gatesOff else d
  (if i.val = 6 then d.set VGL_STATUS.ISL7_DOWN 1 else d).judgeActive

/-- The shown clocks after one stops are those that RUN's cleared bit leaves. -/
theorem Dev.run_clockStops (d : Dev) (i : Fin 22) :
    (d.clockStops i).word SYS_ISLAND_STATUS = (d.stopIsland (i.val + 1)).word SYS_ISLAND_STATUS := by
  have hstop : ∀ e : Dev, e.word SYS_ISLAND_STATUS = d.word SYS_ISLAND_STATUS →
      (e.stopIsland (i.val + 1)).word SYS_ISLAND_STATUS = (d.stopIsland (i.val + 1)).word SYS_ISLAND_STATUS := by
    intro e he
    have hget : e.get SYS_ISLAND_STATUS.RUN = d.get SYS_ISLAND_STATUS.RUN := Dev.get_of_word he
    unfold Dev.stopIsland Dev.clrBit Dev.set
    rw [hget]
    refine (Dev.word_setWord ..).trans (Eq.trans ?_ (Dev.word_setWord ..).symm)
    exact congrArg (fun w => Fld.put _ w _) he
  unfold Dev.clockStops
  dsimp only
  rw [Dev.word_judgeActive _ _ _ _ (by decide)]
  by_cases h6 : i.val = 6
  · have h12 : i.val ≠ 12 := by omega
    rw [if_pos h6, if_pos h6, if_neg h12, Dev.word_set_of_key _ _ _ _ _ _ _ _ (by decide)]
    exact hstop _ (Dev.word_keepTargets ..)
  · rw [if_neg h6, if_neg h6]
    split <;> rfl

/-- The shown clocks after ISLAND_RUNNING are those that RUN's set bit leaves. -/
theorem completes_islandRunning {s : State} {i : Fin 22} {P : Dev → Prop} (hm : s.dev.mode ≠ .off)
    (h : ∀ t : Dev, t.word SYS_ISLAND_STATUS = (s.dev.runIsland (i.val + 1)).word SYS_ISLAND_STATUS → P t) :
    Completes (.islandRunning i) s P := by
  refine completes_of_run rfl ?_
  simp only [Dev.mode_beq_off hm, if_false, Bool.false_eq_true]
  refine h _ ?_
  split
  · rw [Dev.word_judgeAll _ _ _ _ (by decide), Dev.word_set_of_key _ _ _ _ _ _ _ _ (by decide)]
  · rw [Dev.word_judgeActive _ _ _ _ (by decide)]

/-- Settles O9: the written enables by their access types, and RUN's bits one by one. -/
theorem islandsStopAndStart : Obligations.IslandsStopAndStart := by
  unfold Obligations.IslandsStopAndStart
  refine ⟨fun s who v ht => completes_of_run rfl (Dev.island_write_fields v ht),
    fun s who v ht => completes_of_run rfl (Dev.island_write_fields v ht), fun s k hen h7 => ?_, fun s k hm hen => ?_⟩
  · have hrun : ∀ m : Fin 22, bit ((s.dev.clockStops k).get SYS_ISLAND_STATUS.RUN) m =
        (bit (s.dev.get SYS_ISLAND_STATUS.RUN) m && decide (m.val ≠ k.val)) := fun m => by
      rw [Dev.get_of_word (Dev.run_clockStops s.dev k)]
      exact Dev.bit_run_stopIsland _ _ _
    refine completes_of_run (f := fun d => if bit (d.word SYS_ISLAND_EN).toNat k || k.val = 7 then d else d.clockStops k) rfl ?_
    simp only [hen, h7, decide_false, Bool.or_false, Bool.false_eq_true, if_false]
    refine ⟨by simp [hrun], fun m hmk => ?_⟩
    simp [hrun, Fin.val_ne_of_ne hmk]
  · refine completes_islandRunning hm fun t ht => ?_
    have hrun : ∀ m : Fin 22, bit (t.get SYS_ISLAND_STATUS.RUN) m =
        (bit (s.dev.get SYS_ISLAND_STATUS.RUN) m || decide (m.val = k.val)) := fun m => by
      rw [Dev.get_of_word ht]
      exact Dev.bit_run_runIsland _ _ hen _
    refine ⟨by simp [hrun], fun m hmk => ?_⟩
    simp [hrun, Fin.val_ne_of_ne hmk]

end Sys2Proof.Machine
end

section
/-! SUPPORT. Pairs of registers (R34). -/
namespace Sys2Proof.Machine

/-! ### What an address names -/

/-- An element of the register stands at an offset. -/
def Reg.covers (o : Nat) (r : Reg) : Bool :=
  decide (r.ofs ≤ o) && (o - r.ofs) % r.stride == 0 && decide ((o - r.ofs) / r.stride < r.count)

/-- The address of an element lies in the register's block, and register k of the block is the first that covers it. -/
def Reg.standsAt (r : Reg) (k i j : Nat) : Bool :=
  let o := (r.at i j - r.blk.base) % 0x1_0000 / 4 * 4
  decide (blockAt (r.at i j) = some (r.blk, i)) && decide (r.blk.regs.findIdx? (Reg.covers o) = some k) &&
    decide ((o - r.ofs) / r.stride = j)

/-- An element's address names the element. -/
theorem regAt_at {r : Reg} {k i j : Nat} (h : r.standsAt k i j = true) (hr : r.blk.regs[k]? = some r) :
    regAt (r.at i j) = some ⟨r, i, j⟩ := by
  simp only [Reg.standsAt, Bool.and_eq_true, decide_eq_true_eq] at h
  obtain ⟨⟨hb, hk⟩, hj⟩ := h
  obtain ⟨hlt, hcov, hfirst⟩ := List.findIdx?_eq_some_iff_getElem.mp hk
  have hfind : r.blk.regs.find? (Reg.covers ((r.at i j - r.blk.base) % 0x1_0000 / 4 * 4)) = some r := by
    obtain ⟨_, hget⟩ := List.getElem?_eq_some_iff.mp hr
    rw [hget] at hcov
    exact List.find?_eq_some_iff_getElem.mpr ⟨hcov, k, hlt, hget, fun m hm => by simp [hfirst m hm]⟩
  unfold regAt
  simp only [hb]
  exact (congrArg _ hfind).trans (congrArg (fun n => some (Hit.mk r i n)) hj)

theorem regAt_shuSrcLo (c : Chan) : regAt (SHU_SRC_LO.at 0 c) = some ⟨SHU_SRC_LO, 0, c⟩ :=
  regAt_at (k := 3) ((by decide +kernel : ∀ c : Chan, SHU_SRC_LO.standsAt 3 0 c = true) c) rfl

theorem regAt_shuSrcHi (c : Chan) : regAt (SHU_SRC_HI.at 0 c) = some ⟨SHU_SRC_HI, 0, c⟩ :=
  regAt_at (k := 4) ((by decide +kernel : ∀ c : Chan, SHU_SRC_HI.standsAt 4 0 c = true) c) rfl

/-! ### Access tests of the cores -/

/-- The tests of a write read the register file alone. -/
theorem Dev.takes_congr {d t : Dev} (h : t.regs = d.regs) (who : Who) (a : Nat) : t.takes who a = d.takes who a := by
  have hw : ∀ r i j, t.word r i j = d.word r i j := fun r i j => by unfold Dev.word; rw [h]
  have hg : ∀ f i j, t.get f i j = d.get f i j := fun f i j => Dev.get_of_word (hw _ _ _)
  unfold Dev.takes Dev.refusal Dev.mapped Dev.pfRank Dev.served Dev.islandUp Dev.hasHead Dev.on
  simp only [hg, hw]

/-- The tests are the same for both cores. -/
theorem Dev.takes_core {who who' : Who} (h : who ≠ .bar2) (h' : who' ≠ .bar2) (d : Dev) (a : Nat) :
    d.takes who a = d.takes who' a := by
  have e : (who == .bar2) = false := by simpa using h
  have e' : (who' == .bar2) = false := by simpa using h'
  unfold Dev.takes Dev.refusal
  simp only [e, e', Bool.false_and, Bool.or_false]

/-- An aligned element of the register space is mapped, and a core's write to it passes where its block is served. -/
theorem Dev.takes_element {who : Who} (h : who ≠ .bar2) (d : Dev) {a : Nat} (ha : (regAt a).isSome = true)
    (hr : inRegSpace a = true ∧ a % 4 = 0) :
    d.takes who a = (d.get SYS_MODE.MODE != 1 && d.served a) := by
  have e : (who == .bar2) = false := by simpa using h
  unfold Dev.takes Dev.refusal Dev.mapped
  simp only [e, ha, hr, Bool.true_or, Bool.not_true, Bool.false_and, Bool.or_false, if_false, Bool.false_eq_true, bne_self_eq_false,
    Bool.and_false]
  cases d.served a <;> rfl

/-- Both halves of a channel's source address are served alike. -/
theorem Dev.served_shuSrc (d : Dev) (c : Chan) : d.served (SHU_SRC_LO.at 0 c) = d.served (SHU_SRC_HI.at 0 c) := by
  have hlo : blockAt (SHU_SRC_LO.at 0 c) = some (.shu, 0) :=
    (by decide +kernel : ∀ c : Chan, blockAt (SHU_SRC_LO.at 0 c) = some (.shu, 0)) c
  have hhi : blockAt (SHU_SRC_HI.at 0 c) = some (.shu, 0) :=
    (by decide +kernel : ∀ c : Chan, blockAt (SHU_SRC_HI.at 0 c) = some (.shu, 0)) c
  unfold Dev.served
  rw [hlo, hhi]

/-- A core's write to the _HI half passes the tests where one to the _LO half does. -/
theorem Dev.takes_shuSrcHi {who : Who} (h : who ≠ .bar2) (d : Dev) (c : Chan) :
    d.takes who (SHU_SRC_HI.at 0 c) = d.takes who (SHU_SRC_LO.at 0 c) := by
  have hlo := (by decide +kernel : ∀ c : Chan, inRegSpace (SHU_SRC_LO.at 0 c) = true ∧ SHU_SRC_LO.at 0 c % 4 = 0) c
  have hhi := (by decide +kernel : ∀ c : Chan, inRegSpace (SHU_SRC_HI.at 0 c) = true ∧ SHU_SRC_HI.at 0 c % 4 = 0) c
  rw [Dev.takes_element h d (by rw [regAt_shuSrcLo]; rfl) hlo, Dev.takes_element h d (by rw [regAt_shuSrcHi]; rfl) hhi,
    Dev.served_shuSrc]

/-! ### Staging and commit (R34) -/

@[simp] theorem Dev.regs_endSnaps (d : Dev) (who : Who) (a : Nat) : (d.endSnaps who a).regs = d.regs := by
  unfold Dev.endSnaps
  split <;> rfl

@[simp] theorem Dev.jobs_endSnaps (d : Dev) (who : Who) (a : Nat) : (d.endSnaps who a).jobs = d.jobs := by
  unfold Dev.endSnaps
  split <;> rfl

@[simp] theorem Dev.stage_endSnaps (d : Dev) (who : Who) (a : Nat) : (d.endSnaps who a).bus.stage = d.bus.stage := by
  unfold Dev.endSnaps
  split <;> rfl

/-- What an initiator has staged for the _LO half at an address. -/
def Dev.staged (d : Dev) (who : Who) (a : Nat) : Option Word :=
  (d.bus.stage.find? fun p => p.1 == who && p.2.1 == a).map fun p => p.2.2

/-- The device with a value staged. -/
def Dev.stageAt (d : Dev) (who : Who) (a : Nat) (v : Word) : Dev :=
  { d with bus := { d.bus with stage := (who, a, v) :: d.bus.stage.filter fun p => !(p.1 == who && p.2.1 == a) } }

theorem Dev.staged_stageAt_self (d : Dev) (who : Who) (a : Nat) (v : Word) : (d.stageAt who a v).staged who a = some v := by
  simp [Dev.staged, Dev.stageAt]

/-- Staging of one initiator leaves what another one has staged. -/
theorem Dev.staged_stageAt_of_ne (d : Dev) {who who' : Who} (h : who ≠ who') (a a' : Nat) (v : Word) :
    (d.stageAt who' a' v).staged who a = d.staged who a := by
  have hne : (who' == who) = false := by simpa using Ne.symm h
  unfold Dev.staged Dev.stageAt
  simp only [List.find?_cons, hne, Bool.false_and, List.find?_filter]
  congr 2
  funext p
  cases hp : p.1 == who with
  | false => simp
  | true =>
    have hp' : (p.1 == who') = false := by simpa [eq_of_beq hp] using h
    simp [hp', beq_eq_decide]

/-- The device without a staged value. -/
def Dev.unstage (d : Dev) (who : Who) (a : Nat) : Dev :=
  { d with bus := { d.bus with stage := d.bus.stage.filter fun p => !(p.1 == who && p.2.1 == a) } }

/-- A commit writes what its initiator has staged, then its own half. -/
theorem Dev.commitHi_staged {d : Dev} {who : Who} {lo : Reg} {h : Hit} {v : Word} (w : Word) (hd : d.dropsWrite h = false)
    (hv : d.staged who (lo.at h.inst h.idx) = some v) :
    d.commitHi who lo h w = .ok (((d.unstage who (lo.at h.inst h.idx)).plainWrite who lo h.inst h.idx v).plainWrite who
      h.reg h.inst h.idx w) := by
  obtain ⟨p, hp, rfl⟩ := Option.map_eq_some_iff.mp hv
  unfold Dev.commitHi
  rw [hd]
  simp only [Bool.false_eq_true, if_false]
  rw [show lo.addr h.inst h.idx = lo.at h.inst h.idx from rfl, hp]
  rfl

/-- No job runs on the channel: a write of its source address is not dropped (R504). -/
theorem Dev.dropsWrite_shuSrc {d : Dev} {c : Chan} (h : d.jobs[c] = none) (r : Reg) (hr : r.blk = .shu) :
    d.dropsWrite ⟨r, 0, c⟩ = false := by
  have hj : d.jobs[c.val]?.join = none := by
    rw [Vector.getElem?_eq_getElem c.isLt]
    exact h
  unfold Dev.dropsWrite
  simp only [hr, hj, Option.isSome_none, Bool.and_false]

/-- PAIR_LO_STAGE by a core on an idle channel stages the value. -/
theorem pairLoStage_stages {s : State} {who : Who} {c : Chan} {P : Dev → Prop} (v : Word) (hw : who ≠ .bar2)
    (ht : s.dev.takes who (SHU_SRC_LO.at 0 c) = true) (hj : s.dev.jobs[c] = none)
    (h : P ((s.dev.endSnaps who (SHU_SRC_LO.at 0 c)).stageAt who (SHU_SRC_LO.at 0 c) v)) :
    Completes (.pairLoStage who (SHU_SRC_LO.at 0 c) v) s P := by
  refine completes_of_run rfl ?_
  simp only [regAt_shuSrcLo]
  have hlo : isLo SHU_SRC_LO = true := rfl
  rw [if_pos hlo, Dev.busWriteOr_taken _ _ _ _ _ ht hw]
  · exact h
  · unfold Dev.stageLo
    rw [Dev.dropsWrite_shuSrc (by rw [Dev.jobs_endSnaps]; exact hj) _ rfl]
    rfl

/-- PAIR_HI_COMMIT by a core on an idle channel writes the staged value to the _LO half and its own to the _HI half. -/
theorem pairHiCommit_commits {s : State} {who : Who} {c : Chan} {P : Dev → Prop} {v : Word} (w : Word) (hw : who ≠ .bar2)
    (ht : s.dev.takes who (SHU_SRC_HI.at 0 c) = true) (hj : s.dev.jobs[c] = none)
    (hv : s.dev.staged who (SHU_SRC_LO.at 0 c) = some v)
    (h : ∀ t : Dev, t.regs = s.dev.regs → P ((t.plainWrite who SHU_SRC_LO 0 c v).plainWrite who SHU_SRC_HI 0 c w)) :
    Completes (.pairHiCommit who (SHU_SRC_HI.at 0 c) w) s P := by
  have hv' : (s.dev.endSnaps who (SHU_SRC_HI.at 0 c)).staged who (SHU_SRC_LO.at 0 c) = some v := by
    unfold Dev.staged
    rw [Dev.stage_endSnaps]
    exact hv
  have hd : (s.dev.endSnaps who (SHU_SRC_HI.at 0 c)).dropsWrite ⟨SHU_SRC_HI, 0, c⟩ = false :=
    Dev.dropsWrite_shuSrc (by rw [Dev.jobs_endSnaps]; exact hj) _ rfl
  refine completes_of_run rfl ?_
  have hlo : loOf SHU_SRC_HI = some SHU_SRC_LO := rfl
  simp only [regAt_shuSrcHi, hlo]
  have hc := Dev.commitHi_staged (lo := SHU_SRC_LO) (h := ⟨SHU_SRC_HI, 0, c⟩) w hd hv'
  rw [Dev.busWriteOr_taken _ _ _ _ (fun d => d.commitHi who SHU_SRC_LO ⟨SHU_SRC_HI, 0, c⟩ w) ht hw hc]
  exact h _ (Dev.regs_endSnaps ..)

/-- Settles O11: both initiators' writes pass the tests, each stages its own value, and the commit finds its own. -/
theorem pairStagesAndCommits : Obligations.PairStagesAndCommits := by
  unfold Obligations.PairStagesAndCommits
  intro s who who' v v' w c hw hw' hne ht hj
  set a := SHU_SRC_LO.at 0 c with ha
  refine pairLoStage_stages v hw ht hj ⟨Dev.word_endSnaps .., Dev.word_endSnaps .., ?_⟩
  set t := (s.dev.endSnaps who a).stageAt who a v with htdef
  have htr : t.regs = s.dev.regs := Dev.regs_endSnaps ..
  have htj : t.jobs[c] = none := (congrArg (·[c]) (Dev.jobs_endSnaps s.dev who a)).trans hj
  refine pairLoStage_stages v' hw' ?_ htj ?_
  · rw [Dev.takes_congr htr, Dev.takes_core hw' hw]; exact ht
  set u := (t.endSnaps who' a).stageAt who' a v' with hudef
  have hur : u.regs = s.dev.regs := (Dev.regs_endSnaps ..).trans htr
  have huj : u.jobs[c] = none := (congrArg (·[c]) (Dev.jobs_endSnaps t who' a)).trans htj
  have hstaged : u.staged who a = some v := by
    rw [hudef, Dev.staged_stageAt_of_ne _ hne]
    unfold Dev.staged
    rw [Dev.stage_endSnaps]
    exact Dev.staged_stageAt_self ..
  refine pairHiCommit_commits w hw ?_ huj hstaged fun x hx => ?_
  · rw [Dev.takes_congr hur, Dev.takes_shuSrcHi hw]; exact ht
  have hxw : ∀ r i j, x.word r i j = s.dev.word r i j := fun r i j => by unfold Dev.word; rw [hx, hur]
  have hlock : ∀ d : Dev, d.word LST_LOCK = s.dev.word LST_LOCK → d.locked = s.dev.locked := fun d hd =>
    congrArg (· != 0) (Dev.get_of_word (f := LST_LOCK.LOCK) hd)
  have hx_lock := hlock x (hxw _ _ _)
  constructor
  · rw [Dev.word_plainWrite_of_ne _ _ _ _ (RKey.ne_of_key (by decide)) (by decide) (by decide),
      Dev.word_plainWrite_self _ _ _ _ _ _ _ (by decide) (by decide), hxw, hx_lock]
  · have hy := hlock (x.plainWrite who SHU_SRC_LO 0 c v)
      ((Dev.word_plainWrite_of_ne _ _ _ _ (RKey.ne_of_key (by decide)) (by decide) (by decide)).trans (hxw _ _ _))
    rw [Dev.word_plainWrite_self _ _ _ _ _ _ _ (by decide) (by decide), hy,
      Dev.word_plainWrite_of_ne _ _ _ _ (RKey.ne_of_key (by decide)) (by decide) (by decide), hxw]

end Sys2Proof.Machine
end

section
/-! SUPPORT. The preamp port (R144 to R148). -/
namespace Sys2Proof.Machine

/-! ### Words from registers alone -/

theorem Dev.word_of_regs {d t : Dev} (h : t.regs = d.regs) (r : Reg) (i j : Nat) : t.word r i j = d.word r i j := by
  unfold Dev.word
  rw [h]

theorem Dev.get_of_regs {d t : Dev} (h : t.regs = d.regs) (f : Fld) (i j : Nat) : t.get f i j = d.get f i j :=
  Dev.get_of_word (Dev.word_of_regs h _ _ _)

/-! ### Frames of the port -/

@[simp] theorem Dev.regs_nextFrame (d : Dev) (g : Grp) : (d.nextFrame g).regs = d.regs := by
  unfold Dev.nextFrame
  dsimp only
  split
  · rfl
  · split <;> rfl

@[simp] theorem Dev.regs_sendFrame (d : Dev) (g : Grp) (f : PaFrame) : (d.sendFrame g f).regs = d.regs :=
  (Dev.regs_nextFrame ..).trans rfl

/-- Taking the next frame onto the wire touches the wire and the waiting frames alone. -/
theorem Dev.heater_nextFrame (d : Dev) (g : Grp) (i : HeadIx) :
    (d.nextFrame g).wls[g].heater[i] = d.wls[g].heater[i] ∧ (d.nextFrame g).wls[g].heaterAt[i] = d.wls[g].heaterAt[i] := by
  unfold Dev.nextFrame
  dsimp only
  split
  · exact ⟨rfl, rfl⟩
  · split
    · exact ⟨rfl, rfl⟩
    · simp only [Dev.wls_onWls, getElem_upd, and_self]

/-- A frame at the port, on the wire or waiting. -/
def Dev.atPort (d : Dev) (g : Grp) (f : PaFrame) : Prop := f ∈ d.wls[g].wire.toList ++ d.wls[g].frames

/-- Taking the next frame onto the wire loses none. -/
theorem Dev.atPort_nextFrame {d : Dev} {g : Grp} {f : PaFrame} (h : d.atPort g f) : (d.nextFrame g).atPort g f := by
  unfold Dev.nextFrame
  dsimp only
  split
  · exact h
  · rename_i hw
    split
    · exact h
    · rename_i f' _
      have hmem : f ∈ d.wls[g].frames := by
        simpa [Dev.atPort, Option.not_isSome_iff_eq_none.mp hw, -Fin.getElem_fin] using h
      simp only [Dev.atPort, Dev.wls_onWls, getElem_upd, Option.toList_some, List.mem_append, List.mem_singleton]
      by_cases e : f = f'
      · exact .inl e
      · exact .inr ((List.mem_erase_of_ne e).mpr hmem)

/-- A frame that is handed to the port is there. -/
theorem Dev.atPort_sendFrame (d : Dev) (g : Grp) (f : PaFrame) : (d.sendFrame g f).atPort g f := by
  refine Dev.atPort_nextFrame ?_
  simp only [Dev.atPort, Dev.wls_onWls, getElem_upd, List.mem_append, List.mem_singleton, or_true]

/-! ### A write of WLS_PA_CMD (R144) -/

theorem withField_eq_put (r : Reg) (v : Word) (lo width code : Nat) :
    withField v lo width code = (Fld.mk r lo width).put v code := rfl

theorem bits_eq_of (r : Reg) (v : Word) (lo width : Nat) : bits v lo width = (Fld.mk r lo width).of v := rfl

/-- A word with GO set has its other bits. -/
theorem getLsbD_withGo (v : Word) {k : Nat} (hk : k < 31) : (withField v 31 1 1).getLsbD k = v.getLsbD k := by
  rw [withField_eq_put WLS_PA_CMD, Fld.getLsbD_put _ _ _ _ (by decide) (by omega)]
  have : ¬ (31 ≤ k ∧ k < 31 + 1) := by omega
  exact if_neg this

theorem getLsbD_withGo_go (v : Word) : (withField v 31 1 1).getLsbD 31 = true := by
  rw [withField_eq_put WLS_PA_CMD, Fld.getLsbD_put _ _ _ _ (by decide) (by decide)]
  rfl

theorem bits_withGo (v : Word) (lo width : Nat) (h : lo + width ≤ 31) : bits (withField v 31 1 1) lo width = bits v lo width := by
  rw [bits_eq_of WLS_PA_CMD, bits_eq_of WLS_PA_CMD, withField_eq_put WLS_PA_CMD]
  exact Fld.of_put_disjoint _ _ _ _ (by decide) (show lo + width ≤ 32 by omega) (.inl h)

/-- The port's registers as a command with GO leaves them: the command written, VALID of a read's answer cleared. -/
def Dev.paRegs (d : Dev) (who : Who) (g : Grp) (v : Word) : Dev :=
  (d.plainWrite who WLS_PA_CMD g 0 (withField v 31 1 1)).when (v.getLsbD 30) (·.set WLS_PA_RESP.VALID 0 g)

/-- The frame of a command. -/
def Dev.paFrame (d : Dev) (g : Grp) (v : Word) : PaFrame :=
  ⟨5, d.heaterHead g (v.getLsbD 30) (bits v 16 7), v.getLsbD 30, bits v 16 7, bits v 0 16, false⟩

/-- A command with GO while none is under way: its frame goes to the port. -/
theorem Dev.paCmdWrite_go {d : Dev} {g : Grp} (h : d.get WLS_PA_CMD.GO g = 0) (who : Who) (v : Word) :
    d.paCmdWrite who g (withField v 31 1 1) =
      .ok ((d.paRegs who g v).sendFrame g ((d.paRegs who g v).paFrame g v)) := by
  have hgo : d.on WLS_PA_CMD.GO g = false := by simp [Dev.on, h]
  unfold Dev.paCmdWrite
  simp only [hgo, Bool.false_eq_true, if_false, getLsbD_withGo_go, getLsbD_withGo v (show 30 < 31 by decide), Bool.true_and,
    if_true, bits_withGo v 16 7 (by decide), bits_withGo v 0 16 (by decide)]
  rfl

/-- The command's registers leave every other register alone. -/
theorem Dev.word_paRegs (d : Dev) (who : Who) (g : Grp) (v : Word) (r : Reg) (i j : Nat)
    (h : r.key ∉ [WLS_PA_CMD.key, WLS_PA_RESP.key, SYS_BUS_ERR_ADDR.key, SYS_BUS_ERR_INFO.key]) :
    (d.paRegs who g v).word r i j = d.word r i j := by
  simp only [List.mem_cons, List.not_mem_nil, or_false, not_or] at h
  obtain ⟨hcmd, hresp, haddr, hinfo⟩ := h
  have hplain := d.word_plainWrite_of_ne who (withField v 31 1 1) 0 (i := g) (j := 0) (i' := i) (j' := j)
    (RKey.ne_of_key (Ne.symm hcmd)) (Ne.symm haddr) (Ne.symm hinfo)
  refine Eq.trans (Dev.word_when _ _ _ _ _ _ ?_) hplain
  exact Dev.word_set_of_key _ _ _ _ _ _ _ _ (Ne.symm hresp)

/-- The head that a frame reaches is the same before and after the command's registers are written. -/
theorem Dev.paFrame_paRegs (d : Dev) (who : Who) (g : Grp) (v : Word) : (d.paRegs who g v).paFrame g v = d.paFrame g v := by
  have hhead : ∀ rd a, (d.paRegs who g v).heaterHead g rd a = d.heaterHead g rd a := fun rd a => by
    have hp : (d.paRegs who g v).get FMT_LANES.PRESENT g = d.get FMT_LANES.PRESENT g :=
      Dev.get_of_word (Dev.word_paRegs _ _ _ _ _ _ _ (by decide))
    have ha : ∀ i j, (d.paRegs who g v).get WLS_HTR_CFG.ADDR i j = d.get WLS_HTR_CFG.ADDR i j := fun i j =>
      Dev.get_of_word (Dev.word_paRegs _ _ _ _ _ _ _ (by decide))
    unfold Dev.heaterHead
    simp only [hp, ha]
  unfold Dev.paFrame
  rw [hhead]

/-- GO is set by the command. -/
theorem Dev.go_paRegs (d : Dev) (who : Who) (g : Grp) (v : Word) : (d.paRegs who g v).get WLS_PA_CMD.GO g = 1 := by
  have hw : (d.paRegs who g v).word WLS_PA_CMD g =
      WLS_PA_CMD.written (d.word WLS_PA_CMD g) (withField v 31 1 1) d.locked 0 := by
    refine (Dev.word_when _ _ _ _ _ _ (Dev.word_set_of_key _ _ _ _ _ _ _ _ (by decide))).trans ?_
    exact Dev.word_plainWrite_self _ _ _ _ _ _ _ (by decide) (by decide)
  refine (congrArg WLS_PA_CMD.GO.of hw).trans
    ((Fld.of_written WLS_PA_CMD ⟨31, 1, .w1s⟩ (by decide) _ _ _).trans ?_)
  have hbit : (Acc.w1s.after (d.word WLS_PA_CMD g) (withField v 31 1 1) d.locked).extractLsb' 31 1 = 1 := by
    refine BitVec.eq_of_getLsbD_eq fun k hk => ?_
    obtain rfl : k = 0 := by omega
    simp [Acc.after, getLsbD_withGo_go]
  exact congrArg BitVec.toNat hbit

/-- A read's command clears VALID of the answer. -/
theorem Dev.valid_paRegs (d : Dev) (who : Who) (g : Grp) {v : Word} (h : v.getLsbD 30 = true) :
    (d.paRegs who g v).get WLS_PA_RESP.VALID g = 0 := by
  unfold Dev.paRegs Dev.when
  rw [if_pos h, Dev.get_set _ _ _ _ _ (by decide)]
  rfl

/-! ### The end of a frame (R144 to R148) -/

/-- The device once the frame has left the wire, its head's heater code and time set. -/
def Dev.frameLeft (d : Dev) (g : Grp) (f : PaFrame) : Dev :=
  let d := d.onWls g fun w => { w with wire := none, driven := [] }
  match f.head with
  | some i => d.onWls g fun w => { w with heater := w.heater.set i f.data, heaterAt := w.heaterAt.set i (some d.now) }
  | none => d

@[simp] theorem Dev.regs_frameLeft (d : Dev) (g : Grp) (f : PaFrame) : (d.frameLeft g f).regs = d.regs := by
  unfold Dev.frameLeft
  dsimp only
  split <;> rfl

/-- A heater frame leaves its code and the time it settles from. -/
theorem Dev.heater_frameLeft (d : Dev) (g : Grp) {f : PaFrame} {i : HeadIx} (h : f.head = some i) :
    (d.frameLeft g f).wls[g].heater[i] = f.data ∧ (d.frameLeft g f).wls[g].heaterAt[i] = some d.now := by
  unfold Dev.frameLeft
  simp only [h, Dev.wls_onWls, getElem_upd, Dev.now_onWls]
  simp only [Fin.getElem_fin, Vector.getElem_set_self, and_self]

/-- The device once a frame that is not retried has ended: a firmware frame gives back GO, a read with its answer. -/
def Dev.frameDone (d : Dev) (g : Grp) (f : PaFrame) (data : BitVec 16) : Dev :=
  if f.cls != 5 then d.frameLeft g f
  else if !f.read then (d.frameLeft g f).set WLS_PA_CMD.GO 0 g
  else (d.frameLeft g f).paAnswer g data false

theorem Dev.frameDone_own (d : Dev) (g : Grp) {f : PaFrame} (data : BitVec 16) (h : f.cls ≠ 5) :
    d.frameDone g f data = d.frameLeft g f := by
  unfold Dev.frameDone
  exact if_pos (by simpa using h)

theorem Dev.frameDone_write (d : Dev) (g : Grp) {f : PaFrame} (data : BitVec 16) (h : f.cls = 5) (hr : f.read = false) :
    d.frameDone g f data = (d.frameLeft g f).set WLS_PA_CMD.GO 0 g := by
  simp only [Dev.frameDone, h, hr, bne_self_eq_false, Bool.not_false, Bool.false_eq_true, if_false, if_true]

theorem Dev.frameDone_read (d : Dev) (g : Grp) {f : PaFrame} (data : BitVec 16) (h : f.cls = 5) (hr : f.read = true) :
    d.frameDone g f data = (d.frameLeft g f).paAnswer g data false := by
  simp only [Dev.frameDone, h, hr, bne_self_eq_false, Bool.not_true, Bool.false_eq_true, if_false]

/-- A read answer with bad parity is retried once. -/
theorem completes_preampFrameEnd_retry {s : State} {g : Grp} {f : PaFrame} {data : BitVec 16} {p : Bool} {P : Dev → Prop}
    (hc : s.dev.clocked (14 + g) = true) (hf : s.dev.wls[g].wire = some f) (hr : f.read = true) (hn : f.retried = false)
    (hp : oddParity (bitsMsb 16 data.toNat) ≠ p)
    (h : P (s.dev.onWls g fun w => { w with wire := some { f with retried := true } })) :
    Completes (.preampFrameEnd g data p) s P := by
  have hb : (oddParity (bitsMsb 16 data.toNat) == p) = false := by simpa using hp
  refine completes_of_run rfl ?_
  simpa only [hc, hf, hr, hn, hb, if_true, Bool.not_false, Bool.and_true] using h

/-- A write frame, or a read frame with a good answer, ends, and the next frame takes the wire. -/
theorem completes_preampFrameEnd {s : State} {g : Grp} {f : PaFrame} {data : BitVec 16} {p : Bool} {P : Dev → Prop}
    (hc : s.dev.clocked (14 + g) = true) (hf : s.dev.wls[g].wire = some f)
    (hp : f.read = false ∨ oddParity (bitsMsb 16 data.toNat) = p)
    (h : P ((s.dev.frameDone g f data).nextFrame g)) :
    Completes (.preampFrameEnd g data p) s P := by
  have hb : (f.read && !(oddParity (bitsMsb 16 data.toNat) == p) && !f.retried) = false := by
    rcases hp with hp | hp
    · simp [hp]
    · simp [hp]
  refine completes_of_run (f := fun d => if d.clocked (14 + g) then _ else d) rfl ?_
  simp only [hc, hf, hb, Bool.false_eq_true, if_false, if_true]
  rcases hp with hp | hp
  · simp only [Dev.frameDone, hp, Bool.not_false, if_true] at h ⊢
    exact h
  · simp only [hp, beq_self_eq_true, if_true]
    exact h

/-- The fields of a read's answer. -/
theorem Dev.paAnswer_fields (d : Dev) (g : Grp) (data : BitVec 16) :
    (d.paAnswer g data false).get WLS_PA_RESP.VALID g = 1 ∧ (d.paAnswer g data false).get WLS_PA_RESP.DATA g = data.toNat ∧
      (d.paAnswer g data false).get WLS_PA_RESP.PERR g = 0 ∧
      (d.paAnswer g data false).get WLS_PA_RESP.SEQ g = (d.get WLS_PA_RESP.SEQ g + 1) % 128 ∧
      (d.paAnswer g data false).get WLS_PA_CMD.GO g = 0 := by
  have hd : data.toNat < 65536 := data.isLt
  unfold Dev.paAnswer Dev.stamp nextTag
  refine ⟨?_, ?_, ?_, ?_, ?_⟩ <;>
    simp (disch := decide) [WLS_PA_RESP.VALID, WLS_PA_RESP.DATA, WLS_PA_RESP.PERR, WLS_PA_RESP.SEQ, WLS_PA_CMD.GO, Dev.get_set,
      Dev.get_set_beside, Dev.get_set_of_key]
  omega

/-- Settles O23: the command's registers and its frame, and the frame's end by its kind. -/
theorem preampPort : Obligations.PreampPort := by
  unfold Obligations.PreampPort
  refine ⟨fun s who g v ht h0 => ?_, fun s g f data p hc hf h5 hr hp => ?_, fun s g f data p hc hf hr hn hp => ?_,
    fun s g f data p i hc hf hr hi => ?_, fun s g f data p hc hf h5 hr => ?_⟩
  · have h0' : (s.dev.endSnaps who (WLS_PA_CMD.at g)).get WLS_PA_CMD.GO g = 0 :=
      (Dev.get_of_regs (Dev.regs_endSnaps ..) _ _ _).trans h0
    refine completes_of_run rfl ?_
    show _ ∧ _ ∧ Dev.atPort _ g _
    rw [Dev.tryWriteOr_taken s.dev _ who _ (fun d => d.paCmdWrite who g (withField v 31 1 1)) ht (Dev.paCmdWrite_go h0' who v)]
    have hfr : (s.dev.endSnaps who (WLS_PA_CMD.at g)).paFrame g v = s.dev.paFrame g v := by
      unfold Dev.paFrame Dev.heaterHead
      simp only [Dev.get_of_regs (Dev.regs_endSnaps s.dev who (WLS_PA_CMD.at g))]
    refine ⟨?_, fun hv => ?_, ?_⟩
    · rw [Dev.get_of_regs (Dev.regs_sendFrame ..)]; exact Dev.go_paRegs ..
    · rw [Dev.get_of_regs (Dev.regs_sendFrame ..)]; exact Dev.valid_paRegs _ _ _ hv
    · rw [Dev.paFrame_paRegs, hfr]; exact Dev.atPort_sendFrame ..
  · refine completes_preampFrameEnd hc hf (.inr hp) ?_
    simp only [Dev.get_of_regs (Dev.regs_nextFrame ..), Dev.frameDone_read _ _ _ h5 hr]
    rw [← Dev.get_of_regs (Dev.regs_frameLeft s.dev g f) WLS_PA_RESP.SEQ g 0]
    exact Dev.paAnswer_fields _ g data
  · exact completes_preampFrameEnd_retry hc hf hr hn hp ⟨by rw [Dev.wls_onWls, getElem_upd], rfl⟩
  · refine completes_preampFrameEnd hc hf (.inl hr) ?_
    obtain ⟨hcode, htime⟩ := Dev.heater_frameLeft s.dev g hi
    obtain ⟨hcode', htime'⟩ := Dev.heater_nextFrame (s.dev.frameDone g f data) g i
    have hwls : (s.dev.frameDone g f data).wls = (s.dev.frameLeft g f).wls := by
      by_cases h5 : f.cls = 5
      · rw [Dev.frameDone_write _ _ _ h5 hr]; rfl
      · rw [Dev.frameDone_own _ _ _ h5]
    rw [hwls] at hcode' htime'
    refine ⟨hcode'.trans hcode, htime'.trans htime, fun h5 => ?_⟩
    rw [Dev.regs_nextFrame, Dev.frameDone_own _ _ _ h5, Dev.regs_frameLeft]
  · refine completes_preampFrameEnd hc hf (.inl hr) ?_
    rw [Dev.get_of_regs (Dev.regs_nextFrame ..), Dev.frameDone_write _ _ _ h5 hr, Dev.get_set _ _ _ _ _ (by decide)]
    rfl

end Sys2Proof.Machine
end

section
/-! SUPPORT. The capture's registers are written by captures alone: no fault report, no fatal fault and no retract changes
them (R28, R40). -/
namespace Sys2Proof.Machine

/-! ### Observations that a fold keeps -/

/-- A fold keeps an observation that each of its steps keeps. -/
theorem Dev.each_keeps {α β : Type} (φ : Dev → β) (l : List α) (f : α → Dev → Dev) (h : ∀ a d, φ (f a d) = φ d)
    (d : Dev) : φ (d.each l f) = φ d := by
  unfold Dev.each
  induction l generalizing d with
  | nil => rfl
  | cons a t ih => rw [List.foldl_cons, ih, h]

theorem Dev.when_keeps {β : Type} (φ : Dev → β) (c : Bool) (f : Dev → Dev) {d : Dev} (h : φ (f d) = φ d) :
    φ (d.when c f) = φ d := by
  unfold Dev.when
  split
  · exact h
  · rfl

/-! ### The capture -/

/-- The two registers of the capture. -/
def captureKeys : List Nat := [SYS_BUS_ERR_ADDR.key, SYS_BUS_ERR_INFO.key]

/-- The words of the capture. -/
def Dev.captureWords (d : Dev) : Word × Word := (d.word SYS_BUS_ERR_ADDR, d.word SYS_BUS_ERR_INFO)

/-- Devices with the same words of the capture have the same record. -/
theorem Dev.records_congr {d t : Dev} (h : t.captureWords = d.captureWords) {who : Who} {a : Nat} {w : Bool} {c : BusCause}
    (hd : d.records who a w c) : t.records who a w c := by
  obtain ⟨haddr, hinfo⟩ := Prod.mk.inj h
  have hi : ∀ lo n, t.get ⟨SYS_BUS_ERR_INFO, lo, n⟩ = d.get ⟨SYS_BUS_ERR_INFO, lo, n⟩ := fun _ _ => Dev.get_of_word hinfo
  obtain ⟨h1, h2, h3, h4, h5, h6⟩ := hd
  exact ⟨(hi 31 1).trans h1, (hi 30 1).trans h2, (hi 28 2).trans h3, (hi 24 4).trans h4, (Dev.get_of_word haddr).trans h5,
    (hi 0 16).trans h6⟩

/-! ### Register writes -/

section
variable (d : Dev) (f : Fld) (v i j : Nat) (hf : f.reg.key ∉ captureKeys)
include hf

@[simp] theorem Dev.captureWords_set : (d.set f v i j).captureWords = d.captureWords := by
  simp only [captureKeys, List.mem_cons, List.not_mem_nil, or_false, not_or] at hf
  exact Prod.ext (Dev.word_set_of_key _ _ _ _ _ _ _ _ hf.1) (Dev.word_set_of_key _ _ _ _ _ _ _ _ hf.2)

@[simp] theorem Dev.captureWords_raise : (d.raise f i j).captureWords = d.captureWords := d.captureWords_set f 1 i j hf

@[simp] theorem Dev.captureWords_bump (n : Nat) : (d.bump f i j n).captureWords = d.captureWords :=
  d.captureWords_set f _ i j hf

@[simp] theorem Dev.captureWords_setSat : (d.setSat f v i j).captureWords = d.captureWords := d.captureWords_set f _ i j hf

@[simp] theorem Dev.captureWords_orBits (m : Nat) : (d.orBits f m i j).captureWords = d.captureWords :=
  d.captureWords_set f _ i j hf

@[simp] theorem Dev.captureWords_clrBit (b : Nat) : (d.clrBit f b i j).captureWords = d.captureWords :=
  d.captureWords_set f _ i j hf

@[simp] theorem Dev.captureWords_stamp (q : Fld) (hq : q.reg.key ∉ captureKeys) :
    (d.stamp f q i j).captureWords = d.captureWords :=
  (Dev.captureWords_set _ f 1 i j hf).trans (d.captureWords_set q _ i j hq)

end

@[simp] theorem Dev.captureWords_record (d : Dev) (t : Nat) (p : List Byte) : (d.record t p).captureWords = d.captureWords :=
  Prod.ext (Dev.word_record _ _ _ _ _ _ (by decide)) (Dev.word_record _ _ _ _ _ _ (by decide))

/-! ### Updates that write no register -/

theorem Dev.captureWords_of_regs {d t : Dev} (h : t.regs = d.regs) : t.captureWords = d.captureWords :=
  Prod.ext (Dev.word_of_regs h _ _ _) (Dev.word_of_regs h _ _ _)

@[simp] theorem Dev.captureWords_onAlm (d : Dev) (f : AlmSt → AlmSt) : (d.onAlm f).captureWords = d.captureWords :=
  Dev.captureWords_of_regs rfl
@[simp] theorem Dev.captureWords_onMem (d : Dev) (f : MemSt → MemSt) : (d.onMem f).captureWords = d.captureWords :=
  Dev.captureWords_of_regs rfl
@[simp] theorem Dev.captureWords_onFlt (d : Dev) (f : FltSt → FltSt) : (d.onFlt f).captureWords = d.captureWords :=
  Dev.captureWords_of_regs rfl
@[simp] theorem Dev.captureWords_onTok (d : Dev) (f : Tokens → Tokens) : (d.onTok f).captureWords = d.captureWords :=
  Dev.captureWords_of_regs rfl
@[simp] theorem Dev.captureWords_onQue (d : Dev) (f : QueSt → QueSt) : (d.onQue f).captureWords = d.captureWords :=
  Dev.captureWords_of_regs rfl
@[simp] theorem Dev.captureWords_onSpn (d : Dev) (f : Spn → Spn) : (d.onSpn f).captureWords = d.captureWords :=
  Dev.captureWords_of_regs rfl
@[simp] theorem Dev.captureWords_onSeq (d : Dev) (f : SeqSt → SeqSt) : (d.onSeq f).captureWords = d.captureWords :=
  Dev.captureWords_of_regs rfl
@[simp] theorem Dev.captureWords_onSrv (d : Dev) (g : Grp) (f : Srv → Srv) : (d.onSrv g f).captureWords = d.captureWords :=
  Dev.captureWords_of_regs rfl
@[simp] theorem Dev.captureWords_onWls (d : Dev) (g : Grp) (f : Wls → Wls) : (d.onWls g f).captureWords = d.captureWords :=
  Dev.captureWords_of_regs rfl
@[simp] theorem Dev.captureWords_onFmt (d : Dev) (g : Grp) (f : Fmt → Fmt) : (d.onFmt g f).captureWords = d.captureWords :=
  Dev.captureWords_of_regs rfl
@[simp] theorem Dev.captureWords_onGrpq (d : Dev) (g : Grp) (f : GroupQ → GroupQ) :
    (d.onGrpq g f).captureWords = d.captureWords := Dev.captureWords_of_regs rfl
@[simp] theorem Dev.captureWords_onArms (d : Dev) (n : LaneId) (f : List Arm → List Arm) :
    (d.onArms n f).captureWords = d.captureWords := Dev.captureWords_of_regs rfl

/-! ### Choices and folds -/

@[simp] theorem Dev.captureWords_ite (c : Prop) [Decidable c] (a b : Dev) :
    (if c then a else b).captureWords = if c then a.captureWords else b.captureWords := apply_ite ..

@[simp] theorem Dev.captureWords_when (d : Dev) (c : Bool) (f : Dev → Dev) :
    (d.when c f).captureWords = if c = true then (f d).captureWords else d.captureWords := apply_ite ..

/-- A fold leaves the capture alone where each of its steps does. -/
theorem Dev.captureWords_each {α : Type} (l : List α) (f : α → Dev → Dev)
    (h : ∀ a d, (f a d).captureWords = d.captureWords) (d : Dev) : (d.each l f).captureWords = d.captureWords :=
  Dev.each_keeps Dev.captureWords l f h d

/-! ### Memory and modes -/

@[simp] theorem Dev.captureWords_hbmWrite (d : Dev) (l : List (Nat × Byte)) : (d.hbmWrite l).captureWords = d.captureWords :=
  Dev.captureWords_of_regs rfl

@[simp] theorem Dev.captureWords_showDirty (d : Dev) : d.showDirty.captureWords = d.captureWords := by
  simp (disch := decide) [Dev.showDirty]

@[simp] theorem Dev.captureWords_cleanLine (d : Dev) (n : Nat) : (d.cleanLine n).captureWords = d.captureWords := by
  unfold Dev.cleanLine
  split <;> simp

@[simp] theorem Dev.captureWords_writeBelow (d : Dev) (l : List (Nat × Byte)) : (d.writeBelow l).captureWords = d.captureWords := by
  unfold Dev.writeBelow
  split
  · rfl
  · dsimp only
    split
    · rfl
    · split <;> simp

@[simp] theorem Dev.captureWords_mergeOut (d : Dev) (g : Nat) : (d.mergeOut g).captureWords = d.captureWords := by
  unfold Dev.mergeOut
  split <;> simp (disch := decide) [Dev.showMerge]

@[simp] theorem Dev.captureWords_mergeFlush (d : Dev) : d.mergeFlush.captureWords = d.captureWords :=
  Dev.captureWords_each _ _ (fun _ _ => Dev.captureWords_mergeOut ..) d

@[simp] theorem Dev.captureWords_setMode (d : Dev) (m : Mode) : (d.setMode m).captureWords = d.captureWords := by
  simp (disch := decide) [Dev.setMode, Dev.abandonInjection]

@[simp] theorem Dev.captureWords_stopIsland (d : Dev) (i : Nat) : (d.stopIsland i).captureWords = d.captureWords := by
  simp (disch := decide) [Dev.stopIsland]

@[simp] theorem Dev.captureWords_runIsland (d : Dev) (i : Nat) : (d.runIsland i).captureWords = d.captureWords := by
  simp (disch := decide) [Dev.runIsland]

@[simp] theorem Dev.captureWords_ksWrite (d : Dev) (k : Fin 64) (v : Word) : (d.ksWrite k v).captureWords = d.captureWords := by
  simp [Dev.ksWrite]

/-! ### Spindle commands and starts -/

@[simp] theorem Dev.captureWords_spnIssue (d : Dev) (op : Nat) : (d.spnIssue op).captureWords = d.captureWords := by
  simp (disch := decide) [Dev.spnIssue]

@[simp] theorem Dev.captureWords_issueStart (d : Dev) : d.issueStart.captureWords = d.captureWords := by
  unfold Dev.issueStart
  extract_lets d1 _
  have h1 : d1.captureWords = d.captureWords := by simp (disch := decide) [d1]
  split <;> simp [h1]

@[simp] theorem Dev.captureWords_enterSpinUp (d : Dev) : d.enterSpinUp.captureWords = d.captureWords := by
  simp [Dev.enterSpinUp]

@[simp] theorem Dev.captureWords_enterHeadLoad (d : Dev) : d.enterHeadLoad.captureWords = d.captureWords := by
  unfold Dev.enterHeadLoad Dev.loadAll
  rw [Dev.captureWords_each _ _ fun _ _ => by simp]
  simp

@[simp] theorem Dev.captureWords_warmReady (d : Dev) : d.warmReady.captureWords = d.captureWords := Dev.captureWords_of_regs rfl

@[simp] theorem Dev.captureWords_spinParked (d : Dev) : d.spinParked.captureWords = d.captureWords := by
  simp [Dev.spinParked]

@[simp] theorem Dev.captureWords_leaveFlush (d : Dev) : d.leaveFlush.captureWords = d.captureWords := by
  simp (disch := decide) [Dev.leaveFlush]

/-! ### The write path -/

@[simp] theorem Dev.captureWords_showTokens (d : Dev) : d.showTokens.captureWords = d.captureWords := by
  simp (disch := decide) [Dev.showTokens]

@[simp] theorem Dev.captureWords_returnTokens (d : Dev) (g : Grp) (m : Nat) :
    (d.returnTokens g m).captureWords = d.captureWords := by
  simp [Dev.returnTokens]

@[simp] theorem Dev.captureWords_clearTokens (d : Dev) (g : Grp) (m : Nat) : (d.clearTokens g m).captureWords = d.captureWords := by
  simp [Dev.clearTokens]

@[simp] theorem Dev.captureWords_dropTokens (d : Dev) (g : Grp) : (d.dropTokens g).captureWords = d.captureWords := by
  simp [Dev.dropTokens]

@[simp] theorem Dev.captureWords_nextFrame (d : Dev) (g : Grp) : (d.nextFrame g).captureWords = d.captureWords := by
  unfold Dev.captureWords
  simp only [Dev.word_of_regs (Dev.regs_nextFrame d g)]

@[simp] theorem Dev.captureWords_gatesFall (d : Dev) (g : Grp) (m : Nat) : (d.gatesFall g m).captureWords = d.captureWords := by
  simp [Dev.gatesFall]

@[simp] theorem Dev.captureWords_sendFrame (d : Dev) (g : Grp) (f : PaFrame) : (d.sendFrame g f).captureWords = d.captureWords := by
  simp [Dev.sendFrame]

@[simp] theorem Dev.captureWords_dropHeater (d : Dev) (g : Grp) (i : HeadIx) :
    (d.dropHeater g i).captureWords = d.captureWords := by
  simp [Dev.dropHeater]

@[simp] theorem Dev.captureWords_setHeater (d : Dev) (g : Grp) (i : HeadIx) (wr : Bool) (c : Nat) :
    (d.setHeater g i wr c).captureWords = d.captureWords := by
  simp (disch := decide) [Dev.setHeater]

@[simp] theorem Dev.captureWords_orderHeater (d : Dev) (g : Grp) (i : HeadIx) (c : Nat) :
    (d.orderHeater g i c).captureWords = d.captureWords := by
  simp [Dev.orderHeater]

@[simp] theorem Dev.captureWords_safetyHeaters (d : Dev) (g : Grp) : (d.safetyHeaters g).captureWords = d.captureWords := by
  unfold Dev.safetyHeaters
  exact Dev.captureWords_each _ _ (fun _ _ => by simp) d

@[simp] theorem Dev.captureWords_refreshInh (d : Dev) (g : Grp) : (d.refreshInh g).captureWords = d.captureWords := by
  simp (disch := decide) [Dev.refreshInh]

@[simp] theorem Dev.captureWords_abortRecord (d : Dev) (g : Grp) (i : HeadIx) (a : Arm) (c : Nat) :
    (d.abortRecord g i a c).captureWords = d.captureWords := by
  simp (disch := decide) [Dev.abortRecord]

@[simp] theorem Dev.captureWords_abortHead (d : Dev) (g : Grp) (c : Nat) (i : HeadIx) :
    (d.abortHead g c i).captureWords = d.captureWords := by
  unfold Dev.abortHead
  split
  · rfl
  · extract_lets n fallen recorded returned failed
    have hfall : fallen.captureWords = d.captureWords := Dev.captureWords_gatesFall ..
    have hrec : recorded.captureWords = fallen.captureWords := by
      simp only [recorded]
      split <;> simp (disch := decide)
    have hret : returned.captureWords = recorded.captureWords := by simp [returned]
    have hfail : failed.captureWords = returned.captureWords := by simp (disch := decide) [failed]
    simp only [Dev.captureWords_ite, Dev.captureWords_orderHeater, ite_self, hfail, hret, hrec, hfall]

@[simp] theorem Dev.captureWords_abortHeads (d : Dev) (g : Grp) (m c : Nat) : (d.abortHeads g m c).captureWords = d.captureWords :=
  Dev.captureWords_each _ _ (fun _ _ => Dev.captureWords_abortHead ..) d

/-! ### Requests and retracts -/

@[simp] theorem Dev.captureWords_showGrpq (d : Dev) (g : Grp) : (d.showGrpq g).captureWords = d.captureWords := by
  simp (disch := decide) [Dev.showGrpq]

@[simp] theorem Dev.captureWords_abandon (d : Dev) (g : Grp) : (d.abandon g).captureWords = d.captureWords := by
  simp [Dev.abandon]

@[simp] theorem Dev.captureWords_addReq (d : Dev) (g : Grp) (r : Request) (w : Purpose) :
    (d.addReq g r w).captureWords = d.captureWords := by
  unfold Dev.addReq
  dsimp only
  split <;> simp

@[simp] theorem Dev.captureWords_icuHalt (d : Dev) (g : Grp) : (d.icuHalt g).captureWords = d.captureWords := by
  simp (disch := decide) [Dev.icuHalt, Dev.icuRest]

@[simp] theorem Dev.captureWords_enter (d : Dev) (g : Grp) (st : Nat) : (d.enter g st).captureWords = d.captureWords := by
  simp (disch := decide) [Dev.enter]

@[simp] theorem Dev.captureWords_inhibitAll (d : Dev) (g : Grp) : (d.inhibitAll g).captureWords = d.captureWords := by
  simp (disch := decide) [Dev.inhibitAll]

@[simp] theorem Dev.captureWords_sendDown (d : Dev) (g : Grp) (rpt : Bool) : (d.sendDown g rpt).captureWords = d.captureWords := by
  simp [Dev.sendDown]

@[simp] theorem Dev.captureWords_trigger (d : Dev) (g : Grp) (c : Nat) : (d.trigger g c).captureWords = d.captureWords := by
  simp [Dev.trigger]

@[simp] theorem Dev.captureWords_retract (d : Dev) (g : Grp) (c : Nat) : (d.retract g c).captureWords = d.captureWords := by
  unfold Dev.retract
  extract_lets st d1 d2 d3 d4 d5 d6 d7 d8 d9 d10 d11 d12
  split
  · simp (disch := decide)
  split
  · simp (disch := decide)
  have h1 : d1.captureWords = d.captureWords := by simp [d1, Dev.loseTrack]
  have h2 : d2.captureWords = d1.captureWords := by simp (disch := decide) [d2]
  have h3 : d3.captureWords = d2.captureWords := by simp (disch := decide) [d3]
  have h4 : d4.captureWords = d3.captureWords := by simp (disch := decide) [d4]
  have h5 : d5.captureWords = d4.captureWords := by simp (disch := decide) [d5]
  have h6 : d6.captureWords = d5.captureWords := by simp [d6]
  have h7 : d7.captureWords = d6.captureWords := by simp (disch := decide) [d7]
  have h8 : d8.captureWords = d7.captureWords := by simp (disch := decide) [d8]
  simp [d9, d10, d11, d12, h1, h2, h3, h4, h5, h6, h7, h8]

@[simp] theorem Dev.captureWords_retractAll (d : Dev) (c : Nat) : (d.retractAll c).captureWords = d.captureWords := by
  unfold Dev.retractAll
  exact Dev.captureWords_each _ _ (fun _ _ => by simp) d

/-! ### The flush and the almanac -/

@[simp] theorem Dev.captureWords_storeFlush (d : Dev) : d.storeFlush.captureWords = d.captureWords := by
  unfold Dev.storeFlush
  split
  · rfl
  · split <;> rfl

@[simp] theorem Dev.captureWords_endFlush (d : Dev) : d.endFlush.captureWords = d.captureWords := by
  unfold Dev.endFlush
  dsimp only
  rw [Dev.captureWords_each _ _ fun _ _ => by simp]
  simp

@[simp] theorem Dev.captureWords_afterPark (d : Dev) : d.afterPark.captureWords = d.captureWords := by
  unfold Dev.afterPark
  dsimp only
  split
  · simp
  · split <;> simp

@[simp] theorem Dev.captureWords_layFlush (x : List (Grp × FlushExt)) (g : Grp) (d : Dev) :
    (Dev.layFlush x g d).captureWords = d.captureWords := by
  have hreqs : ∀ (d : Dev) (p w n m : Nat), (d.flushReqs g p w n m).captureWords = d.captureWords := fun d p w n m =>
    Dev.captureWords_each _ _ (fun _ _ => Dev.captureWords_addReq ..) d
  unfold Dev.layFlush
  split
  · rfl
  · rfl
  · simp only [hreqs]

@[simp] theorem Dev.captureWords_enterCoastFlush (d : Dev) (fa : Bool) : (d.enterCoastFlush fa).captureWords = d.captureWords := by
  unfold Dev.enterCoastFlush
  split
  · rfl
  extract_lets maker entered paused dropped exts gs shown epoch dealt written flushing
  have hentered : entered.captureWords = d.captureWords := by simp [entered]
  have hpaused : paused.captureWords = entered.captureWords := by simp (disch := decide) [paused]
  have hdropped : dropped.captureWords = paused.captureWords := Dev.captureWords_each _ _ (fun _ _ => by simp) _
  have hshown : shown.captureWords = dropped.captureWords := Dev.captureWords_each _ _ (fun _ _ => by simp) _
  split
  · simp [hshown, hdropped, hpaused, hentered]
  · have hwritten : written.captureWords = shown.captureWords := Dev.captureWords_ksWrite ..
    have hlaid : (flushing.each gs (Dev.layFlush dealt)).captureWords = flushing.captureWords :=
      Dev.captureWords_each _ _ (fun _ _ => Dev.captureWords_layFlush ..) _
    simp [hlaid, flushing, hwritten, hshown, hdropped, hpaused, hentered]

@[simp] theorem Dev.captureWords_almAppend (d : Dev) (c : Bool) : (d.almAppend c).captureWords = d.captureWords := by
  unfold Dev.almAppend Dev.almTake Dev.almStaged
  simp (disch := decide)

/-! ### Reports -/

@[simp] theorem Dev.captureWords_fatal (d : Dev) (r : FaultRec) : (d.fatal r).captureWords = d.captureWords := by
  unfold Dev.fatal
  extract_lets named recorded stopped raised
  have hnamed : named.captureWords = d.captureWords := by simp (disch := decide) [named]
  have hrec : recorded.captureWords = d.captureWords := by simp (disch := decide) [recorded, hnamed]
  have hstop : stopped.captureWords = recorded.captureWords :=
    Dev.captureWords_each _ _ (fun _ _ => by simp (disch := decide)) _
  simp (disch := decide) [raised, hstop, hrec]

@[simp] theorem Dev.captureWords_useInjection (d : Dev) (s : Nat) : (d.useInjection s).2.2.captureWords = d.captureWords := by
  unfold Dev.useInjection
  split
  · simp (disch := decide)
  · rfl

@[simp] theorem Dev.captureWords_writeRec (d : Dev) (r : FaultRec) (b : Bool) : (d.writeRec r b).captureWords = d.captureWords := by
  simp (disch := decide) [Dev.writeRec]

@[simp] theorem Dev.captureWords_fenceReport (d : Dev) (j : FenceJob) : (d.fenceReport j).captureWords = d.captureWords := by
  unfold Dev.fenceReport Dev.startFence
  split <;> simp (disch := decide)

@[simp] theorem Dev.captureWords_setCeCount (d : Dev) (s n : Nat) : (d.setCeCount s n).captureWords = d.captureWords :=
  Dev.captureWords_of_regs rfl

@[simp] theorem Dev.captureWords_report (d : Dev) (x : Report) : (d.report x).captureWords = d.captureWords := by
  unfold Dev.report
  split
  · rfl
  extract_lets y site
  split
  rename_i inj sup d1 hu
  have h1 : d1.captureWords = d.captureWords := by simpa [hu] using d.captureWords_useInjection y.site
  extract_lets d2 lim n first esc act cls0 cls r dCe dEsc ce dFa dFaRec dUc r2
  have h2 : d2.captureWords = d1.captureWords := by simp (disch := decide) [d2]
  have hCe : dCe.captureWords = d2.captureWords := by simp (disch := decide) [dCe]
  have hEsc : dEsc.captureWords = d2.captureWords := by simp (disch := decide) [dEsc]
  have hFa : dFaRec.captureWords = dEsc.captureWords := by simp (disch := decide) [dFaRec, dFa]
  have hUc : dUc.captureWords = dEsc.captureWords := by simp (disch := decide) [dUc]
  split
  · simp [hCe, h2, h1]
  split
  · simp (disch := decide) [hFa, hEsc, h2, h1]
  split
  extract_lets fences dFence
  have hFence : dFence.captureWords = dUc.captureWords := by simp (disch := decide) [dFence]
  split
  · split <;> simp [hFence, hUc, hEsc, h2, h1]
  · simp [hUc, hEsc, h2, h1]

/-! ### A crossing that does not answer (R19, R28) -/

@[simp] theorem Dev.captureWords_answer (d : Dev) (w : Word) : (d.answer w).captureWords = d.captureWords :=
  Dev.captureWords_of_regs rfl

/-- An access that ends with TIMEOUT is recorded while VALID is 0, whatever its UC record leads to. -/
theorem Dev.records_timeOut {d : Dev} (h : d.get SYS_BUS_ERR_INFO.VALID = 0) (who : Who) (a : Nat) (w : Bool) :
    (d.timeOut who a w).records who a w .timeout :=
  Dev.records_congr (Dev.captureWords_report ..) (Dev.records_capture h who a w .timeout)

/-- Settles O13: the capture comes first, and the report that follows leaves it alone. -/
theorem crossingTimeoutCaptured : Obligations.CrossingTimeoutCaptured := by
  unfold Obligations.CrossingTimeoutCaptured
  intro s who a w hm ha hr hv
  refine completes_of_run rfl ?_
  simp only [Dev.mode_beq_off hm, ha, hr, Bool.not_true, Bool.or_self, Bool.false_eq_true, if_false]
  obtain ⟨hvalid, hwrite, -, hcause, haddr, -⟩ :=
    Dev.records_congr (Dev.captureWords_answer _ 0) (Dev.records_timeOut hv who a w)
  exact ⟨rfl, hvalid, hcause, haddr, hwrite⟩

end Sys2Proof.Machine
end

section
/-! SUPPORT. What a mode change, a cold reset and ROM_BOOT leave (chapter 20). -/
namespace Sys2Proof.Machine

/-! ### Observations -/

/-- The device without its register file. -/
def Dev.rest (d : Dev) : Dev := { d with regs := [] }

/-- The device without its register file and its memory. -/
def Dev.outside (d : Dev) : Dev := { d with regs := [], mem := {} }

/-! ### Mode changes (R468, R600) -/

/-- The registers that show the cache's lines and the merge buffer. -/
def memoryKeys : List Nat := [CCH_STATUS.key, MEM_STATUS.key]

/-- The registers that a mode change can write. -/
def modeKeys : List Nat := memoryKeys ++ [FLT_INJ_CTRL.key, FLT_INJ_STATUS.key, SYS_MODE.key, SYS_INT_STATUS.key]

/-- Writing an entry of the merge buffer out changes memory alone. -/
theorem Dev.outside_mergeOut (d : Dev) (g : Nat) : (d.mergeOut g).outside = d.outside := by
  have hclean : ∀ (d : Dev) n, (d.cleanLine n).outside = d.outside := fun d n => by
    unfold Dev.cleanLine
    split <;> rfl
  have hbelow : ∀ (d : Dev) l, (d.writeBelow l).outside = d.outside := fun d l => by
    unfold Dev.writeBelow
    split
    · rfl
    · dsimp only
      split
      · rfl
      · split
        · split
          · exact hclean _ _
          · rfl
        · repeat' split
          all_goals rfl
  unfold Dev.mergeOut
  split
  · rfl
  · exact hbelow _ _

/-- Writing an entry of the merge buffer out shows in two registers alone. -/
theorem Dev.word_mergeOut (d : Dev) (g : Nat) (r : Reg) (i j : Nat) (h : r.key ∉ memoryKeys) :
    (d.mergeOut g).word r i j = d.word r i j := by
  simp only [memoryKeys, List.mem_cons, List.not_mem_nil, or_false, not_or] at h
  have hdirty : ∀ d : Dev, d.showDirty.word r i j = d.word r i j := fun d =>
    (Dev.word_set_of_key _ _ _ _ _ _ _ _ (Ne.symm h.1)).trans (Dev.word_set_of_key _ _ _ _ _ _ _ _ (Ne.symm h.1))
  have hclean : ∀ (d : Dev) n, (d.cleanLine n).word r i j = d.word r i j := fun d n => by
    unfold Dev.cleanLine
    split
    · rfl
    · exact (hdirty _).trans rfl
  have hbelow : ∀ (d : Dev) l, (d.writeBelow l).word r i j = d.word r i j := fun d l => by
    unfold Dev.writeBelow
    split
    · rfl
    · dsimp only
      split
      · rfl
      · split
        · split
          · exact (hclean _ _).trans rfl
          · exact (hdirty _).trans rfl
        · repeat' split
          all_goals rfl
  unfold Dev.mergeOut
  split
  · rfl
  · exact (Dev.word_set_of_key _ _ _ _ _ _ _ _ (Ne.symm h.2)).trans ((hbelow _ _).trans rfl)

/-- What a mode change does before the new code is written: the merge buffer is written out, an injection is abandoned. -/
def Dev.leaveMode (d : Dev) : Dev := (d.when d.merging (·.mergeFlush)).when (d.mode == .makerService) (·.abandonInjection)

/-- The codes of a mode change. -/
def Dev.codeMode (d : Dev) (old new : Mode) : Dev :=
  ((d.set SYS_MODE.PREV old.code).set SYS_MODE.MODE new.code).when (new != .safe) (·.set SYS_MODE.SAFE_CAUSE 0)

theorem Dev.setMode_self {d : Dev} {m : Mode} (h : d.mode = m) : d.setMode m = d := by
  unfold Dev.setMode
  exact if_pos (by simpa using h)

theorem Dev.setMode_of_ne {d : Dev} {m : Mode} (h : d.mode ≠ m) :
    d.setMode m = (d.leaveMode.codeMode d.mode m).raise SYS_INT_STATUS.MODE_CHANGE := by
  unfold Dev.setMode
  exact if_neg (by simpa using h)

/-- What a mode change keeps: what leaving the mode, the codes and the interrupt keep. -/
theorem Dev.setMode_keeps {β : Type} (φ : Dev → β) (d : Dev) (m : Mode) (hl : φ d.leaveMode = φ d)
    (hc : ∀ (e : Dev) (f : Fld) v, f.reg = SYS_MODE → φ (e.set f v) = φ e)
    (hr : ∀ e : Dev, φ (e.raise SYS_INT_STATUS.MODE_CHANGE) = φ e) : φ (d.setMode m) = φ d := by
  by_cases h : d.mode = m
  · rw [Dev.setMode_self h]
  · have hcode : φ (d.leaveMode.codeMode d.mode m) = φ d.leaveMode :=
      (Dev.when_keeps _ _ _ (hc _ _ _ rfl)).trans ((hc _ _ _ rfl).trans (hc _ _ _ rfl))
    rw [Dev.setMode_of_ne h, hr, hcode, hl]

theorem Dev.outside_leaveMode (d : Dev) : d.leaveMode.outside = d.outside :=
  (Dev.when_keeps _ _ _ rfl).trans (Dev.when_keeps _ _ _ (Dev.each_keeps _ _ _ (fun _ _ => Dev.outside_mergeOut ..) d))

theorem Dev.word_leaveMode (d : Dev) (r : Reg) (i j : Nat) (h : r.key ∉ memoryKeys) (hc : FLT_INJ_CTRL.key ≠ r.key)
    (hs : FLT_INJ_STATUS.key ≠ r.key) : d.leaveMode.word r i j = d.word r i j := by
  refine (Dev.word_when _ _ _ _ _ _ ?_).trans (Dev.word_when _ _ _ _ _ _ ?_)
  · exact (Dev.word_set_of_key _ _ _ _ _ _ _ _ hs).trans (Dev.word_set_of_key _ _ _ _ _ _ _ _ hc)
  · exact Dev.word_each _ _ _ _ _ (fun g d => Dev.word_mergeOut d g r i j h) d

/-- A mode change writes registers and memory alone. -/
theorem Dev.outside_setMode (d : Dev) (m : Mode) : (d.setMode m).outside = d.outside :=
  Dev.setMode_keeps _ _ _ (Dev.outside_leaveMode d) (fun _ _ _ _ => rfl) fun _ => rfl

/-- A mode change leaves memory alone where the merge buffer is empty. -/
theorem Dev.mem_setMode {d : Dev} (h : d.mem.merge = []) (m : Mode) : (d.setMode m).mem = d.mem := by
  have hflush : d.mergeFlush = d := by
    unfold Dev.mergeFlush
    rw [h]
    rfl
  refine Dev.setMode_keeps _ _ _ ?_ (fun _ _ _ _ => rfl) fun _ => rfl
  exact (Dev.when_keeps Dev.mem _ _ rfl).trans (Dev.when_keeps _ _ _ (congrArg _ hflush))

/-- The registers that a mode change leaves alone. -/
theorem Dev.word_setMode (d : Dev) (m : Mode) (r : Reg) (i j : Nat) (h : r.key ∉ modeKeys) :
    (d.setMode m).word r i j = d.word r i j := by
  simp only [modeKeys, List.mem_append, List.mem_cons, List.not_mem_nil, or_false, not_or] at h
  obtain ⟨hmem, hctrl, hstat, hmode, hint⟩ := h
  refine Dev.setMode_keeps (fun d => d.word r i j) d m (Dev.word_leaveMode _ _ _ _ hmem (Ne.symm hctrl) (Ne.symm hstat))
    (fun e f v hf => ?_) fun e => Dev.word_raise_of_key _ _ _ _ _ _ _ (Ne.symm hint)
  exact Dev.word_set_of_key _ _ _ _ _ _ _ _ (by rw [hf]; exact Ne.symm hmode)

/-- A mode change leaves a bit of SYS_INT_STATUS beside MODE_CHANGE alone. -/
theorem Dev.setMode_status (d : Dev) (m : Mode) (lo w : Nat) (hlo : 1 ≤ lo) (hw : lo + w ≤ 32) :
    (d.setMode m).get ⟨SYS_INT_STATUS, lo, w⟩ = d.get ⟨SYS_INT_STATUS, lo, w⟩ := by
  refine Dev.setMode_keeps (fun d => d.get ⟨SYS_INT_STATUS, lo, w⟩) d m
    (Dev.get_of_word (Dev.word_leaveMode d SYS_INT_STATUS 0 0 (by decide) (by decide) (by decide))) (fun e f v hf => ?_)
    fun e => ?_
  · exact Dev.get_set_of_key _ _ _ _ _ _ _ _ (show f.reg.key ≠ SYS_INT_STATUS.key by rw [hf]; decide)
  · exact Dev.get_set_beside _ SYS_INT_STATUS 0 1 lo w _ _ _ ⟨by decide, hw, .inr hlo⟩

theorem Dev.mode_of_code {d : Dev} {m : Mode} (h : d.get SYS_MODE.MODE = m.code) : d.mode = m := by
  unfold Dev.mode
  rw [h]
  cases m <;> rfl

theorem Mode.code_lt (m : Mode) : m.code < 16 := by cases m <;> decide

/-- The codes of a mode change, read back. -/
theorem Dev.codeMode_fields (d : Dev) (old new : Mode) :
    (d.codeMode old new).get SYS_MODE.MODE = new.code ∧ (d.codeMode old new).get SYS_MODE.PREV = old.code := by
  have hcode : ∀ lo, lo + 4 ≤ 8 → ∀ e : Dev,
      (e.when (new != .safe) (·.set SYS_MODE.SAFE_CAUSE 0)).get ⟨SYS_MODE, lo, 4⟩ = e.get ⟨SYS_MODE, lo, 4⟩ := fun lo h e =>
    Dev.when_keeps (fun d => d.get ⟨SYS_MODE, lo, 4⟩) _ _
      (Dev.get_set_beside _ SYS_MODE 8 4 lo 4 _ _ _ ⟨by decide, by omega, .inl h⟩)
  constructor
  · refine (hcode 0 (by decide) _).trans ((Dev.get_set _ _ _ _ _ (by decide)).trans ?_)
    exact Nat.mod_eq_of_lt new.code_lt
  · refine (hcode 4 (by decide) _).trans ((Dev.get_set_beside _ SYS_MODE 0 4 4 4 _ _ _ (by decide)).trans ?_)
    exact (Dev.get_set _ _ _ _ _ (by decide)).trans (Nat.mod_eq_of_lt old.code_lt)

/-- After a mode change the mode is the new one. -/
theorem Dev.mode_setMode (d : Dev) (m : Mode) : (d.setMode m).mode = m := by
  by_cases h : d.mode = m
  · rw [Dev.setMode_self h, h]
  · rw [Dev.setMode_of_ne h]
    exact Dev.mode_of_code ((Dev.get_set_of_key _ _ _ _ _ _ _ _ (by decide)).trans (Dev.codeMode_fields ..).1)

/-- A change to another mode leaves the old one in PREV and sets MODE_CHANGE. -/
theorem Dev.setMode_shows {d : Dev} {m : Mode} (h : d.mode ≠ m) :
    (d.setMode m).get SYS_MODE.PREV = d.mode.code ∧ (d.setMode m).get SYS_INT_STATUS.MODE_CHANGE = 1 := by
  rw [Dev.setMode_of_ne h]
  exact ⟨(Dev.get_set_of_key _ _ _ _ _ _ _ _ (by decide)).trans (Dev.codeMode_fields ..).2, Dev.get_set _ _ _ _ _ (by decide)⟩

/-! ### Cold reset (R579, R583, R612) -/

/-- The device while a cold reset is held, with what the flash holds then. -/
def Dev.coldHeld (d : Dev) (fl : Flash) : Dev := { d.cold.set SYS_MODE.MODE Mode.off.code with flash := fl }

/-- A device as a cold reset of d leaves it: OFF, every register but SYS_MODE at its reset word, the units empty, the media and
the flash's records as they were. -/
def Dev.FreshOf (d t : Dev) : Prop :=
  t.mode = .off ∧ (∀ r i j, r.key ≠ SYS_MODE.key → t.word r i j = r.reset j) ∧ t.flt = {} ∧ t.mem = {} ∧ t.bpm = {} ∧
    t.que = {} ∧ t.band = {} ∧ t.media = d.media ∧ t.alm.copyA = d.alm.copyA ∧ t.alm.copyB = d.alm.copyB

theorem Dev.coldHeld_fresh (d : Dev) (fl : Flash) : d.FreshOf (d.coldHeld fl) := by
  have hmode : (d.coldHeld fl).mode = .off :=
    Dev.mode_of_code ((show _ = (d.cold.set SYS_MODE.MODE Mode.off.code).get SYS_MODE.MODE from rfl).trans
      (Dev.get_set _ _ _ _ _ (by decide)))
  have hword (r : Reg) (i j : Nat) (h : r.key ≠ SYS_MODE.key) : (d.coldHeld fl).word r i j = r.reset j :=
    (Dev.word_set_of_key d.cold SYS_MODE.MODE r _ 0 0 i j (Ne.symm h)).trans rfl
  exact ⟨hmode, hword, rfl, rfl, rfl, rfl, rfl, rfl, rfl, rfl⟩

/-! ### ROM_BOOT (R596) -/

/-- Islands 1, 3, 4 and 6 start. -/
def Dev.bootIslands (d : Dev) : Dev := d.each [1, 3, 4, 6] fun i d => d.startIsland i

/-- The pseudo-channels are trained. -/
def Dev.trainPcs (d : Dev) (pcOk : BitVec 64) (n : Nat) : Dev :=
  d.each (List.range n) fun q d => if pcOk.getLsbD q then d else d.failTraining q

/-- The stacks' marks, the requesters without ALLOC, the fenced ways. -/
def Dev.bootCache (d : Dev) : Dev :=
  let d := (d.set MEM_STATUS.STACK0_OK (d.stackOk 0).toNat).set MEM_STATUS.STACK1_OK (d.stackOk 1).toNat
  let d := d.each [64, 65, 66, 67, 70] fun r d => d.set CCH_REQ_ATTR.ALLOC 0 0 r
  d.each ((List.range 16).filter fun w => bit (d.get FLT_FENCED_MISC.WAY) w) fun w d =>
    (d.setWay w 2).orBits CCH_WAY_CTRL.OFF (1 <<< w)

/-- The firmware chosen, the control store loaded, the entropy source found good. -/
def Dev.bootLast (d : Dev) : Dev :=
  let d := d.onHst fun h => { h with fwActive := h.fwNext }
  let d := { d with cs := { d.cs with loaded := true } }
  d.set SEC_STATUS.ENTROPY_OK 1

/-- ROM_BOOT before its mode ends. -/
def Dev.booted (d : Dev) (pcOk : BitVec 64) : Dev := ((d.bootIslands.trainPcs pcOk 64).bootCache).bootLast

theorem Dev.boot_eq (d : Dev) (pcOk : BitVec 64) : d.boot pcOk = (d.booted pcOk).setMode .lastLoad := rfl

/-- The registers that each part of ROM_BOOT writes. -/
def islandKeys : List Nat := [SYS_ISLAND_EN.key, SYS_ISLAND_STATUS.key]
def trainKeys : List Nat := [MEM_PC_FENCE.key, MEM_INT_STATUS.key]
def bootKeys : List Nat :=
  [MEM_STATUS.key, CCH_REQ_ATTR.key, CCH_WAY_STATUS.key, CCH_WAY_CTRL.key, SEC_STATUS.key]

theorem Dev.word_startIsland (d : Dev) (k : Nat) (r : Reg) (i j : Nat) (h : r.key ∉ islandKeys) :
    (d.startIsland k).word r i j = d.word r i j := by
  simp only [islandKeys, List.mem_cons, List.not_mem_nil, or_false, not_or] at h
  exact (Dev.word_set_of_key _ _ _ _ _ _ _ _ (Ne.symm h.2)).trans (Dev.word_setWord_of_key _ _ _ _ _ _ (Ne.symm h.1))

theorem Dev.word_bootIslands (d : Dev) (r : Reg) (i j : Nat) (h : r.key ∉ islandKeys) : d.bootIslands.word r i j = d.word r i j :=
  Dev.word_each _ _ _ _ _ (fun k d => Dev.word_startIsland d k r i j h) d

theorem Dev.word_trainPcs (d : Dev) (p : BitVec 64) (n : Nat) (r : Reg) (i j : Nat) (h : r.key ∉ trainKeys) :
    (d.trainPcs p n).word r i j = d.word r i j := by
  simp only [trainKeys, List.mem_cons, List.not_mem_nil, or_false, not_or] at h
  refine Dev.word_each _ _ _ _ _ (fun q d => ?_) d
  unfold Dev.failTraining
  split
  · rfl
  split
  · rfl
  · exact (Dev.word_raise_of_key _ _ _ _ _ _ _ (Ne.symm h.2)).trans (Dev.word_set_of_key _ _ _ _ _ _ _ _ (Ne.symm h.1))

theorem Dev.word_bootCache (d : Dev) (r : Reg) (i j : Nat) (h : r.key ∉ bootKeys) : d.bootCache.word r i j = d.word r i j := by
  simp only [bootKeys, List.mem_cons, List.not_mem_nil, or_false, not_or] at h
  obtain ⟨hstat, hattr, hway, hctrl, -⟩ := h
  unfold Dev.bootCache
  extract_lets marked noAlloc
  have hmarked : marked.word r i j = d.word r i j :=
    (Dev.word_set_of_key _ _ _ _ _ _ _ _ (Ne.symm hstat)).trans (Dev.word_set_of_key _ _ _ _ _ _ _ _ (Ne.symm hstat))
  have hnoAlloc : noAlloc.word r i j = marked.word r i j :=
    Dev.word_each _ _ _ _ _ (fun _ _ => Dev.word_set_of_key _ _ _ _ _ _ _ _ (Ne.symm hattr)) _
  refine (Dev.word_each _ _ _ _ _ (fun _ _ => ?_) _).trans (hnoAlloc.trans hmarked)
  exact (Dev.word_set_of_key _ _ _ _ _ _ _ _ (Ne.symm hctrl)).trans (Dev.word_set_of_key _ _ _ _ _ _ _ _ (Ne.symm hway))

/-- The registers that ROM_BOOT leaves alone before its mode ends. -/
theorem Dev.word_booted (d : Dev) (p : BitVec 64) (r : Reg) (i j : Nat) (hi : r.key ∉ islandKeys) (ht : r.key ∉ trainKeys)
    (hb : r.key ∉ bootKeys) : (d.booted p).word r i j = d.word r i j := by
  have hsec : SEC_STATUS.key ≠ r.key := fun e => hb (by rw [← e]; decide)
  refine (Dev.word_set_of_key _ _ _ _ _ _ _ _ hsec).trans ?_
  exact (Dev.word_bootCache _ _ _ _ hb).trans ((Dev.word_trainPcs _ _ _ _ _ _ ht).trans (Dev.word_bootIslands _ _ _ _ hi))

/-- The registers that ROM_BOOT and the mode change at its end can write. -/
def wakeKeys : List Nat := islandKeys ++ trainKeys ++ bootKeys ++ modeKeys

/-- The registers that ROM_BOOT leaves alone. -/
theorem Dev.word_boot (d : Dev) (p : BitVec 64) (r : Reg) (i j : Nat) (h : r.key ∉ wakeKeys) :
    (d.boot p).word r i j = d.word r i j := by
  simp only [wakeKeys, List.mem_append, not_or] at h
  obtain ⟨⟨⟨hi, ht⟩, hb⟩, hm⟩ := h
  exact (Dev.word_setMode _ _ _ _ _ hm).trans (Dev.word_booted d p r i j hi ht hb)

/-- Beside registers ROM_BOOT writes the active firmware and the control store's mark. -/
theorem Dev.rest_booted (d : Dev) (p : BitVec 64) :
    (d.booted p).rest = { d.rest with hst := { d.hst with fwActive := d.hst.fwNext }, cs := { d.cs with loaded := true } } := by
  have hislands : d.bootIslands.rest = d.rest :=
    Dev.each_keeps Dev.rest [1, 3, 4, 6] (fun i d => d.startIsland i) (fun _ _ => rfl) d
  have htrained : (d.bootIslands.trainPcs p 64).rest = d.bootIslands.rest := Dev.each_keeps Dev.rest _ _ (fun q d => by
    unfold Dev.failTraining
    split
    · rfl
    · split <;> rfl) _
  have hcache : ∀ d : Dev, d.bootCache.rest = d.rest := fun d => by
    unfold Dev.bootCache
    extract_lets marked noAlloc
    have hnoAlloc : noAlloc.rest = marked.rest :=
      Dev.each_keeps Dev.rest _ (fun r d => d.set CCH_REQ_ATTR.ALLOC 0 0 r) (fun _ _ => rfl) _
    have hways := Dev.each_keeps Dev.rest ((List.range 16).filter fun w => bit (noAlloc.get FLT_FENCED_MISC.WAY) w)
      (fun w d => (d.setWay w 2).orBits CCH_WAY_CTRL.OFF (1 <<< w)) (fun _ _ => rfl) noAlloc
    exact hways.trans hnoAlloc
  have hlast : ∀ d : Dev, d.bootLast.rest = { d.rest with
      hst := { d.rest.hst with fwActive := d.rest.hst.fwNext }, cs := { d.rest.cs with loaded := true } } := fun _ => rfl
  unfold Dev.booted
  rw [hlast, hcache, htrained, hislands]
  rfl

/-- What ROM_BOOT leaves of every unit beside memory. -/
theorem Dev.outside_boot (d : Dev) (p : BitVec 64) :
    (d.boot p).outside = { d.outside with hst := { d.hst with fwActive := d.hst.fwNext }, cs := { d.cs with loaded := true } } := by
  have h := congrArg (fun x : Dev => { x with mem := {} }) (Dev.rest_booted d p)
  exact (Dev.outside_setMode _ _).trans h

/-- ROM_BOOT leaves memory alone where the merge buffer is empty. -/
theorem Dev.mem_boot {d : Dev} (h : d.mem.merge = []) (p : BitVec 64) : (d.boot p).mem = d.mem := by
  have hmem : (d.booted p).mem = d.mem := by
    have hr := congrArg Dev.mem (Dev.rest_booted d p)
    exact hr
  rw [Dev.boot_eq, Dev.mem_setMode (hmem ▸ h), hmem]

/-- ROM_BOOT ends in LAST_LOAD, and LAST_LOAD comes from ROM_BOOT. -/
theorem Dev.boot_mode {d : Dev} (h : d.mode = .romBoot) (p : BitVec 64) :
    (d.boot p).mode = .lastLoad ∧ (d.boot p).get SYS_MODE.PREV = 2 ∧ (d.boot p).get SYS_INT_STATUS.MODE_CHANGE = 1 := by
  have hmode : (d.booted p).mode = .romBoot := by
    refine Eq.trans (congrArg Mode.ofCode (Dev.get_of_word ?_)) h
    exact Dev.word_booted d p SYS_MODE 0 0 (by decide) (by decide) (by decide)
  have hshows := Dev.setMode_shows (d := d.booted p) (m := .lastLoad) (by rw [hmode]; decide)
  rw [hmode] at hshows
  exact ⟨Dev.mode_setMode _ _, hshows⟩

/-! ### Islands of ROM_BOOT -/

/-- Islands that are up after one is started. -/
theorem Dev.islandUp_startIsland (d : Dev) (k m : Fin 22) :
    (d.startIsland (k + 1)).islandUp (m + 1) = (d.islandUp (m + 1) || decide (m = k)) := by
  have hen : bit ((d.startIsland (k + 1)).word SYS_ISLAND_EN).toNat m =
      (bit (d.word SYS_ISLAND_EN).toNat m || decide (m.val = k)) := by
    have hword : (d.startIsland (k + 1)).word SYS_ISLAND_EN = d.word SYS_ISLAND_EN ||| (1#32 <<< k.val) :=
      (Dev.word_set_of_key _ _ _ _ _ _ _ _ (by decide)).trans (Dev.word_setWord ..)
    have hshift : 1 <<< k.val < 2 ^ 32 := by
      rw [Nat.one_shiftLeft]
      exact Nat.pow_lt_pow_right (by decide) (by omega)
    rw [hword, BitVec.toNat_or, BitVec.toNat_shiftLeft, show (1#32).toNat = 1 from rfl, Nat.mod_eq_of_lt hshift]
    exact bit_or_shift _ _ _
  have hrun : bit ((d.startIsland (k + 1)).get SYS_ISLAND_STATUS.RUN) m =
      (bit (d.get SYS_ISLAND_STATUS.RUN) m || decide (m.val = k)) := by
    have hget : (d.startIsland (k + 1)).get SYS_ISLAND_STATUS.RUN = (d.get SYS_ISLAND_STATUS.RUN ||| 1 <<< k.val) % 2 ^ 22 := by
      refine (Dev.get_set _ _ _ _ _ (by decide)).trans ?_
      rw [Dev.get_of_word (Dev.word_setWord_of_key _ _ _ _ _ _ (by decide))]
      rfl
    have hm : m.val < 22 := m.isLt
    rw [hget, ← bit_or_shift]
    unfold bit
    rw [Nat.testBit_mod_two_pow]
    simp only [hm, decide_true, Bool.true_and]
  unfold Dev.islandUp
  simp only [Nat.add_sub_cancel, hen, hrun, Fin.ext_iff]
  cases bit (d.word SYS_ISLAND_EN).toNat m <;> cases bit (d.get SYS_ISLAND_STATUS.RUN) m <;> simp

/-- An island that is up stays up where both its registers stay. -/
theorem Dev.islandUp_of_word {d t : Dev} (h : ∀ r, r.key ∈ islandKeys → t.word r = d.word r) (m : Nat) :
    t.islandUp m = d.islandUp m := by
  unfold Dev.islandUp
  rw [h SYS_ISLAND_EN (by decide), Dev.get_of_word (h SYS_ISLAND_STATUS (by decide))]

/-- After ROM_BOOT islands 1, 3, 4 and 6 are up. -/
theorem Dev.islandUp_boot (d : Dev) (p : BitVec 64) : ∀ i ∈ [1, 3, 4, 6], (d.boot p).islandUp i = true := by
  have hstart : ∀ m : Fin 22, d.bootIslands.islandUp (m + 1) =
      ((((d.islandUp (m + 1) || decide (m = 0)) || decide (m = 2)) || decide (m = 3)) || decide (m = 5)) := fun m =>
    have hor {a b : Bool} (c : Bool) (h : a = b) : (a || c) = (b || c) := congrArg (· || c) h
    (Dev.islandUp_startIsland _ 5 m).trans (hor _ ((Dev.islandUp_startIsland _ 3 m).trans (hor _
      ((Dev.islandUp_startIsland _ 2 m).trans (hor _ (Dev.islandUp_startIsland d 0 m))))))
  have hkeep : ∀ i, (d.boot p).islandUp i = d.bootIslands.islandUp i := Dev.islandUp_of_word fun r hr => by
    have hr : r.key = SYS_ISLAND_EN.key ∨ r.key = SYS_ISLAND_STATUS.key := by simpa [islandKeys] using hr
    have htrain : r.key ∉ trainKeys := by rcases hr with e | e <;> (rw [e]; decide)
    have hboot : r.key ∉ bootKeys := by rcases hr with e | e <;> (rw [e]; decide)
    have hmode : r.key ∉ modeKeys := by rcases hr with e | e <;> (rw [e]; decide)
    have hsec : SEC_STATUS.key ≠ r.key := by rcases hr with e | e <;> (rw [e]; decide)
    exact (Dev.word_setMode _ _ _ _ _ hmode).trans ((Dev.word_set_of_key _ _ _ _ _ _ _ _ hsec).trans
      ((Dev.word_bootCache _ _ _ _ hboot).trans (Dev.word_trainPcs _ _ _ _ _ _ htrain)))
  intro i hi
  rw [hkeep]
  simp only [List.mem_cons, List.not_mem_nil, or_false] at hi
  rcases hi with rfl | rfl | rfl | rfl
  · exact (hstart 0).trans (by simp)
  · exact (hstart 2).trans (by simp)
  · exact (hstart 3).trans (by simp)
  · exact (hstart 5).trans (by simp)

/-! ### Fences of ROM_BOOT (R466) -/

/-- The fence of a pseudo-channel is kept where its register is. -/
theorem Dev.pcFenced_of_word {d t : Dev} (q : Nat) (h : t.word MEM_PC_FENCE 0 (q / 32) = d.word MEM_PC_FENCE 0 (q / 32)) :
    t.pcFenced q = d.pcFenced q :=
  congrArg (fun n => bit n (q % 32)) (Dev.get_of_word h)

/-- A pseudo-channel that fails training is fenced, the others are as they were. -/
theorem Dev.pcFenced_failTraining (d : Dev) (n q : Nat) :
    (d.failTraining n).pcFenced q = (d.pcFenced q || decide (q = n)) := by
  unfold Dev.failTraining
  by_cases h : d.pcFenced n = true
  · rw [if_pos h]
    by_cases e : q = n
    · simp [e, h]
    · simp [e]
  rw [if_neg h]
  refine (Dev.pcFenced_of_word q (Dev.word_raise_of_key _ _ _ _ _ _ _ (by decide))).trans ?_
  unfold Dev.orBits
  by_cases e : q / 32 = n / 32
  · have hget : ∀ m : Nat, (d.set MEM_PC_FENCE.FENCED m 0 (n / 32)).get MEM_PC_FENCE.FENCED 0 (n / 32) = m % 2 ^ 32 :=
      fun m => Dev.get_set _ _ _ _ _ (by decide)
    have hm : q % 32 < 32 := Nat.mod_lt _ (by decide)
    unfold Dev.pcFenced
    rw [e, hget]
    have hbit : bit ((d.get MEM_PC_FENCE.FENCED 0 (n / 32) ||| 1 <<< (n % 32)) % 2 ^ 32) (q % 32) =
        bit (d.get MEM_PC_FENCE.FENCED 0 (n / 32) ||| 1 <<< (n % 32)) (q % 32) := by
      unfold bit
      rw [Nat.testBit_mod_two_pow]
      simp [hm]
    rw [hbit, bit_or_shift]
    congr 2
    exact propext (by omega)
  · have hne : q ≠ n := fun h => e (by rw [h])
    rw [decide_eq_false hne, Bool.or_false]
    exact Dev.pcFenced_of_word q (Dev.word_set_of_ne _ _ _ _ _ _ _ _ (RKey.ne_of_j (Ne.symm e)))

/-- The first n pseudo-channels trained: those that fail are fenced. -/
theorem Dev.pcFenced_trainPcs (d : Dev) (p : BitVec 64) (n q : Nat) :
    (d.trainPcs p n).pcFenced q = (d.pcFenced q || (decide (q < n) && !p.getLsbD q)) := by
  induction n with
  | zero =>
    rw [decide_eq_false (by omega), Bool.false_and, Bool.or_false]
    rfl
  | succ n ih =>
    have hstep : d.trainPcs p (n + 1) = if p.getLsbD n then d.trainPcs p n else (d.trainPcs p n).failTraining n := by
      unfold Dev.trainPcs Dev.each
      rw [List.range_succ, List.foldl_append]
      rfl
    rw [hstep]
    split
    next h =>
      rw [ih]
      by_cases e : q = n
      · simp [e, h]
      · simp [show (q < n + 1) ↔ q < n by omega]
    next h =>
      rw [Dev.pcFenced_failTraining, ih, Bool.or_assoc]
      by_cases e : q = n
      · simp [e, h]
      · simp [e, show (q < n + 1) ↔ q < n by omega]

/-- After ROM_BOOT the pseudo-channels that failed training are fenced beside those that were. -/
theorem Dev.pcFenced_boot (d : Dev) (p : BitVec 64) {q : Nat} (hq : q < 64) :
    (d.boot p).pcFenced q = (d.pcFenced q || !p.getLsbD q) := by
  have hlast : (d.boot p).pcFenced q = (d.bootIslands.trainPcs p 64).pcFenced q :=
    Dev.pcFenced_of_word q ((Dev.word_setMode _ _ _ _ _ (by decide)).trans
      ((Dev.word_set_of_key _ _ _ _ _ _ _ _ (by decide)).trans (Dev.word_bootCache _ _ _ _ (by decide))))
  have hfirst : d.bootIslands.pcFenced q = d.pcFenced q := Dev.pcFenced_of_word q (Dev.word_bootIslands _ _ _ _ (by decide))
  rw [hlast, Dev.pcFenced_trainPcs, hfirst, decide_eq_true hq, Bool.true_and]

end Sys2Proof.Machine
end

section
/-! SUPPORT. What a warm reset leaves (R580). -/
namespace Sys2Proof.Machine

/-! ### The register file -/

/-- A word after a warm reset: the kept bits over the reset word. -/
def Reg.warmWord (r : Reg) (j : Nat) (w : Word) : Word := (r.reset j &&& ~~~r.warmMask) ||| (w &&& r.warmMask)

theorem Reg.warmWord_reset (r : Reg) (j : Nat) : r.warmWord j (r.reset j) = r.reset j := by
  unfold Reg.warmWord
  rw [← BitVec.and_or_distrib_left, BitVec.or_comm, BitVec.or_not_self, BitVec.and_allOnes]

/-- The entry that a warm reset leaves of an entry whose register is known. -/
theorem warmRegs_cons {k : RKey} {w : Word} {r : Reg} (t : RegFile) (h : regByKey k.key = some r) :
    warmRegs ((k, w) :: t) = if r.warmWord k.j w = r.reset k.j then warmRegs t else (k, r.warmWord k.j w) :: warmRegs t := by
  unfold warmRegs
  rw [List.filterMap_cons]
  simp only [h]
  unfold Reg.warmWord
  split <;> simp_all

/-- A warm reset drops an entry or leaves it under its key. -/
theorem warmRegs_cons_or (k : RKey) (w : Word) (t : RegFile) :
    warmRegs ((k, w) :: t) = warmRegs t ∨ ∃ w', warmRegs ((k, w) :: t) = (k, w') :: warmRegs t := by
  cases h : regByKey k.key with
  | none =>
    left
    unfold warmRegs
    rw [List.filterMap_cons]
    simp only [h]
  | some r =>
    rw [warmRegs_cons t h]
    split
    · exact .inl rfl
    · exact .inr ⟨_, rfl⟩

/-- What a warm reset leaves stands under keys that were there. -/
theorem mem_warmRegs {l : RegFile} {p : RKey × Word} (h : p ∈ warmRegs l) : ∃ q ∈ l, q.1 = p.1 := by
  induction l with
  | nil => cases h
  | cons a t ih =>
    obtain ⟨k, w⟩ := a
    have htail (h : p ∈ warmRegs t) : ∃ q ∈ (k, w) :: t, q.1 = p.1 :=
      let ⟨q, hq, he⟩ := ih h
      ⟨q, List.mem_cons_of_mem _ hq, he⟩
    rcases warmRegs_cons_or k w t with e | ⟨w', e⟩
    · exact htail (e ▸ h)
    · rw [e] at h
      rcases List.mem_cons.mp h with rfl | h
      · exact ⟨_, List.mem_cons_self .., rfl⟩
      · exact htail h

theorem RegFile.find_cons_self (k : RKey) (w : Word) (t : RegFile) : RegFile.find ((k, w) :: t) k = some w := if_pos rfl

theorem RegFile.find_cons_of_ne {k k' : RKey} (h : k ≠ k') (w : Word) (t : RegFile) :
    RegFile.find ((k, w) :: t) k' = RegFile.find t k' := if_neg h

theorem RegFile.find_none {l : RegFile} {k : RKey} (h : ∀ p ∈ l, p.1 ≠ k) : RegFile.find l k = none := by
  induction l with
  | nil => rfl
  | cons p t ih =>
    rw [RegFile.find_cons_of_ne (h p (List.mem_cons_self ..))]
    exact ih fun q hq => h q (List.mem_cons_of_mem _ hq)

/-- A known register after a warm reset. -/
theorem find_warmRegs {l : RegFile} (hl : l.rising = true) {r : Reg} (h : regByKey r.key = some r) (i j : Nat) :
    (RegFile.find (warmRegs l) ⟨r.key, i, j⟩).getD (r.reset j) =
      r.warmWord j ((RegFile.find l ⟨r.key, i, j⟩).getD (r.reset j)) := by
  induction l with
  | nil => exact (r.warmWord_reset j).symm
  | cons p t ih =>
    obtain ⟨k, w⟩ := p
    by_cases e : k = ⟨r.key, i, j⟩
    · subst e
      have hrest : RegFile.find (warmRegs t) ⟨r.key, i, j⟩ = none := RegFile.find_none fun p hp hk => by
        obtain ⟨q, hq, he⟩ := mem_warmRegs hp
        have hlt := RegFile.lt_of_mem hl hq
        rw [he, hk, RKey.lt_irrefl] at hlt
        cases hlt
      rw [warmRegs_cons t h, RegFile.find_cons_self]
      by_cases hw : r.warmWord j w = r.reset j
      · rw [if_pos hw, hrest]
        exact hw.symm
      · rw [if_neg hw, RegFile.find_cons_self]
        rfl
    · have hskip : RegFile.find (warmRegs ((k, w) :: t)) ⟨r.key, i, j⟩ = RegFile.find (warmRegs t) ⟨r.key, i, j⟩ := by
        rcases warmRegs_cons_or k w t with hc | ⟨w', hc⟩
        · rw [hc]
        · rw [hc, RegFile.find_cons_of_ne e]
      rw [hskip, ih (RegFile.rising_tail hl), RegFile.find_cons_of_ne e]

/-- A register after a warm reset holds its kept bits over its reset word. -/
theorem Dev.word_warm {d : Dev} (hd : d.regs.rising = true) {r : Reg} (h : regByKey r.key = some r) (i j : Nat) :
    d.warm.word r i j = r.warmWord j (d.word r i j) := find_warmRegs hd h i j

/-- A field whose bits are kept. -/
theorem Fld.of_warmWord_kept (f : Fld) (j : Nat) (w : Word) (h : ∀ k < f.width, f.reg.warmMask.getLsbD (f.lo + k) = true) :
    f.of (f.reg.warmWord j w) = f.of w := by
  unfold Fld.of Reg.warmWord
  congr 1
  apply BitVec.eq_of_getLsbD_eq
  intro k hk
  simp [h k hk]

/-- A field whose bits are reset. -/
theorem Fld.of_warmWord_lost (f : Fld) (j : Nat) (w : Word) (hw : f.lo + f.width ≤ 32)
    (h : ∀ k < f.width, f.reg.warmMask.getLsbD (f.lo + k) = false) : f.of (f.reg.warmWord j w) = f.of (f.reg.reset j) := by
  unfold Fld.of Reg.warmWord
  congr 1
  apply BitVec.eq_of_getLsbD_eq
  intro k hk
  simp only [BitVec.getLsbD_extractLsb', BitVec.getLsbD_or, BitVec.getLsbD_and, BitVec.getLsbD_not, h k hk]
  have hlt : f.lo + k < 32 := by omega
  simp [hlt]

/-- A register that is kept whole. -/
theorem Reg.warmWord_whole {r : Reg} (h : r.warmMask = BitVec.allOnes 32) (j : Nat) (w : Word) : r.warmWord j w = w := by
  unfold Reg.warmWord
  rw [h, BitVec.not_allOnes, BitVec.and_zero, BitVec.zero_or, BitVec.and_allOnes]

/-! ### The device -/

/-- The registers that a warm reset keeps whole. -/
theorem Dev.word_warm_whole {d : Dev} (hd : d.regs.rising = true) {r : Reg} (h : r ∈ keptWhole) (i j : Nat) :
    d.warm.word r i j = d.word r i j := by
  have hr : ∀ r ∈ keptWhole, regByKey r.key = some r ∧ r.warmMask = BitVec.allOnes 32 := by
    intro r h
    simp only [keptWhole, List.mem_cons, List.not_mem_nil, or_false] at h
    rcases h with rfl | rfl | rfl | rfl | rfl | rfl | rfl | rfl | rfl | rfl <;> exact ⟨rfl, rfl⟩
  rw [Dev.word_warm hd (hr r h).1, Reg.warmWord_whole (hr r h).2]

/-- A field that a warm reset keeps. -/
theorem Dev.get_warm_kept {d : Dev} (hd : d.regs.rising = true) {f : Fld} (h : regByKey f.reg.key = some f.reg)
    (hk : ∀ k < f.width, f.reg.warmMask.getLsbD (f.lo + k) = true) (i j : Nat) : d.warm.get f i j = d.get f i j :=
  (congrArg f.of (Dev.word_warm hd h i j)).trans (f.of_warmWord_kept j _ hk)

/-- A field that a warm reset resets. -/
theorem Dev.get_warm_lost {d : Dev} (hd : d.regs.rising = true) {f : Fld} (h : regByKey f.reg.key = some f.reg)
    (hw : f.lo + f.width ≤ 32) (hk : ∀ k < f.width, f.reg.warmMask.getLsbD (f.lo + k) = false) (i j : Nat) :
    d.warm.get f i j = f.of (f.reg.reset j) :=
  (congrArg f.of (Dev.word_warm hd h i j)).trans (f.of_warmWord_lost j _ hw hk)

/-- A warm reset ends in ROM_BOOT, from which it goes on. -/
theorem Dev.mode_warm {d : Dev} (hd : d.regs.rising = true) : d.warm.mode = .romBoot :=
  Dev.mode_of_code (Dev.get_warm_lost hd (f := SYS_MODE.MODE) rfl (by decide) (by decide) 0 0)

/-- The registers kept whole after a warm reset and its ROM_BOOT. -/
theorem Dev.word_warm_boot {d : Dev} (hd : d.regs.rising = true) (p : BitVec 64) : ∀ r ∈ [FLT_FENCED_LANE, FLT_FENCED_MISC,
    FLT_FENCED_SHU_LO, FLT_FENCED_SHU_HI, FLT_FENCED_FN_LO, FLT_FENCED_FN_HI, HST_LINK],
    (d.warm.boot p).word r = d.word r := by
  intro r hr
  have hkept : r ∈ keptWhole := by
    simp only [List.mem_cons, List.not_mem_nil, or_false] at hr
    simp only [keptWhole, List.mem_cons, List.not_mem_nil, or_false]
    tauto
  have hquiet : r.key ∉ wakeKeys := by
    simp only [List.mem_cons, List.not_mem_nil, or_false] at hr
    rcases hr with rfl | rfl | rfl | rfl | rfl | rfl | rfl <;> decide
  exact (Dev.word_boot _ _ _ 0 0 hquiet).trans (Dev.word_warm_whole hd hkept 0 0)

/-- FLT_SITE_CFG.UC_CNT resets to 0 at every site. -/
theorem siteCfg_uc_reset (x : Nat) : FLT_SITE_CFG.UC_CNT.of (FLT_SITE_CFG.reset x) = 0 := by
  have hreset : siteCfgReset x = 0x100 ∨ siteCfgReset x = 0x101 := by
    unfold siteCfgReset siteAction
    split_ifs <;> simp
  show FLT_SITE_CFG.UC_CNT.of (BitVec.ofNat 32 (siteCfgReset x)) = 0
  rcases hreset with e | e <;> (rw [e]; decide)

/-- The fields that a warm reset and its ROM_BOOT keep or reset. -/
theorem Dev.fields_warm_boot {d : Dev} (hd : d.regs.rising = true) (p : BitVec 64) :
    (∀ x, x < 512 → (d.warm.boot p).get FLT_SITE_CFG.FA_CNT 0 x = d.get FLT_SITE_CFG.FA_CNT 0 x ∧
      (d.warm.boot p).get FLT_SITE_CFG.UC_CNT 0 x = 0) ∧ (d.warm.boot p).get FLT_FA0.VALID = d.get FLT_FA0.VALID ∧
    (d.warm.boot p).get LST_LOCK.LOCK = 0 ∧ ∀ f : Fn, (d.warm.boot p).get HST_FN_STATUS.CC_EN 0 f = 0 ∧
      (d.warm.boot p).get HST_FN_STATUS.FENCED 0 f = d.get HST_FN_STATUS.FENCED 0 f := by
  have hboot (f : Fld) (j : Nat) (h : f.reg.key ∉ wakeKeys) : (d.warm.boot p).get f 0 j = d.warm.get f 0 j :=
    Dev.get_of_word (Dev.word_boot _ _ _ 0 j h)
  refine ⟨fun x hx => ⟨?_, ?_⟩, ?_, ?_, fun f => ⟨?_, ?_⟩⟩
  · exact (hboot FLT_SITE_CFG.FA_CNT x (by decide)).trans (Dev.get_warm_kept hd rfl (by decide) 0 x)
  · have hlost := Dev.get_warm_lost hd (f := FLT_SITE_CFG.UC_CNT) rfl (by decide) (by decide) 0 x
    exact (hboot _ x (by decide)).trans (hlost.trans (siteCfg_uc_reset x))
  · exact (hboot FLT_FA0.VALID 0 (by decide)).trans (Dev.get_warm_kept hd rfl (by decide) 0 0)
  · exact (hboot LST_LOCK.LOCK 0 (by decide)).trans (Dev.get_warm_lost hd (f := LST_LOCK.LOCK) rfl (by decide) (by decide) 0 0)
  · have hlost := Dev.get_warm_lost hd (f := HST_FN_STATUS.CC_EN) rfl (by decide) (by decide) 0 f
    exact (hboot _ f (by decide)).trans (hlost.trans (show HST_FN_STATUS.CC_EN.of (BitVec.ofNat 32 0) = 0 by decide))
  · exact (hboot HST_FN_STATUS.FENCED f (by decide)).trans (Dev.get_warm_kept hd rfl (by decide) 0 f)

/-- After a warm reset and its ROM_BOOT the fences of the keystone words stand. -/
theorem Dev.ksFenced_warm_boot {d : Dev} (hd : d.regs.rising = true) (p : BitVec 64) (k : Fin 64) :
    (d.warm.boot p).ksFenced k = d.ksFenced k := by
  have hword (r : Reg) (hk : r ∈ keptWhole) (hw : r.key ∉ wakeKeys) : (d.warm.boot p).word r = d.word r :=
    (Dev.word_boot _ _ _ 0 0 hw).trans (Dev.word_warm_whole hd hk 0 0)
  have hlo : (d.warm.boot p).get MEM_KS_FENCE_LO.FENCED = d.get MEM_KS_FENCE_LO.FENCED :=
    Dev.get_of_word (hword MEM_KS_FENCE_LO (by simp [keptWhole]) (by decide))
  have hhi : (d.warm.boot p).get MEM_KS_FENCE_HI.FENCED = d.get MEM_KS_FENCE_HI.FENCED :=
    Dev.get_of_word (hword MEM_KS_FENCE_HI (by simp [keptWhole]) (by decide))
  unfold Dev.ksFenced
  rw [hlo, hhi]

/-- Memory after a warm reset and its ROM_BOOT: the keystone words that are fenced. -/
theorem Dev.mem_warm_boot (d : Dev) (p : BitVec 64) : (d.warm.boot p).mem = { ks := d.warmKs } := Dev.mem_boot rfl p

/-- The fenced keystone words keep their copies. -/
theorem Dev.warmKs_fenced (d : Dev) (k : Fin 64) (h : d.ksFenced k = true) : d.warmKs[k] = d.mem.ks[k] := by
  show (Vector.ofFn fun k => if d.ksFenced k then d.mem.ks[k] else {})[k.val] = _
  rw [Vector.getElem_ofFn]
  exact if_pos h

/-- The units beside registers and memory after a warm reset and its ROM_BOOT. -/
theorem Dev.units_warm_boot (d : Dev) (p : BitVec 64) :
    let t := d.warm.boot p
    t.que = {} ∧ t.seq.prep = 0 ∧ t.seq.turning = decide (d.get SPN_SPEED.SPEED ≠ 0) ∧ t.media = d.media ∧ t.flash = d.flash ∧
      t.hst.cqes = d.hst.cqes ∧ t.flt.requesters = d.flt.requesters ∧ ∀ f : Fn, t.hst.fns[f].session = none := by
  have hout : (d.warm.boot p).outside = { d.warm.outside with
      hst := { d.warm.hst with fwActive := d.warm.hst.fwNext }, cs := { d.warm.cs with loaded := true } } := Dev.outside_boot _ _
  have hturn : (d.warm.boot p).seq.turning = (d.get SPN_SPEED.SPEED != 0) := congrArg (·.seq.turning) hout
  refine ⟨congrArg Dev.que hout, congrArg (·.seq.prep) hout, hturn.trans (Bool.eq_iff_iff.mpr (by simp)),
    (congrArg Dev.media hout :), (congrArg Dev.flash hout :), (congrArg (·.hst.cqes) hout :), (congrArg (·.flt.requesters) hout :), fun f => ?_⟩
  refine (congrArg (·.hst.fns[f].session) hout).trans ?_
  show FnSt.session (Vector.map _ d.hst.fns)[f.val] = none
  rw [Vector.getElem_map]

end Sys2Proof.Machine
end

section
/-! SUPPORT. The commands of a reset (R579 to R581, R596): what each leaves, clause by clause. -/
namespace Sys2Proof.Machine

/-! ### Cold reset and its release -/

/-- A fresh state: no command waits, ROM_BOOT, every register at its reset word. -/
theorem reset_leaves : State.reset.pending = [] ∧ State.reset.dev.mode = .romBoot ∧
    ∀ r i j, State.reset.dev.word r i j = r.reset j := ⟨rfl, rfl, fun _ _ _ => rfl⟩

/-- The release of a cold reset, before ROM_BOOT. -/
def Dev.wake (d : Dev) : Dev := d.when (d.mode == .off) (·.set SYS_MODE.MODE Mode.romBoot.code)

theorem Dev.mode_wake {d : Dev} (h : d.mode = .off ∨ d.mode = .romBoot) : d.wake.mode = .romBoot := by
  unfold Dev.wake Dev.when
  rcases h with h | h <;> rw [h]
  · exact Dev.mode_of_code (Dev.get_set _ _ _ _ _ (by decide))
  · exact h

theorem execColdResetRelease_wakes (p : BitVec 64) {s : State} (h : s.dev.mode = .off ∨ s.dev.mode = .romBoot)
    {P : Dev → Prop} (hP : P (s.dev.wake.boot p)) : Completes (.coldResetRelease p) s P := by
  refine completes_of_run rfl ?_
  have hin : s.dev.inMode [.off, .romBoot] = true := by
    unfold Dev.inMode
    rcases h with h | h <;> rw [h] <;> rfl
  rw [if_pos hin]
  exact hP

/-- COLD_RESET_RELEASE boots. -/
theorem coldResetRelease_boots (s : State) (p : BitVec 64) (h : s.dev.mode = .off ∨ s.dev.mode = .romBoot) :
    Completes (.coldResetRelease p) s fun t =>
      t.mode = .lastLoad ∧ t.get SYS_MODE.PREV = 2 ∧ t.get SYS_INT_STATUS.MODE_CHANGE = 1 ∧
      t.get SEC_STATUS.ENTROPY_OK = 1 ∧ t.cs.loaded = true ∧ (∀ i ∈ [1, 3, 4, 6], t.islandUp i = true) ∧
      ∀ q, q < 64 → t.pcFenced q = (s.dev.pcFenced q || !p.getLsbD q) := by
  refine execColdResetRelease_wakes p h ?_
  obtain ⟨hmode, hprev, hchange⟩ := Dev.boot_mode (Dev.mode_wake h) p
  have hentropy : (s.dev.wake.boot p).get SEC_STATUS.ENTROPY_OK = 1 :=
    (Dev.get_of_word (Dev.word_setMode _ _ _ _ _ (by decide))).trans (Dev.get_set _ _ _ _ _ (by decide))
  have hwake (q : Nat) : s.dev.wake.pcFenced q = s.dev.pcFenced q :=
    Dev.pcFenced_of_word q (Dev.word_when _ _ _ _ _ _ (Dev.word_set_of_key _ _ _ _ _ _ _ _ (by decide)))
  refine ⟨hmode, hprev, hchange, hentropy, congrArg (·.cs.loaded) (Dev.outside_boot _ _),
    Dev.islandUp_boot _ _, fun q hq => ?_⟩
  rw [Dev.pcFenced_boot _ _ hq, hwake]

/-! ### Warm reset -/

/-- A spin-down or a warm reset waits while the media queues and the held portion are not drained. -/
theorem Dev.spinAdvance_waits {d : Dev} (h : d.drained = false) : d.spinAdvance = d := by
  unfold Dev.spinAdvance
  simp only [h, Bool.and_false, Bool.false_eq_true, if_false]

/-- Held data is waited for outside SAFE while a group can write it. -/
theorem Dev.drained_of_held {d : Dev} (hheld : d.que.held ≠ []) (hmode : d.mode ≠ .safe) (hpark : d.allParked = false) :
    d.drained = false := by
  unfold Dev.drained Dev.heldEmpty
  simp [hheld, hmode, hpark]

theorem Dev.allParked_of_word {d t : Dev} (h : ∀ g : Grp, t.word SRV_STATUS g = d.word SRV_STATUS g) :
    t.allParked = d.allParked := by
  have hstate : ∀ g, t.srvState g = d.srvState g := fun g => Dev.get_of_word (h g)
  unfold Dev.allParked
  simp only [hstate]

theorem Dev.seq_endSnaps (d : Dev) (who : Who) (a : Nat) : (d.endSnaps who a).seq = d.seq ∧ (d.endSnaps who a).que = d.que := by
  unfold Dev.endSnaps
  split <;> exact ⟨rfl, rfl⟩

/-- The preparation of a warm reset begins where none runs. -/
def Dev.prepare (d : Dev) : Dev :=
  if d.seq.prep = 0 then (d.onSeq fun s => { s with prep := 1 }).spinAdvance else d

theorem Dev.prepare_begins {d : Dev} (hprep : d.seq.prep = 0) (hmode : d.mode = .active) (hheld : d.que.held ≠ [])
    (hpark : d.allParked = false) : d.prepare = d.onSeq fun s => { s with prep := 1 } := by
  have hactive : (d.onSeq fun s => { s with prep := 1 }).mode ≠ .safe := by
    show d.mode ≠ .safe
    rw [hmode]
    decide
  unfold Dev.prepare
  rw [if_pos hprep]
  exact Dev.spinAdvance_waits (Dev.drained_of_held hheld hactive hpark)

/-- The write of a warm reset's request, before the preparation. -/
def Dev.requested (d : Dev) (who : Who) (v : Word) : Dev :=
  (d.endSnaps who SYS_RESET_CMD.at).plainWrite who SYS_RESET_CMD 0 0 (withField v 31 1 1)

theorem Dev.word_requested (d : Dev) (who : Who) (v : Word) (r : Reg) (i : Nat) (h : SYS_RESET_CMD.key ≠ r.key) :
    (d.requested who v).word r i = d.word r i := by
  unfold Dev.requested
  rw [Dev.plainWrite_unlocked (by decide), Dev.word_setWord_of_key _ _ _ _ _ _ h, Dev.word_endSnaps]

theorem Dev.units_requested (d : Dev) (who : Who) (v : Word) :
    (d.requested who v).seq = d.seq ∧ (d.requested who v).que = d.que := by
  unfold Dev.requested
  rw [Dev.plainWrite_unlocked (by decide)]
  exact Dev.seq_endSnaps d who _

/-- The request of a warm reset, where what it waits for is not there yet. -/
theorem warmResetRequest_prepares (s : State) (who : Who) (v : Word) (ht : s.dev.takes who SYS_RESET_CMD.at = true)
    (hprep : s.dev.seq.prep = 0) (hmode : s.dev.mode = .active) (hheld : s.dev.que.held ≠ [])
    (hpark : s.dev.allParked = false) : Completes (.warmResetRequest who v) s fun t =>
      t.seq.prep = 1 ∧ t.mode = .active ∧ t.que = s.dev.que := by
  have hwho : who ≠ .bar2 := by
    rintro rfl
    have hnone : bar2Rank SYS_RESET_CMD.at true = none := by rfl
    simp [Dev.takes, Dev.refusal, hnone] at ht
  obtain ⟨hseq, hque⟩ := Dev.units_requested s.dev who v
  have hmode' : (s.dev.requested who v).mode = .active :=
    (congrArg Mode.ofCode (Dev.get_of_word (Dev.word_requested _ _ _ SYS_MODE 0 (by decide)))).trans hmode
  have hpark' : (s.dev.requested who v).allParked = false :=
    (Dev.allParked_of_word fun g => Dev.word_requested _ _ _ SRV_STATUS g (by decide)).trans hpark
  have hbegins := Dev.prepare_begins (hseq ▸ hprep) hmode' (hque ▸ hheld) hpark'
  refine completes_of_run rfl ?_
  rw [Dev.busWrite_takes _ _ _ _ ht hwho]
  show (s.dev.requested who v).prepare.seq.prep = 1 ∧ (s.dev.requested who v).prepare.mode = .active ∧
    (s.dev.requested who v).prepare.que = s.dev.que
  rw [hbegins]
  exact ⟨rfl, hmode', hque⟩

theorem execWarmReset_boots {s : State} (h : s.dev.seq.prep = 5) {P : Dev → Prop}
    (hP : P (s.dev.warm.boot (BitVec.allOnes 64))) : Completes .warmReset s P :=
  completes_of_run rfl (by rw [if_pos h]; exact hP)

/-- WARM_RESET resets and boots. -/
theorem warmReset_boots (s : State) (hprep : s.dev.seq.prep = 5) (hr : s.dev.regs.rising = true) : Completes .warmReset s fun t =>
    t.mode = .lastLoad ∧ t.get SYS_MODE.PREV = 2 ∧ t.que = {} ∧ t.mem.hbm = [] ∧ t.seq.prep = 0 ∧
    t.seq.turning = decide (s.dev.get SPN_SPEED.SPEED ≠ 0) ∧ t.media = s.dev.media ∧ t.flash = s.dev.flash ∧
    t.hst.cqes = s.dev.hst.cqes ∧ (∀ q, q < 64 → t.pcFenced q = s.dev.pcFenced q) ∧
    (∀ k, t.ksFenced k = s.dev.ksFenced k ∧ (s.dev.ksFenced k = true → t.mem.ks[k] = s.dev.mem.ks[k])) ∧
    (∀ r ∈ [FLT_FENCED_LANE, FLT_FENCED_MISC, FLT_FENCED_SHU_LO, FLT_FENCED_SHU_HI, FLT_FENCED_FN_LO, FLT_FENCED_FN_HI,
      HST_LINK], t.word r = s.dev.word r) ∧ t.flt.requesters = s.dev.flt.requesters ∧
    (∀ x, x < 512 → t.get FLT_SITE_CFG.FA_CNT 0 x = s.dev.get FLT_SITE_CFG.FA_CNT 0 x ∧
      t.get FLT_SITE_CFG.UC_CNT 0 x = 0) ∧ t.get FLT_FA0.VALID = s.dev.get FLT_FA0.VALID ∧ t.get LST_LOCK.LOCK = 0 ∧
    ∀ f : Fn, t.get HST_FN_STATUS.CC_EN 0 f = 0 ∧ t.get HST_FN_STATUS.FENCED 0 f = s.dev.get HST_FN_STATUS.FENCED 0 f ∧
      t.hst.fns[f].session = none := by
  refine execWarmReset_boots hprep ?_
  have hall : ∀ q, q < 64 → (BitVec.allOnes 64).getLsbD q = true := fun q hq => BitVec.getLsbD_allOnes.trans (decide_eq_true hq)
  generalize BitVec.allOnes 64 = p at hall ⊢
  obtain ⟨hmode, hprev, -⟩ := Dev.boot_mode (Dev.mode_warm hr) p
  obtain ⟨hque, hprep, hturn, hmedia, hflash, hcqes, hreq, hsession⟩ := Dev.units_warm_boot s.dev p
  obtain ⟨hsites, hfa, hlock, hfns⟩ := Dev.fields_warm_boot hr p
  have hmem := Dev.mem_warm_boot s.dev p
  have hpc (q : Nat) (hq : q < 64) : (s.dev.warm.boot p).pcFenced q = s.dev.pcFenced q := by
    rw [Dev.pcFenced_boot _ _ hq, hall q hq]
    exact (Bool.or_false _).trans (Dev.pcFenced_of_word q (Dev.word_warm_whole hr (r := MEM_PC_FENCE) (by simp [keptWhole]) _ _))
  refine ⟨hmode, hprev, hque, by rw [hmem], hprep, hturn, hmedia, hflash, hcqes, hpc, fun k => ⟨Dev.ksFenced_warm_boot hr p k,
    fun h => by rw [hmem]; exact Dev.warmKs_fenced _ _ h⟩,
    Dev.word_warm_boot hr p, hreq, hsites, hfa, hlock, fun f => ⟨(hfns f).1, (hfns f).2, hsession f⟩⟩

end Sys2Proof.Machine
end

section
/-! SUPPORT. How LAST_LOAD ends (R594, R596 step 7, R605). -/
namespace Sys2Proof.Machine

/-! ### The mode after LAST_LOAD -/

/-- An observation that entering SAFE, SPIN_UP or STANDBY and issuing a start keep. -/
structure Dev.Steady {β : Type} (φ : Dev → β) : Prop where
  mode : ∀ (d : Dev) m, φ (d.setMode m) = φ d
  cause : ∀ (d : Dev) c, φ (d.set SYS_MODE.SAFE_CAUSE c) = φ d
  safe : ∀ d : Dev, φ (d.raise SYS_INT_STATUS.SAFE) = φ d
  spindle : ∀ (d : Dev) (f : Fld) v, f.reg ∈ [SPN_TARGET, SPN_CMD] → φ (d.set f v) = φ d
  spn : ∀ (d : Dev) g, φ (d.onSpn g) = φ d
  seq : ∀ (d : Dev) g, (∀ s, (g s).loaded = s.loaded) → φ (d.onSeq g) = φ d

/-- Issuing a start writes the target, the command and the spindle's state. -/
theorem Dev.issueStart_keeps {β : Type} (φ : Dev → β)
    (hset : ∀ (d : Dev) (f : Fld) v, f.reg ∈ [SPN_TARGET, SPN_CMD] → φ (d.set f v) = φ d)
    (hspn : ∀ (d : Dev) g, φ (d.onSpn g) = φ d) (d : Dev) : φ d.issueStart = φ d := by
  have htarget : ∀ (d : Dev) v, φ (d.set SPN_TARGET.TARGET v) = φ d := fun d v => hset d _ v (by simp [SPN_TARGET.TARGET])
  have hissue : ∀ (d : Dev) op, φ (d.spnIssue op) = φ d := fun d op =>
    (hset _ _ _ (by simp [SPN_CMD.GO])).trans (hset _ _ _ (by simp [SPN_CMD.OP]))
  unfold Dev.issueStart
  extract_lets aimed regen
  split
  · exact (hspn _ _).trans (htarget _ _)
  · exact (hissue _ _).trans ((hspn _ _).trans (htarget _ _))

section
variable {β : Type} {φ : Dev → β} (h : Dev.Steady φ)
include h

theorem Dev.Steady.issueStart (d : Dev) : φ d.issueStart = φ d := Dev.issueStart_keeps φ h.spindle h.spn d

theorem Dev.Steady.startInSafe (d : Dev) : φ d.startInSafe = φ d := by
  unfold Dev.startInSafe
  rw [h.issueStart, h.seq]
  exact fun _ => rfl

theorem Dev.Steady.enterSafe (d : Dev) (c : Nat) : φ (d.enterSafe c) = φ d := by
  unfold Dev.enterSafe
  extract_lets entered
  have hentered : φ entered = φ d := by
    rw [h.seq, h.cause, h.mode]
    exact fun _ => rfl
  exact (Dev.when_keeps φ _ (·.raise SYS_INT_STATUS.SAFE) (h.safe _)).trans hentered

theorem Dev.Steady.enterSpinUp (d : Dev) : φ d.enterSpinUp = φ d := by
  unfold Dev.enterSpinUp
  rw [h.issueStart, h.seq, h.mode]
  exact fun _ => rfl

theorem Dev.Steady.afterLoad (d : Dev) (cause : Option Nat) : φ (d.afterLoad cause) = φ d := by
  unfold Dev.afterLoad
  extract_lets up entered
  rw [h.seq _ _ (by exact fun _ => rfl)]
  cases cause with
  | none =>
    show φ (if up then d.enterSpinUp else d.setMode .standby) = φ d
    split
    · exact h.enterSpinUp d
    · exact h.mode _ _
  | some c =>
    show φ (if (up && (d.enterSafe c).safeReads) then (d.enterSafe c).startInSafe else d.enterSafe c) = φ d
    split
    · exact (h.startInSafe _).trans (h.enterSafe _ _)
    · exact h.enterSafe _ _
end

/-- The registers that entering SAFE, SPIN_UP or STANDBY and issuing a start can write. -/
def startKeys : List Nat := modeKeys ++ [SPN_TARGET.key, SPN_CMD.key]

theorem Dev.steady_word (r : Reg) (i j : Nat) (h : r.key ∉ startKeys) : Dev.Steady fun d => d.word r i j := by
  simp only [startKeys, List.mem_append, List.mem_cons, List.not_mem_nil, or_false, not_or] at h
  obtain ⟨hmode, htarget, hcmd⟩ := h
  have hkeys := hmode
  simp only [modeKeys, List.mem_append, List.mem_cons, List.not_mem_nil, or_false, not_or] at hkeys
  obtain ⟨-, -, -, hsys, hint⟩ := hkeys
  refine ⟨fun d m => Dev.word_setMode d m r i j hmode, fun d c => Dev.word_set_of_key _ _ _ _ _ _ _ _ (Ne.symm hsys),
    fun d => Dev.word_raise_of_key _ _ _ _ _ _ _ (Ne.symm hint), fun d f v hf => Dev.word_set_of_key _ _ _ _ _ _ _ _ ?_,
    fun _ _ => rfl, fun _ _ _ => rfl⟩
  simp only [List.mem_cons, List.not_mem_nil, or_false] at hf
  rcases hf with e | e <;> rw [e]
  · exact Ne.symm htarget
  · exact Ne.symm hcmd

theorem Dev.steady_ready : Dev.Steady fun d => d.get SYS_INT_STATUS.READY := by
  refine ⟨fun d m => Dev.setMode_status d m 1 1 (by decide) (by decide),
    fun d c => Dev.get_set_of_key _ _ _ _ _ _ _ _ (by decide),
    fun d => Dev.get_set_beside _ SYS_INT_STATUS 2 1 1 1 _ _ _ (by decide), fun d f v hf => Dev.get_set_of_key _ _ _ _ _ _ _ _ ?_,
    fun _ _ => rfl, fun _ _ _ => rfl⟩
  simp only [List.mem_cons, List.not_mem_nil, or_false] at hf
  rcases hf with e | e <;> (rw [e]; decide)

theorem Dev.steady_loaded : Dev.Steady fun d => d.seq.loaded :=
  ⟨fun d m => congrArg (·.seq.loaded) (Dev.outside_setMode d m), fun _ _ => rfl, fun _ => rfl, fun _ _ _ _ => rfl,
    fun _ _ => rfl, fun d _ h => h d.seq⟩

/-- Issuing a start leaves the mode and its cause alone. -/
theorem Dev.word_issueStart_mode (d : Dev) : d.issueStart.word SYS_MODE = d.word SYS_MODE :=
  Dev.issueStart_keeps (fun d => d.word SYS_MODE) (fun d f v hf => Dev.word_set_of_key _ _ _ _ _ _ _ _ (by
    simp only [List.mem_cons, List.not_mem_nil, or_false] at hf
    rcases hf with e | e <;> (rw [e]; decide))) (fun _ _ => rfl) d

theorem Dev.mode_of_word {d t : Dev} (h : t.word SYS_MODE = d.word SYS_MODE) : t.mode = d.mode :=
  congrArg Mode.ofCode (Dev.get_of_word h)

/-- SAFE is entered with its cause. -/
theorem Dev.enterSafe_shows (d : Dev) {c : Nat} (hc : c < 16) :
    (d.enterSafe c).mode = .safe ∧ (d.enterSafe c).get SYS_MODE.SAFE_CAUSE = c := by
  have hword : (d.enterSafe c).word SYS_MODE = ((d.setMode .safe).set SYS_MODE.SAFE_CAUSE c).word SYS_MODE :=
    Dev.when_keeps (fun d => d.word SYS_MODE) _ _ (Dev.word_raise_of_key _ _ _ _ _ _ _ (by decide))
  constructor
  · have hbeside : ((d.setMode .safe).set SYS_MODE.SAFE_CAUSE c).mode = (d.setMode .safe).mode :=
      congrArg Mode.ofCode (Dev.get_set_beside _ SYS_MODE 8 4 0 4 _ _ _ (by decide))
    exact (Dev.mode_of_word hword).trans (hbeside.trans (Dev.mode_setMode _ _))
  · exact (Dev.get_of_word hword).trans ((Dev.get_set _ _ _ _ _ (by decide)).trans (Nat.mod_eq_of_lt hc))

/-- LAST_LOAD goes on to SAFE with its cause. -/
theorem Dev.afterLoad_safe (d : Dev) {c : Nat} (hc : c < 16) :
    (d.afterLoad (some c)).mode = .safe ∧ (d.afterLoad (some c)).get SYS_MODE.SAFE_CAUSE = c := by
  have hword : (d.afterLoad (some c)).word SYS_MODE = (d.enterSafe c).word SYS_MODE := by
    unfold Dev.afterLoad
    extract_lets up entered
    show (if up && (d.enterSafe c).safeReads then (d.enterSafe c).startInSafe else d.enterSafe c).word SYS_MODE = _
    split
    · exact Dev.word_issueStart_mode _
    · rfl
  obtain ⟨hmode, hcause⟩ := d.enterSafe_shows hc
  exact ⟨(Dev.mode_of_word hword).trans hmode, (Dev.get_of_word hword).trans hcause⟩

/-- LAST_LOAD goes on to SPIN_UP or STANDBY. -/
theorem Dev.afterLoad_starts (d : Dev) : (d.afterLoad none).mode = .standby ∨ (d.afterLoad none).mode = .spinUp := by
  unfold Dev.afterLoad
  extract_lets up entered
  show Dev.mode (if up then d.enterSpinUp else d.setMode .standby) = _ ∨
    Dev.mode (if up then d.enterSpinUp else d.setMode .standby) = _
  split
  · exact .inr ((Dev.mode_of_word (Dev.word_issueStart_mode _)).trans (Dev.mode_setMode d .spinUp))
  · exact .inl (Dev.mode_setMode _ _)

/-! ### SAFE's cause -/

/-- The cause of SAFE after LAST_LOAD: the image, the stacks, the keystone store, a fault, a patch. -/
def Dev.loadCause (d : Dev) (img : Option Image) (keys bad : Bool) : Option Nat :=
  if img.isNone then some 5
  else if !(d.stackOk 0 && d.stackOk 1) then some 4
  else if !keys then some 3
  else if d.on FLT_FA0.VALID then some 1
  else if bad then some 2
  else none

/-- The cause is IMAGE exactly where no image was loaded, and every cause is below 16. -/
theorem Dev.loadCause_image (d : Dev) (img : Option Image) (keys bad : Bool) :
    (d.loadCause img keys bad = some 5 ↔ img = none) ∧ ∀ c, d.loadCause img keys bad = some c → c < 16 := by
  unfold Dev.loadCause
  cases img with
  | none => simp
  | some x =>
    simp only [Option.isNone_some, Bool.false_eq_true, if_false, reduceCtorEq, iff_false]
    split_ifs <;> simp

/-- The slots' trial of LAST_LOAD: none where the flash is too small. -/
def Dev.tryFlash (d : Dev) (f : Slots) : Dev × Option Image :=
  if f.size < 0x400_0000 then (d, none) else d.trySlots (Slots.order f)

theorem Dev.tryFlash_none (d : Dev) (f : Slots) :
    (d.tryFlash f).2 = none ↔ f.size < 2 ^ 26 ∨ (d.trySlots (Slots.order f)).2 = none := by
  unfold Dev.tryFlash
  by_cases h : f.size < 0x400_0000
  · rw [if_pos h]
    simp [h]
  · rw [if_neg h]
    simp [h]

/-- The islands that LAST_LOAD starts. -/
def Dev.loadIslands (d : Dev) : Dev := d.each [2, 5, 9, 10, 11, 12, 13, 14, 15, 16, 17, 19, 20] fun i d => d.startIsland i

/-- LAST_LOAD makes a device ready and leaves the mode by what the trial found. -/
theorem lastLoad_ends {s : State} (h : s.dev.mode = .lastLoad) {P : Dev → Prop}
    (hP : ∀ (d : Dev) keys bad, P (d.ready.afterLoad (d.ready.loadCause (s.dev.loadIslands.tryFlash s.slots).2 keys bad))) :
    Completes .lastLoad s P := by
  refine completes_of_run rfl ?_
  have hmode : ¬ (s.dev.mode != .lastLoad) = true := by simp [h]
  rw [if_neg hmode]
  exact hP _ _ _

/-- The marks that LAST_LOAD sets last. -/
def Dev.mark (d : Dev) : Dev :=
  ((((d.set LST_LOCK.LOCK 1).set HST_CTRL.EN 1).set QUE_CTRL.EN 1).set HST_FN_STATUS.PRESENT 1).onSeq fun s =>
    { s with loaded := true }

theorem Dev.ready_eq (d : Dev) :
    d.ready = (((d.showCeil.followWays).startSequencers).mark).raise SYS_INT_STATUS.READY := rfl

theorem Dev.mark_fields (d : Dev) : d.mark.get LST_LOCK.LOCK = 1 ∧ d.mark.get HST_CTRL.EN = 1 ∧ d.mark.get QUE_CTRL.EN = 1 ∧
    d.mark.get HST_FN_STATUS.PRESENT = 1 := by
  have hset (d : Dev) (f f' : Fld) (h : f.reg.key ≠ f'.reg.key) : (d.set f 1).get f' = d.get f' :=
    Dev.get_set_of_key _ _ _ _ _ _ _ _ h
  have hself (d : Dev) (f : Fld) (h : f.lo + f.width ≤ 32) (h1 : 1 % 2 ^ f.width = 1) : (d.set f 1).get f = 1 :=
    (Dev.get_set _ _ _ _ _ h).trans h1
  have hseq (d : Dev) (f : Fld) : (d.onSeq fun s => { s with loaded := true }).get f = d.get f := rfl
  unfold Dev.mark
  simp only [hseq]
  refine ⟨?_, ?_, ?_, hself _ _ (by decide) (by decide)⟩
  · rw [hset _ HST_FN_STATUS.PRESENT LST_LOCK.LOCK (by decide), hset _ QUE_CTRL.EN LST_LOCK.LOCK (by decide),
      hset _ HST_CTRL.EN LST_LOCK.LOCK (by decide), hself _ _ (by decide) (by decide)]
  · rw [hset _ HST_FN_STATUS.PRESENT HST_CTRL.EN (by decide), hset _ QUE_CTRL.EN HST_CTRL.EN (by decide),
      hself _ _ (by decide) (by decide)]
  · rw [hset _ HST_FN_STATUS.PRESENT QUE_CTRL.EN (by decide), hself _ _ (by decide) (by decide)]

/-- What a device made ready shows, whatever mode follows. -/
theorem Dev.ready_afterLoad (d : Dev) (cause : Option Nat) :
    let t := d.ready.afterLoad cause
    t.get LST_LOCK.LOCK = 1 ∧ t.get SYS_INT_STATUS.READY = 1 ∧ t.get HST_CTRL.EN = 1 ∧
      t.get QUE_CTRL.EN = 1 ∧ t.get HST_FN_STATUS.PRESENT = 1 ∧ t.seq.loaded = true := by
  rw [Dev.ready_eq]
  generalize (d.showCeil.followWays).startSequencers = d
  have hget (f : Fld) (hf : f.reg.key ∉ startKeys) :
      ((d.mark.raise SYS_INT_STATUS.READY).afterLoad cause).get f = d.mark.get f := by
    have hint : SYS_INT_STATUS.key ≠ f.reg.key := fun e => hf (by rw [← e]; decide)
    exact (Dev.get_of_word ((Dev.steady_word f.reg 0 0 hf).afterLoad _ _)).trans (Dev.get_set_of_key _ _ _ _ _ _ _ _ hint)
  obtain ⟨hlock, hhst, hque, hfn⟩ := d.mark_fields
  exact ⟨(hget LST_LOCK.LOCK (by decide)).trans hlock, (Dev.steady_ready.afterLoad _ _).trans (Dev.get_set _ _ _ _ _ (by decide)),
    (hget HST_CTRL.EN (by decide)).trans hhst, (hget QUE_CTRL.EN (by decide)).trans hque,
    (hget HST_FN_STATUS.PRESENT (by decide)).trans hfn, (Dev.steady_loaded.afterLoad _ _).trans rfl⟩

/-- LAST_LOAD ends locked and ready, in SAFE with cause IMAGE exactly where no slot of a large enough flash passes. -/
theorem lastLoad_leaves (s : State) (h : s.dev.mode = .lastLoad) : Completes .lastLoad s fun t =>
    t.get LST_LOCK.LOCK = 1 ∧ t.get SYS_INT_STATUS.READY = 1 ∧ t.get HST_CTRL.EN = 1 ∧
      t.get QUE_CTRL.EN = 1 ∧ t.get HST_FN_STATUS.PRESENT = 1 ∧ t.seq.loaded = true ∧
      (t.mode = .safe ∨ t.mode = .standby ∨ t.mode = .spinUp) ∧
      ((t.mode = .safe ∧ t.get SYS_MODE.SAFE_CAUSE = 5) ↔
        (s.slots.size < 2 ^ 26 ∨ (s.dev.loadIslands.trySlots (Slots.order s.slots)).2 = none)) := by
  refine lastLoad_ends h fun d keys bad => ?_
  obtain ⟨himage, hlt⟩ := d.ready.loadCause_image (s.dev.loadIslands.tryFlash s.slots).2 keys bad
  rw [← Dev.tryFlash_none, ← himage]
  generalize d.ready.loadCause (s.dev.loadIslands.tryFlash s.slots).2 keys bad = cause at hlt ⊢
  obtain ⟨hlock, hready, hhst, hque, hfn, hloaded⟩ := d.ready_afterLoad cause
  refine ⟨hlock, hready, hhst, hque, hfn, hloaded, ?_⟩
  cases cause with
  | none =>
    have hmode := d.ready.afterLoad_starts
    refine ⟨.inr hmode, ?_⟩
    rcases hmode with e | e <;> simp [e]
  | some c =>
    obtain ⟨hmode, hcause⟩ := d.ready.afterLoad_safe (hlt c rfl)
    refine ⟨.inl hmode, ?_⟩
    rw [hmode, hcause]
    simp

end Sys2Proof.Machine
end

section
/-! SUPPORT. The slots of the last image, tried in order (R590, R594), and what the resets settle. -/
namespace Sys2Proof.Machine

/-- A slot that fails a check is refused and the next is tried. -/
theorem Dev.trySlots_fails {d : Dev} {x : Image} {c n : Nat} (h : d.imageFails x = some (c, n)) (k : Nat)
    (rest : List (Nat × Image)) : d.trySlots ((k, x) :: rest) = (d.rejectImage k c n 0).trySlots rest := by
  rw [Dev.trySlots, h]

/-- A slot that passes every check, with no REGS record, is loaded. -/
theorem Dev.trySlots_passes {d : Dev} {x : Image} (h : d.imageFails x = none) (hr : x.regs = []) (k : Nat)
    (rest : List (Nat × Image)) : d.trySlots ((k, x) :: rest) =
      (((((d.loadPack x).loadFields x).set LST_STATUS.LOADED 1).set LST_STATUS.SLOT k).set LST_IMG_SEQ.SEQ x.seq, some x) := by
  rw [Dev.trySlots, h, hr]
  rfl

/-- The marks of a loaded slot. -/
theorem Dev.loaded_marks (d : Dev) {k : Nat} (hk : k < 2) (q : Nat) :
    let t := ((d.set LST_STATUS.LOADED 1).set LST_STATUS.SLOT k).set LST_IMG_SEQ.SEQ q
    t.get LST_STATUS.LOADED = 1 ∧ t.get LST_STATUS.SLOT = k ∧ t.get LST_IMG_SEQ.SEQ = q % 2 ^ 32 := by
  refine ⟨(Dev.get_set_of_key _ _ _ _ _ _ _ _ (by decide)).trans ?_, (Dev.get_set_of_key _ _ _ _ _ _ _ _ (by decide)).trans ?_,
    Dev.get_set _ _ _ _ _ (by decide)⟩
  · exact (Dev.get_set_beside _ LST_STATUS 1 1 0 1 _ _ _ (by decide)).trans (Dev.get_set _ _ _ _ _ (by decide))
  · exact (Dev.get_set _ _ _ _ _ (by decide)).trans (Nat.mod_eq_of_lt hk)

/-- The record of a refused slot names it, and IMG_REJECT is raised. -/
theorem Dev.rejectImage_shows (d : Dev) {k : Nat} (hk : k < 2) (c n r : Nat) :
    (d.rejectImage k c n r).get LST_REJ_INFO.SLOT = k ∧ (d.rejectImage k c n r).get SYS_INT_STATUS.IMG_REJECT = 1 := by
  unfold Dev.rejectImage
  extract_lets named placed stamped
  have hevent (f : Fld) (h : f.reg.key ∉ recordKeys) : ((stamped.raise SYS_INT_STATUS.IMG_REJECT).event 0x07 40 [k, c, n]).get f =
      (stamped.raise SYS_INT_STATUS.IMG_REJECT).get f := Dev.get_of_word (Dev.word_record _ _ _ _ _ _ h)
  have hbeside (d : Dev) (lo w v : Nat) (h : lo + w ≤ 23 ∨ 24 ≤ lo) (h' : lo + w ≤ 32) :
      (d.set ⟨LST_REJ_INFO, lo, w⟩ v).get LST_REJ_INFO.SLOT = d.get LST_REJ_INFO.SLOT :=
    Dev.get_set_beside _ LST_REJ_INFO lo w 23 1 _ _ _ ⟨h', by decide, by omega⟩
  have hnamed : named.get LST_REJ_INFO.SLOT = k :=
    (hbeside _ 20 3 _ (by decide) (by decide)).trans ((Dev.get_set _ _ _ _ _ (by decide)).trans (Nat.mod_eq_of_lt hk))
  have hplaced : placed.get LST_REJ_INFO.SLOT = k :=
    (hbeside _ 0 15 _ (by decide) (by decide)).trans ((hbeside _ 15 5 _ (by decide) (by decide)).trans hnamed)
  have hstamped : stamped.get LST_REJ_INFO.SLOT = k :=
    (hbeside _ 31 1 _ (by decide) (by decide)).trans ((hbeside _ 24 7 _ (by decide) (by decide)).trans hplaced)
  exact ⟨(hevent LST_REJ_INFO.SLOT (by decide)).trans ((Dev.get_set_of_key _ _ _ _ _ _ _ _ (by decide)).trans hstamped),
    (hevent SYS_INT_STATUS.IMG_REJECT (by decide)).trans (Dev.get_set _ _ _ _ _ (by decide))⟩

/-- Settles O59: the commands clause by clause; the mode change at the end of ROM_BOOT and after LAST_LOAD is followed by what it
keeps. -/
theorem resetsAndLastLoad : Obligations.ResetsAndLastLoad := by
  unfold Obligations.ResetsAndLastLoad
  refine ⟨reset_leaves, fun s => ?_, fun s p h => coldResetRelease_boots s p h, fun s p h => ?_,
    fun s who v ht hprep _ hmode hheld hpark => warmResetRequest_prepares s who v ht hprep hmode hheld hpark,
    fun s hprep hr => warmReset_boots s hprep hr, fun s h => lastLoad_leaves s h, fun d k x rest hk => ?_⟩
  case refine_1 =>
    have hsame : Dev.FreshOf s.dev (s.dev.coldHeld s.dev.flash) := s.dev.coldHeld_fresh s.dev.flash
    exact ⟨fun p => ⟨_, rfl, rfl, s.dev.coldHeld_fresh p.2, rfl⟩, ⟨_, rfl, rfl, hsame, rfl⟩, ⟨_, rfl, rfl, hsame, rfl⟩⟩
  case refine_2 =>
    refine completes_of_run rfl ?_
    rw [if_neg (by unfold Dev.inMode; rw [h]; decide)]
  case refine_3 =>
    split
    next hx =>
      intro hr
      rw [Dev.trySlots_passes hx hr]
      exact ⟨rfl, Dev.loaded_marks _ hk _⟩
    next c n hx => exact ⟨Dev.trySlots_fails hx k rest, d.rejectImage_shows hk c n 0⟩

end Sys2Proof.Machine
end

section
/-! SUPPORT. A write slot whose plaintext fails its guard, on a device that treats a UC report of SEC's site as FATAL
(R347, R538, R546). -/

namespace Sys2Proof.Machine

/-- A write arm of head 0 for a sector of cylinder 0. -/
def guardedArm (sect : Nat) : Arm := ⟨0, sect, false, true, false, false, false, false, 0, 0, false, false⟩

/-- The held sector that lane 0's first slot writes, with a guard that is not that of its data. -/
def unguarded : Held :=
  { nsid := 1, lba := 15, kind := 0, zero := false, data := [], f := 0, buf := 0, guard := some (Config.piGuard 0 [] + 1) }

/-- Every island runs in ACTIVE, group 0 in LOCK with lane 0 enabled and the spindle fast, and site 424's UC reports act as FA. -/
def guardFatalRegs : Dev :=
  ((((((((State.reset.dev.setWord SYS_ISLAND_EN 0x3FFFFF).setWord SYS_ISLAND_STATUS 0x3FFFFF).set SYS_MODE.MODE 6).set
    FMT_LANES.PRESENT 255 0).set LANE_CTRL.EN 1 0).set WLS_STATUS.STATE 2 0).set WLS_CTRL.EN 1 0).set
    SRV_SUP_STATUS.WI 0 0).set SRV_STATUS.STATE 5 0 |>.set FLT_SITE_CFG.ACTION 2 0 424

/-- Lane 0 has the write slots of sectors 15 and 16 armed and a token; the band of the group's first welts belongs to
namespace 1, one data member on head 0. -/
def guardFatal : Dev :=
  let d := (guardFatalRegs.onArms 0 fun _ => [guardedArm 15, guardedArm 16]).onTok fun t => { t with held := t.held.set 0 1 }
  let d := (d.onWls 0 fun w => { w with speed := 115200 }).onQue fun q => { q with held := [unguarded] }
  { d with
    zones := d.zones.set 0 [⟨0, 29998080, 700, 0, 0, 0, 0⟩]
    band := { d.band with dir := [(0, ⟨0, 0, bsUser, false, 0x3, 1, 0⟩)] } }

/-- What the band gives for lane 0's first slot: LBA 15 of namespace 1. -/
theorem expect_guardFatal : (guardFatal.expect 0 0 15 0).map (fun x => (x.nsid, x.addr, x.kind)) = some (1, 15, 0) := by
  decide +kernel

/-- The held portion has that LBA, and no namespace 1 is known. -/
theorem heldAt_guardFatal : guardFatal.heldAt 1 15 0 = some unguarded ∧ guardFatal.nsOf 1 = none := ⟨rfl, by decide +kernel⟩

/-- The first armed slot of lane 0 fails SEC's check: its plaintext has a different guard. -/
theorem guardBad_guardFatal : guardFatal.guardBad 0 0 (guardedArm 15) = true := by
  obtain ⟨x, hx, hp⟩ := Option.map_eq_some_iff.mp expect_guardFatal
  obtain ⟨hn, ha, hk⟩ : x.nsid = 1 ∧ x.addr = 15 ∧ x.kind = 0 := by simpa using hp
  obtain ⟨hheld, hns⟩ := heldAt_guardFatal
  simp [Dev.guardBad, guardedArm, hx, hn, ha, hk, hheld, hns, unguarded]

/-- The registers that an event counts in. -/
def countKeys : List Nat := [TRC_CNT_LO.key, TRC_CNT_HI.key]

/-- An event counts in those registers alone: what their writes keep, it keeps. -/
theorem Dev.count_keeps {β : Type} (φ : Dev → β) (h : ∀ f v i j d, f.reg.key ∈ countKeys → φ (d.set f v i j) = φ d) (code : Nat)
    (g : Option Grp) (n : Nat) (d : Dev) : φ (d.count code g n) = φ d := by
  unfold Dev.count
  split
  · rfl
  · refine Dev.each_keeps φ _ _ (fun i d => ?_) d
    rw [apply_ite φ, h _ _ _ _ _ (by decide), h _ _ _ _ _ (by decide), ite_self]

/-- A slot of a run of adjacent slots that is written, its guard bad, leaves the tokens as the UC report of site 424 did. -/
theorem Dev.tok_writeSlot_guardBad {s : State} {n : LaneId} {x : SlotIn} {a : Arm} {l : List Arm} {P : Dev → Prop}
    (hr : s.dev.groupRuns n.grp = true) (ha : s.dev.arms[n] = a :: l) (hw : a.wg = true) (hf : a.flush = false)
    (hi : s.dev.inhibited n.grp n.ix a.metaMark a.flush = false) (hh : s.dev.heaterReady n.grp n.ix = true)
    (ht : bit s.dev.tok.held[n.grp] n.ix = true) (hg : s.dev.guardBad n.grp n.ix a = true) (hc : a.cap = false)
    (hn : nextAdjacent a l = true) (h : Completes (.writeSlot ⟨n, x⟩) s P) : ∃ t, P t ∧ t.tok = (s.dev.uc 424).tok := by
  refine ⟨_, of_completes_run rfl h, ?_⟩
  rw [hf] at hi
  have hslot : (!a.wg) = false ∧ (a.flush && (s.dev.flushLate || decide (s.dev.wls[n.grp].speed < 2400 * 16))) = false ∧
      (s.dev.inhibited n.grp n.ix a.metaMark a.flush || !s.dev.heaterReady n.grp n.ix || !bit s.dev.tok.held[n.grp] n.ix) = false := by
    rw [hw, hf, hi, hh, ht]
    exact ⟨rfl, rfl, rfl⟩
  obtain ⟨hwg, hlate, hfree⟩ := hslot
  simp only [hr, ha, hwg, hlate, hfree, hg, hc, hn, Bool.false_eq_true, if_true, if_false]
  rw [Dev.tok_onWls, Dev.tok_onLane, Dev.count_keeps Dev.tok (fun _ _ _ _ _ _ => rfl), Dev.tok_onArms]

/-- The state of that device. -/
def guardFatalState : State := ⟨[], guardFatal, Slots.empty⟩

/-- The FATAL report has already taken the group's tokens. -/
theorem tok_uc_guardFatal : bit (guardFatalState.dev.uc 424).tok.held[(0 : LaneId).grp] (0 : LaneId).ix = false := by
  decide +kernel

/-- Refutes O22: in its first clause the lane keeps its token over adjacent slots, but the UC report of a plaintext that fails
its guard (R347), where the site's ACTION is FATAL, enters COAST_FLUSH before the slot is written, and the retract takes every
token of the group (R538, R546, R171). -/
theorem not_writeSlotsAndTokens : ¬ Obligations.WriteSlotsAndTokens := by
  unfold Obligations.WriteSlotsAndTokens
  rintro ⟨hslot, -⟩
  have hruns : guardFatalState.dev.groupRuns (0 : LaneId).grp = true := by decide +kernel
  have harms : guardFatalState.dev.arms[(0 : LaneId)] = [guardedArm 15, guardedArm 16] := by decide +kernel
  have hfree : guardFatalState.dev.inhibited (0 : LaneId).grp (0 : LaneId).ix false false = false := by decide +kernel
  have hready : guardFatalState.dev.heaterReady (0 : LaneId).grp (0 : LaneId).ix = true := by decide +kernel
  have hheld : bit guardFatalState.dev.tok.held[(0 : LaneId).grp] (0 : LaneId).ix = true := by decide +kernel
  obtain ⟨t, ⟨-, -, -, htok⟩, ht⟩ := Dev.tok_writeSlot_guardBad hruns harms rfl rfl hfree hready hheld guardBad_guardFatal rfl rfl
    (hslot guardFatalState 0 ⟨[], [], []⟩ (guardedArm 15) [guardedArm 16] hruns harms rfl hfree hready hheld (by intro h; cases h))
  rw [ht, tok_uc_guardFatal] at htok
  cases htok

end Sys2Proof.Machine
end

section
/-! SUPPORT. What a retract leaves (R240 to R245): the registers that show the mode, a power loss or a sector's outcome, the lanes,
the queues' flush, the spindle and the mode sequencer. -/

namespace Sys2Proof.Machine

/-! ### Views -/

/-- The words of some registers. -/
def Dev.wordsOf (keys : List Nat) (d : Dev) : Reg → Nat → Nat → Word := fun r i j => if r.key ∈ keys then d.word r i j else 0

/-- The registers that show a power loss and a sector's outcome. -/
def outcomeKeys : List Nat := [SPN_PF_INFO.key, LANE_REC_INFO0.key, LANE_INT_STATUS.key]

/-- The outcomes that QUE holds of each group. -/
def Dev.outcomes (d : Dev) : Vector (List SectOut) 4 := d.grpq.map GroupQ.results

/-- What no report changes: the outcomes of sectors, PWRFAIL_L, and a power loss that is latched while it is low. -/
def Dev.outcomeView (d : Dev) : (Reg → Nat → Nat → Word) × Vector LaneSt 32 × Vector (List SectOut) 4 × Bool × Bool :=
  (d.wordsOf outcomeKeys, d.lanes, d.outcomes, d.pwrfail, d.pwrfail && d.spn.pf)

/-- What a retract leaves: the outcomes, the mode, and units that it does not touch. -/
def Dev.retractView (d : Dev) : (Reg → Nat → Nat → Word) × Vector LaneSt 32 × Vector (List SectOut) 4 × QueSt × Spn × SeqSt × Bool :=
  (d.wordsOf (SYS_MODE.key :: outcomeKeys), d.lanes, d.outcomes, d.que, d.spn, d.seq, d.pwrfail)

theorem Dev.wordsOf_congr {keys : List Nat} {d t : Dev} (h : ∀ r i j, r.key ∈ keys → t.word r i j = d.word r i j) :
    t.wordsOf keys = d.wordsOf keys := by
  funext r i j
  exact if_ctx_congr Iff.rfl (h r i j) fun _ => rfl

theorem Dev.wordsOf_set (keys : List Nat) (d : Dev) (f : Fld) (v i j : Nat) (h : f.reg.key ∉ keys) :
    (d.set f v i j).wordsOf keys = d.wordsOf keys :=
  Dev.wordsOf_congr fun _ _ _ hr => Dev.word_set_of_key _ _ _ _ _ _ _ _ fun e => h (e ▸ hr)

theorem Dev.wordsOf_of_regs (keys : List Nat) {d t : Dev} (h : t.regs = d.regs) : t.wordsOf keys = d.wordsOf keys :=
  Dev.wordsOf_congr fun _ _ _ _ => Dev.word_of_regs h _ _ _

theorem Dev.word_of_wordsOf {keys : List Nat} {d t : Dev} (h : t.wordsOf keys = d.wordsOf keys) {r : Reg} (hr : r.key ∈ keys)
    (i j : Nat) : t.word r i j = d.word r i j := by
  have := congrFun (congrFun (congrFun h r) i) j
  simpa [Dev.wordsOf, hr] using this

/-- What an update of one entry keeps of that entry it keeps of the table. -/
theorem map_upd {α β : Type} {n : Nat} (p : α → β) (v : Vector α n) (i : Fin n) (f : α → α) (h : ∀ x, p (f x) = p x) :
    (upd v i f).map p = v.map p := by
  apply Vector.ext
  intro k hk
  unfold upd
  rw [Vector.getElem_map, Vector.getElem_map, Vector.getElem_set]
  split
  next e => rw [h]; subst e; rfl
  next => rfl

/-- A change of one group's queue that keeps its outcomes. -/
theorem Dev.outcomes_onGrpq (d : Dev) (g : Grp) (f : GroupQ → GroupQ) (h : ∀ q, (f q).results = q.results) :
    (d.onGrpq g f).outcomes = d.outcomes := map_upd GroupQ.results d.grpq g f h

/-! ### Register writes -/

section
variable (d : Dev) (f : Fld) (v i j : Nat) (hf : f.reg.key ∉ SYS_MODE.key :: outcomeKeys)
include hf

@[simp] theorem Dev.retractView_set : (d.set f v i j).retractView = d.retractView :=
  congrArg (·, d.lanes, d.outcomes, d.que, d.spn, d.seq, d.pwrfail) (d.wordsOf_set _ f v i j hf)

@[simp] theorem Dev.retractView_raise : (d.raise f i j).retractView = d.retractView := d.retractView_set f 1 i j hf

@[simp] theorem Dev.retractView_setSat : (d.setSat f v i j).retractView = d.retractView := d.retractView_set f _ i j hf

@[simp] theorem Dev.retractView_orBits (m : Nat) : (d.orBits f m i j).retractView = d.retractView :=
  d.retractView_set f _ i j hf

@[simp] theorem Dev.retractView_stamp (q : Fld) (hq : q.reg.key ∉ SYS_MODE.key :: outcomeKeys) :
    (d.stamp f q i j).retractView = d.retractView :=
  (Dev.retractView_set _ f 1 i j hf).trans (d.retractView_set q _ i j hq)

end

/-! ### Updates of units -/

/-- An update of units beside those of the view. -/
theorem Dev.retractView_of {d t : Dev} (hr : t.regs = d.regs)
    (hu : (t.lanes, t.outcomes, t.que, t.spn, t.seq, t.pwrfail) = (d.lanes, d.outcomes, d.que, d.spn, d.seq, d.pwrfail)) :
    t.retractView = d.retractView := Prod.ext (Dev.wordsOf_of_regs _ hr) hu

@[simp] theorem Dev.retractView_onTok (d : Dev) (f : Tokens → Tokens) : (d.onTok f).retractView = d.retractView :=
  Dev.retractView_of rfl rfl
@[simp] theorem Dev.retractView_onSrv (d : Dev) (g : Grp) (f : Srv → Srv) : (d.onSrv g f).retractView = d.retractView :=
  Dev.retractView_of rfl rfl
@[simp] theorem Dev.retractView_onWls (d : Dev) (g : Grp) (f : Wls → Wls) : (d.onWls g f).retractView = d.retractView :=
  Dev.retractView_of rfl rfl
@[simp] theorem Dev.retractView_onFmt (d : Dev) (g : Grp) (f : Fmt → Fmt) : (d.onFmt g f).retractView = d.retractView :=
  Dev.retractView_of rfl rfl
@[simp] theorem Dev.retractView_onArms (d : Dev) (n : LaneId) (f : List Arm → List Arm) :
    (d.onArms n f).retractView = d.retractView := Dev.retractView_of rfl rfl

theorem Dev.retractView_onGrpq (d : Dev) (g : Grp) (f : GroupQ → GroupQ) (h : ∀ q, (f q).results = q.results) :
    (d.onGrpq g f).retractView = d.retractView := by
  refine Dev.retractView_of rfl ?_
  rw [Dev.outcomes_onGrpq d g f h]
  rfl

@[simp] theorem Dev.retractView_ite (c : Prop) [Decidable c] (a b : Dev) :
    (if c then a else b).retractView = if c then a.retractView else b.retractView := apply_ite ..

@[simp] theorem Dev.retractView_when (d : Dev) (c : Bool) (f : Dev → Dev) :
    (d.when c f).retractView = if c = true then (f d).retractView else d.retractView := apply_ite ..

/-- A fold leaves the view alone where each of its steps does. -/
theorem Dev.retractView_each {α : Type} (l : List α) (f : α → Dev → Dev)
    (h : ∀ a d, (f a d).retractView = d.retractView) (d : Dev) : (d.each l f).retractView = d.retractView :=
  Dev.each_keeps Dev.retractView l f h d

/-! ### The write path -/

@[simp] theorem Dev.retractView_nextFrame (d : Dev) (g : Grp) : (d.nextFrame g).retractView = d.retractView := by
  unfold Dev.nextFrame
  dsimp only
  split
  · rfl
  · split
    · rfl
    · exact Dev.retractView_onWls ..

@[simp] theorem Dev.retractView_sendFrame (d : Dev) (g : Grp) (f : PaFrame) :
    (d.sendFrame g f).retractView = d.retractView := by
  simp [Dev.sendFrame]

@[simp] theorem Dev.retractView_gatesFall (d : Dev) (g : Grp) (m : Nat) : (d.gatesFall g m).retractView = d.retractView := by
  simp [Dev.gatesFall]

@[simp] theorem Dev.retractView_safetyHeaters (d : Dev) (g : Grp) : (d.safetyHeaters g).retractView = d.retractView := by
  unfold Dev.safetyHeaters
  exact Dev.retractView_each _ _ (fun _ _ => by simp [Dev.dropHeater]) d

@[simp] theorem Dev.retractView_orderHeater (d : Dev) (g : Grp) (i : HeadIx) (c : Nat) :
    (d.orderHeater g i c).retractView = d.retractView := by
  simp (disch := decide) [Dev.orderHeater, Dev.setHeater, Dev.dropHeater]

@[simp] theorem Dev.retractView_refreshInh (d : Dev) (g : Grp) : (d.refreshInh g).retractView = d.retractView := by
  simp (disch := decide) [Dev.refreshInh]

@[simp] theorem Dev.retractView_dropTokens (d : Dev) (g : Grp) : (d.dropTokens g).retractView = d.retractView := by
  simp (disch := decide) [Dev.dropTokens, Dev.showTokens]

@[simp] theorem Dev.retractView_abortHead (d : Dev) (g : Grp) (c : Nat) (i : HeadIx) :
    (d.abortHead g c i).retractView = d.retractView := by
  unfold Dev.abortHead
  split
  · rfl
  · extract_lets n fallen recorded returned failed
    have hrec : recorded.retractView = fallen.retractView := by
      simp only [recorded]
      split <;> simp (disch := decide) [Dev.abortRecord]
    have hret : returned.retractView = recorded.retractView := by
      simp (disch := decide) [returned, Dev.returnTokens, Dev.clearTokens, Dev.showTokens]
    have hfail : failed.retractView = returned.retractView := by simp (disch := decide) [failed]
    simp [hfail, hret, hrec, fallen]

@[simp] theorem Dev.retractView_abortHeads (d : Dev) (g : Grp) (m c : Nat) : (d.abortHeads g m c).retractView = d.retractView :=
  Dev.retractView_each _ _ (fun _ _ => Dev.retractView_abortHead ..) d

/-! ### Requests and retracts -/

@[simp] theorem Dev.retractView_showGrpq (d : Dev) (g : Grp) : (d.showGrpq g).retractView = d.retractView := by
  simp (disch := decide) [Dev.showGrpq]

@[simp] theorem Dev.retractView_abandon (d : Dev) (g : Grp) : (d.abandon g).retractView = d.retractView := by
  simp [Dev.abandon, Dev.retractView_onGrpq]

@[simp] theorem Dev.retractView_enter (d : Dev) (g : Grp) (st : Nat) : (d.enter g st).retractView = d.retractView := by
  simp (disch := decide) [Dev.enter, Dev.icuHalt, Dev.icuRest]

@[simp] theorem Dev.retractView_inhibitAll (d : Dev) (g : Grp) : (d.inhibitAll g).retractView = d.retractView := by
  simp (disch := decide) [Dev.inhibitAll]

@[simp] theorem Dev.retractView_retract (d : Dev) (g : Grp) (c : Nat) : (d.retract g c).retractView = d.retractView := by
  unfold Dev.retract
  extract_lets st lost warned entered raised unnamed named unsought unmoded stopped cooled untokened left
  split
  · simp (disch := decide)
  split
  · simp (disch := decide)
  have hentered : entered.retractView = d.retractView := by simp (disch := decide) [entered, warned, lost, Dev.loseTrack]
  have hnamed : named.retractView = entered.retractView := by simp (disch := decide) [named, unnamed, raised]
  have hunmoded : unmoded.retractView = named.retractView := by simp (disch := decide) [unmoded, unsought]
  simp [Dev.trigger, Dev.sendDown, left, untokened, cooled, stopped, hunmoded, hnamed, hentered]

@[simp] theorem Dev.retractView_retractAll (d : Dev) (c : Nat) : (d.retractAll c).retractView = d.retractView :=
  Dev.retractView_each _ _ (fun _ _ => by simp) d

end Sys2Proof.Machine
end

section
/-! SUPPORT. What a report leaves (R536 to R546): no record, no fatal fault and no flush that it enters changes a sector's outcome,
a lane, or the record of a power loss. -/

namespace Sys2Proof.Machine

/-! ### Records of the almanac -/

/-- The device without its register file and its almanac. -/
def Dev.unlogged (d : Dev) : Dev := { d with regs := [], alm := {} }

theorem Dev.unlogged_set (d : Dev) (f : Fld) (v i j : Nat) : (d.set f v i j).unlogged = d.unlogged := rfl

theorem Dev.unlogged_onAlm (d : Dev) (f : AlmSt → AlmSt) : (d.onAlm f).unlogged = d.unlogged := rfl

theorem Dev.unlogged_almDrop (d : Dev) : d.almDrop.unlogged = d.unlogged := rfl

theorem Dev.unlogged_almPush (d : Dev) (t : Nat) (p : List Byte) : (d.almPush t p).unlogged = d.unlogged := by
  unfold Dev.almPush
  exact (Dev.when_keeps Dev.unlogged _ (·.set ALM_SEQ_FIRST.SEQ _) rfl).trans rfl

/-- A record changes registers and the almanac alone. -/
theorem Dev.unlogged_record (d : Dev) (t : Nat) (p : List Byte) : (d.record t p).unlogged = d.unlogged := by
  have hloss : d.almPowerLoss.unlogged = d.unlogged := by
    unfold Dev.almPowerLoss
    split
    · rfl
    · rw [Dev.unlogged_almPush, Dev.unlogged_onAlm]
  have hsaid : d.almPowerLoss.almAnnounce.unlogged = d.almPowerLoss.unlogged := by
    unfold Dev.almAnnounce
    split
    · rfl
    · rw [Dev.unlogged_set, Dev.unlogged_onAlm, Dev.unlogged_almPush]
  have hpush := (Dev.unlogged_almPush d.almPowerLoss.almAnnounce t (p.take 4080)).trans (hsaid.trans hloss)
  unfold Dev.record
  dsimp only
  simp only [apply_ite Dev.unlogged, Dev.unlogged_almDrop, hpush, ite_self]

/-- An append to the media copies changes registers and the almanac alone. -/
theorem Dev.unlogged_almAppend (d : Dev) (c : Bool) : (d.almAppend c).unlogged = d.unlogged := by
  have htake : d.almTake.unlogged = d.unlogged := by
    unfold Dev.almTake
    extract_lets
    refine Eq.trans rfl ((Dev.when_keeps Dev.unlogged _ _ rfl).trans ((Dev.when_keeps _ _ _ rfl).trans
      ((Dev.when_keeps _ _ _ rfl).trans ((Dev.when_keeps _ _ _ rfl).trans rfl))))
  unfold Dev.almAppend
  dsimp only
  split
  · rfl
  · rw [Dev.unlogged_onAlm, htake]

/-! ### Register writes -/

section
variable (d : Dev) (f : Fld) (v i j : Nat) (hf : f.reg.key ∉ outcomeKeys)
include hf

@[simp] theorem Dev.outcomeView_set : (d.set f v i j).outcomeView = d.outcomeView :=
  congrArg (·, d.lanes, d.outcomes, d.pwrfail, d.pwrfail && d.spn.pf) (d.wordsOf_set _ f v i j hf)

@[simp] theorem Dev.outcomeView_raise : (d.raise f i j).outcomeView = d.outcomeView := d.outcomeView_set f 1 i j hf

@[simp] theorem Dev.outcomeView_bump (n : Nat) : (d.bump f i j n).outcomeView = d.outcomeView := d.outcomeView_set f _ i j hf

@[simp] theorem Dev.outcomeView_clrBit (b : Nat) : (d.clrBit f b i j).outcomeView = d.outcomeView :=
  d.outcomeView_set f _ i j hf

@[simp] theorem Dev.outcomeView_orBits (m : Nat) : (d.orBits f m i j).outcomeView = d.outcomeView :=
  d.outcomeView_set f _ i j hf

@[simp] theorem Dev.outcomeView_stamp (q : Fld) (hq : q.reg.key ∉ outcomeKeys) :
    (d.stamp f q i j).outcomeView = d.outcomeView :=
  (Dev.outcomeView_set _ f 1 i j hf).trans (d.outcomeView_set q _ i j hq)

end

/-! ### Updates of units -/

/-- An update of units beside those of the view. -/
theorem Dev.outcomeView_of {d t : Dev} (hr : t.regs = d.regs) (hu : (t.lanes, t.outcomes, t.pwrfail, t.pwrfail && t.spn.pf) = (d.lanes, d.outcomes, d.pwrfail, d.pwrfail && d.spn.pf)) :
    t.outcomeView = d.outcomeView := Prod.ext (Dev.wordsOf_of_regs _ hr) hu

/-- What leaves the view of a retract alone leaves the outcomes alone. -/
theorem Dev.outcomeView_of_retractView {d t : Dev} (h : t.retractView = d.retractView) : t.outcomeView = d.outcomeView := by
  obtain ⟨hwords, hunits⟩ := Prod.mk.inj h
  exact Prod.ext (Dev.wordsOf_congr fun r i j hr => Dev.word_of_wordsOf hwords (List.mem_cons_of_mem _ hr) i j)
    (congrArg (fun (l, o, _, s, _, p) => (l, o, p, p && s.pf)) hunits :)

@[simp] theorem Dev.outcomeView_onAlm (d : Dev) (f : AlmSt → AlmSt) : (d.onAlm f).outcomeView = d.outcomeView :=
  Dev.outcomeView_of rfl rfl
@[simp] theorem Dev.outcomeView_onMem (d : Dev) (f : MemSt → MemSt) : (d.onMem f).outcomeView = d.outcomeView :=
  Dev.outcomeView_of rfl rfl
@[simp] theorem Dev.outcomeView_onFlt (d : Dev) (f : FltSt → FltSt) : (d.onFlt f).outcomeView = d.outcomeView :=
  Dev.outcomeView_of rfl rfl
@[simp] theorem Dev.outcomeView_onQue (d : Dev) (f : QueSt → QueSt) : (d.onQue f).outcomeView = d.outcomeView :=
  Dev.outcomeView_of rfl rfl
theorem Dev.outcomeView_onSpn (d : Dev) (f : Spn → Spn) (h : ∀ s, (f s).pf = s.pf) : (d.onSpn f).outcomeView = d.outcomeView :=
  Dev.outcomeView_of rfl (congrArg (fun b => (d.lanes, d.outcomes, d.pwrfail, d.pwrfail && b)) (h d.spn))
@[simp] theorem Dev.outcomeView_onSeq (d : Dev) (f : SeqSt → SeqSt) : (d.onSeq f).outcomeView = d.outcomeView :=
  Dev.outcomeView_of rfl rfl
@[simp] theorem Dev.outcomeView_onSrv (d : Dev) (g : Grp) (f : Srv → Srv) : (d.onSrv g f).outcomeView = d.outcomeView :=
  Dev.outcomeView_of rfl rfl

theorem Dev.outcomeView_onGrpq (d : Dev) (g : Grp) (f : GroupQ → GroupQ) (h : ∀ q, (f q).results = q.results) :
    (d.onGrpq g f).outcomeView = d.outcomeView := Dev.outcomeView_of_retractView (d.retractView_onGrpq g f h)

@[simp] theorem Dev.outcomeView_ite (c : Prop) [Decidable c] (a b : Dev) :
    (if c then a else b).outcomeView = if c then a.outcomeView else b.outcomeView := apply_ite ..

@[simp] theorem Dev.outcomeView_when (d : Dev) (c : Bool) (f : Dev → Dev) :
    (d.when c f).outcomeView = if c = true then (f d).outcomeView else d.outcomeView := apply_ite ..

/-- A fold leaves the outcomes alone where each of its steps does. -/
theorem Dev.outcomeView_each {α : Type} (l : List α) (f : α → Dev → Dev)
    (h : ∀ a d, (f a d).outcomeView = d.outcomeView) (d : Dev) : (d.each l f).outcomeView = d.outcomeView :=
  Dev.each_keeps Dev.outcomeView l f h d

/-! ### Parts of a retract -/

@[simp] theorem Dev.outcomeView_showGrpq (d : Dev) (g : Grp) : (d.showGrpq g).outcomeView = d.outcomeView :=
  Dev.outcomeView_of_retractView (d.retractView_showGrpq g)
@[simp] theorem Dev.outcomeView_abandon (d : Dev) (g : Grp) : (d.abandon g).outcomeView = d.outcomeView :=
  Dev.outcomeView_of_retractView (d.retractView_abandon g)
@[simp] theorem Dev.outcomeView_refreshInh (d : Dev) (g : Grp) : (d.refreshInh g).outcomeView = d.outcomeView :=
  Dev.outcomeView_of_retractView (d.retractView_refreshInh g)
@[simp] theorem Dev.outcomeView_safetyHeaters (d : Dev) (g : Grp) : (d.safetyHeaters g).outcomeView = d.outcomeView :=
  Dev.outcomeView_of_retractView (d.retractView_safetyHeaters g)
@[simp] theorem Dev.outcomeView_retractAll (d : Dev) (c : Nat) : (d.retractAll c).outcomeView = d.outcomeView :=
  Dev.outcomeView_of_retractView (d.retractView_retractAll c)

/-! ### Records and modes -/

/-- An operation that writes registers beside those of the view, and units beside those of the view. -/
theorem Dev.outcomeView_congr {keys : List Nat} {d t : Dev} (hk : ∀ k ∈ outcomeKeys, k ∉ keys)
    (hw : ∀ r i j, r.key ∉ keys → t.word r i j = d.word r i j) (hu : (t.lanes, t.outcomes, t.pwrfail, t.pwrfail && t.spn.pf) = (d.lanes, d.outcomes, d.pwrfail, d.pwrfail && d.spn.pf)) :
    t.outcomeView = d.outcomeView := Prod.ext (Dev.wordsOf_congr fun r i j hr => hw r i j (hk _ hr)) hu

@[simp] theorem Dev.outcomeView_record (d : Dev) (t : Nat) (p : List Byte) : (d.record t p).outcomeView = d.outcomeView :=
  Dev.outcomeView_congr (by decide) (Dev.word_record d t p)
    (congrArg (fun e => (e.lanes, e.outcomes, e.pwrfail, e.pwrfail && e.spn.pf)) (d.unlogged_record t p) :)

@[simp] theorem Dev.outcomeView_setMode (d : Dev) (m : Mode) : (d.setMode m).outcomeView = d.outcomeView :=
  Dev.outcomeView_congr (by decide) (Dev.word_setMode d m)
    (congrArg (fun e => (e.lanes, e.outcomes, e.pwrfail, e.pwrfail && e.spn.pf)) (d.outside_setMode m) :)

@[simp] theorem Dev.outcomeView_almAppend (d : Dev) (c : Bool) : (d.almAppend c).outcomeView = d.outcomeView := by
  simp (disch := decide) [Dev.almAppend, Dev.almTake, Dev.almStaged]

@[simp] theorem Dev.outcomeView_ksWrite (d : Dev) (k : Fin 64) (v : Word) : (d.ksWrite k v).outcomeView = d.outcomeView := by
  simp [Dev.ksWrite]

/-! ### Starts -/

@[simp] theorem Dev.outcomeView_spnIssue (d : Dev) (op : Nat) : (d.spnIssue op).outcomeView = d.outcomeView := by
  simp (disch := decide) [Dev.spnIssue]

@[simp] theorem Dev.outcomeView_issueStart (d : Dev) : d.issueStart.outcomeView = d.outcomeView := by
  unfold Dev.issueStart
  extract_lets aimed regen
  have haimed : aimed.outcomeView = d.outcomeView := d.outcomeView_set _ _ _ _ (by decide)
  split <;> simp [Dev.outcomeView_onSpn, haimed]

@[simp] theorem Dev.outcomeView_enterSpinUp (d : Dev) : d.enterSpinUp.outcomeView = d.outcomeView := by
  simp [Dev.enterSpinUp]

@[simp] theorem Dev.outcomeView_enterHeadLoad (d : Dev) : d.enterHeadLoad.outcomeView = d.outcomeView := by
  unfold Dev.enterHeadLoad Dev.loadAll
  rw [Dev.outcomeView_each _ _ fun _ _ => by simp]
  simp

@[simp] theorem Dev.outcomeView_warmReady (d : Dev) : d.warmReady.outcomeView = d.outcomeView := Dev.outcomeView_onSeq ..

@[simp] theorem Dev.outcomeView_spinParked (d : Dev) : d.spinParked.outcomeView = d.outcomeView := by
  simp [Dev.spinParked]

@[simp] theorem Dev.outcomeView_leaveFlush (d : Dev) : d.leaveFlush.outcomeView = d.outcomeView := by
  unfold Dev.leaveFlush
  split
  · rfl
  next hlow =>
    extract_lets released open_ run
    have hreleased : released.outcomeView = d.outcomeView := by
      refine Dev.outcomeView_of rfl ?_
      show (d.lanes, d.outcomes, d.pwrfail, d.pwrfail && false) = (d.lanes, d.outcomes, d.pwrfail, d.pwrfail && d.spn.pf)
      rw [Bool.eq_false_of_not_eq_true hlow, Bool.false_and, Bool.false_and]
    have hrun : run.outcomeView = released.outcomeView := by simp (disch := decide) [run, open_, Dev.runIsland]
    simp [hrun, hreleased]

/-! ### The flush -/

@[simp] theorem Dev.outcomeView_storeFlush (d : Dev) : d.storeFlush.outcomeView = d.outcomeView := by
  unfold Dev.storeFlush
  split
  · rfl
  · split
    · rfl
    · exact Dev.outcomeView_of rfl rfl

@[simp] theorem Dev.outcomeView_endFlush (d : Dev) : d.endFlush.outcomeView = d.outcomeView := by
  unfold Dev.endFlush
  dsimp only
  rw [Dev.outcomeView_each _ _ fun _ _ => by simp [Dev.outcomeView_onGrpq]]
  simp

@[simp] theorem Dev.outcomeView_afterPark (d : Dev) : d.afterPark.outcomeView = d.outcomeView := by
  unfold Dev.afterPark
  dsimp only
  split
  · simp
  · split <;> simp

@[simp] theorem Dev.outcomeView_addReq (d : Dev) (g : Grp) (r : Request) (w : Purpose) :
    (d.addReq g r w).outcomeView = d.outcomeView := by
  unfold Dev.addReq
  dsimp only
  split <;> simp [Dev.outcomeView_onGrpq]

@[simp] theorem Dev.outcomeView_layFlush (x : List (Grp × FlushExt)) (g : Grp) (d : Dev) :
    (Dev.layFlush x g d).outcomeView = d.outcomeView := by
  have hreqs : ∀ (d : Dev) (p w n m : Nat), (d.flushReqs g p w n m).outcomeView = d.outcomeView := fun d p w n m =>
    Dev.outcomeView_each _ _ (fun _ _ => Dev.outcomeView_addReq ..) d
  unfold Dev.layFlush
  split
  · rfl
  · rfl
  · simp only [hreqs]

@[simp] theorem Dev.outcomeView_enterCoastFlush (d : Dev) (fa : Bool) : (d.enterCoastFlush fa).outcomeView = d.outcomeView := by
  unfold Dev.enterCoastFlush
  split
  · exact Dev.outcomeView_onSeq ..
  extract_lets maker entered paused dropped exts gs shown epoch dealt written flushing
  have hpaused : paused.outcomeView = d.outcomeView := by simp (disch := decide) [paused, entered, Dev.stopIsland]
  have hdropped : dropped.outcomeView = paused.outcomeView := Dev.outcomeView_each _ _ (fun _ _ => by simp) _
  have hshown : shown.outcomeView = dropped.outcomeView := Dev.outcomeView_each _ _ (fun _ _ => by simp) _
  have hlaid : (flushing.each gs (Dev.layFlush dealt)).outcomeView = flushing.outcomeView :=
    Dev.outcomeView_each _ _ (fun _ _ => Dev.outcomeView_layFlush ..) _
  have hflushing : flushing.outcomeView = shown.outcomeView := by simp [flushing, written]
  simp [hlaid, hflushing, hshown, hdropped, hpaused]

/-! ### Reports -/

@[simp] theorem Dev.outcomeView_fatal (d : Dev) (r : FaultRec) : (d.fatal r).outcomeView = d.outcomeView := by
  unfold Dev.fatal
  extract_lets named recorded stopped raised
  have hrec : recorded.outcomeView = d.outcomeView := by simp (disch := decide) [recorded, named]
  have hstop : stopped.outcomeView = recorded.outcomeView :=
    Dev.outcomeView_each _ _ (fun _ _ => by simp (disch := decide)) _
  simp (disch := decide) [raised, hstop, hrec]

@[simp] theorem Dev.outcomeView_useInjection (d : Dev) (s : Nat) : (d.useInjection s).2.2.outcomeView = d.outcomeView := by
  unfold Dev.useInjection
  split
  · simp (disch := decide)
  · rfl

@[simp] theorem Dev.outcomeView_writeRec (d : Dev) (r : FaultRec) (b : Bool) : (d.writeRec r b).outcomeView = d.outcomeView := by
  simp (disch := decide) [Dev.writeRec]

@[simp] theorem Dev.outcomeView_fenceReport (d : Dev) (j : FenceJob) : (d.fenceReport j).outcomeView = d.outcomeView := by
  unfold Dev.fenceReport Dev.startFence
  split <;> simp (disch := decide)

/-- A report of a site beside the lanes' own, which set LANE_FAULT. -/
theorem Dev.outcomeView_report (d : Dev) (x : Report) (hx : 128 ≤ x.site) : (d.report x).outcomeView = d.outcomeView := by
  unfold Dev.report
  split
  · rfl
  extract_lets y site
  have hsite : ¬ y.site < 128 := by
    have hy : y.site = x.site := by
      simp only [y]
      split <;> rfl
    rw [hy]
    exact Nat.not_lt.mpr hx
  split
  rename_i inj sup d1 hu
  have h1 : d1.outcomeView = d.outcomeView := by simpa [hu] using d.outcomeView_useInjection y.site
  rw [if_neg hsite]
  extract_lets d2 lim n first esc act cls0 cls r dCe dEsc ce dFa dFaRec dUc r2
  have hCe : dCe.outcomeView = d1.outcomeView := by simp (disch := decide) [dCe, d2, Dev.setCeCount]
  have hEsc : dEsc.outcomeView = d1.outcomeView := by simp (disch := decide) [dEsc, d2, Dev.setCeCount]
  have hFa : dFaRec.outcomeView = dEsc.outcomeView := by simp (disch := decide) [dFaRec, dFa]
  have hUc : dUc.outcomeView = dEsc.outcomeView := by simp (disch := decide) [dUc]
  split
  · simp [hCe, h1]
  split
  · simp (disch := decide) [hFa, hEsc, h1]
  split
  extract_lets fences dFence
  have hFence : dFence.outcomeView = dUc.outcomeView := by simp (disch := decide) [dFence]
  split
  · split <;> simp [hFence, hUc, hEsc, h1]
  · simp [hUc, hEsc, h1]

end Sys2Proof.Machine
end

section
/-! SUPPORT. Head-load calibration excludes what it measures out of limits (R48, R50, R51, R596). -/

namespace Sys2Proof.Machine

/-! ### Commands of an island that runs -/

/-- A command of an island whose clock runs completes with what its meaning gives. -/
theorem completes_of_runIn {i : Instr} {s : State} {k : Nat} {f : Dev → Dev} {P : Dev → Prop} (hi : exec i s = s.runIn k f)
    (hc : s.dev.clocked k = true) (h : P (f s.dev)) : Completes i s P :=
  completes_of_run hi (by rw [if_pos hc]; exact h)

/-! ### Folds that establish a property -/

/-- A fold keeps a property that each of its steps keeps. -/
theorem Dev.each_inv {α : Type} {P : Dev → Prop} {f : α → Dev → Dev} (h : ∀ a d, P d → P (f a d)) (l : List α) {d : Dev}
    (hd : P d) : P (d.each l f) := by
  unfold Dev.each
  induction l generalizing d with
  | nil => exact hd
  | cons a t ih => exact ih (h a d hd)

/-- A fold reaches what the step of one of its members brings about and the others keep. -/
theorem Dev.each_reaches {α : Type} {I P : Dev → Prop} {f : α → Dev → Dev} {l : List α} {a : α} (ha : a ∈ l)
    (hI : ∀ b d, I d → I (f b d)) (hstep : ∀ d, I d → P (f a d)) (hP : ∀ b d, P d → P (f b d)) {d : Dev} (hd : I d) :
    P (d.each l f) := by
  obtain ⟨x, y, rfl⟩ := List.append_of_mem ha
  have hsplit : d.each (x ++ a :: y) f = (f a (d.each x f)).each y f := by
    unfold Dev.each
    rw [List.foldl_append, List.foldl_cons]
  rw [hsplit]
  exact Dev.each_inv hP y (hstep _ (Dev.each_inv hI x hd))

/-! ### What calibration writes -/

/-- The registers that a calibration writes. -/
def calibrationKeys : List Nat := WLS_LANE_OFS.key :: recordKeys

/-- Calibration may lead from d to t: the words, the flags of the sequencer and the media that it reads are the same, and no
excluded head has come back. -/
structure Dev.Calibrates (d t : Dev) : Prop where
  word : ∀ r i j, r.key ∉ calibrationKeys → t.word r i j = d.word r i j
  media : t.media = d.media
  cal : t.seq.cal = d.seq.cal
  recovered : t.seq.recovered = d.seq.recovered
  excluded : ∀ n, bit d.seq.excluded n = true → bit t.seq.excluded n = true

theorem Dev.Calibrates.rfl (d : Dev) : d.Calibrates d := ⟨fun _ _ _ _ => .refl _, .refl _, .refl _, .refl _, fun _ h => h⟩

theorem Dev.Calibrates.trans {d e t : Dev} (h : d.Calibrates e) (h' : e.Calibrates t) : d.Calibrates t :=
  ⟨fun r i j hr => (h'.word r i j hr).trans (h.word r i j hr), h'.media.trans h.media, h'.cal.trans h.cal,
    h'.recovered.trans h.recovered, fun n hn => h'.excluded n (h.excluded n hn)⟩

theorem Dev.Calibrates.get {d t : Dev} (h : d.Calibrates t) (f : Fld) (i j : Nat) (hf : f.reg.key ∉ calibrationKeys) :
    t.get f i j = d.get f i j := Dev.get_of_word (h.word f.reg i j hf)

theorem Dev.Calibrates.knownFailed {d t : Dev} (h : d.Calibrates t) (g : Grp) : t.knownFailed g = d.knownFailed g := by
  unfold Dev.knownFailed Dev.failedMask
  rw [h.get CBL_GRP.FAILED 0 g (by decide), h.media, h.recovered]

/-! ### The steps of a calibration -/

theorem Dev.seq_record (d : Dev) (t : Nat) (p : List Byte) : (d.record t p).seq = d.seq :=
  (congrArg Dev.seq (d.unlogged_record t p) :)

theorem Dev.record_calibrates (d : Dev) (t : Nat) (p : List Byte) : d.Calibrates (d.record t p) := by
  have hseq := d.seq_record t p
  exact ⟨fun r i j hr => Dev.word_record _ _ _ _ _ _ fun h => hr (List.mem_cons_of_mem _ h),
    (congrArg Dev.media (d.unlogged_record t p) :), by rw [hseq], by rw [hseq], fun n hn => by rwa [hseq]⟩

/-- A head is excluded. -/
theorem Dev.exclude_excludes (d : Dev) (g : Grp) (i : HeadIx) (r v n : Nat) :
    bit (d.exclude g i r v).seq.excluded n = (bit d.seq.excluded n || decide (n = laneOf g i)) := by
  unfold Dev.exclude Dev.event
  rw [Dev.seq_record]
  exact bit_or_shift _ _ _

theorem Dev.exclude_calibrates (d : Dev) (g : Grp) (i : HeadIx) (r v : Nat) : d.Calibrates (d.exclude g i r v) := by
  refine Dev.Calibrates.trans ?_ (Dev.record_calibrates _ _ _)
  exact ⟨fun _ _ _ _ => .refl _, .refl _, .refl _, .refl _, fun n hn =>
    (bit_or_shift d.seq.excluded _ n).trans (by rw [hn, Bool.true_or])⟩

/-- Excluding heads one by one. -/
theorem Dev.each_calibrates {α : Type} (f : α → Dev → Dev) (h : ∀ a (d : Dev), d.Calibrates (f a d)) (l : List α) (d : Dev) :
    d.Calibrates (d.each l f) :=
  Dev.each_inv (P := fun e => d.Calibrates e) (fun a _ he => he.trans (h a _)) l (.rfl d)

theorem Dev.setLaneOfs_calibrates (d : Dev) (g : Grp) (i : HeadIx) (x : Int) : d.Calibrates (d.setLaneOfs g i x) := by
  refine ⟨fun r i j hr => ?_, rfl, rfl, rfl, fun _ h => h⟩
  have hk : WLS_LANE_OFS.key ≠ r.key := fun e => hr (e ▸ List.mem_cons_self ..)
  exact (Dev.word_set_of_key _ _ _ _ _ _ _ _ hk).trans (Dev.word_set_of_key _ _ _ _ _ _ _ _ hk)

/-- The heads of a group that are calibrated. -/
def Dev.calibrated (d : Dev) (g : Grp) : List HeadIx :=
  (List.finRange 8).filter fun (i : HeadIx) => bit (d.get FMT_LANES.PRESENT g) i && !bit (d.knownFailed g) i

/-- The largest radial offset of a head. -/
def radialOf (radial : List (LaneId × Int)) (n : LaneId) : Nat := largest ((radial.filter fun p => p.1 == n).map Prod.snd)

/-- The heads whose radial offset is out of limits are excluded (R48). -/
def Dev.excludeRadial (d : Dev) (radial : List (LaneId × Int)) (g : Grp) : Dev :=
  d.each ((d.calibrated g).filter fun i => decide (3500 < radialOf radial (laneOf g i))) fun i d =>
    d.exclude g i 48 (radialOf radial (laneOf g i))

/-- Then those that give no mark (R50). -/
def Dev.excludeUnmarked (d : Dev) (radial : List (LaneId × Int)) (angular : List (LaneId × Nat × Option Int)) (g : Grp) : Dev :=
  (d.excludeRadial radial g).each ((d.calibrated g).filter fun i => (arrivalsOf angular (laneOf g i)).isEmpty) fun i d =>
    d.exclude g i 50 0xFFFF_FFFF

theorem Dev.excludeRadial_calibrates (d : Dev) (radial : List (LaneId × Int)) (g : Grp) :
    d.Calibrates (d.excludeRadial radial g) := Dev.each_calibrates _ (fun _ _ => Dev.exclude_calibrates ..) _ _

theorem Dev.excludeUnmarked_calibrates (d : Dev) (radial : List (LaneId × Int)) (angular : List (LaneId × Nat × Option Int))
    (g : Grp) : (d.excludeRadial radial g).Calibrates (d.excludeUnmarked radial angular g) :=
  Dev.each_calibrates _ (fun _ _ => Dev.exclude_calibrates ..) _ _

/-- What follows those two, against the reference head. -/
theorem Dev.calibrateGroup_calibrates (radial : List (LaneId × Int)) (angular : List (LaneId × Nat × Option Int)) (g : Grp)
    (d : Dev) : (d.excludeUnmarked radial angular g).Calibrates (Dev.calibrateGroup radial angular g d) := by
  unfold Dev.calibrateGroup
  extract_lets known mem at_ marked rad radialOut unmarkedOut
  split
  rename_i gone ref _
  extract_lets goneOut others
  have hgone : unmarkedOut.Calibrates goneOut := Dev.each_calibrates _ (fun _ _ => Dev.exclude_calibrates ..) _ _
  split
  · exact hgone
  · refine hgone.trans (Dev.each_calibrates _ (fun i e => ?_) _ _)
    extract_lets ofs aligned
    have haligned : e.Calibrates aligned := by
      simp only [aligned]
      split
      · exact (Dev.setLaneOfs_calibrates e g i _).trans ⟨fun _ _ _ _ => .refl _, .refl _, .refl _, .refl _, fun _ h => h⟩
      · exact .rfl e
    split
    · exact haligned.trans (Dev.exclude_calibrates ..)
    · exact haligned

/-! ### What is excluded -/

/-- The heads of a group that are excluded one by one are excluded. -/
theorem Dev.each_exclude {d : Dev} {g : Grp} {l : List HeadIx} {i : HeadIx} (hi : i ∈ l) (r : Nat) (v : HeadIx → Nat) :
    bit (d.each l fun i d => d.exclude g i r (v i)).seq.excluded (laneOf g i) = true := by
  refine Dev.each_reaches (I := fun _ => True) (P := fun e => bit e.seq.excluded (laneOf g i) = true) hi (fun _ _ _ => trivial)
    (fun e _ => ?_) (fun _ e he => ?_) trivial
  · rw [Dev.exclude_excludes, decide_eq_true rfl, Bool.or_true]
  · rw [Dev.exclude_excludes, he, Bool.true_or]

theorem le_largest {l : List Int} {x : Int} (hx : x ∈ l) : x.natAbs ≤ largest l := by
  have hfold : ∀ (l : List Int) (m : Nat), m ≤ l.foldl (fun m x => max m x.natAbs) m ∧
      ∀ x ∈ l, x.natAbs ≤ l.foldl (fun m x => max m x.natAbs) m := by
    intro l
    induction l with
    | nil => exact fun m => ⟨Nat.le_refl m, fun _ h => nomatch h⟩
    | cons y t ih =>
      intro m
      obtain ⟨hle, hall⟩ := ih (max m y.natAbs)
      refine ⟨Nat.le_trans (Nat.le_max_left ..) hle, fun x hx => ?_⟩
      rcases List.mem_cons.mp hx with rfl | hx
      · exact Nat.le_trans (Nat.le_max_right ..) hle
      · exact hall x hx
  exact (hfold l 0).2 x hx

theorem lt_radialOf {radial : List (LaneId × Int)} {n : LaneId} (h : ∃ p ∈ radial, p.1 = n ∧ 3500 < p.2.natAbs) :
    3500 < radialOf radial n := by
  obtain ⟨p, hp, hn, hlt⟩ := h
  refine Nat.lt_of_lt_of_le hlt (le_largest (List.mem_map_of_mem ?_))
  exact List.mem_filter.mpr ⟨hp, beq_iff_eq.mpr hn⟩

theorem arrivalsOf_isEmpty {angular : List (LaneId × Nat × Option Int)} {n : LaneId} (h : ∀ e ∈ angular, e.1 = n → e.2.2 = none) :
    (arrivalsOf angular n).isEmpty = true := by
  refine List.isEmpty_iff.mpr (List.filterMap_eq_nil_iff.mpr fun e he => ?_)
  split
  next hn => rw [h e he hn]; rfl
  next => rfl

/-- A head whose radial offset is out of limits, and one that gives no mark, are excluded when their group is calibrated. -/
theorem Dev.calibrateGroup_excludes {d : Dev} {g : Grp} {i : HeadIx} (hi : i ∈ d.calibrated g) (radial : List (LaneId × Int))
    (angular : List (LaneId × Nat × Option Int))
    (hout : (∃ p ∈ radial, p.1 = laneOf g i ∧ 3500 < p.2.natAbs) ∨ ∀ e ∈ angular, e.1 = laneOf g i → e.2.2 = none) :
    bit (Dev.calibrateGroup radial angular g d).seq.excluded (laneOf g i) = true := by
  refine (d.calibrateGroup_calibrates radial angular g).excluded _ ?_
  rcases hout with hrad | hang
  · refine (d.excludeUnmarked_calibrates radial angular g).excluded _ (Dev.each_exclude ?_ 48 _)
    exact List.mem_filter.mpr ⟨hi, decide_eq_true (lt_radialOf hrad)⟩
  · exact Dev.each_exclude (List.mem_filter.mpr ⟨hi, arrivalsOf_isEmpty hang⟩) 50 _

theorem Dev.Calibrates.calibrated {d t : Dev} (h : d.Calibrates t) (g : Grp) : t.calibrated g = d.calibrated g := by
  unfold Dev.calibrated
  rw [h.knownFailed, h.get FMT_LANES.PRESENT g 0 (by decide)]

theorem Dev.hasHead_laneOf (d : Dev) (g : Grp) (i : HeadIx) : d.hasHead (laneOf g i) = bit (d.get FMT_LANES.PRESENT g) i := by
  unfold Dev.hasHead
  have hdiv : (laneOf g i).val / 8 = g := by show (8 * g.val + i.val) / 8 = g; omega
  have hmod : (laneOf g i).val % 8 = i := by show (8 * g.val + i.val) % 8 = i; omega
  rw [hdiv, hmod]

theorem Dev.calibrateGroup_steps (radial : List (LaneId × Int)) (angular : List (LaneId × Nat × Option Int)) (g : Grp) (d : Dev) :
    d.Calibrates (Dev.calibrateGroup radial angular g d) :=
  ((d.excludeRadial_calibrates radial g).trans (d.excludeUnmarked_calibrates radial angular g)).trans
    (d.calibrateGroup_calibrates radial angular g)

/-- So they are where several groups are. -/
theorem Dev.each_calibrateGroup_excludes {d : Dev} {l : List Grp} {g : Grp} (hg : g ∈ l) {i : HeadIx} (hi : i ∈ d.calibrated g)
    (radial : List (LaneId × Int)) (angular : List (LaneId × Nat × Option Int))
    (hout : (∃ p ∈ radial, p.1 = laneOf g i ∧ 3500 < p.2.natAbs) ∨ ∀ e ∈ angular, e.1 = laneOf g i → e.2.2 = none) :
    bit (d.each l (Dev.calibrateGroup radial angular)).seq.excluded (laneOf g i) = true :=
  Dev.each_reaches (I := fun e => d.Calibrates e) (P := fun e => bit e.seq.excluded (laneOf g i) = true) hg
    (fun k e he => he.trans (Dev.calibrateGroup_steps radial angular k e))
    (fun _ he => Dev.calibrateGroup_excludes (he.calibrated g ▸ hi) radial angular hout)
    (fun k e he => (Dev.calibrateGroup_steps radial angular k e).excluded _ he) (.rfl d)

/-- The device as calibration starts. -/
def Dev.calibBegun (d : Dev) : Dev := d.onSeq fun s => { s with cal := true, excluded := 0 }

/-- The groups that are calibrated. -/
def Dev.loadedGroups (d : Dev) : List Grp := (List.finRange 4).filter fun (g : Grp) => d.hasHeads g && d.loaded g

theorem headLoadCalibration_completes {s : State} (radial : List (LaneId × Int)) (angular : List (LaneId × Nat × Option Int))
    (hc : s.dev.clocked 7 = true) (hload : s.dev.headLoads = true) (hl : s.dev.loading = false) (hcal : s.dev.seq.cal = false)
    {P : Dev → Prop}
    (hP : P (s.dev.calibBegun.each s.dev.calibBegun.loadedGroups (Dev.calibrateGroup radial angular))) :
    Completes (.headLoadCalibration radial angular) s P := by
  refine completes_of_runIn rfl hc ?_
  rw [if_neg (by rw [hload, hl, hcal]; decide)]
  exact hP

/-- Calibration has run, in the mode there was, and has excluded the heads out of limits and those without a mark. -/
theorem headLoadCalibration_excludes (s : State) (radial : List (LaneId × Int)) (angular : List (LaneId × Nat × Option Int))
    (hc : s.dev.clocked 7 = true) (hload : s.dev.headLoads = true) (hl : s.dev.loading = false) (hcal : s.dev.seq.cal = false) :
    Completes (.headLoadCalibration radial angular) s fun t => t.seq.cal = true ∧ t.mode = s.dev.mode ∧
      ∀ (g : Grp) (i : HeadIx), s.dev.hasHeads g = true → s.dev.loaded g = true → s.dev.hasHead (laneOf g i) = true →
        bit (s.dev.knownFailed g) i = false →
        ((∃ p ∈ radial, p.1 = laneOf g i ∧ 3500 < p.2.natAbs) → bit t.seq.excluded (laneOf g i) = true) ∧
        ((∀ e ∈ angular, e.1 = laneOf g i → e.2.2 = none) → bit t.seq.excluded (laneOf g i) = true) := by
  refine headLoadCalibration_completes radial angular hc hload hl hcal ?_
  have hall := Dev.each_calibrates _ (Dev.calibrateGroup_steps radial angular) s.dev.calibBegun.loadedGroups s.dev.calibBegun
  refine ⟨hall.cal.trans rfl, congrArg Mode.ofCode (hall.get SYS_MODE.MODE 0 0 (by decide)), fun g i hg hld hi hk => ?_⟩
  have hmem : i ∈ s.dev.calibBegun.calibrated g :=
    List.mem_filter.mpr ⟨List.mem_finRange i, Bool.and_eq_true_iff.mpr ⟨(s.dev.hasHead_laneOf g i).symm.trans hi, congrArg not hk⟩⟩
  have hgrp : g ∈ s.dev.calibBegun.loadedGroups :=
    List.mem_filter.mpr ⟨List.mem_finRange g, Bool.and_eq_true_iff.mpr ⟨hg, hld⟩⟩
  exact ⟨fun h => Dev.each_calibrateGroup_excludes hgrp hmem radial angular (.inl h),
    fun h => Dev.each_calibrateGroup_excludes hgrp hmem radial angular (.inr h)⟩

end Sys2Proof.Machine
end

section
/-! SUPPORT. The end of HEAD_LOAD, the retries of a start, the idle modes (R51, R596, R597, R600, R609, R610). -/

namespace Sys2Proof.Machine

/-! ### ACTIVE -/

theorem Dev.seq_setMode (d : Dev) (m : Mode) : (d.setMode m).seq = d.seq := (congrArg Dev.seq (d.outside_setMode m) :)

/-- With no glide and no spin-down held, ACTIVE is entered and nothing else begins. -/
theorem Dev.enterActive_eq {d : Dev} (hg : d.get SPN_STATUS.GLIDING = 0) (hh : d.seq.spinHeld = none) :
    d.enterActive = (d.setMode .active).onSeq fun s => { s with served := true } := by
  have hglide : d.on SPN_STATUS.GLIDING = false := by rw [Dev.on_eq, hg]; rfl
  unfold Dev.enterActive
  extract_lets entered served
  have hserved : served = (d.setMode .active).onSeq fun s => { s with served := true } := by
    simp only [served, entered, hglide, Bool.false_eq_true, if_false]
  have hheld : served.seq.spinHeld = none := by
    rw [hserved]
    exact (congrArg SeqSt.spinHeld (Dev.seq_setMode d .active)).trans hh
  rw [if_neg (by rw [hheld]; decide), hserved]

/-! ### The end of HEAD_LOAD -/

/-- HEAD_LOAD_END with no head excluded leaves HEAD_LOAD for ACTIVE, with rate matching and the cobbler enabled. -/
theorem headLoadEnd_activates (s : State) (hc : s.dev.clocked 7 = true) (hm : s.dev.mode = .headLoad)
    (hl : s.dev.loading = false) (hcal : s.dev.seq.cal = true) (hstep : s.dev.seq.step11 = true) (hex : s.dev.seq.excluded = 0)
    (hheld : s.dev.seq.spinHeld = none) (hglide : s.dev.get SPN_STATUS.GLIDING = 0) : Completes .headLoadEnd s fun t =>
      t.mode = .active ∧ t.get SYS_MODE.PREV = 5 ∧ t.get RMT_CTRL.EN = 1 ∧ t.get CBL_CTRL.EN = 1 ∧
      t.seq.loads = false ∧ t.band = s.dev.band := by
  have hload : s.dev.headLoads = true := by
    unfold Dev.headLoads
    rw [hm]
    rfl
  refine completes_of_runIn rfl hc ?_
  rw [if_neg (by rw [hload, hl, hcal, hstep]; decide)]
  extract_lets out lanes failed cleared
  have hnone : lanes = [] := by simp [lanes, out, hex, bit]
  have hcleared : cleared = s.dev.onSeq fun s => { s with excluded := 0, loads := false } := by
    simp only [cleared, failed, hnone, Dev.each, List.foldl_nil]
  rw [hcleared]
  have hsafe : ¬ ((s.dev.onSeq fun s => { s with excluded := 0, loads := false }).mode == .safe) = true := by
    show ¬ (s.dev.mode == .safe) = true
    rw [hm]
    decide
  rw [if_neg hsafe]
  generalize hd : ((s.dev.onSeq fun s => { s with excluded := 0, loads := false }).set RMT_CTRL.EN 1).set CBL_CTRL.EN 1 = d
  have hword (r : Reg) (hr : RMT_CTRL.key ≠ r.key) (hc : CBL_CTRL.key ≠ r.key) : d.word r = s.dev.word r := by
    subst hd
    exact (Dev.word_set_of_key _ _ _ _ _ _ _ _ hc).trans (Dev.word_set_of_key _ _ _ _ _ _ _ _ hr)
  have hmode : d.mode = .headLoad := (Dev.mode_of_word (hword SYS_MODE (by decide) (by decide))).trans hm
  have hseq : d.seq = { s.dev.seq with excluded := 0, loads := false } := by subst hd; rfl
  have hband : d.band = s.dev.band := by subst hd; rfl
  have hrmt : d.get RMT_CTRL.EN = 1 := by
    subst hd
    exact (Dev.get_set_of_key _ _ _ _ _ _ _ _ (by decide)).trans (Dev.get_set _ _ _ _ _ (by decide))
  have hcbl : d.get CBL_CTRL.EN = 1 := by
    subst hd
    exact Dev.get_set _ _ _ _ _ (by decide)
  rw [Dev.enterActive_eq ((Dev.get_of_word (hword SPN_STATUS (by decide) (by decide))).trans hglide) (by rw [hseq]; exact hheld)]
  refine ⟨Dev.mode_setMode d .active, ?_, ?_, ?_, ?_, (congrArg Dev.band (d.outside_setMode .active) :).trans hband⟩
  · exact (Dev.setMode_shows (by rw [hmode]; decide)).1.trans (by rw [hmode]; rfl)
  · exact (Dev.get_of_word (Dev.word_setMode d .active RMT_CTRL 0 0 (by decide))).trans hrmt
  · exact (Dev.get_of_word (Dev.word_setMode d .active CBL_CTRL 0 0 (by decide))).trans hcbl
  · show (d.setMode .active).seq.loads = false
    rw [Dev.seq_setMode, hseq]

/-! ### Starts -/

/-- A start that nothing holds back goes out with the target of R311. -/
theorem Dev.issueStart_shows {d : Dev} (hpf : d.spn.pf = false)
    (hregen : ¬ (d.get SPN_STATUS.STATE = 11 ∧ d.get SPN_STOP_STATUS.PHASE = 2)) :
    d.issueStart.get SPN_CMD.GO = 1 ∧ d.issueStart.get SPN_CMD.OP = 0 ∧
      d.issueStart.get SPN_TARGET.TARGET = d.startTarget % 2 ^ 18 := by
  unfold Dev.issueStart
  extract_lets aimed regen
  have hstate (f : Fld) (hf : SPN_TARGET.key ≠ f.reg.key) : aimed.get f = d.get f := Dev.get_set_of_key _ _ _ _ _ _ _ _ hf
  have hfree : ¬ (aimed.spn.pf = true ∨ regen) := by
    simp only [regen, hstate SPN_STATUS.STATE (by decide), hstate SPN_STOP_STATUS.PHASE (by decide)]
    show ¬ (d.spn.pf = true ∨ _)
    simp [hpf, hregen]
  rw [if_neg hfree]
  refine ⟨Dev.get_set _ _ _ _ _ (by decide), ?_, ?_⟩
  · exact (Dev.get_set_beside _ SPN_CMD 31 1 0 2 _ _ _ (by decide)).trans (Dev.get_set _ _ _ _ _ (by decide))
  · exact (Dev.get_set_of_key _ _ _ _ _ _ _ _ (by decide)).trans ((Dev.get_set_of_key _ _ _ _ _ _ _ _ (by decide)).trans
      (Dev.get_set d SPN_TARGET.TARGET _ 0 0 (by decide)))

/-- START_RETRY and SPIN_UP_TIMEOUT, while a start runs. -/
theorem startRetry_spinUpTimeout (s : State) (hc : s.dev.clocked 7 = true) (hr : s.dev.startRuns = true) :
    (s.dev.spnState = spFault → s.dev.spn.pf = false → Completes .startRetry s fun t => t.get SPN_CMD.GO = 1 ∧
      t.get SPN_CMD.OP = 0 ∧ t.get SPN_TARGET.TARGET = s.dev.startTarget % 2 ^ 18 ∧ t.mode = s.dev.mode) ∧
    (s.dev.get SPN_STATUS.REGULATED = 0 → Completes .spinUpTimeout s fun t =>
      t.mode = .safe ∧ t.get SYS_MODE.SAFE_CAUSE = 6 ∧ t.seq.safeStart = 0) ∧
    (s.dev.get SPN_STATUS.REGULATED = 1 → Completes .spinUpTimeout s fun t => t = s.dev) := by
  refine ⟨fun hf hpf => ?_, fun h0 => ?_, fun h1 => ?_⟩
  · refine completes_of_runIn rfl hc ?_
    rw [if_pos (by rw [hr, hf]; decide)]
    have hstop : s.dev.get SPN_STATUS.STATE ≠ 11 := by
      show s.dev.spnState ≠ 11
      rw [hf]
      decide
    obtain ⟨hgo, hop, ht⟩ := Dev.issueStart_shows hpf fun h => hstop h.1
    exact ⟨hgo, hop, ht, Dev.mode_of_word (Dev.word_issueStart_mode _)⟩
  · refine completes_of_runIn rfl hc ?_
    rw [if_pos (by rw [hr, Dev.on_eq, h0]; decide)]
    obtain ⟨hmode, hcause⟩ := s.dev.enterSafe_shows (c := 6) (by decide)
    exact ⟨hmode, hcause, Dev.when_keeps (fun d => d.seq.safeStart) _ (·.raise SYS_INT_STATUS.SAFE) rfl⟩
  · refine completes_of_runIn rfl hc ?_
    rw [if_neg (by rw [hr, Dev.on_eq, h1]; decide)]

/-! ### Idle modes -/

/-- An island that the mode sequencer stops is not up. -/
theorem Dev.islandUp_stopIsland (d : Dev) {i : Nat} (h1 : 1 ≤ i) (h : i ≤ 22) : (d.stopIsland i).islandUp i = false := by
  unfold Dev.islandUp
  rw [d.bit_run_stopIsland i ⟨i - 1, by omega⟩, decide_eq_false (fun h => h rfl), Bool.and_false, Bool.and_false]

/-- An island that is not up stays so while islands stop. -/
theorem Dev.islandUp_stopIsland_of_down (d : Dev) (k : Nat) {i : Nat} (h1 : 1 ≤ i) (h : i ≤ 22) (hd : d.islandUp i = false) :
    (d.stopIsland k).islandUp i = false := by
  have hen : (d.stopIsland k).word SYS_ISLAND_EN = d.word SYS_ISLAND_EN := Dev.word_set_of_key _ _ _ _ _ _ _ _ (by decide)
  unfold Dev.islandUp at hd ⊢
  rw [d.bit_run_stopIsland k ⟨i - 1, by omega⟩, hen, ← Bool.and_assoc, hd, Bool.false_and]

/-- The islands that are stopped are not up. -/
theorem Dev.islandUp_each_stopIsland (d : Dev) {l : List Nat} {i : Nat} (hi : i ∈ l) (h1 : 1 ≤ i) (h : i ≤ 22) :
    (d.each l fun i d => d.stopIsland i).islandUp i = false :=
  Dev.each_reaches (f := fun i d => d.stopIsland i) (I := fun _ => True) (P := fun d => d.islandUp i = false) hi (fun _ _ _ => trivial)
    (fun d _ => d.islandUp_stopIsland h1 h) (fun k d hd => d.islandUp_stopIsland_of_down k h1 h hd) trivial

/-- An idle mode is entered with its power state, its time, and its islands stopped. -/
theorem Dev.enterIdle_shows (d : Dev) (m : Mode) {ps : Nat} (hps : ps < 16) :
    (d.enterIdle m ps).mode = m ∧ (d.enterIdle m ps).get SYS_MODE.PS = ps ∧ (d.enterIdle m ps).seq.deepAt = d.now ∧
      ∀ i ∈ idleIslands m, (d.enterIdle m ps).islandUp i = false := by
  unfold Dev.enterIdle
  extract_lets held entered
  have hword : (entered.each (idleIslands m) fun i d => d.stopIsland i).word SYS_MODE = ((held.setMode m).set SYS_MODE.PS ps).word SYS_MODE :=
    (Dev.word_each _ _ _ _ _ (fun _ _ => Dev.word_set_of_key _ _ _ _ _ _ _ _ (by decide)) _).trans rfl
  have hbeside : ((held.setMode m).set SYS_MODE.PS ps).mode = (held.setMode m).mode :=
    congrArg Mode.ofCode (Dev.get_set_beside _ SYS_MODE 20 4 0 4 _ _ _ (by decide))
  refine ⟨(Dev.mode_of_word hword).trans (hbeside.trans (Dev.mode_setMode _ _)), ?_, ?_, fun i hi => ?_⟩
  · exact (Dev.get_of_word hword).trans ((Dev.get_set _ _ _ _ _ (by decide)).trans (Nat.mod_eq_of_lt hps))
  · exact (Dev.each_keeps (fun d => d.seq.deepAt) _ (fun i d => d.stopIsland i) (fun _ _ => rfl) _).trans rfl
  · have hrange : 1 ≤ i ∧ i ≤ 22 := by
      cases m <;> simp [idleIslands] at hi <;> omega
    exact Dev.islandUp_each_stopIsland _ hi hrange.1 hrange.2

/-- IDLE_TIMER goes on to the idle mode of the APST entry. -/
theorem idleTimer_idles (s : State) (ms : Nat) (hc : s.dev.clocked 7 = true) (hi : s.dev.idleCounts = true)
    (hf : featAt s.dev.hst.feats 0x0C 1 = 1) (hms : ms ≠ 0) :
    (s.dev.hst.apst[s.dev.get SYS_MODE.PS]? = some (3, ms) → s.dev.mode = .active → Completes .idleTimer s fun t =>
      t.mode = .lightIdle ∧ t.get SYS_MODE.PS = 3 ∧ t.islandUp 19 = false) ∧
    (s.dev.hst.apst[s.dev.get SYS_MODE.PS]? = some (4, ms) → Completes .idleTimer s fun t =>
      t.mode = .deepIdle ∧ t.get SYS_MODE.PS = 4 ∧ t.seq.deepAt = s.dev.now ∧
      ∀ i ∈ [5, 6, 18, 19, 20], t.islandUp i = false) := by
  have hgoes : ¬ (!s.dev.idleCounts || featAt s.dev.hst.feats 0x0C 1 != 1 || ms == 0) = true := by
    rw [hi, hf, beq_eq_false_iff_ne.mpr hms]
    decide
  constructor
  · intro ha hm
    refine completes_of_runIn rfl hc ?_
    obtain ⟨hmode, hps, -, hdown⟩ := s.dev.enterIdle_shows .lightIdle (ps := 3) (by decide)
    simp only [ha]
    rw [if_neg hgoes, if_pos ⟨trivial, hm⟩]
    exact ⟨hmode, hps, hdown 19 (by decide)⟩
  · intro ha
    refine completes_of_runIn rfl hc ?_
    simp only [ha]
    rw [if_neg hgoes, if_neg (fun h => absurd h.1 (by decide)), if_pos trivial]
    exact s.dev.enterIdle_shows .deepIdle (by decide)

theorem Dev.seq_runIsland (d : Dev) (i : Nat) : (d.runIsland i).seq = d.seq := by
  unfold Dev.runIsland
  split <;> rfl

theorem Dev.word_runIsland (d : Dev) (k : Nat) (r : Reg) (i j : Nat) (h : SYS_ISLAND_STATUS.key ≠ r.key) :
    (d.runIsland k).word r i j = d.word r i j := by
  unfold Dev.runIsland
  split
  · exact Dev.word_set_of_key _ _ _ _ _ _ _ _ h
  · rfl

/-- A mode change leaves the power state alone. -/
theorem Dev.setMode_ps (d : Dev) (m : Mode) : (d.setMode m).get SYS_MODE.PS = d.get SYS_MODE.PS := by
  by_cases h : d.mode = m
  · rw [Dev.setMode_self h]
  · have hbeside (e : Dev) (lo v : Nat) (hlo : lo + 4 ≤ 20) : (e.set ⟨SYS_MODE, lo, 4⟩ v).get SYS_MODE.PS = e.get SYS_MODE.PS :=
      Dev.get_set_beside e SYS_MODE lo 4 20 4 v 0 0 ⟨by omega, by decide, .inr hlo⟩
    have hcause (e : Dev) : (e.when (m != .safe) (·.set SYS_MODE.SAFE_CAUSE 0)).get SYS_MODE.PS = e.get SYS_MODE.PS :=
      Dev.when_keeps (fun d => d.get SYS_MODE.PS) _ _ (hbeside e 8 0 (by decide))
    rw [Dev.setMode_of_ne h]
    refine (Dev.get_set_of_key _ _ _ _ _ _ _ _ (by decide)).trans ((hcause _).trans ?_)
    refine (hbeside _ 0 _ (by decide)).trans ((hbeside _ 4 _ (by decide)).trans ?_)
    exact Dev.get_of_word (Dev.word_leaveMode d SYS_MODE 0 0 (by decide) (by decide) (by decide))

/-- The end of an idle mode, where no glide runs and no spin-down is held. -/
theorem Dev.idleExit_shows {d : Dev} (hm : d.mode = .lightIdle ∨ d.mode = .deepIdle) (hheld : d.seq.spinHeld = none)
    (hglide : d.get SPN_STATUS.GLIDING = 0) (hps : d.seq.opPs ≤ 2) :
    d.idleExit.seq = { d.seq with served := true } ∧ d.idleExit.mode = .active ∧ d.idleExit.get SYS_MODE.PS = d.seq.opPs ∧
      d.idleExit.get SYS_INT_STATUS.IDLE_EXIT = 1 := by
  have hin : ¬ (!d.inMode [.lightIdle, .deepIdle]) = true := by
    unfold Dev.inMode
    rcases hm with h | h <;> (rw [h]; decide)
  unfold Dev.idleExit
  rw [if_neg hin]
  extract_lets out lapped run
  have hseq : run.seq = d.seq := Dev.each_keeps Dev.seq _ (fun i d => d.runIsland i) (fun i d => d.seq_runIsland i) _
  have hword (r : Reg) (h : SYS_ISLAND_STATUS.key ≠ r.key) : run.word r = d.word r :=
    (Dev.word_each _ _ _ _ _ (fun i d => d.word_runIsland i r 0 0 h) lapped).trans (Dev.word_of_regs rfl _ _ _)
  generalize hx : (run.set SYS_MODE.PS run.seq.opPs).raise SYS_INT_STATUS.IDLE_EXIT = x
  have hxseq : x.seq = d.seq := by subst hx; exact hseq
  have hps' : x.get SYS_MODE.PS = d.seq.opPs := by
    subst hx
    refine (Dev.get_set_of_key _ _ _ _ _ _ _ _ (by decide)).trans ((Dev.get_set _ _ _ _ _ (by decide)).trans ?_)
    rw [hseq]
    exact Nat.mod_eq_of_lt (Nat.lt_of_le_of_lt hps (by decide))
  have hxglide : x.get SPN_STATUS.GLIDING = 0 := by
    subst hx
    refine (Dev.get_set_of_key _ _ _ _ _ _ _ _ (by decide)).trans ((Dev.get_set_of_key _ _ _ _ _ _ _ _ (by decide)).trans ?_)
    exact (Dev.get_of_word (hword SPN_STATUS (by decide))).trans hglide
  have hexit : x.get SYS_INT_STATUS.IDLE_EXIT = 1 := by
    subst hx
    exact Dev.get_set _ _ _ _ _ (by decide)
  rw [Dev.enterActive_eq hxglide (by rw [hxseq]; exact hheld)]
  refine ⟨?_, Dev.mode_setMode x .active, (Dev.setMode_ps x .active).trans hps', ?_⟩
  · show { (x.setMode .active).seq with served := true } = _
    rw [Dev.seq_setMode, hxseq]
  · exact (Dev.setMode_status x .active _ 1 (by decide) (by decide)).trans hexit

/-- PATROL_DUE is kept, and ends an idle mode. -/
theorem patrolDue_wakes (s : State) (hc : s.dev.clocked 7 = true) (hen : s.dev.get CBL_CTRL.PATROL_EN = 1) :
    (s.dev.mode = .active → Completes .patrolDue s fun t => t.seq.patrolDue = true ∧ t.mode = .active) ∧
    (s.dev.mode = .lightIdle ∨ s.dev.mode = .deepIdle → s.dev.seq.spinHeld = none → s.dev.get SPN_STATUS.GLIDING = 0 →
      s.dev.seq.opPs ≤ 2 → Completes .patrolDue s fun t => t.seq.patrolDue = true ∧ t.mode = .active ∧
        t.get SYS_MODE.PS = s.dev.seq.opPs ∧ t.get SYS_INT_STATUS.IDLE_EXIT = 1) := by
  have hon : s.dev.on CBL_CTRL.PATROL_EN = true := by
    rw [Dev.on_eq, hen]
    rfl
  constructor
  · intro hm
    refine completes_of_runIn rfl hc ?_
    have hout : (!(s.dev.onSeq fun s => { s with patrolDue := true }).inMode [.lightIdle, .deepIdle]) = true := by
      show (!s.dev.inMode [.lightIdle, .deepIdle]) = true
      unfold Dev.inMode
      rw [hm]
      decide
    have hstay : (s.dev.onSeq fun s => { s with patrolDue := true }).idleExit = s.dev.onSeq fun s => { s with patrolDue := true } := by
      unfold Dev.idleExit
      exact if_pos hout
    rw [if_pos hon, hstay]
    exact ⟨rfl, hm⟩
  · intro hm hheld hglide hps
    refine completes_of_runIn rfl hc ?_
    rw [if_pos hon]
    obtain ⟨hseq, hmode, hpower, hexit⟩ :=
      Dev.idleExit_shows (d := s.dev.onSeq fun s => { s with patrolDue := true }) hm hheld hglide hps
    exact ⟨congrArg SeqSt.patrolDue hseq, hmode, hpower, hexit⟩

end Sys2Proof.Machine
end

section
/-! SUPPORT. Thermal throttling (R608, R625). -/

namespace Sys2Proof.Machine

/-! ### Ways that follow the power state -/

/-- The registers that the ways' following a power state writes. -/
def wayKeys : List Nat := [CCH_WAY_CTRL.key, CCH_WAY_STATUS.key, CCH_STATUS.key]

theorem Dev.word_setWay (d : Dev) (w st : Nat) (r : Reg) (i j : Nat) (h : r.key ∉ wayKeys) :
    (d.setWay w st).word r i j = d.word r i j := by
  simp only [wayKeys, List.mem_cons, List.not_mem_nil, or_false, not_or] at h
  exact Dev.word_set_of_key _ _ _ _ _ _ _ _ (Ne.symm h.2.1)

theorem Dev.word_showDirty (d : Dev) (r : Reg) (i j : Nat) (h : CCH_STATUS.key ≠ r.key) :
    d.showDirty.word r i j = d.word r i j :=
  (Dev.word_set_of_key _ _ _ _ _ _ _ _ h).trans (Dev.word_set_of_key _ _ _ _ _ _ _ _ h)

theorem Dev.word_cleanWay (d : Dev) (w : Nat) (r : Reg) (i j : Nat) (h : CCH_STATUS.key ≠ r.key) :
    (d.cleanWay w).word r i j = d.word r i j := by
  refine Dev.word_each _ _ r i j (fun l d => ?_) d
  have hclean : (d.cleanLine l.line).word r i j = d.word r i j := by
    unfold Dev.cleanLine
    split
    · rfl
    · exact (Dev.word_showDirty _ _ _ _ h).trans rfl
  exact ((Dev.word_showDirty _ _ _ _ h).trans rfl).trans hclean

/-- Ways go off and come back in the cache's registers alone. -/
theorem Dev.word_followWays (d : Dev) (r : Reg) (i j : Nat) (h : r.key ∉ wayKeys) : d.followWays.word r i j = d.word r i j := by
  obtain ⟨hoff, -, hdirty⟩ : CCH_WAY_CTRL.key ≠ r.key ∧ CCH_WAY_STATUS.key ≠ r.key ∧ CCH_STATUS.key ≠ r.key := by
    simpa [wayKeys, eq_comm] using h
  unfold Dev.followWays
  split
  · dsimp only
    split
    · rfl
    · rw [Dev.word_each _ _ _ _ _ fun w d => Dev.word_setWay d w 1 r i j h]
      exact Dev.word_set_of_key _ _ _ _ _ _ _ _ hoff
  · dsimp only
    rw [Dev.word_each _ _ _ _ _ fun w d => (Dev.word_setWay _ w 0 r i j h).trans (Dev.word_cleanWay d w r i j hdirty)]
    exact Dev.word_set_of_key _ _ _ _ _ _ _ _ hoff

/-! ### A reading of the sensors -/

theorem sext_twos {x : Int} (hlo : -2048 ≤ x) (hhi : x < 2048) : sext 12 (twos 12 x) = x := by
  have hv : twos 12 x < 4096 := by unfold twos; omega
  have hbit : (twos 12 x).testBit 11 = decide (2048 ≤ twos 12 x) := by
    rw [Nat.testBit_eq_decide_div_mod_eq]
    exact decide_eq_decide.mpr ⟨fun h => by omega, fun h => by omega⟩
  unfold sext
  rw [Nat.mod_eq_of_lt (show twos 12 x < 2 ^ 12 from hv)]
  show (if (twos 12 x).testBit 11 = true then ((twos 12 x : Nat) : Int) - 2 ^ 12 else ((twos 12 x : Nat) : Int)) = x
  rw [hbit]
  unfold twos
  split
  next h =>
    have := of_decide_eq_true h
    omega
  next h =>
    have := of_decide_eq_false (Bool.eq_false_iff.mpr h)
    omega

/-- A field of one bit that is on is 1. -/
theorem Dev.get_of_on {d : Dev} {f : Fld} (h : d.on f = true) (hw : f.width = 1) : d.get f = 1 := by
  have hlt : d.get f < 2 := by
    unfold Dev.get Fld.of
    rw [hw]
    exact BitVec.isLt _
  have hne : d.get f ≠ 0 := by simpa [Dev.on_eq] using h
  omega

/-- A reading shows in TJ and SENSOR, and leaves THROTTLE alone. -/
theorem Dev.temperature_shows (d : Dev) (q : Int) (k : Nat) :
    (d.temperature q k).get SYS_TEMP.TJ = twos 12 q % 4096 ∧ (d.temperature q k).get SYS_TEMP.SENSOR = k % 16 ∧
      (d.temperature q k).get SYS_TEMP.THROTTLE = d.get SYS_TEMP.THROTTLE := by
  have hmax (e : Dev) (c : Prop) [Decidable c] (v lo w : Nat) (h : lo + w ≤ 32 ∧ (lo + w ≤ 16 ∨ 24 ≤ lo)) :
      (if c then e.set SYS_TEMP.MAX_SEEN v else e).get ⟨SYS_TEMP, lo, w⟩ = e.get ⟨SYS_TEMP, lo, w⟩ := by
    split
    · exact Dev.get_set_beside e SYS_TEMP 16 8 lo w v 0 0 ⟨by decide, h.1, by omega⟩
    · rfl
  refine ⟨(hmax _ _ _ 0 12 (by decide)).trans ?_, (hmax _ _ _ 12 4 (by decide)).trans (Dev.get_set _ _ _ _ _ (by decide)),
    (hmax _ _ _ 31 1 (by decide)).trans ?_⟩
  · exact (Dev.get_set_beside _ SYS_TEMP 12 4 0 12 _ _ _ (by decide)).trans (Dev.get_set _ _ _ _ _ (by decide))
  · exact (Dev.get_set_beside _ SYS_TEMP 12 4 31 1 _ _ _ (by decide)).trans (Dev.get_set_beside _ SYS_TEMP 0 12 31 1 _ _ _ (by decide))

/-- THROTTLE leaves the reading alone. -/
theorem Dev.get_set_throttle (d : Dev) (v lo w : Nat) (h : lo + w ≤ 31) :
    (d.set SYS_TEMP.THROTTLE v).get ⟨SYS_TEMP, lo, w⟩ = d.get ⟨SYS_TEMP, lo, w⟩ :=
  Dev.get_set_beside d SYS_TEMP 31 1 lo w v 0 0 ⟨by decide, by omega, .inl h⟩

/-- THERMAL_THROTTLE and THROTTLE_RELEASE. -/
theorem thermalThrottle_throttleRelease (s : State) (q : Int) (k : Fin 16) (hlo : -2048 ≤ q) (hhi : q < 2048) (hot : Int)
    (hhot : hot = Config.tjMax) :
    (4 * (hot - 3) ≤ q → q < 4 * (hot + 10) → Completes (.thermalThrottle q k) s fun t =>
      t.get SYS_TEMP.THROTTLE = 1 ∧ sext 12 (t.get SYS_TEMP.TJ) = q ∧ t.get SYS_TEMP.SENSOR = k) ∧
    (q < 4 * (hot - 3) → Completes (.thermalThrottle q k) s fun t =>
      t.get SYS_TEMP.THROTTLE = s.dev.get SYS_TEMP.THROTTLE ∧ sext 12 (t.get SYS_TEMP.TJ) = q) ∧
    (q < 4 * (hot - 6) → Completes (.throttleRelease q k) s fun t =>
      t.get SYS_TEMP.THROTTLE = 0 ∧ sext 12 (t.get SYS_TEMP.TJ) = q) ∧
    (4 * (hot - 6) ≤ q → Completes (.throttleRelease q k) s fun t =>
      t.get SYS_TEMP.THROTTLE = s.dev.get SYS_TEMP.THROTTLE) := by
  obtain ⟨htj, hsensor, hthrottle⟩ := s.dev.temperature_shows q k
  have hread : sext 12 ((s.dev.temperature q k).get SYS_TEMP.TJ) = q := by
    rw [htj, Nat.mod_eq_of_lt (by unfold twos; omega), sext_twos hlo hhi]
  rw [Nat.mod_eq_of_lt k.isLt] at hsensor
  have hfollow (d : Dev) (lo w : Nat) : d.followWays.get ⟨SYS_TEMP, lo, w⟩ = d.get ⟨SYS_TEMP, lo, w⟩ :=
    Dev.get_of_word (Dev.word_followWays d SYS_TEMP 0 0 (by decide))
  have hevent (d : Dev) (c n : Nat) (l : List Nat) (lo w : Nat) : (d.event c n l).get ⟨SYS_TEMP, lo, w⟩ = d.get ⟨SYS_TEMP, lo, w⟩ :=
    Dev.get_of_word (Dev.word_record d _ _ SYS_TEMP 0 0 (by decide))
  have hset (v lo w : Nat) (h : lo + w ≤ 31) : (((s.dev.temperature q k).set SYS_TEMP.THROTTLE v).followWays).get ⟨SYS_TEMP, lo, w⟩ =
      (s.dev.temperature q k).get ⟨SYS_TEMP, lo, w⟩ := (hfollow _ _ _).trans (Dev.get_set_throttle _ _ _ _ h)
  refine ⟨fun hge hlt => completes_of_run rfl ?_, fun hlt => completes_of_run rfl ?_, fun hlt => completes_of_run rfl ?_,
    fun hge => completes_of_run rfl ?_⟩
  · rw [← hhot, if_neg (show ¬ 4 * (hot + 10) ≤ q by omega)]
    split
    next h =>
      refine ⟨(hevent ..).trans ((hfollow _ _ _).trans (Dev.get_set _ _ _ _ _ (by decide))), ?_, ?_⟩
      · exact (congrArg _ ((hevent ..).trans (hset 1 0 12 (by decide)))).trans hread
      · exact ((hevent ..).trans (hset 1 12 4 (by decide))).trans hsensor
    next h =>
      have hon : (s.dev.temperature q k).on SYS_TEMP.THROTTLE = true := by
        by_contra hoff
        exact h ⟨hge, by rw [Bool.eq_false_of_not_eq_true hoff]; rfl⟩
      exact ⟨Dev.get_of_on hon (by decide), hread, hsensor⟩
  · rw [← hhot, if_neg (show ¬ 4 * (hot + 10) ≤ q by omega), if_neg (fun h => absurd h.1 (by omega))]
    exact ⟨hthrottle, hread⟩
  · rw [← hhot, if_pos hlt]
    exact ⟨(hfollow _ _ _).trans (Dev.get_set _ _ _ _ _ (by decide)), (congrArg _ (hset 0 0 12 (by decide))).trans hread⟩
  · rw [← hhot, if_neg (by omega)]
    exact hthrottle

end Sys2Proof.Machine
end

section
/-! SUPPORT. The ends of a stop, of a power loss and of a flush (R310, R320, R324, R325, R328). -/

namespace Sys2Proof.Machine

/-! ### The spindle's states -/

@[simp] theorem Dev.outcomeView_unregulate (d : Dev) : d.unregulate.outcomeView = d.outcomeView := by
  unfold Dev.unregulate
  extract_lets cleared
  have hcleared : cleared.outcomeView = d.outcomeView := Dev.outcomeView_onSpn _ _ fun _ => rfl
  split <;> simp (disch := decide) [hcleared]

@[simp] theorem Dev.outcomeView_resource (d : Dev) : d.resource.outcomeView = d.outcomeView := by
  unfold Dev.resource
  split
  split
  · rfl
  · refine (Dev.outcomeView_onSpn _ _ fun _ => rfl).trans ?_
    simp (disch := decide)

@[simp] theorem Dev.outcomeView_spnEnter (d : Dev) (st : Nat) : (d.spnEnter st).outcomeView = d.outcomeView := by
  unfold Dev.spnEnter
  extract_lets entered began
  have hentered : entered.outcomeView = d.outcomeView := by
    refine (Dev.outcomeView_resource _).trans ((Dev.outcomeView_onSpn _ _ fun _ => rfl).trans ?_)
    simp (disch := decide)
  have hbegan : began.outcomeView = d.outcomeView := by
    simp only [began]
    split
    · refine (Dev.outcomeView_onSpn _ _ fun _ => rfl).trans ?_
      simp (disch := decide) [hentered]
    · exact hentered
  split
  · exact (Dev.outcomeView_onSpn _ _ fun _ => rfl).trans hbegan
  · exact hbegan

@[simp] theorem Dev.outcomeView_regenOver (d : Dev) : d.regenOver.outcomeView = d.outcomeView := by
  unfold Dev.regenOver Dev.spnCoast
  dsimp only
  split <;> simp (disch := decide)

@[simp] theorem Dev.outcomeView_glide (d : Dev) : d.glide.outcomeView = d.outcomeView := by
  unfold Dev.glide Dev.followGlide
  extract_lets drives now was kept risen shown
  have hkept : kept.outcomeView = d.outcomeView := Dev.outcomeView_onSpn _ _ fun _ => rfl
  have hshown : shown.outcomeView = d.outcomeView := by
    simp only [shown]
    split
    · simp (disch := decide) [hkept]
    · split <;> simp (disch := decide) [risen, hkept]
  split
  · simp [hshown]
  · split <;> simp [hshown]

@[simp] theorem Dev.outcomeView_modeRetract (d : Dev) (c : Nat) (m : Bool) : (d.modeRetract c m).outcomeView = d.outcomeView := by
  simp [Dev.modeRetract]

@[simp] theorem Dev.outcomeView_powerLost (d : Dev) : d.powerLost.outcomeView = d.outcomeView := by
  unfold Dev.powerLost
  split
  · rw [Dev.outcomeView_enterCoastFlush]
    exact Dev.outcomeView_each _ _ (fun _ _ => Dev.outcomeView_safetyHeaters ..) d
  · exact Dev.outcomeView_modeRetract ..

/-! ### A power loss -/

/-- A power loss that is detected is recorded; while PWRFAIL_L is low it stays latched. -/
theorem Dev.losePower_shows {d : Dev} (hpf : d.spn.pf = false) (link : Bool) :
    (d.losePower link).get SPN_PF_INFO.VALID = 1 ∧ (d.pwrfail = true → (d.losePower link).spn.pf = true) := by
  unfold Dev.losePower
  rw [if_neg (by rw [hpf]; decide)]
  extract_lets raised st latched regen v noted stamped braked turned shown
  have hbraked : braked.outcomeView = stamped.outcomeView := by simp (disch := decide) [braked]
  have hturned : turned.outcomeView = stamped.outcomeView := by
    simp only [turned]
    split
    · rw [Dev.outcomeView_glide]
      split
      · rw [Dev.outcomeView_regenOver, hbraked]
      · exact hbraked
    · rfl
  have hshown : shown.outcomeView = turned.outcomeView := Dev.outcomeView_each _ _ (fun _ _ => Dev.outcomeView_refreshInh ..) _
  have hview : shown.powerLost.outcomeView = stamped.outcomeView := by
    rw [Dev.outcomeView_powerLost, hshown, hturned]
  have hvalid : stamped.get SPN_PF_INFO.VALID = 1 := Dev.get_set _ _ _ _ _ (by decide)
  obtain ⟨hwords, hunits⟩ := Prod.mk.inj hview
  obtain ⟨-, hunits⟩ := Prod.mk.inj hunits
  obtain ⟨-, hunits⟩ := Prod.mk.inj hunits
  obtain ⟨hlow, hlatch⟩ := Prod.mk.inj hunits
  refine ⟨(Dev.get_of_word (Dev.word_of_wordsOf hwords (by decide) 0 0)).trans hvalid, fun hp => ?_⟩
  have hstamped : stamped.pwrfail = true := by
    have : stamped.pwrfail = d.pwrfail := Dev.when_keeps Dev.pwrfail link (·.raise SPN_INT_STATUS.LINK_UV) rfl
    rw [this, hp]
  have hpf' : stamped.spn.pf = true := rfl
  rw [hstamped, hpf', Bool.and_true] at hlatch
  exact (Bool.and_eq_true_iff.mp hlatch).2

/-- POWER_LOSS. -/
theorem powerLoss_latches (s : State) (l : Bool) (hpf : s.dev.spn.pf = false) : Completes (.powerLoss l) s fun t =>
    t.get SPN_PF_INFO.VALID = 1 ∧ (l = false → t.spn.pf = true) := by
  refine completes_of_run rfl ?_
  cases l with
  | true => exact ⟨(Dev.losePower_shows hpf true).1, fun h => absurd h (by decide)⟩
  | false =>
    obtain ⟨hvalid, hlatch⟩ := Dev.losePower_shows (d := { s.dev with pwrfail := true }) hpf false
    exact ⟨hvalid, fun _ => hlatch rfl⟩

theorem Dev.issueStart_pf (d : Dev) : d.issueStart.spn.pf = d.spn.pf := by
  unfold Dev.issueStart
  dsimp only
  split <;> rfl

/-- PF_RELEASE in SPIN_UP: the latch ends, and a start that it held back is issued. -/
theorem pfRelease_starts (s : State) (hpf : s.dev.spn.pf = true) (hm : s.dev.mode = .spinUp) :
    Completes .pfRelease s fun t => t.spn.pf = false ∧
    ((s.dev.spn.restart = true ∨ s.dev.get SPN_PF_INFO.REGEN = 1) → s.dev.spnState ≠ spStop →
      t.get SPN_CMD.GO = 1 ∧ t.get SPN_CMD.OP = 0) := by
  refine completes_of_run rfl ?_
  extract_lets good shown released again
  have hspn : shown.spn = s.dev.spn := Dev.each_keeps Dev.spn _ (fun g d => d.refreshInh g) (fun _ _ => rfl) good
  have hword (r : Reg) (h : WLS_INH_STATUS.key ≠ r.key) : shown.word r = s.dev.word r :=
    (Dev.word_each _ _ _ _ _ (fun _ _ => (Dev.word_set_of_key _ _ _ _ _ _ _ _ h).trans (Dev.word_set_of_key _ _ _ _ _ _ _ _ h))
      good).trans (Dev.word_of_regs rfl _ _ _)
  have hreleased (r : Reg) (h : WLS_INH_STATUS.key ≠ r.key) : released.word r = s.dev.word r :=
    (Dev.word_of_regs (Dev.regs_onSpn shown _) r 0 0).trans (hword r h)
  have hlatch : released.spn = { s.dev.spn with pf := false } := by
    simp only [released, Dev.spn_onSpn, hspn]
  have hmode : shown.mode = .spinUp := (Dev.mode_of_word (hword SYS_MODE (by decide))).trans hm
  have hmode' : released.mode = .spinUp := (Dev.mode_of_word (hreleased SYS_MODE (by decide))).trans hm
  rw [if_neg (by rw [hmode]; decide), if_neg (by rw [hspn, hpf]; decide), if_neg (by rw [hmode']; decide)]
  refine ⟨?_, fun hagain hstop => ?_⟩
  · split
    · rw [Dev.issueStart_pf, hlatch]
    · rw [hlatch]
  · have hregen : released.on SPN_PF_INFO.REGEN = (s.dev.get SPN_PF_INFO.REGEN != 0) :=
      congrArg (· != 0) (Dev.get_of_word (f := SPN_PF_INFO.REGEN) (hreleased SPN_PF_INFO (by decide)))
    have hgo : (again && released.inMode [.spinUp, .safe]) = true := by
      unfold Dev.inMode
      simp only [again, hregen, hlatch, hmode']
      rcases hagain with h | h <;> simp [h]
    have hstate : released.get SPN_STATUS.STATE ≠ 11 := by
      rw [Dev.get_of_word (f := SPN_STATUS.STATE) (hreleased SPN_STATUS (by decide))]
      exact hstop
    rw [if_pos hgo]
    obtain ⟨hg, ho, -⟩ := Dev.issueStart_shows (d := released) (by rw [hlatch]) fun h => hstate h.1
    exact ⟨hg, ho⟩

/-! ### The end of a flush -/

/-- The end of a flush leaves none, and the mode. -/
theorem Dev.endFlush_leaves (d : Dev) : d.endFlush.que.flush = none ∧ d.endFlush.pwrfail = d.pwrfail ∧ d.endFlush.mode = d.mode := by
  unfold Dev.endFlush
  extract_lets retracted
  have hview := (Dev.retractView_each (List.finRange 4) (fun g d =>
      (d.onGrpq g fun q => { q with list := q.list.filter fun m => !m.isFlush }).showGrpq g)
    (fun g d => (Dev.retractView_showGrpq _ g).trans (d.retractView_onGrpq g _ fun _ => rfl)) retracted).trans
    (Dev.retractView_retractAll _ 9)
  have hstored : d.storeFlush.pwrfail = d.pwrfail ∧ d.storeFlush.word SYS_MODE = d.word SYS_MODE := by
    unfold Dev.storeFlush
    split
    · exact ⟨rfl, rfl⟩
    · split <;> exact ⟨rfl, rfl⟩
  obtain ⟨hwords, hunits⟩ := Prod.mk.inj hview
  refine ⟨(congrArg (fun u => u.2.2.1.flush) hunits :), (congrArg (fun u => u.2.2.2.2.2) hunits :).trans hstored.1, ?_⟩
  exact Dev.mode_of_word ((Dev.word_of_wordsOf hwords (by decide) 0 0).trans hstored.2)

/-- With the flush over and PWRFAIL_L low COAST_FLUSH is not left. -/
theorem Dev.afterPark_flushed {d : Dev} (hf : d.que.flush = none) (hm : d.mode = .coastFlush) (hp : d.pwrfail = true) :
    d.afterPark = d := by
  have hended : d.when (d.mode == .coastFlush && d.que.flush.isSome && !d.flushLeft) (·.endFlush) = d := by
    unfold Dev.when
    rw [hf]
    simp
  have hleave : d.leaveFlush = d := by
    unfold Dev.leaveFlush
    rw [if_pos hp]
  unfold Dev.afterPark
  dsimp only
  rw [hended, hm]
  simp only [hleave, ite_self]

/-- FLUSH_TIME_LIMIT: the flush ends, and with PWRFAIL_L low COAST_FLUSH stays. -/
theorem flushTimeLimit_ends (s : State) (hm : s.dev.mode = .coastFlush) (hf : s.dev.que.flush.isSome = true)
    (hp : s.dev.pwrfail = true) : Completes .flushTimeLimit s fun t => t.que.flush = none ∧ t.mode = .coastFlush := by
  refine completes_of_run rfl ?_
  rw [if_pos (by rw [hm, hf]; decide)]
  obtain ⟨hque, hlow, hmode⟩ := s.dev.endFlush_leaves
  have hpark : s.dev.endFlush.afterPark = s.dev.endFlush := Dev.afterPark_flushed hque (hmode.trans hm) (hlow.trans hp)
  rw [hpark]
  exact ⟨hque, hmode.trans hm⟩

end Sys2Proof.Machine
end

section
/-! SUPPORT. The end of a stop and of a spin-down's destage (R310). -/

namespace Sys2Proof.Machine

/-! ### The spindle's state -/

theorem Dev.spnState_resource (d : Dev) : d.resource.spnState = d.spnState := by
  unfold Dev.resource
  split
  split
  · rfl
  · refine (Dev.get_set_of_key _ SPN_INT_STATUS.SRC_CHANGE SPN_STATUS.STATE 1 0 0 0 0 (by decide)).trans ?_
    exact (Dev.get_set_beside _ SPN_STATUS 24 2 28 4 _ _ _ (by decide)).trans (Dev.get_set_beside _ SPN_STATUS 26 2 28 4 _ _ _ (by decide))

/-- A state is entered. -/
theorem Dev.spnState_spnEnter (d : Dev) {st : Nat} (h : st < 16) : (d.spnEnter st).spnState = st := by
  unfold Dev.spnEnter
  extract_lets entered began
  have hentered : entered.spnState = st :=
    (Dev.spnState_resource _).trans ((Dev.get_set _ _ _ _ _ (by decide)).trans (Nat.mod_eq_of_lt h))
  have hbegan : began.spnState = st := by
    simp only [began]
    split
    · exact (Dev.get_set_of_key _ _ _ _ _ _ _ _ (by decide)).trans hentered
    · exact hentered
  split
  · exact hbegan
  · exact hbegan

/-- STANDBY is entered without a change of the spindle's state. -/
theorem Dev.word_enterStandby (d : Dev) (r : Reg) (i j : Nat) (h : r.key ∉ startKeys) :
    d.enterStandby.word r i j = d.word r i j := by
  have hs := Dev.steady_word r i j h
  unfold Dev.enterStandby
  extract_lets down again cleared standby
  split
  · split
    · exact (hs.startInSafe _).trans rfl
    · rfl
  · split
    · exact (hs.enterSpinUp _).trans (hs.mode _ _)
    · exact hs.mode _ _

/-- STOP_DONE: COAST, with no phase of a stop. -/
theorem stopDone_coasts (s : State) (hc : s.dev.clocked 13 = true) (hst : s.dev.get SPN_STATUS.STATE = 11)
    (hph : s.dev.get SPN_STOP_STATUS.PHASE = 3) (hov : s.dev.spn.ovStage = 0) : Completes .stopDone s fun t =>
      t.get SPN_STATUS.STATE = 9 ∧ t.get SPN_STOP_STATUS.PHASE = 0 := by
  refine completes_of_runIn rfl hc ?_
  rw [if_pos ⟨hst, hph, hov⟩]
  extract_lets stopped
  have hshows (r : Reg) (h : SPN_INT_STATUS.key ≠ r.key) (h' : SPN_SETPOINT.key ≠ r.key) : stopped.word r = s.dev.spnCoast.word r :=
    (Dev.word_set_of_key _ _ _ _ _ _ _ _ h').trans (Dev.word_set_of_key _ _ _ _ _ _ _ _ h)
  have hstate : stopped.get SPN_STATUS.STATE = 9 :=
    (Dev.get_of_word (hshows SPN_STATUS (by decide) (by decide))).trans
      ((Dev.get_set_of_key _ _ _ _ _ _ _ _ (by decide)).trans (Dev.spnState_spnEnter _ (by decide)))
  have hphase : stopped.get SPN_STOP_STATUS.PHASE = 0 :=
    (Dev.get_of_word (hshows SPN_STOP_STATUS (by decide) (by decide))).trans (Dev.get_set _ _ _ _ _ (by decide))
  split
  · exact ⟨(Dev.get_of_word (Dev.word_enterStandby _ SPN_STATUS 0 0 (by decide))).trans hstate,
      (Dev.get_of_word (Dev.word_enterStandby _ SPN_STOP_STATUS 0 0 (by decide))).trans hphase⟩
  · exact ⟨hstate, hphase⟩

/-! ### A spin-down -/

/-- The unload of the groups leaves the sequencer alone. -/
theorem Dev.seq_unloadAll (d : Dev) : d.unloadAll.seq = d.seq := by
  have hview : d.unloadAll.retractView = d.retractView := by
    refine Dev.retractView_each _ _ (fun g d => ?_) d
    dsimp only
    split <;> simp
  exact (congrArg (fun v => v.2.2.2.2.2.1) hview :)

/-- SPIN_DOWN_DESTAGED goes on to step 3, and to step 4 where every group is parked. -/
theorem spinDownDestaged_unloads (s : State) (hd : s.dev.seq.spinDown = 2) (_ : s.dev.seq.prep = 0)
    (hdr : s.dev.drained = true) : Completes .spinDownDestaged s fun t => t.seq.spinDown = 3 ∨ t.seq.spinDown = 4 := by
  refine completes_of_run rfl ?_
  unfold Dev.spinAdvance
  extract_lets want wantP closed unloaded
  have hwant : want = true := by simp [want, hd]
  have hclosed : closed.seq.spinDown = 3 := by
    simp only [closed, hwant, if_true]
    rfl
  have hunloaded : unloaded.seq.spinDown = 3 := (congrArg SeqSt.spinDown (Dev.seq_unloadAll closed)).trans hclosed
  rw [if_pos (by rw [hwant, hdr]; rfl)]
  split
  · right
    unfold Dev.spinParked
    rw [if_pos hunloaded]
    rfl
  · exact .inl hunloaded

/-- Settles O60: its commands one by one, each followed through the operations that it starts. -/
theorem startsAndModes : Obligations.StartsAndModes := by
  unfold Obligations.StartsAndModes
  exact ⟨headLoadCalibration_excludes, headLoadEnd_activates, startRetry_spinUpTimeout, idleTimer_idles, patrolDue_wakes,
    fun s q k hlo hhi => thermalThrottle_throttleRelease s q k hlo hhi _ rfl, stopDone_coasts, spinDownDestaged_unloads,
    powerLoss_latches, pfRelease_starts, flushTimeLimit_ends⟩

end Sys2Proof.Machine
end

section
/-! SUPPORT. The recovery decoders' bookkeeping (R95, R100, R101, R112, R113, R631): what it leaves of the lanes' sectors and ladders. -/

namespace Sys2Proof.Machine

/-! ### What the bookkeeping leaves -/

/-- The sectors and the ladders of a lane. -/
def LaneSt.sectors (l : LaneSt) : List Sect × List Ladder := (l.sects, l.ladders)

/-- The sectors and ladders of the lanes, the formatters, and the outcomes. -/
def Dev.laneView (d : Dev) :
    (Reg → Nat → Nat → Word) × Vector (List SectOut) 4 × Vector Fmt 4 × Vector (List Sect × List Ladder) 32 :=
  (d.wordsOf outcomeKeys, d.outcomes, d.fmt, d.lanes.map LaneSt.sectors)

@[simp] theorem Dev.laneView_set (d : Dev) (f : Fld) (v i j : Nat) (hf : f.reg.key ∉ outcomeKeys) :
    (d.set f v i j).laneView = d.laneView :=
  congrArg (·, d.outcomes, d.fmt, d.lanes.map LaneSt.sectors) (d.wordsOf_set _ f v i j hf)

theorem Dev.laneView_onLane (d : Dev) (n : LaneId) (f : LaneSt → LaneSt) (h : ∀ l, (f l).sectors = l.sectors) :
    (d.onLane n f).laneView = d.laneView :=
  Prod.ext (Dev.wordsOf_of_regs _ (Dev.regs_onLane ..))
    (congrArg (fun v => (d.outcomes, d.fmt, v)) (map_upd LaneSt.sectors d.lanes n f h))

@[simp] theorem Dev.laneView_ite (c : Prop) [Decidable c] (a b : Dev) :
    (if c then a else b).laneView = if c then a.laneView else b.laneView := apply_ite ..

/-- A fold leaves the view alone where each of its steps does. -/
theorem Dev.laneView_each {α : Type} (l : List α) (f : α → Dev → Dev) (h : ∀ a d, (f a d).laneView = d.laneView) (d : Dev) :
    (d.each l f).laneView = d.laneView := Dev.each_keeps Dev.laneView l f h d

/-- Devices of one view have the same sectors and ladders on a lane. -/
theorem Dev.sectors_of_laneView {d t : Dev} (h : t.laneView = d.laneView) (n : LaneId) :
    t.lanes[n].sects = d.lanes[n].sects ∧ t.lanes[n].ladders = d.lanes[n].ladders := by
  have hmap : t.lanes.map LaneSt.sectors = d.lanes.map LaneSt.sectors := congrArg (fun v => v.2.2.2) h
  have hn : (t.lanes.map LaneSt.sectors)[n.val] = (d.lanes.map LaneSt.sectors)[n.val] := by rw [hmap]
  rw [Vector.getElem_map, Vector.getElem_map] at hn
  exact Prod.mk.inj hn

/-- They have the same outcomes of a group. -/
theorem Dev.results_of_outcomes {d t : Dev} (h : t.outcomes = d.outcomes) (g : Grp) : t.grpq[g].results = d.grpq[g].results := by
  have hg : t.outcomes[g.val] = d.outcomes[g.val] := by rw [h]
  unfold Dev.outcomes at hg
  rwa [Vector.getElem_map, Vector.getElem_map] at hg

/-! ### Status, slots and pins -/

@[simp] theorem Dev.laneView_showLane (d : Dev) (n : LaneId) : (d.showLane n).laneView = d.laneView := by
  unfold Dev.showLane
  dsimp only
  split
  all_goals simp (disch := decide)

@[simp] theorem Dev.laneView_onSlot (d : Dev) (n : LaneId) (i : Fin 3) (f : Slot → Slot) :
    (d.onSlot n i f).laneView = d.laneView := Dev.laneView_onLane _ _ _ fun _ => rfl

@[simp] theorem Dev.laneView_repin (d : Dev) (n : LaneId) : (d.repin n).laneView = d.laneView := by
  refine Dev.laneView_each _ _ (fun l d => ?_) d
  unfold Dev.pinLadder
  split
  · simp
  · rfl

@[simp] theorem Dev.laneView_callOff (d : Dev) (n : LaneId) (c k : Nat) : (d.callOff n c k).laneView = d.laneView := by
  refine Dev.laneView_each _ _ (fun i d => ?_) d
  extract_lets m fewer
  have hfewer : fewer.laneView = d.laneView := Dev.laneView_onLane _ _ _ fun _ => rfl
  split
  · split
    · refine (Dev.laneView_showLane ..).trans ((Dev.laneView_onLane _ _ _ ?_).trans hfewer)
      exact fun _ => rfl
    · exact hfewer
  · exact hfewer

@[simp] theorem Dev.laneView_unpin (d : Dev) (n : LaneId) (c k : Nat) : (d.unpin n c k).laneView = d.laneView := by
  refine (Dev.laneView_each _ _ (fun i d => ?_) _).trans (d.laneView_callOff n c k)
  extract_lets m mine left
  have hleft : left.laneView = d.laneView := Dev.laneView_onLane _ _ _ fun _ => rfl
  simp [hleft]

/-! ### Work for an idle decoder -/

@[simp] theorem Dev.laneView_startDec (d : Dev) (n : LaneId) (w : RecWork) (x : Option Slot) (p : PassId) (al : Option Int) :
    (d.startDec n w x p al).laneView = d.laneView := Dev.laneView_onLane _ _ _ fun _ => rfl

@[simp] theorem Dev.laneView_nextAsk (d : Dev) (n : LaneId) : (d.nextAsk n).laneView = d.laneView := by
  unfold Dev.nextAsk
  dsimp only
  split
  · rfl
  split
  · rfl
  · rw [Dev.laneView_showLane, Dev.laneView_startDec]
    exact Dev.laneView_onLane _ _ _ fun _ => rfl

@[simp] theorem Dev.laneView_nextSpec (d : Dev) (n : LaneId) : (d.nextSpec n).laneView = d.laneView := by
  unfold Dev.nextSpec
  split
  · exact Dev.laneView_showLane ..
  split
  · exact Dev.laneView_showLane ..
  · rw [Dev.laneView_showLane, Dev.laneView_startDec]
    exact Dev.laneView_onLane _ _ _ fun _ => rfl

/-- A lane whose ladders all wait has none that acts. -/
theorem Dev.ladderActs_of_quiet {d : Dev} {n : LaneId} (h : d.quiet n) : d.lanes[n].ladders.find? (d.ladderActs n) = none := by
  refine List.find?_eq_none.mpr fun y hy => ?_
  unfold Dev.ladderActs
  rw [h y hy]
  exact Bool.false_ne_true

/-- The decoder of a lane whose ladders all wait takes up no work of theirs. -/
theorem Dev.laneView_nextDec {d : Dev} {n : LaneId} (h : d.quiet n) (k : Nat) : (d.nextDec n k).laneView = d.laneView := by
  cases k with
  | zero => rfl
  | succ k =>
    unfold Dev.nextDec
    extract_lets l busy
    split
    · exact Dev.laneView_showLane ..
    · rw [Dev.ladderActs_of_quiet h]
      dsimp only
      split
      · exact (Dev.laneView_nextAsk ..).trans (Dev.laneView_onLane _ _ _ fun _ => rfl)
      · split
        · exact Dev.laneView_showLane ..
        · exact Dev.laneView_nextSpec ..

theorem Dev.quiet_of_laneView {d t : Dev} (h : t.laneView = d.laneView) {n : LaneId} (hq : d.quiet n) : t.quiet n := by
  unfold Dev.quiet at hq ⊢
  rwa [(Dev.sectors_of_laneView h n).2]

/-- Where no lane of a group has a ladder in its buffered steps, its decoders take up no ladder. -/
theorem Dev.laneView_serve {d : Dev} {g : Grp} (h : d.groupQuiet g) (k : Nat) : (d.serve g k).laneView = d.laneView := by
  induction k generalizing d with
  | zero => rfl
  | succ k ih =>
    unfold Dev.serve
    split
    · rfl
    next i _ =>
      have hnext := Dev.laneView_nextDec (h i) 16
      exact (ih fun j => Dev.quiet_of_laneView hnext (h j)).trans hnext

end Sys2Proof.Machine
end

section
/-! SUPPORT. The end of a ladder: its record, its flags and its outcome (R104, R109, R116, R120). -/

namespace Sys2Proof.Machine

/-! ### Writes of registers -/

@[simp] theorem Dev.laneView_count (d : Dev) (c : Nat) (g : Option Grp) (n : Nat) : (d.count c g n).laneView = d.laneView :=
  Dev.count_keeps Dev.laneView (fun f v i j d hf => d.laneView_set f v i j fun h => absurd hf (by
    revert h
    generalize f.reg.key = k
    revert k
    decide)) c g n d

/-- What of the view no register shows. -/
def Dev.sectorView (d : Dev) : Vector (List SectOut) 4 × Vector Fmt 4 × Vector (List Sect × List Ladder) 32 := d.laneView.2

@[simp] theorem Dev.sectorView_set (d : Dev) (f : Fld) (v i j : Nat) : (d.set f v i j).sectorView = d.sectorView := rfl

@[simp] theorem Dev.sectorView_raise (d : Dev) (f : Fld) (i j : Nat) : (d.raise f i j).sectorView = d.sectorView := rfl

@[simp] theorem Dev.sectorView_count (d : Dev) (c : Nat) (g : Option Grp) (n : Nat) : (d.count c g n).sectorView = d.sectorView := by
  unfold Dev.sectorView
  rw [Dev.laneView_count]

/-! ### The record of a ladder (R116) -/

/-- The flags of an outcome are set in LANE_INT_STATUS of the lane. -/
theorem Dev.ladderFlags_keeps {β : Type} (φ : Dev → β) (n : LaneId) (hr : ∀ f (d : Dev), f.reg = LANE_INT_STATUS → φ (d.raise f n) = φ d)
    (hc : ∀ f v i j (d : Dev), f.reg.key ∈ countKeys → φ (d.set f v i j) = φ d) (d : Dev) (l : Ladder) :
    φ (d.ladderFlags n l) = φ d := by
  unfold Dev.ladderFlags
  extract_lets missed failed
  have hmissed : φ missed = φ d := Dev.when_keeps φ _ (·.raise LANE_INT_STATUS.SYNC_MISS n) (hr _ _ rfl)
  have hfailed : φ failed = φ missed := Dev.when_keeps φ _ (·.raise LANE_INT_STATUS.TAG_MISMATCH n) (hr _ _ rfl)
  rw [Dev.count_keeps φ hc, hfailed, hmissed]

/-- The record of a ladder is made in LANE_REC_INFO of the lane. -/
theorem Dev.recInfo_keeps {β : Type} (φ : Dev → β) (n : LaneId)
    (h : ∀ f v (d : Dev), f.reg ∈ [LANE_REC_INFO0, LANE_REC_INFO1, LANE_REC_INFO2] → φ (d.set f v n) = φ d) (d : Dev) (l : Ladder)
    (o s p gl : Nat) (pos : Int) : φ (d.recInfo n l o s p gl pos) = φ d := by
  have h0 : ∀ lo w v (d : Dev), φ (d.set ⟨LANE_REC_INFO0, lo, w⟩ v n) = φ d := fun _ _ v d => h _ v d (by simp)
  have h1 : ∀ lo w v (d : Dev), φ (d.set ⟨LANE_REC_INFO1, lo, w⟩ v n) = φ d := fun _ _ v d => h _ v d (by simp)
  have h2 : ∀ lo w v (d : Dev), φ (d.set ⟨LANE_REC_INFO2, lo, w⟩ v n) = φ d := fun _ _ v d => h _ v d (by simp)
  unfold Dev.recInfo
  extract_lets d0 d1 d2
  have hd0 : φ d0 = φ d := (h0 0 10 _ _).trans ((h0 10 6 _ _).trans ((h0 16 4 _ _).trans (h0 20 4 _ _)))
  have hd1 : φ d1 = φ d0 := (h1 0 20 _ _).trans ((h1 20 7 _ _).trans ((h1 27 4 _ _).trans (h1 31 1 _ _)))
  have hd2 : φ d2 = φ d1 := (h2 _ _ _ _).trans ((h2 _ _ _ _).trans (h2 _ _ _ _))
  exact (h0 31 1 _ _).trans ((h0 24 7 _ _).trans (hd2.trans (hd1.trans hd0)))

/-- What the record shows. -/
theorem Dev.recInfo_shows (d : Dev) (n : LaneId) (l : Ladder) (o s p gl : Nat) (pos : Int) :
    let t := d.recInfo n l o s p gl pos
    t.get LANE_REC_INFO0.VALID n = 1 ∧ t.get LANE_REC_INFO0.OUTCOME n = o % 16 ∧ t.get LANE_REC_INFO0.STEP n = s % 16 ∧
      t.get LANE_REC_INFO0.SECTOR n = l.sect % 1024 ∧ t.get LANE_REC_INFO0.SEQ n = (d.get LANE_REC_INFO0.SEQ n + 1) % 128 := by
  have hbeside : ∀ (e : Dev) lo w lo' w' v, lo + w ≤ 32 ∧ lo' + w' ≤ 32 ∧ (lo' + w' ≤ lo ∨ lo + w ≤ lo') →
      (e.set ⟨LANE_REC_INFO0, lo, w⟩ v n).get ⟨LANE_REC_INFO0, lo', w'⟩ n = e.get ⟨LANE_REC_INFO0, lo', w'⟩ n :=
    fun e lo w lo' w' v h => Dev.get_set_beside e LANE_REC_INFO0 lo w lo' w' v n 0 h
  unfold Dev.recInfo
  extract_lets d0 d1 d2
  -- the other two registers leave the fields of the first
  have hrest (lo w : Nat) : d2.get ⟨LANE_REC_INFO0, lo, w⟩ n = d0.get ⟨LANE_REC_INFO0, lo, w⟩ n := by
    have hkey (e : Dev) (f : Fld) (v : Nat) (hf : f.reg.key ≠ LANE_REC_INFO0.key) :
        (e.set f v n).get ⟨LANE_REC_INFO0, lo, w⟩ n = e.get ⟨LANE_REC_INFO0, lo, w⟩ n := Dev.get_set_of_key _ _ _ _ _ _ _ _ hf
    exact (hkey _ _ _ (by decide)).trans ((hkey _ _ _ (by decide)).trans ((hkey _ _ _ (by decide)).trans ((hkey _ _ _ (by decide)).trans
      ((hkey _ _ _ (by decide)).trans ((hkey _ _ _ (by decide)).trans (hkey _ _ _ (by decide)))))))
  have hstamp (lo w : Nat) (h : lo + w ≤ 24) : (d2.stamp LANE_REC_INFO0.VALID LANE_REC_INFO0.SEQ n).get ⟨LANE_REC_INFO0, lo, w⟩ n =
      d0.get ⟨LANE_REC_INFO0, lo, w⟩ n :=
    ((hbeside _ 31 1 lo w 1 ⟨by decide, by omega, .inl (by omega)⟩).trans
      (hbeside _ 24 7 lo w _ ⟨by decide, by omega, .inl h⟩)).trans (hrest lo w)
  refine ⟨Dev.get_set _ _ _ _ _ (by decide), (hstamp 20 4 (by decide)).trans ?_, (hstamp 16 4 (by decide)).trans ?_,
    (hstamp 0 10 (by decide)).trans (Dev.get_set _ _ _ _ _ (by decide)), ?_⟩
  · exact (hbeside _ 0 10 20 4 _ (by decide)).trans ((hbeside _ 10 6 20 4 _ (by decide)).trans
      ((hbeside _ 16 4 20 4 _ (by decide)).trans (Dev.get_set _ _ _ _ _ (by decide))))
  · exact (hbeside _ 0 10 16 4 _ (by decide)).trans ((hbeside _ 10 6 16 4 _ (by decide)).trans (Dev.get_set _ _ _ _ _ (by decide)))
  · have hseq : d2.get LANE_REC_INFO0.SEQ n = d.get LANE_REC_INFO0.SEQ n :=
      (hrest 24 7).trans ((hbeside _ 0 10 24 7 _ (by decide)).trans ((hbeside _ 10 6 24 7 _ (by decide)).trans
        ((hbeside _ 16 4 24 7 _ (by decide)).trans (hbeside _ 20 4 24 7 _ (by decide)))))
    refine (hbeside _ 31 1 24 7 1 (by decide)).trans ((Dev.get_set _ _ _ _ _ (by decide)).trans ?_)
    rw [hseq]
    exact Nat.mod_mod _ _

/-! ### Its end -/

/-- The other ladders of a lane. -/
def LaneSt.others (x : LaneSt) (l : Ladder) : List Ladder := x.ladders.filter fun y => !(y.cyl == l.cyl && y.sect == l.sect)

/-- A ladder is dropped from its lane; the other lanes keep theirs, and nothing of the outcomes changes. -/
theorem Dev.dropLadder_drops (d : Dev) (n : LaneId) (l : Ladder) :
    (d.dropLadder n l).lanes[n].ladders = d.lanes[n].others l ∧ (d.dropLadder n l).lanes[n].sects = d.lanes[n].sects ∧
      (∀ m, m ≠ n → (d.dropLadder n l).lanes[m].ladders = d.lanes[m].ladders) ∧ (d.dropLadder n l).outcomes = d.outcomes ∧
      (d.dropLadder n l).fmt = d.fmt ∧ ∀ r i j, r.key ∈ outcomeKeys → (d.dropLadder n l).word r i j = d.word r i j := by
  unfold Dev.dropLadder
  extract_lets e
  have hview : ((e.unpin n l.cyl l.sect).showLane n).laneView = e.laneView := by simp
  have hn := Dev.sectors_of_laneView hview n
  have hlane : e.lanes[n].ladders = d.lanes[n].others l ∧ e.lanes[n].sects = d.lanes[n].sects := by
    simp only [e, Dev.lanes_onLane, getElem_upd]
    exact ⟨rfl, trivial⟩
  have hother (m : LaneId) (hm : m ≠ n) : e.lanes[m] = d.lanes[m] := by
    simp only [e, Dev.lanes_onLane]
    exact getElem_upd_of_ne _ _ _ _ hm
  have hout : e.outcomes = d.outcomes := rfl
  have hfmt : e.fmt = d.fmt := Dev.fmt_onLane ..
  have hwords (r : Reg) (i j : Nat) : e.word r i j = d.word r i j := Dev.word_of_regs (Dev.regs_onLane ..) r i j
  clear_value e
  generalize (e.unpin n l.cyl l.sect).showLane n = t at *
  refine ⟨hn.2.trans hlane.1, hn.1.trans hlane.2, fun m hm => (Dev.sectors_of_laneView hview m).2.trans (by rw [hother m hm]),
    (congrArg (fun v => v.2.1) hview).trans hout, (congrArg (fun v => v.2.2.1) hview).trans hfmt, fun r i j hr => ?_⟩
  exact (Dev.word_of_wordsOf (congrArg Prod.fst hview) hr i j).trans (hwords r i j)

/-- The flags of a ladder that ends, its interrupt and its event. -/
def Dev.flagLadder (d : Dev) (n : LaneId) (l : Ladder) (flag : Fld) (code : Nat) : Dev :=
  ((d.ladderFlags n l).raise flag n).count code (some n.grp)

theorem RKey.ne_of_place {k k' i j i' j' : Nat} (h : k ≠ k' ∨ i ≠ i') : (⟨k, i, j⟩ : RKey) ≠ ⟨k', i', j'⟩ :=
  fun e => h.elim (fun h => h (congrArg RKey.key e)) fun h => h (congrArg RKey.i e)

/-- They change LANE_INT_STATUS of the lane and the counters alone. -/
theorem Dev.word_flagLadder (d : Dev) (n : LaneId) (l : Ladder) {flag : Fld} (hf : flag.reg = LANE_INT_STATUS) (code : Nat) (r : Reg)
    (i : Nat) (h : r.key ∉ countKeys) (hr : LANE_INT_STATUS.key ≠ r.key ∨ (n : Nat) ≠ i) :
    (d.flagLadder n l flag code).word r i = d.word r i := by
  have hraise (f : Fld) (e : Dev) (hf : f.reg = LANE_INT_STATUS) : (e.raise f n).word r i = e.word r i :=
    Dev.word_set_of_ne e f r 1 n 0 i 0 (RKey.ne_of_place (by rw [hf]; exact hr))
  have hcount (f : Fld) (v i' j : Nat) (e : Dev) (hf : f.reg.key ∈ countKeys) : (e.set f v i' j).word r i = e.word r i :=
    Dev.word_set_of_key _ _ _ _ _ _ _ _ fun e => h (e ▸ hf)
  unfold Dev.flagLadder
  rw [Dev.count_keeps (fun e => e.word r i) hcount, hraise _ _ hf, Dev.ladderFlags_keeps (fun e => e.word r i) n hraise hcount]

/-- The interrupt is set. -/
theorem Dev.get_flagLadder (d : Dev) (n : LaneId) (l : Ladder) {flag : Fld} (hf : flag.reg = LANE_INT_STATUS) (hw : flag.width = 1)
    (hlo : flag.lo < 32) (code : Nat) : (d.flagLadder n l flag code).get flag n = 1 := by
  have hcount : (d.flagLadder n l flag code).word flag.reg n = ((d.ladderFlags n l).raise flag n).word flag.reg n := by
    rw [hf]
    exact Dev.count_keeps (fun e => e.word LANE_INT_STATUS n) (fun f v i j e hf => Dev.word_set_of_key _ _ _ _ _ _ _ _ fun h =>
      absurd (h ▸ hf) (by decide)) _ _ _ _
  refine (Dev.get_of_word hcount).trans ((Dev.get_set _ _ _ _ _ (by omega)).trans ?_)
  rw [hw]
  rfl

theorem Dev.sectorView_flagLadder (d : Dev) (n : LaneId) (l : Ladder) (flag : Fld) (code : Nat) :
    (d.flagLadder n l flag code).sectorView = d.sectorView := by
  unfold Dev.flagLadder
  rw [Dev.sectorView_count, Dev.sectorView_raise]
  exact Dev.ladderFlags_keeps Dev.sectorView n (fun _ _ _ => rfl) (fun _ _ _ _ _ _ => rfl) d l

/-- The record changes its registers of the lane alone. -/
theorem Dev.word_recInfo (d : Dev) (n : LaneId) (l : Ladder) (o s p gl : Nat) (pos : Int) (r : Reg) (i : Nat)
    (h : r.key ∉ [LANE_REC_INFO0.key, LANE_REC_INFO1.key, LANE_REC_INFO2.key] ∨ (n : Nat) ≠ i) :
    (d.recInfo n l o s p gl pos).word r i = d.word r i := by
  refine Dev.recInfo_keeps (fun e => e.word r i) n (fun f v e hf => Dev.word_set_of_ne _ _ _ _ _ _ _ _ ?_) d l o s p gl pos
  refine RKey.ne_of_place (h.imp_left fun h e => h ?_)
  rw [← e]
  exact List.mem_map_of_mem (f := Reg.key) hf

theorem Dev.sectors_of_sectorView {d t : Dev} (h : t.sectorView = d.sectorView) (n : LaneId) :
    t.lanes[n].sects = d.lanes[n].sects ∧ t.lanes[n].ladders = d.lanes[n].ladders := by
  have hmap : t.lanes.map LaneSt.sectors = d.lanes.map LaneSt.sectors := congrArg (fun v => v.2.2) h
  have hn : (t.lanes.map LaneSt.sectors)[n.val] = (d.lanes.map LaneSt.sectors)[n.val] := by rw [hmap]
  rw [Vector.getElem_map, Vector.getElem_map] at hn
  exact Prod.mk.inj hn

/-- The end of a ladder before its outcome is delivered: the flags, an interrupt, an event, the record, and the ladder goes. -/
def Dev.closeLadder (d : Dev) (n : LaneId) (l : Ladder) (flag : Fld) (code o s p gl : Nat) (pos : Int) : Dev :=
  ((d.flagLadder n l flag code).recInfo n l o s p gl pos).dropLadder n l

/-- What the end of a ladder of lane n leaves. -/
structure Dev.Closes (d : Dev) (n : LaneId) (l : Ladder) (flag : Fld) (o s : Nat) (t : Dev) : Prop where
  flag : t.get flag n = 1
  valid : t.get LANE_REC_INFO0.VALID n = 1
  outcome : t.get LANE_REC_INFO0.OUTCOME n = o % 16
  step : t.get LANE_REC_INFO0.STEP n = s % 16
  sector : t.get LANE_REC_INFO0.SECTOR n = l.sect % 1024
  seq : t.get LANE_REC_INFO0.SEQ n = (d.get LANE_REC_INFO0.SEQ n + 1) % 128
  ladders : t.lanes[n].ladders = d.lanes[n].others l
  sects : t.lanes[n].sects = d.lanes[n].sects
  others : ∀ m, m ≠ n → t.lanes[m].ladders = d.lanes[m].ladders
  words : ∀ (m : LaneId) r, m ≠ n → r.key ∈ outcomeKeys → t.word r m = d.word r m
  results : ∀ g : Grp, d.grpq[g].results <+: t.grpq[g].results

/-- The outcomes and the formatters stay as they are until the delivery. -/
theorem Dev.closeLadder_delivers (d : Dev) (n : LaneId) (l : Ladder) (flag : Fld) (code o s p gl : Nat) (pos : Int) :
    (d.closeLadder n l flag code o s p gl pos).outcomes = d.outcomes ∧ (d.closeLadder n l flag code o s p gl pos).fmt = d.fmt := by
  unfold Dev.closeLadder
  have hview := d.sectorView_flagLadder n l flag code
  generalize d.flagLadder n l flag code = d1 at *
  have hrec : (d1.recInfo n l o s p gl pos).sectorView = d1.sectorView :=
    Dev.recInfo_keeps Dev.sectorView n (fun _ _ _ _ => rfl) d1 l o s p gl pos
  generalize d1.recInfo n l o s p gl pos = d2 at *
  obtain ⟨-, -, -, hout, hfmt, -⟩ := d2.dropLadder_drops n l
  exact ⟨hout.trans (congrArg Prod.fst (hrec.trans hview)), hfmt.trans (congrArg (fun v => v.2.1) (hrec.trans hview))⟩

theorem Dev.closeLadder_closes (d : Dev) (n : LaneId) (l : Ladder) {flag : Fld} (hf : flag.reg = LANE_INT_STATUS) (hw : flag.width = 1)
    (hlo : flag.lo < 32) (code o s p gl : Nat) (pos : Int) : d.Closes n l flag o s (d.closeLadder n l flag code o s p gl pos) := by
  have hres (g : Grp) : d.grpq[g].results <+: (d.closeLadder n l flag code o s p gl pos).grpq[g].results := by
    rw [Dev.results_of_outcomes (d.closeLadder_delivers n l flag code o s p gl pos).1 g]
  unfold Dev.closeLadder at hres ⊢
  have hflag := d.get_flagLadder n l hf hw hlo code
  have hseq0 : (d.flagLadder n l flag code).get LANE_REC_INFO0.SEQ n = d.get LANE_REC_INFO0.SEQ n :=
    Dev.get_of_word (d.word_flagLadder n l hf code LANE_REC_INFO0 n (by decide) (.inl (by decide)))
  have hother (m : LaneId) (r : Reg) (hm : m ≠ n) (hr : r.key ∈ outcomeKeys) :
      (d.flagLadder n l flag code).word r m = d.word r m :=
    d.word_flagLadder n l hf code r m (by revert hr; generalize r.key = k; revert k; decide) (.inr fun e => hm (Fin.ext e.symm))
  have hview := d.sectorView_flagLadder n l flag code
  generalize d.flagLadder n l flag code = d1 at *
  have hrec : (d1.recInfo n l o s p gl pos).sectorView = d1.sectorView :=
    Dev.recInfo_keeps Dev.sectorView n (fun _ _ _ _ => rfl) d1 l o s p gl pos
  have hstatus : (d1.recInfo n l o s p gl pos).get flag n = 1 :=
    (Dev.get_of_word (d1.word_recInfo n l o s p gl pos flag.reg n (.inl (by rw [hf]; decide)))).trans hflag
  have hword (m : LaneId) (r : Reg) (hm : m ≠ n) := d1.word_recInfo n l o s p gl pos r m (.inr fun e => hm (Fin.ext e.symm))
  obtain ⟨hvalid, houtcome, hstep, hsect, hseq⟩ := d1.recInfo_shows n l o s p gl pos
  generalize d1.recInfo n l o s p gl pos = d2 at *
  have hsectors := Dev.sectors_of_sectorView (hrec.trans hview)
  obtain ⟨hlad, hsects, hothers, -, -, hdrop⟩ := d2.dropLadder_drops n l
  have hget (f : Fld) (hf : f.reg.key ∈ outcomeKeys) : (d2.dropLadder n l).get f n = d2.get f n := Dev.get_of_word (hdrop f.reg n 0 hf)
  exact {
    flag := (hget _ (by rw [hf]; decide)).trans hstatus
    valid := (hget _ (by decide)).trans hvalid
    outcome := (hget _ (by decide)).trans houtcome
    step := (hget _ (by decide)).trans hstep
    sector := (hget _ (by decide)).trans hsect
    seq := (hget _ (by decide)).trans (hseq.trans (by rw [hseq0]))
    ladders := hlad.trans (congrArg (List.filter _) (hsectors n).2)
    sects := hsects.trans (hsectors n).1
    others := fun m hm => (hothers m hm).trans (hsectors m).2
    words := fun m r hm hr => (hdrop r m 0 hr).trans ((hword m r hm).trans (hother m r hm hr))
    results := hres }

end Sys2Proof.Machine
end

section
/-! SUPPORT. A ladder that commits and one that ends unrecovered (R104, R109, R345). -/

namespace Sys2Proof.Machine

/-! ### Delivery -/

/-- The outcome as QUE receives it: that of a VERIFY has no payload. -/
def Dev.delivered (d : Dev) (g : Grp) (o : SectOut) : SectOut :=
  if d.fmt[g].cur.any (fun r => r.kind == 2) then { o with payload := [] } else o

theorem Dev.deliver_eq (d : Dev) (g : Grp) (o : SectOut) :
    d.deliver g o = d.onGrpq g fun q => { q with results := q.results ++ [d.delivered g o] } := rfl

theorem Dev.delivered_of_noVerify {d : Dev} {g : Grp} (h : d.noVerify g) (o : SectOut) : d.delivered g o = o := by
  refine if_neg fun hany => ?_
  obtain ⟨r, hr, hkind⟩ := (Option.any_eq_true ..).mp hany
  exact h r hr (beq_iff_eq.mp hkind)

/-- Its place and its status are those of the sector. -/
theorem Dev.delivered_place (d : Dev) (g : Grp) (o : SectOut) : (d.delivered g o).cyl = o.cyl ∧ (d.delivered g o).sect = o.sect ∧
    (d.delivered g o).ix = o.ix ∧ (d.delivered g o).status = o.status := by
  unfold Dev.delivered
  split
  all_goals exact ⟨rfl, rfl, rfl, rfl⟩

@[simp] theorem Dev.results_deliver (d : Dev) (g : Grp) (o : SectOut) :
    (d.deliver g o).grpq[g].results = d.grpq[g].results ++ [d.delivered g o] := by
  rw [Dev.deliver_eq, Dev.grpq_onGrpq, getElem_upd]

theorem Dev.results_prefix_deliver (d : Dev) (g : Grp) (o : SectOut) (g' : Grp) :
    d.grpq[g'].results <+: (d.deliver g o).grpq[g'].results := by
  by_cases h : g' = g
  · rw [h, Dev.results_deliver]
    exact List.prefix_append ..
  · rw [Dev.deliver_eq, Dev.grpq_onGrpq, getElem_upd_of_ne _ _ _ _ h]

@[simp] theorem Dev.regs_deliver (d : Dev) (g : Grp) (o : SectOut) : (d.deliver g o).regs = d.regs := rfl
@[simp] theorem Dev.lanes_deliver (d : Dev) (g : Grp) (o : SectOut) : (d.deliver g o).lanes = d.lanes := rfl
@[simp] theorem Dev.fmt_deliver (d : Dev) (g : Grp) (o : SectOut) : (d.deliver g o).fmt = d.fmt := rfl

/-! ### The ends of a ladder -/

/-- What follows the end of a ladder, and leaves registers and sectors alone. -/
theorem Dev.Closes.congr {d c t : Dev} {n : LaneId} {l : Ladder} {flag : Fld} {o s : Nat} (h : d.Closes n l flag o s c)
    (hf : flag.reg = LANE_INT_STATUS) (hw : t.wordsOf outcomeKeys = c.wordsOf outcomeKeys)
    (hl : ∀ m : LaneId, t.lanes[m].sectors = c.lanes[m].sectors)
    (hr : ∀ g : Grp, c.grpq[g].results <+: t.grpq[g].results) : d.Closes n l flag o s t := by
  have hword (r : Reg) (i : Nat) (hr : r.key ∈ outcomeKeys) := Dev.word_of_wordsOf hw hr i 0
  have hget (f : Fld) (hf : f.reg.key ∈ outcomeKeys) : t.get f n = c.get f n := Dev.get_of_word (hword f.reg n hf)
  have hlad (m : LaneId) : t.lanes[m].ladders = c.lanes[m].ladders := congrArg Prod.snd (hl m)
  exact {
    flag := (hget _ (by rw [hf]; decide)).trans h.flag
    valid := (hget _ (by decide)).trans h.valid
    outcome := (hget _ (by decide)).trans h.outcome
    step := (hget _ (by decide)).trans h.step
    sector := (hget _ (by decide)).trans h.sector
    seq := (hget _ (by decide)).trans h.seq
    ladders := (hlad n).trans h.ladders
    sects := (congrArg Prod.fst (hl n)).trans h.sects
    others := fun m hm => (hlad m).trans (h.others m hm)
    words := fun m r hm hk => (hword r m hk).trans (h.words m r hm hk)
    results := fun g => (h.results g).trans (hr g) }

theorem Dev.commit_eq (d : Dev) (n : LaneId) (l : Ladder) (o s p gl : Nat) (pos : Int) (pl : List Byte) (tag : BitVec 128) :
    d.commit n l o s p gl pos pl tag =
      ((d.closeLadder n l LANE_INT_STATUS.RECOVERED 0x401 o s p gl pos).onLane n fun x =>
        x.keepResult l.cyl l.sect (fieldOf pl tag)).deliver n.grp ⟨l.cyl, l.sect, n.ix, 1, pl, tag, l.tagFailed⟩ := rfl

/-- A ladder commits (R104). -/
theorem Dev.commit_closes (d : Dev) (n : LaneId) (l : Ladder) (o s p gl : Nat) (pos : Int) (pl : List Byte) (tag : BitVec 128) :
    d.Closes n l LANE_INT_STATUS.RECOVERED o s (d.commit n l o s p gl pos pl tag) := by
  rw [Dev.commit_eq]
  have hclose := d.closeLadder_closes n l (flag := LANE_INT_STATUS.RECOVERED) rfl rfl (by decide) 0x401 o s p gl pos
  generalize d.closeLadder n l LANE_INT_STATUS.RECOVERED 0x401 o s p gl pos = c at *
  have hkeep := c.laneView_onLane n (fun x => x.keepResult l.cyl l.sect (fieldOf pl tag)) fun _ => rfl
  generalize hk : c.onLane n (fun x => x.keepResult l.cyl l.sect (fieldOf pl tag)) = k at *
  have hout : k.grpq = c.grpq := hk ▸ Dev.grpq_onLane ..
  refine hclose.congr rfl ((Dev.wordsOf_of_regs _ (Dev.regs_deliver ..)).trans (congrArg Prod.fst hkeep)) (fun m => ?_) fun g => ?_
  · obtain ⟨hs, hl⟩ := Dev.sectors_of_laneView hkeep m
    exact Prod.ext hs hl
  · rw [← hout]
    exact Dev.results_prefix_deliver ..

/-- Its sector is delivered as recovered. -/
theorem Dev.commit_delivers {d : Dev} {n : LaneId} (h : d.noVerify n.grp) (l : Ladder) (o s p gl : Nat) (pos : Int) (pl : List Byte)
    (tag : BitVec 128) : (d.commit n l o s p gl pos pl tag).grpq[n.grp].results =
      d.grpq[n.grp].results ++ [⟨l.cyl, l.sect, n.ix, 1, pl, tag, l.tagFailed⟩] := by
  rw [Dev.commit_eq, Dev.results_deliver]
  obtain ⟨hout, hfmt⟩ := d.closeLadder_delivers n l LANE_INT_STATUS.RECOVERED 0x401 o s p gl pos
  generalize d.closeLadder n l LANE_INT_STATUS.RECOVERED 0x401 o s p gl pos = c at *
  have hverify : (c.onLane n fun x => x.keepResult l.cyl l.sect (fieldOf pl tag)).noVerify n.grp := fun r hr =>
    h r (by rwa [Dev.fmt_onLane, hfmt] at hr)
  rw [Dev.delivered_of_noVerify hverify, Dev.grpq_onLane, Dev.results_of_outcomes hout]

/-- A ladder that ends unrecovered leaves its record, where its tag failed, before its sector is delivered. -/
def Dev.recordTag (d : Dev) (n : LaneId) (l : Ladder) : Dev := if l.tagFailed then d.tagRecord n l else d

theorem Dev.outcomeView_recordTag (d : Dev) (n : LaneId) (l : Ladder) : (d.recordTag n l).outcomeView = d.outcomeView := by
  unfold Dev.recordTag
  split
  · exact (Dev.outcomeView_record ..).trans (d.outcomeView_report (x := ⟨201, 1, 1, n.val, 0, 0⟩) (by show 128 ≤ 201; decide))
  · rfl

theorem Dev.unrecovered_eq (d : Dev) (n : LaneId) (l : Ladder) : d.unrecovered n l =
    ((d.closeLadder n l LANE_INT_STATUS.UNRECOVERED 0x402 2 (if l.revs != 0 then 5 else l.tried) 0xF 0 0).recordTag n l).deliver n.grp
      ⟨l.cyl, l.sect, n.ix, if l.tagFailed then 3 else 2, (l.lastTag.getD ([], 0)).1, (l.lastTag.getD ([], 0)).2, l.tagFailed⟩ := rfl

/-- A ladder ends unrecovered (R109). -/
theorem Dev.unrecovered_closes (d : Dev) (n : LaneId) (l : Ladder) :
    d.Closes n l LANE_INT_STATUS.UNRECOVERED 2 (if l.revs != 0 then 5 else l.tried) (d.unrecovered n l) := by
  rw [Dev.unrecovered_eq]
  have hclose := d.closeLadder_closes n l (flag := LANE_INT_STATUS.UNRECOVERED) rfl rfl (by decide) 0x402 2
    (if l.revs != 0 then 5 else l.tried) 0xF 0 0
  generalize d.closeLadder n l LANE_INT_STATUS.UNRECOVERED 0x402 2 _ 0xF 0 0 = c at *
  have hrec := c.outcomeView_recordTag n l
  generalize c.recordTag n l = r at *
  have hlanes : r.lanes = c.lanes := congrArg (fun v => v.2.1) hrec
  have hout : r.outcomes = c.outcomes := congrArg (fun v => v.2.2.1) hrec
  have hwords : r.wordsOf outcomeKeys = c.wordsOf outcomeKeys := congrArg Prod.fst hrec
  refine hclose.congr rfl ((Dev.wordsOf_of_regs _ (Dev.regs_deliver ..)).trans hwords) (fun m => ?_) fun g => ?_
  · rw [Dev.lanes_deliver, hlanes]
  · rw [← Dev.results_of_outcomes hout]
    exact Dev.results_prefix_deliver ..

/-- Its sector is delivered with the status of its failure. -/
theorem Dev.unrecovered_delivers (d : Dev) (n : LaneId) (l : Ladder) : ∃ o ∈ (d.unrecovered n l).grpq[n.grp].results,
    o.cyl = l.cyl ∧ o.sect = l.sect ∧ o.ix = n.ix ∧ o.status = if l.tagFailed then 3 else 2 := by
  rw [Dev.unrecovered_eq, Dev.results_deliver]
  exact ⟨_, List.mem_append_right _ (List.mem_singleton_self _), Dev.delivered_place ..⟩

/-! ### Step 5 -/

/-- A ladder of a lane, to which l has come, waits for a reread: its passes and its members are gone. -/
def LaneSt.awaitReread (x : LaneSt) (l : Ladder) : LaneSt :=
  { x with ladders := x.ladders.map fun y => if y.cyl == l.cyl && y.sect == l.sect then
             { l with todo := [], waits := true, store := [], welt := false, members := [], refused := [] } else y
           dec := match x.dec with
             | some (.ladder c k _ _) => if c == l.cyl && k == l.sect then none else x.dec
             | w => w }

/-- Where a reread is allowed, step 5 waits for it. -/
theorem Dev.laneView_step5 {d : Dev} {n : LaneId} {l : Ladder} (h : d.rereadsAllowed n l = true) :
    (d.step5 n l).laneView = (d.onLane n (·.awaitReread l)).laneView := by
  have hstep : d.step5 n l = ((d.onLane n (·.awaitReread l)).callOff n l.cyl l.sect).showLane n := if_pos h
  rw [hstep, Dev.laneView_showLane, Dev.laneView_callOff]

/-- Where none is, the ladder ends. -/
theorem Dev.step5_of_no_reread {d : Dev} {n : LaneId} {l : Ladder} (h : d.rereadsAllowed n l = false) :
    d.step5 n l = d.unrecovered n l := if_neg (Bool.eq_false_iff.mp h)

end Sys2Proof.Machine
end

section
/-! SUPPORT. What the recovery decoders of the other lanes leave of a lane (R105, R113). -/

namespace Sys2Proof.Machine

/-! ### The relation -/

/-- From d to t lane n keeps its ladders and what its registers show of an outcome, and no outcome is lost. -/
structure Dev.Beside (n : LaneId) (d t : Dev) : Prop where
  ladders : t.lanes[n].ladders = d.lanes[n].ladders
  words : ∀ r, r.key ∈ outcomeKeys → t.word r n = d.word r n
  results : ∀ g : Grp, d.grpq[g].results <+: t.grpq[g].results

theorem Dev.Beside.rfl {n : LaneId} {d : Dev} : Dev.Beside n d d := ⟨.refl _, fun _ _ => .refl _, fun _ => List.prefix_rfl⟩

theorem Dev.Beside.trans {n : LaneId} {d e t : Dev} (h : Dev.Beside n d e) (h' : Dev.Beside n e t) : Dev.Beside n d t :=
  ⟨h'.ladders.trans h.ladders, fun r hr => (h'.words r hr).trans (h.words r hr), fun g => (h.results g).trans (h'.results g)⟩

theorem Dev.Beside.get {n : LaneId} {d t : Dev} (h : Dev.Beside n d t) (f : Fld) (hf : f.reg.key ∈ outcomeKeys) :
    t.get f n = d.get f n := Dev.get_of_word (h.words f.reg hf)

theorem Dev.Beside.quiet {n : LaneId} {d t : Dev} (h : Dev.Beside n d t) (hq : d.quiet n) : t.quiet n := by
  unfold Dev.quiet at hq ⊢
  rwa [h.ladders]

theorem Dev.beside_of_laneView {d t : Dev} (n : LaneId) (h : t.laneView = d.laneView) : Dev.Beside n d t :=
  ⟨(Dev.sectors_of_laneView h n).2, fun _ hr => Dev.word_of_wordsOf (congrArg Prod.fst h) hr n 0, fun g => by
    rw [Dev.results_of_outcomes (congrArg (fun v => v.2.1) h) g]⟩

/-! ### The steps of another lane -/

section
variable {n m : LaneId} (hm : n ≠ m)
include hm

theorem Dev.beside_onLane (d : Dev) (f : LaneSt → LaneSt) : Dev.Beside n d (d.onLane m f) :=
  ⟨by rw [Dev.lanes_onLane, getElem_upd_of_ne _ _ _ _ hm], fun r _ => Dev.word_of_regs (Dev.regs_onLane ..) r n 0, fun g => by
    rw [Dev.grpq_onLane]⟩

/-- Another lane's ladder ends. -/
theorem Dev.Closes.beside {d t : Dev} {l : Ladder} {flag : Fld} {o s : Nat} (h : d.Closes m l flag o s t) : Dev.Beside n d t :=
  ⟨h.others n hm, fun r hr => h.words n r hm hr, h.results⟩

theorem Dev.beside_step5 (d : Dev) (l : Ladder) : Dev.Beside n d (d.step5 m l) := by
  cases h : d.rereadsAllowed m l with
  | false =>
    rw [Dev.step5_of_no_reread h]
    exact (d.unrecovered_closes m l).beside hm
  | true => exact (Dev.beside_onLane hm d _).trans (Dev.beside_of_laneView n (Dev.laneView_step5 h))

theorem Dev.beside_evalPass (d : Dev) (l : Ladder) (p : PassId) (us : List Nat) (r : PassIn) (spec : Bool) :
    Dev.Beside n d (d.evalPass m l p us r spec).2 := by
  unfold Dev.evalPass
  extract_lets conv payload ok l' u l''
  split
  · exact (Dev.commit_closes ..).beside hm
  · exact Dev.beside_onLane hm ..

theorem Dev.beside_advance (d : Dev) (c k fuel : Nat) : Dev.Beside n d (d.advance m c k fuel).2 := by
  induction fuel generalizing d with
  | zero => exact .rfl
  | succ fuel ih =>
    unfold Dev.advance
    split
    · exact .rfl
    next l _ =>
      split
      · exact .rfl
      split
      · -- step 4
        split
        · exact Dev.beside_step5 hm ..
        · dsimp only
          split
          · exact .rfl
          · exact Dev.beside_onLane hm ..
      · split
        · have heval := d.beside_evalPass hm l
          dsimp only
          split
          · exact heval ..
          · exact (heval ..).trans (ih _)
        · split
          · exact .rfl
          · exact (Dev.beside_onLane hm ..).trans (ih _)

theorem Dev.beside_nextDec (d : Dev) (fuel : Nat) : Dev.Beside n d (d.nextDec m fuel) := by
  induction fuel generalizing d with
  | zero => exact .rfl
  | succ fuel ih =>
    unfold Dev.nextDec
    extract_lets l busy
    split
    · exact Dev.beside_of_laneView n (Dev.laneView_showLane ..)
    split
    next x _ =>
      have hadv := d.beside_advance hm x.cyl x.sect 12
      generalize d.advance m x.cyl x.sect 12 = a at hadv ⊢
      dsimp only
      split
      · refine hadv.trans (Dev.beside_of_laneView n ?_)
        unfold Dev.startPass
        rw [Dev.laneView_showLane, Dev.laneView_startDec]
      · exact hadv.trans (ih _)
    · split
      · exact (Dev.beside_onLane hm ..).trans (Dev.beside_of_laneView n (Dev.laneView_nextAsk ..))
      · split
        · exact Dev.beside_of_laneView n (Dev.laneView_showLane ..)
        · exact Dev.beside_of_laneView n (Dev.laneView_nextSpec ..)

end

/-- The decoders of the group at work leave a lane alone whose ladders all wait. -/
theorem Dev.beside_serve {d : Dev} {n : LaneId} (h : d.quiet n) (g : Grp) (fuel : Nat) : Dev.Beside n d (d.serve g fuel) := by
  induction fuel generalizing d with
  | zero => exact .rfl
  | succ fuel ih =>
    unfold Dev.serve
    split
    · exact .rfl
    next i _ =>
      have hnext : Dev.Beside n d (d.nextDec (laneOf g i) 16) := by
        by_cases hi : n = laneOf g i
        · subst hi
          exact Dev.beside_of_laneView _ (Dev.laneView_nextDec h 16)
        · exact Dev.beside_nextDec hi d 16
      exact hnext.trans (ih (hnext.quiet h))

end Sys2Proof.Machine
end

section
/-! SUPPORT. The ends of a ladder as they are met: by a pass, by the welt engine, and by the end of the budget (R94, R104, R105). -/

namespace Sys2Proof.Machine

/-- A command of a group that runs completes with what its meaning gives. -/
theorem completes_of_runGroup {i : Instr} {s : State} {g : Grp} {f : Dev → Dev} {P : Dev → Prop} (hi : exec i s = s.runGroup g f)
    (hc : s.dev.groupRuns g = true) (h : P (f s.dev)) : Completes i s P :=
  completes_of_run hi (by rw [if_pos hc]; exact h)

/-- The one member with a property is the one found. -/
theorem find?_eq_of_unique {α : Type} {l : List α} {y : α} {p : α → Bool} (hy : y ∈ l) (hp : p y = true)
    (h : ∀ z ∈ l, z ≠ y → p z = false) : l.find? p = some y := by
  cases hf : l.find? p with
  | none => exact absurd hp (List.find?_eq_none.mp hf y hy)
  | some z =>
    by_cases hz : z = y
    · rw [hz]
    · exact absurd (List.find?_some hf) (Bool.eq_false_iff.mp (h z (List.mem_of_find?_eq_some hf) hz))

/-- A ladder of another place. -/
theorem place_ne {z : Ladder} {c k : Nat} (h : ¬(z.cyl = c ∧ z.sect = k)) : (z.cyl == c && z.sect == k) = false := by
  simpa [beq_eq_false_iff_ne] using h

theorem place_eq {z : Ladder} {c k : Nat} (hc : z.cyl = c) (hk : z.sect = k) : (z.cyl == c && z.sect == k) = true := by
  simp [hc, hk]

/-- The other ladders of a lane lie at other places. -/
theorem mem_others {x : LaneSt} {l z : Ladder} : z ∈ x.others l ↔ z ∈ x.ladders ∧ ¬(z.cyl = l.cyl ∧ z.sect = l.sect) := by
  simp [LaneSt.others, imp_iff_not_or]

theorem laneOf_grp_ix (n : LaneId) : laneOf n.grp n.ix = n := Fin.ext (Nat.div_add_mod n.val 8)

/-! ### Once the only ladder at work has ended -/

section
variable {d t : Dev} {n : LaneId} {l : Ladder} {flag : Fld} {o st : Nat} (h : d.Closes n l flag o st t)
include h

theorem Dev.Closes.quiet (hw : ∀ z ∈ d.lanes[n].ladders, ¬(z.cyl = l.cyl ∧ z.sect = l.sect) → z.waits = true) : t.quiet n := by
  intro z hz
  rw [h.ladders] at hz
  obtain ⟨hmem, hne⟩ := mem_others.mp hz
  exact hw z hmem hne

theorem Dev.Closes.groupQuiet (hw : ∀ z ∈ d.lanes[n].ladders, ¬(z.cyl = l.cyl ∧ z.sect = l.sect) → z.waits = true)
    (hq : ∀ i : HeadIx, i ≠ n.ix → d.quiet (laneOf n.grp i)) : t.groupQuiet n.grp := by
  intro i
  by_cases hi : i = n.ix
  · rw [hi, laneOf_grp_ix]
    exact h.quiet hw
  · have hne : laneOf n.grp i ≠ n := fun e =>
      hi (Fin.ext (Nat.add_left_cancel (congrArg Fin.val (e.trans (laneOf_grp_ix n).symm))))
    intro z hz
    rw [h.others _ hne] at hz
    exact hq i hi z hz

end

/-! ### A commit -/

/-- A ladder commits while the others of its group wait: its outcome and its record stand once the decoders have taken up what they
can. -/
theorem Dev.commit_serves {d : Dev} {n : LaneId} {l : Ladder} (hv : d.noVerify n.grp)
    (hw : ∀ z ∈ d.lanes[n].ladders, ¬(z.cyl = l.cyl ∧ z.sect = l.sect) → z.waits = true)
    (hq : ∀ i : HeadIx, i ≠ n.ix → d.quiet (laneOf n.grp i)) (o s p gl : Nat) (pos : Int) (pl : List Byte) (tag : BitVec 128) :
    let t := (d.commit n l o s p gl pos pl tag).serve n.grp 64
    t.grpq[n.grp].results = d.grpq[n.grp].results ++ [⟨l.cyl, l.sect, n.ix, 1, pl, tag, l.tagFailed⟩] ∧
      t.get LANE_INT_STATUS.RECOVERED n = 1 ∧ t.get LANE_REC_INFO0.VALID n = 1 ∧ t.get LANE_REC_INFO0.OUTCOME n = o % 16 ∧
      t.get LANE_REC_INFO0.STEP n = s % 16 ∧ t.get LANE_REC_INFO0.SECTOR n = l.sect % 1024 ∧
      t.get LANE_REC_INFO0.SEQ n = (d.get LANE_REC_INFO0.SEQ n + 1) % 128 := by
  have hclose := d.commit_closes n l o s p gl pos pl tag
  have hres := Dev.commit_delivers hv l o s p gl pos pl tag
  generalize d.commit n l o s p gl pos pl tag = c at *
  have hview := Dev.laneView_serve (hclose.groupQuiet hw hq) 64
  generalize c.serve n.grp 64 = t at *
  have hget (f : Fld) (hf : f.reg.key ∈ outcomeKeys) := (Dev.beside_of_laneView n hview).get f hf
  exact ⟨(Dev.results_of_outcomes (congrArg (fun v => v.2.1) hview) n.grp).trans hres, (hget _ (by decide)).trans hclose.flag,
    (hget _ (by decide)).trans hclose.valid, (hget _ (by decide)).trans hclose.outcome, (hget _ (by decide)).trans hclose.step,
    (hget _ (by decide)).trans hclose.sector, (hget _ (by decide)).trans hclose.seq⟩

/-- A pass that converges with a tag that passes commits. -/
theorem Dev.evalPass_of_passes {d : Dev} {n : LaneId} {l : Ladder} {us : List Nat} {r : PassIn} (hc : converged us = true)
    (ht : d.tagPasses l.arm.tagMode n.grp l.cyl l.sect n.ix (scrambleAt l.cyl l.sect n r.payload) r.tag = true) (p : PassId) :
    ∃ l' : Ladder, (l'.cyl, l'.sect, l'.tagFailed) = (l.cyl, l.sect, l.tagFailed) ∧ ∃ x gl pos, (d.evalPass n l p us r false).2 =
      d.commit n l' 0 p.step x gl pos (scrambleAt l.cyl l.sect n r.payload) r.tag := by
  unfold Dev.evalPass
  extract_lets conv payload ok l'
  have hok : (conv && ok) = true := by rw [Bool.and_eq_true]; exact ⟨hc, ht⟩
  rw [if_pos hok]
  exact ⟨l', rfl, _, _, _, rfl⟩

/-- RECOVERY_PASS_END where the pass of the ladder at work succeeds. -/
theorem recoveryPassEnd_commits {s : State} {n : LaneId} {p : PassIn} {q : PassId} {m : Nat} {y : Ladder}
    (hrun : s.dev.groupRuns n.grp = true) (hdec : s.dev.lanes[n].dec = some (.ladder y.cyl y.sect q m))
    (hy : y ∈ s.dev.lanes[n].ladders)
    (hother : ∀ z ∈ s.dev.lanes[n].ladders, z ≠ y → z.waits = true ∧ ¬(z.cyl = y.cyl ∧ z.sect = y.sect))
    (hq : ∀ i : HeadIx, i ≠ n.ix → s.dev.quiet (laneOf n.grp i)) (hv : s.dev.noVerify n.grp)
    (hc : converged (passCounts m false p) = true)
    (ht : s.dev.tagPasses y.arm.tagMode n.grp y.cyl y.sect n.ix (scrambleAt y.cyl y.sect n p.payload) p.tag = true) :
    Completes (.recoveryPassEnd n p) s fun t =>
      t.grpq[n.grp].results =
        s.dev.grpq[n.grp].results ++ [⟨y.cyl, y.sect, n.ix, 1, scrambleAt y.cyl y.sect n p.payload, p.tag, y.tagFailed⟩] ∧
      t.get LANE_INT_STATUS.RECOVERED n = 1 ∧ t.get LANE_REC_INFO0.VALID n = 1 ∧ t.get LANE_REC_INFO0.OUTCOME n = 0 ∧
      t.get LANE_REC_INFO0.STEP n = q.step % 16 ∧ t.get LANE_REC_INFO0.SECTOR n = y.sect % 1024 ∧
      t.get LANE_REC_INFO0.SEQ n = (s.dev.get LANE_REC_INFO0.SEQ n + 1) % 128 := by
  refine completes_of_runGroup rfl hrun ?_
  generalize s.dev = d at *
  extract_lets w e
  rw [show w = some (.ladder y.cyl y.sect q m) from hdec]
  dsimp only
  have hview : e.laneView = d.laneView := Dev.laneView_onLane _ _ _ fun _ => rfl
  have hlad (i : LaneId) : e.lanes[i].ladders = d.lanes[i].ladders := (Dev.sectors_of_laneView hview i).2
  have hseq : e.get LANE_REC_INFO0.SEQ n = d.get LANE_REC_INFO0.SEQ n := (Dev.beside_of_laneView n hview).get _ (by decide)
  have hres : e.grpq = d.grpq := Dev.grpq_onLane ..
  have hverify : e.noVerify n.grp := fun r hr => hv r (by rwa [Dev.fmt_onLane] at hr)
  have htag : e.tagPasses y.arm.tagMode n.grp y.cyl y.sect n.ix (scrambleAt y.cyl y.sect n p.payload) p.tag = true := ht
  have hquiet : ∀ i : HeadIx, i ≠ n.ix → e.quiet (laneOf n.grp i) := fun i hi => Dev.quiet_of_laneView hview (hq i hi)
  clear_value e
  have hfind : e.lanes[n].ladders.find? (fun z => z.cyl == y.cyl && z.sect == y.sect) = some y := by
    rw [hlad]
    exact find?_eq_of_unique hy (place_eq rfl rfl) fun z hz hne => place_ne (hother z hz hne).2
  rw [hfind]
  dsimp only
  obtain ⟨l', hl', x, gl, pos, hcommit⟩ := Dev.evalPass_of_passes hc htag q
  obtain ⟨hcyl, hsect, hfailed⟩ : l'.cyl = y.cyl ∧ l'.sect = y.sect ∧ l'.tagFailed = y.tagFailed := by simpa using hl'
  have hwait : ∀ z ∈ e.lanes[n].ladders, ¬(z.cyl = l'.cyl ∧ z.sect = l'.sect) → z.waits = true := fun z hz hne => by
    rw [hcyl, hsect] at hne
    exact (hother z (hlad n ▸ hz) fun e => hne (by rw [e]; exact ⟨rfl, rfl⟩)).1
  rw [hcommit]
  have hend := Dev.commit_serves hverify hwait hquiet 0 q.step x gl pos (scrambleAt y.cyl y.sect n p.payload) p.tag
  rwa [hcyl, hsect, hfailed, hseq, hres] at hend

/-- RECONSTRUCTION_DELIVERED where the members suffice and the field's tag passes. -/
theorem reconstructionDelivered_commits {s : State} {n : LaneId} {y : Ladder} {e : BandEntry} {m : Nat} {f : List Byte}
    (hrun : s.dev.groupRuns n.grp = true) (hy : y ∈ s.dev.lanes[n].ladders) (hwaits : y.waits = false) (hwelt : y.welt = true)
    (hother : ∀ z ∈ s.dev.lanes[n].ladders, z ≠ y → z.waits = true ∧ ¬(z.cyl = y.cyl ∧ z.sect = y.sect))
    (hq : ∀ i : HeadIx, i ≠ n.ix → s.dev.quiet (laneOf n.grp i)) (hv : s.dev.noVerify n.grp)
    (hneeds : s.dev.weltNeeds n.grp y.cyl y.sect = some (e, m)) (henough : s.dev.enough n y = true)
    (hf : weltRebuild e y.cyl n.ix y.members = some f)
    (ht : s.dev.tagPasses y.arm.tagMode n.grp y.cyl y.sect n.ix (f.take 4096) (tagOf (f.drop 4096)) = true) :
    Completes (.reconstructionDelivered n y.cyl y.sect) s fun t =>
      t.grpq[n.grp].results =
        s.dev.grpq[n.grp].results ++ [⟨y.cyl, y.sect, n.ix, 1, f.take 4096, tagOf (f.drop 4096), y.tagFailed⟩] ∧
      t.get LANE_INT_STATUS.RECOVERED n = 1 ∧ t.get LANE_REC_INFO0.OUTCOME n = 1 ∧ t.get LANE_REC_INFO0.STEP n = 4 := by
  refine completes_of_runGroup rfl hrun ?_
  generalize s.dev = d at *
  have hfind : d.lanes[n].ladders.find? (fun z => z.cyl == y.cyl && z.sect == y.sect && z.welt && !z.waits) = some y :=
    find?_eq_of_unique hy (by simp [hwelt, hwaits]) fun z hz hne => by
      rw [place_ne (hother z hz hne).2]
      rfl
  rw [hfind, hneeds]
  dsimp only
  rw [henough, hf]
  dsimp only
  rw [ht, Bool.or_true, if_neg (by decide), if_pos rfl]
  obtain ⟨hres, hflag, -, hout, hstep, -⟩ := Dev.commit_serves hv
    (fun z hz hne => (hother z hz fun e => hne (by rw [e]; exact ⟨rfl, rfl⟩)).1) hq 1 4 0xF 0 0 (f.take 4096) (tagOf (f.drop 4096))
  exact ⟨hres, hflag, hout, hstep⟩

/-! ### The end of the budget -/

section
variable {s : State} {n : LaneId} {y : Ladder} (hrun : s.dev.groupRuns n.grp = true) (hy : y ∈ s.dev.lanes[n].ladders)
  (hwaits : y.waits = false)
  (hother : ∀ z ∈ s.dev.lanes[n].ladders, z ≠ y → z.waits = true ∧ ¬(z.cyl = y.cyl ∧ z.sect = y.sect))
include hrun hy hwaits hother

/-- The budget ends for the ladder that is at work. -/
theorem completes_bufBudgetExpiry {P : Dev → Prop} (h : P ((s.dev.step5 n y).serve n.grp 64)) :
    Completes (.bufBudgetExpiry n y.cyl y.sect) s P := by
  refine completes_of_runGroup rfl hrun ?_
  have hfind : s.dev.lanes[n].ladders.find? (fun z => z.cyl == y.cyl && z.sect == y.sect && !z.waits) = some y :=
    find?_eq_of_unique hy (by simp [hwaits]) fun z hz hne => by
      rw [place_ne (hother z hz hne).2]
      rfl
  rw [hfind]
  exact h

/-- Without a reread the ladder ends unrecovered. -/
theorem bufBudgetExpiry_ends (htag : y.tagFailed = false) (hno : s.dev.rereadsAllowed n y = false) :
    Completes (.bufBudgetExpiry n y.cyl y.sect) s fun t =>
      (∃ o ∈ t.grpq[n.grp].results, o.cyl = y.cyl ∧ o.sect = y.sect ∧ o.ix = n.ix ∧ o.status = 2) ∧
      t.get LANE_INT_STATUS.UNRECOVERED n = 1 ∧ t.get LANE_REC_INFO0.OUTCOME n = 2 ∧
      ∀ z ∈ t.lanes[n].ladders, ¬(z.cyl = y.cyl ∧ z.sect = y.sect) := by
  refine completes_bufBudgetExpiry hrun hy hwaits hother ?_
  rw [Dev.step5_of_no_reread hno]
  generalize s.dev = d at *
  have hclose := d.unrecovered_closes n y
  obtain ⟨o, ho, hcyl, hsect, hix, hstatus⟩ := d.unrecovered_delivers n y
  rw [htag] at hstatus
  generalize d.unrecovered n y = u at *
  have hquiet : u.quiet n := hclose.quiet fun z hz hne => (hother z hz fun e => hne (by rw [e]; exact ⟨rfl, rfl⟩)).1
  have hserve := Dev.beside_serve hquiet n.grp 64
  refine ⟨⟨o, (hserve.results _).subset ho, hcyl, hsect, hix, hstatus⟩, (hserve.get _ (by decide)).trans hclose.flag,
    (hserve.get _ (by decide)).trans hclose.outcome, fun z hz => ?_⟩
  rw [hserve.ladders, hclose.ladders] at hz
  exact (mem_others.mp hz).2

/-- With one the ladder waits for it. -/
theorem bufBudgetExpiry_waits (hre : s.dev.rereadsAllowed n y = true) :
    Completes (.bufBudgetExpiry n y.cyl y.sect) s fun t =>
      ∃ z ∈ t.lanes[n].ladders, z.cyl = y.cyl ∧ z.sect = y.sect ∧ z.waits = true := by
  refine completes_bufBudgetExpiry hrun hy hwaits hother ?_
  generalize s.dev = d at *
  have hlad : (d.step5 n y).lanes[n].ladders = (d.lanes[n].awaitReread y).ladders := by
    rw [(Dev.sectors_of_laneView (Dev.laneView_step5 hre) n).2, Dev.lanes_onLane, getElem_upd]
  generalize d.step5 n y = u at *
  -- each ladder of the lane waits now
  have hquiet : u.quiet n := by
    intro z hz
    rw [hlad] at hz
    obtain ⟨x, hx, rfl⟩ := List.mem_map.mp hz
    by_cases hplace : x.cyl = y.cyl ∧ x.sect = y.sect
    · rw [if_pos (place_eq hplace.1 hplace.2)]
    · rw [place_ne hplace, if_neg Bool.false_ne_true]
      exact (hother x hx fun e => hplace (by rw [e]; exact ⟨rfl, rfl⟩)).1
  rw [(Dev.beside_serve hquiet n.grp 64).ladders, hlad]
  exact ⟨_, List.mem_map_of_mem hy, by rw [if_pos (place_eq rfl rfl)]; exact ⟨rfl, rfl, rfl⟩⟩

end

end Sys2Proof.Machine
end

section
/-! SUPPORT. The main pass that succeeds (R78, R92 to R94, R111). -/

namespace Sys2Proof.Machine

/-- Speculation that starts beside ladders that wait. -/
theorem Dev.laneView_speculate {d : Dev} {n : LaneId} (h : d.quiet n) (y : Sect) : (d.speculate n y).laneView = d.laneView := by
  unfold Dev.speculate
  extract_lets known first rest
  split
  · rfl
  · generalize hk : d.onLane n _ = k
    have hkeep : k.laneView = d.laneView := hk ▸ Dev.laneView_onLane _ _ _ fun _ => rfl
    exact (Dev.laneView_nextDec (Dev.quiet_of_laneView hkeep h) 16).trans hkeep

@[simp] theorem Dev.laneView_putLoops (d : Dev) (n : LaneId) (z : Nat) (l : Loops) : (d.putLoops n z l).laneView = d.laneView := by
  have hcoef (f : Fld) (hf : f.reg.key ∉ outcomeKeys) (b u k : Nat) (v : List (Rat × Nat)) (d : Dev) :
      (d.each v fun p d => d.set f (coefField b u p.1) n (k * z + p.2)).laneView = d.laneView :=
    Dev.laneView_each _ _ (fun _ d => d.laneView_set f _ _ _ hf) d
  unfold Dev.putLoops
  extract_lets d1 d2 d3 d4 d5
  refine (hcoef LANE_SET_TGT.G (by decide) ..).trans ((hcoef LANE_SET_FIR_B.COEF (by decide) ..).trans
    ((hcoef LANE_SET_FIR_A.COEF (by decide) ..).trans ?_))
  simp (disch := decide) [d3, d2, d1]

@[simp] theorem Dev.laneView_writeBack (d : Dev) (n : LaneId) (y : Sect) : (d.writeBack n y).laneView = d.laneView := by
  unfold Dev.writeBack
  rw [Dev.laneView_ite, Dev.laneView_putLoops, ite_self]

/-! ### Its steps -/

/-- The sector leaves the main pass: its slot is filled. -/
def LaneSt.endSect (x : LaneSt) (y : Sect) : LaneSt :=
  { x with sects := x.sects.erase y
           slots := match y.slot with
             | some i => upd x.slots i (Option.map Slot.fillEnds)
             | none => x.slots }

/-- The main pass of a sector ends, which may start speculation for it. -/
def Dev.endMain (d : Dev) (n : LaneId) (y : Sect) (us : List Nat) : Dev :=
  (if d.trigUsc n us then d.speculate n y else d).onLane n (·.endSect y)

/-- The lane keeps the result of a sector; its speculation is discarded. -/
def LaneSt.keepMain (x : LaneSt) (c k : Nat) (field : List Byte) : LaneSt :=
  { x with specs := x.specs.filter fun y => !(y.cyl == c && y.sect == k)
           dec := match x.dec with
             | some (.spec a b _ _) => if a == c && b == k then none else x.dec
             | w => w }.keepResult c k field

/-- A main pass has succeeded: the write-back, the verdict and the result. -/
def Dev.passMain (d : Dev) (n : LaneId) (y : Sect) (field : List Byte) : Dev :=
  ((d.writeBack n y).verdict n.grp true false).onLane n (·.keepMain y.arm.cyl y.arm.sect field)

section
variable {d : Dev} {n : LaneId} {y : Sect} (us : List Nat) (field : List Byte)

/-- What the end of a main pass leaves. -/
theorem Dev.endMain_ends (hq : d.quiet n) :
    (d.endMain n y us).lanes[n].sects = d.lanes[n].sects.erase y ∧
      (∀ m : LaneId, (d.endMain n y us).lanes[m].ladders = d.lanes[m].ladders) ∧ (d.endMain n y us).outcomes = d.outcomes ∧
      (d.endMain n y us).fmt = d.fmt := by
  unfold Dev.endMain
  generalize he : (if d.trigUsc n us = true then d.speculate n y else d) = e
  have hview : e.laneView = d.laneView := by
    rw [← he, Dev.laneView_ite, Dev.laneView_speculate hq, ite_self]
  refine ⟨?_, fun m => ?_, ?_, ?_⟩
  · rw [Dev.lanes_onLane, getElem_upd, ← (Dev.sectors_of_laneView hview n).1]
    rfl
  · rw [Dev.lanes_onLane, ← (Dev.sectors_of_laneView hview m).2]
    by_cases hm : m = n
    · rw [hm, getElem_upd]
      rfl
    · rw [getElem_upd_of_ne _ _ _ _ hm]
  · exact congrArg (fun v => v.2.1) hview
  · rw [Dev.fmt_onLane]
    exact congrArg (fun v => v.2.2.1) hview

/-- What the success of a main pass leaves. -/
theorem Dev.passMain_passes (m : LaneId) :
    (d.passMain n y field).lanes[m].sectors = d.lanes[m].sectors ∧ (d.passMain n y field).outcomes = d.outcomes ∧
      (d.passMain n y field).fmt = (d.verdict n.grp true false).fmt := by
  unfold Dev.passMain
  have hview := d.laneView_writeBack n y
  generalize d.writeBack n y = b at *
  have hkeep := (b.verdict n.grp true false).laneView_onLane n (·.keepMain y.arm.cyl y.arm.sect field) fun _ => rfl
  have hfmt : b.fmt = d.fmt := congrArg (fun v => v.2.2.1) hview
  have hout : b.outcomes = d.outcomes := congrArg (fun v => v.2.1) hview
  have hsect := Dev.sectors_of_laneView hview m
  generalize hv : b.verdict n.grp true false = v at *
  have hvfmt : v.fmt = (d.verdict n.grp true false).fmt := by
    rw [← hv]
    unfold Dev.verdict
    rw [Dev.fmt_onFmt, Dev.fmt_onFmt, hfmt]
  have hvout : v.outcomes = b.outcomes := hv ▸ rfl
  have hvlane : v.lanes = b.lanes := hv ▸ Dev.lanes_onFmt ..
  have hlane := Dev.sectors_of_laneView hkeep m
  rw [hvlane] at hlane
  exact ⟨Prod.ext (hlane.1.trans hsect.1) (hlane.2.trans hsect.2),
    ((congrArg (fun v => v.2.1) hkeep : _ = v.outcomes).trans hvout).trans hout,
    (Dev.fmt_onLane ..).trans hvfmt⟩

end

/-- An outcome that is delivered while the ladders of the group wait stands once the decoders have taken up what they can. -/
theorem Dev.deliver_serves {d : Dev} {g : Grp} (hv : d.noVerify g) (hq : d.groupQuiet g) (o : SectOut) (n : LaneId) :
    let t := (d.deliver g o).serve g 64
    t.grpq[g].results = d.grpq[g].results ++ [o] ∧ t.lanes[n].sects = d.lanes[n].sects ∧ t.fmt = d.fmt := by
  have hres := d.results_deliver g o
  rw [Dev.delivered_of_noVerify hv] at hres
  have hlanes := d.lanes_deliver g o
  have hfmt := d.fmt_deliver g o
  generalize d.deliver g o = e at *
  have hserve := Dev.laneView_serve (d := e) (g := g) (fun i z hz => hq i z (hlanes ▸ hz)) 64
  exact ⟨(Dev.results_of_outcomes (congrArg (fun v => v.2.1) hserve) g).trans hres,
    hlanes ▸ (Dev.sectors_of_laneView hserve n).1, Eq.trans (congrArg (fun v => v.2.2.1) hserve) hfmt⟩

/-! ### The command -/

section
variable {s : State} {n : LaneId} {p : PassIn} {y : Sect} {l : List Sect} (hrun : s.dev.groupRuns n.grp = true)
  (hsects : s.dev.lanes[n].sects = y :: l) (hecc : y.arm.ecc = true) (hlong : tooLong y.tas = false)
  (hquiet : s.dev.groupQuiet n.grp) (hnone : ∀ z ∈ s.dev.lanes[n].ladders, ¬(z.cyl = y.arm.cyl ∧ z.sect = y.arm.sect))
  (hc : converged (passCounts (countField (s.dev.get LANE_ITER.GLOBAL_OTF n) 8) (s.dev.on LANE_ITER.STALL_STOP n) p) = true)
  (ht : s.dev.tagPasses y.arm.tagMode n.grp y.arm.cyl y.arm.sect n.ix (scrambleAt y.arm.cyl y.arm.sect n p.payload) p.tag = true)
include hrun hsects hecc hlong hquiet hnone hc ht

/-- The oldest sector's main pass succeeds, and it has no ladder. -/
theorem completes_mainPassEnd {P : Dev → Prop}
    (h : ∀ us, P ((((((s.dev.endMain n y us).passMain n y (fieldOf (scrambleAt y.arm.cyl y.arm.sect n p.payload) p.tag)).count
      0x400 (some n.grp)).deliver n.grp
        ⟨y.arm.cyl, y.arm.sect, n.ix, 0, scrambleAt y.arm.cyl y.arm.sect n p.payload, p.tag, false⟩)).serve n.grp 64)) :
    Completes (.mainPassEnd n p) s P := by
  refine completes_of_runGroup rfl hrun ?_
  generalize s.dev = d at *
  have hhead : d.lanes[n].sects.find? (fun y => y.arm.ecc) = some y := by
    rw [hsects]
    exact List.find?_cons_of_pos hecc
  rw [hhead]
  dsimp only
  have hcounts : d.mainCounts n y p = passCounts (countField (d.get LANE_ITER.GLOBAL_OTF n) 8) (d.on LANE_ITER.STALL_STOP n) p := by
    unfold Dev.mainCounts
    rw [hlong]
    rfl
  rw [hcounts, hc, ht, Bool.and_true, if_pos rfl]
  have hq : d.quiet n := laneOf_grp_ix n ▸ hquiet n.ix
  refine cast (congrArg P ?_) (h (passCounts (countField (d.get LANE_ITER.GLOBAL_OTF n) 8) (d.on LANE_ITER.STALL_STOP n) p))
  generalize passCounts _ _ p = us at *
  have hlad : ((d.endMain n y us).passMain n y (fieldOf (scrambleAt y.arm.cyl y.arm.sect n p.payload) p.tag)).lanes[n].ladders =
      d.lanes[n].ladders := (congrArg Prod.snd (Dev.passMain_passes _ n).1).trans ((Dev.endMain_ends us hq).2.1 n)
  have hfind : List.find? (fun z => z.cyl == y.arm.cyl && z.sect == y.arm.sect)
      ((d.endMain n y us).passMain n y (fieldOf (scrambleAt y.arm.cyl y.arm.sect n p.payload) p.tag)).lanes[n].ladders = none := by
    rw [hlad]
    exact List.find?_eq_none.mpr fun z hz => Bool.eq_false_iff.mp (place_ne (hnone z hz))
  split
  next z hz => exact absurd (hz.symm.trans hfind) (Option.some_ne_none z)
  · rfl

/-- The sector is delivered with its verdict. -/
theorem mainPassEnd_delivers (hv : s.dev.noVerify n.grp) :
    Completes (.mainPassEnd n p) s fun t =>
      t.grpq[n.grp].results =
        s.dev.grpq[n.grp].results ++
          [⟨y.arm.cyl, y.arm.sect, n.ix, 0, scrambleAt y.arm.cyl y.arm.sect n p.payload, p.tag, false⟩] ∧
      t.lanes[n].sects = l ∧ t.fmt[n.grp].verdicts = s.dev.fmt[n.grp].verdicts - 1 ∧
      t.fmt[n.grp].newVerdictFail = s.dev.fmt[n.grp].newVerdictFail := by
  refine completes_mainPassEnd hrun hsects hecc hlong hquiet hnone hc ht fun us => ?_
  generalize s.dev = d at *
  obtain ⟨hends, hlads, hout, hfmt⟩ := Dev.endMain_ends (y := y) us (laneOf_grp_ix n ▸ hquiet n.ix : d.quiet n)
  generalize d.endMain n y us = e at *
  have hpass := Dev.passMain_passes (d := e) (n := n) (y := y) (fieldOf (scrambleAt y.arm.cyl y.arm.sect n p.payload) p.tag)
  generalize e.passMain n y _ = k at *
  obtain ⟨-, hkout, hkfmt⟩ := hpass n
  have hcount := k.laneView_count 0x400 (some n.grp) 1
  generalize k.count 0x400 (some n.grp) = c at *
  have hcfmt : c.fmt = (e.verdict n.grp true false).fmt := Eq.trans (congrArg (fun v => v.2.2.1) hcount) hkfmt
  have hlane (m : LaneId) : c.lanes[m].sects = e.lanes[m].sects ∧ c.lanes[m].ladders = e.lanes[m].ladders := by
    obtain ⟨hs, hl⟩ := Prod.mk.inj (hpass m).1
    obtain ⟨hs', hl'⟩ := Dev.sectors_of_laneView hcount m
    exact ⟨hs'.trans hs, hl'.trans hl⟩
  have hcout : c.outcomes = d.outcomes := Eq.trans (congrArg (fun v => v.2.1) hcount) (hkout.trans hout)
  have hverdict : c.fmt[n.grp].verdicts = d.fmt[n.grp].verdicts - 1 ∧ c.fmt[n.grp].newVerdictFail = d.fmt[n.grp].newVerdictFail ∧
      c.fmt[n.grp].cur = d.fmt[n.grp].cur := by
    unfold Dev.verdict at hcfmt
    rw [hcfmt, Dev.fmt_onFmt, getElem_upd, hfmt]
    exact ⟨rfl, Bool.or_false _, rfl⟩
  have hverify : c.noVerify n.grp := fun r hr => hv r (hverdict.2.2 ▸ hr)
  obtain ⟨hres, hsect, htfmt⟩ := Dev.deliver_serves hverify (fun i z hz => hquiet i z (by rwa [(hlane _).2, hlads] at hz))
    ⟨y.arm.cyl, y.arm.sect, n.ix, 0, scrambleAt y.arm.cyl y.arm.sect n p.payload, p.tag, false⟩ n
  rw [hres, hsect, htfmt, Dev.results_of_outcomes hcout, (hlane n).1, hends, hsects]
  exact ⟨rfl, List.erase_cons_head .., hverdict.1, hverdict.2.1⟩

end

/-- Settles O15: in each case the ladders that are not at work wait, so that the decoders of the group, which take up what they can
after the end of a pass or of a ladder, leave the outcome and its record as they stand. -/
theorem oneOutcomePerSector : Obligations.OneOutcomePerSector := by
  unfold Obligations.OneOutcomePerSector
  refine ⟨?_, ?_, ?_, ?_, ?_⟩
  · intro s n p y l hrun hsects hecc hlong hquiet hv hnone hc ht
    exact mainPassEnd_delivers hrun hsects hecc hlong hquiet hnone hc ht hv
  · rintro s n p c k q m y hrun hdec hy rfl rfl hother hq hv hc ht
    exact recoveryPassEnd_commits hrun hdec hy hother hq hv hc ht
  · rintro s n c k y hrun hy rfl rfl hwaits htag hother hno
    exact bufBudgetExpiry_ends hrun hy hwaits hother htag hno
  · rintro s n c k y hrun hy rfl rfl hwaits hother hre
    exact bufBudgetExpiry_waits hrun hy hwaits hother hre
  · rintro s n c k y e m f hrun hy rfl rfl hwaits hwelt hother hq hv hneeds henough hf ht
    exact reconstructionDelivered_commits hrun hy hwaits hwelt hother hq hv hneeds henough hf ht

end Sys2Proof.Machine
end

section
/-! SUPPORT. The preamble's limits (R81) and the primary sync candidate (R84). -/
namespace Sys2Proof.Machine

/-! ### LANE_PREAMBLE (R81) -/

/-- Every bit of LANE_PREAMBLE is a bit of an RW field. -/
theorem lanePreamble_written (old v : Word) (lock : Bool) : LANE_PREAMBLE.written old v lock 0 = v := by
  refine BitVec.eq_of_getLsbD_eq fun k hk => ?_
  have hclear : ∀ b < 4, LANE_PREAMBLE.clear ⟨8 * b, 8, .rw⟩ = true := by decide
  exact Reg.getLsbD_written (hclear (k / 8) (by omega)) old v lock (by show 8 * (k / 8) ≤ k; omega)
    (by show k < 8 * (k / 8) + 8; omega)

/-- The limits of R81 in terms of the register's fields. -/
theorem preambleOk_iff (v : Word) : preambleOk v = true ↔
    LANE_PREAMBLE.ZPS_LEN.of v % 4 = 0 ∧ 8 ≤ LANE_PREAMBLE.ZPS_LEN.of v ∧ LANE_PREAMBLE.ZPS_LEN.of v ≤ 32 ∧
      LANE_PREAMBLE.ZPS_START.of v + LANE_PREAMBLE.ZPS_LEN.of v + LANE_PREAMBLE.ACQ_LEN.of v ≤ 120 := by
  unfold preambleOk
  simp only [Bool.and_eq_true, decide_eq_true_eq, beq_iff_eq, and_assoc]
  rfl

/-- Settles O17: within the limits the write leaves its value, the fields of the register being RW; beyond them it is its capture
alone. -/
theorem preambleLimits : Obligations.PreambleLimits := by
  unfold Obligations.PreambleLimits
  intro s who n v htakes
  refine ⟨fun hok => completes_of_run rfl ?_, fun hbad hvalid => completes_of_run rfl ?_⟩
  · rw [Dev.tryWriteOr_taken _ _ _ _ _ htakes (if_pos ((preambleOk_iff v).mpr hok)), Dev.plainWrite_unlocked (by decide),
      Dev.word_setWord, lanePreamble_written]
  · rw [Dev.tryWriteOr_refused _ _ _ _ _ htakes (if_neg (hbad ∘ (preambleOk_iff v).mp))]
    obtain ⟨hv, -, -, hcause, -, -⟩ := Dev.records_capture hvalid who (LANE_PREAMBLE.at n) true .range
    exact ⟨Dev.word_capture_of_key _ _ _ _ _ _ _ _ (by decide) (by decide), hv, hcause⟩

/-! ### The primary candidate (R84) -/

/-- The positions of a distance list, each with its distance, in time order. -/
def positions (l : List Nat) : List (Int × Nat) := l.zipIdx.map fun p => (posOf p.2, p.1)

theorem getElem_positions {l : List Nat} {k : Nat} (h : k < (positions l).length) :
    (positions l)[k] = (posOf k, distAt l (posOf k)) := by
  have hl : k < l.length := by simpa [positions] using h
  have hk : (posOf k + 32).toNat = k := by unfold posOf; omega
  simp [positions, distAt, hk, hl]

/-- The primary candidate is the first position of the window within the limit. -/
theorem flyCandidates_fst (m : Nat) (l : List Nat) : (flyCandidates m l).1 =
    ((positions l).find? fun p => decide (-8 ≤ p.1) && decide (p.1 ≤ 8) && decide (p.2 ≤ m)).map Prod.fst := by
  have hwindow : (windowOf (-8) 8 l).find? (fun p => decide (p.2 ≤ m)) =
      (positions l).find? fun p => decide (-8 ≤ p.1) && decide (p.1 ≤ 8) && decide (p.2 ≤ m) := by
    simp only [windowOf, positions, List.find?_filter, Bool.decide_and, Bool.decide_eq_true]
  rw [← hwindow]
  unfold flyCandidates
  dsimp only
  split
  next p hp => rw [hp]; rfl
  next hnone =>
    rw [hnone]
    split
    all_goals rfl

section
variable {m : Nat} {l : List Nat} (hl : l.length = 65)
include hl

/-- Each position of the window stands in the list. -/
theorem lt_length_positions {q : Int} (h : -8 ≤ q) (h' : q ≤ 8) : (q + 32).toNat < (positions l).length ∧ posOf (q + 32).toNat = q := by
  have hlen : (positions l).length = 65 := by simpa [positions] using hl
  unfold posOf
  omega

theorem flyCandidates_fst_eq_some (p : Int) : (flyCandidates m l).1 = some p ↔
    (-8 ≤ p ∧ p ≤ 8 ∧ distAt l p ≤ m ∧ ∀ q : Int, -8 ≤ q → q < p → m < distAt l q) := by
  rw [flyCandidates_fst, Option.map_eq_some_iff]
  simp only [List.find?_eq_some_iff_getElem, getElem_positions, Bool.and_eq_true, decide_eq_true_eq, Bool.not_eq_true',
    Bool.and_eq_false_iff, decide_eq_false_iff_not]
  constructor
  · rintro ⟨_, ⟨⟨⟨hlo, hhi⟩, hm⟩, k, hk, rfl, hfirst⟩, rfl⟩
    refine ⟨hlo, hhi, hm, fun q hq hqp => ?_⟩
    dsimp only at hhi hqp
    obtain ⟨-, hpos⟩ := lt_length_positions hl hq (by omega)
    have := hfirst (q + 32).toNat (by unfold posOf at hqp; omega)
    rw [hpos] at this
    omega
  · rintro ⟨hlo, hhi, hm, hfirst⟩
    obtain ⟨hk, hpos⟩ := lt_length_positions hl hlo hhi
    refine ⟨(p, distAt l p), ⟨⟨⟨hlo, hhi⟩, hm⟩, (p + 32).toNat, hk, by rw [hpos], fun j hj => ?_⟩, rfl⟩
    by_cases hj8 : -8 ≤ posOf j
    · exact .inr (Nat.not_le.mpr (hfirst _ hj8 (by unfold posOf; omega)))
    · exact .inl (.inl hj8)

theorem flyCandidates_fst_eq_none : (flyCandidates m l).1 = none ↔ ∀ q : Int, -8 ≤ q → q ≤ 8 → m < distAt l q := by
  rw [flyCandidates_fst, Option.map_eq_none_iff, List.find?_eq_none]
  constructor
  · intro h q hq hq'
    obtain ⟨hk, hpos⟩ := lt_length_positions hl hq hq'
    have hmem := List.getElem_mem hk
    rw [getElem_positions, hpos] at hmem
    simpa [hq, hq'] using h _ hmem
  · intro h p hp
    obtain ⟨k, hk, rfl⟩ := List.mem_iff_getElem.mp hp
    rw [getElem_positions]
    simpa using h (posOf k)

end

/-- Settles O19: the first position within the limit of those from -8 to +8. -/
theorem primaryIsFirstWithin : Obligations.PrimaryIsFirstWithin := by
  unfold Obligations.PrimaryIsFirstWithin
  exact fun m l hl => ⟨flyCandidates_fst_eq_some hl, flyCandidates_fst_eq_none hl⟩

end Sys2Proof.Machine
end

section
/-! SUPPORT. The settings of the lanes: no report, no fatal fault, no retract and no flush that it enters writes a register of a lane
beside those that show its state (R27, R536 to R546). -/
namespace Sys2Proof.Machine

/-! ### The view -/

/-- The registers of a lane that the controller writes: its status, its records, its interrupts, HOLD. -/
def laneStatusKeys : List Nat :=
  [LANE_STATUS.key, LANE_REC_INFO0.key, LANE_REC_INFO1.key, LANE_REC_INFO2.key, LANE_INT_STATUS.key, LANE_SBUF_SEL.key]

/-- The key of another register of the lanes. -/
def isSetting (k : Nat) : Bool := decide (Blk.lane.base ≤ k) && !laneStatusKeys.contains k

/-- The settings of the lanes. -/
def Dev.settings (d : Dev) : Reg → Nat → Nat → Word := fun r i j => if isSetting r.key then d.word r i j else 0

theorem Dev.settings_of_words {d t : Dev} (h : ∀ r i j, isSetting r.key = true → t.word r i j = d.word r i j) :
    t.settings = d.settings := by
  funext r i j
  exact if_ctx_congr Iff.rfl (h r i j) fun _ => rfl

theorem Dev.word_of_settings {d t : Dev} (h : t.settings = d.settings) {r : Reg} (hr : isSetting r.key = true) (i j : Nat) :
    t.word r i j = d.word r i j := by
  have := congrFun (congrFun (congrFun h r) i) j
  unfold Dev.settings at this
  rwa [if_pos hr, if_pos hr] at this

/-! ### Register writes -/

section
variable (d : Dev) (f : Fld) (v i j : Nat) (hf : isSetting f.reg.key = false)
include hf

@[simp] theorem Dev.settings_set : (d.set f v i j).settings = d.settings :=
  Dev.settings_of_words fun r _ _ hr => Dev.word_set_of_key _ _ _ _ _ _ _ _ fun e => by rw [e, hr] at hf; cases hf

@[simp] theorem Dev.settings_raise : (d.raise f i j).settings = d.settings := d.settings_set f 1 i j hf

@[simp] theorem Dev.settings_bump (n : Nat) : (d.bump f i j n).settings = d.settings := d.settings_set f _ i j hf

@[simp] theorem Dev.settings_setSat : (d.setSat f v i j).settings = d.settings := d.settings_set f _ i j hf

@[simp] theorem Dev.settings_orBits (m : Nat) : (d.orBits f m i j).settings = d.settings := d.settings_set f _ i j hf

@[simp] theorem Dev.settings_clrBit (b : Nat) : (d.clrBit f b i j).settings = d.settings := d.settings_set f _ i j hf

@[simp] theorem Dev.settings_stamp (q : Fld) (hq : isSetting q.reg.key = false) :
    (d.stamp f q i j).settings = d.settings :=
  (Dev.settings_set _ f 1 i j hf).trans (d.settings_set q _ i j hq)

end

/-! ### Updates that write no register -/

theorem Dev.settings_of_regs {d t : Dev} (h : t.regs = d.regs) : t.settings = d.settings :=
  Dev.settings_of_words fun _ _ _ _ => Dev.word_of_regs h ..

@[simp] theorem Dev.settings_onAlm (d : Dev) (f : AlmSt → AlmSt) : (d.onAlm f).settings = d.settings :=
  Dev.settings_of_regs rfl
@[simp] theorem Dev.settings_onFlt (d : Dev) (f : FltSt → FltSt) : (d.onFlt f).settings = d.settings :=
  Dev.settings_of_regs rfl
@[simp] theorem Dev.settings_onTok (d : Dev) (f : Tokens → Tokens) : (d.onTok f).settings = d.settings :=
  Dev.settings_of_regs rfl
@[simp] theorem Dev.settings_onQue (d : Dev) (f : QueSt → QueSt) : (d.onQue f).settings = d.settings :=
  Dev.settings_of_regs rfl
@[simp] theorem Dev.settings_onSpn (d : Dev) (f : Spn → Spn) : (d.onSpn f).settings = d.settings :=
  Dev.settings_of_regs rfl
@[simp] theorem Dev.settings_onMem (d : Dev) (f : MemSt → MemSt) : (d.onMem f).settings = d.settings :=
  Dev.settings_of_regs rfl
@[simp] theorem Dev.settings_onSeq (d : Dev) (f : SeqSt → SeqSt) : (d.onSeq f).settings = d.settings :=
  Dev.settings_of_regs rfl
@[simp] theorem Dev.settings_onSrv (d : Dev) (g : Grp) (f : Srv → Srv) : (d.onSrv g f).settings = d.settings :=
  Dev.settings_of_regs rfl
@[simp] theorem Dev.settings_onWls (d : Dev) (g : Grp) (f : Wls → Wls) : (d.onWls g f).settings = d.settings :=
  Dev.settings_of_regs rfl
@[simp] theorem Dev.settings_onFmt (d : Dev) (g : Grp) (f : Fmt → Fmt) : (d.onFmt g f).settings = d.settings :=
  Dev.settings_of_regs rfl
@[simp] theorem Dev.settings_onGrpq (d : Dev) (g : Grp) (f : GroupQ → GroupQ) : (d.onGrpq g f).settings = d.settings :=
  Dev.settings_of_regs rfl
@[simp] theorem Dev.settings_onArms (d : Dev) (n : LaneId) (f : List Arm → List Arm) : (d.onArms n f).settings = d.settings :=
  Dev.settings_of_regs rfl
@[simp] theorem Dev.settings_onLane (d : Dev) (n : LaneId) (f : LaneSt → LaneSt) : (d.onLane n f).settings = d.settings :=
  Dev.settings_of_regs rfl

/-! ### Choices and folds -/

@[simp] theorem Dev.settings_ite (c : Prop) [Decidable c] (a b : Dev) :
    (if c then a else b).settings = if c then a.settings else b.settings :=
  apply_ite Dev.settings ..

@[simp] theorem Dev.settings_when (d : Dev) (c : Bool) (f : Dev → Dev) :
    (d.when c f).settings = if c = true then (f d).settings else d.settings := Dev.settings_ite ..

/-- A fold leaves the settings alone where each of its steps does. -/
theorem Dev.settings_each {α : Type} (l : List α) (f : α → Dev → Dev) (h : ∀ a d, (f a d).settings = d.settings) (d : Dev) :
    (d.each l f).settings = d.settings := Dev.each_keeps Dev.settings l f h d

/-! ### Records and modes -/

/-- An operation that writes registers of the keys listed alone. -/
theorem Dev.settings_of_keys {keys : List Nat} {d t : Dev} (hk : ∀ k ∈ keys, isSetting k = false)
    (hw : ∀ r i j, r.key ∉ keys → t.word r i j = d.word r i j) : t.settings = d.settings :=
  Dev.settings_of_words fun r i j hr => hw r i j fun h => Bool.eq_false_iff.mp (hk _ h) hr

@[simp] theorem Dev.settings_record (d : Dev) (t : Nat) (p : List Byte) : (d.record t p).settings = d.settings :=
  Dev.settings_of_keys (by decide) (Dev.word_record d t p)

@[simp] theorem Dev.settings_setMode (d : Dev) (m : Mode) : (d.setMode m).settings = d.settings :=
  Dev.settings_of_keys (by decide) (Dev.word_setMode d m)

@[simp] theorem Dev.settings_almAppend (d : Dev) (c : Bool) : (d.almAppend c).settings = d.settings := by
  simp (disch := decide) [Dev.almAppend, Dev.almTake, Dev.almStaged]

@[simp] theorem Dev.settings_ksWrite (d : Dev) (k : Fin 64) (v : Word) : (d.ksWrite k v).settings = d.settings := by
  simp [Dev.ksWrite]

/-! ### Starts -/

@[simp] theorem Dev.settings_spnIssue (d : Dev) (op : Nat) : (d.spnIssue op).settings = d.settings := by
  simp (disch := decide) [Dev.spnIssue]

@[simp] theorem Dev.settings_issueStart (d : Dev) : d.issueStart.settings = d.settings := by
  unfold Dev.issueStart
  extract_lets aimed regen
  have haimed : aimed.settings = d.settings := d.settings_set _ _ _ _ (by decide)
  split <;> simp [haimed]

@[simp] theorem Dev.settings_enterHeadLoad (d : Dev) : d.enterHeadLoad.settings = d.settings := by
  unfold Dev.enterHeadLoad Dev.loadAll
  rw [Dev.settings_each _ _ fun _ _ => by simp]
  simp

@[simp] theorem Dev.settings_enterSpinUp (d : Dev) : d.enterSpinUp.settings = d.settings := by
  simp [Dev.enterSpinUp]

@[simp] theorem Dev.settings_warmReady (d : Dev) : d.warmReady.settings = d.settings := Dev.settings_onSeq ..

@[simp] theorem Dev.settings_spinParked (d : Dev) : d.spinParked.settings = d.settings := by
  simp [Dev.spinParked]

@[simp] theorem Dev.settings_leaveFlush (d : Dev) : d.leaveFlush.settings = d.settings := by
  simp (disch := decide) [Dev.leaveFlush, Dev.runIsland]

/-! ### The write path -/

@[simp] theorem Dev.settings_nextFrame (d : Dev) (g : Grp) : (d.nextFrame g).settings = d.settings :=
  Dev.settings_of_regs (Dev.regs_nextFrame ..)

@[simp] theorem Dev.settings_sendFrame (d : Dev) (g : Grp) (f : PaFrame) : (d.sendFrame g f).settings = d.settings := by
  simp [Dev.sendFrame]

@[simp] theorem Dev.settings_orderHeater (d : Dev) (g : Grp) (i : HeadIx) (c : Nat) :
    (d.orderHeater g i c).settings = d.settings := by
  simp (disch := decide) [Dev.orderHeater, Dev.setHeater, Dev.dropHeater]

@[simp] theorem Dev.settings_safetyHeaters (d : Dev) (g : Grp) : (d.safetyHeaters g).settings = d.settings := by
  unfold Dev.safetyHeaters
  exact Dev.settings_each _ _ (fun _ _ => by simp [Dev.dropHeater]) d

@[simp] theorem Dev.settings_refreshInh (d : Dev) (g : Grp) : (d.refreshInh g).settings = d.settings := by
  simp (disch := decide) [Dev.refreshInh]

/-- A group's tokens come back, and the count is shown. -/
@[simp] theorem Dev.settings_showTokens (d : Dev) : d.showTokens.settings = d.settings := by
  simp (disch := decide) [Dev.showTokens]

@[simp] theorem Dev.settings_abortHead (d : Dev) (g : Grp) (c : Nat) (i : HeadIx) :
    (d.abortHead g c i).settings = d.settings := by
  unfold Dev.abortHead
  split
  · rfl
  · extract_lets n fallen recorded returned failed
    have hrec : recorded.settings = d.settings := by
      simp only [recorded]
      split <;> simp (disch := decide) [Dev.abortRecord, fallen, Dev.gatesFall]
    have hfail : failed.settings = recorded.settings := by
      simp (disch := decide) [failed, returned, Dev.returnTokens, Dev.clearTokens]
    simp [hfail, hrec]

/-! ### Retracts -/

@[simp] theorem Dev.settings_showGrpq (d : Dev) (g : Grp) : (d.showGrpq g).settings = d.settings := by
  simp (disch := decide) [Dev.showGrpq]

@[simp] theorem Dev.settings_abandon (d : Dev) (g : Grp) : (d.abandon g).settings = d.settings := by
  simp [Dev.abandon]

@[simp] theorem Dev.settings_retract (d : Dev) (g : Grp) (c : Nat) : (d.retract g c).settings = d.settings := by
  unfold Dev.retract
  extract_lets st lost warned entered raised unnamed named unsought unmoded stopped cooled untokened left
  split
  · simp (disch := decide)
  split
  · simp (disch := decide)
  have hentered : entered.settings = d.settings := by
    simp (disch := decide) [entered, warned, lost, Dev.loseTrack, Dev.enter, Dev.icuHalt, Dev.icuRest, Dev.inhibitAll]
  have hunmoded : unmoded.settings = entered.settings := by simp (disch := decide) [unmoded, unsought, named, unnamed, raised]
  have hstopped : stopped.settings = unmoded.settings := Dev.settings_each _ _ (fun _ _ => Dev.settings_abortHead ..) _
  simp [Dev.trigger, Dev.sendDown, left, untokened, Dev.dropTokens, cooled, hstopped, hunmoded, hentered]

@[simp] theorem Dev.settings_retractAll (d : Dev) (c : Nat) : (d.retractAll c).settings = d.settings :=
  Dev.settings_each _ _ (fun _ _ => by simp) d

/-! ### The flush -/

@[simp] theorem Dev.settings_endFlush (d : Dev) : d.endFlush.settings = d.settings := by
  have hstore (d : Dev) : d.storeFlush.settings = d.settings := by
    refine Dev.settings_of_regs ?_
    unfold Dev.storeFlush
    split
    · rfl
    · split <;> rfl
  unfold Dev.endFlush
  dsimp only
  rw [Dev.settings_each _ _ fun _ _ => by simp]
  simp [hstore]

@[simp] theorem Dev.settings_afterPark (d : Dev) : d.afterPark.settings = d.settings := by
  unfold Dev.afterPark
  dsimp only
  split
  · simp
  · split <;> simp

@[simp] theorem Dev.settings_layFlush (x : List (Grp × FlushExt)) (g : Grp) (d : Dev) :
    (Dev.layFlush x g d).settings = d.settings := by
  have hadd (d : Dev) (r : Request) (w : Purpose) : (d.addReq g r w).settings = d.settings := by
    unfold Dev.addReq
    dsimp only
    split <;> simp
  have hreqs : ∀ (d : Dev) (p w n m : Nat), (d.flushReqs g p w n m).settings = d.settings := fun d p w n m =>
    Dev.settings_each _ _ (fun _ _ => hadd ..) d
  unfold Dev.layFlush
  split
  · rfl
  · rfl
  · simp only [hreqs]

@[simp] theorem Dev.settings_enterCoastFlush (d : Dev) (fa : Bool) : (d.enterCoastFlush fa).settings = d.settings := by
  unfold Dev.enterCoastFlush
  split
  · rfl
  extract_lets maker entered paused dropped exts gs shown epoch dealt written flushing
  have hpaused : paused.settings = d.settings := by simp (disch := decide) [paused, entered, Dev.stopIsland]
  have hdropped : dropped.settings = paused.settings := Dev.settings_each _ _ (fun _ _ => by simp) _
  have hshown : shown.settings = dropped.settings :=
    Dev.settings_each _ _ (fun _ _ => by simp) _
  have hlaid : (flushing.each gs (Dev.layFlush dealt)).settings = flushing.settings :=
    Dev.settings_each _ _ (fun _ _ => Dev.settings_layFlush ..) _
  simp [hlaid, flushing, written, hshown, hdropped, hpaused]

/-! ### Reports -/

@[simp] theorem Dev.settings_fatal (d : Dev) (r : FaultRec) : (d.fatal r).settings = d.settings := by
  unfold Dev.fatal
  extract_lets named recorded stopped raised
  have hrec : recorded.settings = d.settings := by simp (disch := decide) [recorded, named]
  have hstop : stopped.settings = recorded.settings :=
    Dev.settings_each _ _ (fun _ _ => by simp (disch := decide)) _
  simp (disch := decide) [raised, hstop, hrec]

@[simp] theorem Dev.settings_writeRec (d : Dev) (r : FaultRec) (b : Bool) : (d.writeRec r b).settings = d.settings := by
  simp (disch := decide) [Dev.writeRec]

@[simp] theorem Dev.settings_report (d : Dev) (x : Report) : (d.report x).settings = d.settings := by
  unfold Dev.report
  split
  · rfl
  extract_lets y site
  split
  rename_i inj sup d1 hu
  have hused (s : Nat) : (d.useInjection s).2.2.settings = d.settings := by
    unfold Dev.useInjection
    split
    · simp (disch := decide)
    · rfl
  have h1 : d1.settings = d.settings := by simpa [hu] using hused y.site
  extract_lets d2 lim n first esc act cls0 cls r dCe dEsc ce dFa dFaRec dUc r2
  have h2 : d2.settings = d1.settings := by simp (disch := decide) [d2]
  have hCe : dCe.settings = d2.settings := by simp (disch := decide) [dCe, Dev.setCeCount]
  have hEsc : dEsc.settings = d2.settings := by simp (disch := decide) [dEsc, Dev.setCeCount]
  have hFa : dFaRec.settings = dEsc.settings := by simp (disch := decide) [dFaRec, dFa]
  have hUc : dUc.settings = dEsc.settings := by simp (disch := decide) [dUc]
  split
  · simp [hCe, h2, h1]
  split
  · simp (disch := decide) [hFa, hEsc, h2, h1]
  split
  extract_lets fences dFence
  have hFence : dFence.settings = dUc.settings := by simp (disch := decide) [dFence]
  have hfenced (d : Dev) (j : FenceJob) : (d.fenceReport j).settings = d.settings := by
    unfold Dev.fenceReport Dev.startFence
    split <;> simp (disch := decide)
  split
  · split <;> simp [hfenced, hFence, hUc, hEsc, h2, h1]
  · simp [hUc, hEsc, h2, h1]

end Sys2Proof.Machine
end

section
/-! SUPPORT. What the recovery decoders' bookkeeping leaves of a lane that has nothing left to do, of the lanes' settings, and of a
calibration run (R95, R101, R105, R113). -/
namespace Sys2Proof.Machine

/-! ### The relation -/

/-- A lane that does not run: no pin, no work for its decoder, and ladders without a slot or a pass (R117). -/
structure LaneSt.Gone (x : LaneSt) : Prop where
  ladders : ∀ z ∈ x.ladders, z.slot = none ∧ z.todo = []
  dec : x.dec = none
  asks : x.asks = []
  specs : x.specs = []
  slots : ∀ (i : Fin 3) s, x.slots[i] = some s → s.pinned = false

/-- What a lane keeps of a calibration run, and its pending ADAPT_RESET. -/
def LaneSt.run (x : LaneSt) : Nat × Bool := (x.cal, x.adapt)

/-- From d to t the settings of the lanes and their runs stay, and a lane that has nothing to do stays so. -/
structure Dev.Tends (d t : Dev) : Prop where
  settings : t.settings = d.settings
  run : ∀ m : LaneId, t.lanes[m].run = d.lanes[m].run
  gone : ∀ m : LaneId, d.lanes[m].Gone → t.lanes[m].Gone

theorem Dev.Tends.rfl {d : Dev} : Dev.Tends d d := ⟨.refl _, fun _ => .refl _, fun _ h => h⟩

theorem Dev.Tends.trans {d e t : Dev} (h : Dev.Tends d e) (h' : Dev.Tends e t) : Dev.Tends d t :=
  ⟨h'.settings.trans h.settings, fun m => (h'.run m).trans (h.run m), fun m hm => h'.gone m (h.gone m hm)⟩

/-- Updates of registers that show a state, and of units beside the lanes. -/
theorem Dev.tends_of_view {d t : Dev} (h : (t.settings, t.lanes) = (d.settings, d.lanes)) : Dev.Tends d t := by
  obtain ⟨hs, hl⟩ := Prod.mk.inj h
  exact ⟨hs, fun m => by rw [hl], fun m hm => by rwa [hl]⟩

theorem Dev.tends_onLane (d : Dev) (n : LaneId) (f : LaneSt → LaneSt) (hr : (f d.lanes[n]).run = d.lanes[n].run)
    (hg : d.lanes[n].Gone → (f d.lanes[n]).Gone) : Dev.Tends d (d.onLane n f) := by
  have hlane (m : LaneId) : (d.onLane n f).lanes[m] = d.lanes[m] ∨ m = n ∧ (d.onLane n f).lanes[m] = f d.lanes[n] := by
    rw [Dev.lanes_onLane]
    by_cases h : m = n
    · exact .inr ⟨h, by rw [h, getElem_upd]⟩
    · exact .inl (getElem_upd_of_ne _ _ _ _ h)
  refine ⟨Dev.settings_onLane .., fun m => ?_, fun m hm => ?_⟩
  · obtain h | ⟨rfl, h⟩ := hlane m
    · rw [h]
    · rw [h, hr]
  · obtain h | ⟨rfl, h⟩ := hlane m
    · rwa [h]
    · exact h ▸ hg hm

theorem Dev.tends_each {α : Type} (l : List α) (f : α → Dev → Dev) (h : ∀ a d, Dev.Tends d (f a d)) (d : Dev) :
    Dev.Tends d (d.each l f) := by
  unfold Dev.each
  induction l generalizing d with
  | nil => exact .rfl
  | cons a t ih => exact (h a d).trans (ih _)

/-- From d to t nothing changes but the status of lane n and its work. -/
structure Dev.Works (n : LaneId) (d t : Dev) : Prop where
  settings : t.settings = d.settings
  run : t.lanes[n].run = d.lanes[n].run
  others : ∀ m : LaneId, m ≠ n → t.lanes[m] = d.lanes[m]

theorem Dev.Works.rfl {n : LaneId} {d : Dev} : Dev.Works n d d := ⟨.refl _, .refl _, fun _ _ => .refl _⟩

theorem Dev.Works.trans {n : LaneId} {d e t : Dev} (h : Dev.Works n d e) (h' : Dev.Works n e t) : Dev.Works n d t :=
  ⟨h'.settings.trans h.settings, h'.run.trans h.run, fun m hm => (h'.others m hm).trans (h.others m hm)⟩

theorem Dev.works_onLane (d : Dev) (n : LaneId) (f : LaneSt → LaneSt) (hr : (f d.lanes[n]).run = d.lanes[n].run) :
    Dev.Works n d (d.onLane n f) :=
  ⟨Dev.settings_onLane .., by rw [Dev.lanes_onLane, getElem_upd, hr], fun m hm => getElem_upd_of_ne _ _ _ _ hm⟩

/-- A lane that has work may take it up. -/
theorem Dev.Works.tends {n : LaneId} {d t : Dev} (h : Dev.Works n d t) (hwork : ¬d.lanes[n].Gone) : Dev.Tends d t := by
  refine ⟨h.settings, fun m => ?_, fun m hm => ?_⟩
  · by_cases e : m = n
    · rw [e, h.run]
    · rw [h.others m e]
  · rwa [h.others m fun e => hwork (e ▸ hm)]

theorem Dev.works_each {α : Type} {n : LaneId} (l : List α) (f : α → Dev → Dev) (h : ∀ a d, Dev.Works n d (f a d)) (d : Dev) :
    Dev.Works n d (d.each l f) := by
  unfold Dev.each
  induction l generalizing d with
  | nil => exact .rfl
  | cons a t ih => exact (h a d).trans (ih _)

/-! ### Slots and pins -/

theorem Dev.tends_showLane (d : Dev) (n : LaneId) : Dev.Tends d (d.showLane n) := by
  refine Dev.tends_of_view ?_
  unfold Dev.showLane
  dsimp only
  split
  all_goals exact Prod.ext (by simp (disch := decide)) rfl

theorem Dev.works_showLane (d : Dev) (n m : LaneId) : Dev.Works m d (d.showLane n) := by
  have hlanes : (d.showLane n).lanes = d.lanes := rfl
  exact ⟨(d.tends_showLane n).settings, by rw [hlanes], fun _ _ => by rw [hlanes]⟩

/-- A ladder's pin is none, or is set in its slot. -/
theorem Dev.pinLadder_eq (d : Dev) (n : LaneId) (l : Ladder) :
    d.pinLadder n l = d ∨ l.slot ≠ none ∧ ∃ i, d.pinLadder n l = d.onSlot n i fun s => { s with ladder := true } := by
  unfold Dev.pinLadder
  split
  next i s h =>
    have hslot : l.slot ≠ none := fun e => by simp [e] at h
    split
    · exact .inr ⟨hslot, i, rfl⟩
    · exact .inl rfl
  · exact .inl rfl

/-- A lane's ladders without a slot take no pin. -/
theorem Dev.repin_of_gone {d : Dev} {n : LaneId} (h : d.lanes[n].Gone) : d.repin n = d := by
  have hfold (l : List Ladder) (hl : ∀ z ∈ l, z.slot = none) : d.each l (fun z d => d.pinLadder n z) = d := by
    unfold Dev.each
    induction l with
    | nil => rfl
    | cons z l ih =>
      rw [List.foldl_cons]
      dsimp only
      rw [(d.pinLadder_eq n z).resolve_right fun h => h.1 (hl z (List.mem_cons_self ..))]
      exact ih fun y hy => hl y (List.mem_cons_of_mem _ hy)
  exact hfold _ fun z hz => (h.ladders z (List.mem_of_mem_filter hz)).1

theorem Dev.tends_repin (d : Dev) (n : LaneId) : Dev.Tends d (d.repin n) := by
  by_cases h : d.lanes[n].Gone
  · rw [Dev.repin_of_gone h]
    exact .rfl
  refine (Dev.works_each _ _ (fun l d => ?_) d).tends h
  obtain e | ⟨-, i, e⟩ := d.pinLadder_eq n l
  · rw [e]
    exact .rfl
  · rw [e]
    exact Dev.works_onLane _ _ _ rfl

/-- What the peers do for a ladder is called off. -/
theorem Dev.tends_callOff (d : Dev) (n : LaneId) (c k : Nat) : Dev.Tends d (d.callOff n c k) := by
  refine Dev.tends_each _ _ (fun i d => ?_) d
  extract_lets m fewer
  have hfewer : Dev.Tends d fewer := Dev.tends_onLane _ _ _ rfl fun h => { h with asks := congrArg (List.filter _) h.asks }
  split
  · split
    · exact hfewer.trans ((Dev.tends_onLane _ _ _ rfl fun h => { h with dec := rfl }).trans (Dev.tends_showLane ..))
    · exact hfewer
  · exact hfewer

/-- An update of the slots that adds no pin. -/
theorem LaneSt.Gone.mapSlots {x : LaneSt} (h : x.Gone) {f : Slot → Slot} (hf : ∀ s, s.pinned = false → (f s).pinned = false) :
    ({ x with slots := x.slots.map (Option.map f) } : LaneSt).Gone :=
  ⟨h.ladders, h.dec, h.asks, h.specs, fun i s hs => by
    have hmap : (x.slots.map (Option.map f))[i] = (x.slots[i]).map f := Vector.getElem_map ..
    obtain ⟨y, hy, rfl⟩ := Option.map_eq_some_iff.mp (hmap.symm.trans hs)
    exact hf y (h.slots i y hy)⟩

/-- A slot without a pin. -/
theorem Slot.pinned_eq_false {s : Slot} : s.pinned = false ↔ s.ladder = false ∧ s.peers = [] ∧ s.hold = false := by
  simp [Slot.pinned, and_assoc]

theorem Dev.tends_unpin (d : Dev) (n : LaneId) (c k : Nat) : Dev.Tends d (d.unpin n c k) := by
  refine (d.tends_callOff n c k).trans (Dev.tends_each _ _ (fun i d => ?_) _)
  extract_lets m mine left
  have hleft : Dev.Tends d left := Dev.tends_onLane _ _ _ rfl fun h => h.mapSlots fun s hs => by
    obtain ⟨hl, hp, hh⟩ := Slot.pinned_eq_false.mp hs
    refine Slot.pinned_eq_false.mpr ?_
    split <;> simp [hl, hp, hh]
  exact hleft.trans ((Dev.tends_repin ..).trans (Dev.tends_showLane ..))

/-! ### The end of a ladder -/

theorem Dev.tends_dropLadder (d : Dev) (n : LaneId) (l : Ladder) : Dev.Tends d (d.dropLadder n l) := by
  unfold Dev.dropLadder
  refine (Dev.tends_onLane _ _ _ rfl fun h => ?_).trans ((Dev.tends_unpin ..).trans (Dev.tends_showLane ..))
  exact { h with ladders := fun z hz => h.ladders z (List.mem_of_mem_filter hz), dec := by simp only [h.dec] }

theorem Dev.tends_closeLadder (d : Dev) (n : LaneId) (l : Ladder) {flag : Fld} (hf : flag.reg = LANE_INT_STATUS)
    (code o s p gl : Nat) (pos : Int) : Dev.Tends d (d.closeLadder n l flag code o s p gl pos) := by
  unfold Dev.closeLadder
  refine Dev.Tends.trans (Dev.tends_of_view ?_) (Dev.tends_dropLadder ..)
  have hset (f : Fld) (v i j : Nat) (d : Dev) (hf : isSetting f.reg.key = false) :
      ((d.set f v i j).settings, (d.set f v i j).lanes) = (d.settings, d.lanes) := Prod.ext (d.settings_set f v i j hf) rfl
  have hcount (f : Fld) (v i j : Nat) (d : Dev) (hf : f.reg.key ∈ countKeys) :
      ((d.set f v i j).settings, (d.set f v i j).lanes) = (d.settings, d.lanes) :=
    hset f v i j d (by revert hf; generalize f.reg.key = k; revert k; decide)
  have hraise (f : Fld) (d : Dev) (hf : f.reg = LANE_INT_STATUS) :
      ((d.raise f n).settings, (d.raise f n).lanes) = (d.settings, d.lanes) := hset f 1 n 0 d (by rw [hf]; decide)
  refine (Dev.recInfo_keeps (fun d => (d.settings, d.lanes)) n (fun f v d hf => hset f v n 0 d ?_) _ l o s p gl pos).trans ?_
  · revert hf
    generalize f.reg = r
    revert r
    simp only [List.forall_mem_cons, List.not_mem_nil, false_imp_iff, implies_true, and_true]
    decide
  · unfold Dev.flagLadder
    rw [Dev.count_keeps (fun d => (d.settings, d.lanes)) hcount, hraise flag _ hf,
      Dev.ladderFlags_keeps (fun d => (d.settings, d.lanes)) n hraise hcount]

theorem Dev.tends_deliver (d : Dev) (g : Grp) (o : SectOut) : Dev.Tends d (d.deliver g o) :=
  Dev.tends_of_view (Prod.ext (Dev.settings_of_regs rfl) rfl)

theorem Dev.tends_commit (d : Dev) (n : LaneId) (l : Ladder) (o s p gl : Nat) (pos : Int) (pl : List Byte) (tag : BitVec 128) :
    Dev.Tends d (d.commit n l o s p gl pos pl tag) := by
  rw [Dev.commit_eq]
  have hclose := d.tends_closeLadder n l (flag := LANE_INT_STATUS.RECOVERED) rfl 0x401 o s p gl pos
  have hkeep (c : Dev) : Dev.Tends c (c.onLane n fun x => x.keepResult l.cyl l.sect (fieldOf pl tag)) :=
    Dev.tends_onLane _ _ _ rfl fun h => ⟨h.ladders, h.dec, h.asks, h.specs, h.slots⟩
  exact hclose.trans ((hkeep _).trans (Dev.tends_deliver ..))

theorem Dev.tends_unrecovered (d : Dev) (n : LaneId) (l : Ladder) : Dev.Tends d (d.unrecovered n l) := by
  rw [Dev.unrecovered_eq]
  have hclose := d.tends_closeLadder n l (flag := LANE_INT_STATUS.UNRECOVERED) rfl 0x402 2 (if l.revs != 0 then 5 else l.tried) 0xF 0 0
  have hrec (c : Dev) : Dev.Tends c (c.recordTag n l) := by
    refine Dev.tends_of_view (Prod.ext ?_ (congrArg (fun v => v.2.1) (c.outcomeView_recordTag n l)))
    unfold Dev.recordTag Dev.tagRecord Dev.event Dev.uc
    simp
  exact hclose.trans ((hrec _).trans (Dev.tends_deliver ..))

/-! ### The decoders' work -/

theorem Dev.tends_step5 {d : Dev} {n : LaneId} {l : Ladder} (hl : l ∈ d.lanes[n].ladders) : Dev.Tends d (d.step5 n l) := by
  cases h : d.rereadsAllowed n l with
  | false =>
    rw [Dev.step5_of_no_reread h]
    exact d.tends_unrecovered n l
  | true =>
    have hstep : d.step5 n l = ((d.onLane n (·.awaitReread l)).callOff n l.cyl l.sect).showLane n := if_pos h
    rw [hstep]
    refine (Dev.tends_onLane d n (·.awaitReread l) rfl fun hg => ?_).trans ((Dev.tends_callOff ..).trans (Dev.tends_showLane ..))
    have hslot := (hg.ladders l hl).1
    refine ⟨fun z hz => ?_, ?_, hg.asks, hg.specs, hg.slots⟩
    · obtain ⟨y, hy, rfl⟩ := List.mem_map.mp hz
      split
      · exact ⟨hslot, rfl⟩
      · exact hg.ladders y hy
    · unfold LaneSt.awaitReread
      simp only [hg.dec]

theorem Dev.tends_evalPass {d : Dev} {n : LaneId} (h : ¬d.lanes[n].Gone) (l : Ladder) (p : PassId) (us : List Nat) (r : PassIn)
    (spec : Bool) : Dev.Tends d (d.evalPass n l p us r spec).2 := by
  unfold Dev.evalPass
  extract_lets conv payload ok l' u l''
  split
  · exact Dev.tends_commit ..
  · exact (Dev.works_onLane _ _ _ rfl).tends h

/-- A ladder with a pass to come is work. -/
theorem LaneSt.not_gone_of_todo {x : LaneSt} {l : Ladder} {p : PassId} {t : List PassId} (hl : l ∈ x.ladders) (ht : l.todo = p :: t) :
    ¬x.Gone := fun h => by
  rw [(h.ladders l hl).2] at ht
  cases ht

/-- What advancing a ladder leaves; it gives a pass where the lane has work. -/
structure Dev.Advances (d : Dev) (n : LaneId) (a : Option PassId × Dev) : Prop where
  tends : Dev.Tends d a.2
  work : a.1 ≠ none → ¬a.2.lanes[n].Gone

theorem Dev.advances_none {d t : Dev} {n : LaneId} (h : Dev.Tends d t) : d.Advances n (none, t) := ⟨h, fun h => absurd rfl h⟩

theorem Dev.Advances.of_tends {d e : Dev} {n : LaneId} {a : Option PassId × Dev} (h : Dev.Tends d e) (ha : e.Advances n a) :
    d.Advances n a := ⟨h.trans ha.tends, ha.work⟩

theorem Dev.advances_advance (d : Dev) (n : LaneId) (c k fuel : Nat) : d.Advances n (d.advance n c k fuel) := by
  induction fuel generalizing d with
  | zero => exact Dev.advances_none .rfl
  | succ fuel ih =>
    unfold Dev.advance
    split
    · exact Dev.advances_none .rfl
    next l hfind =>
      have hl : l ∈ d.lanes[n].ladders := List.mem_of_find?_eq_some hfind
      split
      · exact Dev.advances_none .rfl
      split
      · -- step 4
        split
        · exact Dev.advances_none (Dev.tends_step5 hl)
        · refine Dev.advances_none ?_
          split
          · exact .rfl
          · refine Dev.tends_onLane _ _ _ rfl fun hg => ⟨fun z hz => ?_, hg.dec, hg.asks, hg.specs, hg.slots⟩
            obtain ⟨y, hy, rfl⟩ := List.mem_map.mp hz
            split
            · exact hg.ladders l hl
            · exact hg.ladders y hy
      next p t htodo =>
        have hwork := LaneSt.not_gone_of_todo hl htodo
        split
        next us r _ =>
          have heval := Dev.tends_evalPass hwork l p us r true
          generalize d.evalPass n l p us r true = a at heval ⊢
          dsimp only
          split
          · exact Dev.advances_none heval
          · exact (ih _).of_tends heval
        · split
          · exact ⟨.rfl, fun _ => hwork⟩
          · exact (ih _).of_tends ((Dev.works_onLane _ _ _ rfl).tends hwork)

theorem Dev.works_startDec (d : Dev) (n : LaneId) (w : RecWork) (x : Option Slot) (p : PassId) (al : Option Int) :
    Dev.Works n d ((d.startDec n w x p al).showLane n) := (Dev.works_onLane d n _ rfl).trans (Dev.works_showLane ..)

theorem Dev.works_nextAsk (d : Dev) (n : LaneId) : Dev.Works n d (d.nextAsk n) := by
  unfold Dev.nextAsk
  dsimp only
  split
  · exact .rfl
  split
  · exact .rfl
  · exact (Dev.works_onLane d n _ rfl).trans (Dev.works_startDec ..)

theorem Dev.tends_nextSpec (d : Dev) (n : LaneId) : Dev.Tends d (d.nextSpec n) := by
  unfold Dev.nextSpec
  split
  · exact Dev.tends_showLane ..
  next s hs =>
    have hwork : ¬d.lanes[n].Gone := fun h => by
      rw [h.specs] at hs
      cases hs
    split
    · exact Dev.tends_showLane ..
    · exact ((Dev.works_onLane d n _ rfl).trans (Dev.works_startDec ..)).tends hwork

/-- What a recovery decoder takes up. -/
theorem Dev.tends_nextDec (d : Dev) (n : LaneId) (fuel : Nat) : Dev.Tends d (d.nextDec n fuel) := by
  induction fuel generalizing d with
  | zero => exact .rfl
  | succ fuel ih =>
    unfold Dev.nextDec
    extract_lets l busy
    split
    · exact Dev.tends_showLane ..
    split
    next x _ =>
      have hadv := d.advances_advance n x.cyl x.sect 12
      generalize d.advance n x.cyl x.sect 12 = a at hadv ⊢
      obtain ⟨p, e⟩ := a
      dsimp only
      split
      · exact hadv.tends.trans ((Dev.works_startDec ..).tends (hadv.work (Option.some_ne_none _)))
      · exact hadv.tends.trans (ih _)
    · split
      next hasks =>
        refine ((Dev.works_onLane d n _ rfl).trans (Dev.works_nextAsk ..)).tends fun h => ?_
        rw [h.asks] at hasks
        cases hasks
      · split
        · exact Dev.tends_showLane ..
        · exact Dev.tends_nextSpec ..

/-- What the decoders of a group take up. -/
theorem Dev.tends_serve (d : Dev) (g : Grp) (fuel : Nat) : Dev.Tends d (d.serve g fuel) := by
  induction fuel generalizing d with
  | zero => exact .rfl
  | succ fuel ih =>
    unfold Dev.serve
    split
    · exact .rfl
    · exact (Dev.tends_nextDec ..).trans (ih _)

end Sys2Proof.Machine
end

section
/-! SUPPORT. Writes of LANE_CTRL (R117, R119, R122). -/
namespace Sys2Proof.Machine

/-! ### A lane that is dropped (R117) -/

/-- Once each ladder of a list is dropped, none of their places is left. -/
theorem Dev.mem_ladders_dropLadders {n : LaneId} (l : List Ladder) (d : Dev) {z : Ladder}
    (hz : z ∈ (d.each l fun l d => d.dropLadder n l).lanes[n].ladders) : z ∈ d.lanes[n].ladders ∧ z ∉ l := by
  unfold Dev.each at hz
  induction l generalizing d with
  | nil => exact ⟨hz, List.not_mem_nil⟩
  | cons y l ih =>
    obtain ⟨hmem, hnot⟩ := ih _ hz
    dsimp only at hmem
    rw [(d.dropLadder_drops n y).1, mem_others] at hmem
    refine ⟨hmem.1, fun h => ?_⟩
    obtain rfl | h := List.mem_cons.mp h
    · exact hmem.2 ⟨rfl, rfl⟩
    · exact hnot h

/-- The offsets of a reread are withdrawn; of the lane only they change. -/
theorem Dev.rereadOff_view (d : Dev) (n : LaneId) : ((d.rereadOff n).settings, (d.rereadOff n).lanes) =
    (d.settings, upd d.lanes n fun l => { l with offsetFor := 0 }) := by
  unfold Dev.rereadOff
  extract_lets had off lowered
  have hlowered : (lowered.settings, lowered.lanes) = (d.settings, upd d.lanes n fun l => { l with offsetFor := 0 }) :=
    Prod.ext (by simp (disch := decide) [lowered, off]) rfl
  split
  · refine Eq.trans (Prod.ext (Dev.settings_orderHeater ..) ?_) hlowered
    exact congrArg (fun v => v.2.1) (lowered.retractView_orderHeater n.grp n.ix 4)
  · exact hlowered

/-- The lane's work ends, and its slots are free. -/
def LaneSt.cleared (l : LaneSt) : LaneSt :=
  { l with dec := none, asks := [], specs := [], sects := []
           slots := l.slots.map (Option.map fun s => { s with ladder := false, peers := [], hold := false }) }

theorem LaneSt.gone_cleared {l : LaneSt} (h : ∀ z ∈ l.ladders, z.slot = none ∧ z.todo = []) : l.cleared.Gone := by
  refine ⟨h, rfl, rfl, rfl, fun i s hs => ?_⟩
  have hmap : l.cleared.slots[i] = (l.slots[i]).map _ := Vector.getElem_map ..
  obtain ⟨y, -, rfl⟩ := Option.map_eq_some_iff.mp (hmap.symm.trans hs)
  rfl

theorem Dev.tends_answerMissing (d : Dev) (n : LaneId) (a : Arm) (old : Option Ladder) : Dev.Tends d (d.answerMissing n a old) := by
  refine Dev.tends_onLane _ _ _ rfl fun h => ⟨fun z hz => ?_, h.dec, h.asks, h.specs, h.slots⟩
  obtain hz | hz := List.mem_append.mp hz
  · exact h.ladders z (List.mem_of_mem_filter hz)
  · rw [List.mem_singleton.mp hz]
    generalize old.or _ = o
    cases o
    all_goals exact ⟨rfl, rfl⟩

/-- A lane that is dropped has nothing left to do, and keeps its run. -/
theorem Dev.dropLane_drops (d : Dev) (n : LaneId) : Dev.Tends d (d.dropLane n) ∧ (d.dropLane n).lanes[n].Gone := by
  unfold Dev.dropLane
  extract_lets ladders gates dropped held cleared answered gated
  have hdropped : Dev.Tends d dropped := Dev.tends_each _ _ (fun l d => Dev.tends_dropLadder ..) d
  have hview := dropped.rereadOff_view n
  have hlanes : held.lanes = upd dropped.lanes n fun l => { l with offsetFor := 0 } := (congrArg Prod.snd hview :)
  have hheld : Dev.Tends dropped held := by
    refine Dev.Tends.trans (e := dropped.onLane n fun l => { l with offsetFor := 0 })
      (Dev.tends_onLane _ _ _ rfl fun h => ⟨h.ladders, h.dec, h.asks, h.specs, h.slots⟩)
      (Dev.tends_of_view (Prod.ext ?_ hlanes))
    exact (Dev.settings_set _ _ _ _ _ (by decide)).trans ((congrArg Prod.fst hview).trans (Dev.settings_onLane ..).symm)
  have hcleared : Dev.Tends held cleared := Dev.tends_onLane _ n LaneSt.cleared rfl fun h => LaneSt.gone_cleared h.ladders
  have hanswered : Dev.Tends cleared answered := Dev.tends_each _ _ (fun l d => Dev.tends_answerMissing ..) _
  have hgated : Dev.Tends answered gated := Dev.tends_each _ _ (fun l d => Dev.tends_answerMissing ..) _
  have hshown : Dev.Tends gated ((gated.each gates fun _ d => d.verdict n.grp false false).showLane n) :=
    (Dev.tends_each _ _ (fun _ d => Dev.tends_of_view (Prod.ext (Dev.settings_onFmt ..) rfl)) _).trans (Dev.tends_showLane ..)
  have hafter := hanswered.trans (hgated.trans hshown)
  refine ⟨hdropped.trans (hheld.trans (hcleared.trans hafter)), hafter.gone n ?_⟩
  have hlane : cleared.lanes[n] = held.lanes[n].cleared := by
    rw [show cleared.lanes = upd held.lanes n LaneSt.cleared from rfl, getElem_upd]
  rw [hlane]
  refine LaneSt.gone_cleared fun z hz => ?_
  rw [hlanes, getElem_upd] at hz
  obtain ⟨hmem, hnot⟩ := Dev.mem_ladders_dropLadders ladders d hz
  exact absurd hmem hnot

/-! ### A write of LANE_CTRL -/

theorem Dev.tends_abortHead (d : Dev) (g : Grp) (c : Nat) (i : HeadIx) : Dev.Tends d (d.abortHead g c i) :=
  Dev.tends_of_view (Prod.ext (Dev.settings_abortHead ..) (congrArg (fun v => v.2.1) (d.retractView_abortHead g c i)))

theorem Dev.tends_refreshInh (d : Dev) (g : Grp) : Dev.Tends d (d.refreshInh g) :=
  Dev.tends_of_view (Prod.ext (Dev.settings_refreshInh ..) (congrArg (fun v => v.2.1) (d.retractView_refreshInh g)))

theorem Dev.Tends.cal {d t : Dev} (h : Dev.Tends d t) (n : LaneId) : t.lanes[n].cal = d.lanes[n].cal :=
  congrArg Prod.fst (h.run n)

theorem Dev.Tends.adapt {d t : Dev} (h : Dev.Tends d t) (n : LaneId) : t.lanes[n].adapt = d.lanes[n].adapt :=
  congrArg Prod.snd (h.run n)

/-! ### The fields of a written LANE_CTRL -/

/-- The word that a write of LANE_CTRL leaves. -/
def Dev.ctrlWritten (d : Dev) (n : LaneId) (v : Word) : Word := LANE_CTRL.written (d.word LANE_CTRL n) v d.locked 0

/-- A field of one bit. -/
theorem Fld.of_bit (r : Reg) (lo : Nat) (w : Word) : (Fld.mk r lo 1).of w = (w.getLsbD lo).toNat := by
  refine Nat.eq_of_testBit_eq fun k => ?_
  rw [Fld.of, BitVec.testBit_toNat, BitVec.getLsbD_extractLsb']
  cases k with
  | zero =>
    rw [Nat.add_zero]
    cases w.getLsbD lo <;> simp
  | succ k => cases w.getLsbD lo <;> simp [Nat.testBit_succ]

/-- A field that the register's users set reads what was written. -/
theorem Dev.of_ctrlWritten_rw (d : Dev) (n : LaneId) (v : Word) {lo w : Nat} (h : LANE_CTRL.clear ⟨lo, w, .rw⟩ = true) :
    (Fld.mk LANE_CTRL lo w).of (d.ctrlWritten n v) = (Fld.mk LANE_CTRL lo w).of v :=
  Fld.of_written LANE_CTRL ⟨lo, w, .rw⟩ h ..

/-- A bit of CAL_GO that is written is set. -/
theorem Dev.calGo_ctrlWritten (d : Dev) (n : LaneId) {v : Word} (h : v.getLsbD 8 = true) :
    LANE_CTRL.CAL_GO.of (d.ctrlWritten n v) = 1 := by
  refine (Fld.of_written LANE_CTRL ⟨8, 1, .w1s⟩ (by decide) ..).trans ?_
  rw [Fld.of_bit]
  simp [Acc.after, h]

/-- A lane is on as its word says. -/
theorem Dev.laneOn_of_word {d t : Dev} {n : LaneId} (h : t.word LANE_CTRL n = d.word LANE_CTRL n) : t.laneOn n = d.laneOn n := by
  unfold Dev.laneOn Dev.on
  rw [Dev.get_of_word (f := LANE_CTRL.EN) h, Dev.get_of_word (f := LANE_CTRL.RDA_EN) h, Dev.get_of_word (f := LANE_CTRL.RDB_EN) h]

/-- A lane calibrates as its word says. -/
theorem Dev.calibrating_of_word {d t : Dev} {n : LaneId} (h : t.word LANE_CTRL n = d.word LANE_CTRL n) :
    t.calibrating n = d.calibrating n := by
  unfold Dev.calibrating Dev.on
  rw [Dev.get_of_word (f := LANE_CTRL.MODE) h, Dev.get_of_word (f := LANE_CTRL.CAL_GO) h]

/-- A lane that is off serves no reads (R70, R117). -/
theorem Dev.laneReads_of_off {d : Dev} {n : LaneId} (h : d.laneOn n = false) : d.laneReads n = false := by
  simp [Dev.laneReads, Dev.laneAlive, h]

section
variable (d : Dev) (who : Who) (n : LaneId) (v : Word)

/-- What a write of LANE_CTRL leaves: its word; the sectors of a calibration run that it starts, and the ADAPT_RESET that it asks
for; nothing to do for a lane that it turns off. -/
theorem Dev.laneCtrlWrite_leaves : let t := d.laneCtrlWrite who n v
    t.word LANE_CTRL n = d.ctrlWritten n v ∧ (t.laneOn n = false → t.lanes[n].Gone) ∧
      (d.calibrating n = false → t.calibrating n = true → t.lanes[n].cal = atLeast1 (t.get LANE_CTRL.CAL_SECTORS n)) ∧
      (v.getLsbD 9 = true → t.lanes[n].adapt = true) := by
  unfold Dev.laneCtrlWrite
  extract_lets mode was written filled reset begun dropped t
  have hwritten : written.word LANE_CTRL n = d.ctrlWritten n v := by
    simp only [written]
    rw [Dev.plainWrite_unlocked (by decide), Dev.word_setWord]
    rfl
  have hfilled : filled.word LANE_CTRL n = written.word LANE_CTRL n := Dev.word_when _ _ _ _ _ _ rfl
  have hreset : reset.word LANE_CTRL n = filled.word LANE_CTRL n := Dev.word_when _ _ _ _ _ _ rfl
  have hbegun : begun.word LANE_CTRL n = reset.word LANE_CTRL n := Dev.word_when _ _ _ _ _ _ rfl
  have hdrop := begun.dropLane_drops n
  have hserved := ((begun.dropLane n).tends_abortHead n.grp 0xA n.ix).trans (Dev.tends_serve _ n.grp 64)
  have hdropped : Dev.Tends begun dropped := by
    simp only [dropped]
    split
    · exact .rfl
    · exact hdrop.1.trans hserved
  have hend : Dev.Tends begun t := hdropped.trans (Dev.tends_refreshInh ..)
  have hword : t.word LANE_CTRL n = begun.word LANE_CTRL n := Dev.word_of_settings hend.settings (by decide) n 0
  have hgone (h : begun.laneReads n = false) : t.lanes[n].Gone := by
    refine (Dev.tends_refreshInh dropped n.grp).gone n ?_
    simp only [dropped, h, Bool.false_eq_true, if_false]
    exact hserved.gone n hdrop.2
  have hcal (h : (!was && reset.calibrating n) = true) : begun.lanes[n].cal = atLeast1 (reset.get LANE_CTRL.CAL_SECTORS n) := by
    simp only [begun, Dev.when, h, if_true, Dev.lanes_onLane, getElem_upd]
  have hadapt (h : v.getLsbD 9 = true) : begun.lanes[n].adapt = true := by
    have hreset : reset.lanes[n].adapt = true := by simp only [reset, Dev.when, h, if_true, Dev.lanes_onLane, getElem_upd]
    exact (Dev.when_keeps (fun d => d.lanes[n].adapt) _ _ (by rw [Dev.lanes_onLane, getElem_upd])).trans hreset
  clear_value t dropped begun reset
  refine ⟨hword.trans (hbegun.trans (hreset.trans (hfilled.trans hwritten))), fun hoff => ?_, fun hwas hnow => ?_, fun h9 => ?_⟩
  · exact hgone (Dev.laneReads_of_off ((Dev.laneOn_of_word hword).symm.trans hoff))
  · have hcalibrates : reset.calibrating n = true := (Dev.calibrating_of_word (hword.trans hbegun)).symm.trans hnow
    have hsectors : t.get LANE_CTRL.CAL_SECTORS n = reset.get LANE_CTRL.CAL_SECTORS n := Dev.get_of_word (hword.trans hbegun)
    rw [hend.cal, hcal (by simp [was, hwas, hcalibrates]), hsectors]
  · rw [hend.adapt, hadapt h9]

end

/-! ### LaneControl -/

/-- A bit of a field that is replaced. -/
theorem getLsbD_withField_one (v : Word) {k : Nat} (hk : k < 32) : (withField v k 1 1).getLsbD k = true := by
  rw [withField_eq_put LANE_CTRL, Fld.getLsbD_put _ _ _ _ (show k + 1 ≤ 32 by omega) hk]
  simp

/-- Another field of a word with a field replaced. -/
theorem of_withField_beside (r : Reg) (v : Word) {lo w lo' w' : Nat} (code : Nat) (h : lo + w ≤ 32 ∧ lo' + w' ≤ 32 ∧
    (lo' + w' ≤ lo ∨ lo + w ≤ lo')) : (Fld.mk r lo' w').of (withField v lo w code) = (Fld.mk r lo' w').of v := by
  rw [withField_eq_put r]
  exact Fld.of_put_disjoint _ _ _ _ h.1 h.2.1 h.2.2

/-- The word of a lane that is disabled: EN, or both reader enables, 0. -/
def disabledWord (v : Word) : Word := if bits v 1 2 = 0 then v else withField v 0 1 0

/-- One bit of a word is a bit of the two that hold it. -/
theorem of_pair_eq_zero {v : Word} (h : bits v 1 2 = 0) : LANE_CTRL.RDA_EN.of v = 0 ∧ LANE_CTRL.RDB_EN.of v = 0 := by
  have hbit (k : Nat) (hk : k < 2) : v.getLsbD (1 + k) = false := by
    have := congrArg (Nat.testBit · k) h
    simp only [bits, BitVec.testBit_toNat, BitVec.getLsbD_extractLsb', hk, decide_true, Bool.true_and, Nat.zero_testBit] at this
    exact this
  have hone (k : Nat) (hk : k < 2) : (Fld.mk LANE_CTRL (1 + k) 1).of v = 0 := by
    rw [Fld.of_bit, hbit k hk]
    rfl
  exact ⟨hone 0 (by decide), hone 1 (by decide)⟩

/-- A lane whose word was written so is off. -/
theorem Dev.laneOn_of_disabledWord {d t : Dev} {n : LaneId} {v : Word} (h : t.word LANE_CTRL n = d.ctrlWritten n (disabledWord v)) :
    t.laneOn n = false := by
  have hget (lo w : Nat) (hc : LANE_CTRL.clear ⟨lo, w, .rw⟩ = true) :
      t.get ⟨LANE_CTRL, lo, w⟩ n = (Fld.mk LANE_CTRL lo w).of (disabledWord v) := by
    refine Eq.trans (congrArg (Fld.mk LANE_CTRL lo w).of h) ?_
    exact Dev.of_ctrlWritten_rw _ _ _ hc
  have hen : t.get LANE_CTRL.EN n = _ := hget 0 1 (by decide)
  have hrda : t.get LANE_CTRL.RDA_EN n = _ := hget 1 1 (by decide)
  have hrdb : t.get LANE_CTRL.RDB_EN n = _ := hget 2 1 (by decide)
  unfold Dev.laneOn Dev.on
  rw [hen, hrda, hrdb]
  unfold disabledWord
  split
  next hbits =>
    obtain ⟨ha, hb⟩ := of_pair_eq_zero hbits
    rw [show (Fld.mk LANE_CTRL 1 1).of v = 0 from ha, show (Fld.mk LANE_CTRL 2 1).of v = 0 from hb]
    simp
  · rw [show (Fld.mk LANE_CTRL 0 1).of (withField v 0 1 0) = 0 from Fld.of_put LANE_CTRL.EN v 0 (by decide)]
    simp

/-- Every block but the lanes lies below them. -/
theorem Blk.below_lane : ∀ b ∈ Blk.all, b ≠ .lane → b.base + 0x1_0000 * b.instances ≤ Blk.lane.base := by decide

/-- An address above the base of the lanes names a register of theirs. -/
theorem regAt_lane {a : Nat} (ha : Blk.lane.base ≤ a) (ha' : a < Blk.lane.base + 0x1_0000 * Blk.lane.instances) {h : Hit}
    (hh : regAt a = some h) : h.reg ∈ regsLane := by
  have hblk : blockAt a = some (.lane, (a - Blk.lane.base) / 0x1_0000) := by
    have hfind : Blk.all.find? (fun b => decide (b.base ≤ a) && decide (a < b.base + 0x1_0000 * b.instances)) = some .lane := by
      refine find?_eq_of_unique (by decide) (by simp [ha, ha']) fun b hb hne => ?_
      have := Blk.below_lane b hb hne
      simp only [Bool.and_eq_false_iff, decide_eq_false_iff_not]
      exact .inr (by omega)
    rw [blockAt, hfind]
    rfl
  unfold regAt at hh
  rw [hblk] at hh
  obtain ⟨r, hr, rfl⟩ := Option.map_eq_some_iff.mp hh
  exact List.mem_of_find?_eq_some hr

/-- The window's registers are none of the capture's. -/
theorem regAt_window_key (n : LaneId) (ofs : Nat) {h : Hit} (hh : regAt (LANE_CTRL.at n + (0x100 + ofs % 0x9C)) = some h) :
    SYS_BUS_ERR_ADDR.key ≠ h.reg.key ∧ SYS_BUS_ERR_INFO.key ≠ h.reg.key := by
  have hat : LANE_CTRL.at n = 0x4100_0000 + 0x1_0000 * n := rfl
  have hofs : ofs % 0x9C < 0x9C := Nat.mod_lt _ (by decide)
  have hmem := regAt_lane (show 0x4100_0000 ≤ _ by omega) (show _ < 0x4100_0000 + 0x1_0000 * 32 by omega) hh
  have hkeys : regsLane.all (fun r => SYS_BUS_ERR_ADDR.key != r.key && SYS_BUS_ERR_INFO.key != r.key) = true := by decide
  simpa using List.all_eq_true.mp hkeys _ hmem

/-- A write by access types changes no lane. -/
@[simp] theorem Dev.lanes_plainWrite (d : Dev) (who : Who) (r : Reg) (i j : Nat) (v keep : Word) (js : Nat) :
    (d.plainWrite who r i j v keep js).lanes = d.lanes := by
  unfold Dev.plainWrite
  dsimp only
  split
  · refine Eq.trans (congrArg Dev.lanes (Dev.capture_regs (d.setWord r (r.written (d.word r i js) v d.locked keep) i js) ..):) rfl
  · rfl

/-- A write in the set window reaches the word that the window shows and marks the set; the working values stay (R122). -/
theorem Dev.setWrite_leaves (d : Dev) (who : Who) (n : LaneId) {h : Hit} (v : Word) (haddr : SYS_BUS_ERR_ADDR.key ≠ h.reg.key)
    (hinfo : SYS_BUS_ERR_INFO.key ≠ h.reg.key) : let j := d.setIndex n h.reg h.idx
    let t := d.setWrite who n h v
    t.word h.reg n j = h.reg.written (d.word h.reg n j) v d.locked 0 ∧
      d.get LANE_SET_SEL.SET n ∈ t.lanes[n].dirty ∧ t.lanes[n].work = d.lanes[n].work ∧
      ∀ y ∈ t.lanes[n].sects, d.zoneIx n.grp y.arm.cyl = d.get LANE_SET_SEL.SET n → y.dirty = true := by
  intro j t
  have hword : t.word h.reg n j = h.reg.written (d.word h.reg n j) v d.locked 0 := by
    simp only [t, Dev.setWrite, Dev.word_onLane, Dev.plainWrite]
    split
    · rw [Dev.word_capture_of_key _ _ _ _ _ _ _ _ haddr hinfo, Dev.word_setWord]
    · rw [Dev.word_setWord]
  refine ⟨hword, ?_⟩
  simp only [t, Dev.setWrite, Dev.lanes_onLane, getElem_upd, Dev.lanes_plainWrite]
  refine ⟨List.mem_cons_self .., trivial, fun y hy hz => ?_⟩
  obtain ⟨x, -, rfl⟩ := List.mem_map.mp hy
  simp [hz]

/-- The end of snapshots changes nothing else. -/
theorem Dev.endSnaps_eq (d : Dev) (who : Who) (a : Nat) : ∃ b, d.endSnaps who a = { d with bus := b } := by
  unfold Dev.endSnaps
  split
  · exact ⟨d.bus, rfl⟩
  · exact ⟨_, rfl⟩

/-- Settles O18: a lane that is off is dropped, and no later round gives it work; the run's length, ADAPT_RESET and the shown set are
what the write leaves. -/
theorem laneControl : Obligations.LaneControl := by
  unfold Obligations.LaneControl
  refine ⟨?disable, ?go, ?calibrated, ?adapt, ?window⟩
  case disable =>
    intro s who n v htakes _
    refine completes_of_run rfl ?_
    rw [Dev.tryWrite_takes _ _ _ _ htakes]
    obtain ⟨hword, hoff, -, -⟩ := (s.dev.endSnaps who (LANE_CTRL.at n)).laneCtrlWrite_leaves who n (disabledWord v)
    have hlane := Dev.laneOn_of_disabledWord hword
    obtain ⟨hladders, hdec, -, hspecs, hslots⟩ := hoff hlane
    exact ⟨Dev.laneReads_of_off hlane, hladders, hdec, hspecs, hslots⟩
  case go =>
    intro s who n v htakes hwas hmode _ _ _
    refine completes_of_run rfl ?_
    rw [Dev.tryWrite_takes _ _ _ _ htakes]
    obtain ⟨hword, -, hrun, -⟩ := (s.dev.endSnaps who (LANE_CTRL.at n)).laneCtrlWrite_leaves who n (withField v 8 1 1)
    generalize Dev.laneCtrlWrite _ who n _ = t at hword hrun ⊢
    have hgo : t.get LANE_CTRL.CAL_GO n = 1 :=
      (congrArg LANE_CTRL.CAL_GO.of hword).trans (Dev.calGo_ctrlWritten _ _ (getLsbD_withField_one v (by decide)))
    have hcal : t.get LANE_CTRL.MODE n = 2 := (congrArg LANE_CTRL.MODE.of hword).trans <|
      (Dev.of_ctrlWritten_rw (lo := 4) (w := 2) _ _ _ (by decide)).trans <|
      (of_withField_beside LANE_CTRL v 1 (by decide)).trans hmode
    have hsectors : t.get LANE_CTRL.CAL_SECTORS n = LANE_CTRL.CAL_SECTORS.of v :=
      (congrArg LANE_CTRL.CAL_SECTORS.of hword).trans <|
      (Dev.of_ctrlWritten_rw (lo := 16) (w := 8) _ _ _ (by decide)).trans (of_withField_beside LANE_CTRL v 1 (by decide))
    refine ⟨hgo, hcal, ?_⟩
    rw [← hsectors]
    refine hrun ?_ ?_
    · exact (Dev.calibrating_of_word (Dev.word_endSnaps ..)).trans hwas
    · simp [Dev.calibrating, Dev.on, hgo, hcal]
  case calibrated =>
    intro s g i hruns hcal hzero
    refine completes_of_runGroup rfl hruns ?_
    dsimp only
    rw [if_neg (by rw [hcal, hzero]; decide)]
    exact ⟨(Dev.get_set_of_key _ _ _ _ _ _ _ _ (by decide)).trans (Dev.get_set _ _ _ _ _ (by decide)),
      Dev.get_set _ _ _ _ _ (by decide)⟩
  case adapt =>
    intro s who n v htakes _ _ _
    refine completes_of_run rfl ?_
    rw [Dev.tryWrite_takes _ _ _ _ htakes]
    obtain ⟨-, -, -, hadapt⟩ := (s.dev.endSnaps who (LANE_CTRL.at n)).laneCtrlWrite_leaves who n (withField v 9 1 1)
    exact hadapt (getLsbD_withField_one v (by decide))
  case window =>
    intro s who n ofs v h htakes hh
    refine completes_of_run rfl ?_
    dsimp only
    rw [Dev.tryWrite_takes _ _ _ _ htakes, hh]
    obtain ⟨haddr, hinfo⟩ := regAt_window_key n ofs hh
    obtain ⟨b, hb⟩ := s.dev.endSnaps_eq who (LANE_CTRL.at n + (0x100 + ofs % 0x9C))
    rw [hb]
    exact Dev.setWrite_leaves { s.dev with bus := b } who n v haddr hinfo

end Sys2Proof.Machine
end

section
/-! SUPPORT. A round of an idle recovery decoder whose lane has no ladder that acts, and what the welt's answer depends on (R103, R112,
R113, R631). -/
namespace Sys2Proof.Machine

theorem LaneSt.slotOf_congr {x y : LaneSt} (h : x.slots = y.slots) (c k : Nat) : x.slotOf c k = y.slotOf c k := by
  unfold LaneSt.slotOf
  rw [h]

theorem LaneSt.pins_congr {x y : LaneSt} (h : x.slots = y.slots) : x.pins = y.pins := by
  unfold LaneSt.pins
  rw [h]

/-! ### What step 4 of a ladder depends on -/

/-- Devices that give the ladders of a lane the same prospects of a reconstruction: registers beside LANE_STATUS, slots, results, the
arms of the other lanes, bands and zones. -/
structure Dev.SameWelts (n : LaneId) (d t : Dev) : Prop where
  words : ∀ r i j, r.key ≠ LANE_STATUS.key → t.word r i j = d.word r i j
  slots : ∀ m : LaneId, t.lanes[m].slots = d.lanes[m].slots
  won : ∀ m : LaneId, t.lanes[m].won = d.lanes[m].won
  arms : ∀ m : LaneId, m ≠ n → t.arms[m] = d.arms[m]
  band : t.band = d.band
  zones : t.zones = d.zones

theorem Dev.SameWelts.rfl {n : LaneId} {d : Dev} : Dev.SameWelts n d d :=
  ⟨fun _ _ _ _ => .refl _, fun _ => .refl _, fun _ => .refl _, fun _ _ => .refl _, .refl _, .refl _⟩

theorem Dev.SameWelts.trans {n : LaneId} {d e t : Dev} (h : Dev.SameWelts n d e) (h' : Dev.SameWelts n e t) : Dev.SameWelts n d t :=
  ⟨fun r i j hr => (h'.words r i j hr).trans (h.words r i j hr), fun m => (h'.slots m).trans (h.slots m),
    fun m => (h'.won m).trans (h.won m), fun m hm => (h'.arms m hm).trans (h.arms m hm), h'.band.trans h.band,
    h'.zones.trans h.zones⟩

/-- Changes of a lane that keep its slots and its results. -/
theorem Dev.sameWelts_onLane (d : Dev) (n m : LaneId) (f : LaneSt → LaneSt)
    (hf : ((f d.lanes[m]).slots, (f d.lanes[m]).won) = (d.lanes[m].slots, d.lanes[m].won)) : Dev.SameWelts n d (d.onLane m f) := by
  obtain ⟨hslots, hwon⟩ := Prod.mk.inj hf
  have hlane (j : LaneId) : (d.onLane m f).lanes[j].slots = d.lanes[j].slots ∧ (d.onLane m f).lanes[j].won = d.lanes[j].won := by
    rw [Dev.lanes_onLane]
    by_cases hj : j = m
    · rw [hj, getElem_upd]
      exact ⟨hslots, hwon⟩
    · rw [getElem_upd_of_ne _ _ _ _ hj]
      exact ⟨.refl _, .refl _⟩
  exact ⟨fun _ _ _ _ => Dev.word_onLane .., fun j => (hlane j).1, fun j => (hlane j).2, fun _ _ => .refl _, .refl _, .refl _⟩

section
variable {d t : Dev} {n : LaneId} (h : Dev.SameWelts n d t)
include h

theorem Dev.SameWelts.get (f : Fld) (hf : f.reg.key ≠ LANE_STATUS.key) (i j : Nat) : t.get f i j = d.get f i j :=
  Dev.get_of_word (h.words f.reg i j hf)

theorem Dev.SameWelts.on (f : Fld) (hf : f.reg.key ≠ LANE_STATUS.key) (i j : Nat) : t.on f i j = d.on f i j :=
  congrArg (· != 0) (h.get f hf i j)

theorem Dev.SameWelts.weltNeeds (g : Grp) (c k : Nat) : t.weltNeeds g c k = d.weltNeeds g c k := by
  unfold Dev.weltNeeds Dev.bandOver Dev.bandsOf Dev.weltAt Dev.bases Dev.zone Dev.zoneIx
  rw [h.band, h.zones]

theorem Dev.SameWelts.laneReads (m : LaneId) : t.laneReads m = d.laneReads m := by
  unfold Dev.laneReads Dev.laneAlive Dev.laneOn Dev.hasHead Dev.failedMask
  rw [h.on LANE_CTRL.EN (by decide), h.on LANE_CTRL.RDA_EN (by decide), h.on LANE_CTRL.RDB_EN (by decide),
    h.get FMT_LANES.PRESENT (by decide), h.get FLT_FENCED_LANE.LANE (by decide), h.get CBL_GRP.FAILED (by decide)]

theorem Dev.SameWelts.peerAlign (m : LaneId) (x : Slot) : t.peerAlign m x = d.peerAlign m x := by
  unfold Dev.peerAlign Dev.wideOf
  rw [h.on LANE_SYNC.WIDE_EN (by decide), h.get LANE_SYNC.MAX_DIST_WIDE (by decide)]

section
variable {l l' : Ladder} (hl : (l'.cyl, l'.sect, l'.members, l'.refused) = (l.cyl, l.sect, l.members, l.refused))
include hl

theorem Dev.SameWelts.mayHand (i : HeadIx) : t.mayHand n l' i = d.mayHand n l i := by
  simp only [Prod.mk.injEq] at hl
  obtain ⟨hcyl, hsect, hmembers, hrefused⟩ := hl
  unfold Dev.mayHand
  by_cases hi : i = n.ix
  · simp only [hi, bne_self_eq_false, Bool.false_and, hmembers]
  · have hne : laneOf n.grp i ≠ n := fun e =>
      hi (Fin.ext (Nat.add_left_cancel (congrArg Fin.val (e.trans (laneOf_grp_ix n).symm))))
    dsimp only
    rw [hcyl, hsect, hmembers, hrefused, h.laneReads, h.arms _ hne, h.won, h.get LANE_CTRL.MODE (by decide),
      LaneSt.slotOf_congr (h.slots _), LaneSt.pins_congr (h.slots _), h.slots]
    simp only [h.peerAlign]

theorem Dev.SameWelts.canWelt : t.canWelt n l' = d.canWelt n l := by
  have hmay : t.mayHand n l' = d.mayHand n l := funext (h.mayHand hl)
  simp only [Prod.mk.injEq] at hl
  obtain ⟨hcyl, hsect, -, -⟩ := hl
  unfold Dev.canWelt
  rw [h.on LANE_LADDER.WELT_EN (by decide), hcyl, hsect, h.weltNeeds, hmay]

end

theorem Dev.SameWelts.ladderActs : t.ladderActs n = d.ladderActs n := by
  funext l
  unfold Dev.ladderActs
  rw [h.canWelt (l := l) (.refl _)]

theorem Dev.SameWelts.specValid : t.specValid n = d.specValid n := by
  funext p
  unfold Dev.specValid Dev.passValid
  rw [h.on LANE_PASS.VALID (by decide), h.on LANE_PASS.SPEC (by decide)]

/-- A lane that is as it was wants its decoder where it did. -/
theorem Dev.SameWelts.wantsDec (hlane : t.lanes[n] = d.lanes[n]) : t.wantsDec n = d.wantsDec n := by
  unfold Dev.wantsDec
  rw [hlane, h.ladderActs, h.specValid]

end

/-! ### A round -/

/-- What a lane keeps while its decoder takes up other work than a ladder's. -/
def LaneSt.kept (x : LaneSt) : LaneSt := { x with dec := none, det := ⟨[], []⟩, asks := [], specs := [] }

/-- From d to t the decoder of lane n took up what it could, and no ladder's work. -/
structure Dev.Round (n : LaneId) (d t : Dev) : Prop where
  words : ∀ r i j, r.key ≠ LANE_STATUS.key → t.word r i j = d.word r i j
  tracking : ∀ m : LaneId, t.get LANE_STATUS.TRACKING m = d.get LANE_STATUS.TRACKING m
  zone : ∀ m : LaneId, t.get LANE_STATUS.ZONE m = d.get LANE_STATUS.ZONE m
  lane : t.lanes[n].kept = d.lanes[n].kept
  others : ∀ m : LaneId, m ≠ n → t.lanes[m] = d.lanes[m]
  units : (t.arms, t.fmt, t.band, t.zones) = (d.arms, d.fmt, d.band, d.zones)

theorem Dev.Round.rfl {n : LaneId} {d : Dev} : Dev.Round n d d :=
  ⟨fun _ _ _ _ => .refl _, fun _ => .refl _, fun _ => .refl _, .refl _, fun _ _ => .refl _, .refl _⟩

theorem Dev.Round.trans {n : LaneId} {d e t : Dev} (h : Dev.Round n d e) (h' : Dev.Round n e t) : Dev.Round n d t :=
  ⟨fun r i j hr => (h'.words r i j hr).trans (h.words r i j hr), fun m => (h'.tracking m).trans (h.tracking m),
    fun m => (h'.zone m).trans (h.zone m), h'.lane.trans h.lane, fun m hm => (h'.others m hm).trans (h.others m hm),
    h'.units.trans h.units⟩

theorem Dev.round_onLane (d : Dev) (n : LaneId) (f : LaneSt → LaneSt) (hf : (f d.lanes[n]).kept = d.lanes[n].kept) :
    Dev.Round n d (d.onLane n f) :=
  ⟨fun _ _ _ _ => Dev.word_onLane .., fun _ => Dev.get_of_word (Dev.word_onLane ..), fun _ => Dev.get_of_word (Dev.word_onLane ..),
    by rw [Dev.lanes_onLane, getElem_upd, hf], fun m hm => getElem_upd_of_ne _ _ _ _ hm, .refl _⟩

/-- A field of LANE_STATUS that is set, beside TRACKING and ZONE. -/
theorem Dev.round_set_status (d : Dev) (n m : LaneId) {lo w : Nat} (h : 8 ≤ lo ∧ lo + w ≤ 32) (v : Nat) :
    Dev.Round n d (d.set ⟨LANE_STATUS, lo, w⟩ v m) := by
  have hget (lo' w' : Nat) (h' : lo' + w' ≤ 8) (k : LaneId) :
      (d.set ⟨LANE_STATUS, lo, w⟩ v m).get ⟨LANE_STATUS, lo', w'⟩ k = d.get ⟨LANE_STATUS, lo', w'⟩ k := by
    by_cases hk : (m : Nat) = k
    · rw [hk]
      exact Dev.get_set_beside d LANE_STATUS lo w lo' w' v k 0 (by omega)
    · exact Dev.get_set_of_ne _ _ _ _ _ _ _ _ (RKey.ne_of_i hk)
  exact ⟨fun r i j hr => Dev.word_set_of_key _ _ _ _ _ _ _ _ (Ne.symm hr), hget 1 1 (by decide), hget 2 6 (by decide), .refl _,
    fun _ _ => .refl _, .refl _⟩

theorem Dev.round_showLane (d : Dev) (n m : LaneId) : Dev.Round n d (d.showLane m) := by
  have hset (d : Dev) (p r s : Nat) : Dev.Round n d
      (((d.set LANE_STATUS.PINNED p m).set LANE_STATUS.REC_BUSY r m).set LANE_STATUS.SPEC_BUSY s m) :=
    (d.round_set_status n m (lo := 8) (w := 2) (by decide) p).trans <|
      (Dev.round_set_status _ n m (lo := 10) (w := 1) (by decide) r).trans (Dev.round_set_status _ n m (lo := 11) (w := 1) (by decide) s)
  unfold Dev.showLane
  dsimp only
  split
  all_goals exact hset ..

theorem Dev.round_startDec (d : Dev) (n : LaneId) (w : RecWork) (x : Option Slot) (p : PassId) (al : Option Int) :
    Dev.Round n d ((d.startDec n w x p al).showLane n) := (Dev.round_onLane _ _ _ rfl).trans (Dev.round_showLane ..)

theorem Dev.round_nextAsk (d : Dev) (n : LaneId) : Dev.Round n d (d.nextAsk n) := by
  unfold Dev.nextAsk
  dsimp only
  split
  · exact .rfl
  split
  · exact .rfl
  · exact (Dev.round_onLane _ _ _ rfl).trans (Dev.round_startDec ..)

theorem Dev.round_nextSpec (d : Dev) (n : LaneId) : Dev.Round n d (d.nextSpec n) := by
  unfold Dev.nextSpec
  split
  · exact Dev.round_showLane ..
  split
  · exact Dev.round_showLane ..
  · exact (Dev.round_onLane _ _ _ rfl).trans (Dev.round_startDec ..)

/-- No ladder of the lane acts. -/
def Dev.restful (d : Dev) (n : LaneId) : Prop := ∀ y ∈ d.lanes[n].ladders, d.ladderActs n y = false

theorem Dev.restful_of_quiet {d : Dev} {n : LaneId} (h : d.quiet n) : d.restful n := fun y hy => by
  unfold Dev.ladderActs
  rw [h y hy]
  rfl

theorem Dev.round_nextDec {d : Dev} {n : LaneId} (h : d.restful n) (fuel : Nat) : Dev.Round n d (d.nextDec n fuel) := by
  cases fuel with
  | zero => exact .rfl
  | succ fuel =>
    have hfind : d.lanes[n].ladders.find? (d.ladderActs n) = none :=
      List.find?_eq_none.mpr fun y hy => Bool.eq_false_iff.mp (h y hy)
    unfold Dev.nextDec
    extract_lets l busy
    split
    · exact Dev.round_showLane ..
    rw [show l.ladders.find? (d.ladderActs n) = none from hfind]
    dsimp only
    split
    · exact (Dev.round_onLane _ _ _ rfl).trans (Dev.round_nextAsk ..)
    split
    · exact Dev.round_showLane ..
    · exact Dev.round_nextSpec ..

/-! ### What a round keeps -/

section
variable {d t : Dev} {n : LaneId} (h : Dev.Round n d t)
include h

theorem Dev.Round.kept (m : LaneId) : t.lanes[m].kept = d.lanes[m].kept := by
  by_cases hm : m = n
  · rw [hm, h.lane]
  · rw [h.others m hm]

theorem Dev.Round.ladders (m : LaneId) : t.lanes[m].ladders = d.lanes[m].ladders := (congrArg LaneSt.ladders (h.kept m) :)

theorem Dev.Round.sects (m : LaneId) : t.lanes[m].sects = d.lanes[m].sects := (congrArg LaneSt.sects (h.kept m) :)

theorem Dev.Round.arms : t.arms = d.arms := congrArg Prod.fst h.units

theorem Dev.Round.fmt : t.fmt = d.fmt := congrArg (fun u => u.2.1) h.units

theorem Dev.Round.sameWelts (m : LaneId) : Dev.SameWelts m d t :=
  ⟨h.words, fun m => (congrArg LaneSt.slots (h.kept m) :), fun m => (congrArg LaneSt.won (h.kept m) :), fun _ _ => by rw [h.arms],
    congrArg (fun u => u.2.2.1) h.units, congrArg (fun u => u.2.2.2) h.units⟩

theorem Dev.Round.restful {m : LaneId} (hr : d.restful m) : t.restful m := by
  unfold Dev.restful
  rw [h.ladders, (h.sameWelts m).ladderActs]
  exact hr

/-- Another lane wants its decoder where it did. -/
theorem Dev.Round.wantsDec {m : LaneId} (hm : m ≠ n) : t.wantsDec m = d.wantsDec m :=
  (h.sameWelts m).wantsDec (h.others m hm)

end

/-! ### After its round a decoder has what it wants -/

/-- A lane without a ladder that acts wants its decoder for peer decodes and speculation alone. -/
theorem Dev.wantsDec_of_dec {d : Dev} {n : LaneId} {w : RecWork} (h : d.restful n) (hdec : d.lanes[n].dec = some w)
    (hasks : d.lanes[n].asks = [] ∨ ∀ c k p m, w ≠ .spec c k p m) : d.wantsDec n = false := by
  have hany : d.lanes[n].ladders.any (d.ladderActs n) = false := List.any_eq_false.mpr fun y hy => by rw [h y hy]; decide
  unfold Dev.wantsDec
  dsimp only
  rw [hdec, hany]
  cases w with
  | ladder => rfl
  | peer => rfl
  | spec c k p m =>
    rw [hasks.resolve_right fun h => h c k p m rfl]
    rfl

/-- What starts at a decoder. -/
theorem Dev.dec_startDec (d : Dev) (n : LaneId) (w : RecWork) (x : Option Slot) (p : PassId) (al : Option Int) :
    ((d.startDec n w x p al).showLane n).lanes[n].dec = some w ∧
      ((d.startDec n w x p al).showLane n).lanes[n].asks = d.lanes[n].asks := by
  rw [show ((d.startDec n w x p al).showLane n).lanes = (d.startDec n w x p al).lanes from rfl]
  unfold Dev.startDec
  dsimp only
  rw [Dev.lanes_onLane, getElem_upd]
  exact ⟨rfl, rfl⟩

/-- A decoder that is idle and is asked takes up a peer decode. -/
theorem Dev.dec_nextAsk {d : Dev} {n : LaneId} (h : d.restful n) (hdec : d.lanes[n].dec = none) (hasks : d.lanes[n].asks ≠ []) :
    ∃ m c k, (d.nextAsk n).lanes[n].dec = some (.peer m c k) := by
  have hnone : (d.lanes[n].dec.isSome || d.lanes[n].ladders.any fun x => !x.waits && !x.todo.isEmpty) = false := by
    rw [hdec, Option.isSome_none, Bool.false_or]
    refine List.any_eq_false.mpr fun y hy => ?_
    have := h y hy
    unfold Dev.ladderActs at this
    cases hw : y.waits with
    | true => simp
    | false =>
      simp only [hw, Bool.not_false, Bool.true_and, Bool.not_eq_false', Bool.and_eq_true] at this
      simp [this.1.1]
  unfold Dev.nextAsk
  dsimp only
  rw [hnone, if_neg Bool.false_ne_true]
  split
  next he => exact absurd he hasks
  next a t _ => exact ⟨a.1, a.2.1, a.2.2, (Dev.dec_startDec ..).1⟩

/-- An idle decoder with nothing else to do takes up the speculation that may run. -/
theorem Dev.wantsDec_nextSpec {d : Dev} {n : LaneId} (h : d.restful n) (hdec : d.lanes[n].dec = none) (hasks : d.lanes[n].asks = []) :
    (d.nextSpec n).wantsDec n = false := by
  have hrest := (Dev.round_nextSpec d n).restful h
  unfold Dev.nextSpec at hrest ⊢
  split at hrest
  next hnone =>
    have hspecs : d.lanes[n].specs.any (fun s => s.todo.any (d.specValid n)) = false :=
      List.any_eq_false.mpr (List.find?_eq_none.mp hnone)
    have hany : d.lanes[n].ladders.any (d.ladderActs n) = false := List.any_eq_false.mpr fun y hy => by rw [h y hy]; decide
    rw [((Dev.round_showLane d n n).sameWelts n).wantsDec rfl]
    unfold Dev.wantsDec
    dsimp only
    rw [hdec, hany, hasks, hspecs]
    rfl
  next s hs =>
    have hsome := List.find?_some hs
    obtain ⟨p, hp, hvalid⟩ := List.any_eq_true.mp hsome
    split at hrest
    next he =>
      -- a pass that may run is not dropped
      have := List.dropWhile_eq_nil_iff.mp he p hp
      rw [hvalid] at this
      cases this
    next p t _ =>
      refine Dev.wantsDec_of_dec hrest (Dev.dec_startDec ..).1 (.inl ((Dev.dec_startDec ..).2.trans ?_))
      rw [Dev.lanes_onLane, getElem_upd]
      exact hasks

/-- After a round a lane wants nothing more. -/
theorem Dev.wantsDec_nextDec {d : Dev} {n : LaneId} (h : d.restful n) (fuel : Nat) : (d.nextDec n (fuel + 1)).wantsDec n = false := by
  have hfind : d.lanes[n].ladders.find? (d.ladderActs n) = none :=
    List.find?_eq_none.mpr fun y hy => Bool.eq_false_iff.mp (h y hy)
  have hsame : (d.showLane n).wantsDec n = d.wantsDec n := ((Dev.round_showLane d n n).sameWelts n).wantsDec rfl
  unfold Dev.nextDec
  extract_lets l busy
  by_cases hbusy : busy = true
  · -- a ladder's pass or a peer decode runs
    rw [if_pos hbusy, hsame]
    unfold busy at hbusy
    split at hbusy
    · cases hbusy
    · cases hbusy
    next w hspec hw => exact Dev.wantsDec_of_dec h hw (.inr fun c k p m e => hspec c k p m e)
  rw [if_neg hbusy, show l.ladders.find? (d.ladderActs n) = none from hfind]
  dsimp only
  by_cases hasks : l.asks = []
  · rw [hasks, if_neg (by decide)]
    by_cases hdec : l.dec.isSome = true
    · -- speculation runs on
      rw [if_pos hdec, hsame]
      obtain ⟨w, hw⟩ := Option.isSome_iff_exists.mp hdec
      exact Dev.wantsDec_of_dec h hw (.inl hasks)
    · rw [if_neg hdec]
      exact Dev.wantsDec_nextSpec h (Option.not_isSome_iff_eq_none.mp hdec) hasks
  · rw [if_pos (by simpa using hasks)]
    have hround := Dev.round_onLane d n (fun l => { l with dec := none }) rfl
    generalize he : d.onLane n (fun l => { l with dec := none }) = e at hround ⊢
    have hlane : e.lanes[n] = { d.lanes[n] with dec := none } := by rw [← he, Dev.lanes_onLane, getElem_upd]
    obtain ⟨m, c, k, hpeer⟩ := Dev.dec_nextAsk (hround.restful h) (by rw [hlane]) (by rw [hlane]; exact hasks)
    exact Dev.wantsDec_of_dec ((Dev.round_nextAsk e n).restful (hround.restful h)) hpeer (.inr fun _ _ _ _ => nofun)

end Sys2Proof.Machine
end

section
/-! SUPPORT. Pins of the slots (R100, R101, R121, R631). -/
namespace Sys2Proof.Machine

/-! ### Slots -/

/-- The slot that holds a sector holds one. -/
theorem LaneSt.slot_of_slotOf {l : LaneSt} {c k : Nat} {i : Fin 3} (h : l.slotOf c k = some i) : ∃ x, l.slots[i] = some x := by
  unfold LaneSt.slotOf at h
  have hmem := (List.mem_filter.mp (List.mem_of_find?_eq_some h)).2
  split at hmem
  next x hx => exact ⟨x, hx⟩
  · cases hmem

/-- A slot after its update. -/
theorem Dev.slot_onSlot (d : Dev) (n : LaneId) (i : Fin 3) (f : Slot → Slot) {x : Slot} (h : d.lanes[n].slots[i] = some x) :
    (d.onSlot n i f).lanes[n].slots[i] = some (f x) := by
  unfold Dev.onSlot
  rw [Dev.lanes_onLane, getElem_upd]
  dsimp only
  rw [getElem_upd, h]
  rfl

@[simp] theorem Dev.lanes_showLane (d : Dev) (n : LaneId) : (d.showLane n).lanes = d.lanes := rfl

/-! ### A peer's pin (R101) -/

section
variable {s : State} {n m : LaneId} {c k : Nat} {i : Fin 3} (hrun : s.dev.groupRuns n.grp = true) (hne : n ≠ m)
  (hgrp : n.grp = m.grp) (hreads : s.dev.laneReads n = true) (hslot : s.dev.lanes[n].slotOf c k = some i)

section
variable (hladder : s.dev.hasLadder m c k = true)
include hrun hne hgrp hreads hslot hladder

/-- A peer that has a pin to give pins its slot. -/
theorem peerPin_pins (hpins : s.dev.lanes[n].pins < 2) : Completes (.peerPin n m c k) s fun t =>
    (t.lanes[n].slots[i]).map (fun x => x.peers.contains m && x.pinned) = some true := by
  refine completes_of_runGroup rfl hrun ?_
  generalize s.dev = d at *
  obtain ⟨x, hx⟩ := LaneSt.slot_of_slotOf hslot
  have hgo : (n == m || n.grp != m.grp || !d.laneReads n || !d.hasLadder m c k) = false := by
    simp [hne, hgrp, hreads, hladder]
  rw [hgo, if_neg Bool.false_ne_true, hslot]
  dsimp only
  rw [if_pos (by rw [Bool.or_eq_true, decide_eq_true_eq]; exact .inr hpins), Dev.lanes_showLane, Dev.slot_onSlot _ _ _ _ hx]
  simp [Slot.pinned]

/-- A peer without one is unavailable. -/
theorem peerPin_refuses {x : Slot} (hx : s.dev.lanes[n].slots[i] = some x) (hfree : x.pinned = false)
    (hpins : 2 ≤ s.dev.lanes[n].pins) {P : Dev → Prop} (h : P ((s.dev.refuseMember m c k n.ix).serve n.grp 64)) :
    Completes (.peerPin n m c k) s P := by
  refine completes_of_runGroup rfl hrun ?_
  generalize s.dev = d at *
  have hgo : (n == m || n.grp != m.grp || !d.laneReads n || !d.hasLadder m c k) = false := by
    simp [hne, hgrp, hreads, hladder]
  rw [hgo, if_neg Bool.false_ne_true, hslot]
  dsimp only
  rw [hx, if_neg (by simp [hfree]; exact hpins)]
  exact h

end

end

/-- While no decoder wants work, none takes any. -/
theorem Dev.serve_of_calm {d : Dev} {g : Grp} (h : d.calm g) (fuel : Nat) : d.serve g fuel = d := by
  cases fuel with
  | zero => rfl
  | succ fuel =>
    have hnone : (List.finRange 8).find? (fun i => d.wantsDec (laneOf g i)) = none :=
      List.find?_eq_none.mpr fun i _ => Bool.eq_false_iff.mp (h i)
    unfold Dev.serve
    rw [hnone]

/-- A refusal changes the ladders that asked, and no lane's prospects but theirs. -/
theorem Dev.sameWelts_refuseMember (d : Dev) (n m : LaneId) (c k : Nat) (i : HeadIx) : Dev.SameWelts n d (d.refuseMember m c k i) :=
  Dev.sameWelts_onLane _ _ _ _ rfl

/-- A refusal for the ladder whose pass runs gives no decoder work. -/
theorem Dev.calm_refuseMember {d : Dev} {g : Grp} {m : LaneId} {c k u : Nat} {p : PassId} (h : d.calm g)
    (hdec : d.lanes[m].dec = some (.ladder c k p u)) (a b : Nat) (i : HeadIx) : (d.refuseMember m a b i).calm g := by
  intro j
  by_cases hj : laneOf g j = m
  · have : (d.refuseMember m a b i).lanes[m].dec = some (.ladder c k p u) := by
      unfold Dev.refuseMember
      rw [Dev.lanes_onLane, getElem_upd]
      exact hdec
    unfold Dev.wantsDec
    dsimp only
    rw [hj, this]
  · rw [(d.sameWelts_refuseMember (laneOf g j) m a b i).wantsDec (getElem_upd_of_ne _ _ _ _ hj)]
    exact h j

theorem Dev.refused_refuseMember (d : Dev) (m : LaneId) (c k : Nat) (i : HeadIx) {z : Ladder}
    (hz : z ∈ (d.refuseMember m c k i).lanes[m].ladders) (hc : z.cyl = c) (hk : z.sect = k) : i ∈ z.refused := by
  unfold Dev.refuseMember at hz
  rw [Dev.lanes_onLane, getElem_upd] at hz
  obtain ⟨y, -, rfl⟩ := List.mem_map.mp hz
  by_cases hplace : (y.cyl == c && y.sect == k) = true
  · rw [if_pos hplace]
    exact List.mem_cons_self ..
  · rw [if_neg hplace] at hc hk
    exact absurd (place_eq hc hk) hplace

/-! ### A member that is handed over (R105, R631) -/

/-- The ladder that asked has the member. -/
theorem Dev.handOver_hands {d : Dev} {m : LaneId} {y : Ladder} (hy : y ∈ d.lanes[m].ladders) (hwelt : y.welt = true)
    (hwaits : y.waits = false) (huniq : ∀ z ∈ d.lanes[m].ladders, z.cyl = y.cyl → z.sect = y.sect → z = y) (i : HeadIx)
    (f : List Byte) : ∃ z ∈ (d.handOver m y.cyl y.sect i f).lanes[m].ladders, z.cyl = y.cyl ∧ z.sect = y.sect ∧ (i, f) ∈ z.members := by
  have hfind : d.lanes[m].ladders.find? (fun z => z.cyl == y.cyl && z.sect == y.sect && z.welt && !z.waits) = some y :=
    find?_eq_of_unique hy (by simp [hwelt, hwaits]) fun z hz hne => by
      rw [place_ne fun h => hne (huniq z hz h.1 h.2)]
      rfl
  unfold Dev.handOver
  rw [hfind]
  dsimp only
  generalize hl : (if d.enough m _ then _ else _ : Ladder) = l
  obtain ⟨hcyl, hsect, hmembers⟩ : l.cyl = y.cyl ∧ l.sect = y.sect ∧ l.members = y.members.filter (fun p => p.1 != i) ++ [(i, f)] := by
    rw [← hl]
    split
    all_goals exact ⟨rfl, rfl, rfl⟩
  unfold Dev.putLadder
  rw [Dev.lanes_onLane, getElem_upd]
  refine ⟨l, List.mem_map.mpr ⟨y, hy, if_pos (place_eq hcyl.symm hsect.symm)⟩, hcyl, hsect, ?_⟩
  rw [hmembers]
  exact List.mem_append_right _ (List.mem_singleton_self _)

/-- A peer whose sector a slot holds and whose result is known hands it over. -/
theorem peerMemberRequest_hands {s : State} {n m : LaneId} {y : Ladder} {f : List Byte} {i : Fin 3} {x : Slot}
    (hslot : s.dev.lanes[n].slotOf y.cyl y.sect = some i) (hx : s.dev.lanes[n].slots[i] = some x) (hpin : m ∈ x.peers)
    (hrun : s.dev.groupRuns n.grp = true) (hne : n ≠ m) (hgrp : n.grp = m.grp) (hreads : s.dev.laneReads n = true)
    (hy : y ∈ s.dev.lanes[m].ladders) (hwelt : y.welt = true) (hwaits : y.waits = false)
    (huniq : ∀ z ∈ s.dev.lanes[m].ladders, z.cyl = y.cyl → z.sect = y.sect → z = y)
    (hwon : ∀ w ∈ s.dev.lanes[n].won, w.1 = y.cyl → w.2.1 = y.sect → w.2.2 = f) (hf : (y.cyl, y.sect, f) ∈ s.dev.lanes[n].won) :
    Completes (.peerMemberRequest n m y.cyl y.sect) s fun t =>
      ∃ z ∈ t.lanes[m].ladders, z.cyl = y.cyl ∧ z.sect = y.sect ∧ (n.ix, f) ∈ z.members := by
  refine completes_of_runGroup rfl hrun ?_
  generalize s.dev = d at *
  have hasked : d.lanes[m].ladders.any (fun z => z.cyl == y.cyl && z.sect == y.sect && z.welt && !z.waits) = true :=
    List.any_eq_true.mpr ⟨y, hy, by simp [hwelt, hwaits]⟩
  have hgo : (n == m || n.grp != m.grp || !d.laneReads n ||
      !d.lanes[m].ladders.any fun z => z.cyl == y.cyl && z.sect == y.sect && z.welt && !z.waits) = false := by
    rw [hasked]
    simp [hne, hgrp, hreads]
  dsimp only
  rw [hgo, if_neg Bool.false_ne_true, hslot, Option.bind_some, hx]
  dsimp only
  rw [if_neg (by simpa using hpin)]
  cases hfound : d.lanes[n].won.find? fun w => w.1 == y.cyl && w.2.1 == y.sect with
  | none => exact absurd (by simp) (List.find?_eq_none.mp hfound _ hf)
  | some w =>
    have hplace := List.find?_some hfound
    simp only [Bool.and_eq_true, beq_iff_eq] at hplace
    have := hwon w (List.mem_of_find?_eq_some hfound) hplace.1 hplace.2
    dsimp only
    rw [this]
    exact Dev.handOver_hands hy hwelt hwaits huniq n.ix f

/-! ### HOLD (R100, R121) -/

/-- The slot that SLOT names: 3 names slot 2. -/
theorem Dev.selSlot_eq {d : Dev} {n : LaneId} {i : Fin 3} (h : min (d.get LANE_SBUF_SEL.SLOT n) 2 = i.val) : d.selSlot n = i := by
  unfold Dev.selSlot
  split
  next e => exact Fin.ext (by rw [← h, e]; rfl)
  next e => exact Fin.ext (by rw [← h, e]; rfl)
  next h0 h1 =>
    have hge : 2 ≤ d.get LANE_SBUF_SEL.SLOT n := (Nat.two_le_iff _).mpr ⟨h0, h1⟩
    exact Fin.ext ((Nat.min_eq_right hge).symm.trans h)

/-- HOLD takes a pin that is to be had: it stays set, and its slot is held. -/
theorem Dev.holdSlot_holds {d : Dev} {n : LaneId} {i : Fin 3} (hsel : d.selSlot n = i) (h : d.lanes[n].pins < 2) :
    (d.holdSlot n).word LANE_SBUF_SEL n = d.word LANE_SBUF_SEL n ∧
      (d.holdSlot n).lanes[n].slots[i] = holdOn d.lanes[n].slots[i] := by
  subst hsel
  unfold Dev.holdSlot
  rw [if_neg (Nat.not_le.mpr h)]
  dsimp only
  refine ⟨(Dev.round_showLane _ n n).words _ _ _ (by decide), ?_⟩
  rw [Dev.lanes_showLane, Dev.lanes_onLane, getElem_upd]
  dsimp only
  rw [getElem_upd]

/-- Without a pin to be had HOLD reads back 0. -/
theorem Dev.holdSlot_clears {d : Dev} {n : LaneId} (h : 2 ≤ d.lanes[n].pins) : d.holdSlot n = d.set LANE_SBUF_SEL.HOLD 0 n := if_pos h

/-- The word that a write of LANE_SBUF_SEL leaves while HOLD is 0. -/
def Dev.selWritten (d : Dev) (n : LaneId) (v : Word) : Dev :=
  d.setWord LANE_SBUF_SEL (LANE_SBUF_SEL.written (d.word LANE_SBUF_SEL n) v d.locked 0) n

section
variable {d : Dev} {n : LaneId} {v : Word}

theorem Dev.of_selWritten {lo w : Nat} (h : LANE_SBUF_SEL.clear ⟨lo, w, .rw⟩ = true) :
    (d.selWritten n v).get ⟨LANE_SBUF_SEL, lo, w⟩ n = (Fld.mk LANE_SBUF_SEL lo w).of v :=
  (congrArg (Fld.mk LANE_SBUF_SEL lo w).of (Dev.word_setWord ..)).trans (Fld.of_written LANE_SBUF_SEL ⟨lo, w, .rw⟩ h ..)

section
variable (hhold : v.getLsbD 31 = true)
include hhold

theorem Dev.hold_selWritten : (d.selWritten n v).get LANE_SBUF_SEL.HOLD n = 1 :=
  (Dev.of_selWritten (lo := 31) (w := 1) (by decide)).trans ((Fld.of_bit ..).trans (congrArg Bool.toNat hhold))

/-- HOLD that is set: without a pin to be had it reads back 0, a slot that is being filled waits, another is held. -/
theorem Dev.sbufWrite_hold (hwas : d.get LANE_SBUF_SEL.HOLD n = 0) (who : Who) {i : Fin 3}
    (hsel : (d.selWritten n v).selSlot n = i) : d.sbufWrite who n v =
    if 2 ≤ d.lanes[n].pins then (d.selWritten n v).set LANE_SBUF_SEL.HOLD 0 n
    else if (d.lanes[n].slots[i].map fun x => !x.filled d.now && !x.empty).getD false then d.selWritten n v
    else (d.selWritten n v).holdSlot n := by
  have hoff : d.on LANE_SBUF_SEL.HOLD n = false := by rw [Dev.on_eq, hwas]; rfl
  have hon : (d.selWritten n v).on LANE_SBUF_SEL.HOLD n = true := by rw [Dev.on_eq, Dev.hold_selWritten hhold]; rfl
  have hplain : d.plainWrite who LANE_SBUF_SEL n 0 v 0 = d.selWritten n v := Dev.plainWrite_unlocked (by decide) ..
  subst hsel
  unfold Dev.sbufWrite
  simp only [hoff, Bool.false_eq_true, if_false, hplain, hon, if_true]
  rfl

/-- HOLD that finds a pin and a slot that is not being filled holds the slot. -/
theorem Dev.sbufWrite_holds (hwas : d.get LANE_SBUF_SEL.HOLD n = 0) (who : Who) {i : Fin 3}
    (hsel : min (LANE_SBUF_SEL.SLOT.of v) 2 = i.val) (hpins : d.lanes[n].pins < 2)
    (hfilled : ∀ x, d.lanes[n].slots[i] = some x → x.filled d.now = true ∨ x.empty = true) :
    (d.sbufWrite who n v).get LANE_SBUF_SEL.HOLD n = 1 ∧ ((d.sbufWrite who n v).lanes[n].slots[i]).map Slot.hold = some true := by
  have hslot : (d.selWritten n v).selSlot n = i :=
    Dev.selSlot_eq ((congrArg (min · 2) (Dev.of_selWritten (lo := 0) (w := 2) (by decide))).trans hsel)
  have hno : ((d.lanes[n].slots[i]).map fun x => !x.filled d.now && !x.empty).getD false = false := by
    cases hx : d.lanes[n].slots[i] with
    | none => rfl
    | some x =>
      obtain h | h := hfilled x hx
      all_goals simp [h]
  have hlanes : (d.selWritten n v).lanes = d.lanes := Dev.lanes_setWord ..
  have hpins' : (d.selWritten n v).lanes[n].pins < 2 := hlanes ▸ hpins
  obtain ⟨hword, hheld⟩ := Dev.holdSlot_holds hslot hpins'
  rw [Dev.sbufWrite_hold hhold hwas who hslot, if_neg (Nat.not_le.mpr hpins), hno, if_neg Bool.false_ne_true, hheld]
  exact ⟨(Dev.get_of_word hword).trans (Dev.hold_selWritten hhold), rfl⟩

end
end

/-- The end of a slot's fill changes no pin. -/
theorem Dev.pins_fillEnds (d : Dev) (n : LaneId) (i : Fin 3) : (d.onSlot n i Slot.fillEnds).lanes[n].pins = d.lanes[n].pins := by
  have hpins (x : LaneSt) : x.pins = ((x.slots.map fun s => (s.map Slot.pinned).getD false).toList.filter id).length := by
    unfold LaneSt.pins
    rw [Vector.toList_map, List.filter_map, List.length_map]
    rfl
  unfold Dev.onSlot
  rw [Dev.lanes_onLane, getElem_upd, hpins, hpins]
  dsimp only
  rw [map_upd]
  intro x
  cases x <;> rfl

/-- HOLD holds the slot whose fill ends. -/
theorem Dev.holdSlot_fillEnds {d : Dev} {n : LaneId} {x : Slot} (hx : d.lanes[n].slots[d.selSlot n] = some x)
    (hpins : d.lanes[n].pins < 2) : ((d.onSlot n (d.selSlot n) Slot.fillEnds).holdSlot n).lanes[n].slots[d.selSlot n] =
      some { x with full := !x.empty, hold := true } := by
  have hfilled := Dev.slot_onSlot d n (d.selSlot n) Slot.fillEnds hx
  have hpins' : (d.onSlot n (d.selSlot n) Slot.fillEnds).lanes[n].pins < 2 := by rwa [Dev.pins_fillEnds]
  have hsel : (d.onSlot n (d.selSlot n) Slot.fillEnds).selSlot n = d.selSlot n := rfl
  rw [(Dev.holdSlot_holds hsel hpins').2, hfilled]
  rfl

/-- HOLD_PIN ends the fill of a slot that HOLD waits for, and then holds it. -/
theorem completes_holdPin {s : State} {n : LaneId} {x : Slot} (hrun : s.dev.groupRuns n.grp = true)
    (hhold : s.dev.get LANE_SBUF_SEL.HOLD n = 1) (hx : s.dev.lanes[n].slots[s.dev.selSlot n] = some x) (hfree : x.hold = false)
    {P : Dev → Prop} (h : P ((s.dev.onSlot n (s.dev.selSlot n) Slot.fillEnds).holdSlot n)) : Completes (.holdPin n) s P := by
  refine completes_of_runGroup rfl hrun ?_
  have hon : s.dev.on LANE_SBUF_SEL.HOLD n = true := by rw [Dev.on_eq, hhold]; rfl
  dsimp only
  rw [hon, hx, Option.map_some, hfree]
  exact h

/-- Settles O16: a slot's update reaches the slot that is meant, and where a pin is to be had is a count that no earlier step of the
command changes. -/
theorem slotPins : Obligations.SlotPins := by
  unfold Obligations.SlotPins
  refine ⟨?pin, ?refuse, ?hand, ?hold, ?full, ?filled, ?none⟩
  case pin =>
    intro s n m c k i hrun hne hgrp hreads hladder hslot hpins
    exact peerPin_pins hrun hne hgrp hreads hslot hladder hpins
  case refuse =>
    intro s n m c k i x q u hrun hne hgrp hreads hladder hslot hx hfree hpins hcalm hdec
    refine peerPin_refuses hrun hne hgrp hreads hslot hladder hx hfree hpins ?_
    rw [Dev.serve_of_calm (Dev.calm_refuseMember hcalm hdec c k n.ix)]
    exact ⟨getElem_upd_of_ne _ _ _ _ hne, fun z hz hc hk => Dev.refused_refuseMember _ _ _ _ _ hz hc hk⟩
  case hand =>
    rintro s n m c k y f i x hslot hx hpin hrun hne hgrp hreads hy rfl rfl hwelt hwaits huniq hwon hf
    exact peerMemberRequest_hands hslot hx hpin hrun hne hgrp hreads hy hwelt hwaits huniq hwon hf
  case hold =>
    intro s who n v i htakes hwas hhold hsel hpins hfilled
    refine completes_of_run rfl ?_
    rw [Dev.tryWrite_takes _ _ _ _ htakes]
    obtain ⟨b, hb⟩ := s.dev.endSnaps_eq who (LANE_SBUF_SEL.at n)
    rw [hb]
    exact Dev.sbufWrite_holds (d := { s.dev with bus := b }) hhold hwas who hsel hpins hfilled
  case full =>
    intro s who n v htakes hwas hhold hpins
    refine completes_of_run rfl ?_
    rw [Dev.tryWrite_takes _ _ _ _ htakes]
    obtain ⟨b, hb⟩ := s.dev.endSnaps_eq who (LANE_SBUF_SEL.at n)
    rw [hb, Dev.sbufWrite_hold (d := { s.dev with bus := b }) hhold hwas who rfl, if_pos hpins]
    exact ⟨Dev.get_set _ _ _ _ _ (by decide), rfl⟩
  case filled =>
    intro s n x hrun hhold hx hfree hpins
    refine completes_holdPin hrun hhold hx hfree ?_
    exact Dev.holdSlot_fillEnds hx hpins
  case none =>
    intro s n x hrun hhold hx hfree hpins
    refine completes_holdPin hrun hhold hx hfree ?_
    rw [Dev.holdSlot_clears (by rw [Dev.pins_fillEnds]; exact hpins)]
    exact Dev.get_set _ _ _ _ _ (by decide)

end Sys2Proof.Machine
end

section
/-! SUPPORT. What the start of a sector slot leaves for the sector's end (R77, R80, R84, R96). -/
namespace Sys2Proof.Machine

/-! ### Steps that prepare a lane -/

/-- From d to t the registers of the keys listed may change, and of the rest no ladder of the lane, no arm and no zone. -/
structure Dev.Keeps (ks : List Nat) (n : LaneId) (d t : Dev) : Prop where
  words : ∀ r i j, r.key ∉ ks → t.word r i j = d.word r i j
  ladders : t.lanes[n].ladders = d.lanes[n].ladders
  units : (t.arms, t.zones, t.nw) = (d.arms, d.zones, d.nw)

section
variable {ks : List Nat} {n : LaneId}

theorem Dev.Keeps.rfl {d : Dev} : Dev.Keeps ks n d d := ⟨fun _ _ _ _ => .refl _, .refl _, .refl _⟩

theorem Dev.Keeps.trans {d e t : Dev} (h : Dev.Keeps ks n d e) (h' : Dev.Keeps ks n e t) : Dev.Keeps ks n d t :=
  ⟨fun r i j hr => (h'.words r i j hr).trans (h.words r i j hr), h'.ladders.trans h.ladders, h'.units.trans h.units⟩

theorem Dev.Keeps.mono {ks' : List Nat} {d t : Dev} (h : Dev.Keeps ks n d t) (hks : ks ⊆ ks') : Dev.Keeps ks' n d t :=
  ⟨fun r i j hr => h.words r i j fun hmem => hr (hks hmem), h.ladders, h.units⟩

theorem Dev.keeps_onLane (d : Dev) (f : LaneSt → LaneSt) (hf : (f d.lanes[n]).ladders = d.lanes[n].ladders) :
    Dev.Keeps ks n d (d.onLane n f) := ⟨fun _ _ _ _ => Dev.word_onLane .., by rw [Dev.lanes_onLane, getElem_upd, hf], .refl _⟩

theorem Dev.keeps_set (d : Dev) (f : Fld) (v i j : Nat) (hf : f.reg.key ∈ ks) : Dev.Keeps ks n d (d.set f v i j) :=
  ⟨fun _ _ _ hr => Dev.word_set_of_key _ _ _ _ _ _ _ _ fun e => hr (e ▸ hf), .refl _, .refl _⟩

theorem Dev.keeps_each {α : Type} (l : List α) (f : α → Dev → Dev) (h : ∀ a d, Dev.Keeps ks n d (f a d)) (d : Dev) :
    Dev.Keeps ks n d (d.each l f) := by
  unfold Dev.each
  induction l generalizing d with
  | nil => exact .rfl
  | cons a t ih => exact (h a d).trans (ih _)

theorem Dev.keeps_repin (d : Dev) : Dev.Keeps ks n d (d.repin n) := by
  refine Dev.keeps_each _ _ (fun z d => ?_) d
  obtain e | ⟨-, i, e⟩ := d.pinLadder_eq n z
  · rw [e]
    exact .rfl
  · rw [e]
    exact Dev.keeps_onLane _ _ (.refl _)

theorem Dev.keeps_fillSlot (d : Dev) (x : Slot) (keep : Nat) (hk : LANE_INT_STATUS.key ∈ ks) :
    Dev.Keeps ks n d (d.fillSlot n x keep).2 := by
  unfold Dev.fillSlot
  extract_lets l old own movers leave left filled
  split
  · have hleft : Dev.Keeps ks n d left := Dev.keeps_onLane _ _ (.refl _)
    refine hleft.trans (Dev.Keeps.trans ?_ (Dev.keeps_repin _))
    split
    · exact Dev.keeps_set _ _ _ _ _ hk
    · exact .rfl
  · exact Dev.keeps_onLane _ _ (.refl _)

section
variable {d t : Dev} (h : Dev.Keeps ks n d t)
include h

theorem Dev.Keeps.get (f : Fld) (hf : f.reg.key ∉ ks) (i j : Nat) : t.get f i j = d.get f i j := Dev.get_of_word (h.words f.reg i j hf)

theorem Dev.Keeps.quiet (hq : d.quiet n) : t.quiet n := fun y hy => hq y (h.ladders ▸ hy)

theorem Dev.Keeps.arms : t.arms = d.arms := congrArg Prod.fst h.units

theorem Dev.Keeps.zoneIx (g : Grp) (c : Nat) : t.zoneIx g c = d.zoneIx g c := by
  unfold Dev.zoneIx
  rw [show t.zones = d.zones from congrArg (fun u => u.2.1) h.units]

theorem Dev.Keeps.splits (g : Grp) (c k : Nat) : t.splits g c k = d.splits g c k := by
  unfold Dev.splits Dev.dataCells Dev.cpw Dev.zone
  rw [h.zoneIx, show t.zones = d.zones from congrArg (fun u => u.2.1) h.units, show t.nw = d.nw from congrArg (fun u => u.2.2) h.units]

end
end

/-- The registers of a lane that the start of a sector writes. -/
def startedKeys : List Nat := [LANE_STATUS.key, LANE_INT_STATUS.key]

theorem Dev.Keeps.chainCfg {n : LaneId} {d t : Dev} (h : Dev.Keeps startedKeys n d t) (sp : List Nat) :
    t.chainCfg n sp = d.chainCfg n sp := by
  unfold Dev.chainCfg Dev.calibrating Dev.on
  simp (disch := decide) only [h.get]

/-! ### The sector that begins -/

/-- Speculation that starts while the lane's ladders wait is a round of its decoder. -/
theorem Dev.round_speculate {d : Dev} {n : LaneId} (h : d.quiet n) (y : Sect) : Dev.Round n d (d.speculate n y) := by
  unfold Dev.speculate
  extract_lets known first rest
  split
  · exact .rfl
  · generalize hk : d.onLane n _ = k
    have hround : Dev.Round n d k := hk ▸ Dev.round_onLane _ _ _ rfl
    exact hround.trans (Dev.round_nextDec (hround.restful (Dev.restful_of_quiet h)) 16)

/-- A lane takes up a sector whose mark is found: its main pass follows, or with no ECC_START none (R84, R111). -/
def Dev.takeSect (d : Dev) (n : LaneId) (x : Slot) (y : Sect) : Dev :=
  let c := (x.cyl, x.sect)
  let d := d.onLane n fun l => { l with won := if y.arm.ecc then l.won.filter (fun w => (w.1, w.2.1) != c) else l.won }
  if !y.arm.ecc then (d.keepSect n y).showLane n
  else
    let d := d.onLane n fun l => { l with sects := l.sects.filter (fun z => z.arm.ecc) ++ [y] }
    let d := d.onLane n fun l => { l with ladders := l.ladders.map fun z =>
      if (z.cyl, z.sect) == c && z.waits then { z with slot := y.slot } else z }
    (if d.trigSync n y x.dists then d.speculate n y else d).showLane n

/-- What a lane shows of a sector that began: its latest sector, its working values, its arms and its status. -/
structure Dev.Begun (n : LaneId) (y : Sect) (d t : Dev) : Prop where
  latest : t.lanes[n].sects.getLast? = some y
  work : t.lanes[n].work = d.lanes[n].work
  last : t.lanes[n].last = d.lanes[n].last
  arms : t.arms = d.arms
  tracking : t.get LANE_STATUS.TRACKING n = d.get LANE_STATUS.TRACKING n
  zone : t.get LANE_STATUS.ZONE n = d.get LANE_STATUS.ZONE n

/-- A round changes nothing of it. -/
theorem Dev.Begun.round {n : LaneId} {y : Sect} {d e t : Dev} (h : Dev.Begun n y d e) (hr : Dev.Round n e t) : Dev.Begun n y d t :=
  ⟨by rw [hr.sects, h.latest], Eq.trans (congrArg LaneSt.work (hr.kept n) :) h.work,
    Eq.trans (congrArg LaneSt.last (hr.kept n) :) h.last, hr.arms.trans h.arms, (hr.tracking n).trans h.tracking,
    (hr.zone n).trans h.zone⟩

theorem Dev.begun_onLane (d : Dev) (n : LaneId) (y : Sect) (f : LaneSt → LaneSt) (hs : (f d.lanes[n]).sects.getLast? = some y)
    (hw : ((f d.lanes[n]).work, (f d.lanes[n]).last) = (d.lanes[n].work, d.lanes[n].last)) : Dev.Begun n y d (d.onLane n f) := by
  obtain ⟨hwork, hlast⟩ := Prod.mk.inj hw
  have hlane : (d.onLane n f).lanes[n] = f d.lanes[n] := by rw [Dev.lanes_onLane, getElem_upd]
  exact ⟨by rw [hlane, hs], by rw [hlane, hwork], by rw [hlane, hlast], .refl _, .refl _, .refl _⟩

theorem Dev.Begun.onLane {n : LaneId} {y : Sect} {d e : Dev} (h : Dev.Begun n y d e) (f : LaneSt → LaneSt)
    (hf : ((f e.lanes[n]).sects, (f e.lanes[n]).work, (f e.lanes[n]).last) = (e.lanes[n].sects, e.lanes[n].work, e.lanes[n].last)) :
    Dev.Begun n y d (e.onLane n f) := by
  simp only [Prod.mk.injEq] at hf
  obtain ⟨hsects, hwork, hlast⟩ := hf
  have hlane : (e.onLane n f).lanes[n] = f e.lanes[n] := by rw [Dev.lanes_onLane, getElem_upd]
  exact ⟨by rw [hlane, hsects, h.latest], by rw [hlane, hwork, h.work], by rw [hlane, hlast, h.last], h.arms, h.tracking, h.zone⟩

/-- Before it the lane's state may change in what is not shown of the sector. -/
theorem Dev.Begun.of_onLane {n : LaneId} {y : Sect} {d t : Dev} (f : LaneSt → LaneSt) (h : Dev.Begun n y (d.onLane n f) t)
    (hf : ((f d.lanes[n]).work, (f d.lanes[n]).last) = (d.lanes[n].work, d.lanes[n].last)) : Dev.Begun n y d t := by
  obtain ⟨hwork, hlast⟩ := Prod.mk.inj hf
  have hlane : (d.onLane n f).lanes[n] = f d.lanes[n] := by rw [Dev.lanes_onLane, getElem_upd]
  exact ⟨h.latest, by rw [h.work, hlane, hwork], by rw [h.last, hlane, hlast], h.arms, h.tracking, h.zone⟩

/-- An update of a lane that keeps which of its ladders wait. -/
theorem Dev.quiet_onLane {d : Dev} {n : LaneId} (h : d.quiet n) (f : LaneSt → LaneSt)
    (hf : ∀ z ∈ (f d.lanes[n]).ladders, ∃ w ∈ d.lanes[n].ladders, z.waits = w.waits) : (d.onLane n f).quiet n := by
  intro z hz
  rw [Dev.lanes_onLane, getElem_upd] at hz
  obtain ⟨w, hw, he⟩ := hf z hz
  rw [he]
  exact h w hw

theorem Dev.takeSect_begins {d : Dev} {n : LaneId} (h : d.quiet n) (x : Slot) (y : Sect) : Dev.Begun n y d (d.takeSect n x y) := by
  unfold Dev.takeSect
  extract_lets c kept taken moved
  have hquiet : kept.quiet n := Dev.quiet_onLane h _ fun z hz => ⟨z, hz, .refl _⟩
  refine Dev.Begun.of_onLane (fun l => { l with won := if y.arm.ecc then l.won.filter (fun w => (w.1, w.2.1) != c) else l.won }) ?_
    (.refl _)
  obtain hecc | hecc := (Bool.eq_false_or_eq_true y.arm.ecc).symm
  · rw [if_pos (by rw [hecc]; rfl)]
    have hsame : ({ y with arm := { y.arm with ecc := false } } : Sect) = y := by rw [← hecc]
    have hlast : Dev.Begun n y kept (kept.keepSect n y) := by
      unfold Dev.keepSect
      rw [hsame]
      exact Dev.begun_onLane _ _ _ _ (List.getLast?_concat ..) (.refl _)
    exact hlast.round (Dev.round_showLane ..)
  · rw [if_neg (by rw [hecc]; decide)]
    have hbegun : Dev.Begun n y kept moved := (Dev.begun_onLane kept n y _ (List.getLast?_concat ..) (.refl _)).onLane _ (.refl _)
    have hmoved : moved.quiet n := by
      refine Dev.quiet_onLane (Dev.quiet_onLane hquiet _ fun z hz => ⟨z, hz, .refl _⟩) _ fun z hz => ?_
      obtain ⟨w, hw, rfl⟩ := List.mem_map.mp hz
      refine ⟨w, hw, ?_⟩
      split
      all_goals exact .refl _
    have hspec : Dev.Round n moved (if moved.trigSync n y x.dists then moved.speculate n y else moved) := by
      split
      · exact Dev.round_speculate hmoved y
      · exact .rfl
    exact hbegun.round (hspec.trans (Dev.round_showLane ..))

/-! ### LANE_SECTOR_START of a gated sector -/

/-- The lane as a sector begins: its arm used up, its front ends set, its zone shown. -/
def Dev.beginSect (d : Dev) (n : LaneId) (a : Arm) : Dev :=
  let d := (d.onArms n fun l => l.erase a).draw.2
  let d := (d.showFront n (d.startLoops n a.cyl)).set LANE_STATUS.ZONE (d.zoneIx n.grp a.cyl) n
  d.onLane n fun l => { l with busyTill := d.now + d.slotTime n.grp }

/-- A sector whose mark is found, as it waits for its main pass. -/
def Dev.sectOf (d : Dev) (n : LaneId) (a : Arm) (i : Option (Fin 3)) (x : Slot) (r : Chain) : Sect :=
  { arm := a, slot := i, missed := x.primary.isNone, primary := x.primary, second := x.second, found := r.found, loops := r.l
    det := detIn (d.splits n.grp a.cyl a.sect) r (r.found.map (taRegion (d.get LANE_SPEC_TA.TA_EXT n))) 0 r.l.tgt
      (x.primary.getD 0) }

/-- A gated sector whose mark is found: it is captured, and runs through the chain. -/
def Dev.readSect (d : Dev) (n : LaneId) (a : Arm) (x : SlotIn) : Dev :=
  let start := d.startLoops n a.cyl
  let e := d.beginSect n a
  let slot := e.slotFor n a x start (Config.freeValue d.fresh)
  let p := e.fillSlot n slot
  let q := p.2.runSector n a x start (Config.freeValue d.fresh)
  q.2.takeSect n slot (q.2.sectOf n a p.1 slot q.1)

theorem Dev.keeps_beginSect (d : Dev) (n : LaneId) (a : Arm) :
    Dev.Keeps startedKeys n (d.onArms n fun l => l.erase a) (d.beginSect n a) := by
  have hfront (e : Dev) (w : Loops) : Dev.Keeps startedKeys n e (e.showFront n w) := Dev.keeps_onLane _ _ (.refl _)
  unfold Dev.beginSect
  extract_lets drawn shown
  have hdrawn : Dev.Keeps startedKeys n (d.onArms n fun l => l.erase a) drawn :=
    ⟨fun _ _ _ _ => .refl _, .refl _, .refl _⟩
  exact hdrawn.trans ((hfront ..).trans ((Dev.keeps_set _ _ _ _ _ (by decide)).trans (Dev.keeps_onLane _ _ (.refl _))))

theorem Dev.zone_beginSect (d : Dev) (n : LaneId) (a : Arm) :
    (d.beginSect n a).get LANE_STATUS.ZONE n = d.zoneIx n.grp a.cyl % 64 := by
  unfold Dev.beginSect
  exact Dev.get_set _ _ _ _ _ (by decide)

/-- What the run of a gated sector through the chain leaves (R68, R77, R80). -/
theorem Dev.runSector_leaves (d : Dev) (n : LaneId) (a : Arm) (x : SlotIn) (start : Loops) (angle : Nat) :
    let c := d.chainCfg n (d.splits n.grp a.cyl a.sect)
    let r := runChain c x angle start
    let t := (d.runSector n a x start angle).2
    (d.runSector n a x start angle).1 = r ∧ Dev.Keeps startedKeys n d t ∧ t.lanes[n].work = r.l ∧
      t.lanes[n].last = some (d.zoneIx n.grp a.cyl, a.cyl) ∧ t.get LANE_STATUS.TRACKING n = (r.tracking c).toNat ∧
      t.get LANE_STATUS.ZONE n = d.get LANE_STATUS.ZONE n := by
  intro c r t
  have ht : t = ((d.onLane n fun l => { l with work := r.l, last := some (d.zoneIx n.grp a.cyl, a.cyl), adapt := false, dirty := []
                                               cal := l.cal - 1 }).when r.hit (·.raise LANE_INT_STATUS.ADAPT_LIMIT n)).set
      LANE_STATUS.TRACKING (r.tracking c).toNat n := rfl
  generalize hrun : d.onLane n _ = e at ht
  have hlane : e.lanes[n].work = r.l ∧ e.lanes[n].last = some (d.zoneIx n.grp a.cyl, a.cyl) := by
    rw [← hrun, Dev.lanes_onLane, getElem_upd]
    exact ⟨rfl, rfl⟩
  have hkeeps : Dev.Keeps startedKeys n d e := hrun ▸ Dev.keeps_onLane _ _ (.refl _)
  have hzone : e.get LANE_STATUS.ZONE n = d.get LANE_STATUS.ZONE n := by rw [← hrun]; rfl
  have hraised : Dev.Keeps [LANE_INT_STATUS.key] n e (e.when r.hit (·.raise LANE_INT_STATUS.ADAPT_LIMIT n)) := by
    unfold Dev.when
    split
    · exact Dev.keeps_set _ _ _ _ _ (by decide)
    · exact .rfl
  have hlanes : (e.when r.hit (·.raise LANE_INT_STATUS.ADAPT_LIMIT n)).lanes = e.lanes := Dev.when_keeps Dev.lanes _ _ (.refl _)
  generalize e.when r.hit _ = u at *
  refine ⟨rfl, ?_, ?_, ?_, ?_, ?_⟩
  · rw [ht]
    exact hkeeps.trans ((hraised.mono (by decide)).trans (Dev.keeps_set _ _ _ _ _ (by decide)))
  · rw [ht, Dev.lanes_set, hlanes, hlane.1]
  · rw [ht, Dev.lanes_set, hlanes, hlane.2]
  · rw [ht, Dev.get_set _ _ _ _ _ (by decide)]
    exact Nat.mod_eq_of_lt (Bool.toNat_lt _)
  · rw [ht, ← hzone, ← hraised.get LANE_STATUS.ZONE (by decide)]
    exact Dev.get_set_beside u LANE_STATUS 1 1 2 6 _ _ _ (by decide)

/-- The primary candidate on the fly of a sector that is captured (R84). -/
theorem Dev.primary_slotFor {d : Dev} {n : LaneId} {a : Arm} (h : a.srvGate = false) (x : SlotIn) (start : Loops) (angle : Nat) :
    (d.slotFor n a x start angle).primary = (flyCandidates (min 8 (d.get LANE_SYNC.MAX_DIST n)) (syncDists x.decs)).1 := by
  unfold Dev.slotFor
  rw [h]
  rfl

/-- What a gated sector whose mark is found leaves. -/
theorem Dev.readSect_leaves {d : Dev} {n : LaneId} {a : Arm} (hq : d.quiet n) (hsrv : a.srvGate = false) (x : SlotIn) :
    let c := d.chainCfg n (d.splits n.grp a.cyl a.sect)
    let r := runChain c x (Config.freeValue d.fresh) (d.startLoops n a.cyl)
    let t := d.readSect n a x
    t.get LANE_STATUS.TRACKING n = (r.tracking c).toNat ∧ t.get LANE_STATUS.ZONE n = d.zoneIx n.grp a.cyl % 64 ∧
      t.arms[n] = d.arms[n].erase a ∧ t.lanes[n].last = some (d.zoneIx n.grp a.cyl, a.cyl) ∧ t.lanes[n].work = r.l ∧
      ((t.lanes[n].sects.getLast?).map fun y => (y.arm, y.primary)) =
        some (a, (flyCandidates (min 8 (d.get LANE_SYNC.MAX_DIST n)) (syncDists x.decs)).1) := by
  unfold Dev.readSect
  extract_lets c r start e slot p q t
  have hbegin : Dev.Keeps startedKeys n (d.onArms n fun l => l.erase a) e := d.keeps_beginSect n a
  have hshown : e.get LANE_STATUS.ZONE n = d.zoneIx n.grp a.cyl % 64 := d.zone_beginSect n a
  have hprimary : slot.primary = (flyCandidates (min 8 (d.get LANE_SYNC.MAX_DIST n)) (syncDists x.decs)).1 := by
    rw [← show e.get LANE_SYNC.MAX_DIST n = d.get LANE_SYNC.MAX_DIST n from hbegin.get _ (by decide) ..]
    exact Dev.primary_slotFor hsrv ..
  have hfill : Dev.Keeps [LANE_INT_STATUS.key] n e p.2 := Dev.keeps_fillSlot _ _ _ (by decide)
  have hready := hbegin.trans (hfill.mono (by decide))
  have hchain : p.2.chainCfg n (p.2.splits n.grp a.cyl a.sect) = c := (congrArg _ (hready.splits ..)).trans (hready.chainCfg _)
  have hzone : p.2.zoneIx n.grp a.cyl = d.zoneIx n.grp a.cyl := hready.zoneIx ..
  obtain ⟨-, hran, hwork, hlast, htracking, hstill⟩ := p.2.runSector_leaves n a x start (Config.freeValue d.fresh)
  rw [hchain] at hwork htracking
  rw [show p.2.runSector n a x start (Config.freeValue d.fresh) = q from rfl] at hran hwork hlast htracking hstill
  have hquiet : q.2.quiet n := (hready.trans hran).quiet hq
  have harms : q.2.arms = upd d.arms n fun l => l.erase a := (hready.trans hran).arms
  have htake : Dev.Begun n _ q.2 t := Dev.takeSect_begins hquiet slot (q.2.sectOf n a p.1 slot q.1)
  clear_value t q p slot e
  refine ⟨htake.tracking.trans htracking, ?_, ?_, ?_, htake.work.trans hwork, ?_⟩
  · rw [htake.zone, hstill, hfill.get LANE_STATUS.ZONE (by decide), hshown]
  · rw [htake.arms, harms, getElem_upd]
  · rw [htake.last, hlast, hzone]
  · rw [htake.latest, ← hprimary]
    rfl

/-- In another mode than capture the ring's next slot is filled (R99, R118). -/
theorem Dev.captureSlot_of_mode {d : Dev} {n : LaneId} (h : d.get LANE_CTRL.MODE n ≠ 1) (x : Slot) :
    d.captureSlot n x = d.fillSlot n x := if_neg (by simpa using h)

/-- A sector that is kept for its main pass, or has none to come (R84). -/
theorem Dev.takeSect_of_arm (d : Dev) (n : LaneId) (x : Slot) (y : Sect) (hfound : y.missed = false) : d.takeSect n x y =
    let c := (x.cyl, x.sect)
    let d := d.onLane n fun l => { l with won := if y.arm.ecc then l.won.filter (fun w => (w.1, w.2.1) != c) else l.won }
    if !y.arm.ecc then (d.keepSect n y).showLane n
    else if y.missed then ((d.verdict n.grp false false).keepSect n y).enterLadder n y none
    else
      let d := d.onLane n fun l => { l with sects := l.sects.filter (fun z => z.arm.ecc) ++ [y] }
      let d := d.onLane n fun l => { l with ladders := l.ladders.map fun z =>
        if (z.cyl, z.sect) == c && z.waits then { z with slot := y.slot } else z }
      (if d.trigSync n y x.dists then d.speculate n y else d).showLane n := by
  unfold Dev.takeSect
  simp only [hfound, Bool.false_eq_true, if_false]

/-- LANE_SECTOR_START of a gated sector whose mark is found, at a lane that reads. -/
theorem completes_readSect {s : State} {n : LaneId} {x : SlotIn} {a : Arm} {l : List Arm} (hrun : s.dev.groupRuns n.grp = true)
    (harms : s.dev.arms[n] = a :: l) (hwg : a.wg = false) (hrg : a.rg = true) (hsync : a.sync = true) (hsrv : a.srvGate = false)
    (hst : s.dev.get WLS_STATUS.STATE n.grp ≠ 4) (hreads : s.dev.laneReads n = true) (hmode : s.dev.get LANE_CTRL.MODE n ≠ 1)
    (hfound : (flyCandidates (min 8 (s.dev.get LANE_SYNC.MAX_DIST n)) (syncDists x.decs)).1.isSome = true) {P : Dev → Prop}
    (h : P (s.dev.readSect n a x)) : Completes (.laneSectorStart n x) s P := by
  refine completes_of_runGroup rfl hrun ?_
  generalize s.dev = d at *
  have hreads' : ¬(!(d.onArms n fun l => l.erase a).laneReads n) = true := by
    rw [show (d.onArms n fun l => l.erase a).laneReads n = d.laneReads n from rfl, hreads]
    decide
  rw [harms]
  refine cast (congrArg P (Eq.symm ?_)) h
  refine (if_neg (show ¬a.wg = true by rw [hwg]; decide)).trans ((if_neg hst).trans ((if_neg hreads').trans ?_))
  -- the lane as the sector begins, and the slot that it fills
  have hdrawn : (d.onArms n fun l => l.erase a).draw = (d.fresh, (d.onArms n fun l => l.erase a).draw.2) := rfl
  rw [hdrawn]
  generalize he : (d.onArms n fun l => l.erase a).draw.2 = drawn
  dsimp -zeta only
  extract_lets +onlyGivenNames start shown timed slot
  have hstart : start = d.startLoops n a.cyl := by
    simp only [start, hrg, if_true]
    rw [← he]
    rfl
  have htimed : timed = d.beginSect n a := by
    unfold Dev.beginSect
    rw [he]
    simp only [timed, shown, start, hrg, if_true]
  have hslot : slot = (d.beginSect n a).slotFor n a x (d.startLoops n a.cyl) (Config.freeValue d.fresh) := by
    rw [← hstart, ← htimed]
  have hbegin := d.keeps_beginSect n a
  have hprimary : slot.primary.isSome = true := by
    rw [hslot, Dev.primary_slotFor hsrv, hbegin.get LANE_SYNC.MAX_DIST (by decide)]
    exact hfound
  rw [← htimed] at hbegin
  have hcapture : (if (a.rg || a.cap) = true then timed.captureSlot n slot else (none, timed)) = timed.fillSlot n slot :=
    (if_pos (by rw [hrg]; rfl)).trans <|
      Dev.captureSlot_of_mode (by rw [hbegin.get LANE_CTRL.MODE (by decide)]; exact hmode) slot
  have hread : d.readSect n a x = ((timed.fillSlot n slot).2.runSector n a x start (Config.freeValue d.fresh)).2.takeSect n slot
      (((timed.fillSlot n slot).2.runSector n a x start (Config.freeValue d.fresh)).2.sectOf n a (timed.fillSlot n slot).1 slot
        ((timed.fillSlot n slot).2.runSector n a x start (Config.freeValue d.fresh)).1) := by
    rw [hslot, htimed, hstart]
    rfl
  rw [hcapture, hread, if_neg (show ¬(!a.rg) = true by rw [hrg]; decide), if_pos hsync]
  have hready := (hbegin.trans (Dev.keeps_fillSlot timed slot 0 (by decide))).trans
    ((timed.fillSlot n slot).2.runSector_leaves n a x start (Config.freeValue d.fresh)).2.1
  clear_value start timed slot
  generalize timed.fillSlot n slot = p at *
  generalize p.2.runSector n a x start (Config.freeValue d.fresh) = q at *
  have hsame : q.2.get LANE_CTRL.MODE n = d.get LANE_CTRL.MODE n := hready.get _ (by decide) ..
  -- its mark is found
  rw [if_neg (show ¬(q.2.get LANE_CTRL.MODE n == 1) = true by rw [hsame]; simpa using hmode),
    Dev.takeSect_of_arm _ _ _ _ (by simpa [Dev.sectOf, Option.isNone_eq_false_iff] using hprimary)]
  rfl

end Sys2Proof.Machine
end

section
/-! SUPPORT. A sector at a lane that does not run, and thermal asperities (R89, R117). -/
namespace Sys2Proof.Machine

/-! ### Decoders that rest -/

/-- From d to t no ladder, no arm and no verdict changes. -/
structure Dev.Rests (d t : Dev) : Prop where
  ladders : ∀ m : LaneId, t.lanes[m].ladders = d.lanes[m].ladders
  arms : t.arms = d.arms
  fmt : t.fmt = d.fmt

theorem Dev.Rests.rfl {d : Dev} : Dev.Rests d d := ⟨fun _ => .refl _, .refl _, .refl _⟩

theorem Dev.Rests.trans {d e t : Dev} (h : Dev.Rests d e) (h' : Dev.Rests e t) : Dev.Rests d t :=
  ⟨fun m => (h'.ladders m).trans (h.ladders m), h'.arms.trans h.arms, h'.fmt.trans h.fmt⟩

theorem Dev.Round.rests {n : LaneId} {d t : Dev} (h : Dev.Round n d t) : Dev.Rests d t := ⟨h.ladders, h.arms, h.fmt⟩

/-- What stays stays beside a ladder that is replaced. -/
theorem Dev.Rests.putLadder {d e t : Dev} {n : LaneId} {l : Ladder} (h : Dev.Rests d e) (h' : Dev.Rests (e.putLadder n l) t) :
    Dev.Rests (d.putLadder n l) t := by
  refine ⟨fun m => (h'.ladders m).trans ?_, h'.arms.trans h.arms, h'.fmt.trans h.fmt⟩
  unfold Dev.putLadder
  rw [Dev.lanes_onLane, Dev.lanes_onLane]
  by_cases hm : m = n
  · rw [hm, getElem_upd, getElem_upd]
    exact congrArg (List.map _) (h.ladders n)
  · rw [getElem_upd_of_ne _ _ _ _ hm, getElem_upd_of_ne _ _ _ _ hm]
    exact h.ladders m

/-- While no ladder of a group acts, what its decoders take up changes none. -/
theorem Dev.rests_serve {d : Dev} {g : Grp} (h : ∀ i : HeadIx, d.restful (laneOf g i)) (fuel : Nat) : Dev.Rests d (d.serve g fuel) := by
  induction fuel generalizing d with
  | zero => exact .rfl
  | succ fuel ih =>
    unfold Dev.serve
    split
    · exact .rfl
    next i _ =>
      have hround := Dev.round_nextDec (h i) 16
      exact hround.rests.trans (ih fun j => hround.restful (h j))

/-- The lane that a group's decoders serve next is the first that wants work. -/
theorem find?_finRange {p : Fin 8 → Bool} {i : Fin 8} (h : (List.finRange 8).find? p = some i) :
    p i = true ∧ ∀ j < i, p j = false := by
  obtain ⟨hi, k, hk, hget, hfirst⟩ := List.find?_eq_some_iff_getElem.mp h
  rw [List.getElem_finRange] at hget
  refine ⟨hi, fun j hj => ?_⟩
  have hjk : j.val < k := by
    rw [← hget] at hj
    exact hj
  have := hfirst j hjk
  rw [List.getElem_finRange] at this
  simpa using this

theorem laneOf_ne {g : Grp} {i j : HeadIx} (h : i ≠ j) : laneOf g i ≠ laneOf g j :=
  fun e => h (Fin.ext (Nat.add_left_cancel (congrArg Fin.val e)))

/-! ### A ladder that waits for the welt's members -/

/-- Lane n has one ladder at work, without a pass: it is at step 4 or enters it. -/
structure Dev.Missing (n : LaneId) (z : Ladder) (d : Dev) : Prop where
  mem : z ∈ d.lanes[n].ladders
  others : ∀ y ∈ d.lanes[n].ladders, y ≠ z → y.waits = true ∧ ¬(y.cyl = z.cyl ∧ y.sect = z.sect)
  todo : z.todo = []
  waits : z.waits = false
  welt : d.canWelt n z = true
  dec : d.lanes[n].dec = none
  quiet : ∀ i : HeadIx, i ≠ n.ix → d.quiet (laneOf n.grp i)

section
variable {d : Dev} {n : LaneId} {z : Ladder} (h : Dev.Missing n z d) (hwelt : z.welt = false)
include h

/-- A round of another lane leaves it as it is. -/
theorem Dev.Missing.round {t : Dev} {m : LaneId} (hr : Dev.Round m d t) (hm : n ≠ m) : Dev.Missing n z t := by
  have hlane := hr.others n hm
  exact ⟨hlane ▸ h.mem, hlane ▸ h.others, h.todo, h.waits, ((hr.sameWelts n).canWelt rfl).trans h.welt, hlane ▸ h.dec,
    fun i hi y hy => h.quiet i hi y (hr.ladders _ ▸ hy)⟩

include hwelt

theorem Dev.Missing.acts : d.ladderActs n z = true := by
  unfold Dev.ladderActs
  rw [h.waits, hwelt, Bool.and_false, Bool.false_and]
  rfl

theorem Dev.Missing.wantsDec : d.wantsDec n = true := by
  have hany : d.lanes[n].ladders.any (d.ladderActs n) = true := List.any_eq_true.mpr ⟨z, h.mem, h.acts hwelt⟩
  unfold Dev.wantsDec
  dsimp only
  rw [h.dec, hany]
  rfl

/-- The ladder enters step 4. -/
theorem Dev.Missing.nextDec (fuel : Nat) :
    d.nextDec n (fuel + 1) = (d.putLadder n { z with welt := true }).nextDec n fuel := by
  have hfind : d.lanes[n].ladders.find? (d.ladderActs n) = some z :=
    find?_eq_of_unique h.mem (h.acts hwelt) fun y hy hne => by
      unfold Dev.ladderActs
      rw [(h.others y hy hne).1]
      rfl
  have hplace : d.lanes[n].ladders.find? (fun y => y.cyl == z.cyl && y.sect == z.sect) = some z :=
    find?_eq_of_unique h.mem (place_eq rfl rfl) fun y hy hne => place_ne (h.others y hy hne).2
  have hadvance : d.advance n z.cyl z.sect 12 = (none, d.putLadder n { z with welt := true }) := by
    unfold Dev.advance
    rw [hplace]
    dsimp only
    rw [h.waits, h.todo, h.welt, hwelt]
    rfl
  conv_lhs => unfold Dev.nextDec
  dsimp only
  rw [h.dec, hfind]
  dsimp only
  rw [hadvance]
  rfl

/-- At step 4 it rests, and so does each lane of its group. -/
theorem Dev.Missing.restful (i : HeadIx) : (d.putLadder n { z with welt := true }).restful (laneOf n.grp i) := by
  by_cases hi : i = n.ix
  · rw [hi, laneOf_grp_ix]
    have hsame : Dev.SameWelts n d (d.putLadder n { z with welt := true }) := Dev.sameWelts_onLane _ _ _ _ rfl
    intro y hy
    unfold Dev.putLadder at hy
    rw [Dev.lanes_onLane, getElem_upd] at hy
    obtain ⟨w, hw, rfl⟩ := List.mem_map.mp hy
    rw [hsame.ladderActs]
    unfold Dev.ladderActs
    by_cases hz : w = z
    · subst hz
      have hcan : d.canWelt n { w with welt := true } = true := (Dev.SameWelts.rfl.canWelt rfl).trans h.welt
      rw [if_pos (place_eq rfl rfl), hcan, h.todo, h.waits]
      rfl
    · rw [place_ne (h.others w hw hz).2, if_neg Bool.false_ne_true, (h.others w hw hz).1]
      rfl
  · have hne : laneOf n.grp i ≠ n := fun e => laneOf_ne hi (e.trans (laneOf_grp_ix n).symm)
    refine Dev.restful_of_quiet fun y hy => h.quiet i hi y ?_
    unfold Dev.putLadder at hy
    rwa [Dev.lanes_onLane, getElem_upd_of_ne _ _ _ _ hne] at hy

/-- Once the lane's decoder has had its turn the ladder is at step 4. -/
theorem Dev.Missing.serves (fuel : Nat) : Dev.Rests (d.putLadder n { z with welt := true }) ((d.nextDec n 16).serve n.grp fuel) := by
  have hrest := h.restful hwelt
  rw [h.nextDec hwelt 15]
  have hround := Dev.round_nextDec (laneOf_grp_ix n ▸ hrest n.ix : Dev.restful _ n) 15
  exact hround.rests.trans (Dev.rests_serve (fun i => hround.restful (hrest i)) fuel)

/-- The lane's turn comes: each lane before it has what it wants after one round. -/
theorem Dev.Missing.served {fuel k : Nat} (hk : k ≤ n.ix.val) (hfuel : n.ix.val + 1 - k ≤ fuel)
    (hbefore : ∀ j : HeadIx, j.val < k → d.wantsDec (laneOf n.grp j) = false) :
    Dev.Rests (d.putLadder n { z with welt := true }) (d.serve n.grp fuel) := by
  induction fuel generalizing d k with
  | zero => omega
  | succ fuel ih =>
    have hwants : d.wantsDec (laneOf n.grp n.ix) = true := by rw [laneOf_grp_ix]; exact h.wantsDec hwelt
    unfold Dev.serve
    split
    next hfind => exact absurd hwants (List.find?_eq_none.mp hfind n.ix (List.mem_finRange _))
    next i hfind =>
      obtain ⟨hi, hfirst⟩ := find?_finRange hfind
      have hki : k ≤ i.val := Nat.le_of_not_lt fun hlt => by rw [hbefore i hlt] at hi; cases hi
      have hin : i ≤ n.ix := Nat.le_of_not_lt fun hlt => by rw [hfirst n.ix hlt] at hwants; cases hwants
      by_cases hlane : i = n.ix
      · rw [hlane, laneOf_grp_ix]
        exact h.serves hwelt fuel
      · have hlt : i.val < n.ix.val := Nat.lt_of_le_of_ne hin fun e => hlane (Fin.ext e)
        have hrest := Dev.restful_of_quiet (h.quiet i hlane)
        have hround := Dev.round_nextDec hrest 16
        have hne : n ≠ laneOf n.grp i := fun e => laneOf_ne hlane (e.symm.trans (laneOf_grp_ix n).symm)
        refine hround.rests.putLadder (ih (h.round hround hne) (k := i.val + 1) hlt (by omega) fun j hj => ?_)
        by_cases hji : j = i
        · rw [hji]
          exact Dev.wantsDec_nextDec hrest 15
        · rw [hround.wantsDec (laneOf_ne hji)]
          exact hfirst j (Nat.lt_of_le_of_ne (Nat.lt_succ_iff.mp hj) fun e => hji (Fin.ext e))

end

/-! ### LANE_SECTOR_START at a lane that does not run (R117) -/

section
variable {s : State} {n : LaneId} {x : SlotIn} {a : Arm} {l : List Arm} (hrun : s.dev.groupRuns n.grp = true)
  (harms : s.dev.arms[n] = a :: l) (hwg : a.wg = false) (hst : s.dev.get WLS_STATUS.STATE n.grp ≠ 4)
  (hreads : s.dev.laneReads n = false)
include hrun harms hwg hst hreads

/-- The lane answers as a missing member a sector with ECC_START, and takes the arm of another. -/
theorem completes_missingSect {P : Dev → Prop} (h : P (if a.ecc then
      (((s.dev.onArms n fun l => l.erase a).answerMissing n a).verdict n.grp false false).serve n.grp 64
    else s.dev.onArms n fun l => l.erase a)) : Completes (.laneSectorStart n x) s P := by
  refine completes_of_runGroup rfl hrun ?_
  generalize s.dev = d at *
  have hreads' : (!(d.onArms n fun l => l.erase a).laneReads n) = true := by
    rw [show (d.onArms n fun l => l.erase a).laneReads n = d.laneReads n from rfl, hreads]
    rfl
  rw [harms]
  refine cast (congrArg P (Eq.symm ?_)) h
  exact (if_neg (show ¬a.wg = true by rw [hwg]; decide)).trans ((if_neg hst).trans (if_pos hreads'))

theorem laneSectorStart_noEcc (hecc : a.ecc = false) : Completes (.laneSectorStart n x) s fun t =>
    t.arms[n] = l ∧ t.lanes = s.dev.lanes ∧ t.regs = s.dev.regs := by
  refine completes_missingSect hrun harms hwg hst hreads ?_
  rw [if_neg (by rw [hecc]; decide), Dev.arms_onArms, getElem_upd, harms]
  exact ⟨List.erase_cons_head .., rfl, rfl⟩

end

/-- The ladder of a sector whose lane answers as a missing member: at its place, without a slot or a pass. -/
theorem Dev.answerMissing_ladder (d : Dev) (n : LaneId) (a : Arm) : ∃ z : Ladder,
    (d.answerMissing n a).lanes[n].ladders =
      d.lanes[n].ladders.filter (fun y => !(y.cyl == a.cyl && y.sect == a.sect)) ++ [z] ∧
    (z.cyl, z.sect, z.members, z.refused) = (a.cyl, a.sect, [], []) ∧ z.slot = none ∧ z.todo = [] ∧ z.waits = false ∧ z.welt = false := by
  unfold Dev.answerMissing
  dsimp only
  rw [Dev.lanes_onLane, getElem_upd]
  refine ⟨_, rfl, ?_⟩
  rw [Option.none_or]
  cases hfind : d.lanes[n].ladders.find? fun y => y.cyl == a.cyl && y.sect == a.sect with
  | none => exact ⟨rfl, rfl, rfl, rfl, rfl⟩
  | some y =>
    have hplace := List.find?_some hfind
    simp only [Bool.and_eq_true, beq_iff_eq] at hplace
    refine ⟨?_, rfl, rfl, rfl, rfl⟩
    rw [← hplace.1, ← hplace.2]
    rfl

/-- A lane that does not run answers a sector by step 4 of its ladder, where the welt's members may be handed over. -/
theorem Dev.answerMissing_serves {d : Dev} {n : LaneId} {a : Arm} (hquiet : d.groupQuiet n.grp) (hdec : d.lanes[n].dec = none)
    (hcan : d.canWelt n (missingLadder a) = true) :
    let t := (((d.onArms n fun l => l.erase a).answerMissing n a).verdict n.grp false false).serve n.grp 64
    t.arms = upd d.arms n (fun l => l.erase a) ∧ t.fmt = (d.verdict n.grp false false).fmt ∧
      ∃ z ∈ t.lanes[n].ladders, z.cyl = a.cyl ∧ z.sect = a.sect ∧ z.slot = none ∧ z.welt = true := by
  obtain ⟨z, hladders, hz, hslot, htodo, hwaits, hwelt⟩ := (d.onArms n fun l => l.erase a).answerMissing_ladder n a
  simp only [Prod.mk.injEq] at hz
  obtain ⟨hcyl, hsect, hmembers, hrefused⟩ := hz
  generalize he : ((d.onArms n fun l => l.erase a).answerMissing n a).verdict n.grp false false = e
  have hlanes : e.lanes = ((d.onArms n fun l => l.erase a).answerMissing n a).lanes := he ▸ rfl
  have hsame : Dev.SameWelts n d e := by
    have harms : Dev.SameWelts n d (d.onArms n fun l => l.erase a) :=
      ⟨fun _ _ _ _ => rfl, fun _ => rfl, fun _ => rfl, fun m hm => getElem_upd_of_ne _ _ _ _ hm, rfl, rfl⟩
    have hverdict (u : Dev) : Dev.SameWelts n u (u.verdict n.grp false false) :=
      ⟨fun _ _ _ _ => rfl, fun _ => rfl, fun _ => rfl, fun _ _ => rfl, rfl, rfl⟩
    exact he ▸ (harms.trans (Dev.sameWelts_onLane _ _ _ _ rfl)).trans (hverdict _)
  have hlane : e.lanes[n].ladders = d.lanes[n].ladders.filter (fun y => !(y.cyl == a.cyl && y.sect == a.sect)) ++ [z] := by
    rw [hlanes]
    exact hladders
  have hmissing : Dev.Missing n z e := by
    refine ⟨?_, fun y hy hne => ?_, htodo, hwaits, ?_, ?_, fun i hi y hy => ?_⟩
    · rw [hlane]
      exact List.mem_append_right _ (List.mem_singleton_self z)
    · rw [hlane] at hy
      obtain ⟨hmem, hplace⟩ := List.mem_filter.mp ((List.mem_append.mp hy).resolve_right fun h => hne (List.mem_singleton.mp h))
      refine ⟨(laneOf_grp_ix n ▸ hquiet n.ix : d.quiet n) y hmem, ?_⟩
      rw [hcyl, hsect]
      rintro ⟨hc, hk⟩
      simp [hc, hk] at hplace
    · rw [hsame.canWelt (l := missingLadder a) (by rw [hcyl, hsect, hmembers, hrefused]; rfl)]
      exact hcan
    · rw [hlanes]
      unfold Dev.answerMissing
      dsimp only
      rw [Dev.lanes_onLane, getElem_upd]
      exact hdec
    · have hne : laneOf n.grp i ≠ n := fun e => laneOf_ne hi (e.trans (laneOf_grp_ix n).symm)
      rw [hlanes] at hy
      unfold Dev.answerMissing at hy
      dsimp only at hy
      rw [Dev.lanes_onLane, getElem_upd_of_ne _ _ _ _ hne] at hy
      exact hquiet i y hy
  have hserved := hmissing.served hwelt (k := 0) (fuel := 64) (Nat.zero_le _) (by omega) fun _ h => absurd h (Nat.not_lt_zero _)
  refine ⟨hserved.arms.trans (he ▸ rfl), hserved.fmt.trans (he ▸ rfl), { z with welt := true }, ?_, hcyl, hsect, hslot, rfl⟩
  rw [hserved.ladders]
  unfold Dev.putLadder
  rw [Dev.lanes_onLane, getElem_upd]
  exact List.mem_map.mpr ⟨z, hmissing.mem, if_pos (place_eq rfl rfl)⟩

/-! ### THERMAL_ASPERITY (R89) -/

/-- Speculation that a thermal asperity triggers leaves the lane's sectors alone (R111). -/
theorem Dev.sects_trigTa {d : Dev} {n : LaneId} (h : d.quiet n) (y : Sect) {c : Prop} [Decidable c] :
    (if c then d.speculate n y else d).lanes[n].sects = d.lanes[n].sects := by
  split
  · exact (Dev.round_speculate h y).sects n
  · rfl

theorem thermalAsperity_marks {s : State} {n : LaneId} {y : Sect} {l : List Sect} {e : Nat × Nat}
    (hrun : s.dev.groupRuns n.grp = true) (hsects : s.dev.lanes[n].sects = l ++ [y]) (he : e ∈ y.found) (hquiet : s.dev.quiet n) :
    Completes (.thermalAsperity n e.1 e.2) s fun t => t.lanes[n].sects =
      l ++ [{ y with found := y.found.erase e, tas := y.tas ++ [(e.1 - 8, e.2 + s.dev.get LANE_SPEC_TA.TA_EXT n)] }] := by
  refine completes_of_runGroup rfl hrun ?_
  generalize s.dev = d at *
  rw [hsects, List.getLast?_concat]
  dsimp only
  rw [if_neg (by simpa using he)]
  have hdrop : (l ++ [y]).dropLast = l := List.dropLast_concat
  generalize hmarked : ({ y with found := y.found.erase (e.1, e.2), tas := y.tas ++ [taRegion (d.get LANE_SPEC_TA.TA_EXT n) (e.1, e.2)] } : Sect) = y'
  generalize hd' : d.onLane n _ = d'
  have hlane : d'.lanes[n].sects = l ++ [y'] := by
    rw [← hd', Dev.lanes_onLane, getElem_upd, hsects, hdrop]
  have hquiet' : d'.quiet n := hd' ▸ Dev.quiet_onLane hquiet _ fun z hz => ⟨z, hz, rfl⟩
  refine Eq.trans ?_ (hlane.trans (by rw [← hmarked]; rfl : _ = l ++ [_]))
  -- the region is marked in the sector's slot, too
  cases y.slot with
  | none => exact Dev.sects_trigTa hquiet' y'
  | some i =>
    refine (Dev.sects_trigTa (Dev.quiet_onLane hquiet' _ fun z hz => ⟨z, hz, rfl⟩) y').trans ?_
    rw [Dev.lanes_onLane, getElem_upd]

/-! ### LaneSectorBegins -/

/-- Settles O14: the capture and the speculation of a gated sector change none of the values that its run through the chain left; the
lane that does not run comes to its ladder's step 4 once each lane before it has had one round. -/
theorem laneSectorBegins : Obligations.LaneSectorBegins := by
  unfold Obligations.LaneSectorBegins
  refine ⟨?read, ?plain, ?missing, ?asperity⟩
  case read =>
    intro s n x a l hrun harms hwg hrg hsync hsrv hst hreads hmode hquiet hfound
    refine completes_readSect hrun harms hwg hrg hsync hsrv hst hreads hmode hfound ?_
    have hleft := Dev.readSect_leaves hquiet hsrv x
    rwa [harms, List.erase_cons_head] at hleft
  case plain =>
    intro s n x a l hrun harms hwg hecc hst hreads
    exact laneSectorStart_noEcc hrun harms hwg hst hreads hecc
  case missing =>
    intro s n x a l hrun harms hwg hecc hst hreads hquiet hdec hcan
    refine completes_missingSect hrun harms hwg hst hreads ?_
    rw [if_pos hecc]
    obtain ⟨hleft, hfmt, hladder⟩ := Dev.answerMissing_serves (a := a) hquiet hdec hcan
    have hverdict : (s.dev.verdict n.grp false false).fmt[n.grp].verdicts = s.dev.fmt[n.grp].verdicts - 1 ∧
        (s.dev.verdict n.grp false false).fmt[n.grp].newVerdictFail = true := by
      unfold Dev.verdict
      rw [Dev.fmt_onFmt, getElem_upd]
      exact ⟨rfl, Bool.or_true _⟩
    refine ⟨?_, ?_, ?_, hladder⟩
    · rw [hleft, getElem_upd, harms, List.erase_cons_head]
    · rw [hfmt, hverdict.1]
    · rw [hfmt, hverdict.2]
  case asperity =>
    intro s n y l e hrun hsects he hquiet
    exact thermalAsperity_marks hrun hsects he hquiet

end Sys2Proof.Machine
end

section
/-! SUPPORT. The limits of the lead and tail cells (R141). -/
namespace Sys2Proof.Machine

/-! ### WLS_WRITE_CFG (R141) -/

/-- While LST_LOCK is 0 every bit of WLS_WRITE_CFG is a bit of a field that takes the written value. -/
theorem wlsWriteCfg_written (old v : Word) : WLS_WRITE_CFG.written old v false 0 = v := by
  refine BitVec.eq_of_getLsbD_eq fun k hk => ?_
  by_cases h8 : k < 8
  · exact Reg.getLsbD_written (x := ⟨0, 8, .rw⟩) (by decide) old v false (Nat.zero_le k) (by simpa using h8)
  by_cases h16 : k < 16
  · exact Reg.getLsbD_written (x := ⟨8, 8, .rw⟩) (by decide) old v false (by simpa using h8) h16
  by_cases h28 : k < 28
  · exact Reg.getLsbD_written (x := ⟨16, 12, .rwl⟩) (by decide) old v false (by simpa using h16) h28
  · exact Reg.getLsbD_written (x := ⟨28, 4, .rwl⟩) (by decide) old v false (by simpa using h28) hk

/-- The lead cells are always the written ones. -/
theorem lead_of_written (old v : Word) (lock : Bool) :
    WLS_WRITE_CFG.WG_LEAD.of (WLS_WRITE_CFG.written old v lock 0) = WLS_WRITE_CFG.WG_LEAD.of v :=
  Fld.of_written WLS_WRITE_CFG ⟨8, 8, .rw⟩ (by decide) old v lock

/-- The tail cells are always the written ones. -/
theorem tail_of_written (old v : Word) (lock : Bool) :
    WLS_WRITE_CFG.WG_TAIL.of (WLS_WRITE_CFG.written old v lock 0) = WLS_WRITE_CFG.WG_TAIL.of v :=
  Fld.of_written WLS_WRITE_CFG ⟨0, 8, .rw⟩ (by decide) old v lock

/-- The limits of R141, and those of WL_GRP, hold of a word. -/
def writeCfgOk (w : Word) : Prop :=
  8 ≤ WLS_WRITE_CFG.WG_LEAD.of w ∧ WLS_WRITE_CFG.WG_LEAD.of w ≤ 48 ∧ WLS_WRITE_CFG.WG_TAIL.of w ≤ 32 ∧
    WLS_WRITE_CFG.WG_LEAD.of w + WLS_WRITE_CFG.WG_TAIL.of w ≤ 64 ∧ 1 ≤ WLS_WRITE_CFG.WL_GRP.of w ∧
    WLS_WRITE_CFG.WL_GRP.of w ≤ 8

/-- The word that a write of WLS_WRITE_CFG would leave. -/
def Dev.writeCfgWritten (d : Dev) (g : Grp) (v : Word) : Word := WLS_WRITE_CFG.written (d.word WLS_WRITE_CFG g) v d.locked 0

theorem Dev.wlsWriteCfg_taken {d : Dev} {g : Grp} {v : Word} (h : writeCfgOk (d.writeCfgWritten g v)) (who : Who) :
    d.wlsWriteCfg who g v = .ok (d.plainWrite who WLS_WRITE_CFG g 0 v) := by
  refine if_pos ?_
  simp only [Bool.and_eq_true, decide_eq_true_eq, and_assoc]
  exact h

theorem Dev.wlsWriteCfg_refused {d : Dev} {g : Grp} {v : Word} (h : ¬ writeCfgOk (d.writeCfgWritten g v)) (who : Who) :
    d.wlsWriteCfg who g v = .error .range := by
  refine if_neg ?_
  simp only [Bool.and_eq_true, decide_eq_true_eq, and_assoc]
  exact h

/-- Settles O21: the limits are judged on the word that the write would leave, whose lead and tail cells are always the written
ones. -/
theorem writeConfigLimits : Obligations.WriteConfigLimits := by
  unfold Obligations.WriteConfigLimits
  refine ⟨fun s who g v ht hlock hlead hlead' htail hsum hgrp hgrp' => completes_of_run rfl ?_,
    fun s who g v ht h0 hbad => completes_of_run rfl ?_⟩
  · have hunlocked : (s.dev.endSnaps who (WLS_WRITE_CFG.at g)).locked = false := by
      rw [← hlock, Dev.locked, Dev.locked, Dev.on, Dev.on, Dev.get_of_regs (Dev.regs_endSnaps ..)]
    have hleft : (s.dev.endSnaps who (WLS_WRITE_CFG.at g)).writeCfgWritten g v = v := by
      rw [Dev.writeCfgWritten, hunlocked, wlsWriteCfg_written]
    have hok : writeCfgOk ((s.dev.endSnaps who (WLS_WRITE_CFG.at g)).writeCfgWritten g v) := by
      rw [hleft]
      exact ⟨hlead, hlead', htail, hsum, hgrp, hgrp'⟩
    rw [Dev.tryWriteOr_taken _ _ who _ (fun d => d.wlsWriteCfg who g v) ht (Dev.wlsWriteCfg_taken hok who),
      Dev.word_plainWrite_self _ _ _ _ _ _ _ (by decide) (by decide)]
    exact hleft
  · have hno : ¬ writeCfgOk ((s.dev.endSnaps who (WLS_WRITE_CFG.at g)).writeCfgWritten g v) := by
      rintro ⟨hlead, hlead', htail, hsum, -⟩
      rw [Dev.writeCfgWritten, lead_of_written] at hlead hlead'
      rw [Dev.writeCfgWritten, tail_of_written] at htail
      rw [Dev.writeCfgWritten, lead_of_written, tail_of_written] at hsum
      omega
    rw [Dev.tryWriteOr_refused _ who _ (fun d => d.wlsWriteCfg who g v) _ ht (Dev.wlsWriteCfg_refused hno who)]
    obtain ⟨hvalid, -, -, hcause, -, -⟩ := Dev.records_capture h0 who (WLS_WRITE_CFG.at g) true .range
    exact ⟨Dev.word_capture_of_key _ _ _ _ _ _ _ _ (by decide) (by decide), hvalid, hcause⟩

end Sys2Proof.Machine
end

section
/-! SUPPORT. The write path and the spindle leave a synthesizer as it is: no write that is stopped, slot that is dropped, heater that is
ordered or source that changes writes what R125 to R135 go by. -/
namespace Sys2Proof.Machine

/-! ### The view -/

/-- The registers of the synthesizers, but for their interrupts. -/
def synthKeys : List Nat := [WLS_CTRL.key, WLS_STATUS.key, WLS_RATIO_LO.key, WLS_RATIO_HI.key, WLS_LANE_OFS.key]

/-- What a synthesizer counts of its wedges, its zone, and the shift of its cell grid. -/
def Wls.loop (w : Wls) : Nat × Nat × Nat × Int := (w.lockCnt, w.missCnt, w.zone, w.grid)

/-- The synthesizers: their registers, LOCK_LOST, and what they count. -/
def Dev.synthView (d : Dev) : (Reg → Nat → Nat → Word) × (Nat → Nat) × Vector (Nat × Nat × Nat × Int) 4 :=
  (d.wordsOf synthKeys, fun g => d.get WLS_INT_STATUS.LOCK_LOST g, d.wls.map Wls.loop)

/-- A device with the words of the synthesizers' registers, their interrupts among them, and their counts. -/
theorem Dev.synthView_of {d t : Dev} (hw : ∀ r i j, r.key ∈ WLS_INT_STATUS.key :: synthKeys → t.word r i j = d.word r i j)
    (hu : t.wls.map Wls.loop = d.wls.map Wls.loop) : t.synthView = d.synthView :=
  Prod.ext (Dev.wordsOf_congr fun r i j hr => hw r i j (List.mem_cons_of_mem _ hr))
    (Prod.ext (funext fun _ => Dev.get_of_word (hw _ _ _ (List.mem_cons_self ..))) hu)

/-! ### Register writes -/

section
variable (d : Dev) (f : Fld) (v i j : Nat) (hf : f.reg.key ∉ WLS_INT_STATUS.key :: synthKeys)
include hf

@[simp] theorem Dev.synthView_set : (d.set f v i j).synthView = d.synthView :=
  Dev.synthView_of (fun _ _ _ hr => Dev.word_set_of_key _ _ _ _ _ _ _ _ fun e => hf (e ▸ hr)) rfl

@[simp] theorem Dev.synthView_raise : (d.raise f i j).synthView = d.synthView := d.synthView_set f 1 i j hf

@[simp] theorem Dev.synthView_stamp (q : Fld) (hq : q.reg.key ∉ WLS_INT_STATUS.key :: synthKeys) :
    (d.stamp f q i j).synthView = d.synthView :=
  (Dev.synthView_set _ f 1 i j hf).trans (d.synthView_set q _ i j hq)

end

/-- Another interrupt of a synthesizer than LOCK_LOST. -/
theorem Dev.synthView_raise_beside (d : Dev) (lo i : Nat) (h : 1 ≤ lo ∧ lo < 32) :
    (d.raise ⟨WLS_INT_STATUS, lo, 1⟩ i).synthView = d.synthView := by
  refine Prod.ext (Dev.wordsOf_set _ _ _ _ _ _ (show WLS_INT_STATUS.key ∉ synthKeys by decide)) (Prod.ext (funext fun g => ?_) rfl)
  by_cases hg : i = g
  · subst hg
    exact Dev.get_set_beside _ _ _ _ _ _ _ _ _ (by omega)
  · exact Dev.get_set_of_ne _ _ _ _ _ _ _ _ (RKey.ne_of_i hg)

@[simp] theorem Dev.synthView_raise_htrLimit (d : Dev) (i : Nat) :
    (d.raise WLS_INT_STATUS.HTR_LIMIT i).synthView = d.synthView := d.synthView_raise_beside 4 i (by decide)

@[simp] theorem Dev.synthView_raise_writeAbort (d : Dev) (i : Nat) :
    (d.raise WLS_INT_STATUS.WRITE_ABORT i).synthView = d.synthView := d.synthView_raise_beside 1 i (by decide)

/-! ### Updates of units -/

/-- An update of units that keeps what the synthesizers count. -/
theorem Dev.synthView_of_regs {d t : Dev} (hr : t.regs = d.regs) (hu : t.wls.map Wls.loop = d.wls.map Wls.loop) :
    t.synthView = d.synthView := Dev.synthView_of (fun _ _ _ _ => Dev.word_of_regs hr _ _ _) hu

theorem Dev.synthView_onWls (d : Dev) (g : Grp) (f : Wls → Wls) (h : ∀ w, (f w).loop = w.loop) :
    (d.onWls g f).synthView = d.synthView := Dev.synthView_of_regs rfl (map_upd Wls.loop d.wls g f h)

@[simp] theorem Dev.synthView_onTok (d : Dev) (f : Tokens → Tokens) : (d.onTok f).synthView = d.synthView :=
  Dev.synthView_of_regs rfl rfl
@[simp] theorem Dev.synthView_onFmt (d : Dev) (g : Grp) (f : Fmt → Fmt) : (d.onFmt g f).synthView = d.synthView :=
  Dev.synthView_of_regs rfl rfl
@[simp] theorem Dev.synthView_onSpn (d : Dev) (f : Spn → Spn) : (d.onSpn f).synthView = d.synthView :=
  Dev.synthView_of_regs rfl rfl
@[simp] theorem Dev.synthView_onArms (d : Dev) (n : LaneId) (f : List Arm → List Arm) : (d.onArms n f).synthView = d.synthView :=
  Dev.synthView_of_regs rfl rfl
@[simp] theorem Dev.synthView_onLane (d : Dev) (n : LaneId) (f : LaneSt → LaneSt) : (d.onLane n f).synthView = d.synthView :=
  Dev.synthView_of_regs rfl rfl

/-! ### Choices and folds -/

@[simp] theorem Dev.synthView_ite (c : Prop) [Decidable c] (a b : Dev) :
    (if c then a else b).synthView = if c then a.synthView else b.synthView := apply_ite Dev.synthView ..

@[simp] theorem Dev.synthView_when (d : Dev) (c : Bool) (f : Dev → Dev) :
    (d.when c f).synthView = if c = true then (f d).synthView else d.synthView := Dev.synthView_ite ..

/-- A fold leaves the synthesizers alone where each of its steps does. -/
theorem Dev.synthView_each {α : Type} (l : List α) (f : α → Dev → Dev) (h : ∀ a d, (f a d).synthView = d.synthView)
    (d : Dev) : (d.each l f).synthView = d.synthView := Dev.each_keeps Dev.synthView l f h d

/-! ### The write path -/

@[simp] theorem Dev.synthView_nextFrame (d : Dev) (g : Grp) : (d.nextFrame g).synthView = d.synthView := by
  unfold Dev.nextFrame
  dsimp only
  split
  · rfl
  split
  · rfl
  · exact Dev.synthView_onWls _ _ _ fun _ => rfl

@[simp] theorem Dev.synthView_gatesFall (d : Dev) (g : Grp) (m : Nat) : (d.gatesFall g m).synthView = d.synthView :=
  (Dev.synthView_nextFrame ..).trans (Dev.synthView_onWls _ _ _ fun _ => rfl)

@[simp] theorem Dev.synthView_sendFrame (d : Dev) (g : Grp) (f : PaFrame) : (d.sendFrame g f).synthView = d.synthView :=
  (Dev.synthView_nextFrame ..).trans (Dev.synthView_onWls _ _ _ fun _ => rfl)

@[simp] theorem Dev.synthView_dropHeater (d : Dev) (g : Grp) (i : HeadIx) : (d.dropHeater g i).synthView = d.synthView :=
  Dev.synthView_onWls _ _ _ fun _ => rfl

@[simp] theorem Dev.synthView_orderHeater (d : Dev) (g : Grp) (i : HeadIx) (c : Nat) :
    (d.orderHeater g i c).synthView = d.synthView := by
  simp [Dev.orderHeater, Dev.setHeater]

@[simp] theorem Dev.synthView_refreshInh (d : Dev) (g : Grp) : (d.refreshInh g).synthView = d.synthView := by
  simp (disch := decide) [Dev.refreshInh]

@[simp] theorem Dev.synthView_clearTokens (d : Dev) (g : Grp) (m : Nat) : (d.clearTokens g m).synthView = d.synthView := by
  simp (disch := decide) [Dev.clearTokens, Dev.showTokens]

@[simp] theorem Dev.synthView_returnTokens (d : Dev) (g : Grp) (m : Nat) : (d.returnTokens g m).synthView = d.synthView := by
  simp (disch := decide) [Dev.returnTokens, Dev.showTokens]

@[simp] theorem Dev.synthView_abortHead (d : Dev) (g : Grp) (c : Nat) (i : HeadIx) :
    (d.abortHead g c i).synthView = d.synthView := by
  unfold Dev.abortHead
  split
  · rfl
  · extract_lets n fallen recorded returned failed
    have hrecorded : recorded.synthView = fallen.synthView := by
      simp only [recorded]
      split <;> simp (disch := decide) [Dev.abortRecord]
    have hfailed : failed.synthView = recorded.synthView := by simp (disch := decide) [failed, returned]
    simp [hfailed, hrecorded, fallen]

@[simp] theorem Dev.synthView_stopWrites (d : Dev) (g : Grp) (m c : Nat) : (d.stopWrites g m c).synthView = d.synthView :=
  Dev.synthView_each _ _ (fun _ _ => Dev.synthView_abortHead ..) d

@[simp] theorem Dev.synthView_gateDown (d : Dev) (n : LaneId) : (d.gateDown n).synthView = d.synthView := by
  have hburst : (d.endBurst n).synthView = d.synthView := by
    unfold Dev.endBurst
    dsimp only
    split
    · exact Dev.synthView_of_regs rfl rfl
    · rfl
  simp [Dev.gateDown, hburst]

@[simp] theorem Dev.synthView_dropArm (d : Dev) (n : LaneId) (a : Arm) : (d.dropArm n a).synthView = d.synthView := by
  simp (disch := decide) [Dev.dropArm]

@[simp] theorem Dev.synthView_missArms (d : Dev) (g : Grp) : (d.missArms g).synthView = d.synthView := by
  unfold Dev.missArms
  extract_lets missed
  have hmissed : missed.synthView = d.synthView := by
    refine Dev.synthView_each _ _ (fun i d => ?_) d
    simp [Dev.synthView_each]
  simp [Dev.withdrawTokens, Dev.showWait, hmissed]

@[simp] theorem Dev.synthView_offsetsWedge (d : Dev) (g : Grp) : (d.offsetsWedge g).synthView = d.synthView := by
  have hoff (d : Dev) (n : LaneId) : (d.rereadOff n).synthView = d.synthView := by
    unfold Dev.rereadOff
    extract_lets had off lowered
    have hlowered : lowered.synthView = off.synthView := Dev.synthView_onWls _ _ _ fun _ => rfl
    simp (disch := decide) [hlowered, off]
  refine Dev.synthView_each _ _ (fun i d => ?_) d
  dsimp only
  split
  · rfl
  · exact hoff ..
  · exact Dev.synthView_onLane ..

/-! ### The spindle -/

@[simp] theorem Dev.synthView_resource (d : Dev) : d.resource.synthView = d.synthView := by
  unfold Dev.resource
  split
  split
  · rfl
  · simp (disch := decide) [Dev.reanchor]

@[simp] theorem Dev.synthView_publishRegen (d : Dev) (g : Grp) (speed : Nat) :
    (d.publishRegen g speed).synthView = d.synthView := by
  simp [Dev.publishRegen]

end Sys2Proof.Machine
end

section
/-! SUPPORT. The states of a wedge-locked synthesizer: what each wedge makes of its state, its counts and its cell grid (R125, R129,
R131). -/
namespace Sys2Proof.Machine

/-! ### What R131 goes by -/

/-- A synthesizer as R131 sees it: its WLS_CTRL, its state and wedge source, LOCK_LOST, its counts, its zone, and the shift of its cell
grid. -/
structure LoopSt where
  ctrl : Word
  state : Nat
  source : Nat
  lost : Nat
  lockCnt : Nat
  missCnt : Nat
  zone : Nat
  grid : Int

/-- What R131 sees of a group's synthesizer. -/
def Dev.loopSt (d : Dev) (g : Grp) : LoopSt :=
  ⟨d.word WLS_CTRL g, d.wlsState g, d.get WLS_STATUS.SOURCE g, d.get WLS_INT_STATUS.LOCK_LOST g, d.wls[g].lockCnt, d.wls[g].missCnt,
    d.wls[g].zone, d.wls[g].grid⟩

theorem Dev.loopSt_congr {d t : Dev} {g : Grp} (hctrl : t.word WLS_CTRL g = d.word WLS_CTRL g)
    (hstatus : t.wlsState g = d.wlsState g ∧ t.get WLS_STATUS.SOURCE g = d.get WLS_STATUS.SOURCE g)
    (hlost : t.get WLS_INT_STATUS.LOCK_LOST g = d.get WLS_INT_STATUS.LOCK_LOST g) (hloop : t.wls[g].loop = d.wls[g].loop) :
    t.loopSt g = d.loopSt g := by
  simp only [Wls.loop, Prod.mk.injEq] at hloop
  obtain ⟨hlock, hmiss, hzone, hgrid⟩ := hloop
  unfold Dev.loopSt
  rw [hctrl, hstatus.1, hstatus.2, hlost, hlock, hmiss, hzone, hgrid]

/-- What the write path and the spindle leave of the synthesizers (R131 among it). -/
theorem Dev.loopSt_of_synthView {d t : Dev} (h : t.synthView = d.synthView) (g : Grp) : t.loopSt g = d.loopSt g := by
  obtain ⟨hwords, hrest⟩ := Prod.mk.inj h
  obtain ⟨hlost, hloop⟩ := Prod.mk.inj hrest
  have hstatus : t.word WLS_STATUS g = d.word WLS_STATUS g := Dev.word_of_wordsOf hwords (by decide) _ _
  refine Dev.loopSt_congr (Dev.word_of_wordsOf hwords (by decide) _ _)
    ⟨Dev.get_of_word hstatus, Dev.get_of_word hstatus⟩ (congrFun hlost g) ?_
  simpa only [Fin.getElem_fin, Vector.getElem_map] using congrArg (fun v => v[g]) hloop

/-! ### Updates beside it -/

theorem Dev.loopSt_ite (c : Prop) [Decidable c] (a b : Dev) (g : Grp) :
    (if c then a else b).loopSt g = if c then a.loopSt g else b.loopSt g := apply_ite (Dev.loopSt · g) ..

theorem Dev.loopSt_set (d : Dev) (f : Fld) (v i j : Nat) (g : Grp)
    (hf : f.reg.key ∉ [WLS_CTRL.key, WLS_STATUS.key, WLS_INT_STATUS.key]) : (d.set f v i j).loopSt g = d.loopSt g := by
  simp only [List.mem_cons, List.not_mem_nil, or_false, not_or] at hf
  obtain ⟨hctrl, hstatus, hint⟩ := hf
  exact Dev.loopSt_congr (Dev.word_set_of_key _ _ _ _ _ _ _ _ hctrl)
    ⟨Dev.get_set_of_key _ _ _ _ _ _ _ _ hstatus, Dev.get_set_of_key _ _ _ _ _ _ _ _ hstatus⟩
    (Dev.get_set_of_key _ _ _ _ _ _ _ _ hint) rfl

/-- A field of WLS_STATUS beside STATE and SOURCE. -/
theorem Dev.loopSt_set_status (d : Dev) (lo w v : Nat) (g : Grp) (h : lo + w ≤ 29 ∧ (lo + w ≤ 23 ∨ 26 ≤ lo)) :
    (d.set ⟨WLS_STATUS, lo, w⟩ v g).loopSt g = d.loopSt g :=
  Dev.loopSt_congr (Dev.word_set_of_key _ _ _ _ _ _ _ _ (show WLS_STATUS.key ≠ WLS_CTRL.key by decide))
    ⟨Dev.get_set_beside _ WLS_STATUS lo w 29 3 v g 0 (by omega), Dev.get_set_beside _ WLS_STATUS lo w 23 3 v g 0 (by omega)⟩
    (Dev.get_set_of_key _ _ _ _ _ _ _ _ (show WLS_STATUS.key ≠ WLS_INT_STATUS.key by decide)) rfl

theorem Dev.loopSt_onWls (d : Dev) (g : Grp) (f : Wls → Wls) (h : ∀ w, (f w).loop = w.loop) :
    (d.onWls g f).loopSt g = d.loopSt g :=
  Dev.loopSt_of_synthView (Dev.synthView_onWls d g f h) g

@[simp] theorem Dev.loopSt_setRatio (d : Dev) (g : Grp) (r : Int) : (d.setRatio g r).loopSt g = d.loopSt g := by
  unfold Dev.setRatio
  rw [Dev.loopSt_onWls, Dev.loopSt_set, Dev.loopSt_set]
  · decide
  · decide
  · exact fun _ => rfl

@[simp] theorem Dev.loopSt_feedForward (d : Dev) (g : Grp) (speed : Nat) : (d.feedForward g speed).loopSt g = d.loopSt g := by
  unfold Dev.feedForward
  extract_lets om den regen
  split
  · exact Dev.loopSt_setRatio ..
  · rfl

@[simp] theorem Dev.loopSt_loopStep (d : Dev) (g : Grp) (theta : Int) : (d.loopStep g theta).loopSt g = d.loopSt g := by
  unfold Dev.loopStep
  extract_lets k
  split
  · rfl
  · exact Dev.loopSt_setRatio ..

@[simp] theorem Dev.loopSt_showRms (d : Dev) (g : Grp) (theta : Int) : (d.showRms g theta).loopSt g = d.loopSt g :=
  (Dev.loopSt_set_status _ 8 8 _ g (by decide)).trans (Dev.loopSt_onWls _ _ _ fun _ => rfl)

@[simp] theorem Dev.loopSt_setLaneOfs (d : Dev) (g : Grp) (i : HeadIx) (x : Int) :
    (d.setLaneOfs g i x).loopSt g = d.loopSt g :=
  (Dev.loopSt_set _ _ _ _ _ _ (by decide)).trans (Dev.loopSt_set _ _ _ _ _ _ (by decide))

@[simp] theorem Dev.loopSt_trackOfs (d : Dev) (g : Grp) (w : WedgeIn) (theta : Int) :
    (d.trackOfs g w theta).loopSt g = d.loopSt g := by
  refine Dev.each_keeps (Dev.loopSt · g) _ _ (fun i d => ?_) d
  dsimp only
  split
  · split
    · rw [Dev.loopSt_onWls, Dev.loopSt_setLaneOfs]
      exact fun _ => rfl
    · rfl
  · rfl

/-! ### The states of R131 -/

/-- A state is entered. -/
def LoopSt.enter (l : LoopSt) (st : Nat) : LoopSt := { l with state := st }

/-- The found wedges that lead to LOCK, and the missed wedges in a row, are counted anew. -/
def LoopSt.count (l : LoopSt) (lock miss : Nat) : LoopSt := { l with lockCnt := lock, missCnt := miss }

/-- The cell grid shifts by theta (R129). -/
def LoopSt.shift (l : LoopSt) (theta : Int) : LoopSt := { l with grid := l.grid + theta }

/-- LOST, with LOCK_LOST. -/
def LoopSt.lose (l : LoopSt) : LoopSt := { l.enter wsLost with lost := 1 }

/-- ACQUIRE, with the counts at zero. -/
def LoopSt.acquire (l : LoopSt) : LoopSt := (l.count 0 0).enter wsAcquire

/-- A missed wedge. -/
def LoopSt.missed (l : LoopSt) : LoopSt :=
  let m := l.count 0 (l.missCnt + 1)
  if l.state = wsLost then l
  else if atLeast1 (WLS_CTRL.MISS_MAX.of l.ctrl) ≤ l.missCnt + 1 then m.lose
  else if l.state = wsLock then m.enter wsHold
  else m

/-- A found wedge in ACQUIRE. -/
def LoopSt.foundAcquiring (l : LoopSt) (theta : Int) : LoopSt :=
  if WLS_CTRL.LOCK_THR.of l.ctrl < theta.natAbs then (l.shift theta).count 0 0
  else
    let m := (l.shift theta).count (l.lockCnt + 1) 0
    if atLeast1 (WLS_CTRL.LOCK_CNT.of l.ctrl) ≤ l.lockCnt + 1 then m.enter wsLock else m

/-- A found wedge in LOCK or HOLD. -/
def LoopSt.foundLocked (l : LoopSt) (theta : Int) : LoopSt :=
  if WLS_CTRL.LOSS_THR.of l.ctrl < theta.natAbs then l.lose else ((l.shift theta).count l.lockCnt 0).enter wsLock

/-- A found wedge. -/
def LoopSt.found (l : LoopSt) (theta : Int) : LoopSt :=
  if l.state = wsLost then l.acquire.shift theta
  else if l.state = wsAcquire then l.foundAcquiring theta
  else l.foundLocked theta

/-- A wedge of a synthesizer that runs, with its source and theta where its mark is found (R125, R131). -/
def LoopSt.wedge (l : LoopSt) : Option (HeadIx × Int) → LoopSt
  | none => l.missed
  | some (i, theta) => LoopSt.found { l with source := i.val } theta

/-! ### The steps of the model are those of R131 -/

theorem Dev.synthView_wlsEnter (d : Dev) (g : Grp) (st : Nat) :
    (d.wlsEnter g st).synthView = (d.set WLS_STATUS.STATE st g).synthView := by
  simp [Dev.wlsEnter]

theorem Dev.loopSt_wlsEnter (d : Dev) (g : Grp) {st : Nat} (h : st < 8) :
    (d.wlsEnter g st).loopSt g = (d.loopSt g).enter st := by
  rw [Dev.loopSt_of_synthView (Dev.synthView_wlsEnter d g st)]
  have hstate : (d.set WLS_STATUS.STATE st g).wlsState g = st :=
    (Dev.get_set _ _ _ _ _ (by decide)).trans (Nat.mod_eq_of_lt h)
  have hsource : (d.set WLS_STATUS.STATE st g).get WLS_STATUS.SOURCE g = d.get WLS_STATUS.SOURCE g :=
    Dev.get_set_beside _ WLS_STATUS 29 3 23 3 st g 0 (by decide)
  have hctrl : (d.set WLS_STATUS.STATE st g).word WLS_CTRL g = d.word WLS_CTRL g :=
    Dev.word_set_of_key _ _ _ _ _ _ _ _ (by decide)
  have hlost : (d.set WLS_STATUS.STATE st g).get WLS_INT_STATUS.LOCK_LOST g = d.get WLS_INT_STATUS.LOCK_LOST g :=
    Dev.get_set_of_key _ _ _ _ _ _ _ _ (by decide)
  simp only [Dev.loopSt, hstate, hsource, hctrl, hlost, Dev.wls_set]
  rfl

theorem Dev.loopSt_set_source (d : Dev) (g : Grp) (i : HeadIx) :
    (d.set WLS_STATUS.SOURCE i g).loopSt g = { d.loopSt g with source := i.val } := by
  have hstate : (d.set WLS_STATUS.SOURCE i g).wlsState g = d.wlsState g :=
    Dev.get_set_beside _ WLS_STATUS 23 3 29 3 i g 0 (by decide)
  have hsource : (d.set WLS_STATUS.SOURCE i g).get WLS_STATUS.SOURCE g = i.val :=
    (Dev.get_set _ _ _ _ _ (by decide)).trans (Nat.mod_eq_of_lt i.isLt)
  have hctrl : (d.set WLS_STATUS.SOURCE i g).word WLS_CTRL g = d.word WLS_CTRL g :=
    Dev.word_set_of_key _ _ _ _ _ _ _ _ (by decide)
  have hlost : (d.set WLS_STATUS.SOURCE i g).get WLS_INT_STATUS.LOCK_LOST g = d.get WLS_INT_STATUS.LOCK_LOST g :=
    Dev.get_set_of_key _ _ _ _ _ _ _ _ (by decide)
  simp only [Dev.loopSt, hstate, hsource, hctrl, hlost, Dev.wls_set]

theorem Dev.loopSt_raise_lockLost (d : Dev) (g : Grp) :
    (d.raise WLS_INT_STATUS.LOCK_LOST g).loopSt g = { d.loopSt g with lost := 1 } := by
  have hlost : (d.raise WLS_INT_STATUS.LOCK_LOST g).get WLS_INT_STATUS.LOCK_LOST g = 1 := Dev.get_set _ _ _ _ _ (by decide)
  have hctrl : (d.raise WLS_INT_STATUS.LOCK_LOST g).word WLS_CTRL g = d.word WLS_CTRL g :=
    Dev.word_raise_of_key _ _ _ _ _ _ _ (by decide)
  have hstatus : (d.raise WLS_INT_STATUS.LOCK_LOST g).word WLS_STATUS g = d.word WLS_STATUS g :=
    Dev.word_raise_of_key _ _ _ _ _ _ _ (by decide)
  have hunits : (d.raise WLS_INT_STATUS.LOCK_LOST g).wls = d.wls := rfl
  simp only [Dev.loopSt, Dev.wlsState, hlost, hctrl, hunits, Dev.get_of_word (f := WLS_STATUS.STATE) hstatus,
    Dev.get_of_word (f := WLS_STATUS.SOURCE) hstatus]

theorem Dev.loopSt_wlsLost (d : Dev) (g : Grp) : (d.wlsLost g).loopSt g = (d.loopSt g).lose := by
  unfold Dev.wlsLost
  rw [Dev.loopSt_raise_lockLost, Dev.loopSt_of_synthView (Dev.synthView_missArms ..), Dev.loopSt_wlsEnter _ _ (by decide)]
  rfl

/-- New counts. -/
theorem Dev.loopSt_onWls_count (d : Dev) (g : Grp) (f : Wls → Wls) (lock miss : Nat → Nat)
    (h : ∀ w, (f w).loop = (lock w.lockCnt, miss w.missCnt, w.zone, w.grid)) :
    (d.onWls g f).loopSt g = (d.loopSt g).count (lock (d.loopSt g).lockCnt) (miss (d.loopSt g).missCnt) := by
  have hloop := h d.wls[g]
  simp only [Wls.loop, Prod.mk.injEq] at hloop
  obtain ⟨hlock, hmiss, hzone, hgrid⟩ := hloop
  simp only [Dev.loopSt, Dev.wls_onWls, getElem_upd, hlock, hmiss, hzone, hgrid]
  rfl

theorem Dev.loopSt_acquire (d : Dev) (g : Grp) (r : Int) : (d.acquire g r).loopSt g = (d.loopSt g).acquire := by
  unfold Dev.acquire
  extract_lets cleared
  have hcleared : cleared.loopSt g = (d.loopSt g).count 0 0 := by
    rw [← Dev.loopSt_setRatio d g r]
    exact Dev.loopSt_onWls_count _ _ _ (fun _ => 0) (fun _ => 0) fun _ => rfl
  rw [Dev.loopSt_wlsEnter _ _ (by decide), WLS_STATUS.DIV, Dev.loopSt_set_status _ _ _ _ _ (by decide), hcleared, LoopSt.acquire]

theorem Dev.loopSt_shiftGrid (d : Dev) (g : Grp) (theta : Int) (slewed : Bool) :
    (d.shiftGrid g theta slewed).loopSt g = (d.loopSt g).shift theta := by
  simp only [Dev.shiftGrid, Dev.loopSt, Dev.wls_onWls, getElem_upd]
  rfl

theorem Dev.loopSt_wedgeMissed (d : Dev) (g : Grp) : (d.wedgeMissed g).loopSt g = (d.loopSt g).missed := by
  unfold Dev.wedgeMissed LoopSt.missed
  extract_lets st counted m
  have hcounted : counted.loopSt g = m := Dev.loopSt_onWls_count _ _ _ (fun _ => 0) (· + 1) fun _ => rfl
  have hctrl : counted.word WLS_CTRL g = d.word WLS_CTRL g := congrArg LoopSt.ctrl hcounted
  have hmax : counted.get WLS_CTRL.MISS_MAX g = WLS_CTRL.MISS_MAX.of (d.loopSt g).ctrl :=
    Dev.get_of_word (f := WLS_CTRL.MISS_MAX) hctrl
  have hmiss : counted.wls[g].missCnt = (d.loopSt g).missCnt + 1 := congrArg LoopSt.missCnt hcounted
  have hstate : st = (d.loopSt g).state := rfl
  simp only [Dev.loopSt_ite, beq_iff_eq, Dev.loopSt_wlsLost, Dev.loopSt_wlsEnter _ _ (show wsHold < 8 by decide), hcounted, hmax,
    hmiss, hstate]

theorem Dev.loopSt_wedgeAcquire (d : Dev) (g : Grp) (theta : Int) :
    (d.wedgeAcquire g theta).loopSt g = (d.loopSt g).foundAcquiring theta := by
  unfold Dev.wedgeAcquire LoopSt.foundAcquiring thetaOver
  extract_lets ok counted m
  have hok : ok = true ↔ ¬ WLS_CTRL.LOCK_THR.of (d.loopSt g).ctrl < theta.natAbs := by
    simp only [ok, Bool.not_eq_true', decide_eq_false_iff_not]
    rfl
  have hcounted : counted.loopSt g = ((d.loopSt g).shift theta).count (if ok then (d.loopSt g).lockCnt + 1 else 0) 0 := by
    refine (Dev.loopSt_onWls_count _ _ _ (fun n => if ok then n + 1 else 0) (fun _ => 0) fun _ => rfl).trans ?_
    rw [Dev.loopSt_shiftGrid]
    rfl
  have hctrl : counted.word WLS_CTRL g = d.word WLS_CTRL g := congrArg LoopSt.ctrl hcounted
  have hcnt : counted.get WLS_CTRL.LOCK_CNT g = WLS_CTRL.LOCK_CNT.of (d.loopSt g).ctrl :=
    Dev.get_of_word (f := WLS_CTRL.LOCK_CNT) hctrl
  have hlock : counted.wls[g].lockCnt = if ok then (d.loopSt g).lockCnt + 1 else 0 := congrArg LoopSt.lockCnt hcounted
  simp only [Dev.loopSt_ite, Dev.loopSt_wlsEnter _ _ (show wsLock < 8 by decide), hcounted, hcnt, hlock, Bool.and_eq_true,
    decide_eq_true_eq]
  by_cases hover : WLS_CTRL.LOCK_THR.of (d.loopSt g).ctrl < theta.natAbs
  · have hno : ok = false := Bool.eq_false_iff.mpr fun h => hok.mp h hover
    simp [hno, hover]
  · simp [hok.mpr hover, hover, m]

theorem Dev.loopSt_wedgeLocked (d : Dev) (g : Grp) (theta : Int) :
    (d.wedgeLocked g theta).loopSt g = (d.loopSt g).foundLocked theta := by
  unfold Dev.wedgeLocked LoopSt.foundLocked thetaOver
  extract_lets shown counted entered
  have hshown : shown.loopSt g = (d.loopSt g).shift theta := by
    rw [Dev.loopSt_showRms, Dev.loopSt_shiftGrid, Dev.loopSt_loopStep]
  have hcounted : counted.loopSt g = ((d.loopSt g).shift theta).count (d.loopSt g).lockCnt 0 := by
    refine (Dev.loopSt_onWls_count _ _ _ id (fun _ => 0) fun _ => rfl).trans ?_
    rw [hshown]
    rfl
  have hentered : entered.loopSt g = (counted.loopSt g).enter wsLock := by
    by_cases hlock : counted.wlsState g = wsLock
    · have hself : counted.loopSt g = (counted.loopSt g).enter wsLock := by
        rw [← hlock]
        rfl
      simpa only [entered, hlock, beq_self_eq_true, if_true] using hself
    · simp only [entered, beq_iff_eq, hlock, if_false]
      exact Dev.loopSt_wlsEnter _ _ (by decide)
  have hthr : d.get WLS_CTRL.LOSS_THR g = WLS_CTRL.LOSS_THR.of (d.loopSt g).ctrl := rfl
  simp only [Dev.loopSt_ite, decide_eq_true_eq, Dev.loopSt_wlsLost, Dev.loopSt_of_synthView (Dev.synthView_stopWrites ..),
    hentered, hcounted, ite_self, hthr]

/-- The wedge source is found: its registers, and the theta input of R150. -/
def Dev.wedgeFound (d : Dev) (g : Grp) (i : HeadIx) (theta : Int) : Dev :=
  let d := (d.set WLS_STATUS.SOURCE i g).set WLS_STATUS.THETA_LAST (twos 8 (clamp (-128) 127 theta)) g
  d.onWls g fun w => { w with thetaBad := thetaOver theta (d.get WLS_CTRL.WR_THR g) }

theorem Dev.loopSt_wedgeFound (d : Dev) (g : Grp) (i : HeadIx) (theta : Int) :
    (d.wedgeFound g i theta).loopSt g = { d.loopSt g with source := i.val } := by
  unfold Dev.wedgeFound
  extract_lets shown
  rw [Dev.loopSt_onWls]
  · exact (Dev.loopSt_set_status _ 0 8 _ g (by decide)).trans (Dev.loopSt_set_source ..)
  · exact fun _ => rfl

/-- What a wedge makes of its source, in a state that was st before the wedge. -/
def Dev.wedgeStep (d : Dev) (g : Grp) (w : WedgeIn) (st : Nat) : Option (HeadIx × Int) → Dev
  | none => d.wedgeMissed g
  | some (i, theta) =>
    let d := d.wedgeFound g i theta
    let d := if st == wsLost then (d.acquire g (d.presetRatio g)).shiftGrid g theta false
      else if st == wsAcquire then d.wedgeAcquire g theta
      else d.wedgeLocked g theta
    d.trackOfs g w theta

theorem Dev.loopSt_wedgeStep (d : Dev) (g : Grp) (w : WedgeIn) (src : Option (HeadIx × Int)) :
    (d.wedgeStep g w (d.wlsState g) src).loopSt g = (d.loopSt g).wedge src := by
  cases src with
  | none => exact d.loopSt_wedgeMissed g
  | some x =>
    obtain ⟨i, theta⟩ := x
    unfold Dev.wedgeStep LoopSt.wedge LoopSt.found
    have hstate : d.wlsState g = (d.loopSt g).state := rfl
    simp only [Dev.loopSt_trackOfs, Dev.loopSt_ite, beq_iff_eq, Dev.loopSt_shiftGrid, Dev.loopSt_acquire, Dev.loopSt_wedgeAcquire,
      Dev.loopSt_wedgeLocked, Dev.loopSt_wedgeFound, hstate]

/-- One wedge of a synthesizer that runs. -/
def Dev.wedge (d : Dev) (g : Grp) (w : WedgeIn) : Dev :=
  let src := d.wedgeSource g w
  let e := if d.wlsState g == wsHold && src.isNone then d else (d.publishRegen g w.speed).feedForward g w.speed
  let e := e.wedgeStep g w (d.wlsState g) src
  let e := e.set WLS_STATUS.DIV (nextDiv (e.ratio g) (e.get WLS_STATUS.DIV g)) g
  ((e.offsetsWedge g).refreshInh g).resource

theorem Dev.loopSt_wedge (d : Dev) (g : Grp) (w : WedgeIn) : (d.wedge g w).loopSt g = (d.loopSt g).wedge (d.wedgeSource g w) := by
  unfold Dev.wedge
  extract_lets src fed stepped divided
  have hfed : fed.loopSt g = d.loopSt g := by
    simp only [fed, Dev.loopSt_ite, Dev.loopSt_feedForward, Dev.loopSt_of_synthView (Dev.synthView_publishRegen ..), ite_self]
  have hstepped : stepped.loopSt g = (d.loopSt g).wedge src := by
    have hstate : fed.wlsState g = d.wlsState g := congrArg LoopSt.state hfed
    rw [← hfed, ← fed.loopSt_wedgeStep g w src, hstate]
  have hdivided : divided.loopSt g = stepped.loopSt g := Dev.loopSt_set_status _ 26 3 _ g (by decide)
  rw [Dev.loopSt_of_synthView (d := divided) (by simp), hdivided, hstepped]

theorem execWlsWedge_eq (g : Grp) (w : WedgeIn) (s : State) :
    execWlsWedge g w s = s.runIn (14 + g) fun d => if d.wlsState g == wsOff then d else d.wedge g w := by
  unfold execWlsWedge Dev.wedge
  refine congrArg _ (funext fun d => ?_)
  cases d.wedgeSource g w with
  | none => rfl
  | some x => rfl

/-- WLS_WEDGE of a synthesizer that runs completes with its wedge. -/
theorem completes_wlsWedge {s : State} {g : Grp} {w : WedgeIn} {P : Dev → Prop} (hc : s.dev.clocked (14 + g) = true)
    (hst : s.dev.get WLS_STATUS.STATE g ≠ wsOff) (h : P (s.dev.wedge g w)) : Completes (.wlsWedge g w) s P := by
  refine completes_of_runIn (execWlsWedge_eq g w s) hc ?_
  rw [if_neg]
  · exact h
  · rw [beq_iff_eq]
    exact hst

/-! ### WLS_WEDGE (R131) -/

section
variable {l : LoopSt} {i : HeadIx} {theta : Int}

theorem LoopSt.wedge_acquire (hst : l.state = wsAcquire) : let m := l.wedge (some (i, theta))
    m.source = i.val ∧ m.grid = l.grid + theta ∧
      (theta.natAbs ≤ WLS_CTRL.LOCK_THR.of l.ctrl → atLeast1 (WLS_CTRL.LOCK_CNT.of l.ctrl) ≤ l.lockCnt + 1 → m.state = wsLock) ∧
      (WLS_CTRL.LOCK_THR.of l.ctrl < theta.natAbs → m.state = wsAcquire ∧ m.lockCnt = 0) := by
  intro m
  have hm : m = LoopSt.foundAcquiring { l with source := i.val } theta := by
    simp [m, LoopSt.wedge, LoopSt.found, hst]
  clear_value m
  subst hm
  unfold LoopSt.foundAcquiring
  dsimp only
  split
  next hover => exact ⟨rfl, rfl, fun h => absurd hover (Nat.not_lt.mpr h), fun _ => ⟨hst, rfl⟩⟩
  next hin =>
    split
    next hcnt => exact ⟨rfl, rfl, fun _ _ => rfl, fun h => absurd h hin⟩
    next hcnt => exact ⟨rfl, rfl, fun _ h => absurd h hcnt, fun h => absurd h hin⟩

theorem LoopSt.wedge_locked (hst : l.state = wsLock ∨ l.state = wsHold) : let m := l.wedge (some (i, theta))
    (WLS_CTRL.LOSS_THR.of l.ctrl < theta.natAbs → m.state = wsLost ∧ m.lost = 1) ∧
      (theta.natAbs ≤ WLS_CTRL.LOSS_THR.of l.ctrl → m.state = wsLock ∧ m.grid = l.grid + theta) := by
  intro m
  have hm : m = LoopSt.foundLocked { l with source := i.val } theta := by
    rcases hst with hst | hst <;> simp [m, LoopSt.wedge, LoopSt.found, hst]
  clear_value m
  subst hm
  unfold LoopSt.foundLocked
  split
  next hover => exact ⟨fun _ => ⟨rfl, rfl⟩, fun h => absurd hover (Nat.not_lt.mpr h)⟩
  next hin => exact ⟨fun h => absurd h hin, fun _ => ⟨rfl, rfl⟩⟩

theorem LoopSt.missed_hold (hst : l.state = wsLock ∨ l.state = wsHold)
    (hmax : l.missCnt + 1 < atLeast1 (WLS_CTRL.MISS_MAX.of l.ctrl)) : l.missed.state = wsHold := by
  unfold LoopSt.missed
  rcases hst with hst | hst
  · simp [hst, Nat.not_le.mpr hmax, LoopSt.enter]
  · simp [hst, Nat.not_le.mpr hmax, LoopSt.count]

theorem LoopSt.missed_lost (hst : l.state ≠ wsLost) (hmax : atLeast1 (WLS_CTRL.MISS_MAX.of l.ctrl) ≤ l.missCnt + 1) :
    l.missed.state = wsLost ∧ l.missed.lost = 1 := by
  unfold LoopSt.missed
  rw [if_neg hst, if_pos hmax]
  exact ⟨rfl, rfl⟩

theorem LoopSt.wedge_lost (hst : l.state = wsLost) (src : Option (HeadIx × Int)) :
    (l.wedge src).state = if src.isSome then wsAcquire else wsLost := by
  cases src with
  | none => simp [LoopSt.wedge, LoopSt.missed, hst]
  | some x => simp [LoopSt.wedge, LoopSt.found, hst, LoopSt.acquire, LoopSt.enter, LoopSt.shift]

end

/-- ACQUIRE: a found wedge shifts the grid, counts within LOCK_THR up to LOCK, and restarts the count outside it. -/
theorem wlsWedge_acquires (s : State) (g : Grp) (w : WedgeIn) (hc : s.dev.clocked (14 + g) = true)
    (hst : s.dev.get WLS_STATUS.STATE g = 1) : Completes (.wlsWedge g w) s fun t =>
    ∀ i θ, s.dev.wedgeSource g w = some (i, θ) → t.get WLS_STATUS.SOURCE g = i.val ∧ t.wls[g].grid = s.dev.wls[g].grid + θ ∧
      (θ.natAbs ≤ s.dev.get WLS_CTRL.LOCK_THR g → atLeast1 (s.dev.get WLS_CTRL.LOCK_CNT g) ≤ s.dev.wls[g].lockCnt + 1 →
        t.get WLS_STATUS.STATE g = 2) ∧
      (s.dev.get WLS_CTRL.LOCK_THR g < θ.natAbs → t.get WLS_STATUS.STATE g = 1 ∧ t.wls[g].lockCnt = 0) := by
  refine completes_wlsWedge hc (by rw [hst]; decide) fun i θ hsrc => ?_
  have hloop := LoopSt.wedge_acquire (l := s.dev.loopSt g) (i := i) (theta := θ) hst
  rw [← hsrc, ← Dev.loopSt_wedge] at hloop
  exact hloop

/-- LOCK and HOLD: a found wedge within LOSS_THR leads to LOCK and shifts the grid, one outside it to LOST; a missed one to HOLD. -/
theorem wlsWedge_locked (s : State) (g : Grp) (w : WedgeIn) (st : Nat) (hc : s.dev.clocked (14 + g) = true)
    (hget : s.dev.get WLS_STATUS.STATE g = st) (hst : st = 2 ∨ st = 3) : Completes (.wlsWedge g w) s fun t =>
    (∀ i θ, s.dev.wedgeSource g w = some (i, θ) →
      (s.dev.get WLS_CTRL.LOSS_THR g < θ.natAbs → t.get WLS_STATUS.STATE g = 4 ∧ t.get WLS_INT_STATUS.LOCK_LOST g = 1) ∧
      (θ.natAbs ≤ s.dev.get WLS_CTRL.LOSS_THR g →
        t.get WLS_STATUS.STATE g = 2 ∧ t.wls[g].grid = s.dev.wls[g].grid + θ)) ∧
    (s.dev.wedgeSource g w = none → s.dev.wls[g].missCnt + 1 < atLeast1 (s.dev.get WLS_CTRL.MISS_MAX g) →
      t.get WLS_STATUS.STATE g = 3) := by
  subst hget
  refine completes_wlsWedge hc (by rcases hst with hst | hst <;> rw [hst] <;> decide) ⟨fun i θ hsrc => ?_, fun hsrc hmax => ?_⟩
  · have hloop := LoopSt.wedge_locked (l := s.dev.loopSt g) (i := i) (theta := θ) hst
    rw [← hsrc, ← Dev.loopSt_wedge] at hloop
    exact hloop
  · have hloop := s.dev.loopSt_wedge g w
    rw [hsrc] at hloop
    exact (congrArg LoopSt.state hloop).trans (LoopSt.missed_hold (l := s.dev.loopSt g) hst hmax)

/-- The MISS_MAX-th missed wedge leads to LOST. -/
theorem wlsWedge_loses (s : State) (g : Grp) (w : WedgeIn) (st : Nat) (hc : s.dev.clocked (14 + g) = true)
    (hget : s.dev.get WLS_STATUS.STATE g = st) (hst : st = 1 ∨ st = 2 ∨ st = 3) (hsrc : s.dev.wedgeSource g w = none)
    (hmax : atLeast1 (s.dev.get WLS_CTRL.MISS_MAX g) ≤ s.dev.wls[g].missCnt + 1) : Completes (.wlsWedge g w) s fun t =>
      t.get WLS_STATUS.STATE g = 4 ∧ t.get WLS_INT_STATUS.LOCK_LOST g = 1 := by
  have hoff : s.dev.get WLS_STATUS.STATE g ≠ 0 := by omega
  have hlost : s.dev.get WLS_STATUS.STATE g ≠ 4 := by omega
  refine completes_wlsWedge hc hoff ?_
  have hloop := LoopSt.missed_lost (l := s.dev.loopSt g) hlost hmax
  have hwedge := s.dev.loopSt_wedge g w
  rw [hsrc] at hwedge
  exact ⟨(congrArg LoopSt.state hwedge).trans hloop.1, (congrArg LoopSt.lost hwedge).trans hloop.2⟩

/-- LOST: a found wedge leads to ACQUIRE. -/
theorem wlsWedge_finds (s : State) (g : Grp) (w : WedgeIn) (hc : s.dev.clocked (14 + g) = true)
    (hst : s.dev.get WLS_STATUS.STATE g = 4) : Completes (.wlsWedge g w) s fun t =>
      t.get WLS_STATUS.STATE g = if (s.dev.wedgeSource g w).isSome then 1 else 4 :=
  completes_wlsWedge hc (by rw [hst]; decide) ((congrArg LoopSt.state (s.dev.loopSt_wedge g w)).trans
    (LoopSt.wedge_lost (l := s.dev.loopSt g) hst _))

end Sys2Proof.Machine
end

section
/-! SUPPORT. A synthesizer is enabled, disabled, and follows its group to a new zone (R131 to R134). -/
namespace Sys2Proof.Machine

/-! ### One step of a fold -/

/-- What the step of one member of a list leaves of an observation that no other step changes. -/
theorem Dev.each_once {α β : Type} (φ : Dev → β) {l : List α} (hl : l.Nodup) {a : α} (ha : a ∈ l) (f : α → Dev → Dev)
    (h : ∀ b, b ≠ a → ∀ d, φ (f b d) = φ d) (d : Dev) : ∃ e, φ e = φ d ∧ φ (d.each l f) = φ (f a e) := by
  obtain ⟨x, y, rfl⟩ := List.append_of_mem ha
  obtain ⟨-, hay, hxy⟩ := List.nodup_append.mp hl
  have hx : ∀ b ∈ x, b ≠ a := fun b hb => hxy b hb a (List.mem_cons_self ..)
  have hy : ∀ b ∈ y, b ≠ a := fun b hb e => (List.nodup_cons.mp hay).1 (e ▸ hb)
  have hkeep : ∀ m : List α, (∀ b ∈ m, b ≠ a) → ∀ d : Dev, φ (d.each m f) = φ d := by
    intro m
    unfold Dev.each
    induction m with
    | nil => exact fun _ _ => rfl
    | cons b t ih =>
      intro hm d
      rw [List.foldl_cons, ih fun c hc => hm c (List.mem_cons_of_mem _ hc)]
      exact h b (hm b (List.mem_cons_self ..)) d
  refine ⟨d.each x f, hkeep x hx d, ?_⟩
  have hsplit : d.each (x ++ a :: y) f = (f a (d.each x f)).each y f := by
    unfold Dev.each
    rw [List.foldl_append, List.foldl_cons]
  rw [hsplit, hkeep y hy]

/-! ### The ratio and k (R124, R132) -/

theorem Dev.get_of_synthView {d t : Dev} (h : t.synthView = d.synthView) {f : Fld} (hf : f.reg.key ∈ synthKeys) (i j : Nat) :
    t.get f i j = d.get f i j := Dev.get_of_word (Dev.word_of_wordsOf (congrArg Prod.fst h) hf i j)

theorem Dev.ratio_of_synthView {d t : Dev} (h : t.synthView = d.synthView) (g : Grp) : t.ratio g = d.ratio g := by
  unfold Dev.ratio
  rw [Dev.get_of_synthView h (by decide), Dev.get_of_synthView h (by decide)]

theorem Dev.ratio_set (d : Dev) (f : Fld) (v i j : Nat) (g : Grp) (hf : f.reg.key ∉ [WLS_RATIO_LO.key, WLS_RATIO_HI.key]) :
    (d.set f v i j).ratio g = d.ratio g := by
  simp only [List.mem_cons, List.not_mem_nil, or_false, not_or] at hf
  obtain ⟨hlo, hhi⟩ := hf
  unfold Dev.ratio
  rw [Dev.get_set_of_key _ _ WLS_RATIO_LO.FRAC _ _ _ _ _ hlo, Dev.get_set_of_key _ _ WLS_RATIO_HI.INT _ _ _ _ _ hhi]

theorem clamp_ratio_lt (r : Int) : (clamp 0 (2 ^ 40 - 1) r).toNat < 2 ^ 40 := by
  unfold clamp
  split
  · decide
  · split
    · decide
    · omega

theorem toNat_clamp_ratio (r : Int) : ((clamp 0 (2 ^ 40 - 1) r).toNat : Int) = clamp 0 (2 ^ 40 - 1) r := by
  refine Int.toNat_of_nonneg ?_
  unfold clamp
  split
  · decide
  · split
    · decide
    · omega

/-- The ratio is set within its 40 bits. -/
theorem Dev.ratio_setRatio (d : Dev) (g : Grp) (r : Int) : (d.setRatio g r).ratio g = (clamp 0 (2 ^ 40 - 1) r).toNat := by
  have hlt := clamp_ratio_lt r
  unfold Dev.setRatio
  extract_lets n cpr
  have hn : n < 2 ^ 40 := hlt
  show Dev.ratio ((d.set WLS_RATIO_LO.FRAC n g).set WLS_RATIO_HI.INT (n / 2 ^ 32) g) g = n
  unfold Dev.ratio
  rw [Dev.get_set_of_key _ WLS_RATIO_HI.INT WLS_RATIO_LO.FRAC _ _ _ _ _ (by decide), Dev.get_set _ _ _ _ _ (by decide),
    Dev.get_set _ _ _ _ _ (by decide)]
  show n % 2 ^ 32 + 2 ^ 32 * (n / 2 ^ 32 % 2 ^ 8) = n
  clear_value n
  omega

theorem presetDiv_lt (r : Nat) : presetDiv r < 8 := by
  unfold presetDiv
  cases h : [0, 1, 2, 3].find? fun k => !dcoBelow r k 4200 with
  | none => decide
  | some k =>
    have := List.mem_of_find?_eq_some h
    simp only [List.mem_cons, List.not_mem_nil, or_false] at this
    show k < 8
    omega

/-- ACQUIRE is entered with the ratio given, k by R132, and the offsets as they were. -/
theorem Dev.acquire_leaves (d : Dev) (g : Grp) (r : Int) : let t := d.acquire g r
    t.ratio g = (clamp 0 (2 ^ 40 - 1) r).toNat ∧ t.get WLS_STATUS.DIV g = presetDiv (t.ratio g) ∧
      ∀ j, t.word WLS_LANE_OFS g j = d.word WLS_LANE_OFS g j := by
  intro t
  let e := (d.setRatio g r).onWls g fun w => { w with lockCnt := 0, missCnt := 0 }
  have hview : t.synthView = ((e.set WLS_STATUS.DIV (presetDiv (e.ratio g)) g).set WLS_STATUS.STATE wsAcquire g).synthView :=
    Dev.synthView_wlsEnter ..
  have hratio : t.ratio g = e.ratio g := by
    rw [Dev.ratio_of_synthView hview, Dev.ratio_set _ _ _ _ _ _ (by decide), Dev.ratio_set _ _ _ _ _ _ (by decide)]
  refine ⟨hratio.trans (d.ratio_setRatio g r), ?_, fun j => ?_⟩
  · rw [hratio, Dev.get_of_synthView hview (by decide)]
    refine (Dev.get_set_beside _ WLS_STATUS 29 3 26 3 _ _ _ (by decide)).trans ?_
    exact (Dev.get_set _ _ _ _ _ (by decide)).trans (Nat.mod_eq_of_lt (presetDiv_lt _))
  · rw [Dev.word_of_wordsOf (congrArg Prod.fst hview) (by decide), Dev.word_set_of_key _ _ _ _ _ _ _ _ (by decide),
      Dev.word_set_of_key _ _ _ _ _ _ _ _ (by decide)]
    show ((d.set WLS_RATIO_LO.FRAC _ g).set WLS_RATIO_HI.INT _ g).word WLS_LANE_OFS g j = _
    rw [Dev.word_set_of_key _ _ _ _ _ _ _ _ (by decide), Dev.word_set_of_key _ _ _ _ _ _ _ _ (by decide)]

/-! ### WLS_ENABLE and WLS_DISABLE (R131) -/

theorem Dev.loopSt_wlsStop (d : Dev) (g : Grp) : (d.wlsStop g).loopSt g = ((d.loopSt g).enter wsOff).count 0 0 := by
  unfold Dev.wlsStop
  extract_lets stopped
  have hstopped : stopped.loopSt g = ((d.loopSt g).enter wsOff).count 0 0 := by
    rw [← Dev.loopSt_wlsEnter d g (show wsOff < 8 by decide)]
    exact Dev.loopSt_onWls_count _ _ _ (fun _ => 0) (fun _ => 0) fun _ => rfl
  rw [← hstopped]
  exact Dev.each_keeps (Dev.loopSt · g) _ _ (fun i d => Dev.loopSt_set _ _ _ _ _ _ (by decide)) _

/-- The lanes of a stopped synthesizer's group do not track. -/
theorem Dev.tracking_wlsStop (d : Dev) (g : Grp) (i : HeadIx) : (d.wlsStop g).get LANE_STATUS.TRACKING (laneOf g i) = 0 := by
  unfold Dev.wlsStop
  extract_lets stopped
  obtain ⟨e, -, heach⟩ := Dev.each_once (fun d => d.get LANE_STATUS.TRACKING (laneOf g i)) (List.nodup_finRange 8)
    (List.mem_finRange i) (fun i d => d.set LANE_STATUS.TRACKING 0 (laneOf g i))
    (fun b hb d => Dev.get_set_of_ne _ _ _ _ _ _ _ _ (RKey.ne_of_i fun h => laneOf_ne hb (Fin.ext h))) stopped
  exact heach.trans (Dev.get_set _ _ _ _ _ (by decide))

section
variable (d : Dev) (who : Who) (g : Grp) (v : Word) (code : Nat)

/-- WLS_CTRL as a command writes it, EN with a code. -/
def Dev.enWritten : Dev := d.plainWrite who WLS_CTRL g 0 (withField v 0 1 code)

theorem Dev.en_enWritten : (d.enWritten who g v code).get WLS_CTRL.EN g = code % 2 := by
  have hword : (d.enWritten who g v code).word WLS_CTRL g =
      WLS_CTRL.written (d.word WLS_CTRL g) (withField v 0 1 code) d.locked 0 :=
    Dev.word_plainWrite_self _ _ _ _ _ _ _ (by decide) (by decide)
  refine (congrArg WLS_CTRL.EN.of hword).trans ((Fld.of_written WLS_CTRL ⟨0, 1, .rw⟩ (by decide) _ _ _).trans ?_)
  exact Fld.of_put ⟨WLS_CTRL, 0, 1⟩ v code (by decide)

variable {v}

/-- A write with WR_THR below LOSS_THR is taken, and EN's change acts. -/
theorem Dev.wlsCtrlWrite_taken (h : WLS_CTRL.WR_THR.of v < WLS_CTRL.LOSS_THR.of v) :
    d.wlsCtrlWrite who g (withField v 0 1 code) =
      .ok (let e := d.enWritten who g v code
        if e.on WLS_CTRL.EN g && !d.on WLS_CTRL.EN g then e.acquire g (e.presetRatio g)
        else if d.on WLS_CTRL.EN g && !e.on WLS_CTRL.EN g then e.wlsStop g
        else e) := by
  have hthr : ¬ bits (withField v 0 1 code) 24 8 ≤ bits (withField v 0 1 code) 16 8 := by
    rw [bits_eq_of WLS_CTRL, bits_eq_of WLS_CTRL, of_withField_beside WLS_CTRL v code (by decide),
      of_withField_beside WLS_CTRL v code (by decide)]
    exact Nat.not_le.mpr h
  exact if_neg hthr

end

theorem wlsEnable_acquires (s : State) (who : Who) (g : Grp) (v : Word) (ht : s.dev.takes who (WLS_CTRL.at g) = true)
    (hthr : WLS_CTRL.WR_THR.of v < WLS_CTRL.LOSS_THR.of v) (hen : s.dev.get WLS_CTRL.EN g = 0) :
    Completes (.wlsEnable who g v) s fun t =>
      t.get WLS_CTRL.EN g = 1 ∧ t.get WLS_STATUS.STATE g = 1 ∧ t.get WLS_STATUS.DIV g = presetDiv (t.ratio g) := by
  let d := s.dev.endSnaps who (WLS_CTRL.at g)
  let e := d.enWritten who g v 1
  have hnow : e.get WLS_CTRL.EN g = 1 := d.en_enWritten who g v 1
  have hwas : d.get WLS_CTRL.EN g = 0 := (Dev.get_of_regs (Dev.regs_endSnaps ..) _ _ _).trans hen
  have htaken : d.wlsCtrlWrite who g (withField v 0 1 1) = .ok (e.acquire g (e.presetRatio g)) := by
    rw [Dev.wlsCtrlWrite_taken _ _ _ _ hthr]
    exact congrArg Except.ok (if_pos (by rw [Dev.on, Dev.on, hnow, hwas]; rfl))
  refine completes_of_run rfl ?_
  rw [Dev.tryWriteOr_taken s.dev _ who _ (fun d => d.wlsCtrlWrite who g (withField v 0 1 1)) ht htaken]
  have hloop := e.loopSt_acquire g (e.presetRatio g)
  have hctrl : (e.acquire g (e.presetRatio g)).word WLS_CTRL g = e.word WLS_CTRL g := congrArg LoopSt.ctrl hloop
  exact ⟨(Dev.get_of_word hctrl).trans hnow, congrArg LoopSt.state hloop, (e.acquire_leaves g _).2.1⟩

theorem wlsDisable_stops (s : State) (who : Who) (g : Grp) (v : Word) (ht : s.dev.takes who (WLS_CTRL.at g) = true)
    (hthr : WLS_CTRL.WR_THR.of v < WLS_CTRL.LOSS_THR.of v) (hen : s.dev.get WLS_CTRL.EN g = 1) :
    Completes (.wlsDisable who g v) s fun t =>
      t.get WLS_CTRL.EN g = 0 ∧ t.get WLS_STATUS.STATE g = 0 ∧
      ∀ i : HeadIx, t.get LANE_STATUS.TRACKING (laneOf g i) = 0 := by
  let d := s.dev.endSnaps who (WLS_CTRL.at g)
  let e := d.enWritten who g v 0
  have hnow : e.get WLS_CTRL.EN g = 0 := d.en_enWritten who g v 0
  have hwas : d.get WLS_CTRL.EN g = 1 := (Dev.get_of_regs (Dev.regs_endSnaps ..) _ _ _).trans hen
  have htaken : d.wlsCtrlWrite who g (withField v 0 1 0) = .ok (e.wlsStop g) := by
    rw [Dev.wlsCtrlWrite_taken _ _ _ _ hthr]
    refine congrArg Except.ok ((if_neg ?_).trans (if_pos ?_)) <;> rw [Dev.on, Dev.on, hnow, hwas] <;> decide
  refine completes_of_run rfl ?_
  rw [Dev.tryWriteOr_taken s.dev _ who _ (fun d => d.wlsCtrlWrite who g (withField v 0 1 0)) ht htaken]
  have hloop := e.loopSt_wlsStop g
  have hctrl : (e.wlsStop g).word WLS_CTRL g = e.word WLS_CTRL g := congrArg LoopSt.ctrl hloop
  exact ⟨(Dev.get_of_word hctrl).trans hnow, congrArg LoopSt.state hloop, e.tracking_wlsStop g⟩

/-! ### WLS_ZONE_CHANGE (R133, R134) -/

theorem twos_lt (n : Nat) (x : Int) : twos n x < 2 ^ n := by
  unfold twos
  have h : (0 : Int) < 2 ^ n := by positivity
  have := Int.emod_lt_of_pos x h
  have := Int.emod_nonneg x h.ne'
  zify
  omega

theorem Dev.setLaneOfs_sets (d : Dev) (g : Grp) (i : HeadIx) (x : Int) :
    (d.setLaneOfs g i x).get WLS_LANE_OFS.FINE g i = twos 8 x ∧
      (d.setLaneOfs g i x).get WLS_LANE_OFS.CELLS g i = twos 12 (x / 256) := by
  refine ⟨(Dev.get_set _ _ _ _ _ (by decide)).trans (Nat.mod_eq_of_lt (twos_lt 8 x)), ?_⟩
  refine (Dev.get_set_beside _ WLS_LANE_OFS 0 8 12 12 _ _ _ (by decide)).trans ?_
  exact (Dev.get_set _ _ _ _ _ (by decide)).trans (Nat.mod_eq_of_lt (twos_lt 12 (x / 256)))

theorem Dev.word_setLaneOfs_of_ne (d : Dev) (g : Grp) {i j : HeadIx} (h : j ≠ i) (x : Int) :
    (d.setLaneOfs g j x).word WLS_LANE_OFS g i = d.word WLS_LANE_OFS g i := by
  have hne : (⟨WLS_LANE_OFS.key, g, j⟩ : RKey) ≠ ⟨WLS_LANE_OFS.key, g, i⟩ := RKey.ne_of_j fun e => h (Fin.ext e)
  exact (Dev.word_set_of_ne _ _ _ _ _ _ _ _ hne).trans (Dev.word_set_of_ne _ _ _ _ _ _ _ _ hne)

/-- The offsets of a group rescaled by the cells of two zones. -/
def Dev.rescale (d : Dev) (g : Grp) (new old : Nat) : Dev :=
  d.each (List.finRange 8) fun i d => d.setLaneOfs g i (roundDiv (d.laneOfs g i * new) old)

theorem Dev.rescale_scales (d : Dev) (g : Grp) (new old : Nat) (i : HeadIx) :
    (d.rescale g new old).get WLS_LANE_OFS.FINE g i = twos 8 (roundDiv (d.laneOfs g i * new) old) ∧
      (d.rescale g new old).get WLS_LANE_OFS.CELLS g i = twos 12 (roundDiv (d.laneOfs g i * new) old / 256) := by
  obtain ⟨e, he, heach⟩ := Dev.each_once (fun d => d.word WLS_LANE_OFS g i) (List.nodup_finRange 8) (List.mem_finRange i)
    (fun i d => d.setLaneOfs g i (roundDiv (d.laneOfs g i * new) old))
    (fun j hj d => Dev.word_setLaneOfs_of_ne d g hj _) d
  have hofs : e.laneOfs g i = d.laneOfs g i := by
    unfold Dev.laneOfs
    rw [Dev.get_of_word (f := WLS_LANE_OFS.CELLS) he, Dev.get_of_word (f := WLS_LANE_OFS.FINE) he]
  have hset := e.setLaneOfs_sets g i (roundDiv (e.laneOfs g i * new) old)
  rw [hofs] at hset
  refine ⟨(Dev.get_of_word (heach.trans ?_)).trans hset.1, (Dev.get_of_word (heach.trans ?_)).trans hset.2⟩ <;>
    exact congrArg (fun x => (e.setLaneOfs g i (roundDiv (x * new) old)).word WLS_LANE_OFS g i) hofs

theorem Dev.loopSt_rescale (d : Dev) (g : Grp) (new old : Nat) : (d.rescale g new old).loopSt g = d.loopSt g :=
  Dev.each_keeps (Dev.loopSt · g) _ _ (fun _ _ => Dev.loopSt_setLaneOfs ..) d

/-- The group's synthesizer is in a zone. -/
def Dev.toZone (d : Dev) (g : Grp) (z : Nat) : Dev := d.onWls g fun w => { w with zone := z, frac := Vector.replicate 8 0 }

theorem Dev.regs_toZone (d : Dev) (g : Grp) (z : Nat) : (d.toZone g z).regs = d.regs := rfl

theorem Dev.loopSt_toZone (d : Dev) (g : Grp) (z : Nat) : (d.toZone g z).loopSt g = { d.loopSt g with zone := z } := by
  simp only [Dev.toZone, Dev.loopSt, Dev.wls_onWls, getElem_upd]
  rfl

/-- A seek of a synthesizer that runs to another zone completes with ACQUIRE at the rescaled ratio, and the heaters' orders. -/
theorem completes_wlsZoneChange {s : State} {g : Grp} {z : Nat} {P : Dev → Prop} (hc : s.dev.clocked (14 + g) = true)
    (hz : s.dev.wls[g].zone ≠ z) (hlen : z < s.dev.zones[g].length) (hold : (s.dev.zone g s.dev.wls[g].zone).cpr ≠ 0)
    (hst : s.dev.get WLS_STATUS.STATE g ≠ 0)
    (h : ∀ t, t.synthView = (((s.dev.rescale g (s.dev.zone g z).cpr (s.dev.zone g s.dev.wls[g].zone).cpr).toZone g z).acquire g
      (freeDiv (s.dev.ratio g * (s.dev.zone g z).cpr) (s.dev.zone g s.dev.wls[g].zone).cpr)).synthView → P t) :
    Completes (.wlsZoneChange g z) s P := by
  refine completes_of_runIn rfl hc ?_
  extract_lets old new r rescaled moved acquired
  rw [if_neg (by omega)]
  refine h _ ((Dev.synthView_each _ _ (fun _ _ => Dev.synthView_orderHeater ..) _).trans ?_)
  have hrescaled : rescaled = s.dev.rescale g new old := by
    simp only [rescaled, Dev.rescale, show old ≠ 0 from hold, if_false]
  have hstate : moved.wlsState g = s.dev.wlsState g := by
    have hmoved : moved.loopSt g = { rescaled.loopSt g with zone := z } := rescaled.loopSt_toZone g z
    rw [hrescaled, Dev.loopSt_rescale] at hmoved
    exact congrArg LoopSt.state hmoved
  have hrun : (moved.wlsState g == wsOff) = false := by
    rw [hstate]
    exact beq_eq_false_iff_ne.mpr hst
  have hr : r = freeDiv (s.dev.ratio g * new) old := if_neg hold
  have hmoved : moved = (s.dev.rescale g new old).toZone g z := by rw [← hrescaled, Dev.toZone]
  have hacquired : acquired = moved.acquire g r := if_neg (by rw [hrun]; decide)
  rw [hacquired, hmoved, hr]

theorem wlsZoneChange_rescales (s : State) (g : Grp) (z : Nat) (old new : Int) (hc : s.dev.clocked (14 + g) = true)
    (hz : s.dev.wls[g].zone ≠ z) (hlen : z < s.dev.zones[g].length) (hold : (s.dev.zone g s.dev.wls[g].zone).cpr = old)
    (hnew : (s.dev.zone g z).cpr = new) (hpos : old ≠ 0) (hst : s.dev.get WLS_STATUS.STATE g ≠ 0) :
    Completes (.wlsZoneChange g z) s fun t =>
      t.get WLS_STATUS.STATE g = 1 ∧ t.wls[g].zone = z ∧
      (t.ratio g : Int) = clamp 0 (2 ^ 40 - 1) (freeDiv (s.dev.ratio g * new) old) ∧
      ∀ i : HeadIx, t.get WLS_LANE_OFS.FINE g i = twos 8 (roundDiv (s.dev.laneOfs g i * new) old) ∧
        t.get WLS_LANE_OFS.CELLS g i = twos 12 (roundDiv (s.dev.laneOfs g i * new) old / 256) := by
  subst hold hnew
  refine completes_wlsZoneChange hc hz hlen (Nat.cast_ne_zero.mp hpos) hst fun t hview => ?_
  generalize hmoved : (s.dev.rescale g _ _).toZone g z = moved at hview
  generalize freeDiv _ _ = r at hview ⊢
  obtain ⟨hratio, -, hofs⟩ := moved.acquire_leaves g r
  have hloop : t.loopSt g = (moved.loopSt g).acquire := (Dev.loopSt_of_synthView hview g).trans (moved.loopSt_acquire g r)
  have hzone : (moved.loopSt g).zone = z := by
    rw [← hmoved, Dev.loopSt_toZone]
  refine ⟨congrArg LoopSt.state hloop, (congrArg LoopSt.zone hloop).trans hzone, ?_, fun i => ?_⟩
  · rw [Dev.ratio_of_synthView hview, hratio, toNat_clamp_ratio]
  · have hword : t.word WLS_LANE_OFS g i = (s.dev.rescale g _ _).word WLS_LANE_OFS g i :=
      (Dev.word_of_wordsOf (congrArg Prod.fst hview) (by decide) _ _).trans
        ((hofs i).trans (Dev.word_of_regs (hmoved ▸ Dev.regs_toZone ..) _ _ _))
    obtain ⟨hfine, hcells⟩ := s.dev.rescale_scales g (s.dev.zone g z).cpr (s.dev.zone g s.dev.wls[g].zone).cpr i
    exact ⟨(Dev.get_of_word hword).trans hfine, (Dev.get_of_word hword).trans hcells⟩

/-- Settles O20: each command's part of R131, R133 and R134; a wedge's are read off from what it makes of a synthesizer's state,
counts and cell grid. -/
theorem wlsStates : Obligations.WlsStates := by
  unfold Obligations.WlsStates
  exact ⟨wlsEnable_acquires, wlsDisable_stops, wlsWedge_acquires, wlsWedge_locked, wlsWedge_loses, wlsWedge_finds,
    wlsZoneChange_rescales⟩

end Sys2Proof.Machine
end

section
/-! SUPPORT. The control-store window past its last word (R25, R159). -/
namespace Sys2Proof.Machine

/-- A device in ACTIVE whose islands run and whose lane 0 has a head. -/
def pastStore : State :=
  { pending := []
    dev := (((({} : Dev).setWord SYS_ISLAND_EN 0x3FFFFF).setWord SYS_ISLAND_STATUS 0x3FFFFF).set SYS_MODE.MODE 6).set
      FMT_LANES.PRESENT 255 0 }

/-- Word 0xC0000 lies past the window's 0x4000 words: its part 0 is LANE_CTRL of lane 0, and no register stands at its part 3. -/
theorem pastStore_parts :
    storeAt 0xC0000 (0 : Fin 3) = LANE_CTRL.at 0 ∧ regAt (storeAt 0xC0000 3) = none ∧
      pastStore.dev.takes .control (storeAt 0xC0000 (0 : Fin 3)) = true := by decide +kernel

/-- Refutes O24: the statement bounds no word. At word 0xC0000 a write of part 0 passes the tests of R628, as one of LANE_CTRL,
but the commit of part 3 is to an address that names nothing: it is refused with UNMAPPED, not with LOCKED. -/
theorem not_controlStoreWindow : ¬ Obligations.ControlStoreWindow := by
  unfold Obligations.ControlStoreWindow
  rintro ⟨h, -⟩
  obtain ⟨-, hcommit⟩ := h pastStore .control 0xC0000 0 0 pastStore_parts.2.2 (by decide +kernel)
    (.inr ⟨by decide, by decide +kernel, fun hm => absurd hm.1 (by decide +kernel)⟩)
  exact absurd (of_completes_run rfl hcommit).2 (by decide +kernel)

end Sys2Proof.Machine
end

section
/-! SUPPORT. Heaters and write gates (R139, R147): what an order to a head's heater and a gate that falls leave alone. -/
namespace Sys2Proof.Machine

/-- An observation that no order to a head's heater and no gate that falls changes. -/
structure Dev.Cool {β : Type} (φ : Dev → β) : Prop where
  limit : ∀ d i, φ (d.raise WLS_INT_STATUS.HTR_LIMIT i) = φ d
  onWls : ∀ d g f, φ (d.onWls g f) = φ d
  out : ∀ (d : Dev) l, φ { d with out := l } = φ d

/-- Every word but WLS_INT_STATUS's is one. -/
theorem Dev.cool_word {r : Reg} (h : WLS_INT_STATUS.key ≠ r.key) (i j : Nat) : Dev.Cool fun d => d.word r i j :=
  ⟨fun _ _ => Dev.word_set_of_key _ _ _ _ _ _ _ _ h, fun _ _ _ => rfl, fun _ _ => rfl⟩

/-- So are the units beside the write path's own. -/
theorem Dev.cool_units : Dev.Cool fun d => (d.fmt, d.tok, d.arms) := ⟨fun _ _ => rfl, fun _ _ _ => rfl, fun _ _ => rfl⟩

section
variable {β : Type} {φ : Dev → β} (h : Dev.Cool φ)
include h

theorem Dev.Cool.nextFrame (d : Dev) (g : Grp) : φ (d.nextFrame g) = φ d := by
  unfold Dev.nextFrame
  dsimp only
  split
  · rfl
  split
  · rfl
  · exact h.onWls ..

theorem Dev.Cool.setHeater (d : Dev) (g : Grp) (i : HeadIx) (wr : Bool) (cls : Nat) : φ (d.setHeater g i wr cls) = φ d := by
  unfold Dev.setHeater
  extract_lets want lim warned code dropped
  have hwarned : φ warned = φ d := Dev.when_keeps φ _ _ (h.limit d g)
  have hdropped : φ dropped = φ d := (h.onWls ..).trans hwarned
  split
  · exact hwarned
  split
  · exact hdropped
  · exact (h.nextFrame ..).trans ((h.onWls ..).trans hdropped)

theorem Dev.Cool.orderHeater (d : Dev) (g : Grp) (i : HeadIx) (cls : Nat) : φ (d.orderHeater g i cls) = φ d := h.setHeater ..

theorem Dev.Cool.gateDown (d : Dev) (n : LaneId) : φ (d.gateDown n) = φ d := by
  have hburst : φ (d.endBurst n) = φ d := by
    unfold Dev.endBurst
    dsimp only
    split
    · exact h.out ..
    · rfl
  unfold Dev.gateDown
  split
  · exact (h.nextFrame ..).trans ((h.onWls ..).trans hburst)
  · rfl

end

/-! ### Arms that a trap or a disable drops (R176, R179) -/

/-- One lane's part of it. -/
def Dev.clearLane (d : Dev) (g : Grp) (i : HeadIx) : Dev :=
  let n := laneOf g i
  let wrote := d.writeArmed g i
  let lost := (d.arms[n].filter Arm.ecc).length
  let d := ((d.onArms n fun _ => []).onFmt g fun f => { f with verdicts := f.verdicts - lost }).gateDown n
  d.when wrote (·.orderHeater g i 4)

/-- What of a sequencer a lane that is cleared and a change of its tokens leave. -/
def Fmt.bare (f : Fmt) : Fmt := { f with verdicts := 0, tokensWait := false }

/-- A lane is cleared with the heater's and the gate's observations kept. -/
theorem Dev.Cool.clearLane {β : Type} {φ : Dev → β} (h : Dev.Cool φ) (d : Dev) (g : Grp) (i : HeadIx) :
    φ (d.clearLane g i) = φ ((d.onArms (laneOf g i) fun _ => []).onFmt g fun f =>
      { f with verdicts := f.verdicts - (d.arms[laneOf g i].filter Arm.ecc).length }) :=
  (Dev.when_keeps φ _ (·.orderHeater g i 4) (h.orderHeater ..)).trans (h.gateDown ..)

theorem Dev.arms_clearLane (d : Dev) (g : Grp) (i : HeadIx) : (d.clearLane g i).arms = upd d.arms (laneOf g i) fun _ => [] :=
  congrArg (fun x => x.2.2) (Dev.cool_units.clearLane d g i)

theorem Dev.word_clearLane (d : Dev) (g : Grp) (i : HeadIx) {r : Reg} (h : WLS_INT_STATUS.key ≠ r.key) (k j : Nat) :
    (d.clearLane g i).word r k j = d.word r k j := (Dev.cool_word h k j).clearLane d g i

theorem Dev.bare_clearLane (d : Dev) (g : Grp) (i : HeadIx) : (d.clearLane g i).fmt[g].bare = d.fmt[g].bare := by
  have hfmt := congrArg Prod.fst (Dev.cool_units.clearLane d g i)
  simp only [Dev.fmt_onFmt] at hfmt
  rw [hfmt, getElem_upd]
  rfl

/-- The lanes of the group once each is cleared. -/
def Dev.clearLanes (d : Dev) (g : Grp) : Dev := d.each (List.finRange 8) fun i d => d.clearLane g i

theorem Dev.clearLanes_keeps {β : Type} (φ : Dev → β) (g : Grp) (h : ∀ i d, φ (d.clearLane g i) = φ d) (d : Dev) :
    φ (d.clearLanes g) = φ d := Dev.each_keeps φ _ _ h d

theorem Dev.arms_clearLanes (d : Dev) (g : Grp) (i : HeadIx) : (d.clearLanes g).arms[laneOf g i] = [] := by
  have hothers : ∀ k, k ≠ i → ∀ d : Dev, (d.clearLane g k).arms[laneOf g i] = d.arms[laneOf g i] := fun k hk d => by
    rw [Dev.arms_clearLane, getElem_upd_of_ne _ _ _ _ (laneOf_ne (Ne.symm hk))]
  obtain ⟨e, -, heach⟩ := Dev.each_once (fun d => d.arms[laneOf g i]) (List.nodup_finRange 8) (List.mem_finRange i)
    (fun i d => d.clearLane g i) hothers d
  unfold Dev.clearLanes
  rw [heach, Dev.arms_clearLane, getElem_upd]

theorem Dev.clearArms_eq (d : Dev) (g : Grp) : d.clearArms g = ((d.clearLanes g).dropTokens g).withdrawTokens g := rfl

/-- No arm of the group is left. -/
theorem Dev.arms_clearArms (d : Dev) (g : Grp) (i : HeadIx) : (d.clearArms g).arms[laneOf g i] = [] := by
  have hlane := d.arms_clearLanes g i
  rw [Dev.clearArms_eq]
  generalize d.clearLanes g = e at hlane
  exact hlane

/-- The group's tokens are back. -/
theorem Dev.tok_clearArms (d : Dev) (g : Grp) : (d.clearArms g).tok.held[g] = 0 ∧ (d.clearArms g).tok.extra[g] = 0 := by
  rw [Dev.clearArms_eq]
  generalize d.clearLanes g = d
  exact ⟨Vector.getElem_set_self .., Vector.getElem_set_self ..⟩

/-- Every register beside the write path's two is as it was. -/
theorem Dev.word_clearArms (d : Dev) (g : Grp) {r : Reg} (h : r.key ∉ [WLS_INT_STATUS.key, WTA_CFG.key]) (i j : Nat) :
    (d.clearArms g).word r i j = d.word r i j := by
  simp only [List.mem_cons, List.not_mem_nil, or_false, not_or] at h
  have hlanes := Dev.clearLanes_keeps (fun d => d.word r i j) g (fun k d => Dev.word_clearLane d g k (Ne.symm h.1) i j) d
  rw [Dev.clearArms_eq]
  generalize d.clearLanes g = e at hlanes
  exact (Dev.word_set_of_key _ WTA_CFG.IN_USE _ _ _ _ _ _ (Ne.symm h.2)).trans hlanes

theorem Dev.bare_clearArms (d : Dev) (g : Grp) : (d.clearArms g).fmt[g].bare = d.fmt[g].bare := by
  have hlanes := Dev.clearLanes_keeps (fun d => d.fmt[g].bare) g (fun k d => Dev.bare_clearLane d g k) d
  rw [Dev.clearArms_eq]
  generalize d.clearLanes g = e at hlanes
  refine Eq.trans ?_ hlanes
  unfold Dev.withdrawTokens Dev.showWait
  rw [Dev.fmt_onFmt, getElem_upd]
  rfl

end Sys2Proof.Machine
end

section
/-! SUPPORT. Traps of a sequencer (R165, R174, R176, R182, R192). -/
namespace Sys2Proof.Machine

/-! ### Events to the scheduler (R182) -/

/-- An event changes the sequencer alone. -/
theorem Dev.fmtEvent_keeps {β : Type} (φ : Dev → β) {d : Dev} {g : Grp} (h : ∀ f, φ (d.onFmt g f) = φ d) (e : FmtEvt) :
    φ (d.fmtEvent g e) = φ d := by
  unfold Dev.fmtEvent
  extract_lets ends
  split
  · rfl
  · exact h _

/-- A request ends as failed once, and only while one runs. -/
theorem Dev.evts_fmtEvent_reqFailed (d : Dev) (g : Grp) (cause : Nat) : (d.fmtEvent g (.reqFailed cause)).fmt[g].evts =
    d.fmt[g].evts ++ if d.fmt[g].ended = true ∨ d.fmt[g].cur = none then [] else [.reqFailed cause] := by
  unfold Dev.fmtEvent
  simp only [Bool.true_and, Bool.or_eq_true, Option.isNone_iff_eq_none]
  split
  · rw [List.append_nil]
  · exact congrArg Fmt.evts (getElem_upd d.fmt g _)

/-! ### A trap (R176) -/

/-- The record of a trap. -/
def Dev.trapRecord (d : Dev) (g : Grp) (cause pc : Nat) : Dev :=
  ((d.set FMT_TRAP.CAUSE cause g).set FMT_TRAP.PC pc g).stamp FMT_TRAP.VALID FMT_TRAP.SEQ g

/-- The sequencer stops, with its interrupt. -/
def Dev.trapStop (d : Dev) (g : Grp) : Dev :=
  ((d.set FMT_STATUS.STATE fsTrapped g).onFmt g fun f =>
    { f with waiting := none, halting := false, single := false, ship := none }).raise FMT_INT_STATUS.TRAP g

/-- What follows in a trap once the arms are dropped and the request has ended. -/
def Dev.trapAt (d : Dev) (g : Grp) (cause pc : Nat) : Dev :=
  ((d.trapRecord g cause pc).trapStop g).event 0x03 31 [g, cause, pc]

theorem Dev.fmtTrap_eq (d : Dev) (g : Grp) (cause : Nat) :
    d.fmtTrap g cause = ((d.clearArms g).fmtEvent g (.reqFailed 1)).trapAt g cause (d.fmtPc g) := rfl

theorem Dev.trapRecord_shows (d : Dev) (g : Grp) {cause pc : Nat} (hc : cause < 16) (hpc : pc < 2 ^ 14) :
    (d.trapRecord g cause pc).get FMT_TRAP.VALID g = 1 ∧ (d.trapRecord g cause pc).get FMT_TRAP.CAUSE g = cause ∧
      (d.trapRecord g cause pc).get FMT_TRAP.PC g = pc ∧
      (d.trapRecord g cause pc).get FMT_TRAP.SEQ g = (d.get FMT_TRAP.SEQ g + 1) % 128 := by
  have hplace : pc < 16384 := hpc
  unfold Dev.trapRecord Dev.stamp nextTag
  refine ⟨?_, ?_, ?_, ?_⟩ <;>
    simp (disch := decide) [FMT_TRAP.VALID, FMT_TRAP.SEQ, FMT_TRAP.CAUSE, FMT_TRAP.PC, Dev.get_set, Dev.get_set_beside] <;>
    assumption

theorem Dev.trapStop_shows (d : Dev) (g : Grp) : let t := d.trapStop g
    t.get FMT_STATUS.STATE g = 4 ∧ t.get FMT_STATUS.PC g = d.get FMT_STATUS.PC g ∧ t.get FMT_INT_STATUS.TRAP g = 1 := by
  have hraise (f : Fld) (hf : f.reg = FMT_STATUS) : (d.trapStop g).get f g = (d.set FMT_STATUS.STATE fsTrapped g).get f g :=
    Dev.get_set_of_key _ _ _ _ _ _ _ _ (by rw [hf]; decide)
  exact ⟨(hraise _ rfl).trans (Dev.get_set _ _ _ _ _ (by decide)), (hraise _ rfl).trans (Dev.get_set_beside _ _ _ _ _ _ _ _ _ (by decide)),
    Dev.get_set _ _ _ _ _ (by decide)⟩

/-- A field of 14 bits. -/
theorem Dev.fmtPc_lt (d : Dev) (g : Grp) : d.fmtPc g < 2 ^ 14 := BitVec.isLt _

/-- An almanac event changes the almanac's registers alone. -/
theorem Dev.word_event (d : Dev) (cls kind : Nat) (vals : List Nat) (r : Reg) (i j : Nat) (h : r.key ∉ recordKeys) :
    (d.event cls kind vals).word r i j = d.word r i j := Dev.word_record _ _ _ _ _ _ h

/-- An almanac event leaves the sequencers, the tokens and the arms as they are. -/
theorem Dev.units_event (d : Dev) (cls kind : Nat) (vals : List Nat) :
    ((d.event cls kind vals).tok, (d.event cls kind vals).arms, (d.event cls kind vals).fmt) = (d.tok, d.arms, d.fmt) :=
  (congrArg (fun d : Dev => (d.tok, d.arms, d.fmt))
    (Dev.unlogged_record d (cls * 256 + Config.almEvent kind % 256) (fields32 vals)) :)

/-- The trapped sequencer: its address stays and the record names it. -/
theorem Dev.trapAt_shows (d : Dev) (g : Grp) {cause pc : Nat} (hc : cause < 16) (hpc : pc < 2 ^ 14) :
    let t := d.trapAt g cause pc
    t.get FMT_STATUS.STATE g = 4 ∧ t.get FMT_STATUS.PC g = d.get FMT_STATUS.PC g ∧ t.get FMT_TRAP.VALID g = 1 ∧
      t.get FMT_TRAP.CAUSE g = cause ∧ t.get FMT_TRAP.PC g = pc ∧
      t.get FMT_TRAP.SEQ g = (d.get FMT_TRAP.SEQ g + 1) % 128 ∧ t.get FMT_INT_STATUS.TRAP g = 1 := by
  intro t
  obtain ⟨hvalid, hcause, hat, htag⟩ := d.trapRecord_shows g hc hpc
  have hkept : (d.trapRecord g cause pc).get FMT_STATUS.PC g = d.get FMT_STATUS.PC g := by
    unfold Dev.trapRecord Dev.stamp
    simp (disch := decide) only [Dev.get_set_of_key]
  generalize hnoted : d.trapRecord g cause pc = noted at hvalid hcause hat htag hkept
  obtain ⟨hstate, hplace, htrap⟩ := noted.trapStop_shows g
  have hstop (f : Fld) (hf : f.reg.key ∉ recordKeys) : t.get f g = (noted.trapStop g).get f g := by
    unfold t Dev.trapAt
    rw [hnoted]
    exact Dev.get_of_word (Dev.word_event _ _ _ _ _ _ _ hf)
  have hrecord (f : Fld) (hf : f.reg = FMT_TRAP) : t.get f g = noted.get f g :=
    (hstop f (by rw [hf]; decide)).trans <| (Dev.get_set_of_key _ _ _ _ _ _ _ _ (by rw [hf]; decide)).trans
      (Dev.get_set_of_key noted FMT_STATUS.STATE _ _ _ _ _ _ (by rw [hf]; decide))
  exact ⟨(hstop _ (by decide)).trans hstate, (hstop _ (by decide)).trans (hplace.trans hkept),
    (hrecord _ rfl).trans hvalid, (hrecord _ rfl).trans hcause, (hrecord _ rfl).trans hat, (hrecord _ rfl).trans htag,
    (hstop _ (by decide)).trans htrap⟩

/-- The record and the stop leave tokens, arms and events alone. -/
theorem Dev.units_trapAt (d : Dev) (g : Grp) (cause pc : Nat) : let t := d.trapAt g cause pc
    t.tok = d.tok ∧ t.arms = d.arms ∧ t.fmt[g].evts = d.fmt[g].evts := by
  intro t
  obtain ⟨htok, hunits⟩ := Prod.mk.inj (((d.trapRecord g cause pc).trapStop g).units_event 0x03 31 [g, cause, pc])
  obtain ⟨harms, hfmt⟩ := Prod.mk.inj hunits
  refine ⟨htok, harms, ?_⟩
  have hevts : t.fmt[g] = _ := (congrArg (·[g]) hfmt).trans (getElem_upd d.fmt g _)
  rw [hevts]

/-- An event leaves registers, tokens and arms alone. -/
theorem Dev.units_fmtEvent (d : Dev) (g : Grp) (e : FmtEvt) : let t := d.fmtEvent g e
    t.regs = d.regs ∧ t.tok = d.tok ∧ t.arms = d.arms := by
  have h : ((d.fmtEvent g e).regs, (d.fmtEvent g e).tok, (d.fmtEvent g e).arms) = (d.regs, d.tok, d.arms) :=
    Dev.fmtEvent_keeps (fun d => (d.regs, d.tok, d.arms)) (fun _ => rfl) e
  simpa using h

/-- A trap stops the sequencer at its word, with the record, the tokens back, no arm, and a request that runs failed. -/
theorem Dev.fmtTrap_stops (d : Dev) (g : Grp) {cause : Nat} (hc : cause < 16) : let t := d.fmtTrap g cause
    t.get FMT_STATUS.STATE g = 4 ∧ t.get FMT_STATUS.PC g = d.get FMT_STATUS.PC g ∧ t.get FMT_TRAP.VALID g = 1 ∧
      t.get FMT_TRAP.CAUSE g = cause ∧ t.get FMT_TRAP.PC g = d.get FMT_STATUS.PC g ∧
      t.get FMT_TRAP.SEQ g = (d.get FMT_TRAP.SEQ g + 1) % 128 ∧ t.get FMT_INT_STATUS.TRAP g = 1 ∧
      t.tok.held[g] = 0 ∧ t.tok.extra[g] = 0 ∧ (∀ i : HeadIx, t.arms[laneOf g i] = []) ∧
      t.fmt[g].evts = d.fmt[g].evts ++
        (if d.fmt[g].ended = true ∨ d.fmt[g].cur = none then [] else [.reqFailed 1]) := by
  have hget (f : Fld) (hf : f.reg.key ∉ [WLS_INT_STATUS.key, WTA_CFG.key]) : (d.clearArms g).get f g = d.get f g :=
    Dev.get_of_word (d.word_clearArms g hf g 0)
  have hseq := hget FMT_TRAP.SEQ (by decide)
  have hpc := hget FMT_STATUS.PC (by decide)
  obtain ⟨hheld, hextra⟩ := d.tok_clearArms g
  have harms := d.arms_clearArms g
  have hbare := d.bare_clearArms g
  rw [Dev.fmtTrap_eq]
  generalize d.clearArms g = cleared at hseq hpc hheld hextra harms hbare
  have hevts := cleared.evts_fmtEvent_reqFailed g 1
  rw [show cleared.fmt[g].evts = d.fmt[g].evts from (congrArg Fmt.evts hbare :),
    show cleared.fmt[g].ended = d.fmt[g].ended from (congrArg Fmt.ended hbare :),
    show cleared.fmt[g].cur = d.fmt[g].cur from (congrArg Fmt.cur hbare :)] at hevts
  obtain ⟨hregs, htok, harm⟩ := cleared.units_fmtEvent g (.reqFailed 1)
  generalize cleared.fmtEvent g (.reqFailed 1) = ended at hevts hregs htok harm
  obtain ⟨hstate, hplace, hvalid, hcause, hat, htag, htrap⟩ := ended.trapAt_shows g hc (d.fmtPc_lt g)
  obtain ⟨htok', harms', hevts'⟩ := ended.units_trapAt g cause (d.fmtPc g)
  intro t
  refine ⟨hstate, ?_, hvalid, hcause, hat, ?_, htrap, ?_, ?_, fun i => ?_, hevts'.trans hevts⟩
  · rw [hplace, Dev.get_of_regs hregs, hpc]
  · rw [htag, Dev.get_of_regs hregs, hseq]
  · rw [htok', htok, hheld]
  · rw [htok', htok, hextra]
  · rw [harms', harm, harms]

/-! ### The three traps -/

/-- Where no error is injected a fetch sees its own outcome. -/
theorem Dev.checkedAs_of_none {d : Dev} {site : Nat} (h : d.injecting site = none) (e : EccIn) : d.checkedAs site e = e := by
  unfold Dev.checkedAs
  rw [h]

/-- A step at a word that is not shipped, fetched without an error (R165, R169, R191). -/
def Dev.ownStep (d : Dev) (g : Grp) (w : MicroWord) (late : Bool) : Dev :=
  if mwIllegal w (d.mode == .makerService) then d.fmtTrap g 1
  else if mwArms w && d.armStall g (d.fmtMask g w) then d
  else if 0x3800 ≤ d.fmtPc g ∧ !(d.mode == .makerService) ∧ mwCustRule w then d.fmtTrap g 3
  else d.issue g w late

/-- Where no shipped sequence takes the step: in the customer region, and at a word that begins none. -/
theorem Dev.shippedStep_eq_none (d : Dev) (g : Grp) (late : Bool) : d.shippedStep g late = none ↔
    0x3800 ≤ d.fmtPc g ∨ (d.fmt[g].ship = none ∧ (d.cs.shipped (d.fmtPc g) = false ∨ 0x10 < d.fmtPc g)) := by
  unfold Dev.shippedStep
  by_cases hcust : 0x3800 ≤ d.fmtPc g
  · simp [hcust]
  · cases d.fmt[g].ship with
    | some x => simp [hcust]
    | none =>
      cases hship : d.cs.shipped (d.fmtPc g) with
      | false => simp [hcust, hship]
      | true => grind

/-- FMT_STEP at such a word. -/
theorem completes_fmtStep {s : State} {g : Grp} {late : Bool} {P : Dev → Prop} (hrun : s.dev.groupRuns g = true)
    (hstate : s.dev.get FMT_STATUS.STATE g = 2) (hinj : s.dev.injecting 200 = none) (hship : s.dev.shippedStep g false = none)
    (h : P (s.dev.ownStep g (s.dev.cs.word (s.dev.get FMT_STATUS.PC g)) late)) : Completes (.fmtStep g .ok late) s P := by
  refine completes_of_runGroup rfl hrun ?_
  have hstate : ¬ (s.dev.fmtState g != fsRun) = true := by simp [Dev.fmtState, hstate]
  rw [if_neg hstate]
  simp only [Dev.checkedAs_of_none hinj]
  rw [if_neg (by decide), if_neg (by decide), (Dev.shippedStep_eq_none ..).mpr ((Dev.shippedStep_eq_none ..).mp hship)]
  exact h

/-- WAIT_TIMEOUT of a sequencer that waits, but not in REQUEST. -/
theorem completes_waitTimeout {s : State} {g : Grp} {w : MicroWord} {P : Dev → Prop} (hrun : s.dev.groupRuns g = true)
    (hstate : s.dev.get FMT_STATUS.STATE g = 3) (hw : s.dev.fmt[g].waiting = some w) (hreq : mwWait w ≠ 7)
    (h : P (s.dev.fmtTrap g 5)) : Completes (.waitTimeout g) s P := by
  refine completes_of_runGroup rfl hrun ?_
  rw [hw]
  exact cast (congrArg P (if_pos (by simp [Dev.fmtState, hstate, hreq])).symm) h

/-- HOOK_BUDGET_EXPIRY of a hook that runs outside MAKER_SERVICE. -/
theorem completes_hookBudgetExpiry {s : State} {g : Grp} {P : Dev → Prop} (hrun : s.dev.groupRuns g = true)
    (hhook : s.dev.fmt[g].hook.isSome = true) (hmode : s.dev.mode ≠ .makerService)
    (hstate : s.dev.get FMT_STATUS.STATE g = 2 ∨ s.dev.get FMT_STATUS.STATE g = 3) (h : P (s.dev.fmtTrap g 6)) :
    Completes (.hookBudgetExpiry g) s P := by
  refine completes_of_runGroup rfl hrun ?_
  exact cast (congrArg P (if_pos (by simp [Dev.fmtState, hhook, hmode, hstate, -Fin.getElem_fin])).symm) h

/-- Settles O26: each of the three commands is a trap at the word that its sequencer stands at. -/
theorem sequencerTraps : Obligations.SequencerTraps := by
  unfold Obligations.SequencerTraps
  intro s g P hrun
  refine ⟨fun hstate hinj hship hill late => ?_, fun w hstate hw hreq => ?_, fun hhook hmode hstate => ?_⟩
  · refine completes_fmtStep hrun hstate hinj hship ?_
    rw [Dev.ownStep, if_pos hill]
    exact s.dev.fmtTrap_stops g (by decide)
  · exact completes_waitTimeout hrun hstate hw hreq (s.dev.fmtTrap_stops g (by decide))
  · exact completes_hookBudgetExpiry hrun hhook hmode hstate (s.dev.fmtTrap_stops g (by decide))

end Sys2Proof.Machine
end

section
/-! SUPPORT. The end of a step or of a wait (R166, R175, R177). -/
namespace Sys2Proof.Machine

/-! ### Events and interrupts of a word (R181) -/

/-- What a word emits changes the sequencer's events and UEVT alone. -/
theorem Dev.emit_keeps {β : Type} (φ : Dev → β) {g : Grp} (hevt : ∀ d e, φ (d.fmtEvent g e) = φ d)
    (hirq : ∀ d m, φ (d.orBits FMT_INT_STATUS.UEVT m g) = φ d) (d : Dev) (w : MicroWord) : φ (d.emit g w) = φ d := by
  unfold Dev.emit
  extract_lets told
  have htold : φ told = φ d := by
    unfold told
    split
    · exact hevt ..
    · rfl
  split
  · exact (hirq ..).trans htold
  · exact htold

theorem Dev.fmt_onFmt_self (d : Dev) (g : Grp) (f : Fmt → Fmt) : (d.onFmt g f).fmt[g] = f d.fmt[g] := getElem_upd ..

/-- What of a sequencer an event leaves. -/
def Fmt.unsaid (f : Fmt) : Fmt := { f with evts := [], ended := false }

theorem Dev.unsaid_fmtEvent (d : Dev) (g : Grp) (e : FmtEvt) : (d.fmtEvent g e).fmt[g].unsaid = d.fmt[g].unsaid := by
  unfold Dev.fmtEvent
  extract_lets ends
  split
  · rfl
  · exact (congrArg Fmt.unsaid (d.fmt_onFmt_self g _)).trans rfl

theorem Dev.unsaid_emit (d : Dev) (g : Grp) (w : MicroWord) : (d.emit g w).fmt[g].unsaid = d.fmt[g].unsaid :=
  Dev.emit_keeps (fun d => d.fmt[g].unsaid) (fun d e => d.unsaid_fmtEvent g e) (fun _ _ => rfl) d w

theorem Dev.word_emit (d : Dev) (g : Grp) (w : MicroWord) {r : Reg} (h : FMT_INT_STATUS.key ≠ r.key) (i j : Nat) :
    (d.emit g w).word r i j = d.word r i j :=
  Dev.emit_keeps (fun d => d.word r i j)
    (fun _ e => Dev.fmtEvent_keeps (fun d => d.word r i j) (fun _ => rfl) e) (fun _ _ => Dev.word_set_of_key _ _ _ _ _ _ _ _ h) d w

/-! ### Going on to an address -/

/-- The sequencer goes on to an address, the word's events emitted. -/
def Dev.carryOn (d : Dev) (g : Grp) (w : MicroWord) (pc : Nat) : Dev :=
  (((d.emit g w).set FMT_STATUS.PC pc g).set FMT_STATUS.STATE fsRun g).onFmt g fun f => { f with waiting := none }

/-- A wait on verdicts that has ended latches its conditions. -/
def Dev.latched (d : Dev) (g : Grp) (w : MicroWord) : Dev := d.when (mwWait w == 4) (·.latchVerdict g)

/-- A completion whose lead is an address goes on to it, and halts there with the word or on an order. -/
theorem Dev.complete_go {d : Dev} {g : Grp} {w : MicroWord} {branch : Bool} {pc : Nat}
    (h : (if branch then (d.latched g w).lead g w else .go ((d.latched g w).fmtPc g)) = .go pc) :
    d.complete g w branch = let t := (d.latched g w).carryOn g w pc
      if mwHalt w || t.fmt[g].halting || t.fmt[g].single then t.fmtHalt g else t := by
  unfold Dev.complete
  dsimp only
  rw [show (if branch = true then Dev.lead (d.when (mwWait w == 4) (·.latchVerdict g)) g w
    else .go ((d.when (mwWait w == 4) (·.latchVerdict g)).fmtPc g)) = .go pc from h]
  rfl

theorem Dev.regs_latched (d : Dev) (g : Grp) (w : MicroWord) : (d.latched g w).regs = d.regs :=
  Dev.when_keeps Dev.regs _ (·.latchVerdict g) rfl

/-- The orders to halt stand as they were. -/
theorem Dev.orders_carryOn (d : Dev) (g : Grp) (w : MicroWord) (pc : Nat) :
    (d.carryOn g w pc).fmt[g].waiting = none ∧ (d.carryOn g w pc).fmt[g].halting = d.fmt[g].halting ∧
      (d.carryOn g w pc).fmt[g].single = d.fmt[g].single := by
  have hsaid := d.unsaid_emit g w
  have hfmt : (d.carryOn g w pc).fmt[g] = { (d.emit g w).fmt[g] with waiting := none } := Dev.fmt_onFmt_self ..
  rw [hfmt]
  exact ⟨rfl, (congrArg Fmt.halting hsaid :), (congrArg Fmt.single hsaid :)⟩

theorem Dev.orders_latched (d : Dev) (g : Grp) (w : MicroWord) :
    (d.latched g w).fmt[g].halting = d.fmt[g].halting ∧ (d.latched g w).fmt[g].single = d.fmt[g].single := by
  have h : ((d.latched g w).fmt[g].halting, (d.latched g w).fmt[g].single) = (d.fmt[g].halting, d.fmt[g].single) :=
    Dev.when_keeps (fun d => (d.fmt[g].halting, d.fmt[g].single)) _ (·.latchVerdict g) (by rw [Dev.latchVerdict, Dev.fmt_onFmt_self])
  exact Prod.mk.inj h

theorem Dev.status_carryOn (d : Dev) (g : Grp) (w : MicroWord) {pc : Nat} (hpc : pc < 2 ^ 14) :
    (d.carryOn g w pc).get FMT_STATUS.STATE g = 2 ∧ (d.carryOn g w pc).get FMT_STATUS.PC g = pc := by
  refine ⟨Dev.get_set _ _ _ _ _ (by decide), ?_⟩
  refine (Dev.get_set_beside _ FMT_STATUS 29 3 0 14 _ _ _ (by decide)).trans ?_
  exact (Dev.get_set _ _ _ _ _ (by decide)).trans (Nat.mod_eq_of_lt hpc)

/-- A halt shows HALTED at the address where the sequencer stands. -/
theorem Dev.fmtHalt_shows (d : Dev) (g : Grp) : (d.fmtHalt g).get FMT_STATUS.STATE g = 1 ∧
    (d.fmtHalt g).get FMT_STATUS.PC g = d.get FMT_STATUS.PC g ∧ (d.fmtHalt g).get FMT_INT_STATUS.HALTED g = 1 := by
  have hraise (f : Fld) (hf : f.reg = FMT_STATUS) : (d.fmtHalt g).get f g = (d.set FMT_STATUS.STATE fsHalted g).get f g :=
    Dev.get_set_of_key _ _ _ _ _ _ _ _ (by rw [hf]; decide)
  exact ⟨(hraise _ rfl).trans (Dev.get_set _ _ _ _ _ (by decide)),
    (hraise _ rfl).trans (Dev.get_set_beside _ FMT_STATUS 29 3 0 14 _ _ _ (by decide)), Dev.get_set _ _ _ _ _ (by decide)⟩

/-- A halt request that ends a wait leaves the sequencer halted at the word that waited (R177). -/
theorem Dev.complete_halts {d : Dev} {g : Grp} (h : d.fmt[g].halting = true) (w : MicroWord) :
    (d.complete g w false).get FMT_STATUS.STATE g = 1 ∧
      (d.complete g w false).get FMT_STATUS.PC g = d.get FMT_STATUS.PC g ∧
      (d.complete g w false).get FMT_INT_STATUS.HALTED g = 1 := by
  have hpc : (d.latched g w).fmtPc g = d.get FMT_STATUS.PC g := Dev.get_of_regs (d.regs_latched g w) _ _ _
  have hhalt := (((d.latched g w).orders_carryOn g w (d.get FMT_STATUS.PC g)).2.1).trans ((d.orders_latched g w).1.trans h)
  have hat := ((d.latched g w).status_carryOn g w (d.fmtPc_lt g)).2
  rw [Dev.complete_go (if_neg (by decide)), hpc]
  dsimp only
  rw [if_pos (by rw [hhalt]; simp)]
  obtain ⟨hstate, hstay, hint⟩ := ((d.latched g w).carryOn g w (d.get FMT_STATUS.PC g)).fmtHalt_shows g
  exact ⟨hstate, hstay.trans hat, hint⟩

end Sys2Proof.Machine
end

section
/-! SUPPORT. Writes of FMT_CTRL (R177 to R179, R632). -/
namespace Sys2Proof.Machine

/-! ### Single bits of a written word -/

theorem getLsbD_withField_self (v : Word) {k : Nat} (code : Nat) (hk : k < 32) :
    (withField v k 1 code).getLsbD k = code.testBit 0 := by
  rw [withField_eq_put FMT_CTRL, Fld.getLsbD_put _ _ _ _ (show k + 1 ≤ 32 from hk) hk]
  simp

theorem getLsbD_withField_of_ne (v : Word) {k lo : Nat} (code : Nat) (hlo : lo < 32) (hk : k < 32) (h : k ≠ lo) :
    (withField v lo 1 code).getLsbD k = v.getLsbD k := by
  rw [withField_eq_put FMT_CTRL, Fld.getLsbD_put _ _ _ _ (show lo + 1 ≤ 32 from hlo) hk]
  exact if_neg (by dsimp only; omega)

/-- A bit of a field that is 0. -/
theorem getLsbD_of_bits_eq_zero {v : Word} {lo n : Nat} (h : bits v lo n = 0) {k : Nat} (hk : lo ≤ k ∧ k < lo + n) :
    v.getLsbD k = false := by
  have hbit := congrArg (Nat.testBit · (k - lo)) h
  have hin : k - lo < n := by omega
  simpa only [bits, BitVec.testBit_toNat, BitVec.getLsbD_extractLsb', hin, decide_true, Bool.true_and, Nat.zero_testBit,
    Nat.add_sub_cancel' hk.1] using hbit

/-! ### The fields of a written FMT_CTRL -/

/-- FMT_CTRL with EN and START_ADDR written. -/
def Dev.ctrlFields (d : Dev) (g : Grp) (v : Word) : Dev :=
  (d.set FMT_CTRL.START_ADDR (bits v 16 14) g).set FMT_CTRL.EN (bits v 0 1) g

theorem Dev.fmtCtrlWrite_eq (d : Dev) (who : Who) (g : Grp) (v : Word) : d.fmtCtrlWrite who g v =
    ((((d.ctrlFields g v).fmtEnWrite g (d.on FMT_CTRL.EN g) (v.getLsbD 0)).when (v.getLsbD 1) (·.fmtStartWrite who g)).when
      (v.getLsbD 2) (·.fmtHaltWrite g)).when (v.getLsbD 3) (·.fmtStepWrite who g) := rfl

theorem Dev.en_ctrlFields (d : Dev) (g : Grp) (v : Word) : (d.ctrlFields g v).get FMT_CTRL.EN g = (v.getLsbD 0).toNat := by
  rw [Dev.ctrlFields, Dev.get_set _ _ _ _ _ (by decide), bits_eq_of FMT_CTRL, Fld.of_bit]
  exact Nat.mod_eq_of_lt (Bool.toNat_lt _)

theorem Dev.start_ctrlFields (d : Dev) (g : Grp) (v : Word) :
    (d.ctrlFields g v).get FMT_CTRL.START_ADDR g = FMT_CTRL.START_ADDR.of v := by
  refine (Dev.get_set_beside _ FMT_CTRL 0 1 16 14 _ _ _ (by decide)).trans ?_
  exact (Dev.get_set _ _ _ _ _ (by decide)).trans (Nat.mod_eq_of_lt (BitVec.isLt _))

theorem Dev.word_ctrlFields (d : Dev) (g : Grp) (v : Word) {r : Reg} (h : FMT_CTRL.key ≠ r.key) (i j : Nat) :
    (d.ctrlFields g v).word r i j = d.word r i j :=
  (Dev.word_set_of_key _ _ _ _ _ _ _ _ h).trans (Dev.word_set_of_key _ _ _ _ _ _ _ _ h)

theorem Dev.get_ctrlFields (d : Dev) (g : Grp) (v : Word) {f : Fld} (h : FMT_CTRL.key ≠ f.reg.key) (i j : Nat) :
    (d.ctrlFields g v).get f i j = d.get f i j := Dev.get_of_word (d.word_ctrlFields g v h i j)

theorem Dev.mode_ctrlFields (d : Dev) (g : Grp) (v : Word) : (d.ctrlFields g v).mode = d.mode :=
  Dev.mode_of_word (d.word_ctrlFields g v (by decide) _ _)

/-- EN unchanged stops and starts nothing. -/
theorem Dev.fmtEnWrite_same (d : Dev) (g : Grp) (b : Bool) : d.fmtEnWrite g b b = d := by cases b <;> rfl

theorem Dev.fmtEnWrite_rise (d : Dev) (g : Grp) : d.fmtEnWrite g false true = d.set FMT_STATUS.STATE fsHalted g := rfl

/-! ### A write that is taken -/

@[simp] theorem Dev.fmt_endSnaps (d : Dev) (who : Who) (a : Nat) : (d.endSnaps who a).fmt = d.fmt := by
  unfold Dev.endSnaps
  split <;> rfl

section
variable {s : State} {who : Who} {g : Grp} {w : Word} {P : Dev → Prop}

/-- A command that writes FMT_CTRL completes with what the write leaves of a device with the same registers and sequencers. -/
theorem completes_fmtCtrl {i : Instr} (ht : s.dev.takes who (FMT_CTRL.at g) = true)
    (hi : exec i s = s.run fun d => d.tryWrite who (FMT_CTRL.at g) fun d => d.fmtCtrlWrite who g w)
    (h : ∀ d : Dev, d.regs = s.dev.regs → d.fmt = s.dev.fmt → P (d.fmtCtrlWrite who g w)) : Completes i s P := by
  refine completes_of_run hi ?_
  rw [Dev.tryWrite_takes _ _ _ _ ht]
  exact h _ (Dev.regs_endSnaps ..) (Dev.fmt_endSnaps ..)

end

/-! ### EN (R178, R179) -/

theorem fmtEnable_halts (s : State) (who : Who) (g : Grp) (v : Word) (ht : s.dev.takes who (FMT_CTRL.at g) = true)
    (hen : s.dev.get FMT_CTRL.EN g = 0) (hv : bits v 1 3 = 0) : Completes (.fmtEnable who g v) s fun t =>
      t.get FMT_CTRL.EN g = 1 ∧ t.get FMT_STATUS.STATE g = 1 ∧ t.get FMT_STATUS.PC g = s.dev.get FMT_STATUS.PC g := by
  refine completes_fmtCtrl ht rfl fun d hregs _ => ?_
  have hold : d.on FMT_CTRL.EN g = false := by rw [Dev.on, Dev.get_of_regs hregs, hen]; rfl
  have hset : (withField v 0 1 1).getLsbD 0 = true := getLsbD_withField_self v 1 (by decide)
  have hbit (k : Nat) (hk : 1 ≤ k ∧ k < 4) : (withField v 0 1 1).getLsbD k = false :=
    (getLsbD_withField_of_ne v 1 (by decide) (by omega) (by omega)).trans (getLsbD_of_bits_eq_zero hv hk)
  have hwrite : d.fmtCtrlWrite who g (withField v 0 1 1) = (d.ctrlFields g (withField v 0 1 1)).set FMT_STATUS.STATE fsHalted g := by
    rw [Dev.fmtCtrlWrite_eq, hold, hset, hbit 1 (by decide), hbit 2 (by decide), hbit 3 (by decide)]
    rfl
  rw [hwrite]
  refine ⟨?_, Dev.get_set _ _ _ _ _ (by decide), ?_⟩
  · rw [Dev.get_set_of_key _ _ _ _ _ _ _ _ (by decide), Dev.en_ctrlFields, hset]
    rfl
  · refine (Dev.get_set_beside _ FMT_STATUS 29 3 0 14 _ _ _ (by decide)).trans ?_
    exact (Dev.get_ctrlFields _ _ _ (f := FMT_STATUS.PC) (by decide) _ _).trans (Dev.get_of_regs hregs _ _ _)

/-- A disabled sequencer, whose arms are dropped and whose request has ended (R179). -/
theorem Dev.fmtOff_shows (d : Dev) (g : Grp) : (d.fmtOff g).get FMT_STATUS.STATE g = 0 ∧
    (∀ r i j, r.key ∉ [FMT_STATUS.key, WLS_INT_STATUS.key, WTA_CFG.key] → (d.fmtOff g).word r i j = d.word r i j) ∧
    (d.fmtOff g).tok.held[g] = 0 ∧ ∀ i : HeadIx, (d.fmtOff g).arms[laneOf g i] = [] := by
  have hword := fun (r : Reg) (i j : Nat) hr => d.word_clearArms g (r := r) hr i j
  obtain ⟨hheld, -⟩ := d.tok_clearArms g
  have harms := d.arms_clearArms g
  unfold Dev.fmtOff
  generalize d.clearArms g = cleared at hword hheld harms
  obtain ⟨hregs, htok, harm⟩ := cleared.units_fmtEvent g (.reqFailed 3)
  dsimp only
  generalize cleared.fmtEvent g (.reqFailed 3) = ended at hregs htok harm
  refine ⟨Dev.get_set _ _ _ _ _ (by decide), fun r i j hr => ?_, ?_, fun i => ?_⟩
  · simp only [List.mem_cons, not_or] at hr
    refine (Dev.word_set_of_key _ _ _ _ _ _ _ _ (Ne.symm hr.1)).trans ((Dev.word_of_regs hregs _ _ _).trans ?_)
    exact hword r i j (by simpa using hr.2)
  · show ended.tok.held[g] = 0
    rw [htok, hheld]
  · show ended.arms[laneOf g i] = []
    rw [harm, harms]

theorem fmtDisable_stops (s : State) (who : Who) (g : Grp) (v : Word) (ht : s.dev.takes who (FMT_CTRL.at g) = true)
    (hv : bits v 1 3 = 0) (hen : s.dev.get FMT_CTRL.EN g = 1) : Completes (.fmtDisable who g v) s fun t =>
      t.get FMT_CTRL.EN g = 0 ∧ t.get FMT_STATUS.STATE g = 0 ∧ t.word FMT_TRAP g = s.dev.word FMT_TRAP g ∧
      t.tok.held[g] = 0 ∧ ∀ i : HeadIx, t.arms[laneOf g i] = [] := by
  refine completes_fmtCtrl ht rfl fun d hregs _ => ?_
  have hold : d.on FMT_CTRL.EN g = true := by rw [Dev.on, Dev.get_of_regs hregs, hen]; rfl
  have hclear : (withField v 0 1 0).getLsbD 0 = false := getLsbD_withField_self v 0 (by decide)
  have hbit (k : Nat) (hk : 1 ≤ k ∧ k < 4) : (withField v 0 1 0).getLsbD k = false :=
    (getLsbD_withField_of_ne v 0 (by decide) (by omega) (by omega)).trans (getLsbD_of_bits_eq_zero hv hk)
  have hwrite : d.fmtCtrlWrite who g (withField v 0 1 0) = (d.ctrlFields g (withField v 0 1 0)).fmtOff g := by
    rw [Dev.fmtCtrlWrite_eq, hold, hclear, hbit 1 (by decide), hbit 2 (by decide), hbit 3 (by decide)]
    rfl
  rw [hwrite]
  obtain ⟨hstate, hword, hheld, harms⟩ := (d.ctrlFields g (withField v 0 1 0)).fmtOff_shows g
  refine ⟨?_, hstate, ?_, hheld, harms⟩
  · rw [Dev.get_of_word (hword FMT_CTRL g 0 (by decide)), Dev.en_ctrlFields, hclear]
    rfl
  · rw [hword _ _ _ (by decide), Dev.word_ctrlFields _ _ _ (by decide), Dev.word_of_regs hregs]

/-! ### START (R178, R632) -/

/-- A started sequencer. -/
theorem Dev.fmtStartAt_shows (d : Dev) (g : Grp) {a : Nat} (ha : a < 2 ^ 14) :
    (d.fmtStartAt g a).get FMT_STATUS.STATE g = 2 ∧ (d.fmtStartAt g a).get FMT_STATUS.PC g = a ∧
      (d.fmtStartAt g a).fmt[g].stack = [] ∧ (d.fmtStartAt g a).get FMT_TRAP.VALID g = 0 := by
  have ha' : a < 16384 := ha
  have hstack : (d.fmtStartAt g a).fmt[g].stack = [] := by
    refine (congrArg Fmt.stack (d.fmt_onFmt_self g _)).trans ?_
    rfl
  have hrun : fsRun < 8 := by decide
  refine ⟨?_, ?_, hstack, ?_⟩ <;> unfold Dev.fmtStartAt Dev.showStack <;>
    simp (disch := decide) [FMT_STATUS.STATE, FMT_STATUS.STACK, FMT_STATUS.PC, FMT_TRAP.VALID, Dev.get_set, Dev.get_set_beside,
      Dev.get_set_of_key] <;> assumption

/-- What a START goes by: EN, the state and the mode as EN's own change leaves them, and the address written. -/
theorem Dev.fmtStartWrite_of {d : Dev} {g : Grp} (who : Who) (a : Nat) (ha : d.get FMT_CTRL.START_ADDR g = a)
    (hen : d.get FMT_CTRL.EN g = 1) : d.fmtStartWrite who g =
      if d.get FMT_STATUS.STATE g = 2 ∨ d.get FMT_STATUS.STATE g = 3 ∨ (a ≠ 0x10 ∧ d.mode ≠ .makerService)
        then d.refuse who FMT_CTRL g 0 .locked else d.fmtStartAt g a := by
  unfold Dev.fmtStartWrite Dev.fmtState Dev.on
  rw [ha, hen]
  refine if_congr ?_ rfl rfl
  simp [or_assoc]

section
variable {s : State} {who : Who} {g : Grp} {v : Word}

/-- A write with START and EN, without HALT_REQ and STEP. -/
theorem Dev.fmtCtrlWrite_start (d : Dev) (who : Who) (g : Grp) (hset : v.getLsbD 0 = true) (hv : bits v 2 2 = 0) :
    d.fmtCtrlWrite who g (withField v 1 1 1) =
      (((d.ctrlFields g (withField v 1 1 1)).fmtEnWrite g (d.on FMT_CTRL.EN g) true).fmtStartWrite who g) := by
  have hen : (withField v 1 1 1).getLsbD 0 = true := (getLsbD_withField_of_ne v 1 (by decide) (by decide) (by decide)).trans hset
  have hgo : (withField v 1 1 1).getLsbD 1 = true := getLsbD_withField_self v 1 (by decide)
  have hbit (k : Nat) (hk : 2 ≤ k ∧ k < 4) : (withField v 1 1 1).getLsbD k = false :=
    (getLsbD_withField_of_ne v 1 (by decide) (by omega) (by omega)).trans (getLsbD_of_bits_eq_zero hv hk)
  rw [Dev.fmtCtrlWrite_eq, hen, hgo, hbit 2 (by decide), hbit 3 (by decide)]
  rfl

/-- EN and START_ADDR as such a write leaves them. -/
theorem Dev.ctrlFields_start (d : Dev) (g : Grp) (hset : v.getLsbD 0 = true) :
    (d.ctrlFields g (withField v 1 1 1)).get FMT_CTRL.EN g = 1 ∧
      (d.ctrlFields g (withField v 1 1 1)).get FMT_CTRL.START_ADDR g = FMT_CTRL.START_ADDR.of v := by
  refine ⟨?_, (Dev.start_ctrlFields ..).trans (of_withField_beside FMT_CTRL v 1 (by decide))⟩
  rw [Dev.en_ctrlFields, getLsbD_withField_of_ne v 1 (by decide) (by decide) (by decide), hset]
  rfl

theorem fmtStart_runs (s : State) (who : Who) (g : Grp) (v : Word) (ht : s.dev.takes who (FMT_CTRL.at g) = true)
    (hset : v.getLsbD 0 = true) (hv : bits v 2 2 = 0) (ha : FMT_CTRL.START_ADDR.of v = 0x10 ∨ s.dev.mode = .makerService)
    (hidle : s.dev.get FMT_CTRL.EN g = 0 ∨ (s.dev.get FMT_STATUS.STATE g ≠ 2 ∧ s.dev.get FMT_STATUS.STATE g ≠ 3)) :
    Completes (.fmtStart who g v) s fun t =>
      t.get FMT_STATUS.STATE g = 2 ∧ t.get FMT_STATUS.PC g = FMT_CTRL.START_ADDR.of v ∧ t.fmt[g].stack = [] ∧
      t.get FMT_TRAP.VALID g = 0 := by
  refine completes_fmtCtrl ht rfl fun d hregs _ => ?_
  obtain ⟨hen, haddr⟩ := d.ctrlFields_start g hset
  have hmode : (d.ctrlFields g (withField v 1 1 1)).mode = s.dev.mode :=
    (Dev.mode_ctrlFields ..).trans (Dev.mode_of_word (Dev.word_of_regs hregs _ _ _))
  have hstate : (d.ctrlFields g (withField v 1 1 1)).get FMT_STATUS.STATE g = s.dev.get FMT_STATUS.STATE g :=
    (Dev.get_ctrlFields _ _ _ (f := FMT_STATUS.STATE) (by decide) _ _).trans (Dev.get_of_regs hregs _ _ _)
  have hstarts : d.fmtCtrlWrite who g (withField v 1 1 1) =
      ((d.ctrlFields g (withField v 1 1 1)).fmtEnWrite g (d.on FMT_CTRL.EN g) true).fmtStartAt g (FMT_CTRL.START_ADDR.of v) := by
    rw [Dev.fmtCtrlWrite_start d who g hset hv]
    generalize d.ctrlFields g (withField v 1 1 1) = e at hen haddr hmode hstate
    have hbeside (f : Fld) (hf : FMT_STATUS.key ≠ f.reg.key) : (e.set FMT_STATUS.STATE fsHalted g).get f g = e.get f g :=
      Dev.get_set_of_key _ _ _ _ _ _ _ _ hf
    cases hold : d.on FMT_CTRL.EN g with
    | false =>
      have hhalted : (e.set FMT_STATUS.STATE fsHalted g).get FMT_STATUS.STATE g = 1 := Dev.get_set _ _ _ _ _ (by decide)
      have hsame : (e.set FMT_STATUS.STATE fsHalted g).mode = s.dev.mode :=
        (Dev.mode_of_word (Dev.word_set_of_key _ _ _ _ _ _ _ _ (by decide))).trans hmode
      rw [Dev.fmtEnWrite_rise, Dev.fmtStartWrite_of who _ ((hbeside FMT_CTRL.START_ADDR (by decide)).trans haddr)
        ((hbeside FMT_CTRL.EN (by decide)).trans hen), hhalted, hsame]
      exact if_neg (by simpa [or_iff_not_imp_left] using ha)
    | true =>
      have hwas : s.dev.get FMT_CTRL.EN g ≠ 0 := by
        rw [← Dev.get_of_regs hregs]
        simpa [Dev.on] using hold
      rw [Dev.fmtEnWrite_same, Dev.fmtStartWrite_of who _ haddr hen, hstate, hmode]
      have := hidle.resolve_left hwas
      exact if_neg (by simpa [this, or_iff_not_imp_left] using ha)
  rw [hstarts]
  exact Dev.fmtStartAt_shows _ g (BitVec.isLt _)

theorem fmtStart_refused (s : State) (who : Who) (g : Grp) (v : Word) (ht : s.dev.takes who (FMT_CTRL.at g) = true)
    (hset : v.getLsbD 0 = true) (hv : bits v 2 2 = 0) (hen : s.dev.get FMT_CTRL.EN g = 1)
    (hvalid : s.dev.get SYS_BUS_ERR_INFO.VALID = 0)
    (hbusy : (FMT_CTRL.START_ADDR.of v ≠ 0x10 ∧ s.dev.mode ≠ .makerService) ∨ s.dev.get FMT_STATUS.STATE g = 2 ∨
      s.dev.get FMT_STATUS.STATE g = 3) :
    Completes (.fmtStart who g v) s fun t => t.word FMT_STATUS g = s.dev.word FMT_STATUS g ∧
      t.get SYS_BUS_ERR_INFO.CAUSE = 5 := by
  refine completes_fmtCtrl ht rfl fun d hregs _ => ?_
  obtain ⟨hnow, haddr⟩ := d.ctrlFields_start g hset
  have hold : d.on FMT_CTRL.EN g = true := by rw [Dev.on, Dev.get_of_regs hregs, hen]; rfl
  have hword (r : Reg) (hr : FMT_CTRL.key ≠ r.key) (i : Nat) : (d.ctrlFields g (withField v 1 1 1)).word r i = s.dev.word r i :=
    (Dev.word_ctrlFields _ _ _ hr _ _).trans (Dev.word_of_regs hregs _ _ _)
  rw [Dev.fmtCtrlWrite_start d who g hset hv, hold, Dev.fmtEnWrite_same]
  generalize d.ctrlFields g (withField v 1 1 1) = e at hnow haddr hword
  have hstate : e.get FMT_STATUS.STATE g = s.dev.get FMT_STATUS.STATE g := Dev.get_of_word (hword FMT_STATUS (by decide) g)
  have hmode : e.mode = s.dev.mode := Dev.mode_of_word (hword SYS_MODE (by decide) 0)
  have hfree : e.get SYS_BUS_ERR_INFO.VALID = 0 := (Dev.get_of_word (hword SYS_BUS_ERR_INFO (by decide) 0)).trans hvalid
  rw [Dev.fmtStartWrite_of who _ haddr hnow, hstate, hmode, if_pos (by tauto)]
  obtain ⟨-, -, -, hcause, -⟩ := Dev.records_capture hfree who (FMT_CTRL.at g 0) true .locked
  exact ⟨(Dev.word_capture_of_key _ _ _ _ _ _ _ _ (by decide) (by decide)).trans (hword _ (by decide) _), hcause⟩

end

/-! ### HALT_REQ and STEP (R177) -/

/-- A write of one of HALT_REQ and STEP with EN as it was, without START and the other. -/
theorem Dev.fmtCtrlWrite_order {d : Dev} {g : Grp} {v : Word} (who : Who) (k : Nat) (hk : k = 2 ∨ k = 3) (hset : v.getLsbD 0 = true)
    (hold : d.on FMT_CTRL.EN g = true) (hstart : v.getLsbD 1 = false) (hother : v.getLsbD (5 - k) = false) :
    d.fmtCtrlWrite who g (withField v k 1 1) = let e := d.ctrlFields g (withField v k 1 1)
      if k = 2 then e.fmtHaltWrite g else e.fmtStepWrite who g := by
  have hbit (m : Nat) (hm : m < 4) (hne : m ≠ k) : (withField v k 1 1).getLsbD m = v.getLsbD m :=
    getLsbD_withField_of_ne v 1 (by omega) (by omega) hne
  have hself : (withField v k 1 1).getLsbD k = true := getLsbD_withField_self v 1 (by omega)
  rw [Dev.fmtCtrlWrite_eq, hold, hbit 0 (by decide) (by omega), hset, Dev.fmtEnWrite_same, hbit 1 (by decide) (by omega), hstart]
  obtain rfl | rfl := hk
  · rw [hself, hbit 3 (by decide) (by decide), hother]
    rfl
  · rw [hself, hbit 2 (by decide) (by decide), hother]
    rfl

/-- The sequencer with a halt request that its state takes. -/
def Dev.haltAsked (d : Dev) (g : Grp) : Dev :=
  d.onFmt g fun f => { f with halting := d.fmtState g == fsRun || d.fmtState g == fsWait }

theorem Dev.waiting_haltAsked (d : Dev) (g : Grp) : (d.haltAsked g).fmt[g].waiting = d.fmt[g].waiting :=
  (congrArg Fmt.waiting (d.fmt_onFmt_self g _)).trans rfl

theorem Dev.halting_haltAsked (d : Dev) {g : Grp} (h : d.get FMT_STATUS.STATE g = 2 ∨ d.get FMT_STATUS.STATE g = 3) :
    (d.haltAsked g).fmt[g].halting = true := by
  refine (congrArg Fmt.halting (d.fmt_onFmt_self g _)).trans ?_
  simpa [Dev.fmtState] using h

theorem Dev.groupRuns_of_words {d t : Dev} {g : Grp} (h : ∀ r i, FMT_CTRL.key ≠ r.key → t.word r i = d.word r i) :
    t.groupRuns g = d.groupRuns g := by
  have hrun : t.get SYS_ISLAND_STATUS.RUN = d.get SYS_ISLAND_STATUS.RUN := Dev.get_of_word (h _ _ (by decide))
  have hclock : t.get WLS_STATUS.STATE g = d.get WLS_STATUS.STATE g := Dev.get_of_word (h _ _ (by decide))
  unfold Dev.groupRuns Dev.clocked
  rw [hrun, hclock]

theorem Dev.fmtHaltWrite_eq (d : Dev) (g : Grp) : d.fmtHaltWrite g = match d.fmt[g].waiting with
    | some w => if d.fmtState g == fsWait && d.groupRuns g then (d.haltAsked g).complete g w false else d.haltAsked g
    | none => d.haltAsked g := by
  unfold Dev.fmtHaltWrite
  rw [← d.waiting_haltAsked g]
  rfl

section
variable {s : State} {who : Who} {g : Grp} {v : Word} (ht : s.dev.takes who (FMT_CTRL.at g) = true) (hset : v.getLsbD 0 = true)
  (hen : s.dev.get FMT_CTRL.EN g = 1) (hstart : v.getLsbD 1 = false)
include ht hset hen hstart

/-- HALT_REQ completes with what the request leaves of a device whose sequencer and group are as they were. -/
theorem completes_haltReq (hstep : v.getLsbD 3 = false) {P : Dev → Prop}
    (h : ∀ d : Dev, (∀ r i j, FMT_CTRL.key ≠ r.key → d.word r i j = s.dev.word r i j) → d.fmt = s.dev.fmt →
      P (d.fmtHaltWrite g)) : Completes (.haltReq who g v) s P := by
  refine completes_fmtCtrl ht rfl fun d hregs hfmt => ?_
  rw [Dev.fmtCtrlWrite_order who 2 (.inl rfl) hset (by rw [Dev.on, Dev.get_of_regs hregs, hen]; rfl) hstart hstep]
  exact h (d.ctrlFields g (withField v 2 1 1))
    (fun r i j hr => (Dev.word_ctrlFields _ _ _ hr _ _).trans (Dev.word_of_regs hregs _ _ _)) hfmt

theorem haltReq_whileRunning (hstep : v.getLsbD 3 = false) (hrun : s.dev.get FMT_STATUS.STATE g = 2)
    (hw : s.dev.fmt[g].waiting = none) :
    Completes (.haltReq who g v) s fun t => t.fmt[g].halting = true ∧ t.get FMT_STATUS.STATE g = 2 := by
  refine completes_haltReq ht hset hen hstart hstep fun d hword hfmt => ?_
  have hstate : d.get FMT_STATUS.STATE g = 2 := (Dev.get_of_word (hword _ _ _ (by decide))).trans hrun
  rw [Dev.fmtHaltWrite_eq, show d.fmt[g].waiting = none by rw [hfmt, hw]]
  exact ⟨d.halting_haltAsked (.inl hstate), hstate⟩

theorem haltReq_endsWait (hstep : v.getLsbD 3 = false) {w : MicroWord} (hwait : s.dev.get FMT_STATUS.STATE g = 3)
    (hw : s.dev.fmt[g].waiting = some w) (hruns : s.dev.groupRuns g = true) :
    Completes (.haltReq who g v) s fun t => t.get FMT_STATUS.STATE g = 1 ∧
      t.get FMT_STATUS.PC g = s.dev.get FMT_STATUS.PC g ∧ t.get FMT_INT_STATUS.HALTED g = 1 := by
  refine completes_haltReq ht hset hen hstart hstep fun d hword hfmt => ?_
  have hstate : d.get FMT_STATUS.STATE g = 3 := (Dev.get_of_word (hword _ _ _ (by decide))).trans hwait
  have hends : d.fmtHaltWrite g = (d.haltAsked g).complete g w false := by
    rw [Dev.fmtHaltWrite_eq, show d.fmt[g].waiting = some w by rw [hfmt, hw]]
    exact if_pos (by rw [Dev.fmtState, hstate, Dev.groupRuns_of_words fun r i hr => hword r i 0 hr, hruns]; rfl)
  obtain ⟨hhalted, hplace, hint⟩ := Dev.complete_halts (d.halting_haltAsked (g := g) (.inr hstate)) w
  rw [hends]
  exact ⟨hhalted, hplace.trans (Dev.get_of_word (hword FMT_STATUS g 0 (by decide))), hint⟩

theorem haltReq_waits (hstep : v.getLsbD 3 = false) {w : MicroWord} (hwait : s.dev.get FMT_STATUS.STATE g = 3)
    (hw : s.dev.fmt[g].waiting = some w) (hruns : s.dev.groupRuns g = false) :
    Completes (.haltReq who g v) s fun t => t.get FMT_STATUS.STATE g = 3 ∧ t.fmt[g].halting = true ∧
      t.fmt[g].waiting = some w := by
  refine completes_haltReq ht hset hen hstart hstep fun d hword hfmt => ?_
  have hstate : d.get FMT_STATUS.STATE g = 3 := (Dev.get_of_word (hword _ _ _ (by decide))).trans hwait
  have hsome : d.fmt[g].waiting = some w := by rw [hfmt, hw]
  have hstays : d.fmtHaltWrite g = d.haltAsked g := by
    rw [Dev.fmtHaltWrite_eq, hsome]
    exact if_neg (by rw [Dev.groupRuns_of_words fun r i hr => hword r i 0 hr, hruns]; simp)
  rw [hstays]
  exact ⟨hstate, d.halting_haltAsked (.inr hstate), (d.waiting_haltAsked g).trans hsome⟩

theorem singleStep_runs (hhalt : v.getLsbD 2 = false) (hmode : s.dev.mode = .makerService)
    (hhalted : s.dev.get FMT_STATUS.STATE g = 1) :
    Completes (.fmtSingleStep who g v) s fun t => t.get FMT_STATUS.STATE g = 2 ∧ t.fmt[g].single = true := by
  refine completes_fmtCtrl ht rfl fun d hregs _ => ?_
  rw [Dev.fmtCtrlWrite_order who 3 (.inr rfl) hset (by rw [Dev.on, Dev.get_of_regs hregs, hen]; rfl) hstart hhalt]
  have hword (r : Reg) (hr : FMT_CTRL.key ≠ r.key) (i : Nat) : (d.ctrlFields g (withField v 3 1 1)).word r i = s.dev.word r i :=
    (Dev.word_ctrlFields _ _ _ hr _ _).trans (Dev.word_of_regs hregs _ _ _)
  dsimp only
  rw [if_neg (by decide)]
  generalize d.ctrlFields g (withField v 3 1 1) = e at hword
  have hmaker : e.mode = .makerService := (Dev.mode_of_word (hword SYS_MODE (by decide) 0)).trans hmode
  have hstate : e.get FMT_STATUS.STATE g = 1 := (Dev.get_of_word (hword FMT_STATUS (by decide) g)).trans hhalted
  have hsteps : e.fmtStepWrite who g = (e.set FMT_STATUS.STATE fsRun g).onFmt g fun f => { f with single := true } := by
    unfold Dev.fmtStepWrite Dev.fmtState
    rw [hmaker, hstate]
    rfl
  rw [hsteps]
  exact ⟨Dev.get_set _ _ _ _ _ (by decide), congrArg Fmt.single (Dev.fmt_onFmt_self (e.set FMT_STATUS.STATE fsRun g) g _)⟩

end

/-- Settles O27: each command is a write of FMT_CTRL with one order, whose effect is what the order makes of the sequencer. -/
theorem sequencerControl : Obligations.SequencerControl := by
  unfold Obligations.SequencerControl
  refine ⟨fmtEnable_halts, fmtStart_runs, fmtStart_refused, fun s who g v ht hset hstart hstep hen => ?_,
    fun s who g v ht hset hv hen hmode hhalted => ?_, fmtDisable_stops⟩
  · exact ⟨haltReq_whileRunning ht hset hen hstart hstep, fun _ => haltReq_endsWait ht hset hen hstart hstep,
      fun _ => haltReq_waits ht hset hen hstart hstep⟩
  · exact singleStep_runs ht hset hen (getLsbD_of_bits_eq_zero hv (by decide)) (getLsbD_of_bits_eq_zero hv (by decide)) hmode hhalted

end Sys2Proof.Machine
end

section
/-! SUPPORT. A step of a sequencer (R164 to R166, R175). -/
namespace Sys2Proof.Machine

/-! ### The branch (R175) -/

/-- What of a sequencer the branch conditions go by, beside its events and its wait. -/
def Fmt.judged (f : Fmt) : Fmt := { f.unsaid with waiting := none }

/-- The registers that the branch conditions go by. -/
def condKeys : List Nat :=
  [FMT_CNT01.key, FMT_CNT2.key, FMT_LANES.key, LANE_CTRL.key, FLT_FENCED_LANE.key, WLS_STATUS.key, FMT_CFG.key, SYS_MODE.key,
    SRV_STATUS.key]

/-- Devices that agree in what a branch condition goes by judge it alike. -/
theorem Dev.fmtCond_congr {d t : Dev} {g : Grp} (hw : ∀ r i j, r.key ∈ condKeys → t.word r i j = d.word r i j)
    (hf : t.fmt[g].judged = d.fmt[g].judged) (hu : (t.srv, t.zones, t.pwrfail) = (d.srv, d.zones, d.pwrfail)) (c : Nat) :
    t.fmtCond g c = d.fmtCond g c := by
  have hget (f : Fld) (hk : f.reg.key ∈ condKeys) (i j : Nat) : t.get f i j = d.get f i j := Dev.get_of_word (hw _ i j hk)
  obtain ⟨hsrv, hu⟩ := Prod.mk.inj hu
  obtain ⟨hzones, hpwr⟩ := Prod.mk.inj hu
  have hwrap : t.fmt[g].spWrap = d.fmt[g].spWrap := (congrArg Fmt.spWrap hf :)
  have hverdict : t.fmt[g].verdictFail = d.fmt[g].verdictFail := (congrArg Fmt.verdictFail hf :)
  have htag : t.fmt[g].tagFail = d.fmt[g].tagFail := (congrArg Fmt.tagFail hf :)
  have hmissed : t.fmt[g].slotMissed = d.fmt[g].slotMissed := (congrArg Fmt.slotMissed hf :)
  have hfail : t.fmt[g].wrFail = d.fmt[g].wrFail := (congrArg Fmt.wrFail hf :)
  have hcur : t.fmt[g].cur = d.fmt[g].cur := (congrArg Fmt.cur hf :)
  have hnext : t.fmt[g].next = d.fmt[g].next := (congrArg Fmt.next hf :)
  unfold Dev.fmtCond Dev.fmtCyl Dev.onCyl Dev.srvState Dev.sptAt Dev.zone Dev.zoneIx Dev.laneAlive Dev.hasHead Dev.laneOn Dev.mode
    Dev.on
  simp only [hwrap, hverdict, htag, hmissed, hfail, hcur, hnext, hsrv, hzones, hpwr]
  simp (disch := decide) only [hget]

/-- Going on to an address changes FMT_STATUS and the interrupts alone. -/
theorem Dev.word_carryOn (d : Dev) (g : Grp) (w : MicroWord) (pc : Nat) {r : Reg}
    (h : r.key ∉ [FMT_STATUS.key, FMT_INT_STATUS.key]) (i j : Nat) : (d.carryOn g w pc).word r i j = d.word r i j := by
  simp only [List.mem_cons, List.not_mem_nil, or_false, not_or] at h
  exact (Dev.word_set_of_key _ FMT_STATUS.STATE _ _ _ _ _ _ (Ne.symm h.1)).trans <|
    (Dev.word_set_of_key _ FMT_STATUS.PC _ _ _ _ _ _ (Ne.symm h.1)).trans (d.word_emit g w (Ne.symm h.2) i j)

theorem Dev.units_carryOn (d : Dev) (g : Grp) (w : MicroWord) (pc : Nat) :
    ((d.carryOn g w pc).srv, (d.carryOn g w pc).zones, (d.carryOn g w pc).pwrfail) = (d.srv, d.zones, d.pwrfail) ∧
      (d.carryOn g w pc).arms = d.arms :=
  ⟨Dev.emit_keeps (fun d => (d.srv, d.zones, d.pwrfail))
      (fun _ e => Dev.fmtEvent_keeps (fun d => (d.srv, d.zones, d.pwrfail)) (fun _ => rfl) e) (fun _ _ => rfl) d w,
    Dev.emit_keeps Dev.arms (fun _ e => Dev.fmtEvent_keeps Dev.arms (fun _ => rfl) e) (fun _ _ => rfl) d w⟩

/-- The condition of a branch stands after it as it was judged. -/
theorem Dev.fmtCond_carryOn (d : Dev) (g : Grp) (w : MicroWord) (pc c : Nat) : (d.carryOn g w pc).fmtCond g c = d.fmtCond g c := by
  refine Dev.fmtCond_congr (fun r i j hr => d.word_carryOn g w pc ?_ i j) ?_ (d.units_carryOn g w pc).1 c
  · intro hmem
    simp only [List.mem_cons, List.not_mem_nil, or_false] at hmem
    obtain h | h := hmem <;> rw [h] at hr <;> exact absurd hr (by decide)
  · have hsaid := d.unsaid_emit g w
    have hfmt : (d.carryOn g w pc).fmt[g] = { (d.emit g w).fmt[g] with waiting := none } := Dev.fmt_onFmt_self ..
    rw [hfmt]
    exact (congrArg (fun f : Fmt => { f with waiting := none }) hsaid :)

/-- Where a branch leads: to NEXT_ADDR, or to the word after this one. -/
def Dev.branchTo (d : Dev) (g : Grp) (w : MicroWord) : Nat :=
  if (d.fmtCond g (mwCond w) != mwInv w) = true then mwNext w else (d.get FMT_STATUS.PC g + 1) % 0x4000

theorem Dev.branchTo_lt (d : Dev) (g : Grp) (w : MicroWord) : d.branchTo g w < 2 ^ 14 := by
  unfold Dev.branchTo
  split
  · exact BitVec.isLt _
  · exact Nat.mod_lt _ (by decide)

/-- The lead of a branch in the Walrix region. -/
theorem Dev.lead_branch {d : Dev} {g : Grp} {w : MicroWord} (hpc : d.get FMT_STATUS.PC g < 0x3800) (hseq : mwSeq w = 0) :
    d.lead g w = .go (d.branchTo g w) := by
  have hwalrix : decide (0x3800 ≤ d.get FMT_STATUS.PC g) = false := decide_eq_false (by omega)
  unfold Dev.lead Dev.branchTo Dev.fmtPc
  simp only [hwalrix, hseq, Bool.false_and, Bool.false_eq_true, if_false]
  cases d.fmtCond g (mwCond w) <;> cases mwInv w <;> rfl

/-- The completion of a word of the Walrix region that branches and does not halt. -/
theorem Dev.complete_branch {d : Dev} {g : Grp} {w : MicroWord} (hpc : d.get FMT_STATUS.PC g < 0x3800) (hseq : mwSeq w = 0)
    (hhalt : mwHalt w = false) (hh : d.fmt[g].halting = false) (hs : d.fmt[g].single = false) :
    d.complete g w true = (d.latched g w).carryOn g w ((d.latched g w).branchTo g w) := by
  have hpc' : (d.latched g w).get FMT_STATUS.PC g < 0x3800 := by rwa [Dev.get_of_regs (d.regs_latched g w)]
  obtain ⟨-, hhalting, hsingle⟩ := (d.latched g w).orders_carryOn g w ((d.latched g w).branchTo g w)
  obtain ⟨hh', hs'⟩ := d.orders_latched g w
  rw [Dev.complete_go (pc := (d.latched g w).branchTo g w) ((if_pos rfl).trans (Dev.lead_branch hpc' hseq))]
  dsimp only
  rw [if_neg (by rw [hhalting, hsingle, hh', hs', hh, hs, hhalt]; decide)]

/-- Such a completion leaves the sequencer running at the word that the condition leads to. -/
theorem Dev.complete_runs {d : Dev} {g : Grp} {w : MicroWord} (hpc : d.get FMT_STATUS.PC g < 0x3800) (hseq : mwSeq w = 0)
    (hhalt : mwHalt w = false) (hh : d.fmt[g].halting = false) (hs : d.fmt[g].single = false) : let t := d.complete g w true
    t.get FMT_STATUS.STATE g = 2 ∧ t.fmt[g].waiting = none ∧
      t.get FMT_STATUS.PC g = (if (t.fmtCond g (mwCond w) != mwInv w) = true then mwNext w
        else (d.get FMT_STATUS.PC g + 1) % 0x4000) := by
  intro t
  have ht : t = (d.latched g w).carryOn g w ((d.latched g w).branchTo g w) := Dev.complete_branch hpc hseq hhalt hh hs
  obtain ⟨hstate, hplace⟩ := (d.latched g w).status_carryOn g w ((d.latched g w).branchTo_lt g w)
  rw [ht, Dev.fmtCond_carryOn]
  refine ⟨hstate, ((d.latched g w).orders_carryOn g w _).1, hplace.trans ?_⟩
  rw [Dev.branchTo, Dev.get_of_regs (d.regs_latched g w)]

/-! ### The arms of a step (R164, R166) -/

/-- An arm at each lane of a mask. -/
def Dev.putArms (d : Dev) (g : Grp) (mask : Nat) (a : Arm) : Dev :=
  d.each (headsOf mask) fun i d => d.onArms (laneOf g i) fun l => l ++ [a]

theorem mem_headsOf {mask : Nat} {i : HeadIx} : i ∈ headsOf mask ↔ bit mask i = true := by
  simp [headsOf]

theorem nodup_headsOf (mask : Nat) : (headsOf mask).Nodup := (List.nodup_finRange 8).filter _

theorem Dev.arms_putArms (d : Dev) (g : Grp) (mask : Nat) (a : Arm) (i : HeadIx) : (d.putArms g mask a).arms[laneOf g i] =
    if bit mask i = true then d.arms[laneOf g i] ++ [a] else d.arms[laneOf g i] := by
  have hothers (k : HeadIx) (hk : k ≠ i) (d : Dev) :
      (d.onArms (laneOf g k) fun l => l ++ [a]).arms[laneOf g i] = d.arms[laneOf g i] := by
    rw [Dev.arms_onArms, getElem_upd_of_ne _ _ _ _ (laneOf_ne (Ne.symm hk))]
  unfold Dev.putArms
  split
  next hin =>
    obtain ⟨e, he, heach⟩ := Dev.each_once (fun d => d.arms[laneOf g i]) (nodup_headsOf mask) (mem_headsOf.mpr hin)
      (fun i d => d.onArms (laneOf g i) fun l => l ++ [a]) hothers d
    rw [heach, Dev.arms_onArms, getElem_upd, he]
  next hout =>
    have hkeep : ∀ l : List HeadIx, i ∉ l → ∀ d : Dev,
        (d.each l fun i d => d.onArms (laneOf g i) fun l => l ++ [a]).arms[laneOf g i] = d.arms[laneOf g i] := by
      intro l
      unfold Dev.each
      induction l with
      | nil => exact fun _ _ => rfl
      | cons k t ih =>
        intro hl d
        rw [List.foldl_cons, ih fun h => hl (List.mem_cons_of_mem _ h)]
        exact hothers k (fun e => hl (e ▸ List.mem_cons_self ..)) d
    exact hkeep _ (fun h => hout (mem_headsOf.mp h)) d

theorem Dev.askTokens_keeps {β : Type} {φ : Dev → β} {g : Grp} (hwait : ∀ d, φ (d.showWait g) = φ d)
    (htok : ∀ d f, φ (d.onTok f) = φ d) (d : Dev) (mask cyl sect : Nat) : φ (d.askTokens ⟨g, mask, cyl, sect⟩) = φ d := by
  unfold Dev.askTokens
  split
  · exact hwait _
  · exact (hwait _).trans (htok ..)

/-- What follows the arms of a step is seen by no observation of theirs: the count of verdicts, the heaters, the tokens. -/
theorem Dev.Cool.armAll {β : Type} {φ : Dev → β} (h : Dev.Cool φ) {g : Grp}
    (hfmt : ∀ d n, φ (d.onFmt g fun f => { f with verdicts := f.verdicts + n }) = φ d) (hwait : ∀ d, φ (d.showWait g) = φ d)
    (htok : ∀ d f, φ (d.onTok f) = φ d) (d : Dev) (w : MicroWord) (mask : Nat) :
    φ (d.armAll g w mask) = if mwArms w = true then φ (d.putArms g mask (d.newArm g w)) else φ d := by
  unfold Dev.armAll
  cases harms : mwArms w with
  | false => rfl
  | true =>
    simp only [Bool.not_true, Bool.false_eq_true, if_false, if_true]
    rw [← Dev.putArms]
    generalize d.putArms g mask (d.newArm g w) = armed
    have hcounted : φ (if mwEcc w = true then
        armed.onFmt g fun f => { f with verdicts := f.verdicts + (headsOf mask).length } else armed) = φ armed := by
      split
      · exact hfmt ..
      · rfl
    refine Eq.trans ?_ hcounted
    split
    · exact (Dev.askTokens_keeps hwait htok _ _ _ _).trans (Dev.each_keeps φ _ _ (fun i d => h.setHeater d g i true 2) _)
    · rfl

theorem Dev.arms_armAll (d : Dev) (g : Grp) (w : MicroWord) (mask : Nat) (i : HeadIx) :
    (d.armAll g w mask).arms[laneOf g i] = if mwArms w = true ∧ bit mask i = true then
      d.arms[laneOf g i] ++ [d.newArm g w] else d.arms[laneOf g i] := by
  have hcool : Dev.Cool fun d : Dev => d.arms[laneOf g i] := ⟨fun _ _ => rfl, fun _ _ _ => rfl, fun _ _ => rfl⟩
  refine (hcool.armAll (fun _ _ => rfl) (fun _ => rfl) (fun _ _ => rfl) d w mask).trans ?_
  rw [Dev.arms_putArms, ite_and]

theorem Dev.word_armAll (d : Dev) (g : Grp) (w : MicroWord) (mask : Nat) {r : Reg} (h : WLS_INT_STATUS.key ≠ r.key) (i j : Nat) :
    (d.armAll g w mask).word r i j = d.word r i j := by
  refine ((Dev.cool_word h i j).armAll (fun _ _ => rfl) (fun _ => rfl) (fun _ _ => rfl) d w mask).trans ?_
  split
  · exact Dev.each_keeps (fun d => d.word r i j) (headsOf mask) (fun k d => d.onArms (laneOf g k) fun l => l ++ [_]) (fun _ _ => rfl) d
  · rfl

theorem Dev.bare_armAll (d : Dev) (g : Grp) (w : MicroWord) (mask : Nat) : (d.armAll g w mask).fmt[g].bare = d.fmt[g].bare := by
  have hcool : Dev.Cool fun d : Dev => d.fmt[g].bare := ⟨fun _ _ => rfl, fun _ _ _ => rfl, fun _ _ => rfl⟩
  have hfmt (d : Dev) (f : Fmt → Fmt) (hf : ∀ x, (f x).bare = x.bare) : (d.onFmt g f).fmt[g].bare = d.fmt[g].bare := by
    rw [Dev.fmt_onFmt_self, hf]
  refine (hcool.armAll (fun d _ => hfmt d _ fun _ => rfl) (fun d => hfmt d _ fun _ => rfl) (fun _ _ => rfl) d w mask).trans ?_
  split
  · exact Dev.each_keeps (fun d => d.fmt[g].bare) (headsOf mask) (fun k d => d.onArms (laneOf g k) fun l => l ++ [_]) (fun _ _ => rfl) d
  · rfl

/-! ### The counter and the sector pointer (R163) -/

theorem Dev.cntOp_keeps {β : Type} (φ : Dev → β) {g : Grp} {w : MicroWord} {d : Dev}
    (h : ∀ v, φ (d.set (cntFld (mwCntSel w)) v g) = φ d) : φ (d.cntOp g w) = φ d := by
  unfold Dev.cntOp
  dsimp only
  split
  · exact h _
  · exact h _
  · split <;> exact h _
  · rfl

theorem Dev.spOp_keeps {β : Type} (φ : Dev → β) {g : Grp} (hset : ∀ d v, φ (d.set FMT_CNT2.SP v g) = φ d)
    (hfmt : ∀ d b, φ (d.onFmt g fun f => { f with spWrap := b }) = φ d) (d : Dev) (w : MicroWord) (c2 : Nat) :
    φ (d.spOp g w c2) = φ d := by
  unfold Dev.spOp
  dsimp only
  split
  · exact (hfmt ..).trans (hset ..)
  · exact hset ..
  · exact hset ..
  · rfl

/-- A counter is one of the three 16-bit fields beside SP. -/
theorem cntFld_cases (sel : Nat) : cntFld sel = FMT_CNT01.C0 ∨ cntFld sel = FMT_CNT01.C1 ∨ cntFld sel = FMT_CNT2.C2 := by
  unfold cntFld
  split
  · exact .inl rfl
  split
  · exact .inr (.inl rfl)
  · exact .inr (.inr rfl)

theorem Dev.get_set_cntFld (d : Dev) (sel v : Nat) (g : Grp) : (d.set (cntFld sel) v g).get (cntFld sel) g = v % 2 ^ 16 := by
  obtain h | h | h := cntFld_cases sel <;> rw [h] <;> exact Dev.get_set _ _ _ _ _ (by decide)

theorem Dev.cntFld_set_sp (d : Dev) (sel v : Nat) (g : Grp) :
    (d.set FMT_CNT2.SP v g).get (cntFld sel) g = d.get (cntFld sel) g := by
  obtain h | h | h := cntFld_cases sel <;> rw [h]
  · exact Dev.get_set_of_key _ _ _ _ _ _ _ _ (by decide)
  · exact Dev.get_set_of_key _ _ _ _ _ _ _ _ (by decide)
  · exact Dev.get_set_beside _ FMT_CNT2 16 10 0 16 _ _ _ (by decide)

theorem Dev.sp_set_cntFld (d : Dev) (sel v : Nat) (g : Grp) :
    (d.set (cntFld sel) v g).get FMT_CNT2.SP g = d.get FMT_CNT2.SP g := by
  obtain h | h | h := cntFld_cases sel <;> rw [h]
  · exact Dev.get_set_of_key _ _ _ _ _ _ _ _ (by decide)
  · exact Dev.get_set_of_key _ _ _ _ _ _ _ _ (by decide)
  · exact Dev.get_set_beside _ FMT_CNT2 0 16 16 10 _ _ _ (by decide)

theorem Dev.word_cntOp (d : Dev) (g : Grp) (w : MicroWord) {r : Reg} (h : r.key ∉ [FMT_CNT01.key, FMT_CNT2.key]) (i j : Nat) :
    (d.cntOp g w).word r i j = d.word r i j := by
  simp only [List.mem_cons, List.not_mem_nil, or_false, not_or] at h
  refine Dev.cntOp_keeps (fun d => d.word r i j) fun v => Dev.word_set_of_key _ _ _ _ _ _ _ _ ?_
  obtain hsel | hsel | hsel := cntFld_cases (mwCntSel w) <;> rw [hsel]
  · exact Ne.symm h.1
  · exact Ne.symm h.1
  · exact Ne.symm h.2

theorem mwImm_lt (w : MicroWord) : mwImm w < 2 ^ 16 := BitVec.isLt _

/-- What CNT_OP makes of its counter: loaded, decremented, left. -/
theorem Dev.cntOp_counts (d : Dev) (g : Grp) (w : MicroWord) :
    (mwCntOp w = 1 → (d.cntOp g w).get (cntFld (mwCntSel w)) g = mwImm w) ∧
      (mwCntOp w = 2 → (d.cntOp g w).get (cntFld (mwCntSel w)) g = d.get (cntFld (mwCntSel w)) g - 1) ∧
      (mwCntOp w = 0 → (d.cntOp g w).get (cntFld (mwCntSel w)) g = d.get (cntFld (mwCntSel w)) g) := by
  have hlt : d.get (cntFld (mwCntSel w)) g < 2 ^ 16 := by
    obtain h | h | h := cntFld_cases (mwCntSel w) <;> rw [h] <;> exact BitVec.isLt _
  refine ⟨fun h => ?_, fun h => ?_, fun h => ?_⟩
  · rw [show d.cntOp g w = d.set (cntFld (mwCntSel w)) (mwImm w) g by rw [Dev.cntOp, h]; rfl, Dev.get_set_cntFld,
      Nat.mod_eq_of_lt (mwImm_lt w)]
  · rw [show d.cntOp g w = d.set (cntFld (mwCntSel w)) (d.get (cntFld (mwCntSel w)) g - 1) g by rw [Dev.cntOp, h]; rfl,
      Dev.get_set_cntFld, Nat.mod_eq_of_lt (by omega)]
  · rw [show d.cntOp g w = d by rw [Dev.cntOp, h]; rfl]

/-- What SP_OP makes of SP: left, or C2. -/
theorem Dev.spOp_points (d : Dev) (g : Grp) (w : MicroWord) (c2 : Nat) :
    (mwSp w = 0 → (d.spOp g w c2).get FMT_CNT2.SP g = d.get FMT_CNT2.SP g) ∧
      (mwSp w = 3 → (d.spOp g w c2).get FMT_CNT2.SP g = c2 % 1024) := by
  refine ⟨fun h => ?_, fun h => ?_⟩
  · rw [show d.spOp g w c2 = d by rw [Dev.spOp, h]; rfl]
  · rw [show d.spOp g w c2 = d.set FMT_CNT2.SP c2 g by rw [Dev.spOp, h]; rfl]
    exact Dev.get_set _ _ _ _ _ (by decide)

/-! ### The step -/

/-- The device after a step's issue: armed, its counter and its pointer moved. -/
def Dev.issued (d : Dev) (g : Grp) (w : MicroWord) : Dev :=
  ((d.armAll g w (d.fmtMask g w)).cntOp g w).spOp g w (d.get FMT_CNT2.C2 g)

/-- A step that its tokens allow is its issue and its wait. -/
theorem Dev.issue_allowed {d : Dev} {g : Grp} {w : MicroWord} (h : mwWg w = true → d.tokensRefused g (d.fmtMask g w) = false) :
    d.issue g w false = (d.issued g w).beginWait g w := by
  have hok : ¬ (mwWg w && d.tokensRefused g (d.fmtMask g w)) = true := by
    rw [Bool.and_eq_true]
    exact fun ⟨hwg, href⟩ => by simp [h hwg] at href
  exact if_neg hok

/-- A word that does not wait completes at once. -/
theorem Dev.beginWait_none {w : MicroWord} (h : mwWait w = 0) (d : Dev) (g : Grp) : d.beginWait g w = d.complete g w true := by
  unfold Dev.beginWait Dev.waitsNot
  rw [h]
  rfl

/-- An observation beside the counters, SP and its wrap stands through the issue as the arms leave it. -/
theorem Dev.issued_keeps {β : Type} (φ : Dev → β) {g : Grp} {w : MicroWord}
    (hcnt : ∀ d v, φ (d.set (cntFld (mwCntSel w)) v g) = φ d) (hsp : ∀ d v, φ (d.set FMT_CNT2.SP v g) = φ d)
    (hfmt : ∀ d b, φ (d.onFmt g fun f => { f with spWrap := b }) = φ d) (d : Dev) :
    φ (d.issued g w) = φ (d.armAll g w (d.fmtMask g w)) :=
  (Dev.spOp_keeps φ hsp hfmt _ _ _).trans (Dev.cntOp_keeps φ (hcnt _))

/-- The sequencer stands at its word through the issue, its orders as they were. -/
theorem Dev.issued_stands (d : Dev) (g : Grp) (w : MicroWord) : (d.issued g w).word FMT_STATUS g = d.word FMT_STATUS g ∧
    (d.issued g w).fmt[g].halting = d.fmt[g].halting ∧ (d.issued g w).fmt[g].single = d.fmt[g].single := by
  have hcnt (v : Nat) (d : Dev) : (d.set (cntFld (mwCntSel w)) v g).word FMT_STATUS g = d.word FMT_STATUS g := by
    refine Dev.word_set_of_key _ _ _ _ _ _ _ _ ?_
    obtain h | h | h := cntFld_cases (mwCntSel w) <;> rw [h] <;> decide
  have hstatus := Dev.issued_keeps (fun d => d.word FMT_STATUS g) (fun d v => hcnt v d)
    (fun _ _ => Dev.word_set_of_key _ _ _ _ _ _ _ _ (by decide)) (fun _ _ => rfl) d
  have horders := Dev.issued_keeps (w := w) (fun d => (d.fmt[g].halting, d.fmt[g].single)) (fun _ _ => rfl) (fun _ _ => rfl)
    (fun d b => by rw [Dev.fmt_onFmt_self]) d
  have hbare := d.bare_armAll g w (d.fmtMask g w)
  obtain ⟨hhalting, hsingle⟩ := Prod.mk.inj horders
  exact ⟨hstatus.trans (d.word_armAll g w _ (by decide) _ _), hhalting.trans (congrArg Fmt.halting hbare :),
    hsingle.trans (congrArg Fmt.single hbare :)⟩

/-- The counter and SP after the issue. -/
theorem Dev.issued_counts (d : Dev) (g : Grp) (w : MicroWord) :
    (mwCntOp w = 1 → (d.issued g w).get (cntFld (mwCntSel w)) g = mwImm w) ∧
      (mwCntOp w = 2 → (d.issued g w).get (cntFld (mwCntSel w)) g = d.get (cntFld (mwCntSel w)) g - 1) ∧
      (mwCntOp w = 0 → (d.issued g w).get (cntFld (mwCntSel w)) g = d.get (cntFld (mwCntSel w)) g) ∧
      (mwSp w = 0 → (d.issued g w).get FMT_CNT2.SP g = d.get FMT_CNT2.SP g) ∧
      (mwSp w = 3 → (d.issued g w).get FMT_CNT2.SP g = d.get FMT_CNT2.C2 g % 1024) := by
  have harmed (f : Fld) (hf : WLS_INT_STATUS.key ≠ f.reg.key) : (d.armAll g w (d.fmtMask g w)).get f g = d.get f g :=
    Dev.get_of_word (d.word_armAll g w _ hf g 0)
  have hcnt : (d.armAll g w (d.fmtMask g w)).get (cntFld (mwCntSel w)) g = d.get (cntFld (mwCntSel w)) g := by
    refine harmed _ ?_
    obtain h | h | h := cntFld_cases (mwCntSel w) <;> rw [h] <;> decide
  have hsp := harmed FMT_CNT2.SP (by decide)
  unfold Dev.issued
  generalize d.armAll g w (d.fmtMask g w) = armed at hcnt hsp
  obtain ⟨hload, hdec, hkeep⟩ := armed.cntOp_counts g w
  have hpass := Dev.cntOp_keeps (w := w) (d := armed) (fun d => d.get FMT_CNT2.SP g) fun v => armed.sp_set_cntFld _ v g
  generalize armed.cntOp g w = counted at hload hdec hkeep hpass
  obtain ⟨hstay, hpoint⟩ := counted.spOp_points g w (d.get FMT_CNT2.C2 g)
  have hbeside := Dev.spOp_keeps (fun d => d.get (cntFld (mwCntSel w)) g) (fun d v => d.cntFld_set_sp _ v g) (fun _ _ => rfl)
    counted w (d.get FMT_CNT2.C2 g)
  refine ⟨fun h => hbeside.trans (hload h), fun h => ?_, fun h => ?_, fun h => ?_, hpoint⟩
  · exact hbeside.trans ((hdec h).trans (by rw [hcnt]))
  · exact hbeside.trans ((hkeep h).trans hcnt)
  · exact (hstay h).trans (hpass.trans hsp)

theorem Dev.arms_issued (d : Dev) (g : Grp) (w : MicroWord) (i : HeadIx) : (d.issued g w).arms[laneOf g i] =
    if mwArms w = true ∧ bit (d.fmtMask g w) i = true then d.arms[laneOf g i] ++ [d.newArm g w] else d.arms[laneOf g i] :=
  (Dev.issued_keeps (fun d => d.arms[laneOf g i]) (fun _ _ => rfl) (fun _ _ => rfl) (fun _ _ => rfl) d).trans (d.arms_armAll g w _ i)

/-- A completion that branches leaves the counters and the arms. -/
theorem Dev.complete_leaves {d : Dev} {g : Grp} {w : MicroWord} (hpc : d.get FMT_STATUS.PC g < 0x3800) (hseq : mwSeq w = 0)
    (hhalt : mwHalt w = false) (hh : d.fmt[g].halting = false) (hs : d.fmt[g].single = false) : let t := d.complete g w true
    t.arms = d.arms ∧ ∀ r, r.key ∉ [FMT_STATUS.key, FMT_INT_STATUS.key] → t.word r g = d.word r g := by
  intro t
  have ht : t = (d.latched g w).carryOn g w ((d.latched g w).branchTo g w) := Dev.complete_branch hpc hseq hhalt hh hs
  have harms : (d.latched g w).arms = d.arms := Dev.when_keeps Dev.arms _ (·.latchVerdict g) rfl
  have hregs := d.regs_latched g w
  rw [ht]
  generalize d.latched g w = e at harms hregs
  exact ⟨(e.units_carryOn g w _).2.trans harms, fun r hr => (e.word_carryOn g w _ hr _ _).trans (Dev.word_of_regs hregs _ _ _)⟩

/-- FMT_STEP at a word that is legal, waits for nothing, branches and does not halt. -/
theorem fmtStep_runs (s : State) (g : Grp) (w : MicroWord) (hrun : s.dev.groupRuns g = true)
    (hstate : s.dev.get FMT_STATUS.STATE g = 2) (hinj : s.dev.injecting 200 = none) (hship : s.dev.shippedStep g false = none)
    (hword : s.dev.cs.word (s.dev.get FMT_STATUS.PC g) = w) (hpc : s.dev.get FMT_STATUS.PC g < 0x3800)
    (hlegal : mwIllegal w (s.dev.mode == .makerService) = false) (hwait : mwWait w = 0) (hseq : mwSeq w = 0)
    (hhalt : mwHalt w = false) (hh : s.dev.fmt[g].halting = false) (hs : s.dev.fmt[g].single = false)
    (hstall : s.dev.armStall g (s.dev.fmtMask g w) = false)
    (htok : mwWg w = true → s.dev.tokensRefused g (s.dev.fmtMask g w) = false) :
    Completes (.fmtStep g .ok false) s fun t =>
      t.get FMT_STATUS.STATE g = 2 ∧
      t.get FMT_STATUS.PC g = (if (t.fmtCond g (mwCond w) != mwInv w) = true then mwNext w
        else (s.dev.get FMT_STATUS.PC g + 1) % 0x4000) ∧
      (mwCntOp w = 1 → t.get (cntFld (mwCntSel w)) g = mwImm w) ∧
      (mwCntOp w = 2 → t.get (cntFld (mwCntSel w)) g = s.dev.get (cntFld (mwCntSel w)) g - 1) ∧
      (mwCntOp w = 0 → t.get (cntFld (mwCntSel w)) g = s.dev.get (cntFld (mwCntSel w)) g) ∧
      (mwSp w = 0 → t.get FMT_CNT2.SP g = s.dev.get FMT_CNT2.SP g) ∧
      (mwSp w = 3 → t.get FMT_CNT2.SP g = s.dev.get FMT_CNT2.C2 g % 1024) ∧
      ∀ i : HeadIx, t.arms[laneOf g i] = (if mwArms w = true ∧ bit (s.dev.fmtMask g w) i = true
        then s.dev.arms[laneOf g i] ++ [s.dev.newArm g w] else s.dev.arms[laneOf g i]) := by
  have hstep : s.dev.ownStep g w false = (s.dev.issued g w).complete g w true := by
    have hwalrix : ¬ 0x3800 ≤ s.dev.fmtPc g := Nat.not_le.mpr hpc
    unfold Dev.ownStep
    rw [hlegal, hstall, if_neg (by decide), if_neg (by simp), if_neg (fun h => hwalrix h.1), Dev.issue_allowed htok,
      Dev.beginWait_none hwait]
  refine completes_fmtStep hrun hstate hinj hship ?_
  rw [hword, hstep]
  obtain ⟨hstatus, hhalting, hsingle⟩ := s.dev.issued_stands g w
  obtain ⟨hload, hdec, hkeep, hsp, hpoint⟩ := s.dev.issued_counts g w
  have harms := s.dev.arms_issued g w
  generalize s.dev.issued g w = e at hstatus hhalting hsingle hload hdec hkeep hsp hpoint harms
  have hat : e.get FMT_STATUS.PC g = s.dev.get FMT_STATUS.PC g := Dev.get_of_word hstatus
  obtain ⟨hruns, -, hplace⟩ := Dev.complete_runs (hat ▸ hpc) hseq hhalt (hhalting.trans hh) (hsingle.trans hs)
  obtain ⟨harm, hwords⟩ := Dev.complete_leaves (hat ▸ hpc) hseq hhalt (hhalting.trans hh) (hsingle.trans hs)
  have hcnt : (e.complete g w true).get (cntFld (mwCntSel w)) g = e.get (cntFld (mwCntSel w)) g := by
    refine Dev.get_of_word (hwords _ ?_)
    obtain h | h | h := cntFld_cases (mwCntSel w) <;> rw [h] <;> decide
  have hptr : (e.complete g w true).get FMT_CNT2.SP g = e.get FMT_CNT2.SP g := Dev.get_of_word (hwords _ (by decide))
  refine ⟨hruns, hat ▸ hplace, fun h => hcnt.trans (hload h), fun h => hcnt.trans (hdec h), fun h => hcnt.trans (hkeep h),
    fun h => hptr.trans (hsp h), fun h => hptr.trans (hpoint h), fun i => ?_⟩
  rw [harm]
  exact harms i

/-- WAIT_END of a wait that is over, with no order to halt. -/
theorem completes_waitEnd {s : State} {g : Grp} {w : MicroWord} {P : Dev → Prop} (hrun : s.dev.groupRuns g = true)
    (hstate : s.dev.get FMT_STATUS.STATE g = 3) (hw : s.dev.fmt[g].waiting = some w) (hover : s.dev.waitOver g (mwWait w) = true)
    (hh : s.dev.fmt[g].halting = false) (h : P (s.dev.complete g w true)) : Completes (.waitEnd g) s P := by
  refine completes_of_runGroup rfl hrun ?_
  rw [hw]
  dsimp only
  rw [hh, if_pos (by simp [Dev.fmtState, hstate, hover])]
  exact h

theorem waitEnd_runs (s : State) (g : Grp) (w : MicroWord) (hrun : s.dev.groupRuns g = true)
    (hstate : s.dev.get FMT_STATUS.STATE g = 3) (hw : s.dev.fmt[g].waiting = some w) (hover : s.dev.waitOver g (mwWait w) = true)
    (hpc : s.dev.get FMT_STATUS.PC g < 0x3800) (hseq : mwSeq w = 0) (hhalt : mwHalt w = false)
    (hh : s.dev.fmt[g].halting = false) (hs : s.dev.fmt[g].single = false) : Completes (.waitEnd g) s fun t =>
      t.get FMT_STATUS.STATE g = 2 ∧ t.fmt[g].waiting = none ∧
      t.get FMT_STATUS.PC g = (if (t.fmtCond g (mwCond w) != mwInv w) = true then mwNext w
        else (s.dev.get FMT_STATUS.PC g + 1) % 0x4000) := by
  exact completes_waitEnd hrun hstate hw hover hh <| Dev.complete_runs hpc hseq hhalt hh hs

/-- Settles O25: a step is its issue and the completion of its word, and a wait that is over is the completion alone. -/
theorem sequencerSteps : Obligations.SequencerSteps := by
  unfold Obligations.SequencerSteps
  exact ⟨fmtStep_runs, waitEnd_runs⟩

end Sys2Proof.Machine
end

section
/-! SUPPORT. The scheduler's choice (R443, R444, R327). -/
namespace Sys2Proof.Machine

theorem Dev.grpq_onGrpq_self (d : Dev) (g : Grp) (f : GroupQ → GroupQ) : (d.onGrpq g f).grpq[g] = f d.grpq[g] := getElem_upd ..

theorem Dev.grpq_showGrpq (d : Dev) (g : Grp) : (d.showGrpq g).grpq = d.grpq := rfl

/-! ### A request is issued (R9, R220) -/

/-- The issued request leaves the list and is the servo's. -/
theorem Dev.issueReq_issues {d : Dev} {g : Grp} (h : d.grpq[g].active = none) (m : MediaReq) :
    (d.issueReq g m).grpq[g].active = some m ∧ (d.issueReq g m).srv[g].request = some m.req.cyl ∧
      (d.issueReq g m).grpq[g].list = (d.grpq[g].list.filter fun x => x.no != m.no) ∧
      (d.issueReq g m).grpq[g].posted = d.grpq[g].posted := by
  have hlisted := d.grpq_onGrpq_self g fun q => { q with list := q.list.filter fun (x : MediaReq) => x.no != m.no }
  unfold Dev.issueReq Dev.handRequest
  generalize d.onGrpq g _ = e at hlisted
  have hnone : e.grpq[g].active = none := by rw [hlisted, h]
  rw [hnone]
  dsimp only
  rw [Dev.grpq_showGrpq]
  have hissued := e.grpq_onGrpq_self g fun q => { q with active := some m, issued := e.now }
  have hservo : ((e.onGrpq g fun q => { q with active := some m, issued := e.now }).onSrv g fun s =>
      { s with request := some m.req.cyl }).srv[g] = { e.srv[g] with request := some m.req.cyl } := getElem_upd ..
  refine ⟨congrArg GroupQ.active hissued, congrArg Srv.request hservo, (congrArg GroupQ.list hissued).trans ?_,
    (congrArg GroupQ.posted hissued).trans ?_⟩ <;> rw [hlisted]

/-! ### The best of a list -/

theorem Dev.cheapest_eq_argmin (d : Dev) (g : Grp) (l : List MediaReq) :
    d.cheapest g l = l.argmin fun m => d.cost g m.req.cyl m.req.sect := by
  unfold Dev.cheapest List.argmin
  congr 1
  funext b m
  cases b <;> rfl

theorem oldestReq_eq_argmin (l : List MediaReq) : oldestReq l = l.argmin MediaReq.age := by
  unfold oldestReq List.argmin
  congr 1
  funext b m
  cases b <;> rfl

/-- A list that is not empty has a cheapest member. -/
theorem Dev.exists_cheapest (d : Dev) (g : Grp) {l : List MediaReq} (h : l ≠ []) : ∃ m ∈ l, d.cheapest g l = some m ∧
    ∀ x ∈ l, d.cost g m.req.cyl m.req.sect ≤ d.cost g x.req.cyl x.req.sect := by
  rw [Dev.cheapest_eq_argmin]
  cases hbest : l.argmin fun m => d.cost g m.req.cyl m.req.sect with
  | none => exact absurd (List.argmin_eq_none.mp hbest) h
  | some m => exact ⟨m, List.argmin_mem hbest, rfl, fun x hx => List.le_of_mem_argmin hx hbest⟩

/-! ### The choice -/

/-- A commit of the journal. -/
def MediaReq.isJournal (m : MediaReq) : Bool := match m.why with | .journal _ => true | _ => false

/-- The destage that competes with the requests. -/
def Dev.rival (d : Dev) (g : Grp) : Option (Nat × Nat) :=
  if d.grpq[g].posted.isEmpty && !d.pwrfail && d.mode != .coastFlush then d.nextDestage g else none

/-- The requests within the scheduler's window. -/
def Dev.inWindow (d : Dev) (l : List MediaReq) : List MediaReq := l.take (min 32 (atLeast1 (d.get QUE_SCHED_CFG.WINDOW)))

/-- The requests past the age limit. -/
def Dev.agedReqs (d : Dev) (l : List MediaReq) : List MediaReq :=
  l.filter fun m => !m.isDestage && decide (m.since + atLeast1 (d.get QUE_SCHED_CFG.AGE_MS) * 1000 < d.now)

/-- The choice of a request, or none. -/
def Choice.ofReq : Option MediaReq → Choice
  | some m => .req m
  | Option.none => .none

/-- A destage not yet opened against a request. -/
def Dev.against (d : Dev) (g : Grp) : Option (Nat × Nat) → Option MediaReq → Choice
  | some (w, n), some m => if d.cost g (d.locate g w).1 (d.locate g w).2 < d.cost g m.req.cyl m.req.sect then .destage w n else .req m
  | some (w, n), none => .destage w n
  | none, o => Choice.ofReq o

/-- The order of the choice: a commit of the journal, the oldest of the aged, destages above HI, the others below LO, the
cheapest in the window. -/
theorem Dev.choose_eq (d : Dev) (g : Grp) : d.choose g =
    match (d.eligibleReqs g).find? MediaReq.isJournal with
    | some m => .req m
    | none => match oldestReq (d.agedReqs (d.eligibleReqs g)) with
      | some m => .req m
      | none =>
        let others := (d.eligibleReqs g).filter fun m => !m.isDestage
        let dests := (d.eligibleReqs g).filter MediaReq.isDestage
        if decide (d.get QUE_DESTAGE_CFG.HI * d.heldLimit < 256 * d.heldBufs) && ((d.rival g).isSome || !dests.isEmpty) then
          match d.cheapest g dests with
          | some m => .req m
          | none => d.against g (d.rival g) none
        else if decide (256 * d.heldBufs < d.get QUE_DESTAGE_CFG.LO * d.heldLimit) && !others.isEmpty then
          Choice.ofReq (d.cheapest g (d.inWindow others))
        else d.against g (d.rival g) (d.cheapest g (d.inWindow (d.eligibleReqs g))) := rfl

theorem Dev.choose_journal {d : Dev} {g : Grp} {m : MediaReq} (h : (d.eligibleReqs g).find? MediaReq.isJournal = some m) :
    d.choose g = .req m := by
  rw [Dev.choose_eq, h]

theorem Dev.inWindow_ne_nil (d : Dev) {l : List MediaReq} (h : l ≠ []) : d.inWindow l ≠ [] := by
  have hreach : min 32 (atLeast1 (d.get QUE_SCHED_CFG.WINDOW)) ≠ 0 := by
    unfold atLeast1
    split <;> omega
  simp [Dev.inWindow, List.take_eq_nil_iff, hreach, h]

/-- Where no destage competes and no commit waits, the choice is the oldest of the aged requests or the cheapest in the window. -/
theorem Dev.choose_plain {d : Dev} {g : Grp} (hrival : d.rival g = none)
    (hplain : ∀ m ∈ d.eligibleReqs g, m.isJournal = false ∧ m.isDestage = false) :
    d.choose g = Choice.ofReq ((oldestReq (d.agedReqs (d.eligibleReqs g))).or (d.cheapest g (d.inWindow (d.eligibleReqs g)))) := by
  have hcommit : (d.eligibleReqs g).find? MediaReq.isJournal = none :=
    List.find?_eq_none.mpr fun m hm => Bool.eq_false_iff.mp (hplain m hm).1
  have hothers : ((d.eligibleReqs g).filter fun m => !m.isDestage) = d.eligibleReqs g :=
    List.filter_eq_self.mpr fun m hm => by rw [(hplain m hm).2]; rfl
  have hdests : (d.eligibleReqs g).filter MediaReq.isDestage = [] :=
    List.filter_eq_nil_iff.mpr fun m hm => Bool.eq_false_iff.mp (hplain m hm).2
  rw [Dev.choose_eq, hcommit]
  cases oldestReq (d.agedReqs (d.eligibleReqs g)) with
  | some m => rfl
  | none =>
    dsimp only
    rw [hothers, hdests, hrival, if_neg (by simp), Option.none_or]
    exact ite_self _

/-- So it is one of the requests. -/
theorem Dev.choose_mem {d : Dev} {g : Grp} (hne : d.eligibleReqs g ≠ []) (hrival : d.rival g = none)
    (hplain : ∀ m ∈ d.eligibleReqs g, m.isJournal = false ∧ m.isDestage = false) : ∃ m ∈ d.eligibleReqs g, d.choose g = .req m := by
  rw [Dev.choose_plain hrival hplain]
  cases hold : oldestReq (d.agedReqs (d.eligibleReqs g)) with
  | some m =>
    rw [oldestReq_eq_argmin] at hold
    exact ⟨m, List.mem_of_mem_filter (List.argmin_mem hold), rfl⟩
  | none =>
    obtain ⟨m, hm, hbest, -⟩ := d.exists_cheapest g (d.inWindow_ne_nil hne)
    exact ⟨m, List.mem_of_mem_take hm, by rw [hbest]; rfl⟩

/-- And the cheapest in the window where none has waited for long: AGE_MS is at least 1 ms. -/
theorem Dev.choose_cheapest {d : Dev} {g : Grp} (hne : d.eligibleReqs g ≠ []) (hrival : d.rival g = none)
    (hplain : ∀ m ∈ d.eligibleReqs g, m.isJournal = false ∧ m.isDestage = false)
    (hyoung : ∀ m ∈ d.eligibleReqs g, d.now ≤ m.since + 1000) :
    ∃ m ∈ d.inWindow (d.eligibleReqs g), d.choose g = .req m ∧ ∀ x ∈ d.inWindow (d.eligibleReqs g),
      d.cost g m.req.cyl m.req.sect ≤ d.cost g x.req.cyl x.req.sect := by
  have hage : 1 ≤ atLeast1 (d.get QUE_SCHED_CFG.AGE_MS) := by
    unfold atLeast1
    split <;> omega
  have hnone : d.agedReqs (d.eligibleReqs g) = [] := List.filter_eq_nil_iff.mpr fun m hm => by
    have := hyoung m hm
    simp only [Bool.and_eq_true, decide_eq_true_eq, not_and, Nat.not_lt]
    omega
  obtain ⟨m, hm, hbest, hleast⟩ := d.exists_cheapest g (d.inWindow_ne_nil hne)
  refine ⟨m, hm, ?_, hleast⟩
  rw [Dev.choose_plain hrival hplain, hnone, hbest]
  rfl

/-! ### What may be chosen -/

/-- The part of the flush that is written next. -/
def Dev.nextPart (d : Dev) (g : Grp) : Nat := ((d.grpq[g].list ++ d.grpq[g].posted).map MediaReq.part).foldl min 3

theorem Dev.nextPart_le {d : Dev} {g : Grp} {m : MediaReq} (h : m ∈ d.grpq[g].list) : d.nextPart g ≤ m.part :=
  (List.min?_eq_some_iff.mp List.min?_cons').2 _ (List.mem_cons_of_mem _ (List.mem_map_of_mem (List.mem_append_left _ h)))

/-- That part is some request's, where any is a part of a flush. -/
theorem Dev.exists_nextPart {d : Dev} {g : Grp} (hposted : d.grpq[g].posted = []) {m : MediaReq} (h : m ∈ d.grpq[g].list)
    (hm : m.part ≤ 2) : ∃ x ∈ d.grpq[g].list, x.part = d.nextPart g ∧ x.isFlush = true := by
  have hle := Dev.nextPart_le h
  have hmem : d.nextPart g ∈ 3 :: (d.grpq[g].list ++ d.grpq[g].posted).map MediaReq.part :=
    (List.min?_eq_some_iff.mp List.min?_cons').1
  rw [hposted, List.append_nil] at hmem
  obtain h3 | hmem := List.mem_cons.mp hmem
  · omega
  obtain ⟨x, hx, hpart⟩ := List.mem_map.mp hmem
  refine ⟨x, hx, hpart, ?_⟩
  have hlow : x.part ≤ 2 := by omega
  unfold MediaReq.part at hlow
  unfold MediaReq.isFlush
  cases hwhy : x.why <;> simp_all

/-- Where nothing is posted and every request's time has come. -/
theorem Dev.eligibleReqs_eq {d : Dev} {g : Grp} (hposted : d.grpq[g].posted = []) (hafter : ∀ m ∈ d.grpq[g].list, m.after ≤ d.now) :
    d.eligibleReqs g = (((d.grpq[g].list.filter fun m => !(d.pwrfail || d.mode == .coastFlush) || m.isFlush).take 32).filter
      fun m => !m.isFlush || m.part == d.nextPart g) := by
  have hlast : d.grpq[g].posted.getLast? = none := by rw [hposted]; rfl
  unfold Dev.eligibleReqs Dev.nextPart
  dsimp only
  rw [hlast]
  refine List.filter_congr fun m hm => ?_
  rw [decide_eq_true (hafter m (List.mem_of_mem_filter (List.mem_of_mem_take hm))), Bool.true_and]

/-- Without a loss of power, and no flush: the oldest 32 requests. -/
theorem Dev.eligibleReqs_active {d : Dev} {g : Grp} (hposted : d.grpq[g].posted = [])
    (hafter : ∀ m ∈ d.grpq[g].list, m.after ≤ d.now) (hpower : d.pwrfail = false) (hmode : d.mode = .active) :
    d.eligibleReqs g = ((d.grpq[g].list.take 32).filter fun m => !m.isFlush || m.part == d.nextPart g) := by
  have hall : (d.grpq[g].list.filter fun m => !(d.pwrfail || d.mode == .coastFlush) || m.isFlush) = d.grpq[g].list :=
    List.filter_eq_self.mpr fun m _ => by rw [hpower, hmode]; rfl
  rw [Dev.eligibleReqs_eq hposted hafter, hall]

/-- A commit of the journal that is eligible is the first of the 32. -/
theorem Dev.find?_journal {d : Dev} {g : Grp} (l : List MediaReq) :
    (l.filter fun m => !m.isFlush || m.part == d.nextPart g).find? MediaReq.isJournal = l.find? MediaReq.isJournal := by
  rw [List.find?_filter]
  congr 1
  funext m
  unfold MediaReq.isFlush MediaReq.isJournal
  cases m.why <;> simp

/-- Without held sectors no destage competes. -/
theorem Dev.rival_of_held {d : Dev} {g : Grp} (h : d.que.held = []) : d.rival g = none := by
  unfold Dev.rival Dev.nextDestage
  simp [h]

/-! ### SCHEDULE_CHOICE -/

/-- DESTAGE_HI as the scheduler raises it. -/
def Dev.highShown (d : Dev) : Dev :=
  d.when (decide (d.get QUE_DESTAGE_CFG.HI * d.heldLimit < 256 * d.heldBufs) && d.heldBufs != 0) (·.raise QUE_INT_STATUS.DESTAGE_HI)

theorem Dev.highShown_of_empty {d : Dev} (h : d.heldBufs = 0) : d.highShown = d := by
  unfold Dev.highShown
  rw [h]
  exact if_neg (by simp)

theorem Dev.highShown_leaves (d : Dev) : d.highShown.grpq = d.grpq ∧ d.highShown.now = d.now ∧ d.highShown.mode = d.mode := by
  unfold Dev.highShown Dev.when
  split
  · exact ⟨rfl, rfl, Dev.mode_of_word (Dev.word_set_of_key _ _ _ _ _ _ _ _ (by decide))⟩
  · exact ⟨rfl, rfl, rfl⟩

/-- A request of a flush is neither a commit of the journal nor a destage. -/
theorem MediaReq.plain_of_isFlush {m : MediaReq} (h : m.isFlush = true) : m.isJournal = false ∧ m.isDestage = false := by
  unfold MediaReq.isFlush at h
  unfold MediaReq.isJournal MediaReq.isDestage
  cases hwhy : m.why <;> simp_all

section
variable {s : State} {g : Grp} (hen : s.dev.get QUE_CTRL.EN = 1) (hup : s.dev.islandUp 2 = true)
  (hidle : s.dev.grpq[g].active = none) (hloaded : s.dev.loaded g = true) (hfence : s.dev.grpFenced g = false)
include hen hup hidle hloaded hfence

/-- A request that is chosen is issued. -/
theorem completes_scheduleChoice (hallowed : s.dev.groupAllowed g = true) {m : MediaReq} (hm : s.dev.highShown.choose g = .req m) {P : Dev → Prop}
    (h : ∀ t : Dev, t.grpq[g].active = some m → t.srv[g].request = some m.req.cyl →
      t.grpq[g].list = (s.dev.grpq[g].list.filter fun x => x.no != m.no) → P t) : Completes (.scheduleChoice g) s P := by
  have hclock : s.dev.clocked 2 = true := (Bool.and_eq_true_iff.mp hup).2
  have hchosen : s.dev.schedule g = s.dev.highShown.issueReq g m := by
    unfold Dev.schedule
    rw [if_neg (by simp [Dev.on, hen, hup, hidle, hloaded, hfence, hallowed, -Fin.getElem_fin])]
    dsimp only
    rw [← Dev.highShown, hm]
  have hgrpq : s.dev.highShown.grpq = s.dev.grpq := Dev.when_keeps Dev.grpq _ (·.raise QUE_INT_STATUS.DESTAGE_HI) rfl
  have hfree : s.dev.highShown.grpq[g].active = none := by rw [hgrpq, hidle]
  refine completes_of_runIn rfl hclock ?_
  rw [hchosen]
  obtain ⟨hactive, hservo, hlist, -⟩ := Dev.issueReq_issues hfree m
  exact h _ hactive hservo (hgrpq ▸ hlist)

end

section
variable {s : State} {g : Grp} (hen : s.dev.get QUE_CTRL.EN = 1) (hup : s.dev.islandUp 2 = true)
  (hidle : s.dev.grpq[g].active = none) (hloaded : s.dev.loaded g = true) (hfence : s.dev.grpFenced g = false)
  (hposted : s.dev.grpq[g].posted = []) (hafter : ∀ m ∈ s.dev.grpq[g].list, m.after ≤ s.dev.now)
include hen hup hidle hloaded hfence hposted hafter

theorem scheduleChoice_journal (hallowed : s.dev.groupAllowed g = true) (hpower : s.dev.pwrfail = false) (hmode : s.dev.mode = .active)
    (hbufs : s.dev.heldBufs = 0) {m : MediaReq} (hm : (s.dev.grpq[g].list.take 32).find? MediaReq.isJournal = some m) :
    Completes (.scheduleChoice g) s fun t => t.grpq[g].active = some m ∧ t.srv[g].request = some m.req.cyl ∧
      t.grpq[g].list = s.dev.grpq[g].list.filter fun x => x.no != m.no := by
  have hchoice : s.dev.highShown.choose g = .req m := by
    rw [Dev.highShown_of_empty hbufs]
    refine Dev.choose_journal ?_
    rw [Dev.eligibleReqs_active hposted hafter hpower hmode, Dev.find?_journal, hm]
  exact completes_scheduleChoice hen hup hidle hloaded hfence hallowed hchoice fun t hactive hservo hlist => ⟨hactive, hservo, hlist⟩

theorem scheduleChoice_cheapest (hallowed : s.dev.groupAllowed g = true) (hpower : s.dev.pwrfail = false) (hmode : s.dev.mode = .active)
    (hheld : s.dev.que.held = []) (hbufs : s.dev.heldBufs = 0) (hne : s.dev.grpq[g].list ≠ [])
    (hplain : ∀ m ∈ s.dev.grpq[g].list, m.isDestage = false ∧ m.isFlush = false ∧ (∀ b, m.why ≠ .journal b) ∧
      s.dev.now ≤ m.since + 1000) :
    Completes (.scheduleChoice g) s fun t => ∃ m, t.grpq[g].active = some m ∧ t.srv[g].request = some m.req.cyl ∧
      m ∈ s.dev.inWindow (s.dev.grpq[g].list.take 32) ∧ ∀ x ∈ s.dev.inWindow (s.dev.grpq[g].list.take 32),
        s.dev.cost g m.req.cyl m.req.sect ≤ s.dev.cost g x.req.cyl x.req.sect := by
  have hall : s.dev.eligibleReqs g = s.dev.grpq[g].list.take 32 := by
    rw [Dev.eligibleReqs_active hposted hafter hpower hmode]
    refine List.filter_eq_self.mpr fun m hm => ?_
    obtain ⟨-, hflush, -⟩ := hplain m (List.mem_of_mem_take hm)
    rw [hflush]
    rfl
  have hsome : s.dev.grpq[g].list.take 32 ≠ [] := by simpa [List.take_eq_nil_iff, -Fin.getElem_fin] using hne
  have hkind (m : MediaReq) (hm : m ∈ s.dev.grpq[g].list.take 32) : m.isJournal = false ∧ m.isDestage = false := by
    obtain ⟨hdest, -, hjournal, -⟩ := hplain m (List.mem_of_mem_take hm)
    refine ⟨?_, hdest⟩
    unfold MediaReq.isJournal
    split
    next b hb => exact absurd hb (hjournal b)
    next => rfl
  obtain ⟨m, hm, hchoice, hleast⟩ := Dev.choose_cheapest (hall ▸ hsome) (Dev.rival_of_held hheld) (hall ▸ hkind) <| hall ▸ fun m hm => by
    obtain ⟨-, -, -, hyoung⟩ := hplain m (List.mem_of_mem_take hm)
    exact hyoung
  rw [← Dev.highShown_of_empty hbufs] at hchoice
  exact completes_scheduleChoice hen hup hidle hloaded hfence hallowed hchoice fun t hactive hservo _ =>
    ⟨m, hactive, hservo, hall ▸ hm, hall ▸ hleast⟩

theorem scheduleChoice_flush (hmode : s.dev.mode = .coastFlush) (hlen : s.dev.grpq[g].list.length ≤ 32)
    (hflush : ∃ m ∈ s.dev.grpq[g].list, m.isFlush = true ∧ m.part ≤ 2) :
    Completes (.scheduleChoice g) s fun t => ∃ m ∈ s.dev.grpq[g].list, t.grpq[g].active = some m ∧
      t.srv[g].request = some m.req.cyl ∧ m.isFlush = true ∧ ∀ x ∈ s.dev.grpq[g].list, m.part ≤ x.part := by
  have hallowed : s.dev.groupAllowed g = true := by simp [Dev.groupAllowed, hmode]
  obtain ⟨hgrpq, hnow, hmode'⟩ := s.dev.highShown_leaves
  rw [hmode] at hmode'
  obtain ⟨m₀, hm₀, -, hpart₀⟩ := hflush
  rw [← hgrpq] at hposted hafter hlen hm₀
  rw [← hnow] at hafter
  have hmem (m : MediaReq) : m ∈ s.dev.highShown.eligibleReqs g ↔
      m ∈ s.dev.highShown.grpq[g].list ∧ m.isFlush = true ∧ m.part = s.dev.highShown.nextPart g := by
    have hshort : (s.dev.highShown.grpq[g].list.filter MediaReq.isFlush).length ≤ 32 := (List.length_filter_le ..).trans hlen
    rw [Dev.eligibleReqs_eq hposted hafter, hmode']
    simp only [beq_self_eq_true, Bool.or_true, Bool.not_true, Bool.false_or]
    rw [List.take_of_length_le hshort]
    simp only [List.mem_filter, and_assoc, Bool.or_eq_true, Bool.not_eq_true', beq_iff_eq]
    grind
  obtain ⟨x, hx, hxpart, hxflush⟩ := Dev.exists_nextPart hposted hm₀ hpart₀
  have hrival : s.dev.highShown.rival g = none := by simp [Dev.rival, hmode']
  obtain ⟨m, hm, hchoice⟩ := Dev.choose_mem (List.ne_nil_of_mem ((hmem x).mpr ⟨hx, hxflush, hxpart⟩)) hrival fun m hm => by
    obtain ⟨-, hflush, -⟩ := (hmem m).mp hm
    exact MediaReq.plain_of_isFlush hflush
  obtain ⟨hin, hflush, hpart⟩ := (hmem m).mp hm
  have hleast (x : MediaReq) (hx : x ∈ s.dev.grpq[g].list) : m.part ≤ x.part := by
    rw [← hgrpq] at hx
    exact hpart ▸ Dev.nextPart_le hx
  rw [hgrpq] at hin
  exact completes_scheduleChoice hen hup hidle hloaded hfence hallowed hchoice fun t hactive hservo _ =>
    ⟨m, hin, hactive, hservo, hflush, hleast⟩

end

end Sys2Proof.Machine
end

section
/-! SUPPORT. Deadlines, posting and the formatter's events as the scheduler takes them (R180, R181, R184, R445 to R448). -/
namespace Sys2Proof.Machine

/-! ### The counts of a group that are shown -/

theorem Dev.word_showGrpq (d : Dev) (g : Grp) {r : Reg} (h : QUE_GRP_STATUS.key ≠ r.key) (i j : Nat) :
    (d.showGrpq g).word r i j = d.word r i j :=
  (Dev.word_set_of_key _ QUE_GRP_STATUS.REREAD _ _ _ _ _ _ h).trans <|
    (Dev.word_set_of_key _ QUE_GRP_STATUS.HELD _ _ _ _ _ _ h).trans (Dev.word_set_of_key _ QUE_GRP_STATUS.QUEUED _ _ _ _ _ _ h)

theorem Dev.reread_showGrpq (d : Dev) (g : Grp) : (d.showGrpq g).get QUE_GRP_STATUS.REREAD 0 g = d.grpq[g].reread.toNat :=
  (Dev.get_set _ _ _ _ _ (by decide)).trans (Nat.mod_eq_of_lt (Bool.toNat_lt _))

/-! ### POSITIONING_DEADLINE and REQUEST_POST (R445, R180) -/

theorem positioningDeadline_reissues (s : State) (g : Grp) (m : MediaReq) (hc : s.dev.clocked 2 = true)
    (hactive : s.dev.grpq[g].active = some m) (hoff : s.dev.onCyl g m.req.cyl = false) :
    Completes (.positioningDeadline g) s fun t => t.grpq[g].active = some m ∧ t.srv[g].request = some m.req.cyl ∧
      t.grpq[g].posted = s.dev.grpq[g].posted := by
  refine completes_of_runIn rfl hc ?_
  rw [hactive]
  dsimp only
  rw [hoff, if_neg (by decide)]
  have hback := s.dev.grpq_onGrpq_self g fun q => { q with active := none, list := m :: q.list }
  generalize s.dev.onGrpq g _ = d at hback
  obtain ⟨hissued, hservo, -, hposted⟩ := Dev.issueReq_issues (d := d) (g := g) (by rw [hback]) m
  exact ⟨hissued, hservo, hposted.trans (by rw [hback])⟩

/-- The issued request goes to the formatter, with the held sectors that it writes. -/
def Dev.postedWith (d : Dev) (g : Grp) (m : MediaReq) (held : List (Nat × Nat × Nat × Word)) : Dev :=
  ((d.onGrpq g fun q => { q with active := none, posted := q.posted ++ [m], released := false, writing := q.writing ++ held }).onFmt g
    fun f => { f with next := some m.req }).showGrpq g

theorem Dev.postedWith_shows (d : Dev) (g : Grp) (m : MediaReq) (held : List (Nat × Nat × Nat × Word)) :
    (d.postedWith g m held).grpq[g].active = none ∧ (d.postedWith g m held).grpq[g].posted = d.grpq[g].posted ++ [m] ∧
      (d.postedWith g m held).fmt[g].next = some m.req := by
  have hq := d.grpq_onGrpq_self g fun q =>
    { q with active := none, posted := q.posted ++ [m], released := false, writing := q.writing ++ held }
  have hnext := congrArg Fmt.next (d.fmt_onFmt_self g fun f => { f with next := some m.req })
  exact ⟨congrArg GroupQ.active hq, congrArg GroupQ.posted hq, hnext⟩

theorem Dev.postReq_posts {d : Dev} {g : Grp} {m : MediaReq} (hactive : d.grpq[g].active = some m) (hnext : d.fmt[g].next = none)
    (hservo : d.srv[g].request = none) (hon : d.onCyl g m.req.cyl = true) (hfmt : d.fmtState g ≠ fsOff) (hpower : d.pwrfail = false) :
    ∃ held, d.postReq g = d.postedWith g m held := by
  have hready : ¬ (d.fmt[g].next.isSome || d.srv[g].request.isSome || !d.onCyl g m.req.cyl || d.fmtState g == fsOff ||
      (d.pwrfail && m.req.kind != 4)) = true := by
    simp [hnext, hservo, hon, hfmt, hpower, -Fin.getElem_fin]
  unfold Dev.postReq
  rw [hactive]
  dsimp only
  rw [if_neg hready]
  exact ⟨_, rfl⟩

theorem requestPost_posts (s : State) (g : Grp) (m : MediaReq) (hc : s.dev.clocked 2 = true) (hactive : s.dev.grpq[g].active = some m)
    (hnext : s.dev.fmt[g].next = none) (hservo : s.dev.srv[g].request = none) (hon : s.dev.onCyl g m.req.cyl = true)
    (hfmt : s.dev.fmtState g ≠ fsOff) (hpower : s.dev.pwrfail = false) : Completes (.requestPost g) s fun t =>
      t.grpq[g].active = none ∧ t.grpq[g].posted = s.dev.grpq[g].posted ++ [m] ∧ t.fmt[g].next = some m.req := by
  refine completes_of_runIn rfl hc ?_
  obtain ⟨held, hpost⟩ := Dev.postReq_posts hactive hnext hservo hon hfmt hpower
  rw [hpost]
  exact s.dev.postedWith_shows g m held

/-! ### An event is taken -/

/-- The events of a sequencer after the oldest. -/
def Dev.taken (d : Dev) (g : Grp) (rest : List FmtEvt) : Dev := d.onFmt g fun f => { f with evts := rest }

theorem Dev.takeEvt_of {d : Dev} {g : Grp} {e : FmtEvt} {rest : List FmtEvt} (h : d.fmt[g].evts = e :: rest) :
    d.takeEvt g e = some (d.taken g rest) := by
  unfold Dev.takeEvt
  rw [h]
  exact if_pos rfl

theorem Dev.evts_taken (d : Dev) (g : Grp) (rest : List FmtEvt) : (d.taken g rest).fmt[g].evts = rest :=
  congrArg Fmt.evts (d.fmt_onFmt_self g _)

/-- A command that takes the oldest event completes with what it makes of the device without it. -/
theorem completes_taken {i : Instr} {s : State} {g : Grp} {e : FmtEvt} {rest : List FmtEvt} {P : Dev → Prop} (F : Dev → Dev)
    (hi : exec i s = s.runIn 2 fun d => match d.takeEvt g e with | none => d | some d => F d) (hc : s.dev.clocked 2 = true)
    (hevts : s.dev.fmt[g].evts = e :: rest) (h : P (F (s.dev.taken g rest))) : Completes i s P := by
  refine completes_of_runIn hi hc ?_
  rw [Dev.takeEvt_of hevts]
  exact h

/-- A slot of the request that runs is done. -/
def Dev.slotCounted (d : Dev) (g : Grp) : Dev := d.onGrpq g fun q => { q with posted := match q.posted with
  | m :: t => { m with done := m.done ++ [(m.req.sect + m.done.length, 0)] } :: t
  | [] => [] }

theorem Dev.hostPosted_slotCounted (d : Dev) (g : Grp) : (d.slotCounted g).hostPosted g = d.hostPosted g := by
  unfold Dev.hostPosted Dev.slotCounted
  rw [Dev.grpq_onGrpq_self]
  cases d.grpq[g].posted <;> rfl

theorem slotDone_taken (s : State) (g : Grp) (rest : List FmtEvt) (hc : s.dev.clocked 2 = true)
    (hevts : s.dev.fmt[g].evts = .slotDone :: rest) (hhost : s.dev.hostPosted g = false) :
    Completes (.slotDone g) s fun t => t.fmt[g].evts = rest ∧ t.que = s.dev.que ∧ t.regs = s.dev.regs := by
  refine completes_taken (fun d => if (d.slotCounted g).hostPosted g then (d.slotCounted g).handOut g else d.slotCounted g) rfl hc hevts ?_
  have hstays : ¬ ((s.dev.taken g rest).slotCounted g).hostPosted g = true := by
    rw [Dev.hostPosted_slotCounted]
    exact Bool.eq_false_iff.mp hhost
  rw [if_neg hstays]
  exact ⟨s.dev.evts_taken g rest, rfl, rfl⟩

theorem release_taken (s : State) (g : Grp) (rest : List FmtEvt) (hc : s.dev.clocked 2 = true)
    (hevts : s.dev.fmt[g].evts = .release :: rest) : Completes (.release g) s fun t =>
      t.fmt[g].evts = rest ∧ t.grpq[g].released = true ∧ t.regs = s.dev.regs := by
  refine completes_taken (fun d => d.onGrpq g fun q => { q with released := true }) rfl hc hevts ?_
  exact ⟨s.dev.evts_taken g rest, congrArg GroupQ.released ((s.dev.taken g rest).grpq_onGrpq_self g _), rfl⟩

theorem abortReport_taken (s : State) (g : Grp) (rest : List FmtEvt) (hc : s.dev.clocked 2 = true)
    (hevts : s.dev.fmt[g].evts = .abortReport :: rest) : Completes (.abortReport g) s fun t =>
      t.fmt[g].evts = rest ∧ t.band.intents = s.dev.band.intents ∧ t.grpq = s.dev.grpq := by
  refine completes_of_runIn rfl hc ?_
  rw [Dev.takeEvt_of hevts]
  exact ⟨s.dev.evts_taken g rest, rfl, rfl⟩

/-! ### Ladders that wait (R184) -/

/-- No ladder of the group waits for a reread. -/
def Dev.noReread (d : Dev) (g : Grp) : Prop := ∀ i : HeadIx, ∀ l ∈ d.lanes[laneOf g i].ladders, l.waits = false

theorem Dev.waiting_eq_nil {d : Dev} {g : Grp} (h : d.noReread g) (i : HeadIx) : d.lanes[laneOf g i].ladders.filter Ladder.waits = [] :=
  List.filter_eq_nil_iff.mpr fun l hl => Bool.eq_false_iff.mp (h i l hl)

/-- The end of a request then ends no ladder. -/
theorem Dev.endLadders_of_noReread {d : Dev} {g : Grp} (h : d.noReread g) (hcalm : d.calm g) : d.endLadders g = d := by
  have hlanes : (d.each (List.finRange 8) fun i d =>
      d.each (d.lanes[laneOf g i].ladders.filter Ladder.waits) fun l d => d.unrecovered (laneOf g i) l) = d := by
    refine Dev.each_inv (P := (· = d)) (fun i e he => ?_) _ rfl
    rw [he, Dev.waiting_eq_nil h]
    rfl
  exact (congrArg (fun e : Dev => e.serve g 64) hlanes).trans (Dev.serve_of_calm hcalm 64)

/-- And another revolution counts for none. -/
theorem Dev.countRereads_of_noReread {d : Dev} {g : Grp} (h : d.noReread g) : d.countRereads g = d := by
  refine Dev.each_inv (P := (· = d)) (fun i e he => ?_) _ rfl
  have hsame : (d.onLane (laneOf g i) fun l => { l with ladders := l.ladders.map fun y =>
      if y.waits then { y with revs := y.revs + 1 } else y }) = d := by
    have hmap : (d.lanes[laneOf g i].ladders.map fun y => if y.waits then { y with revs := y.revs + 1 } else y) =
        d.lanes[laneOf g i].ladders := by
      refine (List.map_congr_left fun l hl => ?_).trans (List.map_id _)
      exact if_neg (Bool.eq_false_iff.mp (h i l hl))
    unfold Dev.onLane upd
    dsimp only
    rw [hmap]
    exact congrArg (fun v => { d with lanes := v }) (Vector.set_getElem_self ..)
  rw [he]
  dsimp only
  rw [hsame, Dev.waiting_eq_nil h]
  rfl

/-- The group stays for another revolution, which is shown and counted (R446). -/
theorem Dev.needRev_shows (d : Dev) (g : Grp) : let t := ((d.onGrpq g fun q => { q with reread := true }).showGrpq g).count 0x406 (some g)
    t.fmt = d.fmt ∧ t.lanes = d.lanes ∧ t.grpq[g].reread = true ∧ t.get QUE_GRP_STATUS.REREAD 0 g = 1 := by
  have hq := congrArg GroupQ.reread (d.grpq_onGrpq_self g fun q => { q with reread := true })
  have hunits : (d.onGrpq g fun q => { q with reread := true }).fmt = d.fmt ∧
      (d.onGrpq g fun q => { q with reread := true }).lanes = d.lanes := ⟨rfl, rfl⟩
  generalize d.onGrpq g _ = e at hq hunits
  obtain ⟨hfmt, hlanes⟩ := hunits
  have hcount : ((e.showGrpq g).count 0x406 (some g)).unlogged = e.unlogged :=
    Dev.count_keeps Dev.unlogged (fun _ _ _ _ _ _ => rfl) _ _ _ _
  have hshown := Dev.count_keeps (fun d => d.word QUE_GRP_STATUS 0 g) (fun f v i j d hf => by
    refine Dev.word_set_of_key _ _ _ _ _ _ _ _ fun h => ?_
    rw [h] at hf
    exact absurd hf (by decide)) 0x406 (some g) 1 (e.showGrpq g)
  have hreread := e.reread_showGrpq g
  rw [hq] at hreread
  intro t
  exact ⟨(congrArg Dev.fmt hcount :).trans hfmt, (congrArg Dev.lanes hcount :).trans hlanes,
    (congrArg (fun d : Dev => d.grpq[g].reread) hcount :).trans hq, (Dev.get_of_word hshown).trans hreread⟩

theorem needRev_taken (s : State) (g : Grp) (rest : List FmtEvt) (hc : s.dev.clocked 2 = true)
    (hevts : s.dev.fmt[g].evts = .needRev :: rest) (hwaits : s.dev.noReread g) : Completes (.needRev g) s fun t =>
      t.fmt[g].evts = rest ∧ t.grpq[g].reread = true ∧ t.get QUE_GRP_STATUS.REREAD 0 g = 1 := by
  refine completes_taken (fun d => (((d.onGrpq g fun q => { q with reread := true }).showGrpq g).count 0x406 (some g)).countRereads g)
    rfl hc hevts ?_
  obtain ⟨hfmt, hlanes, hreread, hshown⟩ := (s.dev.taken g rest).needRev_shows g
  have hlanes' : (((s.dev.taken g rest).onGrpq g fun q => { q with reread := true }).showGrpq g |>.count 0x406 (some g)).lanes =
      s.dev.lanes := hlanes
  have hevts' := s.dev.evts_taken g rest
  rw [← hfmt] at hevts'
  generalize ((((s.dev.taken g rest).onGrpq g fun q => { q with reread := true }).showGrpq g).count 0x406 (some g)) = t at *
  have hstill : t.noReread g := fun i l hl => hwaits i l (by rwa [hlanes'] at hl)
  rw [Dev.countRereads_of_noReread hstill]
  exact ⟨hevts', hreread, hshown⟩

/-! ### The end of a request (R447) -/

/-- A request that leaves the formatter's list. -/
theorem Dev.popPosted_shows {d : Dev} {g : Grp} {m : MediaReq} {ps : List MediaReq} (h : d.grpq[g].posted = m :: ps) :
    (d.popPosted g).grpq[g] = { d.grpq[g] with posted := ps, reread := false, released := false } ∧
      (d.popPosted g).get QUE_GRP_STATUS.REREAD 0 g = 0 ∧ (d.popPosted g).fmt = d.fmt := by
  have hq := d.grpq_onGrpq_self g fun q => { q with posted := q.posted.drop 1, reread := false, released := false }
  rw [h] at hq
  unfold Dev.popPosted
  have hfmt : (d.onGrpq g fun q => { q with posted := q.posted.drop 1, reread := false, released := false }).fmt = d.fmt := rfl
  generalize d.onGrpq g _ = e at hq hfmt
  refine ⟨hq, ?_, hfmt⟩
  rw [Dev.reread_showGrpq, hq]
  rfl

theorem reqDone_ends (s : State) (g : Grp) (rest : List FmtEvt) (m : MediaReq) (ps : List MediaReq) (k : Nat)
    (hc : s.dev.clocked 2 = true) (hevts : s.dev.fmt[g].evts = .reqDone :: rest) (hposted : s.dev.grpq[g].posted = m :: ps)
    (hwhy : m.why = .cobbler k) (hkind : m.req.kind ≠ 1) (hwaits : s.dev.noReread g) (hcalm : s.dev.calm g) :
    Completes (.reqDone g) s fun t => t.fmt[g].evts = rest ∧ t.grpq[g].posted = ps ∧ t.grpq[g].reread = false ∧
      t.get QUE_GRP_STATUS.REREAD 0 g = 0 := by
  refine completes_taken (fun d => match d.grpq[g].posted with
    | [] => d
    | m :: _ => ((d.endLadders g).popPosted g).reqEnded g m) rfl hc hevts ?_
  have hevts := s.dev.evts_taken g rest
  have hlanes : (s.dev.taken g rest).noReread g := hwaits
  have hrest : (s.dev.taken g rest).calm g := hcalm
  have hqueue : (s.dev.taken g rest).grpq[g].posted = m :: ps := hposted
  generalize s.dev.taken g rest = d at hevts hlanes hrest hqueue
  have hends (e : Dev) : e.reqEnded g m = e := by
    unfold Dev.reqEnded
    rw [hwhy]
    exact if_neg hkind
  rw [hqueue]
  dsimp only
  rw [Dev.endLadders_of_noReread hlanes hrest, hends]
  obtain ⟨hq, hreread, hfmt⟩ := Dev.popPosted_shows hqueue
  refine ⟨?_, congrArg GroupQ.posted hq, congrArg GroupQ.reread hq, hreread⟩
  rw [hfmt, hevts]

end Sys2Proof.Machine
end

section
/-! SUPPORT. A request that fails (R447, R448), and the scheduler's obligation. -/
namespace Sys2Proof.Machine

/-! ### Its record -/

/-- The capture record of a failed request and the interrupt. -/
theorem Dev.failInfo_shows (d : Dev) (g : Grp) (m : MediaReq) {cause : Nat} (hc : cause < 0x80) : let t := d.failInfo g m cause
    t.get QUE_INT_STATUS.REQ_FAILED = 1 ∧ t.get QUE_FAIL_INFO0.VALID = 1 ∧ t.get QUE_FAIL_INFO0.CAUSE = cause ∧
      t.get QUE_FAIL_INFO0.KIND = m.req.kind % 16 ∧ t.get QUE_FAIL_INFO0.GROUP = g.val ∧
      t.get QUE_FAIL_INFO0.ATTEMPT = min m.attempts 63 ∧ t.get QUE_FAIL_INFO1.SECT = m.req.sect % 1024 ∧
      t.get QUE_FAIL_INFO1.CYL = m.req.cyl % 2 ^ 20 := by
  have hcause : cause < 256 := by omega
  have hgroup : (g : Nat) < 4 := g.isLt
  have hattempt : min m.attempts 63 < 64 := by omega
  unfold Dev.failInfo Dev.setSat Dev.stamp Dev.raise
  refine ⟨?_, ?_, ?_, ?_, ?_, ?_, ?_, ?_⟩ <;>
    simp (disch := decide) [QUE_INT_STATUS.REQ_FAILED, QUE_FAIL_INFO0.VALID, QUE_FAIL_INFO0.SEQ, QUE_FAIL_INFO0.CAUSE,
      QUE_FAIL_INFO0.KIND, QUE_FAIL_INFO0.GROUP, QUE_FAIL_INFO0.ATTEMPT, QUE_FAIL_INFO1.SECT, QUE_FAIL_INFO1.CYL, Dev.get_set,
      Dev.get_set_beside, Dev.get_set_of_key, Nat.mod_eq_of_lt hcause, Nat.mod_eq_of_lt hgroup, Nat.mod_eq_of_lt hattempt]

/-- The registers of that record, and of the interrupts that a failure raises. -/
def failKeys : List Nat := [QUE_FAIL_INFO0.key, QUE_FAIL_INFO1.key, QUE_INT_STATUS.key]

theorem Dev.word_failInfo (d : Dev) (g : Grp) (m : MediaReq) (cause : Nat) {r : Reg} (h : r.key ∉ failKeys) (i j : Nat) :
    (d.failInfo g m cause).word r i j = d.word r i j := by
  simp only [failKeys, List.mem_cons, List.not_mem_nil, or_false, not_or] at h
  obtain ⟨hinfo0, hinfo1, hint⟩ := h
  unfold Dev.failInfo Dev.setSat Dev.stamp Dev.raise
  rw [Dev.word_set_of_key _ QUE_INT_STATUS.REQ_FAILED _ _ _ _ _ _ (Ne.symm hint),
    Dev.word_set_of_key _ QUE_FAIL_INFO0.VALID _ _ _ _ _ _ (Ne.symm hinfo0),
    Dev.word_set_of_key _ QUE_FAIL_INFO0.SEQ _ _ _ _ _ _ (Ne.symm hinfo0),
    Dev.word_set_of_key _ QUE_FAIL_INFO1.CYL _ _ _ _ _ _ (Ne.symm hinfo1),
    Dev.word_set_of_key _ QUE_FAIL_INFO1.SECT _ _ _ _ _ _ (Ne.symm hinfo1),
    Dev.word_set_of_key _ QUE_FAIL_INFO0.ATTEMPT _ _ _ _ _ _ (Ne.symm hinfo0),
    Dev.word_set_of_key _ QUE_FAIL_INFO0.GROUP _ _ _ _ _ _ (Ne.symm hinfo0),
    Dev.word_set_of_key _ QUE_FAIL_INFO0.KIND _ _ _ _ _ _ (Ne.symm hinfo0),
    Dev.word_set_of_key _ QUE_FAIL_INFO0.CAUSE _ _ _ _ _ _ (Ne.symm hinfo0)]

/-- The attempts of a request reach a multiple of RETRY_MAX. -/
def Dev.spent (d : Dev) (m : MediaReq) : Bool := m.attempts % atLeast1 (d.get QUE_SCHED_CFG.RETRY_MAX) == 0

/-- What is shown of it then. -/
def Dev.spentShown (d : Dev) (g : Grp) (m : MediaReq) (cause : Nat) : Dev :=
  if d.spent m then (d.raise QUE_INT_STATUS.RETRY_EXHAUSTED).event 0x05 56 [g, m.req.kind, m.req.cyl, m.req.sect, cause] else d

theorem Dev.word_spentShown (d : Dev) (g : Grp) (m : MediaReq) (cause : Nat) {r : Reg} (hr : r.key ∉ recordKeys)
    (hint : QUE_INT_STATUS.key ≠ r.key) (i j : Nat) : (d.spentShown g m cause).word r i j = d.word r i j := by
  unfold Dev.spentShown
  split
  · exact (Dev.word_event _ _ _ _ _ _ _ hr).trans (Dev.word_set_of_key _ QUE_INT_STATUS.RETRY_EXHAUSTED _ _ _ _ _ _ hint)
  · rfl

theorem Dev.unlogged_spentShown (d : Dev) (g : Grp) (m : MediaReq) (cause : Nat) :
    (d.spentShown g m cause).unlogged = d.unlogged := by
  unfold Dev.spentShown
  split
  · exact Dev.unlogged_record ..
  · rfl

theorem Dev.interrupts_spentShown (d : Dev) (g : Grp) (m : MediaReq) (cause : Nat) :
    (d.spentShown g m cause).get QUE_INT_STATUS.REQ_FAILED = d.get QUE_INT_STATUS.REQ_FAILED ∧
      (d.spent m = true → (d.spentShown g m cause).get QUE_INT_STATUS.RETRY_EXHAUSTED = 1) := by
  have hevent (f : Fld) (hf : f.reg = QUE_INT_STATUS) : ((d.raise QUE_INT_STATUS.RETRY_EXHAUSTED).event 0x05 56
      [g, m.req.kind, m.req.cyl, m.req.sect, cause]).get f = (d.raise QUE_INT_STATUS.RETRY_EXHAUSTED).get f :=
    Dev.get_of_word (Dev.word_event _ _ _ _ _ _ _ (by rw [hf]; decide))
  unfold Dev.spentShown
  cases d.spent m with
  | false => exact ⟨rfl, fun h => absurd h (by decide)⟩
  | true =>
    exact ⟨(hevent QUE_INT_STATUS.REQ_FAILED rfl).trans (Dev.get_set_beside _ QUE_INT_STATUS 1 1 0 1 _ _ _ (by decide)),
      fun _ => (hevent QUE_INT_STATUS.RETRY_EXHAUSTED rfl).trans (Dev.get_set _ _ _ _ _ (by decide))⟩

/-! ### Its next attempt -/

/-- The request after one more attempt. -/
def MediaReq.tried (m : MediaReq) : MediaReq := { m with attempts := m.attempts + 1 }

/-- The request a revolution later. -/
def Dev.later (d : Dev) (m : MediaReq) : MediaReq := { m with after := d.now + 960000000 / d.get SPN_SPEED.SPEED }

/-- A request of no intent goes back to the head of the list. -/
theorem Dev.replan_retries {d : Dev} {g : Grp} {m : MediaReq}
    (h : m.req.kind = 1 → d.intentFor g (d.weltAt g m.req.cyl m.req.sect) = none) : d.replan g m = d.retryReq g (d.later m) := by
  have hnone : (if m.req.kind = 1 then d.intentFor g (d.weltAt g m.req.cyl m.req.sect) else none) = none := by
    split
    next hkind => exact h hkind
    next => rfl
  unfold Dev.replan Dev.reqWelts
  dsimp only
  rw [hnone]
  rfl

theorem Dev.failReq_cobbler {d : Dev} {g : Grp} {m : MediaReq} {ps : List MediaReq} {k cause : Nat}
    (hposted : d.grpq[g].posted = m :: ps) (hwhy : m.why = .cobbler k) (hlow : cause < 0x80) (hsix : cause ≠ 6) :
    d.failReq g cause = (((d.popPosted g).failInfo g m.tried cause).spentShown g m.tried cause).replan g m.tried := by
  have hhigh : ¬ 0x80 ≤ cause := by omega
  unfold Dev.failReq
  rw [hposted]
  dsimp -zeta only
  extract_lets m' host noted spent shown
  have hcobbler : m'.why = .cobbler k := hwhy
  have hhost : host = false := by
    unfold host
    rw [hcobbler]
  have hnoted : noted = (d.popPosted g).failInfo g m.tried cause := by
    unfold noted
    rw [hhost]
    rfl
  have hshown : shown = noted.spentShown g m.tried cause := rfl
  clear_value shown
  rw [if_neg hsix, if_neg hhigh, hcobbler, hshown, hnoted]
  rfl

/-- What a failed request of the cobbler leaves: the record, and the request at the head of its list for another try. -/
theorem Dev.failReq_shows {d : Dev} {g : Grp} {m : MediaReq} {ps : List MediaReq} {k cause : Nat}
    (hposted : d.grpq[g].posted = m :: ps) (hwhy : m.why = .cobbler k) (hlow : cause < 0x80) (hsix : cause ≠ 6)
    (hintent : m.req.kind = 1 → d.intentFor g (d.weltAt g m.req.cyl m.req.sect) = none) : let t := d.failReq g cause
    t.grpq[g].posted = ps ∧
      t.grpq[g].list = { m with attempts := m.attempts + 1, after := d.now + 960000000 / d.get SPN_SPEED.SPEED } :: d.grpq[g].list ∧
      t.get QUE_INT_STATUS.REQ_FAILED = 1 ∧ t.get QUE_FAIL_INFO0.VALID = 1 ∧ t.get QUE_FAIL_INFO0.CAUSE = cause ∧
      t.get QUE_FAIL_INFO0.KIND = m.req.kind % 16 ∧ t.get QUE_FAIL_INFO0.GROUP = g.val ∧
      t.get QUE_FAIL_INFO0.ATTEMPT = min (m.attempts + 1) 63 ∧ t.get QUE_FAIL_INFO1.SECT = m.req.sect % 1024 ∧
      t.get QUE_FAIL_INFO1.CYL = m.req.cyl % 2 ^ 20 ∧
      ((m.attempts + 1) % atLeast1 (d.get QUE_SCHED_CFG.RETRY_MAX) = 0 → t.get QUE_INT_STATUS.RETRY_EXHAUSTED = 1) := by
  intro t
  obtain ⟨hq, -, -⟩ := Dev.popPosted_shows hposted
  have hpopped (r : Reg) (hr : QUE_GRP_STATUS.key ≠ r.key) (i j : Nat) : (d.popPosted g).word r i j = d.word r i j :=
    Dev.word_showGrpq _ g hr i j
  have hbands : (d.popPosted g).now = d.now ∧ (d.popPosted g).band = d.band ∧ (d.popPosted g).zones = d.zones := ⟨rfl, rfl, rfl⟩
  have ht : t = _ := Dev.failReq_cobbler hposted hwhy hlow hsix
  generalize d.popPosted g = popped at hq hpopped hbands ht
  obtain ⟨hreq, hvalid, hcause, hkind, hgroup, hattempt, hsect, hcyl⟩ := popped.failInfo_shows g m.tried hlow
  have hword (r : Reg) (hr : r.key ∉ failKeys) (hr' : QUE_GRP_STATUS.key ≠ r.key) (i j : Nat) :
      (popped.failInfo g m.tried cause).word r i j = d.word r i j :=
    (popped.word_failInfo g _ _ hr i j).trans (hpopped r hr' i j)
  have hinfo : (popped.failInfo g m.tried cause).unlogged = popped.unlogged := rfl
  generalize popped.failInfo g m.tried cause = noted at hreq hvalid hcause hkind hgroup hattempt hsect hcyl hword hinfo ht
  obtain ⟨hfailed, hspent⟩ := noted.interrupts_spentShown g m.tried cause
  have hshown (r : Reg) (hr : r.key ∉ recordKeys) (hint : QUE_INT_STATUS.key ≠ r.key) (i j : Nat) :
      (noted.spentShown g m.tried cause).word r i j = noted.word r i j := noted.word_spentShown g _ _ hr hint i j
  have hkept := (noted.unlogged_spentShown g m.tried cause).trans hinfo
  rw [ht]
  generalize noted.spentShown g m.tried cause = e at hfailed hspent hshown hkept
  have hspeed : e.get SPN_SPEED.SPEED = d.get SPN_SPEED.SPEED :=
    Dev.get_of_word ((hshown SPN_SPEED (by decide) (by decide) 0 0).trans (hword SPN_SPEED (by decide) (by decide) 0 0))
  have hmax : noted.get QUE_SCHED_CFG.RETRY_MAX = d.get QUE_SCHED_CFG.RETRY_MAX :=
    Dev.get_of_word (hword QUE_SCHED_CFG (by decide) (by decide) 0 0)
  obtain ⟨hnow, hband, hzones⟩ := hbands
  have hqueue : e.grpq[g] = popped.grpq[g] := (congrArg (fun d : Dev => d.grpq[g]) hkept :)
  have hlater : e.later m.tried = d.later m.tried := by
    have hnow' : e.now = d.now := (congrArg Dev.now hkept :).trans hnow
    unfold Dev.later
    rw [hspeed, hnow']
  have hplan : e.intentFor g (e.weltAt g m.req.cyl m.req.sect) = d.intentFor g (d.weltAt g m.req.cyl m.req.sect) := by
    have hband' : e.band = d.band := (congrArg Dev.band hkept :).trans hband
    have hzones' : e.zones = d.zones := (congrArg Dev.zones hkept :).trans hzones
    unfold Dev.intentFor Dev.weltAt Dev.zoneIx Dev.bases Dev.zone
    rw [hband', hzones']
  rw [Dev.replan_retries (m := m.tried) fun h => hplan.trans (hintent h), hlater]
  have hback := e.grpq_onGrpq_self g fun q => { q with list := d.later m.tried :: q.list }
  rw [hqueue, hq] at hback
  have hretried (f : Fld) (hf : QUE_GRP_STATUS.key ≠ f.reg.key) : (e.retryReq g (d.later m.tried)).get f = e.get f :=
    Dev.get_of_word (Dev.word_showGrpq _ g hf 0 0)
  have hrecord (f : Fld) (hr : f.reg.key ∉ recordKeys) (hint : QUE_INT_STATUS.key ≠ f.reg.key) : e.get f = noted.get f :=
    Dev.get_of_word (hshown _ hr hint 0 0)
  refine ⟨congrArg GroupQ.posted hback, congrArg GroupQ.list hback, ?_⟩
  simp (disch := decide) only [hretried]
  simp (disch := decide) only [hrecord]
  refine ⟨hfailed.trans hreq, hvalid, hcause, hkind, hgroup, hattempt, hsect, hcyl, fun h => hspent ?_⟩
  rw [Dev.spent, hmax]
  exact beq_iff_eq.mpr h

theorem reqFailed_retries (s : State) (g : Grp) (rest : List FmtEvt) (m : MediaReq) (ps : List MediaReq) (k cause : Nat)
    (hc : s.dev.clocked 2 = true) (hevts : s.dev.fmt[g].evts = .reqFailed cause :: rest) (hposted : s.dev.grpq[g].posted = m :: ps)
    (hwhy : m.why = .cobbler k) (hlow : cause < 0x80) (hsix : cause ≠ 6)
    (hintent : m.req.kind = 1 → s.dev.intentFor g (s.dev.weltAt g m.req.cyl m.req.sect) = none) (hwaits : s.dev.noReread g)
    (hcalm : s.dev.calm g) :
    Completes (.reqFailed g cause) s fun t => t.grpq[g].posted = ps ∧
      t.grpq[g].list = { m with attempts := m.attempts + 1, after := s.dev.now + 960000000 / s.dev.get SPN_SPEED.SPEED } ::
        s.dev.grpq[g].list ∧
      t.get QUE_INT_STATUS.REQ_FAILED = 1 ∧ t.get QUE_FAIL_INFO0.VALID = 1 ∧ t.get QUE_FAIL_INFO0.CAUSE = cause ∧
      t.get QUE_FAIL_INFO0.KIND = m.req.kind % 16 ∧ t.get QUE_FAIL_INFO0.GROUP = g.val ∧
      t.get QUE_FAIL_INFO0.ATTEMPT = min (m.attempts + 1) 63 ∧ t.get QUE_FAIL_INFO1.SECT = m.req.sect % 1024 ∧
      t.get QUE_FAIL_INFO1.CYL = m.req.cyl % 2 ^ 20 ∧
      ((m.attempts + 1) % atLeast1 (s.dev.get QUE_SCHED_CFG.RETRY_MAX) = 0 → t.get QUE_INT_STATUS.RETRY_EXHAUSTED = 1) := by
  refine completes_taken (fun d => (d.endLadders g).failReq g cause) rfl hc hevts ?_
  have hends : (s.dev.taken g rest).endLadders g = s.dev.taken g rest := Dev.endLadders_of_noReread hwaits hcalm
  rw [hends]
  exact Dev.failReq_shows (d := s.dev.taken g rest) hposted hwhy hlow hsix hintent

/-- Settles O49: the choice as `Dev.choose` orders it, and each event by what follows once it is taken. -/
theorem schedulerAndFormatter : Obligations.SchedulerAndFormatter := by
  unfold Obligations.SchedulerAndFormatter
  refine ⟨?_, ?_, ?_, slotDone_taken, reqDone_ends, reqFailed_retries, needRev_taken, release_taken, abortReport_taken⟩
  · intro s g hen hup hidle hloaded hfence hallowed hposted hpower hmode hheld hbufs hafter
    exact ⟨fun m => scheduleChoice_journal hen hup hidle hloaded hfence hposted hafter hallowed hpower hmode hbufs,
      scheduleChoice_cheapest hen hup hidle hloaded hfence hposted hafter hallowed hpower hmode hheld hbufs⟩
  · intro s g hen hup hidle hloaded hfence hposted hmode hlen hafter hflush
    exact scheduleChoice_flush hen hup hidle hloaded hfence hposted hafter hmode hlen hflush
  · intro s g m hc hactive
    exact ⟨positioningDeadline_reissues s g m hc hactive, requestPost_posts s g m hc hactive⟩

end Sys2Proof.Machine
end

section
/-! SUPPORT. The control law's rows (R207, R208): a row is its exact sum where nothing saturates. -/
namespace Sys2Proof.Machine

/-- One addition of a row: the accumulator with the next product, and whether it has saturated (R207). -/
def Dev.addProduct (d : Dev) (g : Grp) (set row : Nat) (a : Int × Bool) (p : Nat × Int) : Int × Bool :=
  let x := a.1 + d.coef g set row p.1 * p.2
  (sat64 x, a.2 || sat64 x != x)

theorem Dev.rowAcc_eq (d : Dev) (g : Grp) (set row : Nat) (z : List (Nat × Int)) :
    d.rowAcc g set row z = z.foldl (d.addProduct g set row) (0, false) := rfl

/-- Additions none of which saturates add up the products. -/
theorem Dev.foldl_addProduct_exact (d : Dev) (g : Grp) (set row : Nat) (z : List (Nat × Int)) (a : Int × Bool)
    (h : (z.foldl (d.addProduct g set row) a).2 = false) :
    a.2 = false ∧ (z.foldl (d.addProduct g set row) a).1 = a.1 + (z.map fun p => d.coef g set row p.1 * p.2).sum := by
  induction z generalizing a with
  | nil => exact ⟨h, by simp⟩
  | cons p z ih =>
    obtain ⟨hstep, hsum⟩ := ih _ h
    obtain ⟨ha, hexact⟩ := Bool.or_eq_false_iff.mp hstep
    refine ⟨ha, ?_⟩
    have hfirst : (d.addProduct g set row a p).1 = a.1 + d.coef g set row p.1 * p.2 := bne_eq_false_iff_eq.mp hexact
    rw [List.foldl_cons, hsum, hfirst, List.map_cons, List.sum_cons, Int.add_assoc]

/-- Settles O29: by the exactness of the accumulator and that of the rounded result. -/
theorem rowIsExactUnlessSaturated : Obligations.RowIsExactUnlessSaturated := by
  unfold Obligations.RowIsExactUnlessSaturated
  intro d g set row z h
  obtain ⟨hacc, hround⟩ := Bool.or_eq_false_iff.mp h
  obtain ⟨-, hsum⟩ := d.foldl_addProduct_exact g set row z (0, false) hacc
  have hresult : (d.row g set row z).1 = asr ((d.rowAcc g set row z).1 + 2 ^ 29) 30 := bne_eq_false_iff_eq.mp hround
  rw [hresult, Dev.rowAcc_eq, hsum, Int.zero_add]
  rfl

end Sys2Proof.Machine
end

section
/-! SUPPORT. What write aborts, safety frames, returned tokens and the inputs of the write inhibit leave alone (R146, R150 to R152,
R157): every unit beside the write path's own. -/
namespace Sys2Proof.Machine

/-- The registers that these operations write. -/
def writePathKeys : List Nat :=
  [WLS_INT_STATUS.key, WLS_ABORT_INFO0.key, WLS_ABORT_INFO1.key, WLS_INH_STATUS.key, WTA_CFG.key, FMT_INT_STATUS.key]

/-- An observation that none of them changes. -/
structure Dev.Aloof {β : Type} (φ : Dev → β) : Prop extends Dev.Cool φ where
  set : ∀ d f v i j, f.reg.key ∈ writePathKeys → φ (d.set f v i j) = φ d
  onFmt : ∀ d g f, φ (d.onFmt g f) = φ d
  onTok : ∀ d f, φ (d.onTok f) = φ d
  onArms : ∀ d n f, φ (d.onArms n f) = φ d

/-- Every other word is one. -/
theorem Dev.aloof_word {r : Reg} (h : r.key ∉ writePathKeys) (i j : Nat) : Dev.Aloof fun d => d.word r i j :=
  have hset : ∀ (d : Dev) f v i' j', f.reg.key ∈ writePathKeys → (d.set f v i' j').word r i j = d.word r i j :=
    fun _ _ _ _ _ hf => Dev.word_set_of_key _ _ _ _ _ _ _ _ fun e => h (e ▸ hf)
  { limit := fun _ _ => hset _ _ _ _ _ (by decide), onWls := fun _ _ _ => rfl, out := fun _ _ => rfl, set := hset
    onFmt := fun _ _ _ => rfl, onTok := fun _ _ => rfl, onArms := fun _ _ _ => rfl }

/-- So are the servo engines and the groups' queues. -/
theorem Dev.aloof_units : Dev.Aloof fun d => (d.srv, d.grpq) :=
  { limit := fun _ _ => rfl, onWls := fun _ _ _ => rfl, out := fun _ _ => rfl, set := fun _ _ _ _ _ _ => rfl
    onFmt := fun _ _ _ => rfl, onTok := fun _ _ => rfl, onArms := fun _ _ _ => rfl }

section
variable {β : Type} {φ : Dev → β} (h : Dev.Aloof φ)
include h

theorem Dev.Aloof.abortRecord (d : Dev) (g : Grp) (i : HeadIx) (a : Arm) (cause : Nat) :
    φ (d.abortRecord g i a cause) = φ d := by
  unfold Dev.abortRecord Dev.stamp
  simp (disch := decide) only [h.set]

theorem Dev.Aloof.abortHead (d : Dev) (g : Grp) (cause : Nat) (i : HeadIx) : φ (d.abortHead g cause i) = φ d := by
  unfold Dev.abortHead
  split
  · rfl
  extract_lets n fallen recorded returned failed
  have hfallen : φ fallen = φ d := (h.nextFrame ..).trans (h.onWls ..)
  have hrecorded : φ recorded = φ fallen := by
    simp only [recorded]
    split
    · exact (h.onArms ..).trans ((h.set _ _ _ _ _ (by decide)).trans (h.abortRecord ..))
    · rfl
  have hreturned : φ returned = φ recorded := by
    simp only [returned]
    split <;> exact (h.set _ _ _ _ _ (by decide)).trans (h.onTok ..)
  have hfailed : φ failed = φ returned := (h.set _ _ _ _ _ (by decide)).trans (h.onFmt ..)
  have hstopped : φ failed = φ d := hfailed.trans (hreturned.trans (hrecorded.trans hfallen))
  split
  · exact hstopped
  · exact (h.orderHeater ..).trans hstopped

theorem Dev.Aloof.abortHeads (d : Dev) (g : Grp) (mask cause : Nat) : φ (d.abortHeads g mask cause) = φ d :=
  Dev.each_keeps φ _ _ (fun _ _ => h.abortHead ..) d

theorem Dev.Aloof.safetyHeaters (d : Dev) (g : Grp) : φ (d.safetyHeaters g) = φ d :=
  Dev.each_keeps φ _ _ (fun _ _ => (h.nextFrame ..).trans ((h.onWls ..).trans (h.onWls ..))) d

theorem Dev.Aloof.dropTokens (d : Dev) (g : Grp) : φ (d.dropTokens g) = φ d :=
  (h.set _ _ _ _ _ (by decide)).trans (h.onTok ..)

theorem Dev.Aloof.refreshInh (d : Dev) (g : Grp) : φ (d.refreshInh g) = φ d :=
  (h.set _ _ _ _ _ (by decide)).trans (h.set _ _ _ _ _ (by decide))

end

/-! ### Write gates (R151) -/

/-- A mask without a head's bit. -/
theorem bit_without8 (m : Nat) (i k : HeadIx) : bit (without8 m (1 <<< k.val)) i = (bit m i && decide (i ≠ k)) := by
  have hi := i.isLt
  have hk := k.isLt
  unfold bit without8
  rw [Nat.testBit_and, show (256 : Nat) = 2 ^ 8 from rfl, Nat.testBit_mod_two_pow, Nat.testBit_xor, Nat.testBit_mod_two_pow,
    show (255 : Nat) = 2 ^ 8 - 1 from rfl, Nat.testBit_two_pow_sub_one, Nat.one_shiftLeft, Nat.testBit_two_pow]
  by_cases h : i = k
  · subst h; simp
  · have hne : k.val ≠ i.val := fun e => h (Fin.ext e.symm)
    simp [hi, h, hne]

/-- The write gates of a group that are up. -/
def Dev.gatesUp (d : Dev) (g : Grp) : Nat := d.wls[g].gates

theorem Dev.gatesUp_onWls (d : Dev) (g : Grp) (f : Wls → Wls) : (d.onWls g f).gatesUp g = (f d.wls[g]).gates :=
  congrArg Wls.gates (getElem_upd d.wls g f)

/-- A frame that the port takes leaves the gates as they are. -/
theorem Dev.gatesUp_nextFrame (d : Dev) (g : Grp) : (d.nextFrame g).gatesUp g = d.gatesUp g := by
  unfold Dev.nextFrame
  dsimp only
  split
  · rfl
  split
  · rfl
  · exact d.gatesUp_onWls ..

theorem Dev.gatesUp_sendFrame (d : Dev) (g : Grp) (f : PaFrame) : (d.sendFrame g f).gatesUp g = d.gatesUp g :=
  (Dev.gatesUp_nextFrame ..).trans (d.gatesUp_onWls ..)

theorem Dev.gatesUp_dropHeater (d : Dev) (g : Grp) (i : HeadIx) : (d.dropHeater g i).gatesUp g = d.gatesUp g :=
  d.gatesUp_onWls ..

theorem Dev.gatesUp_setHeater (d : Dev) (g : Grp) (i : HeadIx) (wr : Bool) (cls : Nat) :
    (d.setHeater g i wr cls).gatesUp g = d.gatesUp g := by
  unfold Dev.setHeater
  extract_lets want lim warned code dropped
  have hwarned : warned.gatesUp g = d.gatesUp g := Dev.when_keeps (·.gatesUp g) _ _ rfl
  have hdropped : dropped.gatesUp g = d.gatesUp g := (Dev.gatesUp_dropHeater ..).trans hwarned
  split
  · exact hwarned
  split
  · exact hdropped
  · exact (Dev.gatesUp_sendFrame ..).trans hdropped

theorem Dev.gatesUp_orderHeater (d : Dev) (g : Grp) (i : HeadIx) (cls : Nat) :
    (d.orderHeater g i cls).gatesUp g = d.gatesUp g := d.gatesUp_setHeater ..

/-- An abort of a head whose gate is up takes that gate down. -/
theorem Dev.gatesUp_abortHead {d : Dev} {g : Grp} {k : HeadIx} (hup : bit (d.gatesUp g) k = true) (cause : Nat) :
    (d.abortHead g cause k).gatesUp g = without8 (d.gatesUp g) (1 <<< k.val) := by
  have hnot : ¬ (!bit d.wls[g].gates k) = true := by rw [show bit d.wls[g].gates k = true from hup]; decide
  unfold Dev.abortHead
  rw [if_neg hnot]
  extract_lets n fallen recorded returned failed
  have hfallen : fallen.gatesUp g = without8 (d.gatesUp g) (1 <<< k.val) :=
    (Dev.gatesUp_nextFrame ..).trans (d.gatesUp_onWls ..)
  have hrecorded : recorded.gatesUp g = fallen.gatesUp g := by
    simp only [recorded]
    split <;> rfl
  have hreturned : returned.gatesUp g = recorded.gatesUp g := by
    simp only [returned]
    split <;> rfl
  have hset (e : Dev) (x : Fld) (v i j : Nat) : (e.set x v i j).gatesUp g = e.gatesUp g := rfl
  have hfmt (e : Dev) (f : Fmt → Fmt) : (e.onFmt g f).gatesUp g = e.gatesUp g := rfl
  have hfailed : failed.gatesUp g = without8 (d.gatesUp g) (1 <<< k.val) :=
    (hset ..).trans ((hfmt ..).trans (hreturned.trans (hrecorded.trans hfallen)))
  split
  · exact hfailed
  · exact (Dev.gatesUp_orderHeater ..).trans hfailed

theorem Dev.abortHead_of_down {d : Dev} {g : Grp} {k : HeadIx} (hdown : bit (d.gatesUp g) k = false) (cause : Nat) :
    d.abortHead g cause k = d := by
  have hnot : (!bit d.wls[g].gates k) = true := by rw [show bit d.wls[g].gates k = false from hdown]; decide
  unfold Dev.abortHead
  rw [if_pos hnot]

/-- The gates that an abort of a head leaves up. -/
theorem Dev.bit_gatesUp_abortHead (d : Dev) (g : Grp) (cause : Nat) (k i : HeadIx) :
    bit ((d.abortHead g cause k).gatesUp g) i = (bit (d.gatesUp g) i && decide (i ≠ k)) := by
  cases hup : bit (d.gatesUp g) k with
  | true => rw [Dev.gatesUp_abortHead hup, bit_without8]
  | false =>
    rw [Dev.abortHead_of_down hup]
    by_cases e : i = k
    · rw [e, hup, Bool.false_and]
    · rw [decide_eq_true e, Bool.and_true]

/-- After an abort of every head no gate of the group is up. -/
theorem Dev.bit_gatesUp_abortHeads (d : Dev) (g : Grp) (cause : Nat) (i : HeadIx) :
    bit ((d.abortHeads g 255 cause).gatesUp g) i = false := by
  have hall : i ∈ headsOf 255 := mem_headsOf.mpr (by decide +revert)
  refine Dev.each_reaches (I := fun _ => True) (P := fun d => bit (d.gatesUp g) i = false) hall
    (fun _ _ _ => trivial) (fun d _ => ?_) (fun k d hd => ?_) trivial
  · simp [Dev.bit_gatesUp_abortHead]
  · simp [Dev.bit_gatesUp_abortHead, hd]

theorem Dev.gatesUp_safetyHeaters (d : Dev) (g : Grp) : (d.safetyHeaters g).gatesUp g = d.gatesUp g :=
  Dev.each_keeps (·.gatesUp g) _ _ (fun _ _ => (Dev.gatesUp_sendFrame ..).trans (Dev.gatesUp_dropHeater ..)) d

end Sys2Proof.Machine
end

section
/-! SUPPORT. Servo state changes and the emergency retract (R235, R238, R240 to R245). -/
namespace Sys2Proof.Machine

theorem Dev.srv_onSrv_self (d : Dev) (g : Grp) (f : Srv → Srv) : (d.onSrv g f).srv[g] = f d.srv[g] := getElem_upd ..

/-! ### Interrupts that stay -/

/-- A raise of an interrupt leaves every bit of its register that is set. -/
theorem Dev.get_raise_of_set (d : Dev) (r : Reg) {lo lo' : Nat} (hlo : lo < 32) (hlo' : lo' < 32) {i j : Nat}
    (h : d.get ⟨r, lo, 1⟩ i j = 1) : (d.raise ⟨r, lo', 1⟩ i j).get ⟨r, lo, 1⟩ i j = 1 := by
  by_cases e : lo = lo'
  · subst e
    exact Dev.get_set _ _ _ _ _ (show lo + 1 ≤ 32 by omega)
  · exact (Dev.get_set_beside _ _ _ _ _ _ _ _ _ ⟨by omega, by omega, by omega⟩).trans h

/-- What a servo operation leaves: the words of the registers that are not listed, SRV_INT_STATUS apart, where every interrupt
that is set stays. -/
structure Dev.ServoStep (keys : List Nat) (g : Grp) (d t : Dev) : Prop where
  words : ∀ (r : Reg) i j, r.key ∉ keys → r.key ≠ SRV_INT_STATUS.key → t.word r i j = d.word r i j
  interrupts : ∀ lo < 32, d.get ⟨SRV_INT_STATUS, lo, 1⟩ g = 1 → t.get ⟨SRV_INT_STATUS, lo, 1⟩ g = 1

section
variable {keys keys' : List Nat} {g : Grp} {d e t : Dev}

theorem Dev.ServoStep.trans (h : Dev.ServoStep keys g d e) (h' : Dev.ServoStep keys g e t) : Dev.ServoStep keys g d t :=
  ⟨fun r i j hr hint => (h'.words r i j hr hint).trans (h.words r i j hr hint),
    fun lo hlo hd => h'.interrupts lo hlo (h.interrupts lo hlo hd)⟩

theorem Dev.ServoStep.mono (h : Dev.ServoStep keys g d t) (hk : keys ⊆ keys') : Dev.ServoStep keys' g d t :=
  ⟨fun r i j hr => h.words r i j fun hr' => hr (hk hr'), h.interrupts⟩

theorem Dev.ServoStep.get (h : Dev.ServoStep keys g d t) (f : Fld) (hf : f.reg.key ∉ keys)
    (hint : f.reg.key ≠ SRV_INT_STATUS.key) (i j : Nat) : t.get f i j = d.get f i j := Dev.get_of_word (h.words _ i j hf hint)

/-- An operation that leaves SRV_INT_STATUS too. -/
theorem Dev.servoStep_of_words (h : ∀ (r : Reg) i j, r.key ∉ keys → t.word r i j = d.word r i j)
    (hint : SRV_INT_STATUS.key ∉ keys) : Dev.ServoStep keys g d t :=
  ⟨fun r i j hr _ => h r i j hr, fun _ _ hd => (Dev.get_of_word (h SRV_INT_STATUS g 0 hint)).trans hd⟩

theorem Dev.ServoStep.rfl : Dev.ServoStep keys g d d := ⟨fun _ _ _ _ _ => .refl _, fun _ _ h => h⟩

theorem Dev.servoStep_of_regs (h : t.regs = d.regs) : Dev.ServoStep keys g d t :=
  ⟨fun _ _ _ _ _ => Dev.word_of_regs h _ _ _, fun _ _ hd => (Dev.get_of_regs h _ _ _).trans hd⟩

theorem Dev.servoStep_set (d : Dev) (f : Fld) (v : Nat) (i j : Nat) (hf : f.reg.key ∈ keys) (hint : f.reg.key ≠ SRV_INT_STATUS.key) :
    Dev.ServoStep keys g d (d.set f v i j) :=
  ⟨fun _ _ _ hr _ => Dev.word_set_of_key _ _ _ _ _ _ _ _ fun e => hr (e ▸ hf),
    fun _ _ hd => (Dev.get_set_of_key _ _ _ _ _ _ _ _ hint).trans hd⟩

theorem Dev.servoStep_raise (d : Dev) {lo : Nat} (hlo : lo < 32) : Dev.ServoStep keys g d (d.raise ⟨SRV_INT_STATUS, lo, 1⟩ g) :=
  ⟨fun _ _ _ _ hint => Dev.word_set_of_key _ _ _ _ _ _ _ _ (Ne.symm hint), fun _ hlo' hd => d.get_raise_of_set _ hlo' hlo hd⟩

theorem Dev.servoStep_when {c : Bool} {f : Dev → Dev} (h : c = true → Dev.ServoStep keys g d (f d)) :
    Dev.ServoStep keys g d (d.when c f) := by
  unfold Dev.when
  split
  next hc => exact h hc
  next => exact .rfl

end

/-! ### A state is entered -/

theorem Dev.word_icuRest (d : Dev) (g : Grp) {r : Reg} (h : SRV_ICU_CTRL.key ≠ r.key) (i j : Nat) :
    (d.icuRest g).word r i j = d.word r i j := by
  unfold Dev.icuRest
  rw [Dev.word_onSrv, Dev.word_set_of_key _ SRV_ICU_CTRL.STOP _ _ _ _ _ _ h, Dev.word_set_of_key _ SRV_ICU_CTRL.RUN _ _ _ _ _ _ h]

theorem Dev.word_icuHalt (d : Dev) (g : Grp) {r : Reg} (h : SRV_ICU_CTRL.key ≠ r.key) (i j : Nat) :
    (d.icuHalt g).word r i j = d.word r i j := by
  unfold Dev.icuHalt
  rw [Dev.word_onSrv, Dev.word_set_of_key _ SRV_ICU_CTRL.GO _ _ _ _ _ _ h, Dev.word_icuRest _ _ h]

/-- Entering a state writes the state, and stops the generator. -/
theorem Dev.word_enter (d : Dev) (g : Grp) (st : Nat) {r : Reg} (h : r.key ∉ [SRV_STATUS.key, SRV_ICU_CTRL.key]) (i j : Nat) :
    (d.enter g st).word r i j = d.word r i j := by
  simp only [List.mem_cons, List.not_mem_nil, or_false, not_or] at h
  unfold Dev.enter
  rw [Dev.word_when _ _ _ _ _ _ (Dev.word_icuHalt _ _ (Ne.symm h.2) _ _), Dev.word_onSrv,
    Dev.word_set_of_key _ SRV_STATUS.STATE _ _ _ _ _ _ (Ne.symm h.1)]

theorem Dev.state_enter (d : Dev) (g : Grp) {st : Nat} (h : st < 16) : (d.enter g st).get SRV_STATUS.STATE g = st := by
  have hword : (d.enter g st).word SRV_STATUS g = (d.set SRV_STATUS.STATE st g).word SRV_STATUS g := by
    unfold Dev.enter
    rw [Dev.word_when _ _ _ _ _ _ (Dev.word_icuHalt _ _ (by decide) _ _), Dev.word_onSrv]
  exact (congrArg SRV_STATUS.STATE.of hword).trans ((Dev.get_set _ _ _ _ _ (by decide)).trans (Nat.mod_eq_of_lt h))

/-- What entering a state changes of an engine: its counters and its generator. -/
theorem Dev.srv_enter (d : Dev) (g : Grp) (st : Nat) : ∃ icu, (d.enter g st).srv[g] =
    { d.srv[g] with fe := Vector.replicate 8 0, ontrack := 0, settle := 0, icu := icu } := by
  unfold Dev.enter Dev.when
  extract_lets entered
  have hentered : entered.srv[g] = { d.srv[g] with fe := Vector.replicate 8 0, ontrack := 0, settle := 0 } :=
    Dev.srv_onSrv_self ..
  split
  · have hrest : (entered.icuRest g).srv[g] = { entered.srv[g] with
        icu := { entered.srv[g].icu with stop := false, inj := 0 } } := Dev.srv_onSrv_self ..
    have hhalt : (entered.icuHalt g).srv[g] = { (entered.icuRest g).srv[g] with
        icu := { (entered.icuRest g).srv[g].icu with armed := false } } := Dev.srv_onSrv_self ..
    exact ⟨_, by rw [hhalt, hrest, hentered]⟩
  · exact ⟨_, hentered⟩

theorem Dev.servoStep_enter (d : Dev) (g : Grp) (st : Nat) : Dev.ServoStep [SRV_STATUS.key, SRV_ICU_CTRL.key] g d (d.enter g st) :=
  Dev.servoStep_of_words (fun _ i j hr => d.word_enter g st hr i j) (by decide)

/-- The units beside the engine stay. -/
theorem Dev.units_enter (d : Dev) (g : Grp) (st : Nat) : ((d.enter g st).wls, (d.enter g st).tok, (d.enter g st).grpq) =
    (d.wls, d.tok, d.grpq) := by
  unfold Dev.enter Dev.when
  dsimp only
  split <;> rfl

end Sys2Proof.Machine
end

section
/-! SUPPORT. The emergency retract of a group that is loaded, stage by stage (R241 to R243, R245). -/
namespace Sys2Proof.Machine

/-! ### Its stages -/

/-- Track is lost, and a positioning request that waits is reported. -/
def Dev.retractWarns (d : Dev) (g : Grp) : Dev :=
  let d := if d.srvState g == stTrack then d.loseTrack g else d
  d.when (d.srv[g].request).isSome (·.raise SRV_INT_STATUS.CMD_ERR g)

/-- RETRACT is entered: every head inhibited, the interrupt, the latch, and no record. -/
def Dev.retractEnters (d : Dev) (g : Grp) : Dev :=
  ((((d.enter g stRetract).inhibitAll g).raise SRV_INT_STATUS.RETRACT g).set SRV_SUP_STATUS.RET_LATCH 1 g).set
    SRV_RET_INFO.VALID 0 g

/-- The engine at the start of a retract. -/
def Srv.retracting (cause : Nat) (s : Srv) : Srv :=
  { s with retCause := cause, retMask := 1 <<< (cause - 1), request := none, transfer := none,
           ramp := false, loadFailed := false, trackLost := true, vcm := 0,
           fine := Vector.replicate 8 0, applied := Vector.replicate 9 0 }

/-- An operation that waits for a t0 is dropped. -/
def Dev.dropWaiting (d : Dev) (go : Fld) (g : Grp) : Dev :=
  d.when (d.on go g) fun d => (d.set go 0 g).raise SRV_INT_STATUS.CMD_ERR g

/-- The group's writes stop. -/
def Dev.writesStop (d : Dev) (g : Grp) : Dev := ((d.abortHeads g 255 3).safetyHeaters g).dropTokens g

/-- The retract frame is sent. -/
def Dev.retractSends (d : Dev) (g : Grp) : Dev := ((d.sendDown g false).trigger g 3).refreshInh g

theorem Dev.retract_loaded {d : Dev} {g : Grp} (hoff : d.get SRV_STATUS.STATE g ≠ 0) (hparked : d.get SRV_STATUS.STATE g ≠ 1)
    (hretract : d.get SRV_STATUS.STATE g ≠ 7) (cause : Nat) : d.retract g cause =
      (((((((d.retractWarns g).retractEnters g).onSrv g (Srv.retracting cause)).dropWaiting SRV_CMD.GO g).dropWaiting
        SRV_MODE_CMD.GO g).writesStop g).abandon g).retractSends g := by
  unfold Dev.retract Dev.srvState
  rw [if_neg (by simpa using hretract), if_neg (by simp [hoff, hparked])]
  rfl

/-! ### What each leaves -/

theorem Dev.retractWarns_step (d : Dev) (g : Grp) : Dev.ServoStep [] g d (d.retractWarns g) := by
  unfold Dev.retractWarns
  extract_lets lost
  have hlost : lost.regs = d.regs := by
    simp only [lost]
    split <;> rfl
  exact (Dev.servoStep_of_regs (keys := []) hlost).trans (Dev.servoStep_when fun _ => lost.servoStep_raise (by decide))

theorem Dev.retractWarns_units (d : Dev) (g : Grp) : ((d.retractWarns g).wls, (d.retractWarns g).tok, (d.retractWarns g).grpq) =
    (d.wls, d.tok, d.grpq) := by
  unfold Dev.retractWarns Dev.when
  dsimp only
  split <;> split <;> rfl

/-- A request that waits is reported. -/
theorem Dev.retractWarns_request {d : Dev} {g : Grp} (h : d.srv[g].request ≠ none) :
    (d.retractWarns g).get SRV_INT_STATUS.CMD_ERR g = 1 := by
  unfold Dev.retractWarns Dev.when
  extract_lets lost
  have hlost : lost.srv[g].request = d.srv[g].request := by
    simp only [lost]
    split
    · rw [Dev.loseTrack, Dev.srv_onSrv_self]
    · rfl
  rw [if_pos (by rw [hlost]; exact Option.isSome_iff_ne_none.mpr h)]
  exact Dev.get_set _ _ _ _ _ (by decide)

/-- The registers that entering RETRACT writes. -/
def retractEntryKeys : List Nat := [SRV_STATUS.key, SRV_ICU_CTRL.key, SRV_SUP_STATUS.key, SRV_RET_INFO.key]

theorem Dev.retractEnters_step (d : Dev) (g : Grp) : Dev.ServoStep retractEntryKeys g d (d.retractEnters g) := by
  have hinhibited : Dev.ServoStep retractEntryKeys g (d.enter g stRetract) ((d.enter g stRetract).inhibitAll g) :=
    (Dev.servoStep_set _ SRV_SUP_STATUS.WI 255 g 0 (by decide) (by decide)).trans (Dev.servoStep_of_regs rfl)
  exact ((((d.servoStep_enter g stRetract).mono (by decide)).trans hinhibited).trans (Dev.servoStep_raise _ (by decide))).trans
    ((Dev.servoStep_set _ _ _ _ _ (by decide) (by decide)).trans (Dev.servoStep_set _ _ _ _ _ (by decide) (by decide)))

theorem Dev.retractEnters_units (d : Dev) (g : Grp) :
    ((d.retractEnters g).wls, (d.retractEnters g).tok, (d.retractEnters g).grpq) = (d.wls, d.tok, d.grpq) := by
  have hinhibit (e : Dev) : ((e.inhibitAll g).wls, (e.inhibitAll g).tok, (e.inhibitAll g).grpq) = (e.wls, e.tok, e.grpq) := rfl
  have hset (e : Dev) (f : Fld) (v : Nat) : ((e.set f v g).wls, (e.set f v g).tok, (e.set f v g).grpq) = (e.wls, e.tok, e.grpq) :=
    rfl
  exact (hset ..).trans ((hset ..).trans ((hset ..).trans ((hinhibit _).trans (d.units_enter g stRetract))))

theorem Dev.retractEnters_shows (d : Dev) (g : Grp) : let t := d.retractEnters g
    t.get SRV_STATUS.STATE g = 7 ∧ t.get SRV_SUP_STATUS.WI g = 255 ∧ t.get SRV_SUP_STATUS.RET_LATCH g = 1 ∧
      t.get SRV_RET_INFO.VALID g = 0 ∧ t.get SRV_INT_STATUS.RETRACT g = 1 := by
  have hstate : (d.enter g stRetract).get SRV_STATUS.STATE g = 7 := d.state_enter g (by decide)
  unfold Dev.retractEnters Dev.inhibitAll Dev.raise
  generalize d.enter g stRetract = e at hstate
  have hsrv (e : Dev) (f : Srv → Srv) (x : Fld) : (e.onSrv g f).get x g = e.get x g := rfl
  refine ⟨?_, ?_, ?_, ?_, ?_⟩ <;>
    simp (disch := decide) [SRV_STATUS.STATE, SRV_SUP_STATUS.WI, SRV_SUP_STATUS.RET_LATCH, SRV_RET_INFO.VALID,
      SRV_INT_STATUS.RETRACT, Dev.get_set, Dev.get_set_beside, Dev.get_set_of_key, hsrv]
  exact hstate

theorem Dev.dropWaiting_step (d : Dev) (go : Fld) (g : Grp) (hgo : go.reg.key ≠ SRV_INT_STATUS.key) :
    Dev.ServoStep [go.reg.key] g d (d.dropWaiting go g) :=
  Dev.servoStep_when fun _ => (d.servoStep_set go 0 g 0 (List.mem_singleton_self _) hgo).trans
    (Dev.servoStep_raise _ (by decide))

theorem Dev.dropWaiting_units (d : Dev) (go : Fld) (g : Grp) :
    ((d.dropWaiting go g).srv, (d.dropWaiting go g).wls, (d.dropWaiting go g).tok, (d.dropWaiting go g).grpq) =
      (d.srv, d.wls, d.tok, d.grpq) := by
  unfold Dev.dropWaiting Dev.when
  split <;> rfl

/-- No operation waits then, and one that waited is reported. -/
theorem Dev.dropWaiting_drops (d : Dev) (go : Fld) (g : Grp) (hgo : go.reg.key ≠ SRV_INT_STATUS.key) (hw : go.lo + go.width ≤ 32) :
    (d.dropWaiting go g).get go g = 0 ∧ (d.get go g ≠ 0 → (d.dropWaiting go g).get SRV_INT_STATUS.CMD_ERR g = 1) := by
  unfold Dev.dropWaiting Dev.when Dev.on
  split
  next hon =>
    refine ⟨(Dev.get_set_of_key _ _ _ _ _ _ _ _ (Ne.symm hgo)).trans ?_, fun _ => Dev.get_set _ _ _ _ _ (by decide)⟩
    rw [Dev.get_set _ _ _ _ _ hw, Nat.zero_mod]
  next hoff =>
    have hzero : d.get go g = 0 := by simpa using hoff
    exact ⟨hzero, fun h => absurd hzero h⟩

/-! ### What follows in every unit -/

/-- The registers that the end of a retract writes. -/
def retractEndKeys : List Nat := QUE_GRP_STATUS.key :: writePathKeys

theorem Dev.word_abandon (d : Dev) (g : Grp) {r : Reg} (h : QUE_GRP_STATUS.key ≠ r.key) (i j : Nat) :
    (d.abandon g).word r i j = d.word r i j := (Dev.word_showGrpq _ g h i j).trans rfl

theorem Dev.Aloof.writesStop {β : Type} {φ : Dev → β} (h : Dev.Aloof φ) (d : Dev) (g : Grp) : φ (d.writesStop g) = φ d :=
  (h.dropTokens ..).trans ((h.safetyHeaters ..).trans (h.abortHeads ..))

theorem Dev.word_retractSends (d : Dev) (g : Grp) {r : Reg} (h : r.key ∉ retractEndKeys) (i j : Nat) :
    (d.retractSends g).word r i j = d.word r i j :=
  ((Dev.aloof_word (List.not_mem_of_not_mem_cons h) i j).refreshInh ..).trans
    (Dev.when_keeps (fun d => d.word r i j) _ _ rfl)

theorem Dev.retractEnd_step (d : Dev) (g : Grp) :
    Dev.ServoStep retractEndKeys g d (((d.writesStop g).abandon g).retractSends g) :=
  Dev.servoStep_of_words (fun _ i j hr => (Dev.word_retractSends _ g hr i j).trans
    ((Dev.word_abandon _ g (Ne.symm (List.ne_of_not_mem_cons hr)) i j).trans
      ((Dev.aloof_word (List.not_mem_of_not_mem_cons hr) i j).writesStop d g))) (by decide)

/-- What sending a retract frame changes of an engine: its link, and a capture's trigger. -/
theorem Dev.srv_retractSends (d : Dev) (g : Grp) : ∃ seq frame cap, (d.retractSends g).srv[g] =
    { d.srv[g] with seq := seq, frame := frame, repeated := false, cap := cap } := by
  have hsent : (d.sendDown g false).srv[g] = { d.srv[g] with
      seq := (d.srv[g].seq + 1) % 16, frame := (d.onSrv g fun s => { s with seq := (s.seq + 1) % 16 }).frameBytes g false,
      repeated := false } := by
    rw [show d.sendDown g false = (d.onSrv g fun s => { s with seq := (s.seq + 1) % 16 }).onSrv g fun s => { s with
      frame := (d.onSrv g fun s => { s with seq := (s.seq + 1) % 16 }).frameBytes g false, repeated := false } from rfl,
      Dev.srv_onSrv_self, Dev.srv_onSrv_self]
  have hshown : (d.retractSends g).srv = ((d.sendDown g false).trigger g 3).srv := rfl
  rw [hshown]
  unfold Dev.trigger Dev.when
  split
  · rw [Dev.srv_onSrv_self, hsent]
    exact ⟨_, _, _, rfl⟩
  · exact ⟨_, _, _, hsent⟩

theorem Dev.srv_abandon (d : Dev) (g : Grp) : (d.abandon g).srv = d.srv := rfl

/-- The group's requests go back to its list, those of a flush apart. -/
theorem Dev.grpq_abandon (d : Dev) (g : Grp) : (d.abandon g).grpq[g] = { d.grpq[g] with
    list := (d.grpq[g].posted ++ d.grpq[g].active.toList ++ d.grpq[g].list).filter fun m => !m.isFlush, active := none,
    posted := [], reread := false, released := false } := getElem_upd ..

theorem Dev.units_abandon (d : Dev) (g : Grp) : ((d.abandon g).wls, (d.abandon g).tok) = (d.wls, d.tok) := rfl

theorem Dev.held_writesStop (d : Dev) (g : Grp) : (d.writesStop g).tok.held[g] = 0 := by
  unfold Dev.writesStop
  generalize (d.abortHeads g 255 3).safetyHeaters g = e
  exact Vector.getElem_set_self ..

theorem Dev.gatesUp_writesStop (d : Dev) (g : Grp) (i : HeadIx) : bit ((d.writesStop g).gatesUp g) i = false := by
  have hkept : (d.writesStop g).gatesUp g = (d.abortHeads g 255 3).gatesUp g := Dev.gatesUp_safetyHeaters (d.abortHeads g 255 3) g
  rw [hkept]
  exact d.bit_gatesUp_abortHeads g 3 i

theorem Dev.units_retractSends (d : Dev) (g : Grp) : ((d.retractSends g).wls, (d.retractSends g).tok, (d.retractSends g).grpq) =
    (d.wls, d.tok, d.grpq) := Dev.when_keeps (fun d => (d.wls, d.tok, d.grpq)) _ _ rfl

/-! ### A retract -/

/-- A retract of a loaded group before its writes stop. -/
def Dev.retractBegins (d : Dev) (g : Grp) (cause : Nat) : Dev :=
  ((((d.retractWarns g).retractEnters g).onSrv g (Srv.retracting cause)).dropWaiting SRV_CMD.GO g).dropWaiting SRV_MODE_CMD.GO g

/-- What follows: the writes stop, the group's requests go back, and the frame goes out. -/
def Dev.retractEnds (d : Dev) (g : Grp) : Dev := ((d.writesStop g).abandon g).retractSends g

/-- The registers that the beginning of a retract writes. -/
def retractBeginKeys : List Nat := retractEntryKeys ++ [SRV_CMD.key, SRV_MODE_CMD.key]

/-- What a group shows when a retract has begun (R241 to R243). -/
structure Dev.RetractShows (g : Grp) (cause : Nat) (d t : Dev) : Prop where
  state : t.get SRV_STATUS.STATE g = 7
  inhibited : t.get SRV_SUP_STATUS.WI g = 255
  latched : t.get SRV_SUP_STATUS.RET_LATCH g = 1
  unrecorded : t.get SRV_RET_INFO.VALID g = 0
  raised : t.get SRV_INT_STATUS.RETRACT g = 1
  noCmd : t.get SRV_CMD.GO g = 0
  noMode : t.get SRV_MODE_CMD.GO g = 0
  dropped : d.get SRV_CMD.GO g = 1 ∨ d.get SRV_MODE_CMD.GO g = 1 ∨ d.srv[g].request ≠ none →
    t.get SRV_INT_STATUS.CMD_ERR g = 1
  engine : t.srv[g].retCause = cause ∧ t.srv[g].retMask = 1 <<< (cause - 1) ∧ t.srv[g].vcm = 0 ∧ t.srv[g].request = none

theorem Dev.RetractShows.of_step {g : Grp} {cause : Nat} {d e t : Dev} (h : Dev.RetractShows g cause d e)
    (hs : Dev.ServoStep retractEndKeys g e t)
    (he : t.srv[g].retCause = cause ∧ t.srv[g].retMask = 1 <<< (cause - 1) ∧ t.srv[g].vcm = 0 ∧ t.srv[g].request = none) :
    Dev.RetractShows g cause d t where
  state := (hs.get SRV_STATUS.STATE (by decide) (by decide) _ _).trans h.state
  inhibited := (hs.get SRV_SUP_STATUS.WI (by decide) (by decide) _ _).trans h.inhibited
  latched := (hs.get SRV_SUP_STATUS.RET_LATCH (by decide) (by decide) _ _).trans h.latched
  unrecorded := (hs.get SRV_RET_INFO.VALID (by decide) (by decide) _ _).trans h.unrecorded
  raised := hs.interrupts _ (by decide) h.raised
  noCmd := (hs.get SRV_CMD.GO (by decide) (by decide) _ _).trans h.noCmd
  noMode := (hs.get SRV_MODE_CMD.GO (by decide) (by decide) _ _).trans h.noMode
  dropped := fun hd => hs.interrupts _ (by decide) (h.dropped hd)
  engine := he

/-- What the two drops of waiting operations leave. -/
theorem Dev.dropsWaiting_step (d : Dev) (g : Grp) :
    Dev.ServoStep [SRV_CMD.key, SRV_MODE_CMD.key] g d ((d.dropWaiting SRV_CMD.GO g).dropWaiting SRV_MODE_CMD.GO g) :=
  ((d.dropWaiting_step SRV_CMD.GO g (by decide)).mono (by decide)).trans
    ((Dev.dropWaiting_step _ SRV_MODE_CMD.GO g (by decide)).mono (by decide))

/-- No operation waits then, and one that waited is reported. -/
theorem Dev.dropsWaiting_drops (d : Dev) (g : Grp) : let t := (d.dropWaiting SRV_CMD.GO g).dropWaiting SRV_MODE_CMD.GO g
    t.get SRV_CMD.GO g = 0 ∧ t.get SRV_MODE_CMD.GO g = 0 ∧
      (d.get SRV_CMD.GO g ≠ 0 ∨ d.get SRV_MODE_CMD.GO g ≠ 0 → t.get SRV_INT_STATUS.CMD_ERR g = 1) := by
  have hcmd := d.dropWaiting_step SRV_CMD.GO g (by decide)
  obtain ⟨hnoCmd, hcmdErr⟩ := d.dropWaiting_drops SRV_CMD.GO g (by decide) (by decide)
  generalize d.dropWaiting SRV_CMD.GO g = e at hcmd hnoCmd hcmdErr ⊢
  have hmode := e.dropWaiting_step SRV_MODE_CMD.GO g (by decide)
  obtain ⟨hnoMode, hmodeErr⟩ := e.dropWaiting_drops SRV_MODE_CMD.GO g (by decide) (by decide)
  refine ⟨(hmode.get SRV_CMD.GO (by decide) (by decide) _ _).trans hnoCmd, hnoMode, ?_⟩
  rintro (h | h)
  · exact hmode.interrupts _ (by decide) (hcmdErr h)
  · exact hmodeErr (by rwa [hcmd.get SRV_MODE_CMD.GO (by decide) (by decide)])

theorem Dev.get_onSrv (d : Dev) (g : Grp) (f : Srv → Srv) (x : Fld) (i j : Nat) : (d.onSrv g f).get x i j = d.get x i j := rfl

/-- What is left when the drops begin. -/
theorem Dev.retractEntered_step (d : Dev) (g : Grp) (cause : Nat) :
    Dev.ServoStep retractEntryKeys g d (((d.retractWarns g).retractEnters g).onSrv g (Srv.retracting cause)) :=
  (((d.retractWarns_step g).mono (by decide)).trans (Dev.retractEnters_step _ g)).trans (Dev.servoStep_of_regs rfl)

theorem Dev.retractBegins_step (d : Dev) (g : Grp) (cause : Nat) :
    Dev.ServoStep retractBeginKeys g d (d.retractBegins g cause) :=
  ((d.retractEntered_step g cause).mono (by decide)).trans ((Dev.dropsWaiting_step _ g).mono (by decide))

theorem Dev.retractBegins_units (d : Dev) (g : Grp) (cause : Nat) :
    ((d.retractBegins g cause).wls, (d.retractBegins g cause).tok, (d.retractBegins g cause).grpq) = (d.wls, d.tok, d.grpq) := by
  have hdrops (e : Dev) (go : Fld) : ((e.dropWaiting go g).wls, (e.dropWaiting go g).tok, (e.dropWaiting go g).grpq) =
      (e.wls, e.tok, e.grpq) := congrArg Prod.snd (e.dropWaiting_units go g)
  have hbegun (e : Dev) (f : Srv → Srv) : ((e.onSrv g f).wls, (e.onSrv g f).tok, (e.onSrv g f).grpq) = (e.wls, e.tok, e.grpq) := rfl
  exact (hdrops _ _).trans ((hdrops _ _).trans ((hbegun _ _).trans ((Dev.retractEnters_units _ g).trans (d.retractWarns_units g))))

theorem Dev.retractBegins_srv (d : Dev) (g : Grp) (cause : Nat) : (d.retractBegins g cause).srv =
    (((d.retractWarns g).retractEnters g).onSrv g (Srv.retracting cause)).srv :=
  (congrArg Prod.fst (Dev.dropWaiting_units _ SRV_MODE_CMD.GO g)).trans (congrArg Prod.fst (Dev.dropWaiting_units _ SRV_CMD.GO g))

theorem Dev.retractBegins_shows (d : Dev) (g : Grp) (cause : Nat) : Dev.RetractShows g cause d (d.retractBegins g cause) := by
  have hbefore := d.retractEntered_step g cause
  have hsrv := (congrArg (·[g]) (d.retractBegins_srv g cause)).trans (Dev.srv_onSrv_self ((d.retractWarns g).retractEnters g) g _)
  have hrequest : d.srv[g].request ≠ none →
      (((d.retractWarns g).retractEnters g).onSrv g (Srv.retracting cause)).get SRV_INT_STATUS.CMD_ERR g = 1 :=
    fun h => (Dev.get_onSrv ..).trans ((Dev.retractEnters_step _ g).interrupts _ (by decide) (d.retractWarns_request h))
  obtain ⟨hstate, hwi, hlatch, hvalid, hint⟩ := (d.retractWarns g).retractEnters_shows g
  rw [← Dev.get_onSrv _ g (Srv.retracting cause)] at hstate hwi hlatch hvalid hint
  unfold Dev.retractBegins at hsrv ⊢
  generalize ((d.retractWarns g).retractEnters g).onSrv g (Srv.retracting cause) = e at *
  have hdrops := e.dropsWaiting_step g
  obtain ⟨hnoCmd, hnoMode, herr⟩ := e.dropsWaiting_drops g
  generalize (e.dropWaiting SRV_CMD.GO g).dropWaiting SRV_MODE_CMD.GO g = t at *
  exact {
    state := (hdrops.get SRV_STATUS.STATE (by decide) (by decide) _ _).trans hstate
    inhibited := (hdrops.get SRV_SUP_STATUS.WI (by decide) (by decide) _ _).trans hwi
    latched := (hdrops.get SRV_SUP_STATUS.RET_LATCH (by decide) (by decide) _ _).trans hlatch
    unrecorded := (hdrops.get SRV_RET_INFO.VALID (by decide) (by decide) _ _).trans hvalid
    raised := hdrops.interrupts _ (by decide) hint
    noCmd := hnoCmd
    noMode := hnoMode
    dropped := fun h => by
      have hcmdGo := hbefore.get SRV_CMD.GO (by decide) (by decide) g 0
      have hmodeGo := hbefore.get SRV_MODE_CMD.GO (by decide) (by decide) g 0
      rcases h with h | h | h
      · exact herr (.inl (by omega))
      · exact herr (.inr (by omega))
      · exact hdrops.interrupts _ (by decide) (hrequest h)
    engine := by rw [hsrv]; exact ⟨rfl, rfl, rfl, rfl⟩ }

/-- What the end of a retract leaves of an engine. -/
theorem Dev.retractEnds_srv (d : Dev) (g : Grp) : ∃ seq frame cap, (d.retractEnds g).srv[g] =
    { d.srv[g] with seq := seq, frame := frame, repeated := false, cap := cap } := by
  have hkept : ((d.writesStop g).abandon g).srv = d.srv :=
    (Dev.srv_abandon _ g).trans (congrArg Prod.fst (Dev.aloof_units.writesStop d g))
  obtain ⟨seq, frame, cap, hsent⟩ := ((d.writesStop g).abandon g).srv_retractSends g
  rw [hkept] at hsent
  exact ⟨seq, frame, cap, hsent⟩

theorem Dev.retractEnds_held (d : Dev) (g : Grp) : (d.retractEnds g).tok.held[g] = 0 := by
  have hsent := congrArg (·.2.1) (Dev.units_retractSends ((d.writesStop g).abandon g) g)
  have hleft := congrArg Prod.snd ((d.writesStop g).units_abandon g)
  exact (congrArg (fun t : Tokens => t.held[g]) (hsent.trans hleft)).trans (d.held_writesStop g)

theorem Dev.retractEnds_gates (d : Dev) (g : Grp) (i : HeadIx) : bit (d.retractEnds g).wls[g].gates i = false := by
  have hsent := congrArg Prod.fst (Dev.units_retractSends ((d.writesStop g).abandon g) g)
  have hleft := congrArg Prod.fst ((d.writesStop g).units_abandon g)
  exact (congrArg (fun w : Vector Wls 4 => bit w[g].gates i) (hsent.trans hleft)).trans (d.gatesUp_writesStop g i)

theorem Dev.retractEnds_grpq (d : Dev) (g : Grp) : (d.retractEnds g).grpq[g] = { d.grpq[g] with
    list := (d.grpq[g].posted ++ d.grpq[g].active.toList ++ d.grpq[g].list).filter fun m => !m.isFlush, active := none,
    posted := [], reread := false, released := false } := by
  have hsent := congrArg (·.2.2) (Dev.units_retractSends ((d.writesStop g).abandon g) g)
  have hkept : (d.writesStop g).grpq = d.grpq := congrArg Prod.snd (Dev.aloof_units.writesStop d g)
  have hleft := (d.writesStop g).grpq_abandon g
  rw [hkept] at hleft
  exact (congrArg (·[g]) hsent).trans hleft

/-- The registers that a retract writes, SRV_INT_STATUS apart. -/
def retractKeys : List Nat := retractBeginKeys ++ retractEndKeys

/-- What a group has come to by a retract (R241 to R243, R245). -/
structure Dev.Retracted (g : Grp) (cause : Nat) (d t : Dev) : Prop extends Dev.RetractShows g cause d t where
  step : Dev.ServoStep retractKeys g d t
  held : t.tok.held[g] = 0
  gates : ∀ i : HeadIx, bit t.wls[g].gates i = false
  queue : t.grpq[g].list = (d.grpq[g].posted ++ d.grpq[g].active.toList ++ d.grpq[g].list).filter (fun m => !m.isFlush) ∧
    t.grpq[g].active = none ∧ t.grpq[g].posted = []

theorem Dev.retract_retracts {d : Dev} {g : Grp} (hoff : d.get SRV_STATUS.STATE g ≠ 0) (hparked : d.get SRV_STATUS.STATE g ≠ 1)
    (hretract : d.get SRV_STATUS.STATE g ≠ 7) (cause : Nat) : Dev.Retracted g cause d (d.retract g cause) := by
  rw [show d.retract g cause = (d.retractBegins g cause).retractEnds g from Dev.retract_loaded hoff hparked hretract cause]
  have hbegin := d.retractBegins_step g cause
  have hshows := d.retractBegins_shows g cause
  have hgrpq : (d.retractBegins g cause).grpq = d.grpq := congrArg (·.2.2) (d.retractBegins_units g cause)
  generalize d.retractBegins g cause = e at *
  obtain ⟨seq, frame, cap, hsrv⟩ := e.retractEnds_srv g
  have hend : Dev.ServoStep retractEndKeys g e (e.retractEnds g) := e.retractEnd_step g
  exact {
    toRetractShows := hshows.of_step hend (by rw [hsrv]; exact hshows.engine)
    step := (hbegin.mono (by decide)).trans (hend.mono (by decide))
    held := e.retractEnds_held g
    gates := e.retractEnds_gates g
    queue := by
      rw [Dev.retractEnds_grpq, hgrpq]
      exact ⟨rfl, rfl, rfl⟩ }

end Sys2Proof.Machine
end

section
/-! SUPPORT and O31. The supervision of a group (R222, R235, R237, R239). -/
namespace Sys2Proof.Machine

theorem Dev.get_lt (d : Dev) (f : Fld) (i j : Nat) : d.get f i j < 2 ^ f.width := BitVec.isLt _

/-- A bit is added to a field's mask. -/
theorem Dev.get_orBits (d : Dev) (f : Fld) (m i j : Nat) (hw : f.lo + f.width ≤ 32) (hm : m < 2 ^ f.width) :
    (d.orBits f m i j).get f i j = d.get f i j ||| m :=
  (Dev.get_set _ _ _ _ _ hw).trans (Nat.mod_eq_of_lt (Nat.or_lt_two_pow (d.get_lt f i j) hm))

/-- A bit is taken from a field's mask. -/
theorem Dev.bit_clrBit (d : Dev) (f : Fld) (b i j k : Nat) (hw : f.lo + f.width ≤ 32) (hk : k < f.width) :
    bit ((d.clrBit f b i j).get f i j) k = (bit (d.get f i j) k && decide (k ≠ b)) := by
  unfold Dev.clrBit
  rw [Dev.get_set _ _ _ _ _ hw, ← bit_clearBit]
  unfold bit
  rw [Nat.testBit_mod_two_pow, decide_eq_true hk, Bool.true_and]

/-! ### Outside TRACK every head is inhibited (R235) -/

/-- The registers that inhibiting the heads and aborting their writes writes. -/
def inhibitKeys : List Nat := SRV_SUP_STATUS.key :: writePathKeys

theorem Dev.word_inhibitAll (d : Dev) (g : Grp) {r : Reg} (h : SRV_SUP_STATUS.key ≠ r.key) (i j : Nat) :
    (d.inhibitAll g).word r i j = d.word r i j := by
  unfold Dev.inhibitAll
  rw [Dev.word_onSrv, Dev.word_set_of_key _ SRV_SUP_STATUS.WI _ _ _ _ _ _ h]

theorem Dev.inhibitNow_step (d : Dev) (g : Grp) : Dev.ServoStep inhibitKeys g d (d.inhibitNow g) :=
  Dev.servoStep_of_words (fun _ i j hr =>
    ((Dev.aloof_word (List.not_mem_of_not_mem_cons hr) i j).refreshInh ..).trans
      (((Dev.aloof_word (List.not_mem_of_not_mem_cons hr) i j).abortHeads ..).trans
        (d.word_inhibitAll g (Ne.symm (List.ne_of_not_mem_cons hr)) i j))) (by decide)

theorem Dev.inhibits_inhibitNow (d : Dev) (g : Grp) : (d.inhibitNow g).get SRV_SUP_STATUS.WI g = 255 := by
  have hkept : (d.inhibitNow g).word SRV_SUP_STATUS g = (d.inhibitAll g).word SRV_SUP_STATUS g :=
    ((Dev.aloof_word (by decide) _ _).refreshInh ..).trans ((Dev.aloof_word (by decide) _ _).abortHeads ..)
  exact (congrArg SRV_SUP_STATUS.WI.of hkept).trans (Dev.get_set d SRV_SUP_STATUS.WI 255 g 0 (by decide))

/-! ### The following error (R239) -/

/-- The record and the interrupt of a following error, and the counters cleared. -/
def Dev.recordsError (d : Dev) (g : Grp) (i : HeadIx) : Dev :=
  (((((((d.set SRV_FE_INFO.HEAD i g).set SRV_FE_INFO.STATE (d.srvState g) g).setSat SRV_FE_INFO.ERR
    (d.srv[g].y[i].natAbs / 4096) g).stamp SRV_FE_INFO.VALID SRV_FE_INFO.SEQ g).raise SRV_INT_STATUS.FOLLOW_ERR g).onSrv g
      fun s => { s with fe := Vector.replicate 8 0 })).trigger g 2

theorem Dev.followError_eq (d : Dev) (g : Grp) (i : HeadIx) : d.followError g i =
    if (d.recordsError g i).on SRV_SUP_CFG.FE_ACT g then (d.recordsError g i).retract g 4
    else if d.srvState g == stTrack then (((d.recordsError g i).loseTrack g).enter g stSettle).inhibitNow g
    else d.recordsError g i := rfl

theorem Dev.word_trigger (d : Dev) (g : Grp) (code : Nat) (r : Reg) (i j : Nat) : (d.trigger g code).word r i j = d.word r i j :=
  Dev.when_keeps (fun d => d.word r i j) _ _ rfl

theorem Dev.recordsError_step (d : Dev) (g : Grp) (i : HeadIx) :
    Dev.ServoStep [SRV_FE_INFO.key] g d (d.recordsError g i) := by
  have hinfo (e : Dev) (lo w v : Nat) : Dev.ServoStep [SRV_FE_INFO.key] g e (e.set ⟨SRV_FE_INFO, lo, w⟩ v g) :=
    e.servoStep_set _ _ _ _ (List.mem_singleton_self _) (show SRV_FE_INFO.key ≠ _ by decide)
  have hraise (e : Dev) : Dev.ServoStep [SRV_FE_INFO.key] g e (e.raise SRV_INT_STATUS.FOLLOW_ERR g) :=
    e.servoStep_raise (by decide)
  have hclear (e : Dev) (f : Srv → Srv) : Dev.ServoStep [SRV_FE_INFO.key] g e ((e.onSrv g f).trigger g 2) :=
    Dev.servoStep_of_words (fun _ _ _ _ => (Dev.word_trigger ..).trans (Dev.word_onSrv ..)) (by decide)
  exact ((hinfo _ _ _ _).trans ((hinfo _ _ _ _).trans (hinfo _ _ _ _))).trans
    (((hinfo _ _ _ _).trans (hinfo _ _ _ _)).trans ((hraise _).trans (hclear _ _)))

theorem Dev.recordsError_shows (d : Dev) (g : Grp) (i : HeadIx) : let t := d.recordsError g i
    t.get SRV_FE_INFO.VALID g = 1 ∧ t.get SRV_FE_INFO.HEAD g = i.val ∧ t.get SRV_FE_INFO.STATE g = d.get SRV_STATUS.STATE g ∧
      t.get SRV_FE_INFO.SEQ g = (d.get SRV_FE_INFO.SEQ g + 1) % 128 ∧ t.get SRV_INT_STATUS.FOLLOW_ERR g = 1 := by
  have hget (e : Dev) (f : Srv → Srv) (x : Fld) : ((e.onSrv g f).trigger g 2).get x g = e.get x g :=
    Dev.get_of_word ((Dev.word_trigger ..).trans (Dev.word_onSrv ..))
  have hstate : d.get SRV_STATUS.STATE g < 16 := d.get_lt SRV_STATUS.STATE g 0
  simp only [Dev.recordsError, hget]
  unfold Dev.raise Dev.stamp Dev.setSat Dev.srvState
  refine ⟨?_, ?_, ?_, ?_, ?_⟩ <;>
    simp (disch := decide) [SRV_FE_INFO.VALID, SRV_FE_INFO.HEAD, SRV_FE_INFO.STATE, SRV_FE_INFO.SEQ, SRV_FE_INFO.ERR,
      SRV_INT_STATUS.FOLLOW_ERR, Dev.get_set, Dev.get_set_beside, Dev.get_set_of_key, nextTag]
  exact hstate

/-- Without a retract, what a following error comes to in TRACK: the state, and every head inhibited. -/
theorem Dev.followError_track {d : Dev} {g : Grp} (hact : d.get SRV_SUP_CFG.FE_ACT g = 0) (hst : d.get SRV_STATUS.STATE g = 5)
    (i : HeadIx) : let t := d.followError g i
    Dev.ServoStep (SRV_STATUS.key :: SRV_ICU_CTRL.key :: inhibitKeys) g (d.recordsError g i) t ∧
      t.get SRV_STATUS.STATE g = 4 ∧ t.get SRV_SUP_STATUS.WI g = 255 := by
  have hoff : ¬ (d.recordsError g i).on SRV_SUP_CFG.FE_ACT g = true := by
    rw [Dev.on, (d.recordsError_step g i).get SRV_SUP_CFG.FE_ACT (by decide) (by decide), hact]
    decide
  rw [Dev.followError_eq, if_neg hoff, if_pos (by simp [Dev.srvState, hst, stTrack])]
  generalize d.recordsError g i = e
  have hlose : Dev.ServoStep (SRV_STATUS.key :: SRV_ICU_CTRL.key :: inhibitKeys) g e (e.loseTrack g) := Dev.servoStep_of_regs rfl
  generalize e.loseTrack g = lost at *
  have henter := lost.servoStep_enter g stSettle
  have hsettle := lost.state_enter g (st := stSettle) (by decide)
  generalize lost.enter g stSettle = settled at *
  have hinhibit := settled.inhibitNow_step g
  exact ⟨(hlose.trans (henter.mono (by decide))).trans (hinhibit.mono (by decide)),
    (hinhibit.get SRV_STATUS.STATE (by decide) (by decide) _ _).trans hsettle, settled.inhibits_inhibitNow g⟩

theorem Dev.followError_beside {d : Dev} {g : Grp} (hact : d.get SRV_SUP_CFG.FE_ACT g = 0) (hst : d.get SRV_STATUS.STATE g ≠ 5)
    (i : HeadIx) : d.followError g i = d.recordsError g i := by
  have hoff : ¬ (d.recordsError g i).on SRV_SUP_CFG.FE_ACT g = true := by
    rw [Dev.on, (d.recordsError_step g i).get SRV_SUP_CFG.FE_ACT (by decide) (by decide), hact]
    decide
  rw [Dev.followError_eq, if_neg hoff, if_neg (by simpa [Dev.srvState, stTrack] using hst)]

theorem Dev.followError_retracts {d : Dev} {g : Grp} (hact : d.get SRV_SUP_CFG.FE_ACT g = 1) (i : HeadIx) :
    d.followError g i = (d.recordsError g i).retract g 4 := by
  have hon : (d.recordsError g i).on SRV_SUP_CFG.FE_ACT g = true := by
    rw [Dev.on, (d.recordsError_step g i).get SRV_SUP_CFG.FE_ACT (by decide) (by decide), hact]
    decide
  rw [Dev.followError_eq, if_pos hon]

/-- In SEEK, SETTLE and TRACK a head whose counter has reached its limit is a following error. -/
theorem completes_followingError {s : State} {g : Grp} {i : HeadIx} {P : Dev → Prop} (hc : s.dev.clocked (9 + g) = true)
    (hst : s.dev.get SRV_STATUS.STATE g = 3 ∨ s.dev.get SRV_STATUS.STATE g = 4 ∨ s.dev.get SRV_STATUS.STATE g = 5)
    (hr : s.dev.feReached g = some i) (h : P (s.dev.followError g i)) : Completes (.followingError g) s P := by
  have hlimit : (s.dev.feLimit g).isSome = true := by
    rcases hst with hst | hst | hst <;> simp [Dev.feLimit, Dev.srvState, hst, stSettle, stTrack, stSeek]
  refine completes_of_runIn rfl hc ?_
  simp only [hr, hlimit, if_true]
  exact h

/-! ### The release of an inhibit (R237) -/

theorem Dev.wi_releaseInhibit (d : Dev) (g : Grp) (i k : HeadIx) :
    bit ((d.releaseInhibit g i).get SRV_SUP_STATUS.WI g) k = (bit (d.get SRV_SUP_STATUS.WI g) k && decide (k ≠ i)) := by
  have hkept : (d.releaseInhibit g i).get SRV_SUP_STATUS.WI g = (d.clrBit SRV_SUP_STATUS.WI i g).get SRV_SUP_STATUS.WI g :=
    Dev.get_of_word ((Dev.aloof_word (by decide) _ _).refreshInh ..)
  rw [hkept, Dev.bit_clrBit _ _ _ _ _ _ (by decide) k.isLt]
  simp only [ne_eq, Fin.ext_iff]

/-- Settles O31: each command's condition holds by the premises, and what the device then comes to is said by the lemmas on
following errors, entered states and retracts. -/
theorem servoSupervision : Obligations.ServoSupervision := by
  refine ⟨fun s g i hc hlane hlost hmiss => ?_, fun s g hc hst hcnt => ?_, fun s g hc hst hcnt => ?_,
    fun s g i st hc hst hcases hr hact => ?_, fun s g i st hc hst hcases hr hact => ?_, fun s g i hc hrel hcond => ?_⟩
  · refine completes_of_runIn rfl hc ?_
    rw [if_pos (by simpa [Dev.member, Dev.missed, Dev.lost, hlane, hlost] using hmiss)]
    have hi : (1 <<< i.val : Nat) < 2 ^ 8 := by rw [Nat.one_shiftLeft]; exact Nat.pow_lt_pow_right (by decide) i.isLt
    exact ⟨(Dev.get_set_of_key _ SRV_INT_STATUS.PES_LOST _ _ _ _ _ _ (by decide)).trans (Dev.get_orBits _ _ _ _ _ (by decide) hi),
      Dev.get_set _ _ _ _ _ (by decide)⟩
  · refine completes_of_runIn rfl hc ?_
    rw [if_pos (by simpa [Dev.srvState, hst, stSettle] using hcnt)]
    obtain ⟨icu, hsrv⟩ := s.dev.srv_enter g stTrack
    refine ⟨(Dev.get_set_of_key _ SRV_INT_STATUS.ON_TRACK _ _ _ _ _ _ (by decide)).trans (s.dev.state_enter g (by decide)),
      Dev.get_set _ _ _ _ _ (by decide), ?_⟩
    have hkept : (s.dev.onTrack g).srv = (s.dev.enter g stTrack).srv := rfl
    rw [hkept, hsrv]
  · refine completes_of_runIn rfl hc ?_
    rw [if_pos (by simpa [Dev.srvState, hst, stSettle] using hcnt)]
    exact ⟨Dev.get_set _ _ _ _ _ (by decide), (Dev.get_set_of_key _ SRV_INT_STATUS.SETTLE_SLOW _ _ _ _ _ _ (by decide)).trans hst⟩
  · subst hst
    refine completes_followingError hc hcases hr ?_
    have hrecord := s.dev.recordsError_step g i
    obtain ⟨hvalid, hhead, hstate, hseq, hint⟩ := s.dev.recordsError_shows g i
    by_cases hst : s.dev.get SRV_STATUS.STATE g = 5
    · obtain ⟨hstep, hsettle, hwi⟩ := Dev.followError_track hact hst i
      have hget (x : Fld) (hx : x.reg = SRV_FE_INFO) := hstep.get x (by rw [hx]; decide) (by rw [hx]; decide) g 0
      refine ⟨(hget _ rfl).trans hvalid, (hget _ rfl).trans hhead, (hget _ rfl).trans hstate, (hget _ rfl).trans hseq,
        hstep.interrupts _ (by decide) hint, fun _ => hwi, ?_⟩
      rw [if_pos hst]
      exact hsettle
    · rw [Dev.followError_beside hact hst]
      refine ⟨hvalid, hhead, hstate, hseq, hint, fun h => absurd h hst, ?_⟩
      rw [if_neg hst]
      exact hrecord.get SRV_STATUS.STATE (by decide) (by decide) _ _
  · subst hst
    refine completes_followingError hc hcases hr ?_
    rw [Dev.followError_retracts hact]
    have hstate := (s.dev.recordsError_step g i).get SRV_STATUS.STATE (by decide) (by decide) g 0
    have hretract := Dev.retract_retracts (d := s.dev.recordsError g i) (g := g) (by omega) (by omega) (by omega) 4
    exact ⟨hretract.state, hretract.engine.1,
      (hretract.step.get SRV_FE_INFO.VALID (by decide) (by decide) _ _).trans (s.dev.recordsError_shows g i).1⟩
  · refine completes_of_runIn rfl hc ?_
    rw [if_pos (by simpa [Dev.inhibitOver, hcond] using hrel)]
    refine ⟨?_, fun j hj => ?_⟩
    · rw [Dev.wi_releaseInhibit, decide_eq_false (by simp), Bool.and_false]
    · rw [Dev.wi_releaseInhibit, decide_eq_true hj, Bool.and_true]

end Sys2Proof.Machine
end

section
/-! SUPPORT and O32. Coefficients and positioning commands (R215, R220, R221, R224, R225). -/
namespace Sys2Proof.Machine

/-! ### Commands with GO and OP -/

/-- The word of a command: GO 1, and its OP. -/
def cmdWord (v : Word) (op : Nat) : Word := withField (withField v 28 2 op) 31 1 1

theorem bits_cmdWord (v : Word) {op : Nat} (h : op < 4) : bits (cmdWord v op) 28 2 = op := by
  unfold cmdWord
  rw [bits_withGo _ _ _ (by decide), bits_eq_of SRV_CMD, withField_eq_put SRV_CMD, Fld.of_put _ _ _ (by decide)]
  exact Nat.mod_eq_of_lt h

/-- The other fields of a command's word. -/
theorem bits_cmdWord_beside (v : Word) (op : Nat) {lo w : Nat} (h : lo + w ≤ 28) : bits (cmdWord v op) lo w = bits v lo w := by
  unfold cmdWord
  rw [bits_withGo _ _ _ (by omega), bits_eq_of SRV_CMD, bits_eq_of SRV_CMD]
  exact of_withField_beside SRV_CMD v op ⟨by decide, by omega, .inl h⟩

/-- GO is 1 where a command's word is written by access types. -/
theorem go_of_cmdWord {r : Reg} (h : r.clear ⟨31, 1, .w1s⟩ = true) (old v : Word) (op : Nat) (lock : Bool) :
    (Fld.mk r 31 1).of (r.written old (cmdWord v op) lock 0) = 1 := by
  refine (Fld.of_written r ⟨31, 1, .w1s⟩ h _ _ _).trans ?_
  have hbit : (Acc.w1s.after old (cmdWord v op) lock).extractLsb' 31 1 = 1 := by
    refine BitVec.eq_of_getLsbD_eq fun k hk => ?_
    obtain rfl : k = 0 := by omega
    simp [Acc.after, cmdWord, getLsbD_withGo_go]
  exact congrArg BitVec.toNat hbit

/-! ### SEEK, UNLOAD and LOAD -/

theorem Dev.on_iff (d : Dev) {f : Fld} (hw : f.width = 1) (i j : Nat) : d.on f i j = true ↔ d.get f i j = 1 := by
  have := d.get_lt f i j
  rw [hw] at this
  rw [Dev.on, bne_iff_ne]
  omega

/-- A command that is accepted stands in SRV_CMD. -/
theorem Dev.srvCmdWrite_accepted {d : Dev} {who : Who} {g : Grp} {op : Nat} (htakes : d.takes who (SRV_CMD.at g) = true)
    (hop : op < 4) (h : d.cmdAccepted g op = true) (v : Word) : let t := d.srvCmdWrite who g v op
    t.get SRV_CMD.GO g = 1 ∧ t.get SRV_CMD.OP g = op ∧ t.get SRV_CMD.CYL g = SRV_CMD.CYL.of v := by
  obtain ⟨b, hb⟩ := d.endSnaps_eq who (SRV_CMD.at g)
  have hword : (d.srvCmdWrite who g v op).word SRV_CMD g = SRV_CMD.written (d.word SRV_CMD g) (cmdWord v op) d.locked 0 := by
    unfold Dev.srvCmdWrite
    rw [Dev.tryWrite_takes _ _ _ _ htakes, hb]
    rw [if_pos (show ({ d with bus := b } : Dev).cmdAccepted g op = true from h)]
    exact Dev.word_plainWrite_self _ _ _ _ _ _ _ (by decide) (by decide)
  refine ⟨(congrArg SRV_CMD.GO.of hword).trans (go_of_cmdWord (by decide) _ _ _ _), ?_, ?_⟩
  · exact (congrArg SRV_CMD.OP.of hword).trans ((Fld.of_written SRV_CMD ⟨28, 2, .rw⟩ (by decide) _ _ _).trans (bits_cmdWord v hop))
  · exact (congrArg SRV_CMD.CYL.of hword).trans
      ((Fld.of_written SRV_CMD ⟨0, 20, .rw⟩ (by decide) _ _ _).trans (bits_cmdWord_beside v op (by decide)))

/-- Any other is dropped. -/
theorem Dev.srvCmdWrite_dropped {d : Dev} {who : Who} {g : Grp} {op : Nat} (htakes : d.takes who (SRV_CMD.at g) = true)
    (h : ¬ d.cmdAccepted g op = true) (v : Word) : let t := d.srvCmdWrite who g v op
    t.word SRV_CMD g = d.word SRV_CMD g ∧ t.get SRV_INT_STATUS.CMD_ERR g = 1 := by
  obtain ⟨b, hb⟩ := d.endSnaps_eq who (SRV_CMD.at g)
  have heq : d.srvCmdWrite who g v op = ({ d with bus := b } : Dev).raise SRV_INT_STATUS.CMD_ERR g := by
    unfold Dev.srvCmdWrite
    rw [Dev.tryWrite_takes _ _ _ _ htakes, hb]
    rw [if_neg (show ¬ ({ d with bus := b } : Dev).cmdAccepted g op = true from h)]
  rw [heq]
  exact ⟨Dev.word_set_of_key _ SRV_INT_STATUS.CMD_ERR _ _ _ _ _ _ (by decide), Dev.get_set _ _ _ _ _ (by decide)⟩

/-- SEEK and UNLOAD are taken in SEEK, SETTLE and TRACK, under firmware's ownership. -/
theorem Dev.cmdAccepted_move {d : Dev} {g : Grp} {op : Nat} (h : op = 0 ∨ op = 2) : d.cmdAccepted g op = true ↔
    d.get SRV_CTRL.FW_OWN g = 1 ∧
      (d.get SRV_STATUS.STATE g = 3 ∨ d.get SRV_STATUS.STATE g = 4 ∨ d.get SRV_STATUS.STATE g = 5) := by
  rw [← d.on_iff (f := SRV_CTRL.FW_OWN) rfl]
  rcases h with rfl | rfl <;> simp [Dev.cmdAccepted, Dev.srvState, stSeek, stSettle, stTrack, or_assoc]

/-- LOAD is taken in PARKED. -/
theorem Dev.cmdAccepted_load {d : Dev} {g : Grp} : d.cmdAccepted g 1 = true ↔
    d.get SRV_CTRL.FW_OWN g = 1 ∧ d.get SRV_STATUS.STATE g = 1 ∧ d.get SRV_SUP_STATUS.RET_LATCH g = 0 ∧
      bit (d.get SRV_BAND_VALID.VALID g) (d.get SRV_BAND_SEL.MEAS g) = true ∧
      d.get SRV_LOAD_CFG.MIN_BAND g ≤ d.get SRV_BAND_SEL.MEAS g ∧ d.get SPN_STATUS.REGULATED = 1 := by
  rw [← d.on_iff (f := SRV_CTRL.FW_OWN) rfl, ← d.on_iff (f := SPN_STATUS.REGULATED) rfl]
  simp [Dev.cmdAccepted, Dev.loadOk, Dev.srvState, stParked, Dev.on, and_assoc]

/-! ### The end of a park (R225) -/

/-- Beside a retract and a flush, what follows the last park concerns the spindle alone. -/
theorem Dev.afterPark_spindle {d : Dev} (hr : d.mode ≠ .retract) (hf : d.mode ≠ .coastFlush) :
    (∀ {r : Reg} i j, SPN_CMD.key ≠ r.key → d.afterPark.word r i j = d.word r i j) ∧ d.afterPark.srv = d.srv := by
  have hissue (e : Dev) (op : Nat) : (∀ {r : Reg} i j, SPN_CMD.key ≠ r.key → (e.spnIssue op).word r i j = e.word r i j) ∧
      (e.spnIssue op).srv = e.srv := ⟨fun i j h => (Dev.word_set_of_key _ SPN_CMD.GO _ _ _ _ _ _ h).trans
        (Dev.word_set_of_key _ SPN_CMD.OP _ _ _ _ _ _ h), rfl⟩
  have hspin : (∀ {r : Reg} i j, SPN_CMD.key ≠ r.key → d.spinParked.word r i j = d.word r i j) ∧ d.spinParked.srv = d.srv := by
    unfold Dev.spinParked
    split
    · exact ⟨fun i j h => ((hissue _ 1).1 i j h).trans rfl, rfl⟩
    split
    · exact ⟨fun i j h => (Dev.word_of_regs rfl _ _ _).trans ((hissue d 2).1 i j h), rfl⟩
    · exact ⟨fun _ _ _ => rfl, rfl⟩
  have hleft : d.when (d.mode == .coastFlush && d.que.flush.isSome && !d.flushLeft) (·.endFlush) = d := by
    rw [show (d.mode == .coastFlush) = false from beq_false_of_ne hf]
    rfl
  unfold Dev.afterPark
  rw [hleft]
  dsimp only
  split
  · exact ⟨fun _ _ _ => rfl, rfl⟩
  split
  · exact absurd ‹_› hr
  · exact absurd ‹_› hf
  · exact hspin

/-- The registers that a park writes. -/
def parkKeys : List Nat := [SRV_STATUS.key, SRV_ICU_CTRL.key, SRV_SUP_STATUS.key]

theorem Dev.word_park (d : Dev) (g : Grp) {r : Reg} (h : r.key ∉ parkKeys) (i j : Nat) : (d.park g).word r i j = d.word r i j := by
  simp only [parkKeys, List.mem_cons, List.not_mem_nil, or_false, not_or] at h
  obtain ⟨hstatus, hicu, hsup⟩ := h
  unfold Dev.park
  rw [Dev.word_onSrv, Dev.word_inhibitAll _ _ (Ne.symm hsup), Dev.word_enter _ _ _ (by simp [hstatus, hicu])]

/-- A parked group: its state, its heads inhibited, no current. -/
theorem Dev.park_parks (d : Dev) (g : Grp) : (d.park g).get SRV_STATUS.STATE g = 1 ∧ (d.park g).get SRV_SUP_STATUS.WI g = 255 ∧
    (d.park g).srv[g].vcm = 0 := by
  have hstate := d.state_enter g (st := stParked) (by decide)
  unfold Dev.park
  generalize d.enter g stParked = e at *
  have hinhibits : (e.inhibitAll g).get SRV_SUP_STATUS.WI g = 255 := (Dev.get_onSrv ..).trans (Dev.get_set _ _ _ _ _ (by decide))
  have hkept : (e.inhibitAll g).get SRV_STATUS.STATE g = e.get SRV_STATUS.STATE g :=
    Dev.get_of_word (Dev.word_inhibitAll _ _ (by decide) _ _)
  generalize e.inhibitAll g = inhibited at *
  exact ⟨(Dev.get_onSrv ..).trans (hkept.trans hstate), (Dev.get_onSrv ..).trans hinhibits,
    congrArg Srv.vcm (Dev.srv_onSrv_self inhibited g _)⟩

/-- A park that is raised, and what follows it. -/
theorem Dev.parked_parks {d : Dev} {g : Grp} (hr : d.mode ≠ .retract) (hf : d.mode ≠ .coastFlush) :
    let t := ((d.park g).raise SRV_INT_STATUS.PARKED g).afterPark
    t.get SRV_STATUS.STATE g = 1 ∧ t.get SRV_INT_STATUS.PARKED g = 1 ∧ t.get SRV_SUP_STATUS.WI g = 255 ∧ t.srv[g].vcm = 0 := by
  obtain ⟨hstate, hwi, hvcm⟩ := d.park_parks g
  have hmode : (d.park g).mode = d.mode := Dev.mode_of_word (d.word_park g (by decide) _ _)
  generalize d.park g = e at *
  have hraised : (e.raise SRV_INT_STATUS.PARKED g).mode = d.mode :=
    (Dev.mode_of_word (Dev.word_set_of_key _ SRV_INT_STATUS.PARKED _ _ _ _ _ _ (by decide))).trans hmode
  have hbeside {x : Fld} (hx : SRV_INT_STATUS.key ≠ x.reg.key) : (e.raise SRV_INT_STATUS.PARKED g).get x g = e.get x g :=
    Dev.get_set_of_key _ SRV_INT_STATUS.PARKED _ _ _ _ _ _ hx
  have hint : (e.raise SRV_INT_STATUS.PARKED g).get SRV_INT_STATUS.PARKED g = 1 := Dev.get_set _ _ _ _ _ (by decide)
  have hsrv : (e.raise SRV_INT_STATUS.PARKED g).srv = e.srv := rfl
  generalize e.raise SRV_INT_STATUS.PARKED g = raised at *
  obtain ⟨hword, hafter⟩ := Dev.afterPark_spindle (hraised ▸ hr) (hraised ▸ hf)
  refine ⟨(Dev.get_of_word (hword _ _ (by decide))).trans ((hbeside (by decide)).trans hstate),
    (Dev.get_of_word (hword _ _ (by decide))).trans hint,
    (Dev.get_of_word (hword _ _ (by decide))).trans ((hbeside (by decide)).trans hwi), ?_⟩
  rw [hafter, hsrv]
  exact hvcm

/-! ### Coefficients and requests -/

/-- A coefficient of a set that is not locked is taken. -/
theorem completes_coefWrite_taken {s : State} {who : Who} {g : Grp} {ofs : Nat}
    (htakes : s.dev.takes who (SRV_COEF.at g ((ofs - 0x4000) / 4)) = true)
    (hlock : s.dev.coefLocked g (s.dev.get SRV_COEF_SEL.SET g) = false) (v : Word) :
    Completes (.coefWrite who g ofs v) s fun t =>
      t.word SRV_COEF g (s.dev.get SRV_COEF_SEL.SET g * 3072 + (ofs - 0x4000) / 4) = v := by
  obtain ⟨b, hb⟩ := s.dev.endSnaps_eq who (SRV_COEF.at g ((ofs - 0x4000) / 4))
  have hlock' : ({ s.dev with bus := b } : Dev).coefLocked g (({ s.dev with bus := b } : Dev).get SRV_COEF_SEL.SET g) = false := hlock
  refine completes_of_run rfl ?_
  dsimp only
  rw [Dev.tryWriteOr_taken _ _ _ _ _ htakes (by simp only [hb, hlock', Bool.false_eq_true, if_false]; rfl)]
  exact Dev.word_setWord ..

/-- One of a locked set is refused. -/
theorem completes_coefWrite_refused {s : State} {who : Who} {g : Grp} {ofs : Nat}
    (htakes : s.dev.takes who (SRV_COEF.at g ((ofs - 0x4000) / 4)) = true)
    (hlock : s.dev.coefLocked g (s.dev.get SRV_COEF_SEL.SET g) = true) (hvalid : s.dev.get SYS_BUS_ERR_INFO.VALID = 0) (v : Word) :
    Completes (.coefWrite who g ofs v) s fun t =>
      (∀ k, t.word SRV_COEF g k = s.dev.word SRV_COEF g k) ∧ t.get SYS_BUS_ERR_INFO.CAUSE = 5 := by
  obtain ⟨b, hb⟩ := s.dev.endSnaps_eq who (SRV_COEF.at g ((ofs - 0x4000) / 4))
  have hlock' : ({ s.dev with bus := b } : Dev).coefLocked g (({ s.dev with bus := b } : Dev).get SRV_COEF_SEL.SET g) = true := hlock
  refine completes_of_run rfl ?_
  dsimp only
  rw [Dev.tryWriteOr_refused _ _ _ _ _ htakes (by simp only [hb, hlock', if_true]; rfl)]
  obtain ⟨-, -, -, hcause, -⟩ := Dev.records_capture hvalid who (SRV_COEF.at g ((ofs - 0x4000) / 4)) true .locked
  exact ⟨fun k => Dev.word_capture_of_key _ _ _ _ _ _ _ _ (by decide) (by decide), hcause⟩

theorem Dev.handRequest_free {d : Dev} {g : Grp} (h : d.grpq[g].active = none) (m : MediaReq) : let t := d.handRequest g m
    t.srv[g].request = some m.req.cyl ∧ t.grpq[g].active = some m ∧ t.grpq[g].list = d.grpq[g].list := by
  have hq := d.grpq_onGrpq_self g fun q => { q with active := some m, issued := d.now }
  have heq : d.handRequest g m = (((d.onGrpq g fun q => { q with active := some m, issued := d.now }).onSrv g fun s =>
      { s with request := some m.req.cyl }).showGrpq g) := by
    unfold Dev.handRequest
    rw [h]
  rw [heq]
  refine ⟨congrArg Srv.request (Dev.srv_onSrv_self _ g _), ?_, ?_⟩
  · exact (congrArg GroupQ.active hq :)
  · exact (congrArg GroupQ.list hq :)

theorem Dev.handRequest_busy {d : Dev} {g : Grp} (h : d.grpq[g].active ≠ none) (m : MediaReq) : let t := d.handRequest g m
    t.srv = d.srv ∧ t.grpq[g].active = d.grpq[g].active ∧ t.grpq[g].list = d.grpq[g].list ++ [m] := by
  have hq := d.grpq_onGrpq_self g fun q => { q with list := q.list ++ [m] }
  have heq : d.handRequest g m = ((d.onGrpq g fun q => { q with list := q.list ++ [m] }).showGrpq g) := by
    unfold Dev.handRequest
    split
    · rfl
    · exact absurd ‹_› h
  rw [heq]
  exact ⟨rfl, (congrArg GroupQ.active hq :), (congrArg GroupQ.list hq :)⟩

/-- Settles O32: the write of a command is its acceptance's, of a coefficient the lock's; the servo's own events set what
they say. -/
theorem servoPositioning : Obligations.ServoPositioning := by
  refine ⟨fun s who g ofs v htakes => ⟨fun hlock => completes_coefWrite_taken htakes hlock v,
      fun hlock hvalid => completes_coefWrite_refused htakes hlock hvalid v⟩,
    fun s g r hc => ⟨fun hfree => completes_of_runIn rfl hc ?_, fun hbusy => completes_of_runIn rfl hc ?_⟩,
    ?_, fun s g hc hst hfailed htransfer => completes_of_runIn rfl hc ?_,
    fun s g hc hramp hrest hretract hflush => completes_of_runIn rfl hc ?_, fun s g hc hst => completes_of_runIn rfl hc ?_⟩
  · obtain ⟨hrequest, hactive, hlist⟩ := Dev.handRequest_free hfree (s.dev.newReq r (.host []))
    exact ⟨hrequest, congrArg (Option.map MediaReq.req) hactive, hlist⟩
  · obtain ⟨hsrv, hactive, hlist⟩ := Dev.handRequest_busy hbusy (s.dev.newReq r (.host []))
    exact ⟨congrArg (fun v : Vector Srv 4 => v[g].request) hsrv, hactive,
      (congrArg (List.map MediaReq.req) hlist).trans List.map_append⟩
  · intro s who g v st htakes hst ok park issued dropped
    subst hst
    have hmove {op : Nat} (h : op = 0 ∨ op = 2) : s.dev.cmdAccepted g op = true ↔ ok := Dev.cmdAccepted_move h
    have hload : s.dev.cmdAccepted g 1 = true ↔ park := Dev.cmdAccepted_load
    exact ⟨fun h => completes_of_run rfl (Dev.srvCmdWrite_accepted htakes (by decide) ((hmove (.inl rfl)).mpr h) v),
      fun h => completes_of_run rfl (Dev.srvCmdWrite_dropped htakes (fun h' => h ((hmove (.inl rfl)).mp h')) v),
      fun h => completes_of_run rfl (Dev.srvCmdWrite_accepted htakes (by decide) ((hmove (.inr rfl)).mpr h) v),
      fun h => completes_of_run rfl (Dev.srvCmdWrite_dropped htakes (fun h' => h ((hmove (.inr rfl)).mp h')) v),
      fun h => completes_of_run rfl (Dev.srvCmdWrite_accepted htakes (by decide) (hload.mpr h) v),
      fun h => completes_of_run rfl (Dev.srvCmdWrite_dropped htakes (fun h' => h (hload.mp h')) v)⟩
  · rw [if_pos (by rw [hfailed, htransfer]; simp [Dev.srvState, hst, stLoading])]
    have hsrv := Dev.srv_onSrv_self (s.dev.raise SRV_INT_STATUS.LOAD_FAIL g) g fun t => { t with loadFailed := true, loadCyl := none }
    exact ⟨(Dev.get_onSrv ..).trans (Dev.get_set _ _ _ _ _ (by decide)), congrArg Srv.loadFailed hsrv, congrArg Srv.loadCyl hsrv⟩
  · rw [if_pos (by rw [hramp, hrest]; rfl)]
    exact Dev.parked_parks hretract hflush
  · rw [if_pos (by simp [Dev.srvState, hst, stUnloading])]
    have hretract := Dev.retract_retracts (d := s.dev) (g := g) (by omega) (by omega) (by omega) 7
    exact ⟨hretract.state, hretract.engine.1⟩

end Sys2Proof.Machine
end

section
/-! SUPPORT and O33. The actuator link, enable and disable, and the ends of a retract (R196, R228, R229, R231, R240 to R245). -/
namespace Sys2Proof.Machine

/-! ### A retract outside the loaded states (R240, R245) -/

theorem Dev.retract_again {d : Dev} {g : Grp} (h : d.get SRV_STATUS.STATE g = 7) (cause : Nat) : d.retract g cause =
    (d.set SRV_SUP_STATUS.RET_LATCH 1 g).onSrv g fun s => { s with retMask := setBit s.retMask (cause - 1) } := by
  unfold Dev.retract Dev.srvState
  rw [if_pos (by rw [h]; rfl)]

theorem Dev.retract_unloaded {d : Dev} {g : Grp} (h : d.get SRV_STATUS.STATE g = 0 ∨ d.get SRV_STATUS.STATE g = 1) (cause : Nat) :
    d.retract g cause = (d.set SRV_SUP_STATUS.RET_LATCH 1 g).orBits SRV_RET_INFO.MASK (1 <<< (cause - 1)) g := by
  unfold Dev.retract Dev.srvState
  rcases h with h | h <;> rw [h] <;> rfl

theorem Dev.retractAgain_shows {d : Dev} {g : Grp} (h : d.get SRV_STATUS.STATE g = 7) (cause : Nat) : let t := d.retract g cause
    Dev.ServoStep [SRV_SUP_STATUS.key] g d t ∧ t.get SRV_SUP_STATUS.RET_LATCH g = 1 ∧
      t.srv[g].retCause = d.srv[g].retCause ∧ t.srv[g].retMask = setBit d.srv[g].retMask (cause - 1) := by
  have hsrv := Dev.srv_onSrv_self (d.set SRV_SUP_STATUS.RET_LATCH 1 g) g fun s => { s with retMask := setBit s.retMask (cause - 1) }
  rw [Dev.retract_again h]
  exact ⟨(d.servoStep_set _ _ _ _ (by decide) (by decide)).trans (Dev.servoStep_of_regs rfl),
    (Dev.get_onSrv ..).trans (Dev.get_set _ _ _ _ _ (by decide)), (congrArg Srv.retCause hsrv :), (congrArg Srv.retMask hsrv :)⟩

theorem Dev.retractUnloaded_shows {d : Dev} {g : Grp} (h : d.get SRV_STATUS.STATE g = 0 ∨ d.get SRV_STATUS.STATE g = 1)
    {cause : Nat} (hc : cause ≤ 10) : let t := d.retract g cause
    Dev.ServoStep [SRV_SUP_STATUS.key, SRV_RET_INFO.key] g d t ∧ t.get SRV_SUP_STATUS.RET_LATCH g = 1 ∧
      bit (t.get SRV_RET_INFO.MASK g) (cause - 1) = true := by
  rw [Dev.retract_unloaded h]
  have hlt : (1 <<< (cause - 1) : Nat) < 2 ^ 10 := by
    rw [Nat.one_shiftLeft]
    exact Nat.pow_lt_pow_right (by decide) (by omega)
  refine ⟨(d.servoStep_set _ _ _ _ (by decide) (by decide)).trans (Dev.servoStep_set _ _ _ _ _ (by decide) (by decide)), ?_, ?_⟩
  · exact (Dev.get_set_of_key _ SRV_RET_INFO.MASK _ _ _ _ _ _ (by decide)).trans (Dev.get_set _ _ _ _ _ (by decide))
  · rw [Dev.get_orBits _ _ _ _ _ (by decide) hlt, bit_or_shift, decide_eq_true rfl, Bool.or_true]

/-- A retract of an enabled group: the state that it comes to, and the latch. -/
theorem Dev.retract_enabled {d : Dev} {g : Grp} (h : d.get SRV_STATUS.STATE g ≠ 0) {cause : Nat} (hc : cause ≤ 10) :
    let t := d.retract g cause
    Dev.ServoStep retractKeys g d t ∧ t.get SRV_STATUS.STATE g = (if d.get SRV_STATUS.STATE g = 1 then 1 else 7) ∧
      t.get SRV_SUP_STATUS.RET_LATCH g = 1 := by
  by_cases hparked : d.get SRV_STATUS.STATE g = 1
  · obtain ⟨hstep, hlatch, -⟩ := Dev.retractUnloaded_shows (.inr hparked) hc
    rw [if_pos hparked]
    exact ⟨hstep.mono (by decide), (hstep.get SRV_STATUS.STATE (by decide) (by decide) _ _).trans hparked, hlatch⟩
  rw [if_neg hparked]
  by_cases hretract : d.get SRV_STATUS.STATE g = 7
  · obtain ⟨hstep, hlatch, -⟩ := Dev.retractAgain_shows hretract cause
    exact ⟨hstep.mono (by decide), (hstep.get SRV_STATUS.STATE (by decide) (by decide) _ _).trans hretract, hlatch⟩
  · have hretracted := Dev.retract_retracts h hparked hretract cause
    exact ⟨hretracted.step, hretracted.state, hretracted.latched⟩

/-! ### The link (R228, R229, R231) -/

/-- A status without a fault is no fault of an amplifier. -/
theorem Dev.ampFaults_clear (d : Dev) (g : Grp) {st : Nat} (hvcm : st / 8 % 8 = 0) (hfine : st / 256 = 0) : d.ampFaults g st = d := by
  unfold Dev.ampFaults
  rw [hvcm, hfine]
  exact Dev.each_keeps id _ _ (fun i e => if_neg (by simp [bit])) d

/-- A first failure: the frame is sent again, with its sequence number. -/
theorem Dev.linkFailed_once {d : Dev} {g : Grp} (hfirst : d.srv[g].repeated = false) (hfault : d.get SRV_LINK_STATUS.FAULT g = 0) :
    let t := d.linkFailed g
    t.get SRV_INT_STATUS.LINK_RETRY g = 1 ∧ t.srv[g].repeated = true ∧ t.srv[g].seq = d.srv[g].seq ∧
      ∀ x : Fld, SRV_INT_STATUS.key ≠ x.reg.key → t.get x g = d.get x g := by
  have heq : d.linkFailed g = (d.raise SRV_INT_STATUS.LINK_RETRY g).sendDown g true := by
    unfold Dev.linkFailed Dev.on
    rw [hfirst, hfault]
    rfl
  rw [heq]
  have hint : (d.raise SRV_INT_STATUS.LINK_RETRY g).get SRV_INT_STATUS.LINK_RETRY g = 1 := Dev.get_set _ _ _ _ _ (by decide)
  have hbeside (x : Fld) (hx : SRV_INT_STATUS.key ≠ x.reg.key) : (d.raise SRV_INT_STATUS.LINK_RETRY g).get x g = d.get x g :=
    Dev.get_set_of_key _ SRV_INT_STATUS.LINK_RETRY _ _ _ _ _ _ hx
  have hunit : (d.raise SRV_INT_STATUS.LINK_RETRY g).srv = d.srv := rfl
  generalize d.raise SRV_INT_STATUS.LINK_RETRY g = e at *
  have hsrv : (e.sendDown g true).srv[g] = { e.srv[g] with frame := e.frameBytes g true, repeated := true } := e.srv_onSrv_self g _
  have hget (x : Fld) : (e.sendDown g true).get x g = e.get x g := e.get_onSrv ..
  rw [hunit] at hsrv
  exact ⟨(hget _).trans hint, (congrArg Srv.repeated hsrv :), (congrArg Srv.seq hsrv :), fun x hx => (hget x).trans (hbeside x hx)⟩

/-- A second one: a link fault, and the group retracts. -/
theorem Dev.linkFailed_twice {d : Dev} {g : Grp} (hsecond : d.srv[g].repeated = true) (hfault : d.get SRV_LINK_STATUS.FAULT g = 0)
    (hst : d.get SRV_STATUS.STATE g ≠ 0) : let t := d.linkFailed g
    t.get SRV_LINK_STATUS.FAULT g = 1 ∧ t.get SRV_INT_STATUS.LINK_FAULT g = 1 ∧
      (t.get SRV_STATUS.STATE g = if d.get SRV_STATUS.STATE g = 1 then 1 else 7) ∧ t.get SRV_SUP_STATUS.RET_LATCH g = 1 := by
  have heq : d.linkFailed g = (((d.set SRV_LINK_STATUS.FAULT 1 g).raise SRV_INT_STATUS.LINK_FAULT g).onSrv g
      fun t => { t with repeated := false }).retract g 5 := by
    unfold Dev.linkFailed Dev.on
    rw [hsecond, hfault]
    rfl
  rw [heq]
  have hlink : ((d.set SRV_LINK_STATUS.FAULT 1 g).raise SRV_INT_STATUS.LINK_FAULT g).get SRV_LINK_STATUS.FAULT g = 1 :=
    (Dev.get_set_of_key _ SRV_INT_STATUS.LINK_FAULT _ _ _ _ _ _ (by decide)).trans (Dev.get_set _ _ _ _ _ (by decide))
  have hint : ((d.set SRV_LINK_STATUS.FAULT 1 g).raise SRV_INT_STATUS.LINK_FAULT g).get SRV_INT_STATUS.LINK_FAULT g = 1 :=
    Dev.get_set _ _ _ _ _ (by decide)
  have hstate : ((d.set SRV_LINK_STATUS.FAULT 1 g).raise SRV_INT_STATUS.LINK_FAULT g).get SRV_STATUS.STATE g =
      d.get SRV_STATUS.STATE g :=
    (Dev.get_set_of_key _ SRV_INT_STATUS.LINK_FAULT _ _ _ _ _ _ (by decide)).trans
      (Dev.get_set_of_key _ SRV_LINK_STATUS.FAULT _ _ _ _ _ _ (by decide))
  generalize (d.set SRV_LINK_STATUS.FAULT 1 g).raise SRV_INT_STATUS.LINK_FAULT g = e at *
  rw [← Dev.get_onSrv e g fun t => { t with repeated := false }] at hlink hint hstate
  generalize e.onSrv g (fun t => { t with repeated := false }) = faulted at *
  rw [← hstate] at hst ⊢
  obtain ⟨hstep, hcomes, hlatch⟩ := Dev.retract_enabled hst (cause := 5) (by decide)
  exact ⟨(hstep.get SRV_LINK_STATUS.FAULT (by decide) (by decide) _ _).trans hlink, hstep.interrupts _ (by decide) hint, hcomes, hlatch⟩

/-! ### Enable and disable (R196, R240) -/

/-- EN after a write of SRV_CTRL, FW_OWN held or not. -/
theorem en_of_written (old v : Word) (en : Bool) (lock : Bool) {keep : Word} (hk : keep.getLsbD 0 = false) :
    SRV_CTRL.EN.of (SRV_CTRL.written old (withField v 0 1 en.toNat) lock keep) = en.toNat := by
  have hbit : (SRV_CTRL.written old (withField v 0 1 en.toNat) lock keep).extractLsb' 0 1 = BitVec.ofBool en := by
    refine BitVec.eq_of_getLsbD_eq fun k hk' => ?_
    obtain rfl : k = 0 := by omega
    have hfield := getLsbD_withField_self v en.toNat (k := 0) (by decide)
    have hmask : (FieldDesc.mask ⟨1, 1, .rw⟩).getLsbD 0 = false ∧ (FieldDesc.mask ⟨0, 1, .rw⟩).getLsbD 0 = true := by decide
    simp only [Reg.written, SRV_CTRL, List.foldl_cons, List.foldl_nil, FieldDesc.written, BitVec.getLsbD_extractLsb',
      BitVec.getLsbD_or, BitVec.getLsbD_and, BitVec.getLsbD_not, hfield, hmask, hk]
    cases en <;> simp
  have h := congrArg BitVec.toNat hbit
  cases en <;> exact h

theorem Dev.en_srvCtrlWrite (d : Dev) (who : Who) (g : Grp) (v : Word) (en : Bool) :
    (d.srvCtrlWrite who g (withField v 0 1 en.toNat)).get SRV_CTRL.EN g = en.toNat := by
  unfold Dev.srvCtrlWrite
  refine (congrArg SRV_CTRL.EN.of (Dev.word_plainWrite_self _ _ _ _ _ _ _ (by decide) (by decide))).trans (en_of_written _ _ _ _ ?_)
  split <;> rfl

theorem Dev.word_srvCtrlWrite (d : Dev) (who : Who) (g : Grp) (v : Word) {r : Reg} (h : SRV_CTRL.key ≠ r.key)
    (ha : SYS_BUS_ERR_ADDR.key ≠ r.key) (hi : SYS_BUS_ERR_INFO.key ≠ r.key) (i j : Nat) :
    (d.srvCtrlWrite who g v).word r i j = d.word r i j :=
  Dev.word_plainWrite_of_ne _ _ _ _ (RKey.ne_of_key h) ha hi

/-- A write of EN 1 in OFF: the group parks, its link's counts cleared. -/
theorem Dev.enable_parks {d : Dev} {who : Who} {g : Grp} {v : Word} (hoff : d.get SRV_STATUS.STATE g = 0) :
    let e := (d.srvCtrlWrite who g (withField v 0 1 1)).setWord SRV_LINK_STATUS 0 g
    e.srvState g = stOff ∧ (e.enter g stParked).get SRV_CTRL.EN g = 1 ∧ (e.enter g stParked).get SRV_STATUS.STATE g = 1 ∧
      (e.enter g stParked).word SRV_LINK_STATUS g = 0 := by
  have hen : (d.srvCtrlWrite who g (withField v 0 1 1)).get SRV_CTRL.EN g = 1 := d.en_srvCtrlWrite who g v true
  have hstate : (d.srvCtrlWrite who g (withField v 0 1 1)).get SRV_STATUS.STATE g = 0 :=
    (Dev.get_of_word (d.word_srvCtrlWrite who g _ (by decide) (by decide) (by decide) _ _)).trans hoff
  generalize d.srvCtrlWrite who g (withField v 0 1 1) = w at *
  have hlink : (w.setWord SRV_LINK_STATUS 0 g).word SRV_LINK_STATUS g = 0 := Dev.word_setWord ..
  have hkept {x : Fld} (hx : SRV_LINK_STATUS.key ≠ x.reg.key) : (w.setWord SRV_LINK_STATUS 0 g).get x g = w.get x g :=
    Dev.get_of_word (Dev.word_setWord_of_ne _ _ (RKey.ne_of_key hx))
  have hen' := (hkept (x := SRV_CTRL.EN) (by decide)).trans hen
  have hstate' := (hkept (x := SRV_STATUS.STATE) (by decide)).trans hstate
  generalize w.setWord SRV_LINK_STATUS 0 g = e at *
  exact ⟨hstate', (Dev.get_of_word (e.word_enter g _ (by decide) _ _)).trans hen', e.state_enter g (by decide),
    (e.word_enter g _ (by decide) _ _).trans hlink⟩

/-- The last step of a disable, in PARKED: OFF. -/
theorem Dev.disable_parked {d : Dev} {g : Grp} (hr : d.mode ≠ .retract) (hf : d.mode ≠ .coastFlush) :
    let t := (d.enter g stOff).afterPark
    t.get SRV_STATUS.STATE g = 0 ∧ t.get SRV_CTRL.EN g = d.get SRV_CTRL.EN g := by
  have hstate := d.state_enter g (st := stOff) (by decide)
  have hmode : (d.enter g stOff).mode = d.mode := Dev.mode_of_word (d.word_enter g _ (by decide) _ _)
  have hen : (d.enter g stOff).get SRV_CTRL.EN g = d.get SRV_CTRL.EN g := Dev.get_of_word (d.word_enter g _ (by decide) _ _)
  generalize d.enter g stOff = e at *
  obtain ⟨hword, -⟩ := Dev.afterPark_spindle (hmode ▸ hr) (hmode ▸ hf)
  exact ⟨(Dev.get_of_word (hword _ _ (by decide))).trans hstate, (Dev.get_of_word (hword _ _ (by decide))).trans hen⟩

/-! ### The end of a retract (R244) -/

/-- The record of a retract and its interrupt. -/
def Dev.recordsRetract (d : Dev) (g : Grp) (un : Bool) : Dev :=
  ((((d.set SRV_RET_INFO.CAUSE d.srv[g].retCause g).set SRV_RET_INFO.UNCONFIRMED un.toNat g).set
    SRV_RET_INFO.MASK d.srv[g].retMask g).stamp SRV_RET_INFO.VALID SRV_RET_INFO.SEQ g).raise SRV_INT_STATUS.RETRACT g

/-- The group parks, and is off where its disable was the retract's cause. -/
def Dev.leavesTo (d : Dev) (g : Grp) (cause : Nat) : Dev := if cause = 2 then (d.park g).enter g stOff else d.park g

theorem Dev.leaveRetract_eq (d : Dev) (g : Grp) (un : Bool) : d.leaveRetract g un =
    ((((d.recordsRetract g un).event 0x04 1 []).leavesTo g d.srv[g].retCause).refreshInh g).afterPark := rfl

theorem Dev.recordsRetract_shows {d : Dev} {g : Grp} (hcause : d.srv[g].retCause < 16) (hmask : d.srv[g].retMask < 1024) (un : Bool) :
    let t := d.recordsRetract g un
    t.get SRV_RET_INFO.VALID g = 1 ∧ t.get SRV_RET_INFO.CAUSE g = d.srv[g].retCause ∧ t.get SRV_RET_INFO.MASK g = d.srv[g].retMask ∧
      t.get SRV_RET_INFO.UNCONFIRMED g = un.toNat ∧ t.get SRV_INT_STATUS.RETRACT g = 1 := by
  have hun : un.toNat < 2 := Bool.toNat_lt un
  generalize hc : d.srv[g].retCause = cause at *
  generalize hm : d.srv[g].retMask = mask at *
  unfold Dev.recordsRetract Dev.raise Dev.stamp
  rw [hc, hm]
  refine ⟨?_, ?_, ?_, ?_, ?_⟩ <;>
    simp (disch := decide) [SRV_RET_INFO.VALID, SRV_RET_INFO.CAUSE, SRV_RET_INFO.MASK, SRV_RET_INFO.UNCONFIRMED, SRV_RET_INFO.SEQ,
      SRV_INT_STATUS.RETRACT, Dev.get_set, Dev.get_set_beside, Dev.get_set_of_key] <;> omega

theorem Dev.mode_recordsRetract (d : Dev) (g : Grp) (un : Bool) : (d.recordsRetract g un).mode = d.mode :=
  Dev.mode_of_word (by
    unfold Dev.recordsRetract
    rw [Dev.word_raise_of_key _ SRV_INT_STATUS.RETRACT _ _ _ _ _ (by decide),
      Dev.word_stamp_of_key _ SRV_RET_INFO.VALID SRV_RET_INFO.SEQ _ _ _ _ _ (by decide) (by decide),
      Dev.word_set_of_key _ SRV_RET_INFO.MASK _ _ _ _ _ _ (by decide),
      Dev.word_set_of_key _ SRV_RET_INFO.UNCONFIRMED _ _ _ _ _ _ (by decide),
      Dev.word_set_of_key _ SRV_RET_INFO.CAUSE _ _ _ _ _ _ (by decide)])

theorem Dev.word_leavesTo (d : Dev) (g : Grp) (cause : Nat) {r : Reg} (h : r.key ∉ parkKeys) (i j : Nat) :
    (d.leavesTo g cause).word r i j = d.word r i j := by
  unfold Dev.leavesTo
  split
  · exact (Dev.word_enter _ g _ (fun h' => h ((by decide : [SRV_STATUS.key, SRV_ICU_CTRL.key] ⊆ parkKeys) h')) i j).trans
      (d.word_park g h i j)
  · exact d.word_park g h i j

theorem Dev.state_leavesTo (d : Dev) (g : Grp) (cause : Nat) :
    (d.leavesTo g cause).get SRV_STATUS.STATE g = if cause = 2 then 0 else 1 := by
  unfold Dev.leavesTo
  split
  · exact Dev.state_enter _ g (by decide)
  · exact (d.park_parks g).1

/-- The registers that the end of a retract writes after its record. -/
def leaveKeys : List Nat := SPN_CMD.key :: (recordKeys ++ parkKeys ++ writePathKeys)

/-- What follows the record: the state, and every other word as it was. -/
theorem Dev.leaves_shows {d : Dev} (g : Grp) (cause : Nat) (hr : d.mode ≠ .retract) (hf : d.mode ≠ .coastFlush) :
    let t := (((d.event 0x04 1 []).leavesTo g cause).refreshInh g).afterPark
    t.get SRV_STATUS.STATE g = (if cause = 2 then 0 else 1) ∧
      ∀ (r : Reg) i j, r.key ∉ leaveKeys → t.word r i j = d.word r i j := by
  have hkept (r : Reg) (i j : Nat) (h : r.key ∉ recordKeys ++ parkKeys ++ writePathKeys) :
      ((((d.event 0x04 1 []).leavesTo g cause).refreshInh g)).word r i j = d.word r i j := by
    simp only [List.mem_append, not_or] at h
    obtain ⟨⟨hrecord, hpark⟩, hwrite⟩ := h
    exact ((Dev.aloof_word hwrite i j).refreshInh ..).trans ((Dev.word_leavesTo _ g cause hpark i j).trans
      (d.word_event _ _ _ r i j hrecord))
  have hstate : ((((d.event 0x04 1 []).leavesTo g cause).refreshInh g)).get SRV_STATUS.STATE g = if cause = 2 then 0 else 1 :=
    (Dev.get_of_word ((Dev.aloof_word (by decide) _ _).refreshInh ..)).trans (Dev.state_leavesTo _ g cause)
  have hmode := Dev.mode_of_word (hkept SYS_MODE 0 0 (by decide))
  generalize ((d.event 0x04 1 []).leavesTo g cause).refreshInh g = e at *
  obtain ⟨hword, -⟩ := Dev.afterPark_spindle (hmode ▸ hr) (hmode ▸ hf)
  exact ⟨(Dev.get_of_word (hword _ _ (by decide))).trans hstate,
    fun r i j h => (hword i j (Ne.symm (List.ne_of_not_mem_cons h))).trans (hkept r i j (List.not_mem_of_not_mem_cons h))⟩

/-- A retract that ends: the state that it leaves to, and its record. -/
theorem Dev.leaveRetract_shows {d : Dev} {g : Grp} (hcause : d.srv[g].retCause < 16) (hmask : d.srv[g].retMask < 1024)
    (hr : d.mode ≠ .retract) (hf : d.mode ≠ .coastFlush) (un : Bool) : let t := d.leaveRetract g un
    t.get SRV_STATUS.STATE g = (if d.srv[g].retCause = 2 then 0 else 1) ∧ t.get SRV_RET_INFO.VALID g = 1 ∧
      t.get SRV_RET_INFO.CAUSE g = d.srv[g].retCause ∧ t.get SRV_RET_INFO.MASK g = d.srv[g].retMask ∧
      t.get SRV_RET_INFO.UNCONFIRMED g = un.toNat ∧ t.get SRV_INT_STATUS.RETRACT g = 1 := by
  obtain ⟨hvalid, hcause', hmask', hun, hint⟩ := Dev.recordsRetract_shows hcause hmask un
  have hmode := d.mode_recordsRetract g un
  rw [Dev.leaveRetract_eq]
  generalize d.recordsRetract g un = e at *
  obtain ⟨hstate, hword⟩ := Dev.leaves_shows g d.srv[g].retCause (hmode ▸ hr) (hmode ▸ hf)
  refine ⟨hstate, (Dev.get_of_word (hword _ _ _ (by decide))).trans hvalid, (Dev.get_of_word (hword _ _ _ (by decide))).trans hcause',
    (Dev.get_of_word (hword _ _ _ (by decide))).trans hmask', (Dev.get_of_word (hword _ _ _ (by decide))).trans hun,
    (Dev.get_of_word (hword _ _ _ (by decide))).trans hint⟩

/-! ### FW_RETRACT (R240) -/

theorem Dev.fwRetract_retracts {d : Dev} {who : Who} {g : Grp} (v : Word) (hoff : d.get SRV_STATUS.STATE g ≠ 0)
    (hparked : d.get SRV_STATUS.STATE g ≠ 1) (hretract : d.get SRV_STATUS.STATE g ≠ 7) :
    let w := (d.when (d.on SRV_MODE_CMD.GO g) (·.raise SRV_INT_STATUS.CMD_ERR g)).modeCmdWrite who g v 2 true
    let t := (w.set SRV_MODE_CMD.GO 0 g).retract g 1
    t.get SRV_STATUS.STATE g = 7 ∧ t.srv[g].retCause = 1 ∧ t.get SRV_MODE_CMD.GO g = 0 := by
  intro w t
  have hstate : (w.set SRV_MODE_CMD.GO 0 g).get SRV_STATUS.STATE g = d.get SRV_STATUS.STATE g := by
    refine Dev.get_of_word ((Dev.word_set_of_key _ SRV_MODE_CMD.GO _ _ _ _ _ _ (by decide)).trans
      ((Dev.word_plainWrite_of_ne _ _ _ _ (RKey.ne_of_key (by decide)) (by decide) (by decide)).trans ?_))
    exact Dev.word_when _ _ _ _ _ _ (Dev.word_raise_of_key _ SRV_INT_STATUS.CMD_ERR _ _ _ _ _ (by decide))
  have hretracted := Dev.retract_retracts (d := w.set SRV_MODE_CMD.GO 0 g) (g := g) (by omega) (by omega) (by omega) 1
  exact ⟨hretracted.state, hretracted.engine.1, hretracted.noMode⟩

/-! ### Frames from the actuator (R229, R231) -/

theorem completes_upstreamFrame_bad {s : State} {g : Grp} {f : UpFrame} {P : Dev → Prop} (hc : s.dev.clocked (9 + g) = true)
    (hst : s.dev.get SRV_STATUS.STATE g ≠ 0) (hcrc : upCrcOk f = false)
    (h : P ((s.dev.bump SRV_LINK_STATUS.UP_ERR g).linkFailed g)) : Completes (.upstreamFrame g f) s P := by
  refine completes_of_runIn rfl hc ?_
  rw [if_neg (by simpa [Dev.srvState, stOff] using hst), if_pos (by rw [hcrc]; rfl)]
  exact h

theorem completes_upstreamTimeout {s : State} {g : Grp} {P : Dev → Prop} (hc : s.dev.clocked (9 + g) = true)
    (hst : s.dev.get SRV_STATUS.STATE g ≠ 0) (h : P ((s.dev.bump SRV_LINK_STATUS.UP_MISS g).linkFailed g)) :
    Completes (.upstreamTimeout g) s P := by
  refine completes_of_runIn rfl hc ?_
  rw [if_neg (by simpa [Dev.srvState, stOff] using hst)]
  exact h

/-- A counted failure of the link: the count, and what the link and the state read before the reaction. -/
theorem Dev.countFailure (d : Dev) (g : Grp) {lo : Nat} (hlo : lo = 0 ∨ lo = 8) : let e := d.bump ⟨SRV_LINK_STATUS, lo, 8⟩ g
    e.get ⟨SRV_LINK_STATUS, lo, 8⟩ g = min 255 (d.get ⟨SRV_LINK_STATUS, lo, 8⟩ g + 1) ∧
      e.get SRV_LINK_STATUS.FAULT g = d.get SRV_LINK_STATUS.FAULT g ∧ e.get SRV_STATUS.STATE g = d.get SRV_STATUS.STATE g ∧
      e.srv = d.srv := by
  refine ⟨?_, ?_, Dev.get_set_of_key _ ⟨SRV_LINK_STATUS, lo, 8⟩ _ _ _ _ _ _ (show SRV_LINK_STATUS.key ≠ _ by decide), rfl⟩
  · exact (Dev.get_bump _ _ _ _ _ (show lo + 8 ≤ 32 by omega)).trans (Nat.min_comm _ _)
  · exact Dev.get_set_beside _ SRV_LINK_STATUS lo 8 31 1 _ _ _ (by omega)

/-- What a first failure that is counted comes to. -/
theorem Dev.countedFailure_once {d : Dev} {g : Grp} {lo : Nat} (hlo : lo = 0 ∨ lo = 8) (hfault : d.get SRV_LINK_STATUS.FAULT g = 0)
    (hfirst : d.srv[g].repeated = false) : let t := (d.bump ⟨SRV_LINK_STATUS, lo, 8⟩ g).linkFailed g
    (t.get SRV_INT_STATUS.LINK_RETRY g = 1 ∧ t.srv[g].repeated = true ∧ t.srv[g].seq = d.srv[g].seq ∧
      t.get SRV_STATUS.STATE g = d.get SRV_STATUS.STATE g) ∧
      t.get ⟨SRV_LINK_STATUS, lo, 8⟩ g = min 255 (d.get ⟨SRV_LINK_STATUS, lo, 8⟩ g + 1) := by
  obtain ⟨hcount, hlink, hstate, hsrv⟩ := d.countFailure g hlo
  generalize d.bump ⟨SRV_LINK_STATUS, lo, 8⟩ g = e at *
  rw [← hsrv] at hfirst ⊢
  obtain ⟨hretry, hrepeated, hseq, hkept⟩ := Dev.linkFailed_once hfirst (hlink.trans hfault)
  exact ⟨⟨hretry, hrepeated, hseq, (hkept _ (by decide)).trans hstate⟩,
    (hkept _ (show _ ≠ SRV_LINK_STATUS.key by decide)).trans hcount⟩

/-- What a second one comes to. -/
theorem Dev.countedFailure_twice {d : Dev} {g : Grp} {lo : Nat} (hlo : lo = 0 ∨ lo = 8) (hfault : d.get SRV_LINK_STATUS.FAULT g = 0)
    (hsecond : d.srv[g].repeated = true) (hst : d.get SRV_STATUS.STATE g ≠ 0) :
    let t := (d.bump ⟨SRV_LINK_STATUS, lo, 8⟩ g).linkFailed g
    t.get SRV_LINK_STATUS.FAULT g = 1 ∧ t.get SRV_INT_STATUS.LINK_FAULT g = 1 ∧
      (t.get SRV_STATUS.STATE g = if d.get SRV_STATUS.STATE g = 1 then 1 else 7) ∧ t.get SRV_SUP_STATUS.RET_LATCH g = 1 := by
  obtain ⟨-, hlink, hstate, hsrv⟩ := d.countFailure g hlo
  generalize d.bump ⟨SRV_LINK_STATUS, lo, 8⟩ g = e at *
  rw [← hsrv] at hsecond
  rw [← hstate] at hst ⊢
  exact Dev.linkFailed_twice hsecond (hlink.trans hfault) hst

/-- The readings of a frame that is taken. -/
def Dev.readings (d : Dev) (g : Grp) (f : UpFrame) : Dev :=
  (((d.set SRV_AMP_STATUS.STATUS f.status.toNat g).set SRV_AMP_STATUS.TEMP f.temp.toNat g).set SRV_AMP_MEAS.IVCM f.ivcm.toNat g).set
    SRV_AMP_MEAS.BEMF f.bemf.toNat g

theorem Dev.readings_shows (d : Dev) (g : Grp) (f : UpFrame) : let t := d.readings g f
    t.get SRV_AMP_STATUS.STATUS g = f.status.toNat ∧ t.get SRV_AMP_STATUS.TEMP g = f.temp.toNat ∧
      t.get SRV_AMP_MEAS.IVCM g = f.ivcm.toNat ∧ t.get SRV_AMP_MEAS.BEMF g = f.bemf.toNat ∧
      t.get SRV_STATUS.STATE g = d.get SRV_STATUS.STATE g := by
  unfold Dev.readings
  refine ⟨?_, ?_, ?_, ?_, ?_⟩ <;>
    simp (disch := decide) [SRV_AMP_STATUS.STATUS, SRV_AMP_STATUS.TEMP, SRV_AMP_MEAS.IVCM, SRV_AMP_MEAS.BEMF, SRV_STATUS.STATE,
      Dev.get_set, Dev.get_set_beside, Dev.get_set_of_key]
  · exact f.status.isLt
  · exact f.temp.isLt
  · exact f.ivcm.isLt
  · exact f.bemf.isLt

/-- What a good frame that reports no fault and no lost frame comes to. -/
theorem completes_upstreamFrame_good {s : State} {g : Grp} {f : UpFrame} {P : Dev → Prop} (hc : s.dev.clocked (9 + g) = true)
    (hst : s.dev.get SRV_STATUS.STATE g ≠ 0) (hcrc : upCrcOk f = true) (hhead : f.head.toNat / 16 = 8)
    (hvcm : f.status.toNat / 8 % 8 = 0) (hlost : f.status.getLsbD 7 = false) (hfine : f.status.toNat / 256 = 0)
    (h : P (((s.dev.readings g f).onSrv g fun t => { t with echo := f.head.toNat % 16 }).onSrv g fun t => { t with repeated := false })) :
    Completes (.upstreamFrame g f) s P := by
  refine completes_of_runIn rfl hc ?_
  rw [if_neg (by simpa [Dev.srvState, stOff] using hst), if_neg (by rw [hcrc]; decide), if_neg (by rw [hhead]; decide)]
  simp only [hlost, Bool.false_eq_true, if_false, Dev.ampFaults_clear _ _ hvcm hfine]
  exact h

/-! ### Writes of SRV_CTRL -/

theorem completes_srvEnable {s : State} {who : Who} {g : Grp} {v : Word} (htakes : s.dev.takes who (SRV_CTRL.at g) = true)
    (hen : s.dev.get SRV_CTRL.EN g = 0) (hst : s.dev.get SRV_STATUS.STATE g = 0) : Completes (.srvEnable who g v) s fun t =>
      t.get SRV_CTRL.EN g = 1 ∧ t.get SRV_STATUS.STATE g = 1 ∧ t.word SRV_LINK_STATUS g = 0 := by
  refine completes_of_run rfl ?_
  dsimp only
  rw [Dev.tryWrite_takes _ _ _ _ htakes]
  have hregs := s.dev.regs_endSnaps who (SRV_CTRL.at g)
  generalize s.dev.endSnaps who (SRV_CTRL.at g) = d at *
  have hen' : d.on SRV_CTRL.EN g = false := by rw [Dev.on, Dev.get_of_regs hregs, hen]; rfl
  obtain ⟨hoff, hshows⟩ := Dev.enable_parks (d := d) (who := who) (g := g) (v := v) ((Dev.get_of_regs hregs _ _ _).trans hst)
  rw [hen', if_neg Bool.false_ne_true, if_pos (by rw [hoff]; rfl)]
  exact hshows

theorem completes_srvDisable {s : State} {who : Who} {g : Grp} {v : Word} (htakes : s.dev.takes who (SRV_CTRL.at g) = true)
    (hen : s.dev.get SRV_CTRL.EN g = 1) (harm : s.dev.get SRV_CAP_CTRL.ARM g = 0) (hr : s.dev.mode ≠ .retract)
    (hf : s.dev.mode ≠ .coastFlush) (hoff : s.dev.get SRV_STATUS.STATE g ≠ 0) (hretract : s.dev.get SRV_STATUS.STATE g ≠ 7) :
    Completes (.srvDisable who g v) s fun t => t.get SRV_CTRL.EN g = 0 ∧
      t.get SRV_STATUS.STATE g = (if s.dev.get SRV_STATUS.STATE g = 1 then 0 else 7) ∧
      (s.dev.get SRV_STATUS.STATE g ≠ 1 → t.srv[g].retCause = 2) := by
  refine completes_of_run rfl ?_
  dsimp only
  rw [Dev.tryWrite_takes _ _ _ _ htakes]
  have hregs := s.dev.regs_endSnaps who (SRV_CTRL.at g)
  generalize s.dev.endSnaps who (SRV_CTRL.at g) = d at *
  have hword {r : Reg} (h : SRV_CTRL.key ≠ r.key) (ha : SYS_BUS_ERR_ADDR.key ≠ r.key) (hi : SYS_BUS_ERR_INFO.key ≠ r.key)
      (i j : Nat) : (d.srvCtrlWrite who g (withField v 0 1 0)).word r i j = s.dev.word r i j :=
    (d.word_srvCtrlWrite who g _ h ha hi i j).trans (Dev.word_of_regs hregs _ _ _)
  have hoffEn : (d.srvCtrlWrite who g (withField v 0 1 0)).get SRV_CTRL.EN g = 0 := d.en_srvCtrlWrite who g v false
  have hon : d.on SRV_CTRL.EN g = true := by rw [Dev.on, Dev.get_of_regs hregs, hen]; rfl
  generalize d.srvCtrlWrite who g (withField v 0 1 0) = e at *
  have hstate : e.get SRV_STATUS.STATE g = s.dev.get SRV_STATUS.STATE g := Dev.get_of_word (hword (by decide) (by decide) (by decide) _ _)
  have hnoArm : e.when (e.on SRV_CAP_CTRL.ARM g) (·.capEnd g false true) = e := by
    rw [Dev.on, Dev.get_of_word (hword (r := SRV_CAP_CTRL) (by decide) (by decide) (by decide) _ _) (f := SRV_CAP_CTRL.ARM), harm]
    rfl
  have hmode : e.mode = s.dev.mode := Dev.mode_of_word (hword (by decide) (by decide) (by decide) _ _)
  rw [hon, hnoArm, if_neg (by decide), if_neg (by simpa [Dev.srvState, hstate, stOff] using hoff)]
  rw [← hstate] at hoff hretract ⊢
  by_cases hparked : e.get SRV_STATUS.STATE g = 1
  · rw [if_pos (by simp [Dev.srvState, hparked, stParked]), if_pos hparked]
    obtain ⟨hout, hen'⟩ := Dev.disable_parked (d := e) (g := g) (hmode ▸ hr) (hmode ▸ hf)
    exact ⟨hen'.trans hoffEn, hout, fun h => absurd hparked h⟩
  · rw [if_neg (by simpa [Dev.srvState, stParked] using hparked), if_neg hparked]
    have hretracted := Dev.retract_retracts hoff hparked hretract 2
    exact ⟨(hretracted.step.get SRV_CTRL.EN (by decide) (by decide) _ _).trans hoffEn, hretracted.state, fun _ => hretracted.engine.1⟩

/-- Settles O33: the link's failures, the writes of SRV_CTRL, and the entry into RETRACT and its end, each by its own lemma. -/
theorem servoLinkAndRetract : Obligations.ServoLinkAndRetract := by
  refine ⟨fun s g f hc hst hcrc hhead hvcm hlost hfine => completes_upstreamFrame_good hc hst hcrc hhead hvcm hlost hfine ?_,
    ?_, fun s who g v htakes hen hst => completes_srvEnable htakes hen hst, ?_,
    fun s g cause st hc hmin hmax hst => ⟨?_, ?_, ?_⟩, ?_, ?_⟩
  · obtain ⟨hstatus, htemp, hivcm, hbemf, hstate⟩ := s.dev.readings_shows g f
    generalize s.dev.readings g f = e at *
    have hecho := Dev.srv_onSrv_self e g fun t => { t with echo := f.head.toNat % 16 }
    have hsrv := Dev.srv_onSrv_self (e.onSrv g fun t => { t with echo := f.head.toNat % 16 }) g fun t => { t with repeated := false }
    rw [hecho] at hsrv
    exact ⟨hstatus, htemp, hivcm, hbemf, (congrArg Srv.echo hsrv :), (congrArg Srv.repeated hsrv :), hstate⟩
  · intro s g f st hc hst hoff hcrc hfault once twice
    subst hst
    exact ⟨fun h => completes_upstreamFrame_bad hc hoff hcrc (Dev.countedFailure_once (.inr rfl) hfault h),
      fun h => completes_upstreamFrame_bad hc hoff hcrc (Dev.countedFailure_twice (.inr rfl) hfault h hoff),
      fun h => completes_upstreamTimeout hc hoff (Dev.countedFailure_once (.inl rfl) hfault h),
      fun h => completes_upstreamTimeout hc hoff (Dev.countedFailure_twice (.inl rfl) hfault h hoff)⟩
  · intro s who g v st htakes hen harm hr hf hst hoff hretract
    subst hst
    exact completes_srvDisable htakes hen harm hr hf hoff hretract
  · intro hoff hparked hretract
    subst hst
    refine completes_of_runIn rfl hc ?_
    rw [if_pos ⟨hmin, hmax⟩]
    obtain ⟨⟨hstate, hwi, hlatch, hvalid, hint, hcmd, hmode, hdropped, hcause, hmask, hvcm, hrequest⟩, -, hheld, hgates, hqueue⟩ :=
      Dev.retract_retracts hoff hparked hretract cause
    exact ⟨hstate, hcause, hmask, hwi, hlatch, hvalid, hint, hvcm, hheld, hgates, hcmd, hmode, hrequest, hdropped, hqueue⟩
  · intro h
    subst hst
    refine completes_of_runIn rfl hc ?_
    rw [if_pos ⟨hmin, hmax⟩]
    obtain ⟨hstep, -, hcause, hmask⟩ := Dev.retractAgain_shows h cause
    refine ⟨hcause, ?_, (hstep.get SRV_STATUS.STATE (by decide) (by decide) _ _).trans h⟩
    rw [hmask, setBit, bit_or_shift, decide_eq_true rfl, Bool.or_true]
  · intro h
    subst hst
    refine completes_of_runIn rfl hc ?_
    rw [if_pos ⟨hmin, hmax⟩]
    obtain ⟨hstep, hlatch, hbit⟩ := Dev.retractUnloaded_shows h hmax
    exact ⟨hstep.get SRV_STATUS.STATE (by decide) (by decide) _ _, hlatch, hbit⟩
  · intro s g hc hst hcause hmask hr hf out
    have hin : (s.dev.srvState g == stRetract) = true := by rw [Dev.srvState, hst]; rfl
    refine ⟨completes_of_runIn rfl hc ?_, fun hfault hstatus hrest => completes_of_runIn rfl hc ?_⟩
    · rw [if_pos hin]
      exact Dev.leaveRetract_shows hcause hmask hr hf true
    · rw [if_pos (by rw [hin, Dev.on, hfault, hstatus, hrest]; rfl)]
      exact Dev.leaveRetract_shows hcause hmask hr hf false
  · intro s who g v st htakes hst hoff hparked hretract
    subst hst
    refine completes_of_run rfl ?_
    dsimp only
    rw [Dev.tryWrite_takes _ _ _ _ htakes]
    rw [← Dev.get_of_regs (s.dev.regs_endSnaps who (SRV_MODE_CMD.at g)) SRV_STATUS.STATE g 0] at hoff hparked hretract
    exact Dev.fwRetract_retracts v hoff hparked hretract

end Sys2Proof.Machine
end

section
/-! SUPPORT. What the steps of one servo sample (R204) leave of the capture, of the sample count and of the frame. -/
namespace Sys2Proof.Machine

/-! ### What a step of the sample leaves -/

/-- The parts of an engine that the steps of a sample leave to its end: the count, the capture's FIFO, and the frame. -/
def Srv.sent (s : Srv) : Nat × List (List Word) × Nat × List Byte := (s.sampleNo, s.cap.fifo, s.seq, s.frame)

/-- An observation that every step of the sample leaves: it sees neither the registers, SRV_CAP_CTRL apart, nor the engine beyond
those parts. -/
structure Dev.Paced {β : Type} (g : Grp) (φ : Dev → β) : Prop extends Dev.Aloof φ where
  setWord : ∀ d (r : Reg) w i j, SRV_CAP_CTRL.key ≠ r.key → φ (d.setWord r w i j) = φ d
  onSrv : ∀ d f, (∀ s : Srv, (f s).sent = s.sent) → φ (d.onSrv g f) = φ d
  onSpn : ∀ d f, φ (d.onSpn f) = φ d
  onGrpq : ∀ d g f, φ (d.onGrpq g f) = φ d
  fresh : ∀ (d : Dev) n, φ { d with fresh := n } = φ d

/-- What is left of a group's capture and of its count. -/
def Dev.capView (d : Dev) (g : Grp) : Word × Nat × List (List Word) :=
  (d.word SRV_CAP_CTRL g, d.srv[g].sampleNo, d.srv[g].cap.fifo)

/-- The same, with the frame. -/
def Dev.sentView (d : Dev) (g : Grp) : Word × Nat × List (List Word) × Nat × List Byte := (d.word SRV_CAP_CTRL g, d.srv[g].sent)

theorem Dev.capView_of_sentView {d t : Dev} {g : Grp} (h : t.sentView g = d.sentView g) : t.capView g = d.capView g :=
  congrArg (fun v => (v.1, v.2.1, v.2.2.1)) h

theorem Dev.paced_sentView (g : Grp) : Dev.Paced g fun d => d.sentView g :=
  have hword : ∀ (d : Dev) (r : Reg) w i j, SRV_CAP_CTRL.key ≠ r.key → (d.setWord r w i j).sentView g = d.sentView g :=
    fun d r w i j h => congrArg (·, d.srv[g].sent) (Dev.word_setWord_of_ne d w (RKey.ne_of_key (Ne.symm h)))
  have haloof := Dev.aloof_word (r := SRV_CAP_CTRL) (by decide) g 0
  { limit := fun _ _ => hword _ _ _ _ _ (by decide), onWls := fun _ _ _ => rfl, out := fun _ _ => rfl
    set := fun d f v i j hf => congrArg (·, d.srv[g].sent) (haloof.set d f v i j hf)
    onFmt := fun _ _ _ => rfl, onTok := fun _ _ => rfl, onArms := fun _ _ _ => rfl, setWord := hword
    onSrv := fun d f hf => by
      unfold Dev.sentView
      rw [Dev.srv_onSrv_self, hf, Dev.word_onSrv]
    onSpn := fun _ _ => rfl, onGrpq := fun _ _ _ => rfl, fresh := fun _ _ => rfl }

theorem Dev.paced_capView (g : Grp) : Dev.Paced g fun d => d.capView g :=
  have h := Dev.paced_sentView g
  { limit := fun _ _ => Dev.capView_of_sentView (h.limit ..), onWls := fun _ _ _ => rfl, out := fun _ _ => rfl
    set := fun _ _ _ _ _ hf => Dev.capView_of_sentView (h.set _ _ _ _ _ hf), onFmt := fun _ _ _ => rfl, onTok := fun _ _ => rfl
    onArms := fun _ _ _ => rfl, setWord := fun _ _ _ _ _ hr => Dev.capView_of_sentView (h.setWord _ _ _ _ _ hr)
    onSrv := fun _ _ hf => Dev.capView_of_sentView (h.onSrv _ _ hf), onSpn := fun _ _ => rfl, onGrpq := fun _ _ _ => rfl
    fresh := fun _ _ => rfl }

section
variable {β : Type} {φ : Dev → β} {g : Grp} (h : Dev.Paced g φ)
include h

/-! ### Shared steps -/

theorem Dev.Paced.set' (d : Dev) (f : Fld) (v i j : Nat) (hf : SRV_CAP_CTRL.key ≠ f.reg.key) : φ (d.set f v i j) = φ d :=
  h.setWord _ _ _ _ _ hf

theorem Dev.Paced.raise (d : Dev) (f : Fld) (i j : Nat) (hf : SRV_CAP_CTRL.key ≠ f.reg.key) : φ (d.raise f i j) = φ d :=
  h.set' _ _ _ _ _ hf

theorem Dev.Paced.icuRest (d : Dev) : φ (d.icuRest g) = φ d :=
  (h.onSrv _ _ (by exact fun _ => rfl)).trans ((h.set' _ _ _ _ _ (by decide)).trans (h.set' _ _ _ _ _ (by decide)))

theorem Dev.Paced.icuHalt (d : Dev) : φ (d.icuHalt g) = φ d :=
  (h.onSrv _ _ (by exact fun _ => rfl)).trans ((h.set' _ _ _ _ _ (by decide)).trans (h.icuRest _))

theorem Dev.Paced.enter (d : Dev) (st : Nat) : φ (d.enter g st) = φ d := by
  unfold Dev.enter
  extract_lets entered
  have hentered : φ entered = φ d := (h.onSrv _ _ (by exact fun _ => rfl)).trans (h.set' _ _ _ _ _ (by decide))
  exact (Dev.when_keeps φ _ _ (h.icuHalt _)).trans hentered

theorem Dev.Paced.loseTrack (d : Dev) : φ (d.loseTrack g) = φ d := h.onSrv _ _ (by exact fun _ => rfl)

theorem Dev.Paced.inhibitAll (d : Dev) : φ (d.inhibitAll g) = φ d :=
  (h.onSrv _ _ (by exact fun _ => rfl)).trans (h.set' _ _ _ _ _ (by decide))

theorem Dev.Paced.inhibitNow (d : Dev) : φ (d.inhibitNow g) = φ d :=
  (h.refreshInh ..).trans ((h.abortHeads ..).trans (h.inhibitAll d))

theorem Dev.Paced.trigger (d : Dev) (code : Nat) : φ (d.trigger g code) = φ d :=
  Dev.when_keeps φ _ _ (h.onSrv _ _ (by exact fun _ => rfl))

/-! ### Bands, the generator, the measurements (R198 to R201, R210 to R213, R255, R256) -/

theorem Dev.Paced.publish (d : Dev) : φ d.publish = φ d := by
  unfold Dev.publish
  split
  · rfl
  · refine (Dev.when_keeps φ _ _ (h.raise _ _ _ _ (by decide))).trans ?_
    exact (Dev.each_keeps φ _ _ (fun _ _ => h.set' _ _ _ _ _ (by decide)) _).trans (h.onSpn ..)

theorem Dev.Paced.blendNext (d : Dev) : φ (d.blendNext g) = φ d := by
  unfold Dev.blendNext
  split
  · rfl
  split
  · exact (h.raise _ _ _ _ (by decide)).trans ((h.set' _ _ _ _ _ (by decide)).trans (h.onSrv _ _ (by exact fun _ => rfl)))
  · exact h.onSrv _ _ (by exact fun _ => rfl)

theorem Dev.Paced.bandSample (d : Dev) : φ (d.bandSample g) = φ d := by
  unfold Dev.bandSample
  extract_lets warned t cur st held switched
  have hwarned : φ warned = φ d := Dev.when_keeps φ _ _ (h.raise _ _ _ _ (by decide))
  have hswitched : φ switched = φ d :=
    ((h.set' _ _ _ _ _ (by decide)).trans ((h.set' _ _ _ _ _ (by decide)).trans (h.set' _ _ _ _ _ (by decide)))).trans hwarned
  split
  · exact (h.set' _ _ _ _ _ (by decide)).trans hwarned
  split
  · exact (h.set' _ _ _ _ _ (by decide)).trans hwarned
  split
  · exact (h.raise _ _ _ _ (by decide)).trans hswitched
  · exact (h.set' _ _ _ _ _ (by decide)).trans ((h.onSrv _ _ (by exact fun _ => rfl)).trans hswitched)

theorem Dev.Paced.icuInit (d : Dev) : φ (d.icuInit g) = φ d := h.onSrv _ _ (by exact fun _ => rfl)

theorem Dev.Paced.icuSignal (d : Dev) : φ (d.icuSignal g).2 = φ d := by
  unfold Dev.icuSignal Dev.draw
  dsimp only
  split
  · exact h.fresh ..
  · rfl
  · rfl

theorem Dev.Paced.icuSample (d : Dev) : φ (d.icuSample g) = φ d := by
  unfold Dev.icuSample
  extract_lets stopped ended start begun
  have hstopped : φ stopped = φ d := Dev.when_keeps φ _ _ (h.icuRest ..)
  have hended : φ ended = φ stopped := by
    refine Dev.when_keeps φ _ _ ?_
    unfold Dev.icuEnd
    split
    · exact h.icuInit ..
    · exact h.icuRest ..
  have hbegun : φ begun = φ ended := Dev.when_keeps φ _ _ ((h.trigger ..).trans ((h.set' _ _ _ _ _ (by decide)).trans
    ((h.set' _ _ _ _ _ (by decide)).trans ((h.onSrv _ _ (by exact fun _ => rfl)).trans (h.icuInit ..)))))
  split
  · exact hbegun.trans (hended.trans hstopped)
  · exact (h.onSrv _ _ (by exact fun _ => rfl)).trans ((h.icuSignal ..).trans (hbegun.trans (hended.trans hstopped)))

theorem Dev.Paced.icuAdvance (d : Dev) : φ (d.icuAdvance g) = φ d := h.onSrv _ _ (by exact fun _ => rfl)

theorem Dev.Paced.measureHead (d : Dev) (i : HeadIx) : φ (Dev.measureHead g i d) = φ d := by
  unfold Dev.measureHead
  split
  · exact (Dev.when_keeps φ _ _ (h.set' _ _ _ _ _ (by decide))).trans (h.onSrv _ _ (by exact fun _ => rfl))
  · refine (Dev.when_keeps φ _ _ ?_).trans (h.onSrv _ _ (by exact fun _ => rfl))
    exact (h.raise _ _ _ _ (by decide)).trans (h.set' _ _ _ _ _ (by decide))

theorem Dev.Paced.measureAll (d : Dev) : φ (d.measureAll g) = φ d := by
  unfold Dev.measureAll
  extract_lets fresh
  have hfresh : φ fresh = φ d := h.onSrv _ _ (by exact fun _ => rfl)
  exact (Dev.when_keeps φ _ _ (Dev.each_keeps φ _ _ (fun i e => h.measureHead e i) _)).trans hfresh

/-! ### Supervision short of a retract (R235 to R239) -/

theorem Dev.Paced.superviseHead (d : Dev) (i : HeadIx) : φ (Dev.superviseHead g i d) = φ d := by
  unfold Dev.superviseHead
  split
  · exact (h.abortHead ..).trans ((h.onSrv _ _ (by exact fun _ => rfl)).trans (h.set' _ _ _ _ _ (by decide)))
  split
  · exact (h.refreshInh ..).trans (h.set' _ _ _ _ _ (by decide))
  · exact h.onSrv _ _ (by exact fun _ => rfl)

theorem Dev.Paced.feHead (d : Dev) (lim : Nat) (i : HeadIx) : φ (Dev.feHead g lim i d) = φ d := by
  unfold Dev.feHead
  split
  · rfl
  · exact h.onSrv _ _ (by exact fun _ => rfl)

theorem Dev.Paced.recordsError (d : Dev) (i : HeadIx) : φ (d.recordsError g i) = φ d := by
  unfold Dev.recordsError Dev.setSat Dev.stamp
  refine (h.trigger ..).trans ((h.onSrv _ _ (by exact fun _ => rfl)).trans ((h.raise _ _ _ _ (by decide)).trans ?_))
  rw [h.set' _ _ _ _ _ (by decide), h.set' _ _ _ _ _ (by decide), h.set' _ _ _ _ _ (by decide), h.set' _ _ _ _ _ (by decide),
    h.set' _ _ _ _ _ (by decide)]

/-! ### Latching, settling, loading (R220 to R225) -/

theorem Dev.Paced.onTrack (d : Dev) : φ (d.onTrack g) = φ d := (h.raise _ _ _ _ (by decide)).trans (h.enter ..)

theorem Dev.Paced.settle (d : Dev) : φ (d.settle g) = φ d := by
  unfold Dev.settle
  split
  · rfl
  extract_lets ok counted
  have hcounted : φ counted = φ d := h.onSrv _ _ (by exact fun _ => rfl)
  split
  · exact (h.onTrack ..).trans hcounted
  · exact (Dev.when_keeps φ _ _ (h.raise _ _ _ _ (by decide))).trans hcounted

theorem Dev.Paced.count (d : Dev) (code : Nat) (o : Option Grp) (n : Nat) : φ (d.count code o n) = φ d :=
  Dev.count_keeps φ (fun f v i j d hf => h.set' d f v i j fun e => absurd (e ▸ hf) (by decide)) code o n d

theorem Dev.Paced.startSeek (d : Dev) (cyl : Nat) : φ (d.startSeek g cyl) = φ d := by
  unfold Dev.startSeek
  dsimp only
  split
  · exact (h.onSrv _ _ (by exact fun _ => rfl)).trans ((h.raise _ _ _ _ (by decide)).trans (h.count ..))
  · exact (h.onSrv _ _ (by exact fun _ => rfl)).trans ((h.enter ..).trans (h.count ..))

theorem Dev.Paced.latchLoad (d : Dev) (cyl : Nat) : φ (d.latchLoad g cyl) = φ d := by
  unfold Dev.latchLoad Dev.startLoad
  split
  · exact (h.onSrv _ _ (by exact fun _ => rfl)).trans ((h.enter ..).trans (h.safetyHeaters ..))
  · exact h.raise _ _ _ _ (by decide)

theorem Dev.Paced.latchCmd (d : Dev) : φ (d.latchCmd g) = φ d := by
  have hgo : φ (d.set SRV_CMD.GO 0 g) = φ d := h.set' _ _ _ _ _ (by decide)
  have hdrop : φ ((d.set SRV_CMD.GO 0 g).raise SRV_INT_STATUS.CMD_ERR g) = φ d := (h.raise _ _ _ _ (by decide)).trans hgo
  unfold Dev.latchCmd
  dsimp only
  split
  · split
    · rfl
    split
    · exact (h.startSeek ..).trans hgo
    · exact hdrop
  · split
    · rfl
    split
    · exact hdrop
    · exact (h.onSrv _ _ (by exact fun _ => rfl)).trans ((h.inhibitAll ..).trans ((h.enter ..).trans hgo))
  · exact (h.latchLoad ..).trans hgo
  · exact hgo

theorem Dev.Paced.latchRequest (d : Dev) : φ (d.latchRequest g) = φ d := by
  unfold Dev.latchRequest
  split
  · rfl
  dsimp only
  split
  · rfl
  · exact (h.startSeek ..).trans (h.onSrv _ _ (by exact fun _ => rfl))

theorem Dev.Paced.latchMode (d : Dev) : φ (d.latchMode g) = φ d := by
  unfold Dev.latchMode
  extract_lets st manual lost v
  generalize (if manual = true then st == stSeek || st == stSettle || st == stTrack else st == stManual) = ok
  split
  · exact (h.raise _ _ _ _ (by decide)).trans (h.set' _ _ _ _ _ (by decide))
  split
  · have hlost : φ lost = φ d := Dev.when_keeps φ _ _ (h.loseTrack ..)
    exact (h.onSrv _ _ (by exact fun _ => rfl)).trans ((h.set' _ _ _ _ _ (by decide)).trans ((h.inhibitAll _).trans ((h.enter ..).trans
      ((h.set' _ _ _ _ _ (by decide)).trans hlost))))
  · split
    · rfl
    · exact (h.onSrv _ _ (by exact fun _ => rfl)).trans (h.set' _ _ _ _ _ (by decide))

theorem Dev.Paced.latch (d : Dev) : φ (d.latch g) = φ d := by
  unfold Dev.latch
  extract_lets due loaded dropped
  have hloaded : φ loaded = φ d := Dev.when_keeps φ _ _ ((h.latchLoad ..).trans (h.onSrv _ _ (by exact fun _ => rfl)))
  split
  · refine (h.latchMode ..).trans ((Dev.when_keeps φ _ _ ?_).trans hloaded)
    exact (h.raise _ _ _ _ (by decide)).trans (h.set' _ _ _ _ _ (by decide))
  split
  · exact (h.latchCmd ..).trans hloaded
  split
  · exact hloaded
  · exact (h.latchRequest ..).trans hloaded

theorem Dev.Paced.loadSample (d : Dev) : φ (d.loadSample g) = φ d := by
  unfold Dev.loadSample
  split
  · rfl
  dsimp only
  split
  · exact h.onSrv _ _ (by exact fun _ => rfl)
  · exact h.onSrv _ _ (by exact fun _ => rfl)

/-! ### A transfer (R251 to R253) -/

theorem Dev.Paced.presetState (d : Dev) (int : Option Nat) (j : Fin 32) : φ (Dev.presetState g int j d) = φ d := by
  unfold Dev.presetState
  dsimp only
  split
  · rfl
  · exact h.onSrv _ _ (by exact fun _ => rfl)

theorem Dev.Paced.solveInt (d : Dev) (j : Fin 32) (applied : Int) : φ (d.solveInt g j applied).1 = φ d := by
  unfold Dev.solveInt
  dsimp only
  split
  · exact (h.set' _ _ _ _ _ (by decide)).trans
      ((h.onSrv _ _ (by exact fun _ => rfl)).trans (Dev.when_keeps φ _ _ (h.raise _ _ _ _ (by decide))))
  · exact (h.onSrv _ _ (by exact fun _ => rfl)).trans (Dev.when_keeps φ _ _ (h.raise _ _ _ _ (by decide)))

theorem Dev.Paced.transferTo (d : Dev) (cyl : Nat) (i : HeadIx) (r : ServoRec) : φ (d.transferTo g cyl i r).1 = φ d := by
  unfold Dev.transferTo
  extract_lets a seen placed fresh measured int preset
  have hplaced : φ placed = φ d := h.onSrv _ _ (by exact fun _ => rfl)
  have hfresh : φ fresh = φ placed :=
    Dev.when_keeps φ _ _ ((h.onSrv _ _ (by exact fun _ => rfl)).trans (h.set' _ _ _ _ _ (by decide)))
  have hmeasured : φ measured = φ fresh := Dev.each_keeps φ _ _ (fun _ _ => h.onSrv _ _ (by exact fun _ => rfl)) _
  have hpreset : φ preset = φ measured := Dev.each_keeps φ _ _ (fun j e => h.presetState e _ j) _
  have hall : φ preset = φ d := hpreset.trans (hmeasured.trans (hfresh.trans hplaced))
  clear_value preset int
  cases int with
  | some j => exact (h.solveInt ..).trans hall
  | none => exact hall

/-! ### The law beside its frame (R217 to R221, R233) -/

theorem Dev.Paced.allocate (d : Dev) (xfer : Bool) (u : List Int) : φ (d.allocate g xfer u) = φ d := by
  unfold Dev.allocate
  extract_lets v fines code satm stored
  have hstored : φ stored = φ d := h.onSrv _ _ (by exact fun _ => rfl)
  exact (Dev.when_keeps φ _ _ (h.raise _ _ _ _ (by decide))).trans hstored

theorem Dev.Paced.window (d : Dev) (z : List (Nat × Int)) : φ (d.window g z) = φ d := by
  unfold Dev.window
  split
  · rfl
  extract_lets s entry xs ys us
  have hxs : φ xs = φ d := Dev.each_keeps φ _ _ (fun _ _ => h.setWord _ _ _ _ _ (by decide)) _
  have hys : φ ys = φ xs := Dev.each_keeps φ _ _ (fun _ _ => h.setWord _ _ _ _ _ (by decide)) _
  have hus : φ us = φ ys := Dev.each_keeps φ _ _ (fun _ _ => h.setWord _ _ _ _ _ (by decide)) _
  exact (h.set' _ _ _ _ _ (by decide)).trans (hus.trans (hys.trans hxs))

theorem Dev.Paced.reference (d : Dev) : φ (d.reference g) = φ d := by
  unfold Dev.reference
  split
  · rfl
  extract_lets s tgt e vdec vmag vnew r near reached
  have hreached : φ reached = φ d := h.onSrv _ _ (by exact fun _ => rfl)
  split
  · split
    · exact (h.enter ..).trans hreached
    · exact (h.onSrv _ _ (by exact fun _ => rfl)).trans hreached
  · exact h.onSrv _ _ (by exact fun _ => rfl)

end
end Sys2Proof.Machine
end

section
/-! SUPPORT and O28. The law, the frame and one servo sample (R198, R204, R226, R243). -/
namespace Sys2Proof.Machine

/-! ### A retract within a sample (R202, R239, R243) -/

theorem Dev.Paced.dropWaiting {β : Type} {φ : Dev → β} {g : Grp} (h : Dev.Paced g φ) (d : Dev) {go : Fld}
    (hgo : SRV_CAP_CTRL.key ≠ go.reg.key) : φ (d.dropWaiting go g) = φ d :=
  Dev.when_keeps φ _ _ ((h.raise _ _ _ _ (by decide)).trans (h.set' _ _ _ _ _ hgo))

/-- A frame that is sent leaves the capture and the count. -/
theorem Dev.capView_sendDown (d : Dev) (g : Grp) : (d.sendDown g false).capView g = d.capView g := by
  have hkept (e : Dev) (f : Srv → Srv) (hf : ∀ s, ((f s).sampleNo, (f s).cap.fifo) = (s.sampleNo, s.cap.fifo)) :
      (e.onSrv g f).capView g = e.capView g := by
    have hsrv := e.srv_onSrv_self g f
    unfold Dev.capView
    rw [hsrv]
    exact congrArg (Prod.mk (e.word SRV_CAP_CTRL g)) (hf e.srv[g])
  exact (hkept _ _ (by exact fun _ => rfl)).trans (hkept _ _ (by exact fun _ => rfl))

theorem Dev.capView_retract (d : Dev) (g : Grp) (cause : Nat) : (d.retract g cause).capView g = d.capView g := by
  have h := Dev.paced_capView g
  by_cases hunloaded : d.get SRV_STATUS.STATE g = 0 ∨ d.get SRV_STATUS.STATE g = 1
  · rw [Dev.retract_unloaded hunloaded]
    exact (h.set' _ _ _ _ _ (by decide)).trans (h.set' _ _ _ _ _ (by decide))
  by_cases hretract : d.get SRV_STATUS.STATE g = 7
  · rw [Dev.retract_again hretract]
    exact (h.onSrv _ _ (by exact fun _ => rfl)).trans (h.set' _ _ _ _ _ (by decide))
  rw [Dev.retract_loaded (fun e => hunloaded (.inl e)) (fun e => hunloaded (.inr e)) hretract]
  have hwarns : (d.retractWarns g).capView g = d.capView g := by
    unfold Dev.retractWarns
    extract_lets lost
    have hlost : lost.capView g = d.capView g := by
      simp only [lost]
      split
      · exact h.loseTrack _
      · rfl
    exact (Dev.when_keeps (fun d => d.capView g) _ _ (h.raise _ _ _ _ (by decide))).trans hlost
  have henters (e : Dev) : (e.retractEnters g).capView g = e.capView g :=
    (h.set' _ _ _ _ _ (by decide)).trans ((h.set' _ _ _ _ _ (by decide)).trans ((h.raise _ _ _ _ (by decide)).trans
      ((h.inhibitAll _).trans (h.enter ..))))
  have habandon (e : Dev) : (e.abandon g).capView g = e.capView g :=
    (h.set' _ _ _ _ _ (by decide)).trans ((h.set' _ _ _ _ _ (by decide)).trans ((h.set' _ _ _ _ _ (by decide)).trans
      ((h.onFmt ..).trans (h.onGrpq ..))))
  have hsends (e : Dev) : (e.retractSends g).capView g = e.capView g :=
    (h.refreshInh ..).trans ((h.trigger ..).trans (e.capView_sendDown g))
  exact (hsends _).trans ((habandon _).trans ((h.writesStop ..).trans ((h.dropWaiting _ (by decide)).trans
    ((h.dropWaiting _ (by decide)).trans ((h.onSrv _ _ (by exact fun _ => rfl)).trans ((henters _).trans hwarns))))))

theorem Dev.capView_followError (d : Dev) (g : Grp) (i : HeadIx) : (d.followError g i).capView g = d.capView g := by
  have h := Dev.paced_capView g
  have hrecords := h.recordsError d i
  rw [Dev.followError_eq]
  generalize d.recordsError g i = e at *
  split
  · exact (e.capView_retract g 4).trans hrecords
  split
  · exact (h.inhibitNow _).trans ((h.enter ..).trans ((h.loseTrack _).trans hrecords))
  · exact hrecords

theorem Dev.capView_supervise (d : Dev) (g : Grp) : (d.supervise g).capView g = d.capView g := by
  have h := Dev.paced_capView g
  unfold Dev.supervise
  extract_lets heads shown counted followed
  have hheads : heads.capView g = d.capView g := Dev.each_keeps (fun d => d.capView g) _ _ (fun i e => h.superviseHead e i) _
  have hshown : shown.capView g = heads.capView g := h.refreshInh ..
  have hcounted : counted.capView g = shown.capView g := by
    simp only [counted]
    split
    · exact Dev.each_keeps (fun d => d.capView g) _ _ (fun i e => h.feHead e _ i) _
    · rfl
  have hfollowed : followed.capView g = counted.capView g := by
    simp only [followed]
    split
    · exact Dev.capView_followError ..
    · rfl
  exact (Dev.when_keeps (fun d => d.capView g) _ _ (Dev.capView_retract ..)).trans
    (hfollowed.trans (hcounted.trans (hshown.trans hheads)))

/-! ### The law (R204, R218, R232) -/

/-- The law up to its frame: the manual code moves, and the codes are formed. -/
def Dev.lawCodes (d : Dev) (g : Grp) (man xfer : Bool) : Dev :=
  let move := man && !xfer && d.srvState g == stManual
  let u := ((List.range 9).map (d.uPre g (d.vectorLow g) xfer)).map Prod.fst
  let d := d.when move fun e => (e.when (move && (d.manualCode g).2) (·.raise SRV_INT_STATUS.SAT g)).onSrv g fun s =>
    { s with man := (d.manualCode g).1 }
  d.allocate g xfer u

/-- What follows the frame: the window, the capture, the reference, the new states. -/
def Dev.lawRows (d : Dev) (g : Grp) (xfer sat flagged : Bool) (z : List (Nat × Int)) (u : List Int) (x : Vector Int 32) : Dev :=
  let s := d.srv[g]
  let d := d.when sat (·.raise SRV_INT_STATUS.SAT g)
  let d := d.window g z
  let d := d.capSample g s.xhat z u flagged
  let d := d.when xfer (·.enter g stSeek)
  let d := d.reference g
  d.onSrv g fun s => { s with xhat := x }

theorem Dev.law_eq (d : Dev) (g : Grp) (man xfer flagged : Bool) : ∃ sat flagged' z u x,
    d.law g man xfer flagged = ((d.lawCodes g man xfer).sendDown g false).lawRows g xfer sat flagged' z u x :=
  ⟨_, _, _, _, _, rfl⟩

/-- In RETRACT every code is 0. -/
theorem Dev.vcmRaw_retract {d : Dev} {g : Grp} (hst : d.srvState g = stRetract) (u : Int) : d.vcmRaw g false u = 0 := by
  unfold Dev.vcmRaw
  rw [hst]
  rfl

theorem Dev.fineRaw_retract {d : Dev} {g : Grp} (hst : d.srvState g = stRetract) (i : HeadIx) (u : Int) :
    d.fineRaw g i u = (0, 0) := by
  unfold Dev.fineRaw
  rw [hst]
  exact if_pos (by simp)

theorem Dev.allocate_retract {d : Dev} {g : Grp} (hst : d.srvState g = stRetract) (u : List Int) :
    (d.allocate g false u).srv[g].vcm = 0 ∧ (d.allocate g false u).srv[g].fine = Vector.replicate 8 0 := by
  unfold Dev.allocate
  extract_lets v fines code satm stored
  have hsrv : ((stored.when (satm != 0) (·.raise SRV_INT_STATUS.SAT g)).srv) = stored.srv := Dev.when_keeps Dev.srv _ _ rfl
  have hstored := d.srv_onSrv_self g fun s => { s with
    vcm := v, fineSat := satm, fine := Vector.ofFn code
    applied := Vector.ofFn fun (k : Fin 9) =>
      if k.val = 0 then v * 32
      else (sat20 (fines.getD (k.val - 1) (0, 0)).1 - (fines.getD (k.val - 1) (0, 0)).2) * 32 }
  have hfines : fines = (List.finRange 8).map fun _ => (0, 0) := List.map_congr_left fun i _ => Dev.fineRaw_retract hst i _
  have hcode : code = fun _ => 0 := by
    funext i
    simp only [code, hfines]
    revert i
    decide
  rw [hsrv]
  refine ⟨(congrArg Srv.vcm hstored :).trans ?_, (congrArg Srv.fine hstored :).trans ?_⟩
  · simp only [v, Dev.vcmRaw_retract hst]
    rfl
  · rw [hcode]
    rfl

theorem Dev.state_raiseSat (d : Dev) (g : Grp) : (d.raise SRV_INT_STATUS.SAT g).get SRV_STATUS.STATE g = d.get SRV_STATUS.STATE g :=
  Dev.get_set_of_key _ SRV_INT_STATUS.SAT _ _ _ _ _ _ (by decide)

theorem Dev.state_allocate (d : Dev) (g : Grp) (xfer : Bool) (u : List Int) :
    (d.allocate g xfer u).get SRV_STATUS.STATE g = d.get SRV_STATUS.STATE g := by
  unfold Dev.allocate
  extract_lets v fines code satm stored
  have hstored : stored.get SRV_STATUS.STATE g = d.get SRV_STATUS.STATE g := Dev.get_onSrv ..
  generalize stored = e at hstored
  exact (Dev.when_keeps (fun d => d.get SRV_STATUS.STATE g) (satm != 0) (·.raise SRV_INT_STATUS.SAT g) (e.state_raiseSat g)).trans hstored

/-- The manual code's move leaves the state. -/
theorem Dev.state_manualMove (d : Dev) (g : Grp) (move lim : Bool) (f : Srv → Srv) :
    (d.when move fun e => (e.when lim (·.raise SRV_INT_STATUS.SAT g)).onSrv g f).get SRV_STATUS.STATE g = d.get SRV_STATUS.STATE g :=
  Dev.when_keeps (fun d => d.get SRV_STATUS.STATE g) _ _
    ((Dev.get_onSrv ..).trans (Dev.when_keeps (fun d => d.get SRV_STATUS.STATE g) _ _ (d.state_raiseSat g)))

theorem Dev.state_lawCodes (d : Dev) (g : Grp) (man xfer : Bool) :
    (d.lawCodes g man xfer).get SRV_STATUS.STATE g = d.get SRV_STATUS.STATE g :=
  (Dev.state_allocate ..).trans (d.state_manualMove ..)

theorem Dev.Paced.lawCodes {β : Type} {φ : Dev → β} {g : Grp} (h : Dev.Paced g φ) (d : Dev) (man xfer : Bool) :
    φ (d.lawCodes g man xfer) = φ d := by
  unfold Dev.lawCodes
  extract_lets move u moved
  have hmoved : φ moved = φ d :=
    Dev.when_keeps φ _ _ ((h.onSrv _ _ (by exact fun _ => rfl)).trans (Dev.when_keeps φ _ _ (h.raise _ _ _ _ (by decide))))
  exact (h.allocate ..).trans hmoved

/-- In RETRACT the codes that the law forms are 0. -/
theorem Dev.lawCodes_retract {d : Dev} {g : Grp} (hst : d.get SRV_STATUS.STATE g = 7) (man : Bool) :
    (d.lawCodes g man false).srv[g].vcm = 0 ∧ (d.lawCodes g man false).srv[g].fine = Vector.replicate 8 0 := by
  unfold Dev.lawCodes
  extract_lets move u moved
  have hmoved : moved.get SRV_STATUS.STATE g = d.get SRV_STATUS.STATE g := d.state_manualMove ..
  exact Dev.allocate_retract (hmoved.trans hst) u

theorem Dev.capSample_unarmed {d : Dev} {g : Grp} (harm : d.get SRV_CAP_CTRL.ARM g = 0) (x : Vector Int 32) (z : List (Nat × Int))
    (u : List Int) (sat : Bool) : d.capSample g x z u sat = d := by
  unfold Dev.capSample
  rw [Dev.on, harm]
  rfl

theorem Dev.state_window (d : Dev) (g : Grp) (z : List (Nat × Int)) :
    (d.window g z).word SRV_STATUS g = d.word SRV_STATUS g := by
  have hword (e : Dev) (r : Reg) (w : Word) (k : Nat) (hr : r.key ≠ SRV_STATUS.key) :
      (e.setWord r w g k).word SRV_STATUS g = e.word SRV_STATUS g := Dev.word_setWord_of_ne _ _ (RKey.ne_of_key hr)
  unfold Dev.window
  split
  · rfl
  extract_lets s entry xs ys us
  have hxs : xs.word SRV_STATUS g = d.word SRV_STATUS g :=
    Dev.each_keeps (fun d => d.word SRV_STATUS g) _ _ (fun _ _ => hword _ _ _ _ (by decide)) _
  have hys : ys.word SRV_STATUS g = xs.word SRV_STATUS g :=
    Dev.each_keeps (fun d => d.word SRV_STATUS g) _ _ (fun _ _ => hword _ _ _ _ (by decide)) _
  have hus : us.word SRV_STATUS g = ys.word SRV_STATUS g :=
    Dev.each_keeps (fun d => d.word SRV_STATUS g) _ _ (fun _ _ => hword _ _ _ _ (by decide)) _
  exact (Dev.word_set_of_key _ SRV_OBS_CTRL.SEQ _ _ _ _ _ _ (by decide)).trans (hus.trans (hys.trans hxs))

/-- The reference enters no RETRACT. -/
theorem Dev.state_reference {d : Dev} {g : Grp} (h : (d.reference g).get SRV_STATUS.STATE g = 7) :
    d.get SRV_STATUS.STATE g = 7 := by
  unfold Dev.reference at h
  split at h
  · exact h
  extract_lets s tgt e vdec vmag vnew r near reached at h
  split at h
  · split at h
    · rw [Dev.state_enter _ _ (by decide)] at h
      exact absurd h (by decide)
    · exact h
  · exact h

/-- After the frame: nothing of it changes, and RETRACT is what it was sent in. -/
theorem Dev.lawRows_shows {d : Dev} {g : Grp} (harm : d.get SRV_CAP_CTRL.ARM g = 0) (xfer sat flagged : Bool) (z : List (Nat × Int))
    (u : List Int) (x : Vector Int 32) : let t := d.lawRows g xfer sat flagged z u x
    t.sentView g = d.sentView g ∧ (t.get SRV_STATUS.STATE g = 7 → xfer = false ∧ d.get SRV_STATUS.STATE g = 7) := by
  have h := Dev.paced_sentView g
  unfold Dev.lawRows
  extract_lets s warned shown captured entered referred
  have hwarned : warned.sentView g = d.sentView g := Dev.when_keeps (fun d => d.sentView g) _ _ (h.raise _ _ _ _ (by decide))
  have hshown : shown.sentView g = d.sentView g := (h.window ..).trans hwarned
  have harm' : shown.get SRV_CAP_CTRL.ARM g = 0 :=
    (Dev.get_of_word (show shown.word SRV_CAP_CTRL g = _ from congrArg Prod.fst hshown)).trans harm
  have hcaptured : captured = shown := Dev.capSample_unarmed harm' ..
  have hstate : captured.get SRV_STATUS.STATE g = d.get SRV_STATUS.STATE g := by
    rw [hcaptured]
    exact Dev.get_of_word ((warned.state_window g z).trans
      (Dev.word_when _ _ _ _ _ _ (Dev.word_raise_of_key _ SRV_INT_STATUS.SAT _ _ _ _ _ (by decide))))
  have hentered : entered.sentView g = d.sentView g :=
    (Dev.when_keeps (fun d => d.sentView g) _ _ (h.enter ..)).trans ((congrArg (fun d => d.sentView g) hcaptured).trans hshown)
  refine ⟨(h.onSrv _ _ (by exact fun _ => rfl)).trans ((h.reference _).trans hentered), fun hretract => ?_⟩
  have hin : entered.get SRV_STATUS.STATE g = 7 := Dev.state_reference ((Dev.get_onSrv referred g _ _ _ _).symm.trans hretract)
  cases xfer with
  | true =>
    rw [show entered = captured.enter g stSeek from if_pos rfl, captured.state_enter g (by decide)] at hin
    exact absurd hin (by decide)
  | false => exact ⟨rfl, hstate.symm.trans ((show entered = captured from if_neg Bool.false_ne_true) ▸ hin)⟩

/-- What a device shows of a frame that e sent, and of e where it is in RETRACT. -/
structure Dev.Sent (g : Grp) (e t : Dev) : Prop where
  view : t.sentView g = (e.sendDown g false).sentView g
  retract : t.get SRV_STATUS.STATE g = 7 →
    e.get SRV_STATUS.STATE g = 7 ∧ e.srv[g].vcm = 0 ∧ e.srv[g].fine = Vector.replicate 8 0

/-- The law sends one frame, of the capture, count and sequence that it found. -/
theorem Dev.law_sends {d : Dev} {g : Grp} (harm : d.get SRV_CAP_CTRL.ARM g = 0) (man xfer flagged : Bool) :
    ∃ e : Dev, e.sentView g = d.sentView g ∧ Dev.Sent g e (d.law g man xfer flagged) := by
  have hcodes := (Dev.paced_sentView g).lawCodes d man xfer
  have hstate := d.state_lawCodes g man xfer
  have hzero : xfer = false → d.get SRV_STATUS.STATE g = 7 →
      (d.lawCodes g man xfer).srv[g].vcm = 0 ∧ (d.lawCodes g man xfer).srv[g].fine = Vector.replicate 8 0 :=
    fun hx hst => hx ▸ Dev.lawCodes_retract hst man
  obtain ⟨sat, flagged', z, u, x, hlaw⟩ := d.law_eq g man xfer flagged
  rw [hlaw]
  clear hlaw
  generalize d.lawCodes g man xfer = e at *
  have hsent : (e.sendDown g false).get SRV_CAP_CTRL.ARM g = 0 :=
    (Dev.get_of_word (show e.word SRV_CAP_CTRL g = d.word SRV_CAP_CTRL g from congrArg Prod.fst hcodes)).trans harm
  have hkept : (e.sendDown g false).get SRV_STATUS.STATE g = e.get SRV_STATUS.STATE g := rfl
  obtain ⟨hview, hretract⟩ := Dev.lawRows_shows hsent xfer sat flagged' z u x
  refine ⟨e, hcodes, hview, fun h => ?_⟩
  obtain ⟨hx, hin⟩ := hretract h
  rw [hkept] at hin
  exact ⟨hin, hzero hx (hstate.symm.trans hin)⟩

/-- What a transfer's load reports (R147, R224). -/
def Dev.loadReports (d : Dev) (g : Grp) (load : Bool) : Dev :=
  d.when load fun d => ((d.each (headsOf (d.get FMT_LANES.PRESENT g)) fun i d => d.orderHeater g i 4).raise
    SRV_INT_STATUS.LOAD_DONE g).onSrv g fun s => { s with loadCyl := none }

theorem Dev.loadReports_shows (d : Dev) (g : Grp) (load : Bool) : (d.loadReports g load).sentView g = d.sentView g ∧
    (d.loadReports g load).get SRV_STATUS.STATE g = d.get SRV_STATUS.STATE g := by
  have h := Dev.paced_sentView g
  have hview (n : Nat) : (d.each (headsOf n) fun i d => d.orderHeater g i 4).sentView g = d.sentView g :=
    Dev.each_keeps (fun d => d.sentView g) _ _ (fun _ _ => h.orderHeater ..) _
  have hstate (n : Nat) : (d.each (headsOf n) fun i d => d.orderHeater g i 4).get SRV_STATUS.STATE g = d.get SRV_STATUS.STATE g :=
    Dev.get_of_word (Dev.each_keeps (fun d => d.word SRV_STATUS g) _ _ (fun _ _ => (Dev.aloof_word (by decide) g 0).orderHeater ..) _)
  unfold Dev.loadReports Dev.when
  split
  · exact ⟨(h.onSrv _ _ (by exact fun _ => rfl)).trans ((h.raise _ _ _ _ (by decide)).trans (hview _)), (Dev.get_onSrv ..).trans
      ((Dev.get_set_of_key _ SRV_INT_STATUS.LOAD_DONE _ _ _ _ _ _ (by decide)).trans (hstate _))⟩
  · exact ⟨rfl, rfl⟩

theorem Dev.transferLaw_eq (d : Dev) (g : Grp) (cyl : Nat) (i : HeadIx) (r : ServoRec) : d.transferLaw g cyl i r =
    ((d.transferTo g cyl i r).1.law g false true (d.transferTo g cyl i r).2).loadReports g (d.srvState g == stLoading) := rfl

/-- So does a transfer sample's. -/
theorem Dev.transferLaw_sends {d : Dev} {g : Grp} (harm : d.get SRV_CAP_CTRL.ARM g = 0) (cyl : Nat) (i : HeadIx) (r : ServoRec) :
    ∃ e : Dev, e.sentView g = d.sentView g ∧ Dev.Sent g e (d.transferLaw g cyl i r) := by
  have hplaced := (Dev.paced_sentView g).transferTo d cyl i r
  rw [Dev.transferLaw_eq]
  generalize (d.transferTo g cyl i r).1 = placed at *
  have harm' : placed.get SRV_CAP_CTRL.ARM g = 0 :=
    (Dev.get_of_word (show placed.word SRV_CAP_CTRL g = d.word SRV_CAP_CTRL g from congrArg Prod.fst hplaced)).trans harm
  obtain ⟨e, hview, hsent⟩ := Dev.law_sends harm' false true (d.transferTo g cyl i r).2
  generalize placed.law g false true (d.transferTo g cyl i r).2 = t at *
  obtain ⟨hkept, hstate⟩ := t.loadReports_shows g (d.srvState g == stLoading)
  exact ⟨e, hview.trans hplaced, hkept.trans hsent.view, fun hin => hsent.retract (hstate.symm.trans hin)⟩

/-! ### The sample (R196, R204) -/

/-- The engine's sample up to its supervision. -/
def Dev.sampleMeasured (d : Dev) (g : Grp) : Dev :=
  let wl := d.get WLS_STATUS.STATE g
  (((((d.set SRV_STATUS.TIMER (!(wl == 2 || wl == 3)).toNat g).publish).blendNext g).icuSample g).measureAll g).supervise g

/-- Then the band, the commands and the settling. -/
def Dev.sampleLatched (d : Dev) (g : Grp) : Dev :=
  let d := (d.bandSample g).latch g
  (d.when (d.srvState g != stTrack) (·.inhibitNow g)).settle g

/-- The transfer that is due in a sample. -/
def Dev.sampleTransfer (d : Dev) (g : Grp) : Option (Nat × HeadIx × ServoRec) :=
  match d.srv[g].transfer, d.refHead g with
  | some cyl, some (i, r) => some (cyl, i, r)
  | _, _ => none

/-- The law of a sample. -/
def Dev.sampleLaw (d : Dev) (g : Grp) (man : Bool) (xfer : Option (Nat × HeadIx × ServoRec)) : Dev :=
  match xfer with
  | some (cyl, i, r) => d.transferLaw g cyl i r
  | none => d.law g man false false

/-- The engine's counts at the end of a sample. -/
def Dev.sampleCounts (d : Dev) (g : Grp) : Dev :=
  d.onSrv g fun s => { s with recs := [], sampleNo := (s.sampleNo + 1) % 2 ^ 16,
                              wedge := if d.nw = 0 then 0 else (s.wedge + 1) % d.nw }

/-- The end of a sample. -/
def Dev.sampleEnds (d : Dev) (g : Grp) : Dev := (d.when (d.on SRV_ICU_CTRL.RUN g) (·.icuAdvance g)).sampleCounts g

/-- The engine as its law finds it: the sequence is the one that the sample's frame follows. -/
def Dev.sampleReady (d : Dev) (g : Grp) : Dev :=
  (((d.sampleMeasured g).sampleLatched g).loadSample g).onSrv g fun s => { s with seq := d.srv[g].seq }

theorem Dev.sample_eq {d : Dev} {g : Grp} (hst : d.get SRV_STATUS.STATE g ≠ 0) : ∃ man xfer,
    d.sample g = ((d.sampleReady g).sampleLaw g man xfer).sampleEnds g := by
  refine ⟨(d.sampleMeasured g).srvState g == stManual, ((d.sampleMeasured g).sampleLatched g).sampleTransfer g, ?_⟩
  unfold Dev.sample
  rw [if_neg (by simpa [Dev.srvState, stOff] using hst)]
  rfl

theorem Dev.capView_sampleMeasured (d : Dev) (g : Grp) : (d.sampleMeasured g).capView g = d.capView g := by
  have h := Dev.paced_capView g
  exact (Dev.capView_supervise ..).trans ((h.measureAll _).trans ((h.icuSample _).trans ((h.blendNext _).trans
    ((h.publish _).trans (h.set' _ _ _ _ _ (by decide))))))

theorem Dev.capView_sampleLatched (d : Dev) (g : Grp) : (d.sampleLatched g).capView g = d.capView g := by
  have h := Dev.paced_capView g
  unfold Dev.sampleLatched
  extract_lets latched
  have hlatched : latched.capView g = d.capView g := (h.latch _).trans (h.bandSample _)
  exact (h.settle _).trans ((Dev.when_keeps (fun d => d.capView g) _ _ (h.inhibitNow _)).trans hlatched)

/-- What the law finds: the capture, the count and the sequence of the sample's begin. -/
theorem Dev.sampleReady_finds (d : Dev) (g : Grp) : (d.sampleReady g).capView g = d.capView g ∧
    (d.sampleReady g).srv[g].seq = d.srv[g].seq := by
  have hcap : (((d.sampleMeasured g).sampleLatched g).loadSample g).capView g = d.capView g :=
    ((Dev.paced_capView g).loadSample _).trans ((Dev.capView_sampleLatched ..).trans (d.capView_sampleMeasured g))
  unfold Dev.sampleReady
  generalize ((d.sampleMeasured g).sampleLatched g).loadSample g = e at *
  have hsrv := e.srv_onSrv_self g fun s => { s with seq := d.srv[g].seq }
  refine ⟨Eq.trans ?_ hcap, (congrArg Srv.seq hsrv :)⟩
  unfold Dev.capView
  rw [hsrv, Dev.word_onSrv]

theorem Dev.sampleLaw_sends {d : Dev} {g : Grp} (harm : d.get SRV_CAP_CTRL.ARM g = 0) (man : Bool)
    (xfer : Option (Nat × HeadIx × ServoRec)) : ∃ e : Dev, e.sentView g = d.sentView g ∧ Dev.Sent g e (d.sampleLaw g man xfer) :=
  match xfer with
  | some (cyl, i, r) => Dev.transferLaw_sends harm cyl i r
  | none => Dev.law_sends harm man false false

theorem Dev.sampleCounts_shows (d : Dev) (g : Grp) : let t := d.sampleCounts g
    t.srv[g].recs = [] ∧ t.srv[g].sampleNo = (d.srv[g].sampleNo + 1) % 2 ^ 16 ∧ t.srv[g].cap.fifo = d.srv[g].cap.fifo ∧
      t.srv[g].seq = d.srv[g].seq ∧ t.srv[g].frame = d.srv[g].frame ∧ t.get SRV_STATUS.STATE g = d.get SRV_STATUS.STATE g := by
  have hsrv := d.srv_onSrv_self g fun s => { s with
    recs := [], sampleNo := (s.sampleNo + 1) % 2 ^ 16, wedge := if d.nw = 0 then 0 else (s.wedge + 1) % d.nw }
  exact ⟨(congrArg Srv.recs hsrv :), (congrArg Srv.sampleNo hsrv :), (congrArg (·.cap.fifo) hsrv :), (congrArg Srv.seq hsrv :),
    (congrArg Srv.frame hsrv :), Dev.get_onSrv ..⟩

/-- The end of a sample: no records are left, the count has advanced, and the frame is the one that was sent. -/
theorem Dev.sampleEnds_shows (d : Dev) (g : Grp) : let t := d.sampleEnds g
    t.srv[g].recs = [] ∧ t.srv[g].sampleNo = (d.srv[g].sampleNo + 1) % 2 ^ 16 ∧ t.srv[g].cap.fifo = d.srv[g].cap.fifo ∧
      t.srv[g].seq = d.srv[g].seq ∧ t.srv[g].frame = d.srv[g].frame ∧ t.get SRV_STATUS.STATE g = d.get SRV_STATUS.STATE g := by
  have hkept : (d.when (d.on SRV_ICU_CTRL.RUN g) (·.icuAdvance g)).sentView g = d.sentView g :=
    Dev.when_keeps (fun d => d.sentView g) _ _ ((Dev.paced_sentView g).icuAdvance _)
  have hstate : (d.when (d.on SRV_ICU_CTRL.RUN g) (·.icuAdvance g)).get SRV_STATUS.STATE g = d.get SRV_STATUS.STATE g :=
    Dev.when_keeps (fun d => d.get SRV_STATUS.STATE g) (d.on SRV_ICU_CTRL.RUN g) (·.icuAdvance g) (Dev.get_onSrv ..)
  unfold Dev.sampleEnds
  generalize d.when (d.on SRV_ICU_CTRL.RUN g) (·.icuAdvance g) = e at *
  have hsent : e.srv[g].sent = d.srv[g].sent := congrArg Prod.snd hkept
  unfold Srv.sent at hsent
  injection hsent with hcount hsent
  injection hsent with hfifo hsent
  injection hsent with hseq hframe
  rw [← hcount, ← hfifo, ← hseq, ← hframe, ← hstate]
  exact e.sampleCounts_shows g

/-! ### The frame (R226, R243) -/

theorem length_beBytes (n v : Nat) : (beBytes n v).length = n := by rw [beBytes, List.length_map, List.length_range]

/-- The 25 bytes of a frame that its CRC is over. -/
def Dev.frameBody (d : Dev) (g : Grp) (rpt : Bool) : List Byte :=
  BitVec.ofNat 8 (16 + d.srv[g].seq % 16) ::
    BitVec.ofNat 8 ((d.srvState g != stOff && d.srvState g != stParked).toNat +
      2 * (d.srvState g == stRetract || d.on SRV_LINK_STATUS.FAULT g).toNat + 4 * rpt.toNat) ::
    beBytes 23 (pack20 (d.srv[g].vcm :: d.srv[g].fine.toList) * 16)

theorem Dev.frameBytes_eq (d : Dev) (g : Grp) (rpt : Bool) :
    d.frameBytes g rpt = d.frameBody g rpt ++ beBytes 2 (crc16 (d.frameBody g rpt)).toNat := rfl

theorem Dev.length_frameBody (d : Dev) (g : Grp) (rpt : Bool) : (d.frameBody g rpt).length = 25 := by
  rw [Dev.frameBody, List.length_cons, List.length_cons, length_beBytes]

/-- In RETRACT with every code 0: ENABLE and RETRACT, and no code. -/
theorem Dev.frameBody_retract {d : Dev} {g : Grp} (hst : d.get SRV_STATUS.STATE g = 7) (hvcm : d.srv[g].vcm = 0)
    (hfine : d.srv[g].fine = Vector.replicate 8 0) :
    d.frameBody g false = BitVec.ofNat 8 (16 + d.srv[g].seq % 16) :: 3 :: List.replicate 23 0 := by
  unfold Dev.frameBody Dev.srvState
  rw [hst, hvcm, hfine]
  have hcodes : beBytes 23 (pack20 (0 :: (Vector.replicate 8 (0 : Int)).toList) * 16) = List.replicate 23 0 := by decide
  rw [hcodes]
  rfl

/-- A frame that is sent: the next sequence number, and a body of it. -/
theorem Dev.sendDown_frame (d : Dev) (g : Grp) : ∃ e : Dev, (d.sendDown g false).srv[g].seq = e.srv[g].seq ∧
    (d.sendDown g false).srv[g].frame = e.frameBytes g false ∧ e.srv[g] = { d.srv[g] with seq := (d.srv[g].seq + 1) % 16 } ∧
    e.get SRV_STATUS.STATE g = d.get SRV_STATUS.STATE g := by
  have hnext := d.srv_onSrv_self g fun s => { s with seq := (s.seq + 1) % 16 }
  have hstate := d.get_onSrv g (fun s => { s with seq := (s.seq + 1) % 16 }) SRV_STATUS.STATE g 0
  have hsent : d.sendDown g false = (d.onSrv g fun s => { s with seq := (s.seq + 1) % 16 }).onSrv g fun s =>
    { s with frame := (d.onSrv g fun s => { s with seq := (s.seq + 1) % 16 }).frameBytes g false, repeated := false } := rfl
  rw [hsent]
  generalize d.onSrv g (fun s => { s with seq := (s.seq + 1) % 16 }) = e at *
  have hsrv := e.srv_onSrv_self g fun s => { s with frame := e.frameBytes g false, repeated := false }
  exact ⟨e, (congrArg Srv.seq hsrv :), (congrArg Srv.frame hsrv :), hnext, hstate⟩

/-- What the frame that an engine has sent reads. -/
structure Srv.Framed (s : Srv) (retract : Prop) : Prop where
  head : s.frame[0]? = some (BitVec.ofNat 8 (16 + s.seq))
  crc : s.frame.drop 25 = beBytes 2 (crc16 (s.frame.take 25)).toNat
  body : retract → s.frame.take 25 = BitVec.ofNat 8 (16 + s.seq) :: 3 :: List.replicate 23 0

/-- An engine that shows a frame that was sent. -/
theorem Dev.Sent.framed {g : Grp} {d t : Dev} (h : Dev.Sent g d t) :
    t.srv[g].seq = (d.srv[g].seq + 1) % 16 ∧ t.srv[g].Framed (t.get SRV_STATUS.STATE g = 7) := by
  obtain ⟨e, hseq, hframe, hsrv, hstate⟩ := d.sendDown_frame g
  have hsent : t.srv[g].sent = (d.sendDown g false).srv[g].sent := congrArg Prod.snd h.view
  unfold Srv.sent at hsent
  injection hsent with _ hsent
  injection hsent with _ hsent
  injection hsent with hseq' hframe'
  have hnext : e.srv[g].seq = (d.srv[g].seq + 1) % 16 := by rw [hsrv]
  have hmod : e.srv[g].seq % 16 = e.srv[g].seq := by rw [hnext, Nat.mod_mod]
  have htake : (e.frameBytes g false).take 25 = e.frameBody g false := by
    rw [Dev.frameBytes_eq, List.take_left' (e.length_frameBody g false)]
  have hdrop : (e.frameBytes g false).drop 25 = beBytes 2 (crc16 (e.frameBody g false)).toNat := by
    rw [Dev.frameBytes_eq, List.drop_left' (e.length_frameBody g false)]
  have hseqs := hseq'.trans hseq
  have hframes := hframe'.trans hframe
  refine ⟨hseqs.trans hnext, ?_, ?_, fun hin => ?_⟩
  · rw [hframes, hseqs, ← hmod]
    rfl
  · rw [hframes, htake, hdrop]
  · obtain ⟨hst, hvcm, hfine⟩ := h.retract hin
    rw [hframes, hseqs, htake, Dev.frameBody_retract (hstate.trans hst) (by rw [hsrv]; exact hvcm) (by rw [hsrv]; exact hfine), hmod]

/-! ### SERVO_SAMPLE -/

/-- A stream takes nothing of a FIFO that is empty. -/
theorem Dev.drainStream_empty {d : Dev} {g : Grp} (hfifo : d.srv[g].cap.fifo = []) : ∃ cap,
    (d.drainStream g).srv[g] = { d.srv[g] with cap := cap } ∧ (d.drainStream g).get SRV_STATUS.STATE g = d.get SRV_STATUS.STATE g := by
  unfold Dev.drainStream
  split
  · exact ⟨_, rfl, rfl⟩
  · extract_lets pos recs n drained
    have hnone : (recs.take n).zipIdx = [] := by rw [show recs = [] from hfifo, List.take_nil, List.zipIdx_nil]
    have hdrained : drained = d := by
      simp only [drained, hnone]
      rfl
    rw [hdrained]
    refine ⟨_, Dev.srv_onSrv_self d g _, ?_⟩
    exact (Dev.get_set_of_key _ SHU_CH_POS.BYTES _ _ _ _ _ _ (by decide)).trans (Dev.get_onSrv ..)

/-- A sample of a group that is not off, with no capture armed. -/
theorem Dev.sample_shows {d : Dev} {g : Grp} (hst : d.get SRV_STATUS.STATE g ≠ 0) (harm : d.get SRV_CAP_CTRL.ARM g = 0) :
    let t := d.sample g
    t.srv[g].recs = [] ∧ t.srv[g].sampleNo = (d.srv[g].sampleNo + 1) % 2 ^ 16 ∧ t.srv[g].cap.fifo = d.srv[g].cap.fifo ∧
      t.srv[g].seq = (d.srv[g].seq + 1) % 16 ∧ t.srv[g].Framed (t.get SRV_STATUS.STATE g = 7) := by
  obtain ⟨hcap, hseq⟩ := d.sampleReady_finds g
  obtain ⟨man, xfer, hsample⟩ := Dev.sample_eq hst
  rw [hsample]
  generalize d.sampleReady g = ready at *
  have harm' : ready.get SRV_CAP_CTRL.ARM g = 0 :=
    (Dev.get_of_word (show ready.word SRV_CAP_CTRL g = d.word SRV_CAP_CTRL g from congrArg Prod.fst hcap)).trans harm
  obtain ⟨e, hview, hsent⟩ := Dev.sampleLaw_sends harm' man xfer
  generalize ready.sampleLaw g man xfer = sent at *
  have hkept : sent.capView g = d.capView g :=
    (Dev.capView_of_sentView hsent.view).trans ((e.capView_sendDown g).trans ((Dev.capView_of_sentView hview).trans hcap))
  have hcount : sent.srv[g].sampleNo = d.srv[g].sampleNo := congrArg (·.2.1) hkept
  have hfifo : sent.srv[g].cap.fifo = d.srv[g].cap.fifo := congrArg (·.2.2) hkept
  have hbefore : e.srv[g].seq = ready.srv[g].seq := congrArg (·.2.2.2.1) hview
  obtain ⟨hnext, hhead, hcrc, hbody⟩ := hsent.framed
  obtain ⟨hrecs, hcount', hfifo', hseq', hframe', hstate⟩ := sent.sampleEnds_shows g
  refine ⟨hrecs, hcount'.trans (by rw [hcount]), hfifo'.trans hfifo, hseq'.trans (by rw [hnext, hbefore, hseq]), ?_⟩
  rw [hstate]
  exact ⟨by rw [hframe', hseq', hhead], by rw [hframe', hcrc], fun h => by rw [hframe', hseq', hbody h]⟩

/-- Settles O28: a record is the engine's update, and a sample takes its records, counts, and sends the frame of its law. -/
theorem servoSampleFrame : Obligations.ServoSampleFrame := by
  refine ⟨fun s g i r hc hst hruns => completes_of_runIn rfl hc ?_, fun s g i r hruns => completes_of_run rfl ?_,
    fun s g hc hst harm hfifo => completes_of_runIn rfl hc ?_⟩
  · rw [if_neg (by simpa [Dev.srvState, stOff, hruns] using hst)]
    exact ⟨congrArg Srv.recs (Dev.srv_onSrv_self ..), rfl⟩
  · split
    · exact if_pos (by simp [hruns])
    · rfl
  · obtain ⟨hrecs, hcount, hfifo', hseq, hhead, hcrc, hbody⟩ := Dev.sample_shows hst harm
    obtain ⟨cap, hsrv, hstate⟩ := Dev.drainStream_empty (hfifo'.trans hfifo)
    rw [hsrv, hstate]
    exact ⟨hseq, hrecs, hcount, hhead, hcrc, hbody⟩

end Sys2Proof.Machine
end
